-- ==== Sys2Proof/Word.lean ====
section
/-! DEFINITION. The widths of the Dzihal D384: bytes, register words, doublewords, operand codes (spec/02 R31, R36, R37; spec/00 R4). -/

namespace Sys2Proof

/-- One byte of memory (00 R4). -/
abbrev Byte := BitVec 8

/-- A 32-bit vector register (02 R37). -/
abbrev Word := BitVec 32

/-- A 64-bit value: a register pair, an address, an instruction word (00 R4, 02 R29). -/
abbrev Dword := BitVec 64

/-- A 128-bit value: four registers, the largest memory access (09 R188). -/
abbrev Qword := BitVec 128

/-- An 11-bit operand code (02 R36). -/
abbrev Code := BitVec 11

/-- The flags of FPFLAGS [6:0] (02 R54). -/
abbrev Flags := BitVec 7

end Sys2Proof
end

