-- ==== Sys2Proof/Config.lean ====
section
/-! DEFINITION. What the spec fixes once for the device, and the values it leaves open: each open value is an opaque constant, applied to the counter of choices that State holds and to what the value depends on (log 4). -/

namespace Sys2Proof.Config

/-- Cores for user work (01 R9). -/
def cores : Nat := 384

/-- Quads (01 R9). -/
def quads : Nat := 96

/-- Compute dies (01 R7). -/
def dies : Nat := 8

/-- Device physical addresses are below 2^39 (14 R308). -/
def hbmBytes : Nat := 2 ^ 39

/-- Ticks of the model's clock per ns of device time (log 3). -/
def ticksPerNs : Nat := 504

/-- Ticks of a core cycle at each clock level (01 R19, 19 R395): 2.1, 1.8, 1.4 and 0.9 GHz. -/
def coreTicks (level : BitVec 2) : Nat :=
  match level.toNat with
  | 0 => 240
  | 1 => 280
  | 2 => 360
  | _ => 560

/-- Ticks of a plinth cycle, 1.6 GHz (01 R19). -/
def plinthTicks : Nat := 315

/-- What a byte of memory that nothing has written reads as (log 6). -/
def blankByte : Byte := 0

/-- Free value: a read of a released register (02 R50): 0 the last value, 1 another thread's, anything else zero. -/
opaque releasedChoice : Nat → Nat → Nat → Nat

/-- Free value: which other thread of the row a released read takes its value from (02 R50). -/
opaque releasedLane : Nat → Nat → Nat → Nat

/-- Free value: a free choice of the device where a rule gives it one, as a number. -/
opaque pick : Nat → Nat

/-- Free value: a byte the spec leaves undefined (13 R300, 16 R360). -/
opaque freeByte : Nat → Nat → Byte

/-- Free value: a word the spec leaves undefined (13 R300). -/
opaque freeWord : Nat → Nat → Word

/-- Free value: the correctly rounded value of a special function where the model's enclosure does not decide it (08 R178, log 20): function number, operand, rounding. -/
opaque sfuValue : Nat → Word → Word

/-- Free value: the boot ROM's own stage of firmware verifies against the fused key digest (19 R399, step 2). -/
opaque bootVerifies : Nat → Bool

/-- Free value: whether the LMS signature over the header of the image at an address of host memory verifies, its root key chained to the fuses (19 R401). The memory is given as its bytes by address. -/
opaque fwSigned : List (Nat × Byte) → Dword → Bool

/-- Free value: the version in the header of the image at an address of host memory (19 R401): the spec gives the header no layout. -/
opaque fwVersion : List (Nat × Byte) → Dword → Word

/-- Free value: the digest that the header carries of a part of the image: 0 the Registrar, 1 core microcode, 2 plinth firmware (19 R401). -/
opaque fwHeader : List (Nat × Byte) → Dword → Nat → BitVec 256

/-- Free value: the bytes of a part of the image, numbered as in `fwHeader` (19 R401). -/
opaque fwPart : List (Nat × Byte) → Dword → Nat → List Byte

/-- Free value: SHA-256, which the spec names and does not give (19 R401, 15 R351). -/
opaque sha256 : List Byte → BitVec 256

/-- Free value: the minimum version in the fuses (19 R401). -/
opaque fusedMinimum : Nat

end Sys2Proof.Config
end

