-- ==== Sys2Proof/Syntax.lean ====
section
/-! DEFINITION. The instructions of the Dzihal D384: the four word formats bit by bit (spec/02 R30 to R34) and one constructor for every row of spec/opcode_table.json. The first 160 rows are instruction words (CONSERVATOR_COMMIT apart), the others are the events of the device's agents; an event's operands are the choice the device makes or what the host or the fabric gives. -/

namespace Sys2Proof

/-- Type codes of F0 words, in the order of their codes 0 to 15 (02 R40). -/
inductive Ty where
  | i32 | n32 | i64 | n64 | i16 | n16 | f32 | bf16
  | bf16x2 | f16x2 | e4m3n | e5m2n | qn4 | e2m1 | i4 | n4
  deriving DecidableEq, Repr

/-- The guard of F0, F1 and F2 words: predicate g and negate bit gn (02 R41). -/
structure Guard where
  p : BitVec 3
  neg : Bool
  deriving DecidableEq, Repr

/-- The full register form (02 R31). `la` is the lookahead, `ma` and `mb` the last-read marks, `x` the modifiers. -/
structure F0 where
  d : Code
  a : Code
  b : Code
  g : Guard
  la : BitVec 4
  ma : Bool
  mb : Bool
  ty : Ty
  x : BitVec 5
  deriving DecidableEq, Repr

/-- The immediate form (02 R32). -/
structure F1 where
  d : Code
  a : Code
  imm : BitVec 16
  g : Guard
  la : BitVec 4
  ma : Bool
  x : BitVec 5
  deriving DecidableEq, Repr

/-- The long form of MOVI, BRA and CALL (02 R33). -/
structure F2 where
  d : Code
  g : Guard
  x : BitVec 5
  imm : Word
  deriving DecidableEq, Repr

/-- One half of the paired form F3 (02 R34); `low` is the reserved field [3:0]. -/
structure Half where
  op7 : BitVec 7
  dst : BitVec 8
  src : BitVec 8
  m : Bool
  ty : BitVec 3
  low : BitVec 4
  deriving DecidableEq, Repr

/-- One constructor per row of spec/opcode_table.json. -/
inductive Instr where
  /-- NOP (R158). Has no effect and does not end the dispatch. -/
  | nop (w : F0)
  /-- BRA (R159). Sends each thread whose guard holds to the instruction's address plus a signed word offset, and ends the dispatch. -/
  | bra (w : F2)
  /-- JMP (R159). Sends each thread whose guard holds to the 64-bit target in a register pair, and ends the dispatch. -/
  | jmp (w : F0)
  /-- CALL (R159). Pushes the return address on the thread's return stack and branches by a signed word offset. -/
  | call (w : F2)
  /-- CALLI (R159). Pushes the return address and branches to the target held in a register pair. -/
  | calli (w : F0)
  /-- RET (R160). Pops the return stack, refilling from the spill area if needed, and continues each thread at its own return address. -/
  | ret (w : F0)
  /-- EXIT (R160). Makes each thread whose guard holds exited, lands its held writes and discards its queues and return entries. -/
  | exit (w : F0)
  /-- ROWBLK (R161). As the first instruction of a dispatch, makes it a row-block dispatch, admitting rows under the join rule; anywhere else it ends the dispatch before itself. -/
  | rowblk (w : F1)
  /-- YIELD (R162). Ends the dispatch and marks the entry at the following address as yielded. -/
  | yield (w : F0)
  /-- NAP (R163). Blocks each thread whose guard holds for the given number of core cycles at the following address. -/
  | nap (w : F1)
  /-- TRAP (R164). Raises fault TRAP with its immediate for each thread whose guard holds. -/
  | trap (w : F1)
  /-- BRK (R164). Raises BREAKPOINT, halting the thread for the debugger under DEBUG, and otherwise going to containment. -/
  | brk (w : F0)
  /-- ADD (R170). Adds two 32-bit register values mod 2^32. -/
  | add (w : F0)
  /-- ADD_IMM (R170). Adds a widened 16-bit immediate to a register (F1 form). -/
  | addImm (w : F1)
  /-- SUB (R170). Subtracts two 32-bit register values mod 2^32. -/
  | sub (w : F0)
  /-- SUB_IMM (R170). Subtracts a widened 16-bit immediate from a register (F1 form). -/
  | subImm (w : F1)
  /-- ADDSAT (R170). Adds or subtracts with saturation to the type's limits, raising SAT when clamped. -/
  | addsat (w : F0)
  /-- MUL (R170). Writes the low 32 bits of the product. -/
  | mul (w : F0)
  /-- MUL_IMM (R170). Multiplies by a widened 16-bit immediate (F1 form). -/
  | mulImm (w : F1)
  /-- MULHI (R170). Writes the high 32 bits of the signed or unsigned product. -/
  | mulhi (w : F0)
  /-- MAD (R170). Writes A times B plus the old destination, mod 2^32. -/
  | mad (w : F0)
  /-- MADW (R170). Accumulates the full product into a 64-bit register pair. -/
  | madw (w : F0)
  /-- MIN (R170). Writes the lesser value, 32- or 64-bit. -/
  | min (w : F0)
  /-- MIN_IMM (R170). Writes the lesser of a register and a widened immediate (F1 form, 32-bit). -/
  | minImm (w : F1)
  /-- MAX (R170). Writes the greater value, 32- or 64-bit. -/
  | max (w : F0)
  /-- MAX_IMM (R170). Writes the greater of a register and a widened immediate (F1 form, 32-bit). -/
  | maxImm (w : F1)
  /-- ABS (R170). Writes the absolute value of a signed 32-bit value. -/
  | abs (w : F0)
  /-- NEG (R170). Writes zero minus A. -/
  | neg (w : F0)
  /-- DOT4 (R170). Adds the four byte products of A and B to the old destination. -/
  | dot4 (w : F0)
  /-- ADD64 (R170). Adds two 64-bit register pairs. -/
  | add64 (w : F0)
  /-- SUB64 (R170). Subtracts two 64-bit register pairs. -/
  | sub64 (w : F0)
  /-- AND (R171). Bitwise AND. -/
  | and (w : F0)
  /-- AND_IMM (R171). Bitwise AND with a widened immediate (F1 form). -/
  | andImm (w : F1)
  /-- OR (R171). Bitwise OR. -/
  | or (w : F0)
  /-- OR_IMM (R171). Bitwise OR with a widened immediate (F1 form). -/
  | orImm (w : F1)
  /-- XOR (R171). Bitwise XOR. -/
  | xor (w : F0)
  /-- XOR_IMM (R171). Bitwise XOR with a widened immediate (F1 form). -/
  | xorImm (w : F1)
  /-- ANDN (R171). Writes A AND NOT B. -/
  | andn (w : F0)
  /-- NOT (R171). Writes the bitwise complement of A. -/
  | not (w : F0)
  /-- SHL (R171). Shifts left; 0 for amounts of 32 or more. -/
  | shl (w : F0)
  /-- SHL_IMM (R171). Shifts left by a widened immediate (F1 form). -/
  | shlImm (w : F1)
  /-- SHR (R171). Logical right shift; 0 for amounts of 32 or more. -/
  | shr (w : F0)
  /-- SHR_IMM (R171). Logical right shift by a widened immediate (F1 form). -/
  | shrImm (w : F1)
  /-- SAR (R171). Arithmetic right shift by at most 31. -/
  | sar (w : F0)
  /-- SAR_IMM (R171). Arithmetic right shift by a widened immediate (F1 form). -/
  | sarImm (w : F1)
  /-- ROL (R171). Rotates A left by B mod 32. -/
  | rol (w : F0)
  /-- BFX (R171). Extracts a bit field, sign- or zero-extended. -/
  | bfx (w : F0)
  /-- BFI (R171). Inserts a bit field of A into the old destination. -/
  | bfi (w : F0)
  /-- POPC (R171). Counts the 1 bits of A. -/
  | popc (w : F0)
  /-- CLZ (R171). Counts the leading zero bits of A. -/
  | clz (w : F0)
  /-- BREV (R171). Reverses the bits of A. -/
  | brev (w : F0)
  /-- PRMT (R171). Permutes bytes of A and B under selectors held in the destination. -/
  | prmt (w : F0)
  /-- SHL64 (R171). Shifts a 64-bit pair left. -/
  | shl64 (w : F0)
  /-- SHR64 (R171). Shifts a 64-bit pair right, arithmetic or logical. -/
  | shr64 (w : F0)
  /-- SETP (R172). Writes a predicate from an integer comparison, recording a constraint inside an atomic region. -/
  | setp (w : F0)
  /-- SETP_IMM (R172). Compares a register with a widened immediate into a predicate (F1 form). -/
  | setpImm (w : F1)
  /-- PLOP (R172). Combines predicates with a logical operation. -/
  | plop (w : F0)
  /-- SEL (R172). Selects A or B under a predicate. -/
  | sel (w : F0)
  /-- MOV (R172). Copies a register's bits unchanged. -/
  | mov (w : F0)
  /-- PTOV (R172). Copies p0 to p7 into a vector register. -/
  | ptov (w : F0)
  /-- VTOP (R172). Sets p0 to p6 from the low bits of a register. -/
  | vtop (w : F0)
  /-- LEA (R172). Adds a shifted, extended 32-bit value to a 64-bit pair. -/
  | lea (w : F0)
  /-- LEA_IMM (R172). Adds a shifted immediate to a 64-bit pair (F1 form). -/
  | leaImm (w : F1)
  /-- MOVI (R173). Writes a 32-bit immediate to a register. -/
  | movi (w : F2)
  /-- MOVI_W (R173). Writes a sign-extended 32-bit immediate to a register pair. -/
  | moviW (w : F2)
  /-- PAIR (R34). Executes two two-operand halves of an F3 word, reading all operands before either writes. -/
  | pair (h0 h1 : Half)
  /-- FADD (R174). Floating-point addition rounded once. -/
  | fadd (w : F0)
  /-- FSUB (R174). Floating-point subtraction rounded once. -/
  | fsub (w : F0)
  /-- FMUL (R174). Floating-point multiplication rounded once. -/
  | fmul (w : F0)
  /-- FFMA (R174). Fused multiply-add into the destination with one rounding. -/
  | ffma (w : F0)
  /-- FSCALE (R174). Multiplies A by 2 to an integer power. -/
  | fscale (w : F0)
  /-- FDOT2 (R174). Adds a two-element packed dot product to an FP32 destination with one rounding. -/
  | fdot2 (w : F0)
  /-- FDIV (R174). Correctly rounded FP32 division; long-latency. -/
  | fdiv (w : F0)
  /-- FSQRT (R174). Correctly rounded FP32 square root; long-latency. -/
  | fsqrt (w : F0)
  /-- FMIN (R175). IEEE minimumNumber. -/
  | fmin (w : F0)
  /-- FMAX (R175). IEEE maximumNumber. -/
  | fmax (w : F0)
  /-- FAMAX (R175). Writes the larger magnitude, or NaN if either input is NaN. -/
  | famax (w : F0)
  /-- FSETP (R176). Writes a predicate from an FP32 comparison. -/
  | fsetp (w : F0)
  /-- FRND (R177). Rounds to an integral value in the same format. -/
  | frnd (w : F0)
  /-- FCLASS (R177). Writes the one-hot class of A. -/
  | fclass (w : F0)
  /-- FFREXP (R177). Writes the fraction or the exponent of A. -/
  | ffrexp (w : F0)
  /-- FRCP (R178). Correctly rounded reciprocal; long-latency. -/
  | frcp (w : F0)
  /-- FRSQ (R178). Correctly rounded reciprocal square root; long-latency. -/
  | frsq (w : F0)
  /-- FEXP2 (R178). Correctly rounded 2^A; long-latency. -/
  | fexp2 (w : F0)
  /-- FLOG2 (R178). Correctly rounded log2 A; long-latency. -/
  | flog2 (w : F0)
  /-- FSIN (R178). Correctly rounded sine with exact reduction; long-latency. -/
  | fsin (w : F0)
  /-- FCOS (R178). Correctly rounded cosine with exact reduction; long-latency. -/
  | fcos (w : F0)
  /-- FTANH (R178). Correctly rounded tanh; long-latency. -/
  | ftanh (w : F0)
  /-- FSIGM (R178). Correctly rounded logistic sigmoid; long-latency. -/
  | fsigm (w : F0)
  /-- CVT (R179). Converts one value between types under the rounding field. -/
  | cvt (w : F0)
  /-- CVTSR (R180). Rounds FP32 stochastically with an explicit counter. -/
  | cvtsr (w : F0)
  /-- PACK (R181). Converts two values into two elements of a packed register. -/
  | pack (w : F0)
  /-- UNPACK (R181). Converts one element of a packed register exactly to full width. -/
  | unpack (w : F0)
  /-- QSCALE (R182). Computes the QN4 block scale for an amax and a superscale. -/
  | qscale (w : F0)
  /-- QENC (R182). Encodes a value as a QN4 code into one nibble. -/
  | qenc (w : F0)
  /-- QDEC (R182). Decodes one QN4 nibble to FP32. -/
  | qdec (w : F0)
  /-- VOTE (R183). Computes any, all or uniform over the active lanes' predicates. -/
  | vote (w : F0)
  /-- BALLOT (R183). Writes the bit mask of active lanes whose predicate is true. -/
  | ballot (w : F0)
  /-- MATCH (R183). Writes the mask of active lanes holding the same value. -/
  | matchLanes (w : F0)
  /-- SHFL (R183). Reads a value from another active lane by index, up, down or xor. -/
  | shfl (w : F0)
  /-- REDL (R184). Reduces the active lanes in a fixed tree and writes the result to each. -/
  | redl (w : F0)
  /-- SCANL (R184). Computes an inclusive or exclusive scan over the active lanes. -/
  | scanl (w : F0)
  /-- LD (R192). Loads from a space after the address checks, landing as a held write under lookahead. -/
  | ld (w : F1)
  /-- ST (R192). Checks the address and queues the store, which drains afterwards. -/
  | st (w : F1)
  /-- LDQ (R192). Reserves a queue entry and loads into it asynchronously. -/
  | ldq (w : F1)
  /-- PREF (R194). Prefetches a line to a cache level, or asks the Registrar to stage the page; never faults. -/
  | pref (w : F1)
  /-- LTSET (R200). Writes a checked layout-table entry and invalidates every cached copy. -/
  | ltset (w : F0)
  /-- LTGET (R200). Reads a layout-table entry into 16 registers. -/
  | ltget (w : F0)
  /-- LDT (R202). Loads 4, 8 or 16 bytes of tensor elements or scales through a layout entry. -/
  | ldt (w : F0)
  /-- STT (R202). Stores 4, 8 or 16 bytes of tensor elements or scales through a layout entry. -/
  | stt (w : F0)
  /-- TPREF (R203). Submits a tensor-window request to the prefetch engine. -/
  | tpref (w : F0)
  /-- BIND (R205). Writes a binding of an address range to a barrier or lock word at a scope. -/
  | bind (w : F0)
  /-- UNBIND (R206). Marks a binding-table entry unused. -/
  | unbind (w : F0)
  /-- FENCE (R207). Performs earlier accesses at the scope, invalidates the whole L1, and is an FP delivery point. -/
  | fence (w : F0)
  /-- CINV (R208). Invalidates the L1 lines of a range. -/
  | cinv (w : F0)
  /-- CWB (R208). Writes dirty die-cache and LLC copies of a range to backing store at fabric scope. -/
  | cwb (w : F0)
  /-- PIN (R209). Fills a range into the LLC and holds it for 1 ms, returning a status. -/
  | pin (w : F0)
  /-- UNPIN (R209). Releases the group's pins lying within a range. -/
  | unpin (w : F0)
  /-- SPMAP (R210). Registers a scratchpad window over a global range. -/
  | spmap (w : F0)
  /-- SPUNMAP (R210). Writes a window's bytes back to its page and removes the window. -/
  | spunmap (w : F0)
  /-- ATOM (R213). Performs an indivisible read-modify-write on a lock word, returning the old value. -/
  | atom (w : F0)
  /-- CAS (R214). Compares and swaps a lock word indivisibly. -/
  | cas (w : F0)
  /-- RED (R215). Performs an indivisible reduction on a lock word without a result. -/
  | red (w : F0)
  /-- ENQ (R216). Enqueues an entry on a ring control block indivisibly. -/
  | enq (w : F0)
  /-- DEQ (R216). Dequeues an entry from a ring control block indivisibly. -/
  | deq (w : F0)
  /-- ABEGIN (R222). Begins or nests an atomic region, asking for the region lock on an exclusive attempt. -/
  | abegin (w : F1)
  /-- ACOMMIT (R230). Unnests a region, or passes the outermost commit request to the conservator. -/
  | acommit (w : F0)
  /-- AABORT (R235). Aborts the whole region with cause EXPLICIT. -/
  | aabort (w : F0)
  /-- CONSERVATOR_COMMIT (R231). Once the tracked lines are HELD, the conservator checks the read words and constraints and commits repaired stores or aborts, indivisibly. -/
  | conservatorCommit (grp tid : Nat)
  /-- BARRIVE (R253). Releases bound data, arrives on a barrier and returns the token of the phase joined. -/
  | barrive (w : F0)
  /-- BSYNC (R253). Arrives on a barrier and waits on the joined phase, ending the dispatch. -/
  | bsync (w : F0)
  /-- BWAIT (R253). Completes at once on a passed token or blocks until the named phase flips. -/
  | bwait (w : F0)
  /-- BEXPECT (R253). Adds expected bytes to the open phase of a barrier. -/
  | bexpect (w : F0)
  /-- BTEST (R253). Tests without blocking whether a token's phase has passed. -/
  | btest (w : F0)
  /-- BTEST_CUR (R253). Returns the token of a barrier's open phase. -/
  | btestCur (w : F0)
  /-- MMA (R288). Submits a tile multiply-accumulate of an A tile and a vitrine slot into an accumulator. -/
  | mma (w : F0)
  /-- MZERO (R290). Submits an array command that zeroes an accumulator. -/
  | mzero (w : F0)
  /-- MRNG (R290). Sets the group's generator key. -/
  | mrng (w : F0)
  /-- MLDB (R291). Submits a load of a B tile into a vitrine slot. -/
  | mldb (w : F0)
  /-- MDRAIN (R293). Submits a drain of an accumulator through an epilogue to a tensor. -/
  | mdrain (w : F0)
  /-- CPY (R303). Appends a copy block to a channel and returns its sequence number. -/
  | cpy (w : F0)
  /-- CPYX (R303). Appends a converting copy block to a channel and returns its sequence number. -/
  | cpyx (w : F0)
  /-- CPYWP (R305). Reads the gang's write pointer of a channel as an acquire. -/
  | cpywp (w : F0)
  /-- CPYSEQ (R305). Reads the gang's completion count of a channel. -/
  | cpyseq (w : F0)
  /-- CPYSEQ_STAT (R305). Reads and clears the channel's cancel and failure status words. -/
  | cpyseqStat (w : F0)
  /-- CPYCAN (R305). Cancels the gang's unstarted commands on a channel. -/
  | cpycan (w : F0)
  /-- PGSTAT (R334). Reads a page's entry, lease state, counter and pins without faulting. -/
  | pgstat (w : F0)
  /-- LEASEQ (R335). Reads the state, LID and expiry of a lease by index. -/
  | leaseq (w : F0)
  /-- LEASEQ_VA (R335). Reads the lease covering an address's region. -/
  | leaseqVa (w : F0)
  /-- PGHINT (R336). Sets the eviction hint of pooled and shared pages in a range. -/
  | pghint (w : F0)
  /-- CSRR (R55). Reads a status register, clearing RELOC when it is read. -/
  | csrr (w : F1)
  /-- CSRW (R56). Writes a status register in pack and lane order. -/
  | csrw (w : F1)
  /-- ENTER (R366). Pushes a region identifier on the thread's region stack and produces a trace event. -/
  | enter (w : F1)
  /-- LEAVE (R366). Pops the region stack and produces a trace event. -/
  | leave (w : F1)
  /-- MARK (R367). Produces a trace event with an identifier. -/
  | mark (w : F1)
  /-- TRIG (R367). Produces a trace event for the triggers. -/
  | trig (w : F1)
  /-- FRET (R359). Leaves a handler activation, replacing the instruction's data, failing the group or replaying. -/
  | fret (w : F0)
  /-- FREAD (R360). Reads a doubleword of the handler's fault record or the received data. -/
  | fread (w : F0)
  /-- LAUNCH (R121). Reserves a device-queue ring entry, copies a packet into it, publishes it and notifies the queue. -/
  | launch (w : F0)
  /-- NOTIFY (R122). ORs bits into the issuing queue's NOTEBITS and requests its MSI-X vector. -/
  | notify (w : F0)
  /-- DISPATCH (R143). A free stream chooses an entry and forms packs from a snapshot of its runnable threads. -/
  | dispatch (core stream : Nat)
  /-- HANDLER_ACTIVATION (R358). The selector runs a pending error-handler activation for threads that received poisoned data. -/
  | handlerActivation (core stream : Nat)
  /-- SPECULATIVE_LOAD (R155). The selector predicts a branch and issues early non-faulting LDs past it. -/
  | speculativeLoad (core grp : Nat) (va : Dword)
  /-- LONG_LATENCY_COMPLETE (R46). A long-latency instruction's value becomes available and its held write lands once its window closes. -/
  | longLatencyComplete (grp tid idx : Nat)
  /-- LDQ_DATA_ARRIVE (R193). An LDQ's data arrives and its queue entry becomes poppable in issue order. -/
  | ldqDataArrive (grp tid q idx : Nat)
  /-- STORE_DRAIN (R192). A retired store drains from the write queue to the L1 or die cache. -/
  | storeDrain (core idx : Nat)
  /-- NAP_EXPIRE (R163). A thread's nap time passes and it becomes waiting. -/
  | napExpire (grp tid : Nat)
  /-- PIN_LAPSE (R209). A pin reaches its lapse time, is released and sets PINLAPSE. -/
  | pinLapse (idx : Nat)
  /-- MMA_COMPLETE (R288). The array finishes an MMA, raises its flags and adds its count to the barrier. -/
  | mmaComplete (core : Nat)
  /-- MZERO_COMPLETE (R290). The array writes +0 to every element of the accumulator. -/
  | mzeroComplete (core : Nat)
  /-- MLDB_COMPLETE (R292). The vitrine loader finishes writing a slot and adds 4,096 to the barrier. -/
  | mldbComplete (core idx : Nat)
  /-- MDRAIN_COMPLETE (R297). The drain unit writes a tile under its mode and adds its count. -/
  | mdrainComplete (core idx : Nat)
  /-- ORDERED_SLOT_COMPLETE (R298). All ranks arrive and the ordered slot adds the tree sum to the tile indivisibly. -/
  | orderedSlotComplete (idx : Nat)
  /-- COPY_START (R301). A channel starts the next command of its chain once the previous one has ended. -/
  | copyStart (quad ch : Nat)
  /-- COPY_COMPLETE (R303). A copy writes its last byte, performs its writes, adds its count and issues any follow-on MMA. -/
  | copyComplete (quad ch : Nat)
  /-- FOLLOW_ON_MMA (R303). A waiting follow-on MMA takes a freed array-queue entry. -/
  | followOnMma (quad ch : Nat)
  /-- GROUP_RETIRE (R131). After its threads exit and its copies end, a group performs its stores, writes its event, arrives on EVBAR and frees its resources. -/
  | groupRetire (grp : Nat)
  /-- PLACEMENT_REPORT (R127). Every 256 plinth cycles each die reports its quads' free resources to the distributor. -/
  | placementReport (die : Nat)
  /-- PLACE_GANG (R129). The distributor places the first eligible gang that fits a quad, or claims quads for a gathering kernel. -/
  | placeGang (kern gang quad : Nat) (cores : List Nat)
  /-- DEPENDENCE_CHECK (R132). The device reads producer event records to decide whether dependences hold or fail. -/
  | dependenceCheck (kern : Nat)
  /-- PREEMPT_DECISION (R135). After a higher-priority gang has waited 20 µs, the distributor decides to pre-empt a lower-priority gang. -/
  | preemptDecision (kern gang : Nat)
  /-- GANG_HALTED (R136). Every thread of a gang has halted, and copy settling and publishing begin. -/
  | gangHalted (kern gang : Nat)
  /-- GANG_SAVED (R136). The gang image is performed, resources are freed, and the gang becomes SAVED. -/
  | gangSaved (kern gang : Nat)
  /-- CONTAINMENT_DECISION (R102). A fault record reaching the plinth is written to the fault ring and decided by the policies. -/
  | containmentDecision (ctx : Nat)
  /-- CREATE (R93). Reads and checks a context descriptor and creates the context. -/
  | create (w : Dword)
  /-- ACTIVATE (R93). Lets a created context's queues be mapped and scheduled. -/
  | activate (w : Dword)
  /-- QUIESCE (R93). Stops acceptance from a context's queues and pre-empts its resident gangs. -/
  | quiesce (w : Dword)
  /-- RESUME (R93). Returns a suspended context's queues to their prior states. -/
  | resume (w : Dword)
  /-- DESTROY (R93). Unmaps a context's queues, discards its images and removes its translations and leases. -/
  | destroy (w : Dword)
  /-- SETRIGHTS (R97). Replaces a context's rights. -/
  | setrights (w : Dword)
  /-- TEARDOWN_COMPLETE (R93). The destroyed context's teardown finishes and its number becomes free. -/
  | teardownComplete (ctx : Nat)
  /-- QSLOT_MAP (R111). Reads and checks a QCB and binds the queue to a slot. -/
  | qslotMap (w : Dword)
  /-- QSLOT_UNMAP (R111). Stops acceptance on a slot and unmaps or drains the queue. -/
  | qslotUnmap (w : Dword)
  /-- QSLOT_RESET (R111). Returns a queue in ERROR to ACTIVE or MAPPED. -/
  | qslotReset (w : Dword)
  /-- QNOTIFY (R113). A doorbell write notifies a slot, or sets PENDNOTIFY while it unmaps. -/
  | qnotify (slot : Nat)
  /-- IDLE_UNMAP (R111). A mapped queue idle for IDLEUNMAP µs is unmapped. -/
  | idleUnmap (slot : Nat)
  /-- NOP_PACKET (R116). The scheduler accepts a NOP packet, which ends DONE at once. -/
  | nopPacket (slot : Nat)
  /-- LAUNCH_PACKET (R125). The scheduler accepts a LAUNCH packet and reads and checks its descriptor. -/
  | launchPacket (slot : Nat)
  /-- WAITMEM (R116). The scheduler accepts a WAITMEM packet and evaluates its condition. -/
  | waitmem (slot : Nat)
  /-- WAITCMD (R116). The scheduler accepts a WAITCMD packet and checks its QCB. -/
  | waitcmd (slot : Nat)
  /-- SIGNAL (R116). The scheduler accepts a SIGNAL packet once FINSEQ equals CONS and starts its write. -/
  | signal (slot : Nat)
  /-- WAIT_EVALUATE (R116). At least once per µs, the device re-evaluates running WAITMEM and WAITCMD conditions. -/
  | waitEvaluate (slot : Nat)
  /-- WAIT_TIMEOUT (R116). A WAITMEM or WAITCMD reaches its TIMEOUT and ends FAILED. -/
  | waitTimeout (slot : Nat)
  /-- SIGNAL_DONE (R116). A SIGNAL write is performed at fabric scope and NVEC is signalled if IRQ is set. -/
  | signalDone (slot : Nat)
  /-- TLB_WALK (R312). The plinth walker completes one walk for a page, and each waiting access applies the result. -/
  | tlbWalk (ctx : Nat) (va : Dword)
  /-- FAULT_RESOLVE (R327). The Registrar handles a pending fault record and resolves it by release or conversion. -/
  | faultResolve (fseq : Nat)
  /-- REFILL_COMPLETE (R314). A page frame is filled from the pool and the page becomes RESIDENT or SHARED. -/
  | refillComplete (ctx : Nat) (va : Dword) (frame : Nat)
  /-- PAGE_EVICTION (R316). The Registrar evicts a victim page to free a frame. -/
  | pageEviction (ctx : Nat) (va : Dword)
  /-- PAGE_WRITEBACK_COMPLETE (R315). The pool acknowledges a page write-back. -/
  | pageWritebackComplete (ctx : Nat) (va : Dword)
  /-- MIGRATION_COMPLETE (R320). Copying to the new frame completes, FRAME is set and held threads are released. -/
  | migrationComplete (ctx : Nat) (va : Dword)
  /-- COUNTER_HALVING (R317). Every AGE ms the plinth halves every frame's access counter. -/
  | counterHalving
  /-- PREFETCH_REQUEST (R332). The prefetch engine stages the covering set of a request. -/
  | prefetchRequest
  /-- UNCORRECTABLE_ERROR (R331). An uncorrectable data error poisons a line and is reported to the Registrar. -/
  | uncorrectableError (line : Nat)
  /-- REQ_MAP (R314). A Registrar request record maps pages LOCAL, POOLED or SHARED. -/
  | reqMap
  /-- REQ_UNMAP (R320). A Registrar request record unmaps pages. -/
  | reqUnmap
  /-- MIGRATE (R320). A Registrar request record moves pages to new frames. -/
  | migrate
  /-- PINPAGE (R314). A Registrar request record makes resident pages PINNED. -/
  | pinpage
  /-- UNPINPAGE (R314). A Registrar request record returns pinned pages to RESIDENT. -/
  | unpinpage
  /-- PROTECT (R319). A Registrar request record changes pages' W and X permissions. -/
  | protect
  /-- LEASE_EXPIRING (R322). A lease reaches EXPIRY minus LEAD, begins write-back and requests renewal. -/
  | leaseExpiring (l : Nat)
  /-- LEASE_EXPIRY (R323). A lease reaches EXPIRY; copies are dropped and dirty pages become LOST. -/
  | leaseExpiry (l : Nat)
  /-- REVOCATION_DEADLINE (R324). A revoked lease's deadline passes, or its write-backs finish, and its copies are dropped and acknowledged. -/
  | revocationDeadline (l : Nat)
  /-- NODE_FAILURE_TIMEOUT (R324). RENEWWAIT passes without a replacement grant and every resident page of the lease is taken as LOST. -/
  | nodeFailureTimeout (l : Nat)
  /-- LEASE_RELEASE (R322). The Registrar releases an ended lease to FREE and writes RELEASE. -/
  | leaseRelease (l : Nat)
  /-- REQRENEW_REPEAT (R349). An unanswered renewal request is repeated every 100 ms. -/
  | reqrenewRepeat (l : Nat)
  /-- MAILBOX_POLL (R347). The Registrar reads INPROD at least every 100 µs while EN is 1. -/
  | mailboxPoll
  /-- GRANT (R349). An inbound GRANT record grants a lease or is refused. -/
  | grant
  /-- RENEW (R349). An inbound RENEW record extends a lease or is refused. -/
  | renew
  /-- REVOKE (R349). An inbound REVOKE record revokes a lease with a deadline. -/
  | revoke
  /-- NODEFAIL (R345). An inbound NODEFAIL record puts every lease of a node in NODE_FAILED. -/
  | nodefail
  /-- REPLACE (R349). An inbound REPLACE record gives a replacement grant for a failed lease's region. -/
  | replace
  /-- COMPLETION_TIMEOUT (R345). A request to an extent receives no completion within 20 ms and its node fails. -/
  | completionTimeout (l : Nat)
  /-- BISNP (R346). A back-invalidation snoop for a SHARED page drops its copies and is answered after the shootdown. -/
  | bisnp (port : Nat) (addr : Dword)
  /-- HDM_READ (R341). A host HDM-DB read is served at the LLC, or returns poisoned zeros above HOSTLIM. -/
  | hdmRead (pa n : Nat)
  /-- HDM_WRITE (R341). A host HDM-DB write recalls die-cache copies and is performed at fabric scope, or is discarded above HOSTLIM. -/
  | hdmWrite (pa : Nat) (bytes : List Byte)
  /-- HOST_SNOOP (R343). A CXL.cache snoop from the host is answered as a miss. -/
  | hostSnoop (addr : Dword)
  /-- READ_REQUEST (R279). A die's read of a line is served by the directory from HOME, the holder or a privatised copy. -/
  | readRequest (die line : Nat)
  /-- OWNERSHIP_REQUEST (R279). A die asks the directory for ownership, causing a hand-off, a merge or a wait. -/
  | ownershipRequest (die line : Nat)
  /-- HANDOFF (R277). A line delivered to its new holder becomes HELD or PRIV under the hand-off count. -/
  | handoff (line : Nat)
  /-- DIE_EVICTION (R278). A holder evicts a line, sending a write-back request and entering WB. -/
  | dieEviction (die line : Nat)
  /-- WRITEBACK_GRANT (R278). The directory grants a write-back and the line becomes HOME once written. -/
  | writebackGrant (line : Nat)
  /-- MERGE_COMPLETE (R277). The last masked bytes of a privatised line are merged and the line becomes HELD or HOME. -/
  | mergeComplete (line : Nat)
  /-- PTM_EXCHANGE (R350). Every 10 ms a PTM exchange aligns device time by a step or a slew. -/
  | ptmExchange (offset : Int)
  /-- TRAINING_COMPLETE (R352). Link training completes and the port becomes ACTIVE. -/
  | trainingComplete (port rate width : Nat)
  /-- TRAINING_RETRY (R352). Training finds no partner within 100 ms and retries. -/
  | trainingRetry (port : Nat)
  /-- LINK_LOSS (R352). A link is lost and the port goes to FAILED. -/
  | linkLoss (port : Nat)
  /-- INTEGRITY_FAILURE (R351). A received flit fails its IDE check, is discarded, and the port goes to FAILED. -/
  | integrityFailure (port : Nat)
  /-- SPDM_REQUEST (R351). An SPDM message over DOE on port 0 is answered for identity, measurement or keys. -/
  | spdmRequest (setsKey : Bool) (port : Nat)
  /-- RETRAIN (R352). A LINKCMD operation that retrains a port. -/
  | retrain (w : Dword)
  /-- LOWPOWER (R352). A LINKCMD operation that puts an idle port in its low-power state. -/
  | lowpower (w : Dword)
  /-- WAKE (R352). A LINKCMD operation that resumes a low-power link. -/
  | wake (w : Dword)
  /-- LINK_DISABLE (R352). A LINKCMD operation that disables a port. -/
  | linkDisable (w : Dword)
  /-- LINK_ENABLE (R352). A LINKCMD operation that starts training a port. -/
  | linkEnable (w : Dword)
  /-- DIECLK (R395). Sets a die's core clock level at an instruction boundary. -/
  | dieclk (w : Dword)
  /-- QUADOUT (R396). Takes a quad out of placement. -/
  | quadout (w : Dword)
  /-- QUADIN (R396). Puts a quad, or every passing quad, into placement. -/
  | quadin (w : Dword)
  /-- QUADGATE (R396). Power-gates an empty quad that is out of placement. -/
  | quadgate (w : Dword)
  /-- QUADUNGATE (R396). Restores power to a gated quad and clears its store. -/
  | quadungate (w : Dword)
  /-- HBMDOWN (R397). Powers down an HBM stack that holds no allocated frame. -/
  | hbmdown (w : Dword)
  /-- HBMUP (R397). Powers up and retrains an HBM stack. -/
  | hbmup (w : Dword)
  /-- FWLOAD (R401). Verifies and loads a signed firmware image and starts the Registrar. -/
  | fwload (w : Dword)
  /-- HBM_RETRAIN (R397). Every RETRAIN ms a pseudo-channel is drained for a recalibration burst. -/
  | hbmRetrain (stack chan : Nat)
  /-- TRIP (R398). A thermal or voltage trip stops the device, disables ports 1–7, writes TRIP and raises vector 0. -/
  | trip (cause die : Nat)
  /-- POWER_GOOD (R399). Power-good starts the boot ROM and the bring-up sequence. -/
  | powerGood
  /-- WARM_RESET (R399). A warm reset through port 0 restarts the bring-up sequence, keeping TRIP. -/
  | warmReset
  /-- HBM_TRAINING (R399). Training of every HBM stack completes at bring-up, marking failures DOWN. -/
  | hbmTraining (failed : BitVec 8)
  /-- SELF_TEST (R399). Self-test of the stores and caches completes and sets STFAIL for failing quads. -/
  | selfTest (failed : BitVec 96)
  /-- TRIP_READ (R394). A read of TRIP returns the report and clears it. -/
  | tripRead
  /-- LINKSTAT_READ (R340). A read of LINKSTAT returns the port state and clears ERRCNT. -/
  | linkstatRead (port : Nat)
  /-- MBXCFG_WRITE (R340). A write of MBXCFG configures the mailbox, or only clears EN while EN is set, stopping mailbox reads. -/
  | mbxcfgWrite (v : Dword)
  /-- SAMPCFG_WRITE (R370). A write of SAMPCFG sets the sample period and restarts the slot rotation. -/
  | sampcfgWrite (v : Dword)
  /-- REGISTER_WRITE (R339). A write to a BAR0 register with no behaviour of its own is kept or discarded under its rules. -/
  | registerWrite (off size : Nat) (v : Dword)
  /-- HOST_HALT (R364). A debug operation that halts a group's gang immediately or precisely. -/
  | hostHalt (w : Dword)
  /-- DEBUG_RESUME (R364). A debug operation that resumes a gang's DEBUG-blocked threads. -/
  | debugResume (w : Dword)
  /-- DEBUG_READ (R365). A debug operation that reads an object of a group into DBGDATA. -/
  | debugRead (w : Dword)
  /-- DEBUG_WRITE (R365). A debug operation that writes an object of a group from DBGDATA. -/
  | debugWrite (w : Dword)
  /-- SETBP (R364). A debug operation that sets an address breakpoint. -/
  | setbp (w : Dword)
  /-- CLRBP (R364). A debug operation that clears an address breakpoint. -/
  | clrbp (w : Dword)
  /-- SETWP (R364). A debug operation that sets a watchpoint. -/
  | setwp (w : Dword)
  /-- CLRWP (R364). A debug operation that clears a watchpoint. -/
  | clrwp (w : Dword)
  /-- TRIGCFG (R369). A debug operation that configures and closes a trigger. -/
  | trigcfg (w : Dword)
  /-- TRIAL (R373). A debug operation that sets a causal trial and clears its counters. -/
  | trial (w : Dword)
  /-- SAMPLE (R372). Every PERIOD cycles the sampler classifies one resident group of a core and writes a record. -/
  | sample (core : Nat)
  /-- TRIAL_DELAY (R373). A stream's outside-issue count reaches N and the stream issues nothing for D cycles. -/
  | trialDelay (core stream : Nat)
  /-- RENEWWAIT_EXPIRY (R327). RENEWWAIT passes without a renewal for a pending LEASE_EXPIRED fault on an EXPIRED lease, and the Registrar converts the fault. -/
  | renewwaitExpiry (fseq : Nat)
  /-- LINK_ERROR_RECOVERED (R340). A link error is recovered by replay or retraining without the port failing, and LINKSTAT.ERRCNT rises. -/
  | linkErrorRecovered (port : Nat)
  /-- INVALID_PACKET (R116). The scheduler takes a head packet whose TYPE is not in the table, records it FAILED and puts the queue in ERROR with ERRCODE 1. -/
  | invalidPacket (slot : Nat)
  /-- POWER_OFF (R398). The module's supply is removed, every domain loses power and TRIP and all other state are lost. -/
  | powerOff
  deriving DecidableEq, Repr

end Sys2Proof
end

