-- ==== Sys2Proof/Machine/Forms.lean ====
section
/-! DEFINITION. The faults found at decode (spec/02 R43) that depend on the word alone: what each operand field of each instruction accepts, its types, modifiers, marks and lookahead, as the instruction's own description states them. The limits that depend on the group's launch parameters (R37) are `launchFault`, over the same table. -/

namespace Sys2Proof

/-- Type code of a `Ty` (02 R40). -/
def Ty.code : Ty → BitVec 4
  | .i32 => 0 | .n32 => 1 | .i64 => 2 | .n64 => 3
  | .i16 => 4 | .n16 => 5 | .f32 => 6 | .bf16 => 7
  | .bf16x2 => 8 | .f16x2 => 9 | .e4m3n => 10 | .e5m2n => 11
  | .qn4 => 12 | .e2m1 => 13 | .i4 => 14 | .n4 => 15

/-- The type of a code (02 R40); every code names one. -/
def Ty.ofCode (c : BitVec 4) : Ty :=
  match c.toNat with
  | 0 => .i32 | 1 => .n32 | 2 => .i64 | 3 => .n64
  | 4 => .i16 | 5 => .n16 | 6 => .f32 | 7 => .bf16
  | 8 => .bf16x2 | 9 => .f16x2 | 10 => .e4m3n | 11 => .e5m2n
  | 12 => .qn4 | 13 => .e2m1 | 14 => .i4 | _ => .n4

/-- A 64-bit type, held in a register pair (02 R37, R40). -/
def Ty.wide : Ty → Bool
  | .i64 | .n64 => true
  | _ => false

/-- The register an operand code names (02 R36). -/
inductive Operand where
  | v (n : Nat) | p (n : Nat) | q (n : Nat) | a (n : Nat)
  | gb (n : Nat) | qb (n : Nat) | db (n : Nat) | vb (n : Nat)
  | lt (n : Nat) | reserved
  deriving DecidableEq, Repr

/-- 02 R36, the table of operand codes. -/
def Operand.ofCode (c : Code) : Operand :=
  let n := c.toNat
  if n < 0x600 then .v n
  else if n < 0x608 then .p (n - 0x600)
  else if n < 0x610 then .q (n - 0x608)
  else if n < 0x620 then .a (n - 0x610)
  else if n < 0x630 then .gb (n - 0x620)
  else if n < 0x638 then .qb (n - 0x630)
  else if n < 0x63C then .db (n - 0x638)
  else if n < 0x640 then .vb (n - 0x63C)
  else if n < 0x700 then .reserved
  else .lt (n - 0x700)

/-- What an operand field of one instruction holds. `vec k al` is a vector register n with n a multiple of `al` that names v[n] to v[n+k-1]; `vecQ` is a 32-bit source, a vector or a queue register (08 R166); `barOrPair` is BIND's b field (09 R205). -/
inductive Field where
  | unused
  | vec (k al : Nat)
  | vecQ
  | pred
  | queue
  | acc
  | layout
  | bar
  | barOrPair
  deriving DecidableEq, Repr

/-- A single vector register. -/
abbrev Field.v1 : Field := .vec 1 1

/-- An even vector pair (02 R37). -/
abbrev Field.pair : Field := .vec 2 2

/-- A vector register that is a multiple of 4, with the four registers from it (02 R37). -/
abbrev Field.quad : Field := .vec 4 4

/-- A barrier register (02 R36). -/
def Operand.isBar : Operand → Bool
  | .gb _ | .qb _ | .db _ | .vb _ => true
  | _ => false

/-- The code is of a class and alignment that the field accepts (02 R36, R37); an unused field is judged by `Field.zeroOk`. -/
def Field.accepts (f : Field) (c : Code) : Bool :=
  match f, Operand.ofCode c with
  | .unused, _ => true
  | .vec _ al, .v n => n % al == 0
  | .vecQ, .v _ => true
  | .vecQ, .q _ => true
  | .pred, .p _ => true
  | .queue, .q _ => true
  | .acc, .a _ => true
  | .layout, .lt _ => true
  | .bar, o => o.isBar
  | .barOrPair, .v n => n % 2 == 0
  | .barOrPair, o => o.isBar
  | _, _ => false

/-- An unused field must be zero (02 R36). -/
def Field.zeroOk (f : Field) (c : Code) : Bool :=
  match f with
  | .unused => c == 0
  | _ => true

/-- A last-read mark is allowed only on a vector source (02 R49). -/
def Field.markOk (f : Field) (c : Code) (m : Bool) : Bool :=
  match f, Operand.ofCode c with
  | .vec _ _, .v _ => true
  | .vecQ, .v _ => true
  | .barOrPair, .v _ => true
  | _, _ => !m

/-- What an instruction's description requires of its word, beside the format. `ok` gathers its types, modifiers and other bits; `scope` is the scope code it carries with the codes it accepts. -/
structure Shape where
  d : Field := .unused
  a : Field := .unused
  b : Field := .unused
  ok : Bool := true
  la : Bool := false
  mark : Bool := true
  scope : Bool := true

/-- The type is one of the list. -/
def tyIn (t : Ty) (l : List Ty) : Bool := l.contains t

/-- x [4:3] is zero. -/
def hi2 (x : BitVec 5) : Bool := x.extractLsb' 3 2 == 0

/-- x [2:0]. -/
def lo3 (x : BitVec 5) : Nat := (x.extractLsb' 0 3).toNat

/-- x [1:0]. -/
def lo2 (x : BitVec 5) : Nat := (x.extractLsb' 0 2).toNat

def int32 : List Ty := [.i32, .n32]
def int64 : List Ty := [.i64, .n64]
def intAny : List Ty := [.i32, .n32, .i64, .n64]
def flt3 : List Ty := [.f32, .bf16x2, .f16x2]

/-- A 32-bit or 64-bit source by the type: a queue register is accepted only for a 32-bit source (08 R166). -/
def srcBy (t : Ty) : Field := if t.wide then .pair else .vecQ

/-- A 32-bit or 64-bit destination by the type. -/
def dstBy (t : Ty) : Field := if t.wide then .pair else .v1

/-- The F0 binary integer operations of 08 R170 and R171 with 32-bit operands and x 0. -/
def Shape.bin32 (w : F0) : Shape :=
  { d := .v1, a := .vecQ, b := .vecQ, ok := tyIn w.ty int32 && w.x == 0 }

/-- The F0 unary integer operations. -/
def Shape.un32 (w : F0) (ts : List Ty) : Shape :=
  { d := .v1, a := .vecQ, ok := tyIn w.ty ts && w.x == 0 }

/-- The F1 integer operations (02 R32): x[4] type, x[3] widening, x[2:0] zero. -/
def Shape.binImm (w : F1) : Shape := { d := .v1, a := .vecQ, ok := lo3 w.x == 0 }

/-- The rounded arithmetic of 08 R174 with codes 0 to `r`. -/
def Shape.fbin (w : F0) (ts : List Ty) (r : Nat) : Shape :=
  { d := .v1, a := .vecQ, b := .vecQ, ok := tyIn w.ty ts && hi2 w.x && lo3 w.x ≤ r }

/-- The special functions (08 R178). -/
def Shape.sfu (w : F0) : Shape :=
  { d := .v1, a := .vecQ, ok := w.ty == .f32 && w.x == 0, la := true }

/-- F0 words that use no field (07 R157). -/
def Shape.bare0 (w : F0) : Shape := { ok := w.ty == .i32 && w.x == 0 }

/-- F1 words whose only content is imm16 (07 R157, 16 R367). -/
def Shape.bare1 (w : F1) : Shape := { ok := w.x == 0 }

/-- Types PACK and UNPACK take (08 R181). -/
def packTys : List Ty := [.i16, .n16, .bf16x2, .f16x2, .e4m3n, .e5m2n, .e2m1, .i4, .n4]

/-- Integer element types of PACK and UNPACK. -/
def packInt (t : Ty) : Bool := tyIn t [.i16, .n16, .i4, .n4]

/-- Elements of a packed register (08 R181): 2, 4 or 8. -/
def packElems : Ty → Nat
  | .i16 | .n16 | .bf16x2 | .f16x2 => 2
  | .e4m3n | .e5m2n => 4
  | _ => 8

/-- The source type of CVT, in b[3:0] (08 R179). -/
def cvtSrc (w : F0) : Ty := Ty.ofCode (w.b.extractLsb' 0 4)

/-- Space code of a scalar memory word: x[4:3] (09 R191). -/
def memSpace (x : BitVec 5) : Nat := (x.extractLsb' 3 2).toNat

/-- Destination or data field of LD and ST by the size code (09 R191). -/
def memData (x : BitVec 5) : Field :=
  match lo3 x with
  | 5 => .pair
  | 6 => .quad
  | _ => .v1

/-- Address field of a scalar memory word (09 R191). -/
def memAddr (x : BitVec 5) : Field := if memSpace x == 0 then .pair else .v1

/-- Scope, order and operation of an atomic's b field (09 R212). -/
def atomScope (w : F0) : Nat := (w.b.extractLsb' 0 3).toNat
def atomOrder (w : F0) : Nat := (w.b.extractLsb' 3 3).toNat
def atomOp (w : F0) : Nat := (w.b.extractLsb' 6 4).toNat

/-- Operation and type combinations of ATOM and RED (09 R213). -/
def atomOpTy (op : Nat) (t : Ty) : Bool :=
  if op < 4 || op == 5 || op == 6 then tyIn t intAny
  else if op == 4 then tyIn t (.f32 :: intAny)
  else if op < 10 then tyIn t flt3
  else false

/-- What the fields of 09 R212 share: order 0 to 4, b[10] and mb 0, x[4:2] 0, space at most `sp`. -/
def atomOk (w : F0) (sp : Nat) : Bool :=
  atomOrder w ≤ 4 && !w.b.getLsbD 10 && !w.mb && w.x.extractLsb' 2 3 == 0 && lo2 w.x ≤ sp

/-- Width in registers that a tensor word moves (09 R201). -/
def tensorData (x : BitVec 5) : Field :=
  match lo2 x with
  | 0 => .v1
  | 1 => .pair
  | _ => .quad

/-- Status-register numbers (02 R53) with their width and whether CSRW accepts them. -/
def csrTable : List (Nat × Nat × Bool) :=
  [(0x000, 32, false), (0x001, 32, false), (0x002, 32, false), (0x003, 32, false), (0x004, 32, false),
   (0x005, 32, false), (0x006, 32, false), (0x007, 32, false), (0x008, 32, false), (0x010, 32, false),
   (0x011, 32, false), (0x012, 32, false), (0x013, 32, false), (0x020, 64, false), (0x021, 64, false),
   (0x030, 32, true), (0x031, 32, true), (0x032, 32, true), (0x040, 32, false), (0x041, 32, true),
   (0x050, 32, false), (0x051, 32, false), (0x052, 32, true), (0x060, 32, false), (0x061, 32, false),
   (0x070, 32, false)]

/-- Width of a status register, none for an undefined number (02 R53). -/
def csrWidth (n : Nat) : Option Nat := (csrTable.find? (fun r => r.1 == n)).map (fun r => r.2.1)

/-- CSRW accepts the number (02 R56). -/
def csrWritable (n : Nat) : Bool := ((csrTable.find? (fun r => r.1 == n)).map (fun r => r.2.2)).getD false

/-- What each F0 instruction requires; `none` for instructions of another format and for events. -/
def shape0 : Instr → Option (F0 × Shape)
  | .nop w => some (w, .bare0 w)
  | .jmp w => some (w, { Shape.bare0 w with a := .pair })
  | .calli w => some (w, { Shape.bare0 w with a := .pair })
  | .ret w => some (w, .bare0 w)
  | .exit w => some (w, .bare0 w)
  | .yield w => some (w, .bare0 w)
  | .brk w => some (w, .bare0 w)
  | .add w => some (w, .bin32 w)
  | .sub w => some (w, .bin32 w)
  | .addsat w => some (w, { Shape.bin32 w with ok := tyIn w.ty int32 && w.x.extractLsb' 1 4 == 0 })
  | .mul w => some (w, .bin32 w)
  | .mulhi w => some (w, .bin32 w)
  | .mad w => some (w, .bin32 w)
  | .madw w => some (w, { Shape.bin32 w with d := .pair })
  | .min w => some (w, { d := dstBy w.ty, a := srcBy w.ty, b := srcBy w.ty, ok := tyIn w.ty intAny && w.x == 0 })
  | .max w => some (w, { d := dstBy w.ty, a := srcBy w.ty, b := srcBy w.ty, ok := tyIn w.ty intAny && w.x == 0 })
  | .abs w => some (w, .un32 w [.i32])
  | .neg w => some (w, .un32 w int32)
  | .dot4 w => some (w, .bin32 w)
  | .add64 w => some (w, { d := .pair, a := .pair, b := .pair, ok := tyIn w.ty int64 && w.x == 0 })
  | .sub64 w => some (w, { d := .pair, a := .pair, b := .pair, ok := tyIn w.ty int64 && w.x == 0 })
  | .and w => some (w, .bin32 w)
  | .or w => some (w, .bin32 w)
  | .xor w => some (w, .bin32 w)
  | .andn w => some (w, .bin32 w)
  | .not w => some (w, .un32 w int32)
  | .shl w => some (w, .bin32 w)
  | .shr w => some (w, .bin32 w)
  | .sar w => some (w, .bin32 w)
  | .rol w => some (w, .bin32 w)
  | .bfx w => some (w, .bin32 w)
  | .bfi w => some (w, .bin32 w)
  | .popc w => some (w, .un32 w int32)
  | .clz w => some (w, .un32 w int32)
  | .brev w => some (w, .un32 w int32)
  | .prmt w => some (w, .bin32 w)
  | .shl64 w => some (w, { d := .pair, a := .pair, b := .vecQ, ok := tyIn w.ty int64 && w.x == 0 })
  | .shr64 w => some (w, { d := .pair, a := .pair, b := .vecQ, ok := tyIn w.ty int64 && w.x == 0 })
  | .setp w => some (w, { d := .pred, a := srcBy w.ty, b := srcBy w.ty, ok := tyIn w.ty intAny && hi2 w.x && lo3 w.x ≤ 5 })
  | .plop w => some (w, { d := .pred, a := .pred, b := if lo3 w.x ≥ 4 then .unused else .pred, ok := w.ty == .i32 && hi2 w.x && lo3 w.x ≤ 5 })
  | .sel w => some (w, { d := dstBy w.ty, a := srcBy w.ty, b := srcBy w.ty, ok := tyIn w.ty (.f32 :: intAny) && !w.x.getLsbD 4 })
  | .mov w => some (w, { d := dstBy w.ty, a := srcBy w.ty, ok := tyIn w.ty (.f32 :: intAny) && w.x == 0 })
  | .ptov w => some (w, { Shape.bare0 w with d := .v1 })
  | .vtop w => some (w, { Shape.bare0 w with a := .vecQ })
  | .lea w => some (w, { d := .pair, a := .pair, b := .vecQ, ok := tyIn w.ty int32 && hi2 w.x })
  | .fadd w => some (w, .fbin w flt3 5)
  | .fsub w => some (w, .fbin w flt3 5)
  | .fmul w => some (w, .fbin w flt3 5)
  | .ffma w => some (w, .fbin w flt3 5)
  | .fscale w => some (w, .fbin w flt3 5)
  | .fdot2 w => some (w, .fbin w [.bf16x2, .f16x2] 5)
  | .fdiv w => some (w, { Shape.fbin w [.f32] 4 with la := true })
  | .fsqrt w => some (w, { d := .v1, a := .vecQ, ok := w.ty == .f32 && hi2 w.x && lo3 w.x ≤ 4, la := true })
  | .fmin w => some (w, { d := .v1, a := .vecQ, b := .vecQ, ok := tyIn w.ty flt3 && w.x == 0 })
  | .fmax w => some (w, { d := .v1, a := .vecQ, b := .vecQ, ok := tyIn w.ty flt3 && w.x == 0 })
  | .famax w => some (w, { d := .v1, a := .vecQ, b := .vecQ, ok := tyIn w.ty flt3 && w.x == 0 })
  | .fsetp w => some (w, { d := .pred, a := .vecQ, b := .vecQ, ok := w.ty == .f32 && hi2 w.x })
  | .frnd w => some (w, { d := .v1, a := .vecQ, ok := tyIn w.ty flt3 && hi2 w.x && lo3 w.x ≤ 4 })
  | .fclass w => some (w, .un32 w flt3)
  | .ffrexp w => some (w, { d := .v1, a := .vecQ, ok := w.ty == .f32 && w.x.extractLsb' 1 4 == 0 })
  | .frcp w => some (w, .sfu w)
  | .frsq w => some (w, .sfu w)
  | .fexp2 w => some (w, .sfu w)
  | .flog2 w => some (w, .sfu w)
  | .fsin w => some (w, .sfu w)
  | .fcos w => some (w, .sfu w)
  | .ftanh w => some (w, .sfu w)
  | .fsigm w => some (w, .sfu w)
  | .cvt w =>
      let st := cvtSrc w
      some ({ w with b := 0 }, { d := dstBy w.ty, a := srcBy st, ok := w.b.extractLsb' 4 7 == 0 && !w.mb && w.ty != .bf16x2 && w.ty != .qn4 && st != .bf16x2 && st != .qn4 && st != w.ty && hi2 w.x && lo3 w.x ≤ 5 })
  | .cvtsr w => some (w, { d := .v1, a := .vecQ, b := .pair, ok := tyIn w.ty [.bf16, .f16x2, .e4m3n, .e5m2n, .e2m1] && w.x == 0 })
  | .pack w => some (w, { d := .v1, a := .vecQ, b := .vecQ, ok := tyIn w.ty packTys && (w.x.extractLsb' 3 2).toNat * 2 < packElems w.ty && (if packInt w.ty then lo3 w.x == 0 else decide (lo3 w.x ≤ 5)) })
  | .unpack w => some (w, { d := .v1, a := .vecQ, ok := tyIn w.ty packTys && hi2 w.x && decide (lo3 w.x < packElems w.ty) })
  | .qscale w => some (w, { d := .v1, a := .vecQ, b := .vecQ, ok := w.ty == .qn4 && w.x == 0 })
  | .qenc w => some (w, { d := .v1, a := .vecQ, b := .pair, ok := w.ty == .qn4 && hi2 w.x })
  | .qdec w => some (w, { d := .v1, a := .vecQ, b := .pair, ok := w.ty == .qn4 && hi2 w.x })
  | .vote w => some (w, { d := .pred, a := .pred, ok := w.ty == .i32 && w.x.extractLsb' 2 3 == 0 && lo2 w.x != 3 })
  | .ballot w => some (w, { d := .v1, a := .pred, ok := w.ty == .i32 && w.x == 0 })
  | .matchLanes w => some (w, { d := .v1, a := if w.ty.wide then .pair else .v1, ok := tyIn w.ty [.i32, .i64] && w.x == 0 })
  | .shfl w => some (w, { d := dstBy w.ty, a := dstBy w.ty, b := .v1, ok := tyIn w.ty [.i32, .i64] && w.x.extractLsb' 2 3 == 0 })
  | .redl w => some (w, { d := .v1, a := .v1, ok := hi2 w.x && (tyIn w.ty int32 && lo3 w.x ≤ 5 || w.ty == .f32 && lo3 w.x ≤ 2) })
  | .scanl w => some (w, { d := .v1, a := .v1, ok := !w.x.getLsbD 4 && (tyIn w.ty int32 && lo3 w.x ≤ 5 || w.ty == .f32 && lo3 w.x ≤ 2) })
  | .ltset w => some (w, { Shape.bare0 w with d := .layout, a := .vec 16 16 })
  | .ltget w => some (w, { Shape.bare0 w with d := .vec 16 16, a := .layout })
  | .ldt w => some (w, { d := tensorData w.x, a := .layout, b := .vec 1 4, la := true, ok := w.ty == .i32 && lo2 w.x != 3 && (w.x.extractLsb' 2 2).toNat != 3 && !w.x.getLsbD 4 })
  | .stt w => some (w, { d := tensorData w.x, a := .layout, b := .vec 1 4, ok := w.ty == .i32 && lo2 w.x != 3 && (w.x.extractLsb' 2 2).toNat != 3 && !w.x.getLsbD 4 })
  | .tpref w => some (w, { a := .layout, b := .vec 1 8, ok := w.ty == .i32 && w.x.extractLsb' 1 4 == 0 })
  | .bind w => some (w, { d := .v1, a := .vec 3 4, b := .barOrPair, ok := w.ty == .i32 && !w.x.getLsbD 4 && !(w.x.getLsbD 3 && (Operand.ofCode w.b).isBar), scope := lo3 w.x ≤ 4 })
  | .unbind w => some (w, { Shape.bare0 w with a := .v1 })
  | .fence w => some (w, { ok := w.ty == .i32 && hi2 w.x, scope := lo3 w.x ≤ 4 })
  | .cinv w => some (w, { Shape.bare0 w with a := .pair, b := .v1 })
  | .cwb w => some (w, { Shape.bare0 w with a := .pair, b := .v1 })
  | .pin w => some (w, { Shape.bare0 w with d := .v1, a := .pair, b := .v1 })
  | .unpin w => some (w, { Shape.bare0 w with a := .pair, b := .v1 })
  | .spmap w => some (w, { Shape.bare0 w with d := .v1, a := .pair, b := .pair })
  | .spunmap w => some (w, { Shape.bare0 w with a := .pair })
  | .atom w => some ({ w with b := 0 }, { d := dstBy w.ty, a := if w.ty.wide then .quad else .vec 3 4, la := true, ok := atomOk w 2 && atomOpTy (atomOp w) w.ty, scope := atomScope w ≤ 4 })
  | .cas w => some ({ w with b := 0 }, { d := dstBy w.ty, a := if w.ty.wide then .quad else .vec 3 4, la := true, ok := atomOk w 2 && atomOp w == 0 && tyIn w.ty intAny, scope := atomScope w ≤ 4 })
  | .red w => some ({ w with b := 0 }, { a := if w.ty.wide then .quad else .vec 3 4, la := true, ok := atomOk w 2 && atomOpTy (atomOp w) w.ty && atomOp w != 4 && (atomOrder w == 1 || atomOrder w == 3), scope := atomScope w ≤ 4 })
  | .enq w => some ({ w with b := 0 }, { d := .v1, a := .quad, la := true, ok := atomOk w 0 && atomOp w == 0 && w.ty == .n64, scope := atomScope w ≤ 4 })
  | .deq w => some ({ w with b := 0 }, { d := .vec 3 4, a := .pair, la := true, ok := atomOk w 0 && atomOp w == 0 && w.ty == .n64, scope := atomScope w ≤ 4 })
  | .acommit w => some (w, { Shape.bare0 w with d := .v1, la := true })
  | .aabort w => some (w, { a := if w.x.getLsbD 0 then .v1 else .unused, la := true, ok := w.ty == .i32 && w.x.extractLsb' 1 4 == 0 })
  | .barrive w => some (w, { Shape.bare0 w with d := .v1, a := .bar, b := .v1 })
  | .bsync w => some (w, { Shape.bare0 w with a := .bar, b := .v1 })
  | .bwait w => some (w, { Shape.bare0 w with a := .v1 })
  | .bexpect w => some (w, { Shape.bare0 w with a := .bar, b := .v1 })
  | .btest w => some (w, { Shape.bare0 w with d := .pred, a := .v1 })
  | .btestCur w => some (w, { d := .v1, a := .bar, ok := w.ty == .i32 && w.x == 1 })
  | .mma w => some (w, { Shape.bare0 w with d := .acc, a := .layout, b := .vec 8 8 })
  | .mzero w => some (w, { Shape.bare0 w with d := .acc })
  | .mrng w => some (w, { Shape.bare0 w with a := .pair })
  | .mldb w => some (w, { Shape.bare0 w with a := .layout, b := .vec 8 8 })
  | .mdrain w => some (w, { d := .acc, a := .layout, b := .vec 9 4, ok := w.ty == .i32 && !w.x.getLsbD 4, scope := lo3 w.x ≤ 3 })
  | .cpy w => some (w, { d := .v1, a := .vec 16 16, b := .pair, la := true, ok := w.ty == .i32 && w.x.extractLsb' 2 3 == 0 })
  | .cpyx w => some (w, { d := .v1, a := .vec 16 16, b := .pair, la := true, ok := w.ty == .i32 && w.x.extractLsb' 2 3 == 0 })
  | .cpywp w => some (w, { d := .pair, la := true, ok := w.ty == .i32 && w.x.extractLsb' 2 3 == 0 })
  | .cpyseq w => some (w, { d := .v1, la := true, ok := w.ty == .i32 && w.x.extractLsb' 2 3 == 0 })
  | .cpyseqStat w => some (w, { d := .quad, la := true, ok := w.ty == .i32 && w.x.extractLsb' 2 3 == 1 })
  | .cpycan w => some (w, { d := .v1, ok := w.ty == .i32 && w.x.extractLsb' 2 3 == 0 })
  | .pgstat w => some (w, { Shape.bare0 w with d := .pair, a := .pair, la := true })
  | .leaseq w => some (w, { Shape.bare0 w with d := .quad, a := .v1, la := true })
  | .leaseqVa w => some (w, { d := .quad, a := .pair, la := true, ok := w.ty == .i32 && w.x == 1 })
  | .pghint w => some (w, { a := .pair, b := .v1, ok := w.ty == .i32 && w.x.extractLsb' 2 3 == 0 && lo2 w.x != 3 })
  | .fret w => some (w, { a := if lo2 w.x == 0 then .v1 else .unused, ok := w.ty == .i32 && lo2 w.x != 3 && w.x.extractLsb' 2 3 == 0 })
  | .fread w => some (w, { d := if w.x == 8 then .quad else .pair, ok := w.ty == .i32 && w.x.toNat ≤ 8 })
  | .launch w => some (w, { Shape.bare0 w with d := .pair, a := .pair, b := .pair, la := true })
  | .notify w => some (w, { Shape.bare0 w with a := .v1 })
  | _ => none

/-- What each F1 instruction requires (02 R32, R55, R56; 07 R157, R161; 09 R191; 10 R221; 16 R367). -/
def shape1 : Instr → Option (F1 × Shape)
  | .rowblk w => some (w, { Shape.bare1 w with ok := w.x == 0 && w.g.p == 7 && !w.g.neg && w.imm.extractLsb' 1 15 == 0 })
  | .nap w => some (w, .bare1 w)
  | .trap w => some (w, .bare1 w)
  | .addImm w => some (w, .binImm w)
  | .subImm w => some (w, .binImm w)
  | .mulImm w => some (w, .binImm w)
  | .minImm w => some (w, .binImm w)
  | .maxImm w => some (w, .binImm w)
  | .andImm w => some (w, .binImm w)
  | .orImm w => some (w, .binImm w)
  | .xorImm w => some (w, .binImm w)
  | .shlImm w => some (w, .binImm w)
  | .shrImm w => some (w, .binImm w)
  | .sarImm w => some (w, .binImm w)
  | .setpImm w => some (w, { d := .pred, a := .vecQ, ok := lo3 w.x ≤ 5 })
  | .leaImm w => some (w, { d := .pair, a := .pair })
  | .ld w => some (w, { d := memData w.x, a := memAddr w.x, la := true, ok := lo3 w.x != 7 })
  | .st w => some (w, { d := memData w.x, a := memAddr w.x, ok := lo3 w.x != 7 })
  | .ldq w => some (w, { d := .queue, a := memAddr w.x, la := true, ok := lo3 w.x ≤ 4 && memSpace w.x ≤ 2 })
  | .pref w => some (w, { a := .pair, ok := w.x.extractLsb' 2 3 == 0 })
  | .abegin w => some (w, { d := .v1, la := true, ok := hi2 w.x, scope := 1 ≤ lo3 w.x && lo3 w.x ≤ 3 })
  | .csrr w => some (w, { Shape.bare1 w with d := if csrWidth w.imm.toNat == some 64 then .pair else .v1 })
  | .csrw w => some (w, { Shape.bare1 w with a := .v1 })
  | .enter w => some (w, .bare1 w)
  | .leave w => some (w, .bare1 w)
  | .mark w => some (w, .bare1 w)
  | .trig w => some (w, .bare1 w)
  | _ => none

/-- What each F2 instruction requires (02 R33, 07 R157, 08 R173). -/
def shape2 : Instr → Option (F2 × Shape)
  | .bra w => some (w, { ok := w.x == 0 })
  | .call w => some (w, { ok := w.x == 0 })
  | .movi w => some (w, { d := .v1, ok := w.x == 0 })
  | .moviW w => some (w, { d := .pair, ok := w.x == 1 })
  | _ => none

/-- The instruction is an integer half operation with a register source (02 R34). -/
def Half.isReg (h : Half) : Bool := h.op7.toNat ≤ 0x0B

/-- The source is an imm8 (02 R34). -/
def Half.isImm (h : Half) : Bool := 0x40 ≤ h.op7.toNat && h.op7.toNat ≤ 0x4A

/-- A floating-point half (02 R34). -/
def Half.isFloat (h : Half) : Bool := (0x10 ≤ h.op7.toNat && h.op7.toNat ≤ 0x14) || h.op7.toNat == 0x16

/-- Conditions 1 to 4 of 02 R35 on one half. -/
def Half.legal (h : Half) : Bool :=
  ((h.isReg || h.isImm) && h.ty.toNat ≤ 1 || h.isFloat && 2 ≤ h.ty.toNat && h.ty.toNat ≤ 4)
    && h.low == 0 && !(h.isImm && h.m)

/-- The read set of a half (02 R35). -/
def Half.reads (h : Half) : List Nat :=
  (if h.isImm then [] else [h.src.toNat]) ++ (if h.op7 == 0x0B then [] else [h.dst.toNat])

/-- MUL, MUL imm8 or FMUL (02 R35, condition 8). -/
def Half.multiplies (h : Half) : Bool := h.op7 == 0x02 || h.op7 == 0x42 || h.op7 == 0x12

/-- 02 R35: the word faults ILLEGAL_PAIR unless this holds. -/
def pairLegal (h0 h1 : Half) : Bool :=
  h0.legal && h1.legal
    && h0.dst != h1.dst
    && h0.dst.toNat % 8 != h1.dst.toNat % 8
    && h0.reads.all (fun r => h1.reads.all (fun q => r == q || r % 8 != q % 8))
    && !(h0.multiplies && h1.multiplies)

/-- The decode faults that depend on the word alone, in the order of 02 R43. -/
inductive DecodeFault where
  | illegalInstruction
  | illegalPair
  | illegalOperand
  | scopeInvalid
  deriving DecidableEq, Repr

/-- ILLEGAL_INSTRUCTION grounds of an F0 word (02 R36, R43, R44, R49). -/
def illegal0 (w : F0) (s : Shape) : Bool :=
  !(s.ok && s.d.zeroOk w.d && s.a.zeroOk w.a && s.b.zeroOk w.b && (s.la || w.la == 0)
    && s.a.markOk w.a w.ma && s.b.markOk w.b w.mb)

/-- ILLEGAL_INSTRUCTION grounds of an F1 word. -/
def illegal1 (w : F1) (s : Shape) : Bool :=
  !(s.ok && s.d.zeroOk w.d && s.a.zeroOk w.a && (s.la || w.la == 0) && s.a.markOk w.a w.ma)

/-- ILLEGAL_INSTRUCTION grounds of an F2 word. -/
def illegal2 (w : F2) (s : Shape) : Bool := !(s.ok && s.d.zeroOk w.d)

/-- Numbers of the status registers are operands (02 R43, R55, R56). -/
def csrOperandOk : Instr → Bool
  | .csrr w => (csrWidth w.imm.toNat).isSome
  | .csrw w => csrWritable w.imm.toNat
  | _ => true

/-- The first decode fault of an instruction that its word alone gives (02 R43), none when there is none. -/
def staticFault (i : Instr) : Option DecodeFault :=
  match shape0 i with
  | some (w, s) =>
      if illegal0 w s then some .illegalInstruction
      else if !(s.d.accepts w.d && s.a.accepts w.a && s.b.accepts w.b) then some .illegalOperand
      else if !s.scope then some .scopeInvalid else none
  | none =>
    match shape1 i with
    | some (w, s) =>
        if illegal1 w s then some .illegalInstruction
        else if !(s.d.accepts w.d && s.a.accepts w.a && csrOperandOk i) then some .illegalOperand
        else if !s.scope then some .scopeInvalid else none
    | none =>
      match shape2 i with
      | some (w, s) =>
          if illegal2 w s then some .illegalInstruction
          else if !s.d.accepts w.d then some .illegalOperand else none
      | none =>
        match i with
        | .pair h0 h1 => if pairLegal h0 h1 then none else some .illegalPair
        | _ => none

/-- The registers of a field lie within the frame F, the accumulators ACC and the barriers the kernel has (02 R37, 06 R125). -/
def Field.inLaunch (f : Field) (c : Code) (frame acc : Nat) (cor : Bool) : Bool :=
  match f, Operand.ofCode c with
  | .vec k _, .v n => n + k ≤ frame
  | .vecQ, .v n => n < frame
  | .barOrPair, .v n => n + 2 ≤ frame
  | .acc, .a n => n < acc
  | .bar, .db _ => cor
  | .bar, .vb _ => cor
  | .barOrPair, .db _ => cor
  | .barOrPair, .vb _ => cor
  | _, _ => true

/-- ILLEGAL_OPERAND by the group's launch parameters (02 R37, R43): a register past the frame, an accumulator past ACC, a die or device barrier of a kernel with COR 0. -/
def launchFault (i : Instr) (frame acc : Nat) (cor : Bool) : Bool :=
  match shape0 i with
  | some (w, s) => !(s.d.inLaunch w.d frame acc cor && s.a.inLaunch w.a frame acc cor && s.b.inLaunch w.b frame acc cor)
  | none =>
    match shape1 i with
    | some (w, s) => !(s.d.inLaunch w.d frame acc cor && s.a.inLaunch w.a frame acc cor)
    | none =>
      match shape2 i with
      | some (w, s) => !s.d.inLaunch w.d frame acc cor
      | none =>
        match i with
        | .pair h0 h1 => !(h0.dst.toNat < frame && h1.dst.toNat < frame
            && (h0.isImm || h0.src.toNat < frame) && (h1.isImm || h1.src.toNat < frame))
        | _ => false

end Sys2Proof
end

