-- ==== Sys2Proof/Decode.lean ====
section
/-! DEFINITION. From bits to an instruction (spec/02 R29 to R36, R51, R52): a total decoder on words and on bytes that refuses by the name of the decode fault, and the encoder. -/

namespace Sys2Proof

/-- Fields of an F0 word (02 R31). -/
def F0.ofWord (w : Dword) : F0 :=
  { d := w.extractLsb' 41 11, a := w.extractLsb' 30 11, b := w.extractLsb' 19 11,
    g := { p := w.extractLsb' 16 3, neg := w.getLsbD 15 }, la := w.extractLsb' 11 4,
    ma := w.getLsbD 10, mb := w.getLsbD 9, ty := Ty.ofCode (w.extractLsb' 5 4), x := w.extractLsb' 0 5 }

/-- Fields of an F1 word (02 R32). -/
def F1.ofWord (w : Dword) : F1 :=
  { d := w.extractLsb' 41 11, a := w.extractLsb' 30 11, imm := w.extractLsb' 14 16,
    g := { p := w.extractLsb' 11 3, neg := w.getLsbD 10 }, la := w.extractLsb' 6 4,
    ma := w.getLsbD 5, x := w.extractLsb' 0 5 }

/-- Fields of an F2 word (02 R33). -/
def F2.ofWord (w : Dword) : F2 :=
  { d := w.extractLsb' 41 11, g := { p := w.extractLsb' 38 3, neg := w.getLsbD 37 },
    x := w.extractLsb' 32 5, imm := w.extractLsb' 0 32 }

/-- One half, 31 bits (02 R34). -/
def Half.ofBits (h : BitVec 31) : Half :=
  { op7 := h.extractLsb' 24 7, dst := h.extractLsb' 16 8, src := h.extractLsb' 8 8,
    m := h.getLsbD 7, ty := h.extractLsb' 4 3, low := h.extractLsb' 0 4 }

/-- Opcodes of F0 words (02 R51). An opcode with two rows is split by its modifier bit. -/
def f0Rows0 : List (Nat × (F0 → Instr)) :=
  [(0x000, .nop),
   (0x002, .jmp),
   (0x004, .calli),
   (0x005, .ret),
   (0x006, .exit),
   (0x008, .yield),
   (0x00B, .brk),
   (0x080, .add),
   (0x081, .sub),
   (0x082, .addsat),
   (0x083, .mul),
   (0x084, .mulhi),
   (0x085, .mad),
   (0x086, .madw),
   (0x087, .min),
   (0x088, .max),
   (0x089, .abs),
   (0x08A, .neg),
   (0x0A2, .dot4),
   (0x0A3, .add64),
   (0x0A4, .sub64),
   (0x08B, .and),
   (0x08C, .or),
   (0x08D, .xor),
   (0x08E, .andn),
   (0x08F, .not),
   (0x090, .shl),
   (0x091, .shr),
   (0x092, .sar),
   (0x093, .rol)]

/-- Opcodes of F0 words (02 R51). An opcode with two rows is split by its modifier bit. (continued) -/
def f0Rows1 : List (Nat × (F0 → Instr)) :=
  [(0x094, .bfx),
   (0x095, .bfi),
   (0x096, .popc),
   (0x097, .clz),
   (0x098, .brev),
   (0x099, .prmt),
   (0x0A5, .shl64),
   (0x0A6, .shr64),
   (0x09B, .setp),
   (0x09C, .plop),
   (0x09D, .sel),
   (0x09E, .mov),
   (0x0A0, .ptov),
   (0x0A1, .vtop),
   (0x09A, .lea),
   (0x100, .fadd),
   (0x101, .fsub),
   (0x102, .fmul),
   (0x103, .ffma),
   (0x113, .fscale),
   (0x115, .fdot2),
   (0x10B, .fdiv),
   (0x10A, .fsqrt),
   (0x104, .fmin),
   (0x105, .fmax),
   (0x116, .famax),
   (0x106, .fsetp),
   (0x107, .frnd),
   (0x112, .fclass),
   (0x114, .ffrexp)]

/-- Opcodes of F0 words (02 R51). An opcode with two rows is split by its modifier bit. (continued) -/
def f0Rows2 : List (Nat × (F0 → Instr)) :=
  [(0x108, .frcp),
   (0x109, .frsq),
   (0x10C, .fexp2),
   (0x10D, .flog2),
   (0x10E, .fsin),
   (0x10F, .fcos),
   (0x110, .ftanh),
   (0x111, .fsigm),
   (0x180, .cvt),
   (0x181, .cvtsr),
   (0x182, .pack),
   (0x183, .unpack),
   (0x186, .qscale),
   (0x184, .qenc),
   (0x185, .qdec),
   (0x1C0, .vote),
   (0x1C1, .ballot),
   (0x1C5, .matchLanes),
   (0x1C2, .shfl),
   (0x1C3, .redl),
   (0x1C4, .scanl),
   (0x208, .ltset),
   (0x209, .ltget),
   (0x203, .ldt),
   (0x204, .stt),
   (0x206, .tpref),
   (0x20A, .bind),
   (0x20B, .unbind),
   (0x207, .fence),
   (0x20C, .cinv)]

/-- Opcodes of F0 words (02 R51). An opcode with two rows is split by its modifier bit. (continued) -/
def f0Rows3 : List (Nat × (F0 → Instr)) :=
  [(0x20D, .cwb),
   (0x20E, .pin),
   (0x20F, .unpin),
   (0x210, .spmap),
   (0x211, .spunmap),
   (0x280, .atom),
   (0x281, .cas),
   (0x282, .red),
   (0x283, .enq),
   (0x284, .deq),
   (0x286, .acommit),
   (0x287, .aabort),
   (0x2C0, .barrive),
   (0x2C1, .bsync),
   (0x2C2, .bwait),
   (0x2C3, .bexpect),
   (0x2C4, fun w => if w.x.getLsbD 0 then .btestCur w else .btest w),
   (0x300, .mma),
   (0x301, .mzero),
   (0x304, .mrng),
   (0x302, .mldb),
   (0x303, .mdrain),
   (0x305, .cpy),
   (0x306, .cpyx),
   (0x307, .cpywp),
   (0x308, fun w => if w.x.getLsbD 2 then .cpyseqStat w else .cpyseq w),
   (0x309, .cpycan),
   (0x340, .pgstat),
   (0x341, fun w => if w.x.getLsbD 0 then .leaseqVa w else .leaseq w),
   (0x342, .pghint)]

/-- Opcodes of F0 words (02 R51). An opcode with two rows is split by its modifier bit. (continued) -/
def f0Rows4 : List (Nat × (F0 → Instr)) :=
  [(0x387, .fret),
   (0x388, .fread),
   (0x385, .launch),
   (0x386, .notify)]

/-- Opcodes of F0 words (02 R51). An opcode with two rows is split by its modifier bit. All of it. -/
def f0Rows : List (Nat × (F0 → Instr)) := f0Rows0 ++ f0Rows1 ++ f0Rows2 ++ f0Rows3 ++ f0Rows4

/-- Opcodes of F1 words (02 R51). -/
def f1Rows : List (Nat × (F1 → Instr)) :=
  [(0x007, .rowblk),
   (0x009, .nap),
   (0x00A, .trap),
   (0x080, .addImm),
   (0x081, .subImm),
   (0x083, .mulImm),
   (0x087, .minImm),
   (0x088, .maxImm),
   (0x08B, .andImm),
   (0x08C, .orImm),
   (0x08D, .xorImm),
   (0x090, .shlImm),
   (0x091, .shrImm),
   (0x092, .sarImm),
   (0x09B, .setpImm),
   (0x09A, .leaImm),
   (0x200, .ld),
   (0x201, .st),
   (0x202, .ldq),
   (0x205, .pref),
   (0x285, .abegin),
   (0x380, .csrr),
   (0x381, .csrw),
   (0x382, .enter),
   (0x383, .leave),
   (0x384, .mark),
   (0x389, .trig)]

/-- Opcodes of F2 words (02 R33, R51). -/
def f2Rows : List (Nat × (F2 → Instr)) :=
  [(0x001, .bra),
   (0x003, .call),
   (0x09F, fun w => if w.x.getLsbD 0 then .moviW w else .movi w)]

/-- The row of an opcode. -/
def findRow {α : Type} (t : List (Nat × α)) (op : Nat) : Option α := (t.find? (fun r => r.1 == op)).map (fun r => r.2)

/-- Opcode field [61:52] (02 R31 to R33). -/
def opcodeOf (w : Dword) : Nat := (w.extractLsb' 52 10).toNat

/-- Format and opcode alone (02 R30, R51, R52): the instruction a word would be, none for an unassigned opcode or a format the opcode does not accept. -/
def rawDecode (w : Dword) : Option Instr :=
  match (w.extractLsb' 62 2).toNat with
  | 0 => (findRow f0Rows (opcodeOf w)).map (fun f => f (F0.ofWord w))
  | 1 => (findRow f1Rows (opcodeOf w)).map (fun f => f (F1.ofWord w))
  | 2 => (findRow f2Rows (opcodeOf w)).map (fun f => f (F2.ofWord w))
  | _ => some (.pair (Half.ofBits (w.extractLsb' 31 31)) (Half.ofBits (w.extractLsb' 0 31)))

/-- A word as an instruction (02 R30, R51, R52), or ILLEGAL_INSTRUCTION for an opcode or format the map does not assign. The other grounds of 02 R43 are `staticFault` of the instruction read, and its meaning takes the exception. -/
def decode (w : Dword) : Except DecodeFault Instr :=
  match rawDecode w with
  | none => .error .illegalInstruction
  | some i => .ok i

/-- A little-endian doubleword from bytes, the first at the lowest address (00 R4); missing bytes count as 0. -/
def dwordOfBytes : List Byte → Dword
  | [] => 0
  | b :: bs => (b.setWidth 64) ||| (dwordOfBytes bs <<< 8)

/-- The eight bytes of a word as memory holds them (02 R29). -/
def bytesOfDword (w : Dword) : List Byte := (List.range 8).map (fun k => (w >>> (8 * k)).setWidth 8)

/-- The instruction at the head of a list of bytes with the rest of the list (02 R29); fewer than 8 bytes hold no word. -/
def decodeBytes (l : List Byte) : Except DecodeFault (Instr × List Byte) :=
  match l with
  | b0 :: b1 :: b2 :: b3 :: b4 :: b5 :: b6 :: b7 :: rest =>
    match decode (dwordOfBytes [b0, b1, b2, b3, b4, b5, b6, b7]) with
    | .ok i => .ok (i, rest)
    | .error f => .error f
  | _ => .error .illegalInstruction

/-- The instruction the decoder reads from an instruction whose bits are `w`, numbered as spec/opcode_table.json numbers them. Every word of this hardware has 64 bits. -/
def decodeTableWord (nbits w : Nat) : Option Instr :=
  match decodeBytes (bytesOfDword (BitVec.ofNat 64 (w % 2 ^ nbits))) with
  | .ok (i, _) => some i
  | .error _ => none

/-- A Boolean as one bit of a word at place k. -/
def bitAt (b : Bool) (k : Nat) : Dword := if b then (1 : Dword) <<< k else 0

/-- The word of an F0 instruction (02 R31). -/
def F0.toWord (op : Nat) (f : F0) : Dword :=
  (BitVec.ofNat 64 op <<< 52) ||| (f.d.setWidth 64 <<< 41) ||| (f.a.setWidth 64 <<< 30) ||| (f.b.setWidth 64 <<< 19)
    ||| (f.g.p.setWidth 64 <<< 16) ||| bitAt f.g.neg 15 ||| (f.la.setWidth 64 <<< 11)
    ||| bitAt f.ma 10 ||| bitAt f.mb 9 ||| (f.ty.code.setWidth 64 <<< 5) ||| f.x.setWidth 64

/-- The word of an F1 instruction (02 R32). -/
def F1.toWord (op : Nat) (f : F1) : Dword :=
  ((1 : Dword) <<< 62) ||| (BitVec.ofNat 64 op <<< 52) ||| (f.d.setWidth 64 <<< 41) ||| (f.a.setWidth 64 <<< 30)
    ||| (f.imm.setWidth 64 <<< 14) ||| (f.g.p.setWidth 64 <<< 11) ||| bitAt f.g.neg 10 ||| (f.la.setWidth 64 <<< 6)
    ||| bitAt f.ma 5 ||| f.x.setWidth 64

/-- The word of an F2 instruction (02 R33). -/
def F2.toWord (op : Nat) (f : F2) : Dword :=
  ((2 : Dword) <<< 62) ||| (BitVec.ofNat 64 op <<< 52) ||| (f.d.setWidth 64 <<< 41)
    ||| (f.g.p.setWidth 64 <<< 38) ||| bitAt f.g.neg 37 ||| (f.x.setWidth 64 <<< 32) ||| f.imm.setWidth 64

/-- The 31 bits of a half (02 R34). -/
def Half.toBits (h : Half) : Dword :=
  (h.op7.setWidth 64 <<< 24) ||| (h.dst.setWidth 64 <<< 16) ||| (h.src.setWidth 64 <<< 8)
    ||| bitAt h.m 7 ||| (h.ty.setWidth 64 <<< 4) ||| h.low.setWidth 64

/-- The word of an instruction (02 R30 to R34, R51); an event has none. -/
def encode : Instr → Option Dword
  | .nop w => some (w.toWord 0x000)
  | .bra w => some (w.toWord 0x001)
  | .jmp w => some (w.toWord 0x002)
  | .call w => some (w.toWord 0x003)
  | .calli w => some (w.toWord 0x004)
  | .ret w => some (w.toWord 0x005)
  | .exit w => some (w.toWord 0x006)
  | .rowblk w => some (w.toWord 0x007)
  | .yield w => some (w.toWord 0x008)
  | .nap w => some (w.toWord 0x009)
  | .trap w => some (w.toWord 0x00A)
  | .brk w => some (w.toWord 0x00B)
  | .add w => some (w.toWord 0x080)
  | .addImm w => some (w.toWord 0x080)
  | .sub w => some (w.toWord 0x081)
  | .subImm w => some (w.toWord 0x081)
  | .addsat w => some (w.toWord 0x082)
  | .mul w => some (w.toWord 0x083)
  | .mulImm w => some (w.toWord 0x083)
  | .mulhi w => some (w.toWord 0x084)
  | .mad w => some (w.toWord 0x085)
  | .madw w => some (w.toWord 0x086)
  | .min w => some (w.toWord 0x087)
  | .minImm w => some (w.toWord 0x087)
  | .max w => some (w.toWord 0x088)
  | .maxImm w => some (w.toWord 0x088)
  | .abs w => some (w.toWord 0x089)
  | .neg w => some (w.toWord 0x08A)
  | .dot4 w => some (w.toWord 0x0A2)
  | .add64 w => some (w.toWord 0x0A3)
  | .sub64 w => some (w.toWord 0x0A4)
  | .and w => some (w.toWord 0x08B)
  | .andImm w => some (w.toWord 0x08B)
  | .or w => some (w.toWord 0x08C)
  | .orImm w => some (w.toWord 0x08C)
  | .xor w => some (w.toWord 0x08D)
  | .xorImm w => some (w.toWord 0x08D)
  | .andn w => some (w.toWord 0x08E)
  | .not w => some (w.toWord 0x08F)
  | .shl w => some (w.toWord 0x090)
  | .shlImm w => some (w.toWord 0x090)
  | .shr w => some (w.toWord 0x091)
  | .shrImm w => some (w.toWord 0x091)
  | .sar w => some (w.toWord 0x092)
  | .sarImm w => some (w.toWord 0x092)
  | .rol w => some (w.toWord 0x093)
  | .bfx w => some (w.toWord 0x094)
  | .bfi w => some (w.toWord 0x095)
  | .popc w => some (w.toWord 0x096)
  | .clz w => some (w.toWord 0x097)
  | .brev w => some (w.toWord 0x098)
  | .prmt w => some (w.toWord 0x099)
  | .shl64 w => some (w.toWord 0x0A5)
  | .shr64 w => some (w.toWord 0x0A6)
  | .setp w => some (w.toWord 0x09B)
  | .setpImm w => some (w.toWord 0x09B)
  | .plop w => some (w.toWord 0x09C)
  | .sel w => some (w.toWord 0x09D)
  | .mov w => some (w.toWord 0x09E)
  | .ptov w => some (w.toWord 0x0A0)
  | .vtop w => some (w.toWord 0x0A1)
  | .lea w => some (w.toWord 0x09A)
  | .leaImm w => some (w.toWord 0x09A)
  | .movi w => some (w.toWord 0x09F)
  | .moviW w => some (w.toWord 0x09F)
  | .pair h0 h1 => some (((3 : Dword) <<< 62) ||| (h0.toBits <<< 31) ||| h1.toBits)
  | .fadd w => some (w.toWord 0x100)
  | .fsub w => some (w.toWord 0x101)
  | .fmul w => some (w.toWord 0x102)
  | .ffma w => some (w.toWord 0x103)
  | .fscale w => some (w.toWord 0x113)
  | .fdot2 w => some (w.toWord 0x115)
  | .fdiv w => some (w.toWord 0x10B)
  | .fsqrt w => some (w.toWord 0x10A)
  | .fmin w => some (w.toWord 0x104)
  | .fmax w => some (w.toWord 0x105)
  | .famax w => some (w.toWord 0x116)
  | .fsetp w => some (w.toWord 0x106)
  | .frnd w => some (w.toWord 0x107)
  | .fclass w => some (w.toWord 0x112)
  | .ffrexp w => some (w.toWord 0x114)
  | .frcp w => some (w.toWord 0x108)
  | .frsq w => some (w.toWord 0x109)
  | .fexp2 w => some (w.toWord 0x10C)
  | .flog2 w => some (w.toWord 0x10D)
  | .fsin w => some (w.toWord 0x10E)
  | .fcos w => some (w.toWord 0x10F)
  | .ftanh w => some (w.toWord 0x110)
  | .fsigm w => some (w.toWord 0x111)
  | .cvt w => some (w.toWord 0x180)
  | .cvtsr w => some (w.toWord 0x181)
  | .pack w => some (w.toWord 0x182)
  | .unpack w => some (w.toWord 0x183)
  | .qscale w => some (w.toWord 0x186)
  | .qenc w => some (w.toWord 0x184)
  | .qdec w => some (w.toWord 0x185)
  | .vote w => some (w.toWord 0x1C0)
  | .ballot w => some (w.toWord 0x1C1)
  | .matchLanes w => some (w.toWord 0x1C5)
  | .shfl w => some (w.toWord 0x1C2)
  | .redl w => some (w.toWord 0x1C3)
  | .scanl w => some (w.toWord 0x1C4)
  | .ld w => some (w.toWord 0x200)
  | .st w => some (w.toWord 0x201)
  | .ldq w => some (w.toWord 0x202)
  | .pref w => some (w.toWord 0x205)
  | .ltset w => some (w.toWord 0x208)
  | .ltget w => some (w.toWord 0x209)
  | .ldt w => some (w.toWord 0x203)
  | .stt w => some (w.toWord 0x204)
  | .tpref w => some (w.toWord 0x206)
  | .bind w => some (w.toWord 0x20A)
  | .unbind w => some (w.toWord 0x20B)
  | .fence w => some (w.toWord 0x207)
  | .cinv w => some (w.toWord 0x20C)
  | .cwb w => some (w.toWord 0x20D)
  | .pin w => some (w.toWord 0x20E)
  | .unpin w => some (w.toWord 0x20F)
  | .spmap w => some (w.toWord 0x210)
  | .spunmap w => some (w.toWord 0x211)
  | .atom w => some (w.toWord 0x280)
  | .cas w => some (w.toWord 0x281)
  | .red w => some (w.toWord 0x282)
  | .enq w => some (w.toWord 0x283)
  | .deq w => some (w.toWord 0x284)
  | .abegin w => some (w.toWord 0x285)
  | .acommit w => some (w.toWord 0x286)
  | .aabort w => some (w.toWord 0x287)
  | .barrive w => some (w.toWord 0x2C0)
  | .bsync w => some (w.toWord 0x2C1)
  | .bwait w => some (w.toWord 0x2C2)
  | .bexpect w => some (w.toWord 0x2C3)
  | .btest w => some (w.toWord 0x2C4)
  | .btestCur w => some (w.toWord 0x2C4)
  | .mma w => some (w.toWord 0x300)
  | .mzero w => some (w.toWord 0x301)
  | .mrng w => some (w.toWord 0x304)
  | .mldb w => some (w.toWord 0x302)
  | .mdrain w => some (w.toWord 0x303)
  | .cpy w => some (w.toWord 0x305)
  | .cpyx w => some (w.toWord 0x306)
  | .cpywp w => some (w.toWord 0x307)
  | .cpyseq w => some (w.toWord 0x308)
  | .cpyseqStat w => some (w.toWord 0x308)
  | .cpycan w => some (w.toWord 0x309)
  | .pgstat w => some (w.toWord 0x340)
  | .leaseq w => some (w.toWord 0x341)
  | .leaseqVa w => some (w.toWord 0x341)
  | .pghint w => some (w.toWord 0x342)
  | .csrr w => some (w.toWord 0x380)
  | .csrw w => some (w.toWord 0x381)
  | .enter w => some (w.toWord 0x382)
  | .leave w => some (w.toWord 0x383)
  | .mark w => some (w.toWord 0x384)
  | .trig w => some (w.toWord 0x389)
  | .fret w => some (w.toWord 0x387)
  | .fread w => some (w.toWord 0x388)
  | .launch w => some (w.toWord 0x385)
  | .notify w => some (w.toWord 0x386)
  | _ => none

end Sys2Proof
end

