-- ==== Sys2Proof/Machine/State.lean ====
section
/-! DEFINITION. The state of the device as plain data: every register, table, queue and memory the spec names, the three outcomes' reasons, and the state at reset. -/

namespace Sys2Proof.Machine

/-- Why a step stops with a fault. The device's own faults are taken, not stopped at (log 1). -/
inductive Fault where
  /-- Raised by an event that names a device physical address at or above 2^39, a line past them, or a frame past them (14 R308): no such memory exists. Safe: the machine stops where the hardware has nothing to act on. -/
  | physicalHole (addr : Nat)
  deriving DecidableEq, Repr

/-- Why a step refuses. -/
inductive Refusal where
  /-- An arm of exec that has no meaning yet. Safe: nothing is claimed of it. -/
  | notModelled (mnemonic : String)
  deriving DecidableEq, Repr

/-- Bytes by address in canonical form: addresses rising, no byte equal to `Config.blankByte` (log 6). -/
abbrev Mem := List Host.Cell

/-- Words by index in canonical form: indices rising, no zero word (registers, accumulators). -/
abbrev Words := List (Nat × Word)

/-- Records by number, numbers rising. -/
abbrev Tab (α : Type) := List (Nat × α)

/-- Block reasons (07 R139). -/
inductive Reason where
  | barrier | queue | nap | page | contain | handler | debug
  deriving DecidableEq, Repr

/-- Conditions of a thread (07 R139). -/
inductive Cond where
  | running
  | waiting
  | blocked (r : Reason)
  | exited
  deriving DecidableEq, Repr

/-- A held write (02 R46): the first register, how many registers, the value, the window instructions still to retire, whether the value is available, its tag in a region (10 R220), and the flags its landing raises with the instruction's address (03 R82, R83). `more` are the repaired registers that land with the result of an outermost ACOMMIT, as one held write (02 R46, 10 R231). -/
structure HeldWrite where
  reg : Nat
  count : Nat
  value : Qword
  left : Nat
  ready : Bool
  tag : Option (Nat × Word)
  flags : BitVec 7
  at_ : Dword
  more : List (Nat × Word) := []
  deriving DecidableEq, Repr

/-- An entry of a queue register (02 R37, 09 R193): its word, whether its data has arrived, and the window instructions still to retire. -/
structure QEntry where
  value : Word
  arrived : Bool
  left : Nat
  deriving DecidableEq, Repr

/-- A 64-byte fault record (16 R354), field by field. -/
structure FaultRec where
  kseq : Word
  route : Nat
  ctx : Nat
  cls : Nat
  cause : Nat
  noThread : Bool
  count : Nat
  first : Nat
  gidx : Nat
  instAddr : Dword
  addr : Dword
  retry : Nat
  queue : Nat
  laneMask : Word
  extra : Dword
  time : Dword
  idx : Word
  regTop : Word
  deriving DecidableEq, Repr

/-- A read word of a region (10 R220): its address, the value read, SYMBOLIC or EXACT. -/
structure ReadWord where
  addr : Nat
  value : Word
  symbolic : Bool
  deriving DecidableEq, Repr

/-- A value in a region (10 R220): concrete, or the symbol of the word at an address plus a constant. -/
inductive SymVal where
  | conc (v : Word)
  | sym (word : Nat) (c : Word)
  deriving DecidableEq, Repr

/-- A recorded comparison (10 R227). -/
structure Constraint where
  cond : Nat
  signed : Bool
  a : SymVal
  b : SymVal
  outcome : Bool
  deriving DecidableEq, Repr

/-- A store record (10 R228). -/
structure StoreRec where
  addr : Nat
  size : Nat
  data : Qword
  sym : Option (Nat × Word)
  deriving DecidableEq, Repr

/-- An open atomic region of a thread (10 R220). `count` counts retired instructions from the outermost ABEGIN on, itself included. `commit` is the destination of an outermost ACOMMIT that waits for the conservator. -/
structure Region where
  depth : Nat
  handler : Dword
  scope : Nat
  excl : Bool
  chkP : BitVec 7
  chkV : List (Nat × Word)
  lines : List Nat
  words : List ReadWord
  tags : List (Nat × Nat × Word)
  cons : List Constraint
  stores : List StoreRec
  count : Nat
  commit : Option (Nat × Nat)
  decided : Option Bool
  deriving DecidableEq, Repr

/-- What a thread keeps for a handler activation (16 R358): the record, the thread's own data address, its lane, the data received, how I's result is written, and what is restored. -/
structure HandlerCtx where
  record : FaultRec
  addr : Dword
  lane : Nat
  data : Qword
  width : Nat
  dest : Code
  sizeCode : Nat
  la : Nat
  savedP : BitVec 7
  savedHeld : List HeldWrite
  active : Bool
  deriving DecidableEq, Repr

/-- A bound range (09 R204): base and length in bytes, and the scope of its binding. -/
structure Bound where
  base : Nat
  len : Nat
  scope : Nat
  deriving DecidableEq, Repr

/-- A thread of a group (07 R138, R139; 13 fields of 06 R134). `addr` is the wait address, or the first instruction not yet retired while running. `acq` are the ranges bound to the barrier it is blocked at, as its instruction read them (04 R96). `wake` keeps a flip that came while the thread's gang was saved: overflow, global bytes counted, EXTRA (11 R255). `newWait` is a wait word written while the thread was running (07 R142). `raised` are flags on their way to the group within one step (03 R82). `place` is where a thread blocked at a barrier stood: dispatch, pack, lane (16 R355); `late` a fault of its completion within one step: cause, ADDR, EXTRA. `stop` is what a debugger's resumption does (16 R362): 1 goes past a BRK, 2 steps over a breakpoint or watchpoint, 3 ends a precise halt. `haltReq` is a halt that takes the thread once it is runnable: of a trigger, 0 to 3, or of a HOST HALT, 4 (16 R362). -/
structure Thread where
  v : Words
  p : BitVec 7
  q : List (List QEntry)
  released : List Nat
  held : List HeldWrite
  cond : Cond
  addr : Dword
  since : Nat
  token : Option Word
  queues : List Nat
  napLeft : Nat
  ret : List Dword
  spill : Nat
  stack : List (BitVec 16)
  depth : Word
  reloc : Bool
  acause : Word
  arepairs : Word
  retry : Nat
  retryAt : Dword
  sq : Word
  lastAbegin : Option Dword
  region : Option Region
  handler : Option HandlerCtx
  stepOver : Bool
  preciseHalt : Bool
  raised : List (BitVec 7 × Dword)
  place : Nat × Nat × Nat
  late : Option (Nat × Dword × Dword)
  stop : Nat := 0
  wake : Option (Bool × Bool × Dword) := none
  newWait : Option Dword := none
  acq : List Bound := []
  haltReq : Option Nat := none
  deriving DecidableEq, Repr

/-- A barrier instance (11 R245). `global` and `globalPast`: a copy or drain wrote the global space and counted in the open phase, in an earlier phase (11 R251). -/
structure Barrier where
  phase : Word
  count : Word
  expBytes : Word
  arrivals : Word
  arrBytes : Word
  lastOvf : Bool
  members : Nat
  openGlobal : Bool
  pastGlobal : Bool
  deriving DecidableEq, Repr

/-- A group (06 R123, R124; 07 R138). `resident` is false while its gang is saved or waiting. `status` is none while it runs, else its completion status (06 R131). `fpPending` is a pending FP exception's first address and the core cycle that raised it, `fpStream` the stream (03 R83). `joinAt` are wait addresses at which a ROWBLK that joins stands (07 R150). -/
structure Group where
  ctx : Nat
  kern : Nat
  gang : Nat
  gidx : Nat
  member : Nat
  core : Nat
  slot : Nat
  resident : Bool
  frame : Nat
  scratchUnits : Nat
  accs : Nat
  vslots : Nat
  threads : List Thread
  scratch : Mem
  acc : Words
  vitrine : Mem
  fpflags : BitVec 7
  trapEn : BitVec 7
  orderReq : Bool
  pinLapse : Bool
  fpround : BitVec 3
  fpPending : Option (Dword × Nat)
  fpStream : Nat := 0
  key : Dword
  gb : List Barrier
  table : List Dword
  overflow : List Dword
  yielded : List Dword
  joinAt : List Dword := []
  killed : Option Nat
  deriving DecidableEq, Repr

/-- Per gang and channel (13 R301, R305). `ended` counts cancelled commands whose end waits for that of an earlier one still running. -/
structure ChanState where
  seq : Word
  done : Word
  wp : Dword
  canFirst : Word
  canLast : Word
  failFirst : Word
  failCount : Word
  ended : Nat := 0
  deriving DecidableEq, Repr

/-- Gang states (06 R133). -/
inductive GangSt where
  | waiting | resident | halting | saving | saved | retired
  deriving DecidableEq, Repr

/-- A gang of a kernel. `halted` says that its halt is complete (06 R136), `depOk` that its members' dependences hold (06 R132). `members` names the groups by their numbers once placed; `heldCounts` are counts held for resumption (11 R255): group, barrier code, bytes. `saveWait` is a fault of its save area that the image waits for, `saveLost` the pages of it whose translation is lost (06 R136). `retiredAt` is the plinth cycle of its last retirement (06 R133). -/
structure Gang where
  state : GangSt
  quad : Nat
  members : List Nat
  qb : List Barrier
  chans : List ChanState
  saveSlot : Option Nat
  cancelled : List (Nat × Word)
  heldCounts : List (Nat × Nat × Nat)
  firstSince : Option Nat
  halted : Bool
  depOk : Bool
  placedAt : Nat
  saveWait : Option Nat := none
  saveLost : List Nat := []
  retiredAt : Option Nat := none
  deriving DecidableEq, Repr

/-- Kernel states (06 R133). -/
inductive KernSt where
  | accepted | running | done | failed | cancelled
  deriving DecidableEq, Repr

/-- The launch descriptor (06 R124). `frame` counts registers, `scratch` units of 4,096 bytes. -/
structure LaunchDesc where
  frame : Nat
  vslots : Nat
  nparam : Nat
  acc : Nat
  gangSize : Nat
  depKind : Nat
  evbar : Nat
  evb : Bool
  cor : Bool
  entry : Dword
  scratch : Nat
  threads : Nat
  ngroups : Nat
  stkBase : Dword
  evCount : Word
  stkSize : Nat
  evAddr : Dword
  gangPol : BitVec 28
  grpPol : BitVec 28
  kPol : BitVec 28
  prodEvt : Dword
  prodNg : Nat
  prodKseq : Word
  depHi : Int
  depLo : Int
  deriving DecidableEq, Repr

/-- A kernel (06 R123, R133). `slot` is its queue's slot number, `qkey` the queue's record, `qcb` its control block. `dieBars` and `devBars` exist while COR is 1 (11 R243); `claims` are the quads a gathering kernel has claimed (06 R130), `barSet` that it holds one of the barrier sets (11 R244). `ended` lists the status of each group that has ended. -/
structure Kernel where
  ctx : Nat
  kseq : Word
  slot : Nat
  seq : Dword
  prio : Nat
  desc : LaunchDesc
  params : List Word
  state : KernSt
  gangs : List Gang
  ended : List (Nat × Nat)
  order : Nat
  gathering : Bool
  qkey : Nat
  qcb : Dword
  claims : List (Nat × Nat × List Nat)
  dieBars : Tab (List Barrier)
  devBars : List Barrier
  barSet : Bool := false
  deriving DecidableEq, Repr

/-- Context states (04 R93). -/
inductive CtxSt where
  | empty | created | active | quiescing | suspended | faulted | destroying
  deriving DecidableEq, Repr

/-- A watchpoint (16 R362). -/
structure Watchpoint where
  base : Dword
  len : Nat
  load : Bool
  store : Bool
  atomic : Bool
  deriving DecidableEq, Repr

/-- A trigger (16 R369). -/
structure Trigger where
  isOpen : Bool
  windows : Dword
  emptyWin : Dword
  cfg : Dword
  action : BitVec 3
  deriving DecidableEq, Repr

/-- A causal trial (16 R373). -/
structure Trial where
  en : Bool
  cfg : Dword
  dsum : Dword
  streamCyc : Dword
  deriving DecidableEq, Repr

/-- A live journal record (04 R103). -/
structure JRec where
  kind : Nat
  cause : Nat
  state : Nat
  queue : Nat
  seq : Dword
  tacc : Dword
  trun : Dword
  tend : Dword
  nfail : Nat
  ndone : Nat
  kseq : Word
  jidx : Dword
  upd : Nat
  lost : Bool
  deriving DecidableEq, Repr

/-- A fault on its way to containment (04 R102): the record, the group, its threads, whether it follows a delivery point (07 R147), the level it starts at and whether RETRY acts as IGNORE. Kept beside it from the moment it is raised: the policies of group, gang, kernel and queue, the queue's record, and whether the group was killed by then. -/
structure ContFault where
  record : FaultRec
  grp : Option Nat
  kern : Option Nat
  tids : List Nat
  after : Bool
  level : Nat
  engine : Bool
  pols : List (BitVec 28) := []
  qkey : Option Nat := none
  dead : Bool := false
  deriving DecidableEq, Repr

/-- A context (04 R93, R95). -/
structure Ctx where
  state : CtxSt
  desc : Dword
  prioCap : Nat
  rights : BitVec 4
  maint : Bool
  ptroot : Dword
  saveBase : Dword
  nslots : Nat
  slotSize : Nat
  ltBase : Dword
  bindBase : Dword
  jbase : Dword
  jlog : Nat
  jprod : Dword
  fbase : Dword
  flog : Nat
  fprod : Dword
  fdrop : Word
  ehAddr : Dword
  cpolicy : BitVec 28
  progress : Word
  kseqNext : Word
  bps : List (Option Dword)
  wps : List (Option Watchpoint)
  trigs : List Trigger
  trial : Trial
  journal : List JRec
  slotsUsed : List Nat
  faults : List ContFault
  deriving DecidableEq, Repr

/-- Queue states, coded as QCB.STATE (05 R108). -/
inductive QueueSt where
  | unmapped | mapped | active | stalled | draining | suspended | error
  deriving DecidableEq, Repr

/-- A running or waiting command of a queue (05 R116): its packet, journal index, and the time it ends by. -/
structure Cmd where
  seq : Dword
  type : Nat
  onfail : Bool
  packet : BitVec 512
  jidx : Dword
  running : Bool
  deadline : Option Nat
  kern : Option Nat
  wait : Option Nat
  lost : Bool
  deriving DecidableEq, Repr

/-- A queue slot (05 R108, R111), or, with a key of 256 or more, what is left of a queue unmapped in ERROR with commands outstanding. `home` is the slot number; `cmds` are the outstanding commands. `wait` is the fault at which an access to the control block waits (05 R109), `reread` that PROD is to be read behind it, `gone` that the block's translation is lost; `unmapping` says that an unmap has begun; `notedAt` and `acceptedAt` are the plinth cycles of its last notify and of its last acceptance (05 R113, R114); `hwait` is the fault of the head packet's page, or of one its acceptance reads, `lost` that the latter is lost (05 R111, R116). -/
structure QSlot where
  home : Nat
  state : QueueSt
  saved : QueueSt
  errcode : Nat
  ctx : Nat
  qcb : Dword
  prio : Nat
  rlog : Nat
  rbase : Dword
  qpolicy : BitVec 28
  idleUnmap : Nat
  nvec : Nat
  prod : Dword
  cons : Dword
  finseq : Dword
  cmds : List Cmd
  idleSince : Nat
  pendNotify : Bool
  wait : Option Nat
  lost : Bool
  reread : Bool := false
  gone : Bool := false
  unmapping : Bool := false
  notedAt : Option Nat := none
  acceptedAt : Option Nat := none
  hwait : Option Nat := none
  deriving DecidableEq, Repr

/-- An unmap made in the present plinth cycle (05 R113): its slot, context, control block and vector, and whether the vector has been signalled. -/
structure Unmapped where
  cycle : Nat
  slot : Nat
  ctx : Nat
  qcb : Dword
  nvec : Nat
  told : Bool
  deriving DecidableEq, Repr

/-- Engine commands of the array queue, the loader and the drain unit (13 R283, R288 to R298). -/
inductive EngKind where
  | mma | mzero | mldb | mdrain
  deriving DecidableEq, Repr

/-- A submitted engine command: what it read at submission (13 R282, 09 R200). `vals` is what a drain has read of its accumulator, or the values it contributes. `follow` names the copy a follow-on MMA comes from. -/
structure EngCmd where
  num : Nat
  kind : EngKind
  ctx : Nat
  gidx : Nat
  qnum : Nat
  kseq : Word
  grp : Nat
  kern : Nat
  gang : Nat
  die : Nat
  tid : Nat
  pc : Dword
  acc : Nat
  slot : Nat
  entry : BitVec 512
  coords : List Word
  mcw : Dword
  ctl : Word
  keep : Word
  bar : Nat
  scope : Nat
  transpose : Bool
  resEntry : BitVec 512
  biasEntry : BitVec 512
  key : Dword
  vals : Words
  follow : Option (Word × Nat)
  wait : Option Nat
  lost : Bool
  deriving DecidableEq, Repr

/-- A copy command of a chain (13 R301 to R303). `written` counts the bytes written so far; `ahead` names steps past them already written, by the count at their end (12 R271); `flags` are those its conversions have met. -/
structure CopyCmd where
  grp : Nat
  kern : Nat
  gang : Nat
  tid : Nat
  pc : Dword
  seq : Word
  block : BitVec 512
  src : BitVec 512
  dst : BitVec 512
  mcw : Dword
  convert : Bool
  started : Bool
  written : Nat
  wait : Option Nat
  lost : Bool
  flags : BitVec 7
  ahead : List Nat := []
  deriving DecidableEq, Repr

/-- A channel of a quad (13 R301, R303). -/
structure Chain where
  cmds : List CopyCmd
  follow : Option EngCmd
  deriving DecidableEq, Repr

/-- An event on its way to the triggers (16 R367, R369): 1 TRIG, 2 MARK, 3 ENTER, 4 LEAVE with the identifier, or 5 a fault with its cause; its pack's threads whose guard held are counted, `top` is the REGTOP of the pack's lowest thread, `low`. `waits` says that the pack waits before the instruction for what the triggers do; `hit` are threads that faulted. -/
structure TrigEvent where
  ctx : Nat
  core : Nat
  grp : Nat
  gidx : Nat
  kseq : Word
  count : Nat
  low : Nat
  top : Word
  kind : Nat
  id : Nat
  waits : Bool
  hit : List Nat
  deriving DecidableEq, Repr

/-- What the triggers make of an event whose pack waits for it (16 R362, R369). -/
inductive EventAnswer where
  | pending
  | go
  | halt (trigger : Nat)
  deriving DecidableEq, Repr

/-- A dispatch held by a stream (07 R145, R149), with a number of its own. `packs` hold (lane, thread) of the threads still in it; `todo` are the packs the word at `pc` has still to go to; `acted` are threads of a held pack whose turn at this word is over; `stuck` says that the last issue held it (model's own, log 3). `fpe` is the first address of an FP exception being delivered at the word (03 R83). `word` is the word fetched at `pc` (07 R148), `list` says that the overflow list was chosen (07 R141). `checked`: the word has met the breakpoints; `fpSeen`: a delivery point of the word has been reached, so that `fpe` holds for every thread of the dispatch (03 R83); `sent`: its event is with the triggers (16 R369). -/
structure Dispatch where
  uid : Nat
  grp : Nat
  entry : Dword
  pc : Dword
  packs : List (List (Nat × Nat))
  todo : List Nat
  index : Nat
  rowblk : Bool
  handler : Bool
  acted : List Nat
  stuck : Bool
  fpe : Option Dword
  word : Option Dword := none
  list : Bool := false
  checked : Bool := false
  fpSeen : Bool := false
  sent : Option EventAnswer := none
  deriving DecidableEq, Repr

/-- What a stream issued last (16 R372): the cycle, the group, the dispatch's entry address, the word's position in it, the pack's population, and its lowest thread. -/
structure LastIssue where
  clock : Nat
  grp : Nat
  entry : Dword
  index : Nat
  pop : Nat
  low : Nat := 0
  deriving DecidableEq, Repr

/-- A stream (07 R143; 16 R372, R373). `trialCtx` is the context whose trial counted last. -/
structure Stream where
  dispatch : Option Dispatch
  trialCount : Nat
  trialDelay : Nat
  last : Option LastIssue := none
  trialCtx : Option Nat := none
  deriving DecidableEq, Repr

/-- A line of an L1 (09 R188): context, virtual line number, bytes by offset. -/
structure L1Line where
  ctx : Nat
  line : Nat
  bytes : Mem
  deriving DecidableEq, Repr

/-- A retired store not drained (09 R189, R192), to a global virtual address of a context. `nibble` is set for an STT nibble: its bits alone are written. `phys` is the translation it passed its check point under. -/
structure WqEntry where
  grp : Nat
  tid : Nat
  ctx : Nat
  va : Nat
  phys : Nat
  bytes : List Byte
  nibble : Option Bool
  deriving DecidableEq, Repr

/-- A store performed at group, quad or die scope and not yet at device scope (12 R259): its thread, core and scope code, and the bytes that loads of parties outside the scope instance still return. -/
structure Unseen where
  grp : Nat
  tid : Nat
  ctx : Nat
  va : Nat
  core : Nat
  scope : Nat
  phys : Nat
  old : List Byte
  deriving DecidableEq, Repr

/-- A pending activation of the error handler (16 R358). -/
structure Activation where
  grp : Nat
  lanes : List (Nat × Nat)
  deriving DecidableEq, Repr

/-- A core (01 R12). -/
structure CoreSt where
  streams : List Stream
  l1 : List L1Line
  wq : List WqEntry
  tlb : List (Nat × Nat × Nat)
  arrayQ : List EngCmd
  loads : List EngCmd
  drains : List EngCmd
  engNum : Nat
  activations : List Activation
  sampleSlot : Option Nat
  sampleNext : Nat
  traceSeq : Dword
  deriving DecidableEq, Repr

/-- A die: clock level, cycles since the clock started, ticks into the cycle (01 R19, 02 R53), and its TLB (14 R311): context, first page and number of pages of each entry. -/
structure Die where
  level : BitVec 2
  clock : Nat
  frac : Nat
  tlb : List (Nat × Nat × Nat)
  deriving DecidableEq, Repr

/-- A scratchpad window (09 R210, R211). `gone` says that its page has been unmapped: it is never re-established (14 R320). -/
structure Window where
  grp : Nat
  ctx : Nat
  base : Nat
  len : Nat
  off : Nat
  valid : Bool
  gone : Bool
  deriving DecidableEq, Repr

/-- A pin (09 R209). -/
structure Pin where
  grp : Nat
  ctx : Nat
  base : Nat
  len : Nat
  lapse : Nat
  deriving DecidableEq, Repr

/-- A region lock (10 R236): scope, instance, holder, refused threads in the order of their first refusal; a thread is (group, TID). -/
structure RLock where
  scope : Nat
  inst : Nat
  holder : Option (Nat × Nat)
  refused : List (Nat × Nat)
  deriving DecidableEq, Repr

/-- An ordered slot (13 R298). -/
structure OSlot where
  ctx : Nat
  addr : Nat
  transpose : Bool
  nrank : Nat
  kern : Nat
  kseq : Word
  parts : List (Nat × EngCmd)
  deriving DecidableEq, Repr

/-- A pack attached to a pending fault (14 R325). -/
structure FPack where
  grp : Nat
  tids : List Nat
  record : FaultRec
  deriving DecidableEq, Repr

/-- A pending fault of the page path (14 R325). `at_` is its device time in ns; `asked` that a renewal was requested. -/
structure PendFault where
  fseq : Nat
  ctx : Nat
  page : Nat
  cause : Nat
  access : Nat
  record : FaultRec
  packs : List FPack
  at_ : Nat
  queued : Bool
  asked : Bool
  deriving DecidableEq, Repr

/-- A page operation in progress at the Registrar: a refill, a write-back, a migration (14 R314, R315, R320), whose shootdown is done once `shot`, a CWB that its port does not carry yet (09 R208, 15 R345), or a page whose new accesses are held for UNMAP (14 R320). -/
inductive PageOp where
  | refill (prefetch : Bool) (llc : Bool)
  | writeBack (evict : Bool)
  | migrate (back : Nat) (shot : Bool)
  | clean
  | hold
  deriving DecidableEq, Repr

/-- A page operation with its context and page, the time it began, and whether a back-invalidation snoop came during it (14 R330). -/
structure PageJob where
  ctx : Nat
  page : Nat
  op : PageOp
  since : Nat := 0
  snooped : Bool := false
  deriving DecidableEq, Repr

/-- An HBM frame in use (14 R316): its page; `table` for a page table. -/
structure FrameSt where
  ctx : Nat
  page : Nat
  table : Bool
  deriving DecidableEq, Repr

/-- A lease (14 R321), with what the Registrar keeps beside it (15 R349, 14 R322 to R324). Times are device time in ns. -/
structure Lease where
  state : Nat
  ctx : Nat
  port : Nat
  shr : Bool
  lid : Word
  vabase : Nat
  pooladdr : Dword
  expiry : Nat
  gen : Word
  node : Nat
  lastFault : Nat
  failedAt : Nat
  deadline : Nat
  acked : Bool
  asking : Bool
  askedAt : Nat
  deriving DecidableEq, Repr

/-- An outbound mailbox record (15 R348, R349). -/
structure OutRec where
  type : Nat
  lid : Word
  node : Nat
  shr : Bool
  port : Nat
  ctx : Nat
  arg : Nat
  deriving DecidableEq, Repr

/-- A prefetch request (14 R332): the context, the pages still to stage, `.llc`. -/
structure PrefReq where
  ctx : Nat
  pages : List Nat
  llc : Bool
  deriving DecidableEq, Repr

/-- A held device write (04 R402, 05 R109): context, virtual address, bytes, its pending fault once raised, and the ring or record it belongs to. -/
structure DevWrite where
  ctx : Nat
  va : Nat
  bytes : List Byte
  stream : Nat
  wait : Option Nat
  lost : Bool
  deriving DecidableEq, Repr

/-- Directory states (12 R275). -/
inductive DirSt where
  | home
  | held (d : Nat)
  | priv
  | handoff (src dst : Nat)
  | merge (to_ : Option Nat)
  | wb (d : Nat)
  deriving DecidableEq, Repr

/-- A directory line (12 R275, R277): masks by die as 128-bit numbers, and the bytes written during the present hold. -/
structure DirLine where
  state : DirSt
  cnt : Nat
  masks : Tab Nat
  wrote : Nat
  dirty : Bool
  copies : List Nat
  deriving DecidableEq, Repr

/-- A CXL port (15 R340, R352). -/
structure Port where
  state : Nat
  rate : Nat
  width : Nat
  errcnt : Nat
  pid : Nat
  ide : Bool
  deriving DecidableEq, Repr

/-- BAR0 registers kept as written or reported; `sampStart` is each die's cycle count at the last write of SAMPCFG (16 R370); `mapWait` is a MAP that waits for its QCB's page, with BUSY at 1 (05 R108): slot, context, fault, control block; `qBusy` is the slot of a command whose change waits for a write of its control block (05 R107, R109), `ctxBusy` the slots whose new STATE a RESUME waits to see written (04 R92, 05 R109); `dbgHalt` are the groups that a HOST HALT still has to stop (10 R240, 16 R363); `ctxAt` holds the plinth cycle of the last command to each context (04 R94) (04 R91, 05 R106, 14 R318, 15 R340, 16 R363, 19 R394). -/
structure Bar0 where
  ctxdesc : Dword
  ctxErr : Nat
  ctxLast : Nat
  qslotaddr : Dword
  qErr : Nat
  qLast : Nat
  mapWait : Option (Nat × Nat × Nat × Dword)
  rqbase : Dword
  rqlog : Nat
  rqprod : Dword
  rqcons : Dword
  hostlim : Nat
  age : Nat
  renewwait : Nat
  lead : Nat
  mbxaddr : Dword
  mbxen : Bool
  mbxport : Nat
  ptmOffset : Word
  ptmAt : Option Nat
  ptmLocked : Bool
  pwrErr : Nat
  qout : BitVec 96
  qgate : BitVec 96
  stfail : BitVec 96
  retrain : Nat
  hbmDown : BitVec 8
  trip : Dword
  fwaddr : Dword
  dbgarg0 : Dword
  dbgarg1 : Dword
  dbgErr : Nat
  sampbase : Dword
  gated : Bool
  period : Nat
  sampStart : List Nat
  tracebase : Dword
  dbgdata : BitVec 512
  qBusy : Option Nat := none
  ctxBusy : List Nat := []
  dbgHalt : List Nat := []
  ctxAt : Tab Nat := []
  deriving DecidableEq, Repr

/-- What a core of a quad has free, as the distributor last heard (06 R127). -/
structure CoreFree where
  groups : Nat
  threads : Nat
  frameBytes : Nat
  scratchBytes : Nat
  accs : Nat
  vslots : Nat
  deriving DecidableEq, Repr

/-- One turn of the agenda (log 3): the next event of an agent, an issue of a stream, whole or for some of its threads, time passing, or what the world outside does. -/
inductive Turn where
  | event (i : Instr)
  | issue (core stream : Nat)
  | issueLanes (core stream lanes : Nat)
  | focus (core stream : Nat)
  | time (ticks : Nat)
  | copyBytes (quad ch bytes : Nat)
  | copyAhead (quad ch pos : Nat)
  | evictL1 (core ctx line : Nat)
  | drainNarrow (core idx scope : Nat)
  | widen (idx scope : Nat)
  | hostWrite (addr : Nat) (bytes : List Byte)
  | poolWrite (addr : Nat) (bytes : List Byte)
  | hdmMap (base : Option Nat)
  | barRead (off n : Nat)
  | bar2Write (addr : Nat) (bytes : List Byte)
  | bar2Read (addr n : Nat)
  deriving DecidableEq, Repr

/-- The word being issued (07 R146): core, stream, group, address, the pack's place in the dispatch, the word, and the pack's threads whose guard holds. -/
structure Issue where
  core : Nat
  stream : Nat
  grp : Nat
  pc : Dword
  pack : Nat
  lanes : List (Nat × Nat)
  word : Dword
  on : List Nat := []
  deriving DecidableEq, Repr

/-- The whole device. The first five fields are the model's own (logs 3 and 4), and so are `reply`, what the last host read was answered, bytes and poison, and `served`, the requests for lines served in the present plinth cycle: cycle, line, die (12 R276). `evbuf` are the events that have reached the plinth in its present cycle (16 R369); `laneLimit` bounds the threads that the present issue goes to (log 3). -/
structure State where
  agenda : List Turn
  focus : Nat × Nat
  issue : Option Issue
  choiceCtr : Nat
  nextUid : Nat
  tick : Nat
  devTicks : Nat
  slew : Int
  halvedAt : Nat
  boot : Nat
  powered : Bool
  tripped : Bool
  fwVersion : Nat
  measured : List (BitVec 256)
  measuredVersion : Word
  bar : Bar0
  bar2 : Mem
  dies : List Die
  ports : List Port
  hdmBase : Option Nat
  hbm : Mem
  hostMem : Mem
  pool : Mem
  unseen : List Unseen
  poison : List Nat
  dir : Tab DirLine
  served : List (Nat × Nat × Nat)
  hostFilter : List Nat
  cores : Tab CoreSt
  chains : Tab Chain
  groups : Tab Group
  kernels : Tab Kernel
  kernOrder : Nat
  reports : Tab (List CoreFree)
  ctxs : Tab Ctx
  slots : Tab QSlot
  lastAccept : Tab Nat
  unmaps : List Unmapped
  locks : List RLock
  windows : List Window
  pins : List Pin
  oslots : List OSlot
  pend : List PendFault
  fseq : Nat
  jobs : List PageJob
  frames : Tab FrameSt
  counters : Tab Nat
  leases : Tab Lease
  outbox : List OutRec
  prefetch : List PrefReq
  devWrites : List DevWrite
  msi : List Nat
  msiHeld : List Nat
  reply : List Byte × Bool
  evbuf : List TrigEvent
  laneLimit : Option Nat
  deriving DecidableEq, Repr

/-- BAR0 at reset (04 R91, 05 R106, 14 R318, 15 R340, 16 R363, 19 R394). -/
def Bar0.reset : Bar0 :=
  { ctxdesc := 0, ctxErr := 0, ctxLast := 0, qslotaddr := 0, qErr := 0, qLast := 0, mapWait := none,
    rqbase := 0, rqlog := 0, rqprod := 0, rqcons := 0, hostlim := 0, age := 10, renewwait := 500, lead := 50,
    mbxaddr := 0, mbxen := false, mbxport := 0, ptmOffset := 0, ptmAt := none, ptmLocked := false,
    pwrErr := 0, qout := BitVec.allOnes 96, qgate := 0, stfail := 0, retrain := 64, hbmDown := 0, trip := 0, fwaddr := 0,
    dbgarg0 := 0, dbgarg1 := 0, dbgErr := 0, sampbase := 0, gated := false, period := 0, sampStart := [], tracebase := 0, dbgdata := 0 }

/-- A die at reset: 2.1 GHz (01 R19); its cycle count starts at 0 (log 5). -/
def Die.reset : Die := { level := 0, clock := 0, frac := 0, tlb := [] }

/-- A port at reset (15 R340, R352): port 0 TRAINING, the others DISABLED. -/
def Port.reset (p : Nat) : Port := { state := if p = 0 then 1 else 0, rate := 0, width := 0, errcnt := 0, pid := 0, ide := false }

/-- The machine right after reset (19 R399, R400, R394; 04 R91; 15 R350, R352): no context, no queue mapped, no group, every quad OUT, every clock at 2.1 GHz, no step of bring-up done. -/
def State.reset : State :=
  { agenda := [], focus := (0, 0), issue := none, choiceCtr := 0, nextUid := 0, tick := 0, devTicks := 0, slew := 0, halvedAt := 0,
    boot := 0, powered := true, tripped := false, fwVersion := 0, measured := [], measuredVersion := 0, bar := Bar0.reset, bar2 := [],
    dies := List.replicate 8 Die.reset, ports := (List.range 8).map Port.reset, hdmBase := none,
    hbm := [], hostMem := [], pool := [], unseen := [], poison := [], dir := [], served := [], hostFilter := [], cores := [], chains := [], groups := [], kernels := [], kernOrder := 0,
    reports := [], ctxs := [], slots := [], lastAccept := [], unmaps := [], locks := [], windows := [], pins := [], oslots := [], pend := [], fseq := 0, jobs := [], frames := [], counters := [],
    leases := [], outbox := [], prefetch := [], devWrites := [], msi := [], msiHeld := [], reply := ([], false), evbuf := [], laneLimit := none }

end Sys2Proof.Machine
end

