-- ==== Sys2Proof/Machine/Table.lean ====
section
/-! DEFINITION. Operations on the plain tables of State, and little-endian bytes: the one place where byte order and the canonical form of memories are decided. -/

namespace Sys2Proof.Machine

/-- Insert a key before the first greater one. -/
def insertKey {α : Type} (k : Nat) (a : α) : List (Nat × α) → List (Nat × α)
  | [] => [(k, a)]
  | e :: t => if k < e.1 then (k, a) :: e :: t else e :: insertKey k a t

/-- Remove a key. -/
def dropKey {α : Type} (k : Nat) (t : List (Nat × α)) : List (Nat × α) := t.filter (fun e => e.1 != k)

/-- The record of a key. -/
def lookKey {α : Type} (k : Nat) (t : List (Nat × α)) : Option α := (t.find? (fun e => e.1 == k)).map (fun e => e.2)

/-- Keys strictly rising. -/
def keysRise {α : Type} : List (Nat × α) → Bool
  | [] => true
  | [_] => true
  | e :: f :: t => decide (e.1 < f.1) && keysRise (f :: t)

/-- Put a record under a key. -/
def putKey {α : Type} (k : Nat) (a : α) (t : List (Nat × α)) : List (Nat × α) := insertKey k a (dropKey k t)

/-- A sparse table read: the default where nothing is listed. -/
def sparseGet {α : Type} (d : α) (t : List (Nat × α)) (k : Nat) : α := (lookKey k t).getD d

/-- A sparse table write: the default is never listed. -/
def sparseSet {α : Type} [DecidableEq α] (d : α) (t : List (Nat × α)) (k : Nat) (a : α) : List (Nat × α) :=
  if a = d then dropKey k t else putKey k a t

/-- The canonical form of a sparse table. -/
def sparseWf {α : Type} [DecidableEq α] (d : α) (t : List (Nat × α)) : Bool := keysRise t && t.all (fun e => decide (e.2 ≠ d))

/-- A byte of a memory. -/
def Mem.get (m : Mem) (a : Nat) : Byte := sparseGet Config.blankByte m a

/-- A memory with one byte written. -/
def Mem.set (m : Mem) (a : Nat) (b : Byte) : Mem := sparseSet Config.blankByte m a b

/-- The canonical form of a memory. -/
def Mem.wf (m : Mem) : Bool := sparseWf Config.blankByte m

/-- n bytes from an address. -/
def Mem.read (m : Mem) (a n : Nat) : List Byte := (List.range n).map (fun i => m.get (a + i))

/-- Bytes written from an address upwards. -/
def Mem.write (m : Mem) (a : Nat) : List Byte → Mem
  | [] => m
  | b :: bs => Mem.write (m.set a b) (a + 1) bs

/-- The bytes of [a, a + n), by offset from a. -/
def Mem.slice (m : Mem) (a n : Nat) : Mem := (m.filter (fun e => a ≤ e.1 && e.1 < a + n)).map (fun e => (e.1 - a, e.2))

/-- The bytes of [a, a + n) removed. -/
def Mem.clear (m : Mem) (a n : Nat) : Mem := m.filter (fun e => e.1 < a || a + n ≤ e.1)

/-- The bytes of [a, a + n) replaced by those of a part, whose addresses count from 0. -/
def Mem.paste (m : Mem) (a n : Nat) (part : Mem) : Mem :=
  m.filter (fun e => e.1 < a) ++ (part.filter (fun e => e.1 < n)).map (fun e => (e.1 + a, e.2)) ++ m.filter (fun e => a + n ≤ e.1)

/-- A little-endian number (00 R4). -/
def natOfBytes : List Byte → Nat
  | [] => 0
  | b :: bs => b.toNat + 256 * natOfBytes bs

/-- The n bytes of a number, little-endian (00 R4). -/
def bytesOfNat (v : Nat) : Nat → List Byte
  | 0 => []
  | n + 1 => BitVec.ofNat 8 v :: bytesOfNat (v / 256) n

/-- An n-byte number of a memory. -/
def Mem.num (m : Mem) (a n : Nat) : Nat := natOfBytes (m.read a n)

/-- A doubleword of a memory. -/
def Mem.dword (m : Mem) (a : Nat) : Dword := BitVec.ofNat 64 (m.num a 8)

/-- A register word of a sparse table of words. -/
def Words.get (w : Words) (n : Nat) : Word := sparseGet (0 : Word) w n

/-- A register word written. -/
def Words.set (w : Words) (n : Nat) (x : Word) : Words := sparseSet (0 : Word) w n x

/-- The canonical form of a sparse table of words. -/
def Words.wf (w : Words) : Bool := sparseWf (0 : Word) w

/-- Bits [hi:lo] of a value, as a number. -/
def bits {w : Nat} (x : BitVec w) (hi lo : Nat) : Nat := (x.toNat >>> lo) % 2 ^ (hi + 1 - lo)

/-- Sign extension of the low n bits of a number to w bits. -/
def sextNat (n w : Nat) (v : Nat) : BitVec w :=
  let m := v % 2 ^ n
  if m < 2 ^ (n - 1) then BitVec.ofNat w m else BitVec.ofInt w ((m : Int) - (2 ^ n : Nat))

/-- The k-th element of a list changed. -/
def modifyAt {α : Type} (l : List α) (k : Nat) (f : α → α) : List α :=
  match l, k with
  | [], _ => []
  | a :: t, 0 => f a :: t
  | a :: t, k + 1 => a :: modifyAt t k f

/-- The distinct members of a list, in the order of their first place. -/
def distinct {α : Type} [DecidableEq α] : List α → List α
  | [] => []
  | a :: t => a :: (distinct t).filter (fun b => decide (b ≠ a))

/-- A member put before the first one that it may stand before. -/
def placeBefore {α : Type} (le : α → α → Bool) (x : α) : List α → List α
  | [] => [x]
  | a :: t => if le x a then x :: a :: t else a :: placeBefore le x t

/-- A list in the order of a test; members the test does not tell apart stay as they stood. -/
def inOrder {α : Type} (le : α → α → Bool) : List α → List α
  | [] => []
  | a :: t => placeBefore le a (inOrder le t)

/-- A signed number as a word. -/
def wordOfInt (z : Int) : Word := BitVec.ofInt 32 z

/-- A pair of words as a doubleword, low word first (02 R37). -/
def joinWords (lo hi : Word) : Dword := (hi ++ lo)

/-- Low word of a doubleword. -/
def lowWord (x : Dword) : Word := x.setWidth 32

/-- High word of a doubleword. -/
def highWord (x : Dword) : Word := (x >>> 32).setWidth 32

end Sys2Proof.Machine
end

