-- ==== Sys2Proof/Machine/Directory.lean ====
section
/-! DEFINITION. The plinth directory (spec/12 R275 to R279): what a read, a write, an atomic or a recall does to a line's state. The value of a byte at its point of coherence is kept in hbm (log 10), so these operations move states and masks only. -/

namespace Sys2Proof.Machine

/-- A line no die holds (12 R275). -/
def DirLine.home : DirLine := { state := .home, cnt := 0, masks := [], wrote := 0, dirty := false, copies := [] }

/-- The directory's entry of a line. -/
def State.dirLine (s : State) (line : Nat) : DirLine := sparseGet DirLine.home s.dir line

/-- The directory's entry replaced by an access of the device; a HOME line with nothing recorded is not listed. A line the host may hold is snooped back and leaves the filter (15 R342). -/
def State.setDir (s : State) (line : Nat) (l : DirLine) : State := { s with dir := sparseSet DirLine.home s.dir line l, hostFilter := s.hostFilter.filter (fun x => x != line) }

/-- Bytes a die's mask holds (12 R275). -/
def DirLine.mask (l : DirLine) (d : Nat) : Nat := sparseGet 0 l.masks d

/-- A die's mask widened. -/
def DirLine.addMask (l : DirLine) (d m : Nat) : DirLine := { l with masks := sparseSet 0 l.masks d (l.mask d ||| m) }

/-- Bytes of masks of dies other than d. -/
def DirLine.others (l : DirLine) (d : Nat) : Nat := (l.masks.filter (fun e => e.1 != d)).foldl (fun a e => a ||| e.2) 0

/-- Lines in PRIV (12 R275). -/
def State.privLines (s : State) : Nat := (s.dir.filter (fun e => decide (e.2.state = .priv))).length

/-- The outcome of the hand-off count from die d to die e (12 R277). -/
def DirLine.handOff (l : DirLine) (d e priv : Nat) : DirLine :=
  let l1 := l.addMask d l.wrote
  let clash := decide (l1.mask d &&& l1.others d ≠ 0)
  let l2 := if clash then { l1 with masks := [], cnt := 0 } else { l1 with cnt := Nat.min (l1.cnt + 1) 4 }
  if l2.cnt = 4 ∧ priv < 65536 then
    { l2 with state := .priv, wrote := 0, dirty := false, copies := (e :: (l2.masks.map (fun x => x.1)).filter (fun x => x != e)) }
  else { l2 with state := .held e, wrote := 0, copies := [] }

/-- The outcome of a merge (12 R277): HELD by the requester, or HOME for a recall. -/
def DirLine.merged (to_ : Option Nat) : DirLine :=
  match to_ with
  | some e => { DirLine.home with state := .held e }
  | none => DirLine.home

/-- A holder's line back in HOME (12 R275, R278): the count stays, and so do the masks, with the bytes written during the hold. -/
def DirLine.released (l : DirLine) (d : Nat) : DirLine := { DirLine.home with cnt := l.cnt, masks := (l.addMask d l.wrote).masks }

/-- A transient state brought to its end before the next request is served (12 R276, Serialisation). -/
def DirLine.settle (l : DirLine) (priv : Nat) : DirLine :=
  match l.state with
  | .handoff d e => l.handOff d e priv
  | .merge t => DirLine.merged t
  | .wb d => l.released d
  | _ => l

/-- A read of bytes `m` by die d (12 R279). -/
def DirLine.read (l : DirLine) (d m : Nat) : DirLine :=
  match l.state with
  | .home => { l with state := .held d, wrote := 0, dirty := false }
  | .priv => if l.others d &&& m = 0 then l else DirLine.merged (some d)
  | _ => l

/-- A line is brought into a die's cache, HELD: privatised copies merge, also those a hand-off has just granted (10 R231; 12 R269, R275 to R279). -/
def DirLine.claim (l : DirLine) (d priv : Nat) : DirLine :=
  match l.state with
  | .home => { l with state := .held d, wrote := 0, dirty := false }
  | .held e => if e = d then l else (match (l.handOff e d priv).state with | .priv => DirLine.merged (some d) | _ => l.handOff e d priv)
  | _ => DirLine.merged (some d)

/-- A write of bytes `m` by die d, which needs to be the holder or to write within its own mask (12 R276, R279). -/
def DirLine.write (l : DirLine) (d m priv : Nat) : DirLine :=
  let own (x : DirLine) : DirLine := { x with wrote := x.wrote ||| m, dirty := true }
  let privWrite (x : DirLine) : DirLine :=
    if x.copies.contains d && (x.others d &&& m == 0) then x.addMask d m else own (DirLine.merged (some d))
  match l.state with
  | .home => own { l with state := .held d, wrote := 0 }
  | .held e =>
    if e = d then own l else
      let x := l.handOff e d priv
      if x.state = .priv then privWrite x else own x
  | .priv => privWrite l
  | _ => l

/-- An atomic of device scope from die d (12 R269, R279): at the holder, or at the LLC when the line is HOME; in PRIV the line merges first. -/
def DirLine.atomicDev (l : DirLine) (d m : Nat) : DirLine :=
  match l.state with
  | .held _ => { l with wrote := l.wrote ||| m, dirty := true }
  | .priv => let x := DirLine.merged (some d); { x with wrote := m, dirty := true }
  | _ => l

/-- Byte mask of an access of n bytes at a physical address, within its line. -/
def lineMask (phys n : Nat) : Nat := (2 ^ n - 1) <<< (phys % 128)

/-- The line brought out of a transient state. -/
def State.dirSettled (s : State) (line : Nat) : DirLine := (s.dirLine line).settle s.privLines

/-- Dies whose caches hold a line (12 R275). -/
def DirLine.holders (l : DirLine) : List Nat :=
  match l.state with
  | .held d => [d]
  | .priv => l.copies
  | _ => []

/-- An access counter rises, saturating, by a number of fills or copy reads of a line (14 R317). -/
def State.countFrame (s : State) (phys n : Nat) : State :=
  if n = 0 then s else { s with counters := sparseSet 0 s.counters (phys / 65536) (Nat.min (sparseGet 0 s.counters (phys / 65536) + n) 255) }

/-- A line leaves the host's filter: the device reads it, and the host is snooped first (15 R342). -/
def State.unhost (s : State) (line : Nat) : State := { s with hostFilter := s.hostFilter.filter (fun x => x != line) }

/-- A line's state after an access; each die cache that it fills counts for the frame (14 R317). -/
def State.dirSet (s : State) (phys : Nat) (l : DirLine) : State :=
  (s.setDir (phys / 128) l).countFrame phys (l.holders.filter (fun d => !(s.dirLine (phys / 128)).holders.contains d)).length

/-- A die reads bytes `m` of a line; a line being written back is served from the victim buffer and stays so (12 R278). -/
def State.dirReadMask (s : State) (die line m : Nat) : State :=
  match (s.dirLine line).state with
  | .wb _ => s.setDir line (s.dirLine line)
  | _ => s.dirSet (line * 128) ((s.dirSettled line).read die m)

/-- A die reads n bytes at a physical address. -/
def State.dirRead (s : State) (die phys n : Nat) : State := s.dirReadMask die (phys / 128) (lineMask phys n)

/-- A die writes n bytes at a physical address. -/
def State.dirWrite (s : State) (die phys n : Nat) : State :=
  s.dirSet phys ((s.dirSettled (phys / 128)).write die (lineMask phys n) s.privLines)

/-- A line recalled (12 R276, R279): it becomes HOME; privatised copies merge. -/
def DirLine.recalled (l : DirLine) (priv : Nat) : DirLine :=
  let l1 := l.settle priv
  match l1.state with
  | .held d => l1.released d
  | .priv => DirLine.home
  | _ => l1

/-- Stores to [phys, phys + n) that were performed at a narrow scope are performed at every scope (12 R259). -/
def State.widen (s : State) (phys n : Nat) : State := { s with unseen := s.unseen.filter (fun u => !(decide (u.phys < phys + n) && decide (phys < u.phys + u.old.length))) }

/-- A line is recalled; the stores in it are performed everywhere. -/
def State.dirRecall (s : State) (line : Nat) : State := (s.setDir line ((s.dirLine line).recalled s.privLines)).widen (128 * line) 128

/-- The lines of [a, a + n) are recalled; the stores in them are performed everywhere. -/
def State.dirRecallRange (s : State) (a n : Nat) : State :=
  { s.widen (a / 128 * 128) ((a + n + 127) / 128 * 128 - a / 128 * 128) with dir := (s.dir.map (fun (e : Nat × DirLine) => if (e.1 + 1) * 128 ≤ a || a + n ≤ e.1 * 128 then e else (e.1, e.2.recalled s.privLines))).filter (fun e => decide (e.2 ≠ DirLine.home)), hostFilter := s.hostFilter.filter (fun x => (x + 1) * 128 ≤ a || a + n ≤ x * 128) }

/-- An atomic of a scope code on n bytes at a physical address (12 R269): below device scope the issuing die becomes the holder. -/
def State.dirAtomic (s : State) (die phys n scope : Nat) : State :=
  if scope ≤ 2 then s.dirSet phys (((s.dirSettled (phys / 128)).claim die s.privLines).write die (lineMask phys n) s.privLines)
  else if scope = 3 then s.dirSet phys ((s.dirSettled (phys / 128)).atomicDev die (lineMask phys n))
  else s.dirRecall (phys / 128)

end Sys2Proof.Machine
end

