-- ==== Sys2Proof/Machine/Access.lean ====
section
/-! DEFINITION. Finding things in State, time, translation of addresses (spec/14 R308 to R312), scratchpad windows (09 R210, R211), and the paths of loads and stores through the L1 and the write queue (09 R187 to R189). -/

namespace Sys2Proof.Machine

/-- A free stream (07 R143). -/
def Stream.free : Stream := { dispatch := none, trialCount := 0, trialDelay := 0 }

/-- A core with nothing resident and nothing queued (01 R12). -/
def CoreSt.empty : CoreSt :=
  { streams := [Stream.free, Stream.free], l1 := [], wq := [], tlb := [], arrayQ := [], loads := [], drains := [], engNum := 0, activations := [], sampleSlot := none, sampleNext := 0, traceSeq := 0 }

/-- A core by its global index (01 R11). -/
def State.core (s : State) (c : Nat) : CoreSt := (lookKey c s.cores).getD CoreSt.empty

/-- A core replaced. -/
def State.setCore (s : State) (c : Nat) (x : CoreSt) : State := { s with cores := putKey c x s.cores }

/-- A stream of a core. -/
def State.stream (s : State) (c k : Nat) : Stream := (s.core c).streams.getD k Stream.free

/-- A stream replaced. -/
def State.setStream (s : State) (c k : Nat) (x : Stream) : State :=
  s.setCore c { s.core c with streams := (s.core c).streams.set k x }

/-- A group by its number. -/
def State.group? (s : State) (g : Nat) : Option Group := lookKey g s.groups

/-- A group replaced. -/
def State.setGroup (s : State) (g : Nat) (x : Group) : State := { s with groups := putKey g x s.groups }

/-- A group changed, if it exists. -/
def State.modGroup (s : State) (g : Nat) (f : Group → Group) : State :=
  match s.group? g with
  | some x => s.setGroup g (f x)
  | none => s

/-- A thread of a group. -/
def State.thread? (s : State) (g t : Nat) : Option Thread := (s.group? g).bind (fun x => x.threads[t]?)

/-- A thread replaced. -/
def State.setThread (s : State) (g t : Nat) (th : Thread) : State :=
  s.modGroup g (fun x => { x with threads := x.threads.set t th })

/-- A thread changed, if it exists. -/
def State.modThread (s : State) (g t : Nat) (f : Thread → Thread) : State :=
  s.modGroup g (fun x => { x with threads := modifyAt x.threads t f })

/-- A trigger as after CREATE (16 R365 object 5). -/
def Trigger.reset : Trigger := { isOpen := false, windows := 0, emptyWin := 0, cfg := 0, action := 0 }

/-- A trial as after CREATE (16 R365 object 6). -/
def Trial.reset : Trial := { en := false, cfg := 0, dsum := 0, streamCyc := 0 }

/-- A context in EMPTY (04 R93). -/
def Ctx.empty : Ctx :=
  { state := .empty, desc := 0, prioCap := 0, rights := 0, maint := false, ptroot := 0, saveBase := 0, nslots := 0, slotSize := 0,
    ltBase := 0, bindBase := 0, jbase := 0, jlog := 0, jprod := 0, fbase := 0, flog := 0, fprod := 0, fdrop := 0, ehAddr := 0,
    cpolicy := 0, progress := 0, kseqNext := 1, bps := List.replicate 8 none, wps := List.replicate 4 none,
    trigs := List.replicate 4 Trigger.reset, trial := Trial.reset, journal := [], slotsUsed := [], faults := [] }

/-- A context by its number (04 R91). -/
def State.ctx (s : State) (c : Nat) : Ctx := (lookKey c s.ctxs).getD Ctx.empty

/-- A context replaced. -/
def State.setCtx (s : State) (c : Nat) (x : Ctx) : State := { s with ctxs := putKey c x s.ctxs }

/-- The context holds DEBUG (04 R97). -/
def Ctx.debug (c : Ctx) : Bool := c.rights.getLsbD 0

/-- The context holds PROFILE. -/
def Ctx.profile (c : Ctx) : Bool := c.rights.getLsbD 1

/-- The context holds TRACE. -/
def Ctx.trace (c : Ctx) : Bool := c.rights.getLsbD 2

/-- A kernel by its number. -/
def State.kern? (s : State) (k : Nat) : Option Kernel := lookKey k s.kernels

/-- A kernel replaced. -/
def State.setKern (s : State) (k : Nat) (x : Kernel) : State := { s with kernels := putKey k x s.kernels }

/-- A kernel changed, if it exists. -/
def State.modKern (s : State) (k : Nat) (f : Kernel → Kernel) : State :=
  match s.kern? k with
  | some x => s.setKern k (f x)
  | none => s

/-- A gang of a kernel. -/
def State.gang? (s : State) (k g : Nat) : Option Gang := (s.kern? k).bind (fun x => x.gangs[g]?)

/-- A gang changed, if it exists. -/
def State.modGang (s : State) (k g : Nat) (f : Gang → Gang) : State :=
  s.modKern k (fun x => { x with gangs := modifyAt x.gangs g f })

/-- A FREE lease (14 R321). -/
def Lease.free : Lease :=
  { state := 0, ctx := 0, port := 0, shr := false, lid := 0, vabase := 0, pooladdr := 0, expiry := 0, gen := 0, node := 0, lastFault := 0, failedAt := 0, deadline := 0, acked := false, asking := false, askedAt := 0 }

/-- A lease by its index (14 R321). -/
def State.lease (s : State) (l : Nat) : Lease := (lookKey l s.leases).getD Lease.free

/-- A lease replaced; a FREE one is not listed. -/
def State.setLease (s : State) (l : Nat) (x : Lease) : State :=
  { s with leases := if x.state = 0 then dropKey l s.leases else putKey l x s.leases }

/-- The lease that a page entry of a context names (14 R309, R310); another context's is none of its own (00 R1, log 75; 14 R335 reads it as FREE). -/
def State.leaseFor (s : State) (c : Nat) (p : Dword) : Lease := let l := s.lease (bits p 11 0); if l.ctx = c then l else Lease.free

/-- A port. -/
def State.port (s : State) (p : Nat) : Port := s.ports.getD p (Port.reset p)

/-- A port changed. -/
def State.setPort (s : State) (p : Nat) (x : Port) : State := { s with ports := s.ports.set p x }

/-- A port carries requests: ACTIVE, or LOWPOWER, from which a request wakes it (15 R352). -/
def State.linkUp (s : State) (p : Nat) : Bool := (s.port p).state == 2 || (s.port p).state == 3

/-- A request to send wakes a link from its low-power state (15 R352). -/
def State.wakePort (s : State) (p : Nat) : State := if (s.port p).state = 3 then s.setPort p { s.port p with state := 2 } else s

/-- The extent of a lease can be reached (15 R345). -/
def State.leaseReach (s : State) (l : Lease) : Bool := decide (l.port ≠ 0) && s.linkUp l.port

/-- Die of a core (01 R11). -/
def dieOf (core : Nat) : Nat := core / 48

/-- Global quad index of a core (01 R11). -/
def quadOf (core : Nat) : Nat := core / 4

/-- A die. -/
def State.die (s : State) (d : Nat) : Die := s.dies.getD d Die.reset

/-- The plinth cycle of now (01 R19). -/
def State.plinth (s : State) : Nat := s.tick / Config.plinthTicks

/-- Cycles of the clock of a core (01 R19, 02 R53 CLOCK); cores from 384 on are the Registrar's quad, at the plinth's clock (01 R10, log 86). -/
def State.clock (s : State) (core : Nat) : Nat := if Config.cores ≤ core then s.plinth else (s.die (dieOf core)).clock

/-- Device time in ns (01 R19, 15 R350). -/
def State.ns (s : State) : Nat := s.devTicks / Config.ticksPerNs

/-- A fault of the page path (14 R310, R325): cause, and the parts of EXTRA it finds. -/
structure PgFault where
  cause : Nat
  pstate : Nat
  kind : Nat
  lv : Bool
  lease : Nat
  lstate : Nat
  level : Nat
  deriving DecidableEq, Repr

/-- EXTRA [63:32] of a page-path record with its ACCESS code (14 R325). -/
def PgFault.extra (f : PgFault) (access : Nat) : Dword :=
  BitVec.ofNat 64 ((f.pstate <<< 60) ||| (f.kind <<< 58) ||| (access <<< 55) ||| ((if f.lv then 1 else 0) <<< 54)
    ||| (f.lease <<< 42) ||| (f.lstate <<< 39) ||| (f.level <<< 36))

/-- Where a walk ends (14 R308, R310): an invalid table entry of a level, or a page entry with its physical address. -/
inductive Walk where
  | invalid (level : Nat)
  | leaf (pa : Nat) (pte : Dword)
  deriving DecidableEq, Repr

/-- A table entry is valid (14 R309, R310). -/
def tableOk (e : Dword) : Bool := bits e 63 60 == 1 && bits e 59 39 == 0 && bits e 11 0 == 0

/-- Physical address of the next table (14 R309). -/
def tableNext (e : Dword) : Nat := bits e 38 12 * 4096

/-- Page entry fields (14 R309). -/
def pteState (p : Dword) : Nat := bits p 63 60
def pteKind (p : Dword) : Nat := bits p 59 58
def pteW (p : Dword) : Bool := p.getLsbD 56
def pteX (p : Dword) : Bool := p.getLsbD 55
def pteDirty (p : Dword) : Bool := p.getLsbD 54
def pteHint (p : Dword) : Nat := bits p 53 52
def pteFrame (p : Dword) : Nat := bits p 38 16
def pteLease (p : Dword) : Nat := bits p 11 0

/-- A field of a page entry replaced. -/
def pteWith (p : Dword) (hi lo v : Nat) : Dword :=
  BitVec.ofNat 64 (p.toNat - (bits p hi lo <<< lo) + ((v % 2 ^ (hi + 1 - lo)) <<< lo))

/-- A frame the Registrar has given to another context, or for the other use, page or table: an entry that names it breaks R309, and is contained (00 R1, log 75). -/
def State.foreign (s : State) (c frame : Nat) (table : Bool) : Bool := ((lookKey frame s.frames).map (fun f => f.ctx != c || f.table != table)).getD false

/-- A table entry leads to a table of the context. -/
def State.tableOwn (s : State) (c : Nat) (e : Dword) : Bool := tableOk e && !s.foreign c (tableNext e / 65536) true

/-- The page has a frame: RESIDENT, SHARED, PINNED or MIGRATING (14 R309). -/
def framed (p : Dword) : Bool := 2 ≤ pteState p && pteState p ≤ 5

/-- The walk of a virtual address from a context's root (14 R308): three table levels, then the page entry (log 11). A device access with a bit above 56 finds no entry (log 16), and a frame of another context is reached by none (log 75). -/
def State.walk (s : State) (c root va : Nat) : Walk :=
  let e3 := s.hbm.dword (root + 8 * (va / 2 ^ 43 % 16384))
  if 2 ^ 57 ≤ va ∨ !s.tableOwn c e3 then .invalid 3 else
    let e2 := s.hbm.dword (tableNext e3 + 8 * (va / 2 ^ 34 % 512))
    if !s.tableOwn c e2 then .invalid 2 else
      let e1 := s.hbm.dword (tableNext e2 + 8 * (va / 2 ^ 25 % 512))
      if !s.tableOwn c e1 then .invalid 1 else
        let pa := tableNext e1 + 8 * (va / 2 ^ 16 % 512)
        let p := s.hbm.dword pa
        if framed p && s.foreign c (pteFrame p) false then .invalid 0 else .leaf pa p

/-- The walk in a context's tables. -/
def State.walkCtx (s : State) (c va : Nat) : Walk := s.walk c (s.ctx c).ptroot.toNat va

/-- A page's new accesses are held for UNMAP (14 R320). -/
def PageJob.holds (j : PageJob) : Bool := match j.op with | .hold => true | _ => false

/-- A CWB under way (09 R208). -/
def PageJob.cleans (j : PageJob) : Bool := match j.op with | .clean => true | _ => false

/-- A refill, a write-back or a CWB: a request to the page's extent (15 R345). -/
def PageJob.pool (j : PageJob) : Bool :=
  match j.op with
  | .refill _ _ => true
  | .writeBack _ => true
  | .clean => true
  | _ => false

/-- A page is held for UNMAP (14 R320, step 1). -/
def State.pageHeld (s : State) (c page : Nat) : Bool := s.jobs.any (fun j => j.holds && j.ctx == c && j.page == page)

/-- What an access wants of a page (14 R310). -/
inductive Want where
  | load | store | fetch
  deriving DecidableEq, Repr

/-- The tests of 14 R310 on a page entry of a context, in their order. -/
def State.pageTest (s : State) (c : Nat) (p : Dword) (w : Want) : Option PgFault :=
  let st := pteState p
  let l := s.leaseFor c p
  let lv := decide (pteKind p ≠ 0 ∧ st ≠ 0)
  let f (c : Nat) : PgFault := { cause := c, pstate := st, kind := pteKind p, lv := lv, lease := if lv then pteLease p else 0, lstate := if lv then l.state else 0, level := 0 }
  if bits p 51 39 ≠ 0 ∨ bits p 15 12 ≠ 0 ∨ st > 7 ∨ pteKind p = 3 then some { f 0x10 with lv := false, lease := 0, lstate := 0 }
  else if pteKind p ≠ 0 ∧ st ≠ 0 ∧ st ≠ 6 ∧ st ≠ 7 ∧ (l.state = 0 ∨ l.state = 3) then some (f 0x13)
  else if pteKind p ≠ 0 ∧ st ≠ 0 ∧ st ≠ 6 ∧ st ≠ 7 ∧ l.state = 4 then some (f 0x14)
  else if pteKind p ≠ 0 ∧ st ≠ 0 ∧ st ≠ 6 ∧ st ≠ 7 ∧ l.state = 5 then some (f 0x15)
  else if st = 0 ∨ st = 1 ∨ st = 6 then some (f 0x10)
  else if st = 5 then some (f 0x12)
  else if st = 7 then some (f 0x17)
  else if w = .store ∧ (!pteW p ∨ st = 3) then some (f 0x11)
  else if w = .fetch ∧ !pteX p then some (f 0x11)
  else none

/-- Translation of a virtual address (14 R310, R320), without setting DIRTY. -/
def State.translate (s : State) (c va : Nat) (w : Want) : Except PgFault Nat :=
  match s.walkCtx c va with
  | .invalid lvl => .error { cause := 0x10, pstate := 0, kind := 0, lv := false, lease := 0, lstate := 0, level := lvl }
  | .leaf _ p =>
    if s.pageHeld c (va / 65536) then .error { cause := 0x12, pstate := pteState p % 16, kind := pteKind p, lv := false, lease := 0, lstate := 0, level := 0 } else
    match s.pageTest c p w with
    | some f => .error f
    | none => .ok (pteFrame p * 65536 + va % 65536)

/-- A page entry written by the Registrar or for a DIRTY bit (14 R309, R311). -/
def State.setPte (s : State) (pa : Nat) (p : Dword) : State := { s with hbm := s.hbm.write pa (bytesOfNat p.toNat 8) }

/-- DIRTY set at a first store (14 R310, R311, R315). -/
def State.markDirty (s : State) (c va : Nat) : State :=
  match s.walkCtx c va with
  | .leaf pa p => if pteDirty p then s else s.setPte pa (pteWith p 54 54 1)
  | .invalid _ => s

/-- The window of a context that holds an address (09 R210). -/
def State.windowAt (s : State) (c va : Nat) : Option Window :=
  s.windows.find? (fun w => w.ctx == c && decide (w.base ≤ va) && decide (va < w.base + w.len))

/-- A group's gang is resident: a saved gang's group is not (09 R211). -/
def State.residentGrp (s : State) (g : Nat) : Bool := ((s.group? g).map (fun x => x.resident)).getD false

/-- Where an access lands (09 R187): global memory, a scratchpad byte of a group (its own, a peer's, or through a window), or the group's own frame. -/
inductive Loc where
  | mem (va phys : Nat)
  | cell (grp off : Nat) (routed : Bool)
  | frame (off : Nat)
  deriving DecidableEq, Repr

/-- Routing of a global address: a window first (09 R210, R211; 14 R310), else translation. -/
def State.route (s : State) (c va : Nat) (w : Want) : Except PgFault Loc :=
  match s.windowAt c va with
  | some win =>
    if win.valid && s.residentGrp win.grp then .ok (.cell win.grp (win.off + (va - win.base)) true)
    else
      let (st, k) := match s.walkCtx c va with
        | .leaf _ p => (pteState p, pteKind p)
        | .invalid _ => (0, 0)
      .error { cause := 0x12, pstate := st % 16, kind := k, lv := false, lease := 0, lstate := 0, level := 7 }
  | none =>
    match s.translate c va w with
    | .ok pa => .ok (.mem va pa)
    | .error f => .error f

/-- A line of memory is poisoned (14 R331). -/
def State.poisoned (s : State) (phys : Nat) : Bool := s.poison.contains (phys / 128)

/-- LEVEL of a poison record (16 R356): the level the data came from, 1 to 3, is the device's (log 4). -/
def State.poisonLevel (s : State) : Nat := 1 + Config.pick s.choiceCtr % 3

/-- Bytes of the cache partition of a core (01 R16, R17). -/
def Group.frameBytes (g : Group) : Nat := g.frame * ((g.threads.length + 31) / 32) * 128

/-- The groups resident on a core. -/
def State.residents (s : State) (core : Nat) : List (Nat × Group) :=
  s.groups.filter (fun e => e.2.resident && e.2.core == core)

/-- Lines that a group's overflow list takes of the cache partition: 8 bytes for each thread that waits at one of its addresses (07 R141, log 73). -/
def Group.overflowLines (g : Group) : Nat := (8 * (g.threads.filter (fun t => decide (t.cond ≠ .running ∧ t.cond ≠ .exited) && g.overflow.contains t.addr)).length + 127) / 128

/-- Lines of the cache partition that hold a group's return stacks: entries of 8 bytes (07 R154). -/
def Group.stackLines (g : Group) : Nat := (8 * (g.threads.map (fun t => t.ret.length)).sum + 127) / 128

/-- L1 lines the cache partition of a core holds at most (01 R16; 07 R141, R154). -/
def State.l1Lines (s : State) (core : Nat) : Nat :=
  (1048576 - ((s.residents core).foldl (fun a e => a + e.2.frameBytes + 4096 * e.2.scratchUnits) 0)) / 128 - (s.residents core).foldl (fun a e => a + e.2.overflowLines + e.2.stackLines) 0

/-- Lines of each L1 displaced by overflow lists and return stacks that have grown, the oldest first (07 R141, R154; log 12). -/
def State.displace (s : State) : State :=
  { s with cores := s.cores.map (fun c => (c.1, if c.2.l1.isEmpty then c.2 else { c.2 with l1 := c.2.l1.drop (c.2.l1.length - s.l1Lines c.1) })) }

/-- A line of a core's L1. -/
def CoreSt.l1Find (c : CoreSt) (ctx line : Nat) : Option L1Line := c.l1.find? (fun l => l.ctx == ctx && l.line == line)

/-- L1 lines of a core dropped. -/
def State.l1Drop (s : State) (core : Nat) (f : L1Line → Bool) : State :=
  s.setCore core { s.core core with l1 := (s.core core).l1.filter (fun l => !f l) }

/-- A whole L1 invalidated (09 R207). -/
def State.l1Clear (s : State) (core : Nat) : State := s.l1Drop core (fun _ => true)

/-- L1 lines of a range of a context invalidated (09 R208). -/
def State.l1Range (s : State) (core ctx base len : Nat) : State :=
  s.l1Drop core (fun l => l.ctx == ctx && decide (base / 128 ≤ l.line) && decide (l.line * 128 < base + len))

/-- Scope instance of a core (01 R23). -/
def scopeInst (scope core : Nat) : Nat :=
  match scope with
  | 0 => core
  | 1 => quadOf core
  | 2 => dieOf core
  | _ => 0

/-- Global memory as the loads of a core's threads read it at the point of coherence (12 R259): stores performed only at the scope instances of other cores are not there yet. -/
def State.seen (s : State) (core : Nat) : Mem :=
  (s.unseen.filter (fun u => scopeInst u.scope u.core != scopeInst u.scope core)).foldl (fun m u => m.write u.phys u.old) s.hbm

/-- The state as an engine reads memory (01 R24, 12 R258): one beside a core as that core's threads do; a copy channel acts on the quad, and is inside no group's scope. -/
def State.viewOf (s : State) (core : Nat) (channel : Bool) : State :=
  { s with hbm := (s.unseen.filter (fun u => (channel && u.scope == 0) || scopeInst u.scope u.core != scopeInst u.scope core)).foldl (fun m u => m.write u.phys u.old) s.hbm }

/-- A line put into an L1 with no state taken in the directory (07 R155, 09 R188); a line the host may hold is snooped (15 R342); a full partition loses its oldest line (log 12). -/
def State.l1Install (s : State) (core ctx va phys : Nat) : State :=
  let line : L1Line := { ctx := ctx, line := va / 128, bytes := (s.seen core).slice (phys / 128 * 128) 128 }
  let old := (s.core core).l1
  (s.unhost (phys / 128)).setCore core { s.core core with l1 := old.drop (old.length + 1 - s.l1Lines core) ++ [line] }

/-- A line filled into an L1 from the die cache or beyond by a load of n bytes (09 R188, 12 R279). -/
def State.l1Fill (s : State) (core ctx va phys n : Nat) : State := (s.dirRead (dieOf core) phys n).l1Install core ctx va phys

/-- A store overlaps a byte range of global memory. -/
def WqEntry.overlaps (e : WqEntry) (phys n : Nat) : Bool := decide (e.phys < phys + n) && decide (phys < e.phys + e.bytes.length)

/-- Two stores touch a common byte. -/
def WqEntry.clash (a b : WqEntry) : Bool := a.overlaps b.phys b.bytes.length

/-- Stores with the scopes they must be performed at, if any: an earlier one that touches a byte of another goes first, at the same scope (07 R146, 12 R260). -/
def withEarlier (f : WqEntry → Option Nat) (l : List WqEntry) : List (WqEntry × Option Nat) :=
  l.foldr (fun e a => (e, ((f e).toList ++ (a.filter (fun x => x.1.clash e)).filterMap (fun x => x.2)).max?) :: a) []

/-- Scratchpad bytes of a group. -/
def State.scratchRead (s : State) (g off n : Nat) : List Byte :=
  match s.group? g with
  | some x => x.scratch.read off n
  | none => List.replicate n 0

/-- Scratchpad bytes of a group written. -/
def State.scratchWrite (s : State) (g off : Nat) (bs : List Byte) : State :=
  s.modGroup g (fun x => { x with scratch := x.scratch.write off bs })

/-- A byte with one nibble replaced (09 R202): `hi` selects bits [7:4]. -/
def nibbleInto (old new : Byte) (hi : Bool) : Byte :=
  if hi then (old &&& 0x0F) ||| (new &&& 0xF0) else (old &&& 0xF0) ||| (new &&& 0x0F)

/-- Bytes written to global memory at their point of coherence by a party of a die, for every party (12 R259, R276). -/
def State.performWrite (s : State) (die phys : Nat) (bs : List Byte) : State :=
  let s1 := s.dirWrite die phys bs.length
  { s1 with hbm := s1.hbm.write phys bs }.widen phys bs.length

/-- A retired store is performed at a scope (09 R188, R192; 12 R259): written through, with the core's own L1 line updated if present. At group, quad or die scope the parties outside still read what was there. -/
def State.drainEntry (s : State) (core : Nat) (e : WqEntry) (scope : Nat) : State :=
  let bs := match e.nibble, e.bytes with
    | some hi, [b] => [nibbleInto (s.hbm.get e.phys) b hi]
    | _, l => l
  let s0 := s.performWrite (dieOf core) e.phys bs
  let s1 : State := if scope < 3 then { s0 with unseen := s0.unseen ++ [{ grp := e.grp, tid := e.tid, ctx := e.ctx, va := e.va, core := core, scope := scope, phys := e.phys, old := s.hbm.read e.phys bs.length }] } else s0
  let upd (l : L1Line) : L1Line := if l.ctx == e.ctx && l.line == e.va / 128 then { l with bytes := l.bytes.write (e.va % 128) bs } else l
  s1.setCore core { s1.core core with l1 := (s1.core core).l1.map upd }

/-- A party: a thread, or an engine or device access (12 R258). -/
abbrev Party := Option (Nat × Nat)

/-- A line is tracked by an exclusive attempt that another party on the core must wait for (10 R237). -/
def State.lineHeld (s : State) (core line : Nat) (who : Party) : Bool :=
  s.locks.any (fun l => decide (l.inst = scopeInst l.scope core) &&
    match l.holder with
    | none => false
    | some (g, t) => decide (who ≠ some (g, t)) &&
      (match s.thread? g t with
      | some th => (match th.region with
        | some r => r.excl && r.lines.contains line
        | none => false)
      | none => false))

/-- The stores of a core drained in order at the scopes they need, with the earlier ones to their bytes; none while an exclusive attempt holds a line of one (10 R237). -/
def State.drainAt (s : State) (core : Nat) (f : WqEntry → Option Nat) : Option State :=
  let all := withEarlier f (s.core core).wq
  if all.any (fun e => e.2.isSome && s.lineHeld core (e.1.phys / 128) (some (e.1.grp, e.1.tid))) then none
  else
    let s1 := all.foldl (fun a e => match e.2 with
      | some scope => a.drainEntry core e.1 scope
      | none => a) s
    some (s1.setCore core { s1.core core with wq := (all.filter (fun e => e.2.isNone)).map (fun e => e.1) })

/-- Stores performed at a narrow scope that a test names are performed at a wider one (12 R259). -/
def State.widenTo (s : State) (f : Unseen → Option Nat) : State :=
  { s with unseen := s.unseen.filterMap (fun u => match f u with
      | some n => if n < 3 then some { u with scope := Nat.max u.scope n } else none
      | none => some u) }

/-- The stores of a core that satisfy a test performed at every scope. -/
def State.drainWhere (s : State) (core : Nat) (f : WqEntry → Bool) : Option State := s.drainAt core (fun e => if f e then some 4 else none)

/-- The stores of one thread performed at a scope (09 R207, 12 R263, R266): those still queued, and those performed at a narrower one. -/
def State.drainThread (s : State) (core g t : Nat) (scope : Nat := 4) : Option State :=
  (s.widenTo (fun u => if u.grp == g && u.tid == t then some scope else none)).drainAt core (fun e => if e.grp == g && e.tid == t then some scope else none)

/-- What a load meets (09 R188, R189): its bytes, or a store of its own that an exclusive attempt holds back. -/
def State.loadBytes (s : State) (core ctx g t : Nat) (loc : Loc) (n : Nat) : Option (State × List Byte) :=
  let fromL1 (a : State) (va phys : Nat) : State × List Byte :=
    let b := if ((a.core core).l1Find ctx (va / 128)).isSome then a else a.l1Fill core ctx va phys n
    (b, (((b.core core).l1Find ctx (va / 128)).map (fun l => l.bytes.read (va % 128) n)).getD [])
  match loc with
  | .cell grp off _ => some (s, s.scratchRead grp off n)
  | .frame _ => some (s, [])
  | .mem va phys =>
    let mine (e : WqEntry) : Bool := e.grp == g && e.tid == t && e.overlaps phys n
    match ((s.core core).wq.filter mine).getLast? with
    | some e =>
      if e.phys ≤ phys ∧ phys + n ≤ e.phys + e.bytes.length ∧ e.nibble = none then
        some (s, (e.bytes.drop (phys - e.phys)).take n)
      else (s.drainWhere core mine).map (fun s1 => fromL1 s1 va phys)
    | none => some (fromL1 s va phys)

/-- The bytes at their point of coherence, past every L1 (10 R224, 12 R259). -/
def State.currentBytes (s : State) (loc : Loc) (n : Nat) : List Byte :=
  match loc with
  | .mem _ phys => s.hbm.read phys n
  | .cell g off _ => s.scratchRead g off n
  | .frame _ => []

/-- A store retires into the write queue; a store to a scratchpad goes directly to it (09 R188, R192; log 13). -/
def State.queueStore (s : State) (core ctx g t : Nat) (loc : Loc) (bs : List Byte) (nib : Option Bool) : State :=
  match loc with
  | .cell grp off _ =>
    match nib, bs with
    | some hi, [b] => s.scratchWrite grp off [nibbleInto ((s.scratchRead grp off 1).headD 0) b hi]
    | _, _ => s.scratchWrite grp off bs
  | .frame _ => s
  | .mem va phys =>
    let e : WqEntry := { grp := g, tid := t, ctx := ctx, va := va, phys := phys, bytes := bs, nibble := nib }
    let s1 := s.markDirty ctx va
    s1.setCore core { s1.core core with wq := (s1.core core).wq ++ [e] }

/-- A device or engine access reads n bytes of a context's memory, past every L1 (13 R303, 05 R109). -/
def State.devRead (s : State) (ctx va n : Nat) : Except PgFault (List Byte) :=
  match s.route ctx va .load with
  | .ok l => .ok (s.currentBytes l n)
  | .error f => .error f

/-- Bytes written by an engine or the device to a routed location, performed at once (12 R270). -/
def State.devPut (s : State) (die ctx : Nat) (loc : Loc) (bs : List Byte) : State :=
  match loc with
  | .mem va phys => (s.markDirty ctx va).performWrite die phys bs
  | .cell g off _ => s.scratchWrite g off bs
  | .frame _ => s

end Sys2Proof.Machine
end

