-- ==== Sys2Proof/Machine/Thread.lean ====
section
/-! DEFINITION. One thread: its registers and their release (spec/02 R37, R49, R50), its conditions (07 R139), held writes and windows (02 R45, R46), queue registers (02 R39, 09 R193), and the bookkeeping of an atomic region (10 R220 to R234). -/

namespace Sys2Proof.Machine

/-- A thread as it starts at ENTRY (02 R38, 06 R126, 07 R139). -/
def Thread.start (entry : Dword) (params : List Word) (clock : Nat) : Thread :=
  { v := (params.zipIdx.foldl (fun w e => Words.set w e.2 e.1) ([] : Words)), p := 0, q := List.replicate 8 [], released := [], held := [], cond := .waiting, addr := entry, since := clock, token := none, queues := [], napLeft := 0,
    ret := [], spill := 0, stack := [], depth := 0, reloc := false, acause := 0, arepairs := 0, retry := 0, retryAt := 0, sq := 0, lastAbegin := none, region := none, handler := none, stepOver := false, preciseHalt := false, raised := [], place := (0, 0, 0), late := none }

/-- Waiting, runnable, at an address from this cycle on (07 R139). -/
def Thread.waitAt (t : Thread) (a : Dword) (clock : Nat) : Thread := { t with cond := .waiting, addr := a, since := clock, token := none, queues := [], napLeft := 0 }

/-- Blocked at an address (07 R139). -/
def Thread.blockAt (t : Thread) (r : Reason) (a : Dword) (clock : Nat) : Thread := { t with cond := .blocked r, addr := a, since := clock }

/-- The thread is running (07 R139). -/
def Thread.isRunning (t : Thread) : Bool := decide (t.cond = .running)

/-- A predicate register; p7 reads true (02 R37). -/
def Thread.pred (t : Thread) (n : Nat) : Bool := if n ≥ 7 then true else t.p.getLsbD n

/-- A predicate register written; p7 discards (02 R37). -/
def Thread.setPred (t : Thread) (n : Nat) (b : Bool) : Thread :=
  if n ≥ 7 then t else { t with p := if b then t.p ||| (1 <<< n : BitVec 7) else t.p &&& ~~~(1 <<< n : BitVec 7) }

/-- The guard of a word (02 R41). -/
def Thread.guard (t : Thread) (g : Guard) : Bool := t.pred g.p.toNat != g.neg

/-- A vector register written, live again (02 R49), with no region bookkeeping. -/
def Thread.setV (t : Thread) (n : Nat) (x : Word) : Thread := { t with v := t.v.set n x, released := t.released.filter (fun r => r != n) }

/-- A register's value kept before its first write in the region (10 R220, Checkpoint). -/
def Region.keep (r : Region) (n : Nat) (old : Word) : Region :=
  if r.chkV.any (fun e => e.1 == n) then r else { r with chkV := r.chkV ++ [(n, old)] }

/-- A register's tag removed (10 R226). -/
def Region.untag (r : Region) (n : Nat) : Region := { r with tags := r.tags.filter (fun e => e.1 != n) }

/-- Room for the checkpoints of a list of registers (10 R223). -/
def Region.room (r : Region) (ns : List Nat) : Bool :=
  decide (r.chkV.length + (distinct (ns.filter (fun n => !r.chkV.any (fun e => e.1 == n)))).length ≤ 16)

/-- A vector register written by the thread: checkpointed and untagged inside a region (10 R220, R226). -/
def Thread.write (t : Thread) (n : Nat) (x : Word) : Thread :=
  { t.setV n x with region := t.region.map (fun r => (r.keep n (t.v.get n)).untag n) }

/-- A pair written, low word first (02 R37). -/
def Thread.writePair (t : Thread) (n : Nat) (x : Dword) : Thread := (t.write n (lowWord x)).write (n + 1) (highWord x)

/-- Four registers written, the lowest with bits [31:0] (02 R37). -/
def Thread.writeQuad (t : Thread) (n : Nat) (x : Qword) : Thread :=
  (((t.write n (x.extractLsb' 0 32)).write (n + 1) (x.extractLsb' 32 32)).write (n + 2) (x.extractLsb' 64 32)).write (n + 3) (x.extractLsb' 96 32)

/-- One, two or four registers written. -/
def Thread.writeMany (t : Thread) (n count : Nat) (x : Qword) : Thread :=
  if count ≥ 4 then t.writeQuad n x else if count = 3 then ((t.write n (x.extractLsb' 0 32)).write (n + 1) (x.extractLsb' 32 32)).write (n + 2) (x.extractLsb' 64 32)
  else if count = 2 then t.writePair n (x.setWidth 64) else if count = 1 then t.write n (x.setWidth 32) else t

/-- A symbol made EXACT (10 R229): tags, constraints and symbolic store data on it go. -/
def Region.concretise (r : Region) (value : Nat → Word) (w : Nat) : Region :=
  { r with
    words := r.words.map (fun x => if x.addr == w then { x with symbolic := false } else x)
    tags := r.tags.filter (fun e => e.2.1 != w)
    cons := r.cons.filter (fun k => (match k.a with | .sym x _ => x != w | .conc _ => true) && (match k.b with | .sym x _ => x != w | .conc _ => true))
    stores := r.stores.map (fun st => match st.sym with
      | some (x, c) => if x == w then { st with sym := none, data := (value x + c).setWidth 128 } else st
      | none => st) }

/-- The value recorded for a read word. -/
def Region.wordValue (r : Region) (w : Nat) : Word := ((r.words.find? (fun x => x.addr == w)).map (fun x => x.value)).getD 0

/-- The tag of a register: base word and constant (10 R220). -/
def Thread.tag (t : Thread) (n : Nat) : Option (Nat × Word) := t.region.bind (fun r => (r.tags.find? (fun e => e.1 == n)).map (fun e => e.2))

/-- A symbol of the thread's region concretised, tags of held writes included (10 R229). -/
def Thread.concretise (t : Thread) (w : Nat) : Thread :=
  { t with region := t.region.map (fun r => r.concretise r.wordValue w)
           held := t.held.map (fun h => match h.tag with
             | some (x, _) => if x == w then { h with tag := none } else h
             | none => h) }

/-- The bases of the tagged registers of a list concretised (10 R226). -/
def Thread.concretiseRegs (t : Thread) (ns : List Nat) : Thread :=
  ns.foldl (fun a n => match a.tag n with
    | some (w, _) => a.concretise w
    | none => a) t

/-- A tagged result written (10 R226); a seventeenth tagged register concretises the new tag's base (10 R223). -/
def Thread.writeTagged (t : Thread) (n : Nat) (x : Word) (tag : Nat × Word) : Thread :=
  let t1 := t.write n x
  match t1.region with
  | none => t1
  | some r =>
    if !r.words.any (fun w => w.addr == tag.1 && w.symbolic) then t1
    else if r.tags.length ≥ 16 then t1.concretise tag.1
    else { t1 with region := some { r with tags := r.tags ++ [(n, tag.1, tag.2)] } }

/-- The thread runs in handler mode (16 R358). -/
def Thread.inHandler (t : Thread) : Bool := (t.handler.map (fun h => h.active)).getD false

/-- Windows: one instruction retires (02 R45); held writes and reserved queue entries count it. In handler mode the windows from before are suspended (16 R358). -/
def Thread.countWindows (t : Thread) : Thread :=
  { t with held := t.held.map (fun h => { h with left := h.left - 1 }), q := if t.inHandler then t.q else t.q.map (fun l => l.map (fun e => { e with left := e.left - 1 })) }

/-- Every window of the thread closes (02 R45). -/
def Thread.closeWindows (t : Thread) : Thread :=
  { t with held := t.held.map (fun h => { h with left := 0 }), q := t.q.map (fun l => l.map (fun e => { e with left := 0 })) }

/-- The result of the outermost ABEGIN, not yet landed: the checkpoint holds it (10 R222). -/
def Thread.beginWrite (t : Thread) (h : HeldWrite) : Bool := t.region.isSome && decide (t.lastAbegin = some h.at_) && decide (h.value ≠ 2)

/-- It lands: it is the register's value, untagged (10 R226), and, where the register is checkpointed, the checkpoint's. -/
def Thread.landBegin (t : Thread) (h : HeldWrite) : Thread :=
  let x : Word := h.value.setWidth 32
  { t.setV h.reg x with region := t.region.map (fun r => Region.untag { r with chkV := r.chkV.map (fun e => if e.1 == h.reg then (e.1, x) else e) } h.reg) }

/-- Several registers written, in order. -/
def Thread.writeEach (t : Thread) (l : List (Nat × Word)) : Thread := l.foldl (fun a e => a.write e.1 e.2) t

/-- A held write lands in its registers, with its tag if it has one (02 R46, 10 R222, R226); a commit's repaired registers before its result (10 R231). -/
def Thread.landOne (t : Thread) (h : HeldWrite) : Thread :=
  match h.tag with
  | some g => t.writeTagged h.reg (h.value.setWidth 32) g
  | none => if t.beginWrite h then t.landBegin h else (t.writeEach h.more).writeMany h.reg h.count h.value

/-- Held writes whose window has closed land in program order, as far as their values are available (02 R46). -/
def landList : List HeldWrite → Thread → Thread × List HeldWrite
  | [], t => (t, [])
  | h :: hs, t =>
    if h.left > 0 then
      let (t1, rest) := landList hs t
      (t1, h :: rest)
    else if h.ready then
      let t1 := t.landOne h
      landList hs (if h.flags = 0 then t1 else { t1 with raised := t1.raised ++ [(h.flags, h.at_)] })
    else (t, h :: hs)

/-- Landing (02 R46). -/
def Thread.land (t : Thread) : Thread :=
  let (t1, rest) := landList t.held t
  { t1 with held := rest }

/-- A closed held write has not landed: the stream does not issue to the thread's pack (02 R46, 07 R146). -/
def Thread.stalled (t : Thread) : Bool := t.held.any (fun h => h.left == 0)

/-- What an instruction leaves for a register of its own later: the first register, how many, the value, a tag, the flags raised when it lands (03 R82), and the registers a commit repairs, which land with it (10 R231). -/
structure LongRes where
  reg : Nat
  count : Nat
  value : Qword
  tag : Option (Nat × Word)
  flags : Flags
  more : List (Nat × Word) := []
  deriving DecidableEq, Repr

/-- An instruction retires for a thread (02 R45, R46, R49; 04 R100): the windows count it, its own window opens, its marked sources are released, its retry count returns to 0, held writes land, and the thread goes on at `next`. -/
def Thread.retire (t : Thread) (marks : List Nat) (la : Nat) (res : Option LongRes) (next : Dword) : Thread :=
  let t1 := t.countWindows
  let t2 : Thread := { t1 with
    held := t1.held ++ (match res with
      | some r => [{ reg := r.reg, count := r.count, value := r.value, left := la, ready := la == 0, tag := r.tag, flags := r.flags, at_ := next - 8, more := r.more }]
      | none => [])
    released := marks ++ t1.released.filter (fun r => !marks.contains r)
    retry := 0
    addr := next
    stepOver := false
    region := t1.region.map (fun r => { r with count := r.count + 1 }) }
  t2.land

/-- Registers the marks of a word release: those a marked vector source names (02 R49), except the ones the same instruction has written, which are live again. -/
def marksOf (l : List (Bool × Field × Code)) (written : List Nat) : List Nat :=
  (l.flatMap (fun e => if e.1 then
    match e.2.1, Operand.ofCode e.2.2 with
    | .vec k _, .v n => (List.range k).map (fun i => n + i)
    | .vecQ, .v n => [n]
    | .barOrPair, .v n => [n, n + 1]
    | _, _ => []
    else [])).filter (fun n => !written.contains n)

/-- Entries of a queue register that can be popped: the leading ones whose data has arrived and whose window has closed (09 R193). -/
def poppable (l : List QEntry) : Nat := (l.takeWhile (fun e => e.arrived && e.left == 0)).length

/-- A queue register of a thread. -/
def Thread.queue (t : Thread) (n : Nat) : List QEntry := t.q.getD n []

/-- One entry popped from each queue of a list, in order (02 R39). -/
def Thread.pops (t : Thread) (qs : List Nat) : Thread := qs.foldl (fun a n => { a with q := modifyAt a.q n (fun l => l.drop 1) }) t

/-- The queues of a list hold enough entries to pop. -/
def Thread.canPop (t : Thread) (qs : List Nat) : Bool := qs.all (fun n => decide (qs.count n ≤ poppable (t.queue n)))

/-- The first queue of a list that a read finds empty with no LDQ to it outstanding: the read faults (02 R39). DESIGN CHOICE (log 67): it faults although a read of another queue of the word would block, for the block would never clear (07 R139). -/
def Thread.emptyQueue (t : Thread) (qs : List Nat) : Option Nat := qs.find? (fun n => decide (poppable (t.queue n) < qs.count n ∧ (t.queue n).length = poppable (t.queue n)))

/-- Blocking at a queue read closes the window of the LDQ that reserved the next entry of each queue with too few (02 R45, 09 R193). -/
def Thread.closeQueues (t : Thread) (qs : List Nat) : Thread :=
  (distinct qs).foldl (fun a n => if poppable (a.queue n) < qs.count n then { a with q := modifyAt a.q n (fun l => modifyAt l (poppable l) (fun e => { e with left := 0 })) } else a) t

/-- Every queue a thread waits at has an entry to pop, and one has more than before (07 R139). -/
def Thread.queuesFed (old new : Thread) (qs : List Nat) : Bool :=
  qs.all (fun n => decide (0 < poppable (new.queue n))) && qs.any (fun n => decide (poppable (old.queue n) < poppable (new.queue n)))

/-- ACAUSE (10 R234). -/
def acauseWord (code detail : Nat) (excl : Bool) (count cause : Nat) : Word :=
  BitVec.ofNat 32 ((code % 65536) <<< 16 ||| detail <<< 8 ||| (if excl then 1 else 0) <<< 7 ||| count <<< 3 ||| cause)

/-- ACAUSE.COUNT. -/
def Thread.acount (t : Thread) : Nat := bits t.acause 6 3

/-- ACAUSE.COUNT replaced. -/
def Thread.setAcount (t : Thread) (n : Nat) : Thread := { t with acause := BitVec.ofNat 32 (t.acause.toNat - (t.acount <<< 3) + (n <<< 3)) }

/-- COUNT after an abort (10 R234). -/
def abortCount (old cause detail : Nat) : Nat :=
  if cause = 1 ∧ detail = 0 ∨ cause = 2 then Nat.min (old + 1) 8 else if cause = 1 then old else 0

/-- The thread's part of an abort (10 R233, R234): checkpoint restored, the outermost ABEGIN's own result with it, ACAUSE written, waiting at the handler. -/
def Thread.abort (t : Thread) (r : Region) (cause detail code clock : Nat) : Thread :=
  let t0 : Thread := r.chkV.foldl (fun a e => a.setV e.1 e.2) { t with region := none, held := [], p := r.chkP }
  let t1 : Thread := (t.held.filter t.beginWrite).foldl (fun a h => a.setV h.reg (h.value.setWidth 32)) t0
  { t1 with acause := acauseWord code detail r.excl (abortCount t.acount cause detail) cause }.waitAt r.handler clock

/-- Virtual lines a region has read or stored. -/
def Region.vaLines (r : Region) : List Nat := r.words.map (fun w => w.addr / 128) ++ r.stores.map (fun w => w.addr / 128)

/-- A region lock's holder released and refused places given up (10 R236). -/
def State.unlock (s : State) (g t : Nat) (place : Bool) : State :=
  { s with locks := (s.locks.map (fun l => { l with holder := if l.holder = some (g, t) then none else l.holder, refused := if place then l.refused.filter (fun x => decide (x ≠ (g, t))) else l.refused })).filter (fun l => l.holder.isSome || !l.refused.isEmpty) }

/-- A region of a thread aborts (10 R233), unless its commit is already decided (10 R240): L1 lines of its tracked lines invalidated, lock released. -/
def State.abortRegion (s : State) (g t cause detail code : Nat) : State :=
  match s.group? g, s.thread? g t with
  | some grp, some th =>
    match th.region with
    | none => s
    | some r =>
      if r.decided.isSome then s else
      let s1 := (s.setThread g t (th.abort r cause detail code (s.clock grp.core))).unlock g t false
      s1.l1Drop grp.core (fun l => l.ctx == grp.ctx && r.vaLines.contains l.line)
  | _, _ => s

/-- REGTOP (16 R366). -/
def Thread.regtop (t : Thread) : Word :=
  let m := Nat.min t.depth.toNat 8
  let at_ (k : Nat) : Word := if k < m then (t.stack.getD k 0).setWidth 32 else 0
  if m = 0 then 0 else at_ (m - 1) ||| (if m ≥ 2 then at_ (m - 2) <<< 16 else 0)

/-- The wait word of a thread (07 R142). A running thread shows as waiting at the first instruction it has not retired, and one in handler mode as blocked at I (16 R358). -/
def Thread.waitWord (t : Thread) : Dword :=
  let active := t.inHandler
  let (c, r) := if active then (1, 6) else match t.cond with
    | .blocked .barrier => (1, 1)
    | .blocked .queue => (1, 2)
    | .blocked .nap => (1, 3)
    | .blocked .page => (1, 4)
    | .blocked .contain => (1, 5)
    | .blocked .handler => (1, 6)
    | .blocked .debug => (1, 7)
    | .exited => (2, 0)
    | _ => (0, 0)
  let a := if active then (t.handler.map (fun h => h.record.instAddr)).getD t.addr else t.addr
  BitVec.ofNat 64 (c <<< 62 ||| r <<< 59 ||| bits a 56 3 <<< 3)

/-- The reason of a code (07 R139). -/
def Reason.ofCode (n : Nat) : Option Reason :=
  match n with
  | 1 => some .barrier
  | 2 => some .queue
  | 3 => some .nap
  | 4 => some .page
  | 5 => some .contain
  | 6 => some .handler
  | 7 => some .debug
  | _ => none

/-- A wait word written (07 R142): one that does not change is left as it is; that of a running thread takes effect when the selector next considers the thread. A flip kept for the resumption of the old wait (11 R255) and a halt asked for (16 R362) go with the old word. -/
def Thread.setWait (t : Thread) (w : Dword) (clock : Nat) : Thread :=
  let a : Dword := BitVec.ofNat 64 (bits w 56 3 <<< 3)
  if bits w 63 59 == bits t.waitWord 63 59 && bits w 56 3 == bits t.waitWord 56 3 then { t with newWait := none }
  else if t.isRunning then { t with newWait := some w }
  else
    let u : Thread := { t with newWait := none, wake := none, haltReq := none }
    match bits w 63 62, Reason.ofCode (bits w 61 59) with
    | 1, some r => { u.blockAt r a clock with stop := 0 }
    | 2, _ => { u.waitAt a clock with cond := .exited }
    | _, _ => u.waitAt a clock

/-- The selector considers a thread that has left its dispatch: a wait word written meanwhile takes effect (07 R142). -/
def Thread.considered (t : Thread) (clock : Nat) : Thread :=
  match t.newWait with
  | some w => if t.isRunning || decide (t.cond = .exited) then t else { t with newWait := none }.setWait w clock
  | none => t

end Sys2Proof.Machine
end

