-- ==== Sys2Proof/Machine/Observe.lean ====
section
/-! DEFINITION. Trace and sample rings, trace records and triggers (spec/16 R366 to R371). -/

namespace Sys2Proof.Machine

/-- A record into the ring of a descriptor in device physical memory (16 R368): written when the ring is enabled and not full; a full ring counts DROPPED. Descriptors and rings at or above HOSTLIM are not served (log 14). -/
def State.ringWrite (s : State) (desc : Nat) (size : Nat) (body : Nat) : State :=
  let lim := s.bar.hostlim * 2 ^ 30
  let log := (s.hbm.num desc 8) % 32
  let base := (s.hbm.num desc 8) / 64 * 64
  let prod := s.hbm.num (desc + 8) 8
  let cons := s.hbm.num (desc + 16) 8
  let drop := s.hbm.num (desc + 24) 8
  let at_ := base + size * (prod % 2 ^ log)
  if desc + 32 > lim ∨ log < 3 ∨ log > 20 then s
  else if (prod + 2 ^ 64 - cons) % 2 ^ 64 = 2 ^ log then { s with hbm := s.hbm.write (desc + 24) (bytesOfNat (drop + 1) 8) }
  else if at_ + size > lim then s
  else { s with hbm := (s.hbm.write at_ (bytesOfNat body size)).write (desc + 8) (bytesOfNat (prod + 1) 8) }

/-- A trace record of a core (16 R368); SEQ rises whether or not the record is written. -/
def State.traceRecord (s : State) (core : Nat) (kind id ctx gidx count trig : Nat) (kseq regtop : Word) : State :=
  let c := s.core core
  let dw1 := id <<< 48 ||| kind <<< 44 ||| ctx <<< 36 ||| gidx <<< 12 ||| count <<< 6 ||| trig
  let body := s.ns % 2 ^ 64 + (dw1 <<< 64) + ((kseq.toNat <<< 32 ||| regtop.toNat) <<< 128) + (c.traceSeq.toNat <<< 192)
  (s.setCore core { c with traceSeq := c.traceSeq + 1 }).ringWrite (s.bar.tracebase.toNat + 32 * core) 32 body

/-- A start or stop condition of a trigger against an event (16 R369): 1 TRIG, 2 MARK, 3 ENTER, 4 LEAVE with the identifier, 5 a fault of a cause. -/
def condMet (cond condId kind id : Nat) : Bool :=
  decide (cond ≠ 0) && cond == kind && (if kind = 5 then condId % 256 == id else condId == id)

/-- A trigger after the events of one plinth cycle (16 R369), with the first event that opened it, or that closed it. -/
def Trigger.cycle (t : Trigger) (es : List TrigEvent) : Trigger × Option Nat × Option Nat :=
  let start := es.findIdx? (fun e => condMet (bits t.cfg 15 12) (bits t.cfg 31 16) e.kind e.id)
  let stop := es.findIdx? (fun e => condMet (bits t.cfg 47 44) (bits t.cfg 63 48) e.kind e.id)
  if t.isOpen then (if stop.isSome then ({ t with isOpen := false }, none, stop) else (t, none, none))
  else if start.isSome && stop.isSome then ({ t with emptyWin := t.emptyWin + 1 }, none, none)
  else if start.isSome then ({ t with isOpen := true, windows := t.windows + 1 }, start, none)
  else (t, none, none)

/-- A window is open at the k-th event of a cycle: it was open and no earlier event closed it, or that event or an earlier one opened it. -/
def openAt (was : Bool) (opened closed : Option Nat) (k : Nat) : Bool :=
  match opened, closed with
  | some i, _ => decide (i ≤ k)
  | none, some j => was && decide (k < j)
  | none, none => was

/-- KIND of an event's own trace record (16 R368). -/
def TrigEvent.code (e : TrigEvent) : Nat := match e.kind with | 1 => 4 | 2 => 3 | 3 => 1 | _ => 2

/-- The trace records of the k-th event of a cycle (16 R367, R369): OPEN, or CLOSE, and, unless it closed a window, its own while a window is open. -/
def State.eventRecords (s : State) (outs : List (Trigger × Trigger × Option Nat × Option Nat)) (e : TrigEvent) (k : Nat) : State :=
  let traced := outs.zipIdx.filter (fun o => o.1.1.action.getLsbD 0)
  let s1 := traced.foldl (fun (a : State) o =>
    if o.1.2.2.1 = some k then a.traceRecord e.core 5 (bits o.1.1.cfg 31 16) e.ctx e.gidx e.count o.2 e.kseq e.top
    else if o.1.2.2.2 = some k then a.traceRecord e.core 6 (bits o.1.1.cfg 63 48) e.ctx e.gidx e.count o.2 e.kseq e.top
    else a) s
  if e.kind ≠ 5 && traced.all (fun o => decide (o.1.2.2.2 ≠ some k)) && traced.any (fun o => openAt o.1.1.isOpen o.1.2.2.1 o.1.2.2.2 k) then s1.traceRecord e.core e.code e.id e.ctx e.gidx e.count 0 e.kseq e.top else s1

/-- What the triggers make of an event (16 R362, R369): a pack that waits goes on or is halted; threads that faulted halt before the instruction once they are runnable. -/
def State.answer (s : State) (e : TrigEvent) (halt : Option Nat) : State :=
  if e.waits then
    (List.range 2).foldl (fun (a : State) k =>
      let st := a.stream e.core k
      match st.dispatch with
      | some d => if d.grp = e.grp ∧ d.sent = some .pending ∧ (d.packs.flatten.any (fun l => l.2 == e.low)) = true then a.setStream e.core k { st with dispatch := some { d with sent := some ((halt.map EventAnswer.halt).getD .go) } } else a
      | none => a) s
  else
    match halt with
    | some k => e.hit.foldl (fun (a : State) t => a.modThread e.grp t (fun x => { x with haltReq := some k })) s
    | none => s

/-- The events of one context in one plinth cycle meet its triggers (16 R369). -/
def State.evalTriggers (s : State) (ctx : Nat) (es : List TrigEvent) : State :=
  let c := s.ctx ctx
  let outs := c.trigs.map (fun t => (t, t.cycle es))
  let s1 := s.setCtx ctx { c with trigs := outs.map (fun o => o.2.1) }
  let s2 := if c.trace then es.zipIdx.foldl (fun (a : State) e => a.eventRecords outs e.1 e.2) s1 else s1
  es.zipIdx.foldl (fun (a : State) e => a.answer e.1 ((outs.zipIdx.find? (fun o => o.1.1.action.getLsbD 2 && decide (o.1.2.2.1 = some e.2))).map (fun o => o.2))) s2

/-- Conditions are evaluated once per plinth cycle, over every event of each context that reached the plinth in it (16 R369). -/
def State.flushEvents (s : State) : State :=
  (distinct (s.evbuf.map (fun e => e.ctx))).foldl (fun (a : State) c => if (lookKey c a.ctxs).isSome then a.evalTriggers c (s.evbuf.filter (fun e => e.ctx == c)) else a) { s with evbuf := [] }

/-- An event of a pack of a group (16 R367, R369): `tids` its threads whose guard held, `low` its lowest thread, `top` that thread's REGTOP. -/
def State.eventOf (s : State) (core gid : Nat) (tids : List Nat) (low kind id : Nat) (top : Word) : Option TrigEvent :=
  (s.group? gid).map (fun g => { ctx := g.ctx, core := core, grp := gid, gidx := g.gidx, kseq := ((s.kern? g.kern).map (fun k => k.kseq)).getD 0, count := tids.length, low := low, top := top, kind := kind, id := id, waits := false, hit := [] })

/-- An event reaches the plinth. -/
def State.tell (s : State) (e : Option TrigEvent) : State := { s with evbuf := s.evbuf ++ e.toList }

/-- A fault's event (16 R369): of a word being issued, with its pack's threads whose guard holds. -/
def State.tellFault (s : State) (core gid : Nat) (hit : List Nat) (pc : Dword) (cause : Nat) : State :=
  let pack := match s.issue with
    | some iss => if iss.grp = gid ∧ iss.pc = pc then (iss.on, (iss.lanes.map (fun (l : Nat × Nat) => l.2)).headD 0) else (hit, hit.headD 0)
    | none => (hit, hit.headD 0)
  s.tell ((s.eventOf core gid pack.1 pack.2 5 cause (((s.thread? gid pack.2).map (fun t => t.regtop)).getD 0)).map (fun e => { e with hit := hit }))

end Sys2Proof.Machine
end

