-- ==== Sys2Proof/Machine/Ops.lean ====
section
/-! DEFINITION. Taking an exception, as one shared operation: the record (spec/16 R354 to R356), its routing (R357), what it does to the faulting threads (07 R139, R147; 10 R239; 16 R358), and the return from one: FRET, a containment decision, a Registrar release, a debugger's resume. -/

namespace Sys2Proof.Machine

/-- A fault one thread meets at an instruction: a cause with its ADDR and EXTRA; a fault of the page path; poisoned data with what the handler needs (16 R358). -/
inductive TFault where
  | plain (cause : Nat) (addr extra : Dword)
  | page (va : Nat) (access : Nat) (f : PgFault)
  | poison (addr : Dword) (extra : Dword) (data : Qword) (bad width sizeCode la : Nat) (dest : Code)
  deriving DecidableEq, Repr

/-- Cause code of a fault (16 R355). -/
def TFault.cause : TFault → Nat
  | .plain c _ _ => c
  | .page _ _ f => f.cause
  | .poison .. => 0x16

/-- Faults of one pack share a record when they share the cause and, on the page path, the page (14 R325, 16 R355). -/
def TFault.key : TFault → Nat × Nat
  | .plain c _ _ => (c, 0)
  | .page va _ f => (f.cause, va / 65536 + 1)
  | .poison .. => (0x16, 0)

/-- Containment class of a cause (04 R100, 16 R355). -/
def causeClass (c : Nat) : Nat :=
  if c ≤ 0x08 then 0 else if c ≤ 0x17 then 1 else if c ≤ 0x23 then 2 else if c = 0x24 then 3
  else if c = 0x30 then 4 else if c = 0x31 then 5 else 6

/-- A cause of the page path, routed to the Registrar (16 R357). -/
def pagePath (c : Nat) : Bool := (0x10 ≤ c && c ≤ 0x15) || c == 0x17

/-- A cause that stops for the debugger under DEBUG (16 R357). -/
def debugCause (c : Nat) : Bool := c == 0x32 || c == 0x33 || c == 0x42

/-- EXTRA of a record. -/
def TFault.extra (f : TFault) (fseq : Nat) : Dword :=
  match f with
  | .plain _ _ e => e
  | .page _ acc p => p.extra acc ||| BitVec.ofNat 64 (fseq % 2 ^ 32)
  | .poison _ e .. => e

/-- ADDR of a record. -/
def TFault.addr (f : TFault) : Dword :=
  match f with
  | .plain _ a _ => a
  | .page va _ _ => BitVec.ofNat 64 va
  | .poison a .. => a

/-- Parties a fault goes to: 0 containment, 1 Registrar, 2 error handler, 3 debug (16 R354 ROUTE, R357). A fetch of poisoned code goes to containment (14 R331). -/
def State.faultRoute (s : State) (ctx : Nat) (f : TFault) : Nat :=
  let cause := f.cause
  if pagePath cause then 1
  else if (match f with | .poison .. => true | _ => false) && decide ((s.ctx ctx).ehAddr ≠ 0) then 2
  else if debugCause cause ∧ (s.ctx ctx).debug then 3
  else 0

/-- The number of a page-path record (14 R325): that of the pending fault it attaches to, else the next. -/
def State.faultSeq (s : State) (ctx : Nat) (f : TFault) : Nat :=
  match f with
  | .page va _ _ => ((s.pend.find? (fun p => p.ctx == ctx && p.page == va / 65536 && p.cause == f.cause)).map (fun p => p.fseq)).getD s.fseq
  | _ => s.fseq

/-- The record of a fault of some lanes of a group's pack (16 R354). `lanes` are (lane, thread), lowest thread first. -/
def State.faultRec (s : State) (g : Group) (lanes : List (Nat × Nat)) (pc : Dword) (f : TFault) (route : Nat) : FaultRec :=
  let first := (lanes.headD (0, 0)).2
  let th := g.threads[first]?
  { kseq := ((s.kern? g.kern).map (fun k => k.kseq)).getD 0
    route := route
    ctx := g.ctx
    cls := if route = 1 then 0xFF else causeClass f.cause
    cause := f.cause
    noThread := lanes.isEmpty
    count := lanes.length
    first := first
    gidx := g.gidx
    instAddr := pc
    addr := f.addr
    retry := (th.map (fun t => if t.retryAt = pc then t.retry else 0)).getD 0
    queue := ((s.kern? g.kern).map (fun k => k.slot)).getD 0
    laneMask := lanes.foldl (fun m l => m ||| ((1 : Word) <<< l.1)) 0
    extra := f.extra (s.faultSeq g.ctx f)
    time := BitVec.ofNat 64 s.ns
    idx := if route = 1 then BitVec.ofNat 32 (s.faultSeq g.ctx f) else 0
    regTop := (th.map (fun t => t.regtop)).getD 0 }

/-- The 64 bytes of a record (16 R354). -/
def FaultRec.toNat (r : FaultRec) : Nat :=
  let d0 := r.kseq.toNat <<< 32 ||| r.route <<< 24 ||| r.ctx <<< 16 ||| r.cls <<< 8 ||| r.cause
  let d1 := (if r.noThread then 1 else 0) <<< 48 ||| r.count <<< 42 ||| r.first <<< 32 ||| r.gidx
  let d4 := (r.retry % 256) <<< 40 ||| r.queue <<< 32 ||| r.laneMask.toNat
  let d7 := r.idx.toNat <<< 32 ||| r.regTop.toNat
  d0 + (d1 <<< 64) + (r.instAddr.toNat <<< 128) + (r.addr.toNat <<< 192) + (d4 <<< 256) + (r.extra.toNat <<< 320) + (r.time.toNat <<< 384) + (d7 <<< 448)

/-- The group of a fault has been killed, or has retired with a failure (04 R102). -/
def State.faultDead (s : State) (f : ContFault) : Bool :=
  match f.grp with
  | none => false
  | some gid =>
    match s.group? gid with
    | some g => g.killed.isSome
    | none => ((f.kern.bind (fun n => s.kern? n)).map (fun k => k.ended.any (fun e => e.1 == f.record.gidx && e.2 != 0))).getD false

/-- A record handed to containment, or, with ROUTE 3, to the fault ring alone (04 R102, 16 R357), with the policies it will be decided by (04 R100). -/
def State.toContain (s : State) (ctx : Nat) (f : ContFault) : State :=
  let c := s.ctx ctx
  let k := f.kern.bind (fun n => s.kern? n)
  let q := k.bind (fun x => lookKey x.qkey s.slots)
  let pols := match k with
    | some x => [x.desc.grpPol, x.desc.gangPol, x.desc.kPol, (q.map (fun y => y.qpolicy)).getD 0]
    | none => f.pols
  s.setCtx ctx { c with faults := c.faults ++ [{ f with pols := pols, qkey := k.map (fun x => x.qkey), dead := s.faultDead f }] }

/-- A fault of the page path reaches the plinth (14 R325): a new pending fault, or the pack attached to one of the same context, page and cause. -/
def State.pendFault (s : State) (ctx va cause access : Nat) (record : FaultRec) (pack : Option FPack) : State :=
  match s.pend.find? (fun p => p.ctx == ctx && p.page == va / 65536 && p.cause == cause) with
  | some p =>
    match pack with
    | none => s
    | some k => { s with pend := s.pend.map (fun x => if x.fseq == p.fseq then { x with packs := x.packs ++ [k] } else x) }
  | none =>
    { s with
      pend := s.pend ++ [{ fseq := s.fseq, ctx := ctx, page := va / 65536, cause := cause, access := access, record := record, packs := pack.toList, at_ := s.ns, queued := decide (s.pend.length < 4096), asked := false }]
      fseq := s.fseq + 1 }

/-- A device or engine access meets a fault of the page path: no thread is held (14 R328). `who` is the kernel, group and queue slot of the command it is made for, zeros for none (16 R354). The pending fault's number. -/
def State.devFault (s : State) (ctx va access : Nat) (f : PgFault) (who : Word × Nat × Nat := (0, 0, 0)) : State × Nat :=
  match s.pend.find? (fun p => p.ctx == ctx && p.page == va / 65536 && p.cause == f.cause) with
  | some p => (s, p.fseq)
  | none =>
    let t : TFault := .page va access f
    let record : FaultRec := { kseq := who.1, route := 1, ctx := ctx, cls := 0xFF, cause := f.cause, noThread := true, count := 0, first := 0, gidx := who.2.1, instAddr := 0, addr := t.addr, retry := 0, queue := who.2.2, laneMask := 0, extra := t.extra s.fseq, time := BitVec.ofNat 64 s.ns, idx := BitVec.ofNat 32 s.fseq, regTop := 0 }
    (s.pendFault ctx va f.cause access record none, s.fseq)

/-- Every event of poison sends the Registrar a record with the page (14 R331), for a page with a frame. -/
def State.poisonRecord (s : State) (ctx page : Nat) : State :=
  let record : FaultRec := { kseq := 0, route := 1, ctx := ctx, cls := 0xFF, cause := 0x16, noThread := true, count := 0, first := 0, gidx := 0, instAddr := 0, addr := BitVec.ofNat 64 (page * 65536), retry := 0, queue := 0, laneMask := 0, extra := BitVec.ofNat 64 (s.fseq % 2 ^ 32), time := BitVec.ofNat 64 s.ns, idx := BitVec.ofNat 32 s.fseq, regTop := 0 }
  { s with pend := s.pend ++ [{ fseq := s.fseq, ctx := ctx, page := page, cause := 0x16, access := 0, record := record, packs := [], at_ := s.ns, queued := decide (s.pend.length < 4096), asked := false }], fseq := s.fseq + 1 }

/-- The record of poison that an access of a virtual address has met. -/
def State.poisonAt (s : State) (ctx va : Nat) : State :=
  match s.walkCtx ctx va with
  | .leaf _ p => if framed p then s.poisonRecord ctx (va / 65536) else s
  | .invalid _ => s

/-- The record of poison, where a fault is one. -/
def State.notePoison (s : State) (ctx : Nat) (f : TFault) : State := if f.cause = 0x16 then s.poisonAt ctx f.addr.toNat else s

/-- Every thread of a list changed. -/
def State.modThreads (s : State) (g : Nat) (ts : List Nat) (f : Thread → Thread) : State := ts.foldl (fun a t => a.modThread g t f) s

/-- The handler keeps what the thread received (16 R358). -/
def HandlerCtx.of (r : FaultRec) (lane : Nat) (f : TFault) : Option HandlerCtx :=
  match f with
  | .poison _ _ data _ width size la dest =>
    some { record := r, addr := f.addr, lane := lane, data := data, width := width, dest := dest, sizeCode := size, la := la, savedP := 0, savedHeld := [], active := false }
  | _ => none

/-- An activation ends and fails the group (16 R358, R359 mode 1): its threads are blocked at I, their own state restored, and a containment fault of cause 0x16 is raised for them. -/
def State.failHandler (s : State) (gid : Nat) (tids : List Nat) : State :=
  match s.group? gid with
  | none => s
  | some g =>
    let restore (t : Thread) : Thread :=
      match t.handler with
      | some h => { (t.blockAt .contain h.record.instAddr (s.clock g.core)) with p := h.savedP, held := h.savedHeld, handler := none }
      | none => t
    let hs := tids.filterMap (fun t => ((g.threads[t]?).bind (fun x => x.handler)).map (fun h => (t, h)))
    let s1 := s.modThreads gid tids restore
    match hs with
    | [] => s1
    | (t0, h) :: _ =>
      let record := { h.record with addr := h.addr, route := 0, cls := 1, first := t0, count := hs.length, retry := ((g.threads[t0]?).map (fun t => if t.retryAt = h.record.instAddr then t.retry else 0)).getD 0, regTop := ((g.threads[t0]?).map (fun t => t.regtop)).getD 0, time := BitVec.ofNat 64 s.ns, laneMask := hs.foldl (fun m x => m ||| ((1 : Word) <<< x.2.lane)) 0 }
      (s1.tellFault g.core gid (hs.map (fun x => x.1)) h.record.instAddr 0x16).toContain g.ctx { record := record, grp := some gid, kern := some g.kern, tids := hs.map (fun x => x.1), after := false, level := 0, engine := false }

/-- The threads still in the handler activations that some threads of a group are in (16 R358). -/
def State.handlerPeers (s : State) (core gid : Nat) (tids : List Nat) : List Nat :=
  (s.core core).streams.flatMap (fun st => match st.dispatch with
    | some d =>
      let all := (d.packs.flatten).map (fun l => l.2)
      if d.grp = gid ∧ d.handler ∧ all.any (fun t => tids.contains t) then
        all.filter (fun t => ((s.thread? gid t).map (fun x => x.isRunning && x.inHandler)).getD false)
      else []
    | none => [])

/-- What resumption from a debug stop does (16 R362). -/
def TFault.stopKind (f : TFault) : Nat :=
  match f with
  | .plain 0x32 _ e => if e.getLsbD 0 then 2 else 1
  | .plain 0x33 _ _ => 2
  | .plain 0x42 _ e => if e.getLsbD 0 then 4 else 3
  | _ => 4

/-- A thread stopped for the debugger goes on (16 R362): past a BRK, over a breakpoint or watchpoint once, or where it stopped. -/
def Thread.goOn (t : Thread) (clock : Nat) : Thread :=
  if t.cond ≠ .blocked .debug then { t with haltReq := none }
  else
    let t1 : Thread := t.waitAt (if t.stop = 1 then t.addr + 8 else t.addr) clock
    { t1 with stepOver := t1.stepOver || t.stop == 2, preciseHalt := t1.preciseHalt && t.stop != 3, stop := 0, haltReq := none }

/-- TAKING AN EXCEPTION (16 R357; 07 R147; 10 R239, R240). The lanes of one pack that met one fault at the address `pc` leave the dispatch: a thread in a region aborts to its handler, except on the page path; a thread of a handler activation fails it; every other is blocked at the instruction, or after it for a fault that follows a delivery point, and the record goes to its party. The event goes to the triggers, and poison to the Registrar. -/
def State.takeFault (s : State) (core gid : Nat) (lanes : List (Nat × Nat)) (pc : Dword) (faults : List (Nat × TFault)) (f : TFault) (after : Bool) : State :=
  match s.group? gid with
  | none => s
  | some g =>
    let inRegion (t : Nat) : Bool := ((g.threads[t]?).map (fun x => x.region.isSome)).getD false
    let inHandler (t : Nat) : Bool := ((g.threads[t]?).map (fun x => x.inHandler)).getD false
    let hand := lanes.filter (fun l => inHandler l.2)
    let rest := lanes.filter (fun l => !inHandler l.2)
    let route := s.faultRoute g.ctx f
    let regs := rest.filter (fun l => inRegion l.2 && !(route == 1))
    let out := rest.filter (fun l => !(inRegion l.2 && !(route == 1)))
    let halt := route == 3
    let clock := s.clock core
    let s0 := regs.foldl (fun a l => if halt then a.abortRegion gid l.2 1 2 0 else a.abortRegion gid l.2 4 f.cause 0) s
    let s1 := if halt then s0.modThreads gid (regs.map (fun l => l.2)) (fun t => { t.blockAt .debug t.addr clock with stop := 0 }) else s0
    let s2 := if hand.isEmpty then s1 else s1.failHandler gid (s1.handlerPeers core gid (hand.map (fun l => l.2)))
    let all := if halt then rest else out
    if all.isEmpty then s2
    else
      let record := s.faultRec g all pc f route
      let at_ : Dword := if after then pc + 8 else pc
      let tids := out.map (fun l => l.2)
      let s3 := (s2.tellFault core gid (all.map (fun l => l.2)) pc f.cause).notePoison g.ctx f
      if route = 1 then
        let pack : FPack := { grp := gid, tids := tids, record := record }
        (s3.modThreads gid tids (fun t => t.blockAt .page at_ clock)).pendFault g.ctx f.addr.toNat f.cause
          (match f with | .page _ a _ => a | _ => 0) record (some pack)
      else if route = 2 then
        let own (t : Nat) : TFault := ((faults.find? (fun e => e.1 == t)).map (fun e => e.2)).getD f
        let s4 := out.foldl (fun a l => a.modThread gid l.2 (fun th => { th.blockAt .handler at_ clock with handler := HandlerCtx.of record l.1 (own l.2) })) s3
        s4.setCore core { s4.core core with activations := (s4.core core).activations ++ [{ grp := gid, lanes := out }] }
      else if route = 3 then
        (s3.modThreads gid tids (fun t => { t.blockAt .debug at_ clock with stop := f.stopKind })).toContain g.ctx { record := record, grp := some gid, kern := some g.kern, tids := tids, after := after, level := 0, engine := false }
      else
        (s3.modThreads gid tids (fun t => t.blockAt .contain at_ clock)).toContain g.ctx { record := record, grp := some gid, kern := some g.kern, tids := tids, after := after, level := 0, engine := false }

/-- The faults of a pack at one instruction, gathered into records (16 R355): one for each cause, and on the page path for each page, lowest thread first. -/
def State.takeFaults (s : State) (core gid : Nat) (pc : Dword) (after : Bool) (fs : List ((Nat × Nat) × TFault)) : State :=
  let keys := distinct (fs.map (fun e => e.2.key))
  keys.foldl (fun a k =>
    let mine := fs.filter (fun e => decide (e.2.key = k))
    match mine with
    | [] => a
    | e :: _ => a.takeFault core gid (mine.map (fun x => x.1)) pc (mine.map (fun x => (x.1.2, x.2))) e.2 after) s

/-- RETURN from a fault held for a party: the threads of a list blocked for a reason become runnable at an address, or at their wait address (07 R139; 14 R326; 04 R100). -/
def State.releaseThreads (s : State) (gid : Nat) (ts : List Nat) (r : Reason) (move : Option Dword) : State :=
  match s.group? gid with
  | none => s
  | some g => s.modThreads gid ts (fun t => if t.cond = .blocked r then t.waitAt (move.getD t.addr) (s.clock g.core) else t)

end Sys2Proof.Machine
end

