-- ==== Sys2Proof/Machine/Operands.lean ====
section
/-! DEFINITION. Operands and the issue of one word to one pack: guards (spec/02 R41, R42), queue sources (R39), released registers (R50), regions (10 R223, R224), retirement, and how threads leave a dispatch (07 R146, R147). Every instruction's meaning goes through `runWord`. -/

namespace Sys2Proof.Machine

/-- The destination field is also a source (02 R31, and the instructions' own descriptions). -/
def readsDest : Instr → Bool
  | .mad _ | .madw _ | .dot4 _ | .bfi _ | .prmt _ | .ffma _ | .fdot2 _ | .pack _ | .qenc _ | .cas _ | .st _ | .stt _ => true
  | _ => false

/-- The destination field is a source only. -/
def storesDest : Instr → Bool
  | .st _ | .stt _ => true
  | _ => false

/-- Source fields with their codes, in pop order (02 R39). -/
def srcFields (i : Instr) : List (Field × Code) :=
  match shape0 i with
  | some (w, s) => [(s.a, w.a), (s.b, w.b)] ++ (if readsDest i then [(s.d, w.d)] else [])
  | none =>
    match shape1 i with
    | some (w, s) => [(s.a, w.a)] ++ (if readsDest i then [(s.d, w.d)] else [])
    | none => []

/-- Registers of a vector field. -/
def fieldRegs (f : Field) (c : Code) : List Nat :=
  match f, Operand.ofCode c with
  | .vec k _, .v n => (List.range k).map (fun i => n + i)
  | .vecQ, .v n => [n]
  | .barOrPair, .v n => [n, n + 1]
  | _, _ => []

/-- Vector registers an instruction reads. -/
def srcRegs (i : Instr) : List Nat :=
  match i with
  | .pair h0 h1 => h0.reads ++ h1.reads
  | _ => (srcFields i).flatMap (fun e => fieldRegs e.1 e.2)

/-- Queue registers an instruction pops, source A first (02 R39). -/
def srcQueues (i : Instr) : List Nat :=
  (srcFields i).filterMap (fun e => match e.1, Operand.ofCode e.2 with
    | .vecQ, .q n => some n
    | _, _ => none)

/-- Vector registers an instruction writes. -/
def dstRegs (i : Instr) : List Nat :=
  match i with
  | .pair h0 h1 => [h0.dst.toNat, h1.dst.toNat]
  | _ =>
    match shape0 i with
    | some (w, s) => if storesDest i then [] else fieldRegs s.d w.d
    | none =>
      match shape1 i with
      | some (w, s) => if storesDest i then [] else fieldRegs s.d w.d
      | none =>
        match shape2 i with
        | some (w, s) => fieldRegs s.d w.d
        | none => []

/-- The last-read marks of a word (02 R31, R32, R34). -/
def wordMarks (i : Instr) : List (Bool × Field × Code) :=
  match shape0 i with
  | some (w, s) => [(w.ma, s.a, w.a), (w.mb, s.b, w.b)]
  | none =>
    match shape1 i with
    | some (w, s) => [(w.ma, s.a, w.a)]
    | none =>
      match i with
      | .pair h0 h1 => [(h0.m && !h0.isImm, .v1, h0.src.setWidth 11), (h1.m && !h1.isImm, .v1, h1.src.setWidth 11)]
      | _ => []

/-- The guard of a word; pairs have none (02 R34, R41). -/
def guardOf (i : Instr) : Option Guard :=
  match shape0 i with
  | some (w, _) => some w.g
  | none =>
    match shape1 i with
    | some (w, _) => some w.g
    | none => (shape2 i).map (fun e => e.1.g)

/-- The lookahead of a word (02 R44). -/
def laOf (i : Instr) : Nat :=
  match shape0 i with
  | some (w, _) => w.la.toNat
  | none => ((shape1 i).map (fun e => e.1.la.toNat)).getD 0

/-- Control-class and blocking instructions, which end a dispatch for every thread in it (02 R42, 07 R147). -/
def endsDispatch : Instr → Bool
  | .bra _ | .jmp _ | .call _ | .calli _ | .ret _ | .exit _ | .yield _ | .nap _ | .trap _ | .brk _ | .bsync _ | .bwait _ => true
  | _ => false

/-- The array instructions, which a core of the Registrar does not have (01 R10). -/
def arrayWord : Instr → Bool
  | .mma _ | .mzero _ | .mldb _ | .mdrain _ | .mrng _ => true
  | _ => false

/-- Cross-lane instructions (07 R149). -/
def crossLane : Instr → Bool
  | .vote _ | .ballot _ | .matchLanes _ | .shfl _ | .redl _ | .scanl _ => true
  | _ => false

/-- Instructions forbidden in an atomic region whatever their operands (10 R224). -/
def regionForbids : Instr → Bool
  | .call _ | .calli _ | .ret _ | .exit _ | .trap _ | .brk _
  | .ldq _ | .ldt _ | .stt _ | .tpref _ | .fence _ | .ltset _ | .bind _ | .unbind _ | .cinv _ | .cwb _ | .pin _ | .unpin _ | .spmap _ | .spunmap _
  | .atom _ | .cas _ | .red _ | .enq _ | .deq _
  | .barrive _ | .bsync _ | .bwait _ | .bexpect _ | .btest _ | .btestCur _
  | .mma _ | .mzero _ | .mrng _ | .mldb _ | .mdrain _ | .cpy _ | .cpyx _ | .cpywp _ | .cpyseq _ | .cpyseqStat _ | .cpycan _
  | .pgstat _ | .leaseq _ | .leaseqVa _ | .pghint _
  | .csrw _ | .enter _ | .leave _ | .mark _ | .launch _ | .notify _ | .fret _ | .fread _ | .trig _ => true
  | _ => false

/-- Words by which a thread acts on what other threads can see: their packs act in ascending order (07 R146, log 68). -/
def ordersPacks (i : Instr) : Bool :=
  regionForbids i || (match i with | .st _ | .abegin _ | .acommit _ | .aabort _ => true | .ld w => memSpace w.x == 3 | _ => false)

/-- Words before which a thread's windows close (02 R45). -/
def closesFirst : Instr → Bool
  | .abegin _ | .acommit _ | .fret _ => true
  | _ => false

/-- Instructions that end a handler activation and fail its group (16 R358). -/
def handlerEnds : Instr → Bool
  | .rowblk _ | .abegin _ | .acommit _ | .aabort _ | .barrive _ | .bexpect _ | .btest _ | .btestCur _
  | .mma _ | .mzero _ | .mrng _ | .mldb _ | .mdrain _ | .cpy _ | .cpyx _ | .cpywp _ | .cpyseq _ | .cpyseqStat _ | .cpycan _
  | .ldq _ | .enter _ | .leave _ | .mark _ | .trig _ => true
  | i => endsDispatch i || crossLane i

/-- Instructions whose own tag rules decide what is concretised (10 R226 to R228). -/
def ownTagRule : Instr → Bool
  | .add _ | .addImm _ | .sub _ | .subImm _ | .mov _ | .setp _ | .setpImm _ | .st _ | .pair _ _ => true
  | _ => false

/-- What a thread-local instruction reads beside its thread. -/
structure Env where
  s : State
  iss : Issue
  grp : Group
  tid : Nat

/-- A register read; a released one returns one of three values (02 R50). -/
def Env.v (e : Env) (t : Thread) (n : Nat) : Word :=
  if t.released.contains n then
    match Config.releasedChoice e.s.choiceCtr e.tid n with
    | 0 => t.v.get n
    | 1 => ((e.grp.threads[e.tid / 32 * 32 + Config.releasedLane e.s.choiceCtr e.tid n % 32]?).map (fun x => x.v.get n)).getD 0
    | _ => 0
  else t.v.get n

/-- A 64-bit operand from register n (02 R37). -/
def Env.pair (e : Env) (t : Thread) (n : Nat) : Dword := joinWords (e.v t n) (e.v t (n + 1))

/-- A 128-bit operand from register n. -/
def Env.quad (e : Env) (t : Thread) (n : Nat) : Qword := (e.pair t (n + 2)) ++ (e.pair t n)

/-- A 32-bit source: a vector register, or the head of a queue register; `k` entries of that queue are popped before it (02 R39). -/
def Env.src (e : Env) (t : Thread) (c : Code) (k : Nat) : Word :=
  match Operand.ofCode c with
  | .v n => e.v t n
  | .q n => (((t.queue n).drop k).head?.map (fun x => x.value)).getD 0
  | _ => 0

/-- Source A as 32 bits. -/
def Env.a32 (e : Env) (t : Thread) (a : Code) : Word := e.src t a 0

/-- Source B as 32 bits: when A pops the same queue, B takes the entry after it. -/
def Env.b32 (e : Env) (t : Thread) (a b : Code) : Word :=
  e.src t b (match Operand.ofCode a, Operand.ofCode b with
    | .q m, .q n => if m = n then 1 else 0
    | _, _ => 0)

/-- Register number of a vector operand. -/
def vnum (c : Code) : Nat := c.toNat

/-- How an instruction's turn at one thread ends. `done`: it retires there. `leave`: it retires, and the thread leaves the dispatch as the function says. `out`: the thread has left without retiring it. `late`: it retires, and a fault follows it (11 R248). `hold`: the stream holds the thread at it. -/
inductive Turnout where
  | done (s : State) (res : Option LongRes)
  | leave (s : State) (f : Thread → Thread)
  | out (s : State)
  | fault (f : TFault)
  | late (s : State) (f : TFault)
  | hold (s : State)

/-- A word's turn at a thread, with its thread and what it reads beside it. -/
def withThread (iss : Issue) (tid : Nat) (s : State) (f : Env → Thread → Turnout) : Turnout :=
  match s.group? iss.grp, s.thread? iss.grp tid with
  | some g, some t => f { s := s, iss := iss, grp := g, tid := tid } t
  | _, _ => .out s

/-- The word runs in maintenance mode: its context has MODE.MAINT (04 R95), or the core is one of the Registrar's (01 R10). -/
def Env.maint (e : Env) : Bool := (e.s.ctx e.grp.ctx).maint || decide (Config.cores ≤ e.iss.core)

/-- The cycle a word issues in. -/
def Env.now (e : Env) : Nat := e.s.clock e.iss.core

/-- What the issue to a pack has come to so far. -/
structure LaneAcc where
  s : State
  faults : List ((Nat × Nat) × TFault)
  late : List ((Nat × Nat) × TFault)
  held : Bool
  acted : List Nat

/-- The instruction word as EXTRA of the causes 0x01 to 0x08 (16 R356). -/
def Issue.bad (i : Issue) (cause : Nat) (addr : Dword) : TFault := .plain cause addr i.word

/-- Registers a held write lands in. -/
def HeldWrite.regs (h : HeldWrite) : List Nat := (List.range h.count).map (fun k => h.reg + k) ++ h.more.map (fun e => e.1)

/-- Registers whose held writes a region will checkpoint as they land: all but the outermost ABEGIN's own result (10 R222, R223). -/
def Thread.heldRegs (t : Thread) : List Nat := (t.held.filter (fun h => !t.beginWrite h)).flatMap HeldWrite.regs

/-- Registers an instruction writes in the region it executes in: the outermost ACOMMIT's result comes after its region (10 R231). -/
def regionDst (i : Instr) (r : Region) : List Nat :=
  match i with
  | .acommit _ => if r.depth = 1 then [] else dstRegs i
  | _ => dstRegs i

/-- The abort that an instruction meets before it has any effect inside a region (10 R223, R224): a forbidden instruction or queue read; the 257th instruction; a seventeenth checkpointed register, `held` being those of held writes. -/
def regionStop (i : Instr) (opcode : Nat) (r : Region) (held : List Nat) (go : Bool) : Option (Nat × Nat × Nat) :=
  if r.decided.isSome then none
  else if go && (regionForbids i || !(srcQueues i).isEmpty) then some (4, 0x80, opcode)
  else if r.count > 256 then some (3, 4, 0)
  else if go && !r.room (regionDst i r ++ held) then some (3, 3, 0)
  else none

/-- Retirement of an instruction for a thread, with the windows that a control-class or blocking instruction closes (02 R45, R49). -/
def Thread.retireWord (t : Thread) (i : Instr) (go : Bool) (res : Option LongRes) (pc : Dword) : Thread :=
  let t1 := if go then t.pops (srcQueues i) else t
  let t2 := t1.retire (marksOf (wordMarks i) (if go && res.isNone then dstRegs i else [])) (if go then laOf i else 0) res (pc + 8)
  if endsDispatch i then t2.closeWindows.land else t2

/-- What a turn has come to is entered for its lane. -/
def LaneAcc.settle (a : LaneAcc) (i : Instr) (iss : Issue) (l : Nat × Nat) : Turnout → LaneAcc
  | .done s1 res => { a with s := s1.modThread iss.grp l.2 (fun x => x.retireWord i true res iss.pc), acted := l.2 :: a.acted }
  | .leave s1 f => { a with s := s1.modThread iss.grp l.2 (fun x => f (x.retireWord i true none iss.pc)), acted := l.2 :: a.acted }
  | .out s1 => { a with s := s1, acted := l.2 :: a.acted }
  | .fault f => { a with faults := a.faults ++ [(l, f)], acted := l.2 :: a.acted }
  | .late s1 f => { a with s := s1.modThread iss.grp l.2 (fun x => x.retireWord i true none iss.pc), late := a.late ++ [(l, f)], acted := l.2 :: a.acted }
  | .hold s1 => { a with s := s1, held := true }

/-- A thread blocks at a read of its queues, or waits there when closing a window has let an entry be popped (02 R39, R45; 09 R193). -/
def Thread.blockQueue (t : Thread) (qs : List Nat) (pc : Dword) (clock : Nat) : Thread :=
  let t1 := (t.closeQueues qs).land
  if t.queuesFed t1 qs then t1.waitAt pc clock else { t1.blockAt .queue pc clock with queues := qs }

/-- A thread as it comes to issue a word: ABEGIN, ACOMMIT and FRET find its windows closed (02 R45). -/
def Thread.atWord (t : Thread) (i : Instr) : Thread := if closesFirst i then { t.closeWindows.land with q := if t.inHandler then t.q else t.closeWindows.q } else t

/-- A FRET whose guard holds: its own rule says what it waits for (16 R359). -/
def fretGo (i : Instr) (t : Thread) : Bool :=
  match i with
  | .fret w => t.guard w.g
  | _ => false

/-- One thread's turn at the word (02 R39, R41, R42; 07 R146, R147): none once a lower thread is held, none while a write that its window's closing lets land is not available. -/
def laneTurn (i : Instr) (iss : Issue) (body : Nat → State → Turnout) (a : LaneAcc) (l : Nat × Nat) : LaneAcc :=
  match (a.s.thread? iss.grp l.2).map (fun t => t.atWord i) with
  | none => a
  | some t =>
    if a.held || !t.isRunning || a.acted.contains l.2 then a
    else if closesFirst i && !(fretGo i t) && !t.held.isEmpty then a.settle i iss l (.hold (a.s.setThread iss.grp l.2 t))
    else
      let clock := a.s.clock iss.core
      let go := ((guardOf i).map (fun g => t.guard g)).getD true
      let stop := t.region.bind (fun r => regionStop i (iss.word.extractLsb' 52 10).toNat r t.heldRegs go)
      match stop with
      | some (c, d, code) => { a with s := a.s.abortRegion iss.grp l.2 c d code, acted := l.2 :: a.acted }
      | none =>
        if !go then
          let t1 := t.retireWord i false none iss.pc
          { a with s := a.s.setThread iss.grp l.2 (if endsDispatch i then t1.waitAt (iss.pc + 8) clock else t1), acted := l.2 :: a.acted }
        else if !t.canPop (srcQueues i) then
          match t.emptyQueue (srcQueues i) with
          | some q => { a with faults := a.faults ++ [(l, .plain 0x23 0 (BitVec.ofNat 64 q))], acted := l.2 :: a.acted }
          | none => { a with s := a.s.setThread iss.grp l.2 (t.blockQueue (srcQueues i) iss.pc clock), acted := l.2 :: a.acted }
        else
          let s0 := if t.region.isSome && !ownTagRule i then a.s.setThread iss.grp l.2 (t.concretiseRegs (srcRegs i)) else if closesFirst i then a.s.setThread iss.grp l.2 t else a.s
          a.settle i iss l (body l.2 s0)

/-- Threads of a pack that are still running. -/
def livePack (g : Group) (p : List (Nat × Nat)) : List (Nat × Nat) := p.filter (fun l => ((g.threads[l.2]?).map (fun t => t.isRunning)).getD false)

/-- The dispatch after a word went to a pack (07 R146, R147): threads that left are gone; when no pack has still to take the word the next word follows; when no thread is left there is no dispatch. -/
def Dispatch.after (d : Dispatch) (g : Group) (pack : Nat) (held : Bool) (acted : List Nat) : Option Dispatch :=
  let packs := d.packs.map (livePack g)
  let alive (k : Nat) : Bool := !((packs.getD k []).isEmpty)
  let todo := (d.todo.filter (fun k => k != pack || held)).filter alive
  if packs.all (fun p => p.isEmpty) then none
  else if todo.isEmpty then some { d with packs := packs, pc := d.pc + 8, index := d.index + 1, todo := (List.range packs.length).filter alive, acted := [], stuck := false, fpe := none, word := none, checked := false, fpSeen := false, sent := none }
  else some { d with packs := packs, todo := todo, acted := if held then acted ++ d.acted else d.acted, stuck := held, sent := if todo.head? = d.todo.head? then d.sent else none }

/-- Dispatches of a group brought up to date with the threads that still run. -/
def State.purge (s : State) (gid : Nat) : State :=
  match s.group? gid with
  | none => s
  | some g =>
    (List.range 2).foldl (fun a k =>
      let st := a.stream g.core k
      match st.dispatch with
      | some d => if d.grp = gid then a.setStream g.core k { st with dispatch := d.after g d.packs.length false [] } else a
      | none => a) s

/-- Flags raised in a group (03 R82, R83): they stay set; an enabled one makes the FP exception pending from this cycle on, with the first address kept; of two of one cycle the one from the lower stream is first. An event of no stream is given stream 2. -/
def Group.raise (g : Group) (flags : Flags) (pc : Dword) (clock stream : Nat) : Group :=
  let first : Bool := decide (flags &&& g.trapEn ≠ 0) && (match g.fpPending with | some p => decide (p.2 = clock ∧ stream < g.fpStream) | none => true)
  { g with
    fpflags := g.fpflags ||| flags
    fpPending := if first then some (pc, clock) else g.fpPending
    fpStream := if first then stream else g.fpStream }

/-- The FP exception that a delivery point of this cycle delivers: one raised in the same cycle waits for the next (03 R83). -/
def Group.pendingFp (g : Group) (clock : Nat) : Option Dword := g.fpPending.bind (fun p => if p.2 < clock then some p.1 else none)

/-- The flags a thread has raised pass to its group (03 R82). -/
def Group.gather (g : Group) (clock t stream : Nat) : Group :=
  match g.threads[t]? with
  | none => g
  | some th =>
    if th.raised.isEmpty then g
    else th.raised.foldl (fun a e => a.raise e.1 e.2 clock stream) { g with threads := g.threads.set t { th with raised := [] } }

/-- The flags of a list of threads pass to their group, lowest thread first. -/
def State.gatherFlags (s : State) (gid : Nat) (ts : List Nat) (stream : Nat) : State := s.modGroup gid (fun g => ts.foldl (fun a t => a.gather (s.clock g.core) t stream) g)

/-- The fault that follows the word for a lane (03 R84, 11 R248): its own turn's, or that of a wait of this pack which a later lane's arrival completed. -/
def LaneAcc.lateOf (a : LaneAcc) (iss : Issue) (l : Nat × Nat) : Option ((Nat × Nat) × TFault) :=
  match a.late.find? (fun e => decide (e.1 = l)) with
  | some e => some e
  | none => ((a.s.thread? iss.grp l.2).bind (fun t => t.late)).map (fun f => (l, .plain f.1 f.2.1 f.2.2))

/-- The late faults of threads are taken up. -/
def State.clearLate (s : State) (gid : Nat) (lanes : List (Nat × Nat)) : State :=
  lanes.foldl (fun a l => if ((a.thread? gid l.2).bind (fun t => t.late)).isSome then a.modThread gid l.2 (fun t => { t with late := none }) else a) s

/-- The word at an instruction address (02 R29, 14 R331), or the fault of its fetch. DESIGN CHOICE (log 66): code rewritten against 02 R29 executes as the bytes memory holds when the word is fetched. -/
def State.fetch (s : State) (ctx : Nat) (pc : Dword) : Except TFault Dword :=
  if bits pc 63 57 ≠ 0 then .error (.plain 0x06 pc 0)
  else
    match s.route ctx pc.toNat .fetch with
    | .error f => .error (.page pc.toNat 3 f)
    | .ok l =>
      if (match l with | .mem _ pa => s.poisoned pa | _ => false) then .error (.plain 0x16 pc (BitVec.ofNat 64 (1 <<< 16 ||| s.poisonLevel)))
      else .ok (dwordOfBytes (s.currentBytes l 8))

/-- The line of a word that is fetched leaves the host's filter (15 R342). -/
def State.fetchTouch (s : State) (ctx : Nat) (pc : Dword) : State :=
  match s.route ctx pc.toNat .fetch with
  | .ok (.mem _ pa) => s.unhost (pa / 128)
  | _ => s

/-- The join bit of the word at an address: none where it is no ROWBLK (07 R149, R150). -/
def State.rowblkAt (s : State) (ctx : Nat) (a : Dword) : Option Bool :=
  match s.fetch ctx a with
  | .error _ => none
  | .ok w => match decode w with
    | .ok (.rowblk x) => if (staticFault (.rowblk x)).isNone then some (x.imm.getLsbD 0) else none
    | _ => none

/-- A row satisfies the join at an address (07 R150): each of its threads waits there, is blocked, or has exited; one in a handler activation is blocked until its FRET (07 R139, 16 R358). -/
def Group.rowJoined (g : Group) (a : Dword) (row : Nat) : Bool :=
  ((g.threads.drop (32 * row)).take 32).all (fun t => match t.cond with
    | .waiting => t.addr == a
    | .blocked _ => true
    | .exited => true
    | .running => t.inHandler)

/-- The address whose entry a thread belongs to (07 R140): its wait address; that of I while it is in a handler activation, where it is blocked until FRET (07 R139, 16 R358). -/
def Thread.tableAddr (t : Thread) : Option Dword :=
  match t.cond with
  | .exited => none
  | .running => if t.inHandler then t.handler.map (fun h => h.record.instAddr) else none
  | _ => some t.addr

/-- Wait addresses of a group's threads that are in no dispatch, each once, in the order in which a thread came to wait there (07 R140). -/
def Group.waitAddrs (g : Group) : List Dword :=
  distinct ((inOrder (fun x y => decide (x.since ≤ y.since)) (g.threads.filter (fun t => t.tableAddr.isSome))).filterMap (fun t => t.tableAddr))

/-- The earliest moment from which a runnable thread waits at an address: at a ROWBLK that joins, one of a joined row (07 R150). -/
def Group.oldestAt (g : Group) (a : Dword) : Option Nat :=
  ((g.threads.zipIdx.filter (fun (t : Thread × Nat) => decide (t.1.cond = .waiting ∧ t.1.addr = a) && (!g.joinAt.contains a || g.rowJoined a (t.2 / 32)))).map (fun (t : Thread × Nat) => t.1.since)).min?

/-- The overflow address that a freed entry takes (07 R141): its earliest runnable thread has waited longest, then the lower address. DESIGN CHOICE (log 93): addresses with no runnable thread come after all that have one, the lower first. -/
def Group.nextOver (g : Group) (ovl : List Dword) : Option Dword :=
  ovl.foldl (fun b a => match b with
    | none => some a
    | some x =>
      match g.oldestAt x, g.oldestAt a with
      | some m, some n => if n < m ∨ n = m ∧ a < x then some a else some x
      | none, some _ => some a
      | some _, none => some x
      | none, none => if a < x then some a else some x) none

/-- Free entries taken by addresses of the overflow list (07 R141). -/
def Group.fillTable (g : Group) : Nat → List Dword → List Dword → List Dword × List Dword
  | 0, tab, ovl => (tab, ovl)
  | n + 1, tab, ovl =>
    if 64 ≤ tab.length then (tab, ovl)
    else
      match g.nextOver ovl with
      | none => (tab, ovl)
      | some a => g.fillTable n (tab ++ [a]) (ovl.filter (fun x => decide (x ≠ a)))

/-- The block table and the overflow list after threads have come and gone (07 R140, R141): entries left without a thread free, overflow addresses move in, new addresses take what is left or join the list. -/
def Group.retable (g : Group) : Group :=
  let all := g.waitAddrs
  let (tab, ovl) := g.fillTable 64 (g.table.filter (fun a => all.contains a)) (g.overflow.filter (fun a => all.contains a))
  let new := all.filter (fun a => !tab.contains a && !ovl.contains a)
  let room := if ovl.isEmpty then 64 - tab.length else 0
  { g with table := tab ++ new.take room, overflow := ovl ++ new.drop room, yielded := g.yielded.filter (fun a => all.contains a) }

/-- A group's block table after threads have come and gone, with the ROWBLKs that join among the addresses past its 64 entries (07 R140, R141, R150). -/
def State.retable (s : State) (gid : Nat) : State :=
  s.modGroup gid (fun g => ({ g with joinAt := if g.waitAddrs.length ≤ 64 then [] else g.waitAddrs.filter (fun a => decide (s.rowblkAt g.ctx a = some true)) } : Group).retable)

/-- The entry of an address becomes yielded once a dispatch of the group has ended there at a YIELD (07 R144, R162). -/
def State.markYielded (s : State) (iss : Issue) : State :=
  if (s.stream iss.core iss.stream).dispatch.isSome then s
  else s.modGroup iss.grp (fun g => if g.yielded.contains (iss.pc + 8) then g else { g with yielded := g.yielded ++ [iss.pc + 8] })

/-- What a word's issue leaves to do once it has ended: a YIELD's mark. -/
def State.afterWord (s : State) (i : Instr) (iss : Issue) : State :=
  match i with
  | .yield _ => s.markYielded iss
  | _ => s

/-- The end of an issue: faults taken, the dispatch brought up to date, no word being issued. -/
def finishIssue (iss : Issue) (a : LaneAcc) : State :=
  let late := iss.lanes.filterMap (a.lateOf iss)
  let s1 := (((a.s.takeFaults iss.core iss.grp iss.pc false a.faults).takeFaults iss.core iss.grp iss.pc true late).clearLate iss.grp iss.lanes).gatherFlags iss.grp (iss.lanes.map (fun l => l.2)) iss.stream
  let st := s1.stream iss.core iss.stream
  let s2 := match st.dispatch, s1.group? iss.grp with
    | some d, some g => if d.grp = iss.grp then s1.setStream iss.core iss.stream { st with dispatch := d.after g iss.pack a.held a.acted } else s1
    | _, _ => s1
  { s2.retable iss.grp with issue := none, choiceCtr := s2.choiceCtr + 1 }

/-- A fault raised for every thread of the pack, whatever its guard (02 R43). -/
def faultPack (iss : Issue) (cause : Nat) (s : State) : State :=
  let run := iss.lanes.filter (fun l => ((s.thread? iss.grp l.2).map (fun t => t.isRunning)).getD false)
  finishIssue iss { s := s, faults := run.map (fun l => (l, iss.bad cause 0)), late := [], held := false, acted := [] }

/-- The dispatch a word is issued from. -/
def State.issuing (s : State) (iss : Issue) : Option Dispatch := (s.stream iss.core iss.stream).dispatch

/-- The kernel is co-resident (06 R124). -/
def State.corOf (s : State) (g : Group) : Bool := ((s.kern? g.kern).map (fun k => k.desc.cor)).getD false

/-- The cause of the first decode fault of a word in a group (02 R43, 16 R355, R359): FRET outside a handler activation is illegal; a register past the launch parameters is an illegal operand. -/
def wordFault (i : Instr) (frame acc : Nat) (cor inHandler : Bool) : Option Nat :=
  if (match i with | .fret _ => !inHandler | _ => false) then some 0x01
  else
    match staticFault i with
    | some .illegalInstruction => some 0x01
    | some .illegalPair => some 0x02
    | some .illegalOperand => some 0x03
    | some .scopeInvalid => some (if launchFault i frame acc cor then 0x03 else 0x08)
    | none => if launchFault i frame acc cor then some 0x03 else none

/-- Words that act on memory for each thread by itself, so that other agents may act between two threads' turns (09 R217, 07 R146). -/
def splits : Instr → Bool
  | .ld _ | .st _ | .atom _ | .cas _ | .red _ | .enq _ | .deq _ => true
  | _ => false

/-- The lanes whose turns come in this issue: all of the pack's, or, where the agenda has the word go to some threads at a time, the next of them (09 R217, log 3). -/
def State.turnLanes (s : State) (i : Instr) (iss : Issue) (acted : List Nat) : List (Nat × Nat) :=
  match s.laneLimit with
  | some n => if splits i then iss.lanes.filter (fun l => acted.contains l.2) ++ (iss.lanes.filter (fun l => !acted.contains l.2)).take n else iss.lanes
  | none => iss.lanes

/-- The turns of some lanes of a pack in ascending thread index (07 R146); the stream holds the pack while others still have theirs to come. -/
def runLanes (i : Instr) (iss : Issue) (body : Nat → State → Turnout) (lanes : List (Nat × Nat)) (a : LaneAcc) : LaneAcc :=
  let b := lanes.foldl (laneTurn i iss body) a
  if lanes.length < iss.lanes.length then { b with held := true } else b

/-- The checks of a word that come before any thread's turn (02 R43, 07 R149, 16 R358, R359), then the turns in ascending thread index (07 R146). With no word being issued nothing happens (log 2). -/
def runWord (i : Instr) (s : State) (body : Issue → Nat → State → Turnout) : State :=
  match s.issue with
  | none => s
  | some iss =>
    match s.group? iss.grp with
    | none => { s with issue := none }
    | some g =>
      let d := s.issuing iss
      let inHandler := (d.map (fun x => x.handler)).getD false
      match wordFault i g.frame g.accs (s.corOf g) inHandler with
      | some c => faultPack iss c s
      | none =>
      if crossLane i && !((d.map (fun x => x.rowblk)).getD false) then faultPack iss 0x04 s
      else if inHandler && handlerEnds i then
        finishIssue iss { s := s.failHandler iss.grp ((d.map (fun x => x.packs.flatten.map (fun l => l.2))).getD []), faults := [], late := [], held := false, acted := [] }
      else
        (finishIssue iss (runLanes i iss (body iss) (s.turnLanes i iss ((d.map (fun x => x.acted)).getD [])) { s := s, faults := [], late := [], held := false, acted := ((d.map (fun x => x.acted)).getD []) })).afterWord i iss

/-- What a thread-local instruction gives: the thread with its writes made, the flags it raises, and a later result. -/
inductive LocalOut where
  | ok (t : Thread) (flags : Flags) (res : Option LongRes)
  | fault (f : TFault)

/-- A thread-local instruction's turn (02 R41): it reads its thread and the environment, and changes its thread alone. DESIGN CHOICE (log 94): the flags it raises are raised before those of held writes that land as it retires (03 R82, R83), so that of two enabled ones of one stream and cycle its own address is the first. -/
def localTurn (f : Env → Thread → LocalOut) (iss : Issue) (tid : Nat) (s : State) : Turnout :=
  match s.group? iss.grp, s.thread? iss.grp tid with
  | some g, some t =>
    match f { s := s, iss := iss, grp := g, tid := tid } t with
    | .ok t1 flags res => .done (s.setThread iss.grp tid (if flags = 0 then t1 else { t1 with raised := t1.raised ++ [(flags, iss.pc)] })) res
    | .fault e => .fault e
  | _, _ => .out s

/-- A thread-local instruction. -/
def runLocal (i : Instr) (s : State) (f : Env → Thread → LocalOut) : State := runWord i s (localTurn f)

/-- A thread-local instruction that writes one 32-bit register and raises no flag. -/
def runWrite (i : Instr) (d : Code) (s : State) (f : Env → Thread → Word) : State :=
  runLocal i s (fun e t => .ok (t.write (vnum d) (f e t)) 0 none)

/-- A thread-local instruction that writes a register pair and raises no flag. -/
def runWritePair (i : Instr) (d : Code) (s : State) (f : Env → Thread → Dword) : State :=
  runLocal i s (fun e t => .ok (t.writePair (vnum d) (f e t)) 0 none)

end Sys2Proof.Machine
end

