-- ==== Sys2Proof/Machine/Fetch.lean ====
section
/-! DEFINITION. Time (spec/01 R19, 15 R350), the stream's next pack (07 R146), fetching its word (02 R29, 07 R148), and address breakpoints (16 R362). -/

namespace Sys2Proof.Machine

/-- A die after some ticks (01 R19). -/
def Die.advance (d : Die) (n : Nat) : Die :=
  { d with clock := d.clock + (d.frac + n) / Config.coreTicks d.level, frac := (d.frac + n) % Config.coreTicks d.level }

/-- A correction still to absorb after some ticks, of which at most 1/1024 is taken (15 R350). -/
def slewStep (slew : Int) (room : Nat) : Int := if slew ≥ 0 then Min.min slew room else Max.max slew (-(room : Int))

/-- Stream cycles of a context's trial (16 R373): one for each cycle each stream holds a dispatch of it. -/
def State.countTrials (s : State) (n : Nat) : State :=
  { s with ctxs := s.ctxs.map (fun e =>
      if e.2.trial.en && e.2.profile then
        let held := s.cores.foldl (fun a c => a + (c.2.streams.filter (fun st => (st.dispatch.map (fun d => decide (((s.group? d.grp).map (fun g => g.ctx)) = some e.1))).getD false)).length * ((s.die (dieOf c.1)).advance n).clock - (c.2.streams.filter (fun st => (st.dispatch.map (fun d => decide (((s.group? d.grp).map (fun g => g.ctx)) = some e.1))).getD false)).length * (s.die (dieOf c.1)).clock) 0
        (e.1, { e.2 with trial := { e.2.trial with streamCyc := e.2.trial.streamCyc + BitVec.ofNat 64 held } })
      else e) }

/-- Time passes: every clock advances (01 R19); device time takes its share of a correction (15 R350). The events of a plinth cycle meet the triggers at its end (16 R369). -/
def State.advance (s0 : State) (n : Nat) : State :=
  let s := if s0.evbuf.isEmpty || (s0.tick + n) / Config.plinthTicks == s0.tick / Config.plinthTicks then s0 else s0.flushEvents
  let d := slewStep s.slew ((s.tick + n) / 1024 - s.tick / 1024)
  { (if s.ctxs.any (fun e => e.2.trial.en) then s.countTrials n else s) with
    tick := s.tick + n, devTicks := ((s.devTicks + n : Int) + d).toNat, slew := s.slew - d, dies := s.dies.map (fun x => x.advance n) }

/-- Time passes to the next plinth cycle. -/
def State.nextPlinth (s : State) : State := s.advance (Config.plinthTicks - s.tick % Config.plinthTicks)

/-- Ticks of one cycle of a core (01 R10, R19). -/
def State.cycle (s : State) (core : Nat) : Nat := if Config.cores ≤ core then Config.plinthTicks else Config.coreTicks (s.die (dieOf core)).level

/-- A pack can take its dispatch's next word: no held write of its threads has still to land (07 R146). -/
def State.packReady (s : State) (d : Dispatch) (k : Nat) : Bool :=
  (d.packs.getD k []).all (fun l => ((s.thread? d.grp l.2).map (fun t => !t.stalled)).getD true)

/-- A trial holds back a stream's next issue (16 R373): an inserted delay, or the full counter of the context that counted last. -/
def State.trialHolds (s : State) (core : Nat) (st : Stream) : Bool :=
  decide (s.clock core < st.trialDelay) || (match st.trialCtx with
    | some n => let c := s.ctx n; c.trial.en && c.profile && decide (0 < bits c.trial.cfg 31 16 ∧ bits c.trial.cfg 31 16 ≤ st.trialCount)
    | none => false)

/-- The stream has issued in this cycle, or stream 1 has, which acts after stream 0 (02 R57, 03 R83, 07 R146: a word a cycle). -/
def State.issuedNow (s : State) (core stream : Nat) : Bool :=
  let at_ (k : Nat) : Bool := ((s.stream core k).last.map (fun x => x.clock == s.clock core)).getD false
  at_ stream || (stream == 0 && at_ 1)

/-- The pack that takes the next word of a stream (07 R146): the lowest that still has to and can; the fetched word is filled in after. A word some of whose threads have had their turn goes on in the same cycle (log 3). -/
def State.nextIssue (s : State) (core stream : Nat) : Option Issue :=
  let st := s.stream core stream
  match st.dispatch with
  | none => none
  | some d =>
    match s.group? d.grp with
    | none => none
    | some _ =>
      if s.trialHolds core st || (d.acted.isEmpty && s.issuedNow core stream) then none
      else (d.todo.find? (fun k => s.packReady d k)).map (fun k => { core := core, stream := stream, grp := d.grp, pc := d.pc, pack := k, lanes := d.packs.getD k [], word := 0 })

/-- A fetch fault is raised for every thread still in the dispatch (07 R148), one record for each pack. -/
def State.fetchFault (s : State) (core stream : Nat) (f : TFault) : State :=
  match (s.stream core stream).dispatch with
  | none => s
  | some d =>
    let s1 := d.packs.foldl (fun a p =>
      let run := p.filter (fun l => ((a.thread? d.grp l.2).map (fun t => t.isRunning)).getD false)
      a.takeFaults core d.grp d.pc false (run.map (fun l => (l, f)))) s
    s1.setStream core stream { s1.stream core stream with dispatch := none }

/-- The breakpoint of a context at an address, while it holds DEBUG (16 R362). -/
def State.breakpointAt (s : State) (ctx : Nat) (pc : Dword) : Option Nat :=
  if (s.ctx ctx).debug then ((s.ctx ctx).bps.zipIdx.find? (fun e => decide (e.1 = some pc))).map (fun e => e.2) else none

/-- Threads of a dispatch halted at a breakpoint before the word fetched for them, a record for each pack (16 R362); those resumed there execute it once. -/
def State.stopAtBreakpoint (s : State) (iss : Issue) (packs : List (List (Nat × Nat))) (k : Nat) : State :=
  packs.foldl (fun a p =>
    let hit := p.filter (fun l => ((a.thread? iss.grp l.2).map (fun t => t.isRunning && !t.stepOver)).getD false)
    let f : TFault := .plain 0x32 iss.pc (BitVec.ofNat 64 (1 ||| k <<< 1))
    if hit.isEmpty then a else a.takeFaults iss.core iss.grp iss.pc false (hit.map (fun l => (l, f)))) s

/-- An outside issue raises the stream's trial counter (16 R373). -/
def State.countTrial (s : State) (iss : Issue) : State :=
  match s.group? iss.grp with
  | none => s
  | some g =>
    let c := s.ctx g.ctx
    if c.trial.en && c.profile then
      let low := (iss.lanes.headD (0, 0)).2
      let outside := ((g.threads[low]?).map (fun t => decide (t.depth = 0) || decide (t.regtop.setWidth 16 ≠ (c.trial.cfg.setWidth 16 : BitVec 16)))).getD false
      if outside then
        let st := s.stream iss.core iss.stream
        s.setStream iss.core iss.stream { st with trialCount := st.trialCount + 1, trialCtx := some g.ctx }
      else s
    else s

/-- The stream keeps what it issues now (16 R372). -/
def State.noteIssue (s : State) (iss : Issue) : State :=
  let st := s.stream iss.core iss.stream
  match st.dispatch with
  | some d => s.setStream iss.core iss.stream { st with last := some { clock := s.clock iss.core, grp := iss.grp, entry := d.entry, index := d.index, pop := iss.lanes.length, low := (iss.lanes.headD (0, 0)).2 } }
  | none => s

/-- What a stream does next: nothing, a fetch fault, an unassigned word, or an instruction with the state it is issued in. -/
inductive Ready where
  | idle
  | took (s : State)
  | run (i : Instr) (s : State)

/-- The word a dispatch issues next: fetched once, before it goes to the first pack (07 R148). -/
def State.wordOf (s : State) (d : Dispatch) (ctx : Nat) : Except TFault Dword :=
  match d.word with
  | some w => .ok w
  | none => s.fetch ctx d.pc

/-- A word just fetched is kept for the dispatch's packs; the line it comes from leaves the host's filter (15 R342). -/
def State.keepWord (s0 : State) (core stream ctx : Nat) (d : Dispatch) (w : Dword) : State :=
  let s := if d.word.isSome then s0 else s0.fetchTouch ctx d.pc
  s.setStream core stream { s.stream core stream with dispatch := some { d with word := some w, checked := true } }

/-- The words at whose end a pending FP exception is delivered (03 R83). -/
def deliveryPoint : Instr → Bool
  | .bsync _ | .bwait _ | .fence _ => true
  | _ => false

/-- A delivery point issues to the first pack of its dispatch: what is pending now is what it delivers to every thread of the dispatch (03 R83). -/
def State.reachPoint (s : State) (iss : Issue) (i : Instr) : State :=
  let st := s.stream iss.core iss.stream
  match st.dispatch with
  | some d => if deliveryPoint i && !d.fpSeen then s.setStream iss.core iss.stream { st with dispatch := some { d with fpSeen := true, fpe := (s.group? iss.grp).bind (fun g => g.pendingFp (s.clock g.core)) } } else s
  | none => s

/-- Threads of the pack whose guard holds. -/
def State.guarded (s : State) (iss : Issue) (i : Instr) : List Nat :=
  (iss.lanes.map (fun l => l.2)).filter (fun n => ((s.thread? iss.grp n).map (fun t => ((guardOf i).map (fun g => t.guard g)).getD true)).getD false)

/-- The word goes to a pack: it counts once for a trial, and for a sample (16 R372, R373), unless a breakpoint has stopped every thread of it. -/
def State.issueNow (s : State) (iss : Issue) (i : Instr) : State :=
  let again := (((s.stream iss.core iss.stream).dispatch.map (fun d => !d.acted.isEmpty && d.todo.head? == some iss.pack)).getD false)
  let s1 := if again then s else if iss.lanes.any (fun l => ((s.thread? iss.grp l.2).map (fun t => t.isRunning)).getD false) then ((s.countTrial iss).noteIssue iss).reachPoint iss i else s
  { s1 with issue := some { iss with on := s1.guarded iss i } }

/-- A table of the context in memory read by an instruction (04 R96): its bytes by offset, or the fault with the table's address. DESIGN CHOICE (log 101): its lines stay in the host's filter. -/
def State.tableRead (s : State) (ctx : Nat) (va : Dword) (n : Nat) (w : Want) : Except TFault Mem :=
  match s.route ctx va.toNat w with
  | .error f => .error (.page va.toNat 7 f)
  | .ok (.mem _ pa) => .ok (s.hbm.slice pa n)
  | .ok (.cell g off _) => .ok (((s.group? g).map (fun x => x.scratch.slice off n)).getD [])
  | .ok (.frame _) => .ok []

/-- 512 bits of 64 bytes. -/
def bits512 (m : Mem) : BitVec 512 := BitVec.ofNat 512 (natOfBytes (m.read 0 64))

/-- Address of layout entry n of a context. -/
def State.layoutAt (s : State) (ctx n : Nat) : Dword := (s.ctx ctx).ltBase + BitVec.ofNat 64 (64 * n)

/-- Layout entry n as it stands (09 R200). -/
def State.layout (s : State) (ctx n : Nat) : Except TFault (BitVec 512) := (s.tableRead ctx (s.layoutAt ctx n) 64 .load).map bits512

/-- Number of a layout operand. -/
def ltnum (c : Code) : Nat := match Operand.ofCode c with | .lt n => n | _ => 0

/-- Words whose coordinate registers reach as far as their entry's RANK says, and how many registers they take (09 R201, R203). -/
def spanOf : Instr → Option (F0 × Nat)
  | .ldt w => some (w, 0)
  | .stt w => some (w, 0)
  | .tpref w => some (w, 5)
  | _ => none

/-- A coordinate register stands past the frame: a decode fault of the word (02 R43, log 56). -/
def State.spanFault (s : State) (g : Group) (i : Instr) : Bool :=
  match spanOf i with
  | none => false
  | some (w, base) =>
    match s.layout g.ctx (ltnum w.a) with
    | .ok x => decide (1 ≤ bits x 66 64 ∧ bits x 66 64 ≤ 5 ∧ g.frame < vnum w.b + base + bits x 66 64)
    | .error _ => false

/-- The word meets a decode fault for the pack (02 R43, 16 R357): no breakpoint stops it. -/
def State.illFormed (s : State) (g : Group) (d : Dispatch) (i : Instr) : Bool :=
  (wordFault i g.frame g.accs (s.corOf g) d.handler).isSome || s.spanFault g i

/-- A word fetched for a dispatch stops at an address breakpoint of the context (16 R357, R362). -/
def State.breakAt (s : State) (g : Group) (d : Dispatch) (iss : Issue) (i : Instr) : State :=
  match s.breakpointAt g.ctx iss.pc with
  | some k => if d.checked || s.illFormed g d i then s else s.stopAtBreakpoint iss d.packs k
  | none => s

/-- A word as a core decodes it (02 R43): the array instructions are illegal on the Registrar's (01 R10, 13 R282). -/
def decodeOn (core : Nat) (w : Dword) : Except DecodeFault Instr :=
  match decode w with
  | .ok i => if Config.cores ≤ core && arrayWord i then .error .illegalInstruction else .ok i
  | .error e => .error e

/-- The next word of a stream fetched and decoded (02 R29, R43; 07 R146, R148; 16 R357, R362). -/
def State.ready (s : State) (core stream : Nat) : Ready :=
  match s.nextIssue core stream, (s.stream core stream).dispatch with
  | some iss, some d =>
    match s.group? iss.grp with
    | none => .idle
    | some g =>
      match s.wordOf d g.ctx with
      | .error f => .took (s.fetchFault core stream f)
      | .ok w =>
        let iss1 := { iss with word := w }
        let s1 := s.keepWord core stream g.ctx d w
        match decodeOn core w with
        | .error _ => .took (faultPack iss1 0x01 { (s1.countTrial iss).noteIssue iss with issue := some iss1 })
        | .ok i =>
          if ordersPacks i && d.todo.head? != some iss.pack then .idle
          else .run i ((s1.breakAt g d iss i).issueNow iss1 i)
  | _, _ => .idle

end Sys2Proof.Machine
end

