-- ==== Sys2Proof/Machine/Placed.lean ====
section
/-! DEFINITION. The context, tables, kernel, gang, group and dispatch that a word placed for the next step runs in (log 15). -/

namespace Sys2Proof.Machine

/-- The context a placed word runs in: ACTIVE, its tables at 0x40000, one page of code at virtual address 0 in frame 7 (log 15). -/
def placedCtx : Ctx := { Ctx.empty with state := .active, ptroot := 0x40000, nslots := 1, slotSize := 65536 }

/-- Its page tables (14 R308, R309): three table entries and a page entry that allows stores and fetches. -/
def placedTables : Mem :=
  Mem.write (Mem.write (Mem.write (Mem.write [] 0x40000 (bytesOfNat (2 ^ 60 + 0x60000) 8)) 0x60000 (bytesOfNat (2 ^ 60 + 0x61000) 8))
    0x61000 (bytesOfNat (2 ^ 60 + 0x62000) 8)) 0x62000 (bytesOfNat (2 * 2 ^ 60 + 2 ^ 56 + 2 ^ 55 + 2 ^ 54 + 7 * 65536) 8)

/-- Its kernel: one group of one thread, 32 registers, one accumulator, one vitrine slot, one unit of scratchpad. -/
def placedDesc : LaunchDesc :=
  { frame := 32, vslots := 1, nparam := 0, acc := 1, gangSize := 1, depKind := 0, evbar := 0, evb := false, cor := false, entry := 0, scratch := 1, threads := 1, ngroups := 1,
    stkBase := 0, evCount := 0, stkSize := 0, evAddr := 0, gangPol := 0, grpPol := 0, kPol := 0, prodEvt := 0, prodNg := 0, prodKseq := 0, depHi := 0, depLo := 0 }

/-- A barrier at its reset values (11 R245). -/
def placedBarrier : Barrier :=
  { phase := 0, count := 0, expBytes := 0, arrivals := 0, arrBytes := 0, lastOvf := false, members := 1, openGlobal := false, pastGlobal := false }

/-- Its gang, resident on quad 0. -/
def placedGang : Gang :=
  { state := .resident, quad := 0, members := [0], qb := List.replicate 8 placedBarrier, chans := List.replicate 4 { seq := 0, done := 0, wp := 0, canFirst := 0xFFFFFFFF, canLast := 0xFFFFFFFF, failFirst := 0xFFFFFFFF, failCount := 0 },
    saveSlot := none, cancelled := [], heldCounts := [], firstSince := none, halted := false, depOk := true, placedAt := 0 }

/-- Its kernel, running. -/
def placedKernel : Kernel :=
  { ctx := 0, kseq := 1, slot := 0, seq := 0, prio := 0, desc := placedDesc, params := [], state := .running, gangs := [placedGang], ended := [], order := 0, gathering := false, qkey := 0, qcb := 0, claims := [], dieBars := [], devBars := [] }

/-- Its group, with thread 0 running in a dispatch. -/
def placedGroup : Group :=
  { ctx := 0, kern := 0, gang := 0, gidx := 0, member := 0, core := 0, slot := 0, resident := true, frame := 32, scratchUnits := 1, accs := 1, vslots := 1,
    threads := [{ Thread.start 0 [] 0 with cond := .running }], scratch := [], acc := [], vitrine := [], fpflags := 0, trapEn := 0, orderReq := false, pinLapse := false, fpround := 0,
    fpPending := none, key := 0, gb := List.replicate 16 placedBarrier, table := [], overflow := [], yielded := [], killed := none }

/-- The dispatch the word is issued from, at address 0; for a cross-lane word it is a row-block dispatch past its first instruction (07 R149), for FRET a handler activation (16 R358). -/
def placedDispatch (i : Option Instr) : Dispatch :=
  { uid := 0, grp := 0, entry := 0, pc := 0, packs := [[(0, 0)]], todo := [0], index := 0, rowblk := (i.map crossLane).getD false,
    handler := (match i with | some (.fret _) => true | _ => false), acted := [], stuck := false, fpe := none }

end Sys2Proof.Machine
end

