-- ==== Sys2Proof/Machine/Sync.lean ====
section
/-! DEFINITION. Effective addresses and their checks (spec/09 R187, R192; 16 R357, R362), frame space (07 R152), bindings, releases and acquires (09 R204; 12 R263 to R266), and delivery of FP exceptions (03 R83). -/

namespace Sys2Proof.Machine

/-- Register line, thread and byte of a frame offset (07 R152). -/
def Group.frameAt (g : Group) (off : Nat) : Nat × Nat × Nat :=
  let line := off / 128
  (line % g.frame, line / g.frame * 32 + off % 128 / 4, off % 4)

/-- Bytes of the frame; those of absent lanes read zero (07 R152, 09 R190). -/
def Env.frameRead (e : Env) (off n : Nat) : List Byte :=
  (List.range n).map (fun i =>
    let (r, tid, b) := e.grp.frameAt (off + i)
    match e.grp.threads[tid]? with
    | some t => (({ e with tid := tid }).v t r).extractLsb' (8 * b) 8
    | none => 0)

/-- A byte of a register replaced. -/
def putByte (x : Word) (k : Nat) (b : Byte) : Word := (x &&& ~~~((0xFF : Word) <<< (8 * k))) ||| (b.setWidth 32 <<< (8 * k))

/-- Bytes of the frame written; those of absent lanes are discarded. -/
def State.frameWrite (s : State) (gid off : Nat) : List Byte → State
  | [] => s
  | x :: xs =>
    let s1 := s.modGroup gid (fun g =>
      let (r, tid, b) := g.frameAt off
      { g with threads := modifyAt g.threads tid (fun t => t.setV r (putByte (t.v.get r) b x)) })
    s1.frameWrite gid (off + 1) xs

/-- SCRATCH of the kernel in bytes. -/
def Group.scratchBytes (g : Group) : Nat := 4096 * g.scratchUnits

/-- The group that is member m of a group's gang, while it has not retired. -/
def State.member (s : State) (g : Group) (m : Nat) : Option Nat :=
  ((s.gang? g.kern g.gang).bind (fun x => x.members[m]?)).bind (fun n => (s.group? n).map (fun _ => n))

/-- GANGSIZE of a group's kernel. -/
def State.gangSize (s : State) (g : Group) : Nat := ((s.kern? g.kern).map (fun k => k.desc.gangSize)).getD 1

/-- The watchpoint an access of n bytes hits while the context holds DEBUG (16 R362): access 0 load, 1 store, 2 atomic. A resumed access is let through once. -/
def Env.watchHit (e : Env) (t : Thread) (va n acc : Nat) : Option Nat :=
  let c := e.s.ctx e.grp.ctx
  if c.debug && !t.stepOver then
    (c.wps.zipIdx.find? (fun w => match w.1 with
      | some p => (match acc with | 0 => p.load | 1 => p.store | _ => p.atomic) && decide (va < p.base.toNat + p.len) && decide (p.base.toNat < va + n)
      | none => false)).map (fun w => w.2)
  else none

/-- Watchpoints on a global location, the last check. -/
def Env.watch (e : Env) (t : Thread) (va n acc : Nat) : Option TFault :=
  (e.watchHit t va n acc).map (fun k => .plain 0x33 (BitVec.ofNat 64 va) (BitVec.ofNat 64 (k ||| acc <<< 2)))

/-- A global address translated and checked (09 R187): `pg` is the access code of a page record (14 R325). -/
def Env.reach (e : Env) (ea : Dword) (size : Nat) (w : Want) (pg : Nat) : Except TFault Loc :=
  if ea.toNat % size ≠ 0 then .error (e.iss.bad 0x05 ea)
  else if bits ea 63 57 ≠ 0 then .error (e.iss.bad 0x06 ea)
  else
    match e.s.route e.grp.ctx ea.toNat w with
    | .error f => .error (.page ea.toNat pg f)
    | .ok l => .ok l

/-- A global address checked, a watchpoint last (16 R357): `acc` is the access code of its record. -/
def Env.global (e : Env) (t : Thread) (ea : Dword) (size : Nat) (w : Want) (pg acc : Nat) : Except TFault Loc :=
  match e.reach ea size w pg with
  | .error f => .error f
  | .ok l =>
    match e.watch t ea.toNat size acc with
    | some f => .error f
    | none => .ok l

/-- A scratchpad, quad-scratchpad or frame address checked (09 R187). -/
def Env.local (e : Env) (space : Nat) (ea : Word) (size : Nat) : Except TFault Loc :=
  let a := ea.toNat
  let bad (c : Nat) : Except TFault Loc := .error (e.iss.bad c (ea.setWidth 64))
  if a % size ≠ 0 then bad 0x05
  else
    match space with
    | 1 => if e.grp.scratchBytes < a + size then bad 0x06 else .ok (.cell e.iss.grp a false)
    | 2 =>
      let m := bits ea 25 24
      let off := bits ea 23 0
      if bits ea 31 26 ≠ 0 ∨ e.s.gangSize e.grp ≤ m ∨ e.grp.scratchBytes < off + size then bad 0x06
      else
        match e.s.member e.grp m with
        | some n => .ok (.cell n off false)
        | none => bad 0x06
    | _ => if e.grp.frameBytes < a + size then bad 0x06 else .ok (.frame a)

/-- effective(space, o, size) of 09 R187 with the address operand in register n. -/
def Env.place (e : Env) (t : Thread) (space n : Nat) (off : Dword) (size : Nat) (w : Want) (pg : Nat) : Except TFault (Loc × Nat) :=
  if space = 0 then
    let ea := e.pair t n + off
    (e.reach ea size w pg).map (fun l => (l, ea.toNat))
  else
    let ea := e.v t n + lowWord off
    (e.local space ea size).map (fun l => (l, ea.toNat))

/-- A watchpoint on an access in a space, the last test (16 R357, R362). -/
def Env.watched (e : Env) (t : Thread) (space va n acc : Nat) : Option TFault := if space = 0 then e.watch t va n acc else none

/-- effective(space, o, size), with a watchpoint last. -/
def Env.effective (e : Env) (t : Thread) (space n : Nat) (off : Dword) (size : Nat) (w : Want) (pg acc : Nat) : Except TFault (Loc × Nat) :=
  match e.place t space n off size w pg with
  | .error f => .error f
  | .ok (l, va) =>
    match e.watched t space va size acc with
    | some f => .error f
    | none => .ok (l, va)

/-- The location lies in memory that carries poison (14 R331). -/
def State.locPoisoned (s : State) (l : Loc) : Bool :=
  match l with
  | .mem _ pa => s.poisoned pa
  | _ => false

/-- The thread's latest overlapping queued store covers the load: it is forwarded, and meets no poison (09 R189). -/
def State.forwards (s : State) (core g t : Nat) (l : Loc) (n : Nat) : Bool :=
  match l with
  | .mem _ pa =>
    match ((s.core core).wq.filter (fun e => e.grp == g && e.tid == t && e.overlaps pa n)).getLast? with
    | some e => decide (e.phys ≤ pa ∧ pa + n ≤ e.phys + e.bytes.length) && e.nibble.isNone
    | none => false
  | _ => false

/-- Data of n bytes received in poison: undefined values (16 R360). -/
def freeData (ctr n : Nat) : Qword := BitVec.ofNat 128 (natOfBytes ((List.range n).map (fun k => Config.freeByte ctr k)))

/-- The fault of poisoned data (14 R331; 16 R356): `width` 0 for 32 bits, 1 for 64, 2 for 128. The bits of `bad` came in poison and are undefined; the others are those of `got` (16 R360). -/
def Env.poisonPart (e : Env) (va n width sizeCode la : Nat) (dest : Code) (bad got : Nat) : TFault :=
  .poison (BitVec.ofNat 64 va) (BitVec.ofNat 64 (width <<< 16 ||| dest.toNat <<< 4 ||| e.s.poisonLevel)) ((freeData e.s.choiceCtr n &&& BitVec.ofNat 128 bad) ||| (BitVec.ofNat 128 got &&& ~~~(BitVec.ofNat 128 bad))) bad width sizeCode la dest

/-- The fault of data of n bytes all of which came in poison: they lie in one line. -/
def Env.poisonFault (e : Env) (va n width sizeCode la : Nat) (dest : Code) : TFault := e.poisonPart va n width sizeCode la dest (2 ^ (8 * n) - 1) 0

/-- The core's L1 line of a virtual address. -/
def Env.l1Line (e : Env) (va : Nat) : Option L1Line := (e.s.core e.iss.core).l1Find e.grp.ctx (va / 128)

/-- A load of this address receives poisoned data (14 R331): neither a forwarded store nor a line of the L1 supplies it. -/
def Env.meetsPoison (e : Env) (l : Loc) (va n : Nat) : Bool :=
  e.s.locPoisoned l && !e.s.forwards e.iss.core e.iss.grp e.tid l n && (e.l1Line va).isNone

/-- A load's bytes (09 R188, R189, R190); none while a store of its own waits for an exclusive attempt. An L1 line filled before a window was registered stays readable (09 R210). -/
def Env.read (e : Env) (l : Loc) (va n : Nat) : Option (State × List Byte) :=
  match l with
  | .frame off => some (e.s, e.frameRead off n)
  | .cell _ _ true =>
    match e.l1Line va with
    | some line => some (e.s, line.bytes.read (va % 128) n)
    | none => e.s.loadBytes e.iss.core e.grp.ctx e.iss.grp e.tid l n
  | _ => e.s.loadBytes e.iss.core e.grp.ctx e.iss.grp e.tid l n

/-- A store (09 R192); one routed to a window drops the core's L1 line of its address (12 R260). -/
def Env.store (e : Env) (l : Loc) (va : Nat) (bs : List Byte) (nib : Option Bool) : State :=
  match l with
  | .frame off => e.s.frameWrite e.iss.grp off bs
  | .cell _ _ true => (e.s.queueStore e.iss.core e.grp.ctx e.iss.grp e.tid l bs nib).l1Range e.iss.core e.grp.ctx va bs.length
  | _ => e.s.queueStore e.iss.core e.grp.ctx e.iss.grp e.tid l bs nib

/-- The binding table of a context (09 R204). -/
def State.bindTable (s : State) (ctx : Nat) : Except TFault Mem := s.tableRead ctx (s.ctx ctx).bindBase 8192 .load

/-- KIND of a binding. -/
def bindKind (t : Mem) (k : Nat) : Nat := t.num (32 * k + 0x18) 1 % 4

/-- The ranges of the bindings in use whose kind and object pass a test (09 R204). -/
def boundWhere (t : Mem) (f : Nat → Nat → Bool) : List Bound :=
  if t.isEmpty then []
  else (List.range 256).filterMap (fun k =>
    if bindKind t k ≠ 0 && f (bindKind t k) (t.num (32 * k + 0x10) 8) then
      some { base := t.num (32 * k) 8 % 2 ^ 57 / 128 * 128, len := t.num (32 * k + 8) 4 * 128, scope := t.num (32 * k + 0x18) 1 / 4 % 8 }
    else none)

/-- Ranges bound to an object (09 R204): a barrier's operand code, or a lock word's address. -/
def boundRanges (t : Mem) (barrier : Bool) (obj : Nat) : List Bound :=
  boundWhere t (fun kind o => if barrier then decide (kind = 1 ∧ o % 2048 = obj) else decide (2 ≤ kind ∧ o = obj))

/-- A range touches n bytes at a virtual address. -/
def Bound.touches (r : Bound) (va n : Nat) : Bool := decide (va < r.base + r.len) && decide (r.base < va + n)

/-- The widest scope among the ranges that n bytes at a virtual address lie in (12 R265). -/
def scopeOf (rs : List Bound) (va n : Nat) : Option Nat := ((rs.filter (fun r => r.touches va n)).map (fun r => r.scope)).max?

/-- The scope a queued store is released at. -/
def WqEntry.boundScope (e : WqEntry) (rs : List Bound) : Option Nat := scopeOf rs e.va e.bytes.length

/-- A thread's stores to bound ranges that were performed at a narrower scope than the binding's are performed at it (12 R265). -/
def State.widenBound (s : State) (g t : Nat) (rs : List Bound) : State :=
  s.widenTo (fun u => if u.grp == g && u.tid == t then scopeOf rs u.va u.old.length else none)

/-- A release of bound data (11 R251; 12 R263, R265): the thread's stores to the ranges are performed at their bindings' scopes; none while one is held back. -/
def State.release (s : State) (core g t : Nat) (rs : List Bound) : Option State :=
  if rs.isEmpty then some s else (s.widenBound g t rs).drainAt core (fun e => if e.grp == g && e.tid == t then e.boundScope rs else none)

/-- The ranges bound to a barrier name as a blocked wait completes (12 R265): where the table cannot be read, all memory (log 69). -/
def State.barRanges (s : State) (ctx code : Nat) : List Bound :=
  match s.bindTable ctx with
  | .ok tab => boundRanges tab true code
  | .error _ => [{ base := 0, len := 2 ^ 57, scope := 4 }]

/-- An acquire of bound data: the core's L1 lines of the ranges are invalidated. -/
def State.acquire (s : State) (core ctx : Nat) (rs : List Bound) : State :=
  rs.foldl (fun a r => a.l1Range core ctx r.base r.len) s

/-- A region lock's threads, refused or holding: the device's stores to a location wait for an exclusive attempt of another party (10 R237). -/
def State.locHeld (s : State) (core : Nat) (l : Loc) (who : Party) : Bool :=
  match l with
  | .mem _ pa => s.lineHeld core (pa / 128) who
  | _ => false

/-- The FP exception a delivery point delivers (03 R83): one pending when the word issued to its dispatch's first pack, which holds for every thread of the dispatch. -/
def State.pendingAt (s : State) (iss : Issue) : Option Dword :=
  match (s.issuing iss).bind (fun d => if d.fpSeen then some d.fpe else none) with
  | some a => a
  | none => (s.group? iss.grp).bind (fun g => g.pendingFp (s.clock g.core))

/-- Delivery to a thread: the pending state clears, and the word's later packs are delivered the same exception. -/
def State.deliverFp (s : State) (iss : Issue) (a : Dword) : State :=
  let s1 := s.modGroup iss.grp (fun g => { g with fpPending := if g.fpPending.map (fun p => p.1) = some a then none else g.fpPending })
  let st := s1.stream iss.core iss.stream
  s1.setStream iss.core iss.stream { st with dispatch := st.dispatch.map (fun d => { d with fpe := some a, fpSeen := true }) }

/-- The record's cause of an FP exception (16 R356). -/
def fpFault (g : Group) (a : Dword) : TFault := .plain 0x30 a (g.fpflags.setWidth 64)

end Sys2Proof.Machine
end

