-- ==== Sys2Proof/Machine/Memory.lean ====
section
/-! DEFINITION. The scalar memory instructions, fences, cache maintenance, pins and windows (spec/09 R191 to R194, R207 to R211), inside and outside an atomic region (10 R224, R225, R228). -/

namespace Sys2Proof.Machine

/-- Bytes of a size code (09 R191). -/
def sizeBytes (c : Nat) : Nat :=
  match c with
  | 0 | 1 => 1
  | 2 | 3 => 2
  | 5 => 8
  | 6 => 16
  | _ => 4

/-- Registers of a size code. -/
def sizeRegs (c : Nat) : Nat := if c = 6 then 4 else if c = 5 then 2 else 1

/-- WIDTH of a poison record (16 R356). -/
def sizeWidth (c : Nat) : Nat := if c = 6 then 2 else if c = 5 then 1 else 0

/-- Loaded bytes extended by the size code (09 R192). -/
def extendTo (c : Nat) (bs : List Byte) : Qword :=
  let v := natOfBytes bs
  match c with
  | 0 => (sextNat 8 32 v).setWidth 128
  | 2 => (sextNat 16 32 v).setWidth 128
  | _ => BitVec.ofNat 128 v

/-- Data of n bytes from register r. -/
def Env.dataBytes (e : Env) (t : Thread) (r n : Nat) : List Byte :=
  if n ≤ 4 then bytesOfNat (e.v t r).toNat n else if n = 8 then bytesOfNat (e.pair t r).toNat 8 else bytesOfNat (e.quad t r).toNat 16

/-- A thread's region aborts at an instruction, which has no effect (10 R233). -/
def Env.abort (e : Env) (cause detail : Nat) : Turnout := .out (e.s.abortRegion e.iss.grp e.tid cause detail 0)

/-- Bytes of a region load: from the die cache or beyond, after the thread's own stores to them (10 R224, 09 R189). -/
def Env.regionBytes (e : Env) (l : Loc) (n : Nat) : Option (State × List Byte) :=
  match l with
  | .mem _ pa =>
    (e.s.drainWhere e.iss.core (fun x => x.grp == e.iss.grp && x.tid == e.tid && x.overlaps pa n)).map (fun s1 => (s1.dirRead (dieOf e.iss.core) pa n, (s1.seen e.iss.core).read pa n))
  | _ => some (e.s, [])

/-- The line of a location. -/
def Loc.line : Loc → Nat
  | .mem _ pa => pa / 128
  | _ => 0

/-- A tracked line added. -/
def Region.track (r : Region) (line : Nat) : Region := if r.lines.contains line then r else { r with lines := r.lines ++ [line] }

/-- A store record overlaps n bytes at an address. -/
def StoreRec.overlaps (st : StoreRec) (va n : Nat) : Bool := decide (st.addr < va + n) && decide (va < st.addr + st.size)

/-- Naturally aligned words that n bytes at an address touch. -/
def wordsOf (va n : Nat) : List Nat := (List.range ((va + n + 3) / 4 - va / 4)).map (fun i => (va / 4 + i) * 4)

/-- The words of a concrete region load become EXACT (10 R225). -/
def Thread.readExact (t : Thread) (ws : List (Nat × Word)) : Thread :=
  ws.foldl (fun a w =>
    match a.region with
    | none => a
    | some r =>
      match r.words.find? (fun x => x.addr == w.1) with
      | some x => if x.symbolic then a.concretise w.1 else a
      | none => { a with region := some { r with words := r.words ++ [{ addr := w.1, value := w.2, symbolic := false }] } }) t

/-- A region load of `size` bytes with size code c into register d (10 R225, R228): a store record or a symbol of the region answers without memory; memory in poison faults (14 R331). -/
def regionLoad (e : Env) (t : Thread) (r : Region) (l : Loc) (va c d la : Nat) : Turnout :=
  let n := sizeBytes c
  let long (s : State) (v : Qword) (tag : Option (Nat × Word)) : Turnout := .done s (some { reg := d, count := sizeRegs c, value := v, tag := tag, flags := 0 })
  match l with
  | .mem _ _ =>
    match r.stores.find? (fun st => st.overlaps va n) with
    | some st =>
      if st.addr = va ∧ st.size = n ∧ (r.stores.filter (fun x => x.overlaps va n)).length = 1 then
        long e.s (extendTo c (bytesOfNat st.data.toNat n)) (if n = 4 then st.sym else none)
      else e.abort 3 6
    | none =>
      if !r.lines.contains l.line && decide (8 ≤ r.lines.length) then e.abort 3 1
      else
        match (if c = 4 then r.words.find? (fun w => w.addr == va && w.symbolic) else none) with
        | some w => long e.s (w.value.setWidth 128) (some (va, 0))
        | none =>
          if e.s.locPoisoned l && !e.s.forwards e.iss.core e.iss.grp e.tid l n then .fault (e.poisonFault va n (sizeWidth c) c la (BitVec.ofNat 11 d))
          else
          match e.regionBytes l n, e.regionBytes (match l with | .mem v pa => .mem (v / 4 * 4) (pa / 4 * 4) | x => x) ((va + n + 3) / 4 * 4 - va / 4 * 4) with
          | some (s1, bs), some (_, around) =>
            let ws := (wordsOf va n).zipIdx.map (fun w => (w.1, (BitVec.ofNat 32 (natOfBytes ((around.drop (4 * w.2)).take 4)) : Word)))
            let t0 : Thread := { t with region := some (r.track l.line) }
            if c = 4 then
              if r.words.any (fun w => w.addr == va) then long (s1.setThread e.iss.grp e.tid t0) (extendTo c bs) none
              else
                let t1 : Thread := { t with region := some { r.track l.line with words := r.words ++ [({ addr := va, value := BitVec.ofNat 32 (natOfBytes bs), symbolic := true } : ReadWord)] } }
                long (s1.setThread e.iss.grp e.tid t1) (extendTo c bs) (some (va, 0))
            else long (s1.setThread e.iss.grp e.tid (t0.readExact ws)) (extendTo c bs) none
          | _, _ => .hold e.s
  | _ => e.abort 4 0x81

/-- A region store (10 R228): a store record, symbolic where a tagged register is stored in 32 bits. -/
def regionStore (e : Env) (t : Thread) (l : Loc) (va n d : Nat) : Turnout :=
  match l, t.region with
  | .mem _ _, some r =>
    let data : Qword := BitVec.ofNat 128 (natOfBytes (e.dataBytes t d n))
    let sym := if n = 4 then t.tag d else none
    let same := r.stores.any (fun st => decide (st.addr = va ∧ st.size = n))
    if r.stores.any (fun st => st.overlaps va n && !decide (st.addr = va ∧ st.size = n)) then e.abort 3 6
    else if !r.lines.contains l.line && decide (8 ≤ r.lines.length) then e.abort 3 1
    else if !same && decide (8 ≤ r.stores.length) then e.abort 3 2
    else
      let one : StoreRec := { addr := va, size := n, data := data, sym := sym }
      let stores := if same then r.stores.map (fun st => if st.addr = va ∧ st.size = n then one else st) else r.stores ++ [one]
      .done ((e.s.markDirty e.grp.ctx va).setThread e.iss.grp e.tid { t with region := some { r.track l.line with stores := stores } }) none
  | _, _ => e.abort 4 0x81

/-- LD (09 R192). -/
def execLd (w : F1) (s : State) : Host.Outcome State Fault Refusal :=
  .next (runWord (.ld w) s (fun iss tid s1 => withThread iss tid s1 (fun e t =>
    let c := lo3 w.x
    let space := memSpace w.x
    let d := vnum w.d
    let inside := t.region.isSome
    if inside && space ≠ 0 then e.abort 4 0x81
    else
      match e.effective t space (vnum w.a) (w.imm.signExtend 64) (sizeBytes c) .load (if inside then 5 else 0) 0 with
      | .error f => .fault f
      | .ok (l, va) =>
        match t.region with
        | some r => regionLoad e t r l va c d w.la.toNat
        | none =>
          if e.meetsPoison l va (sizeBytes c) then .fault (e.poisonFault va (sizeBytes c) (sizeWidth c) c w.la.toNat w.d)
          else
            match e.read l va (sizeBytes c) with
            | none => .hold s1
            | some (s2, bs) => .done s2 (some { reg := d, count := sizeRegs c, value := extendTo c bs, tag := none, flags := 0 }))))

/-- ST (09 R192). -/
def execSt (w : F1) (s : State) : Host.Outcome State Fault Refusal :=
  .next (runWord (.st w) s (fun iss tid s1 => withThread iss tid s1 (fun e t0 =>
    let c := lo3 w.x
    let n := sizeBytes c
    let space := memSpace w.x
    let d := vnum w.d
    let inside := t0.region.isSome
    let addrRegs := if space = 0 then [vnum w.a, vnum w.a + 1] else [vnum w.a]
    let t := if inside then t0.concretiseRegs (addrRegs ++ (if n = 4 then [] else (List.range (sizeRegs c)).map (fun k => d + k))) else t0
    let e1 : Env := { e with s := if inside then s1.setThread iss.grp tid t else s1 }
    if inside && space ≠ 0 then e1.abort 4 0x81
    else
      match e1.effective t space (vnum w.a) (w.imm.signExtend 64) n .store 1 1 with
      | .error f => .fault f
      | .ok (l, va) =>
        if inside then regionStore e1 t l va n d
        else .done (e1.store l va (e1.dataBytes t d n) none) none)))

/-- LDQ (09 R192, R193). -/
def execLdq (w : F1) (s : State) : Host.Outcome State Fault Refusal :=
  .next (runWord (.ldq w) s (fun iss tid s1 => withThread iss tid s1 (fun e t =>
    let c := lo3 w.x
    let q := match Operand.ofCode w.d with | .q n => n | _ => 0
    if 4 ≤ (t.queue q).length then .fault (iss.bad 0x03 0)
    else
      match e.effective t (memSpace w.x) (vnum w.a) (w.imm.signExtend 64) (sizeBytes c) .load 0 0 with
      | .error f => .fault f
      | .ok (l, va) =>
        if e.meetsPoison l va (sizeBytes c) then .fault (e.poisonFault va (sizeBytes c) 0 c w.la.toNat w.d)
        else
          match e.read l va (sizeBytes c) with
          | none => .hold s1
          | some (s2, bs) =>
            let entry : QEntry := { value := (extendTo c bs).setWidth 32, arrived := false, left := w.la.toNat + 1 }
            .done (s2.modThread iss.grp tid (fun x => { x with q := modifyAt x.q q (fun ql => ql ++ [entry]) })) none)))

/-- A request to the prefetch engine (14 R332): discarded while it holds 256. -/
def State.askPrefetch (s : State) (ctx : Nat) (pages : List Nat) (llc : Bool) : State :=
  if 256 ≤ s.prefetch.length ∨ pages.isEmpty then s else { s with prefetch := s.prefetch ++ [{ ctx := ctx, pages := pages, llc := llc }] }

/-- PREF (09 R192, R194; 07 R155): where its translation passes it fills a line into the L1, taking no state in the directory. The die caches and the LLC hold no bytes of their own here (log 10), so levels 1 and 2 change nothing. -/
def execPref (w : F1) (s : State) : Host.Outcome State Fault Refusal :=
  .next (runWord (.pref w) s (fun iss tid s1 => withThread iss tid s1 (fun e t =>
    let ea := e.pair t (vnum w.a) + w.imm.signExtend 64
    if bits ea 63 57 ≠ 0 then .done s1 none
    else if lo2 w.x = 3 then .done (s1.askPrefetch e.grp.ctx [ea.toNat / 65536] false) none
    else
      match s1.route e.grp.ctx ea.toNat .load with
      | .ok (.mem va pa) =>
        .done (if s1.poisoned pa || decide (lo2 w.x ≠ 0) || (e.l1Line va).isSome then s1 else s1.l1Install iss.core e.grp.ctx va pa) none
      | _ => .done s1 none)))

/-- FENCE (09 R207): the thread's stores are performed at its scope, the L1 is invalidated, and a pending FP exception is delivered (03 R83, R84). -/
def execFence (w : F0) (s : State) : Host.Outcome State Fault Refusal :=
  .next (runWord (.fence w) s (fun iss tid s1 => withThread iss tid s1 (fun e _ =>
    match s1.drainThread iss.core iss.grp tid (lo3 w.x) with
    | none => .hold s1
    | some s2 =>
      let s3 := s2.l1Clear iss.core
      match s.pendingAt iss with
      | some a => .late (s3.deliverFp iss a) (fpFault e.grp a)
      | none => .done s3 none)))

/-- Whole lines of [base, base + len): the first address and the length (09 R208). -/
def wholeLines (base len : Nat) : Nat × Nat := (base / 128 * 128, (base + len + 127) / 128 * 128 - base / 128 * 128)

/-- The thread's queued stores to a range of virtual addresses drained. -/
def State.drainRange (s : State) (core g t base len : Nat) : Option State :=
  s.drainWhere core (fun e => e.grp == g && e.tid == t && decide (e.va < base + len) && decide (base < e.va + e.bytes.length))

/-- CINV (09 R208). -/
def execCinv (w : F0) (s : State) : Host.Outcome State Fault Refusal :=
  .next (runWord (.cinv w) s (fun iss tid s1 => withThread iss tid s1 (fun e t =>
    let (b, n) := wholeLines (e.pair t (vnum w.a)).toNat (e.v t (vnum w.b)).toNat
    if e.v t (vnum w.b) = 0 then .done s1 none
    else
      match s1.drainRange iss.core iss.grp tid b n with
      | none => .hold s1
      | some s2 => .done (s2.l1Range iss.core e.grp.ctx b n) none)))

/-- Pool address of a virtual address under its lease (14 R321). -/
def Lease.poolAt (l : Lease) (va : Nat) : Nat := l.pooladdr.toNat + va % 2 ^ 30

/-- The page entry of a virtual address, with its own address. -/
def State.pte (s : State) (c va : Nat) : Option (Nat × Dword) :=
  match s.walkCtx c va with
  | .leaf pa p => some (pa, p)
  | .invalid _ => none

/-- Bytes of [va, va + n), within one page, copied from its frame to the pool (09 R208, 14 R315). -/
def State.toPool (s : State) (c va n : Nat) : State :=
  match s.pte c va with
  | some (_, p) =>
    if framed p && pteKind p == 1 && decide ((s.leaseFor c p).state ≠ 0) then
      { s with pool := s.pool.paste ((s.leaseFor c p).poolAt va) n (s.hbm.slice (pteFrame p * 65536 + va % 65536) n) }
    else s
  | none => s

/-- The port of the lease that covers a page is woken for a request to its extent (15 R352). -/
def State.wakePage (s : State) (ctx page : Nat) : State :=
  match s.pte ctx (page * 65536) with
  | some (_, p) => if pteKind p = 0 then s else s.wakePort (s.leaseFor ctx p).port
  | none => s

/-- A pooled page whose translation passes and whose extent no port carries requests to (15 R345, R352). -/
def State.unreached (s : State) (c page : Nat) : Bool :=
  match s.translate c (page * 65536) .load, s.pte c (page * 65536) with
  | .ok _, some (_, p) => pteKind p == 1 && !s.leaseReach (s.leaseFor c p)
  | _, _ => false

/-- A CWB's request to a page's extent is pending (15 R345). -/
def State.cleanWait (s : State) (c page : Nat) : State :=
  if s.jobs.any (fun j => j.cleans && j.ctx == c && j.page == page) then s else { s with jobs := s.jobs ++ [{ ctx := c, page := page, op := .clean, since := s.ns }] }

/-- CWB on bytes of one page (09 R208): where their translation passes, their lines are performed everywhere and left clean, and a pooled page's bytes reach the pool. -/
def State.cleanPart (s : State) (c va n : Nat) : State :=
  match s.translate c va .load with
  | .error _ => s
  | .ok pa =>
    let s1 := ((s.wakePage c (va / 65536)).toPool c va n).widen pa n
    { s1 with jobs := s1.jobs.filter (fun j => !(j.cleans && j.ctx == c && j.page == va / 65536)), dir := (s1.dir.map (fun (x : Nat × DirLine) => if pa / 128 ≤ x.1 && decide (x.1 * 128 < pa + n) then (x.1, { x.2 with dirty := false }) else x)).filter (fun x => decide (x.2 ≠ DirLine.home)) }

/-- A range cut at page boundaries: the parts, as start and length. -/
def pageParts (base len : Nat) : List (Nat × Nat) :=
  (List.range ((base + len + 65535) / 65536 - base / 65536)).map (fun i =>
    let p := (base / 65536 + i) * 65536
    let lo := Nat.max base p
    (lo, Nat.min (base + len) (p + 65536) - lo))

/-- CWB (09 R208): the range's lines become clean, and those of pooled pages reach the pool; HBM already holds the coherent value (log 10). Lines of a window are not written. The stream holds the thread while a pooled page's extent cannot be reached (15 R345, R352). -/
def execCwb (w : F0) (s : State) : Host.Outcome State Fault Refusal :=
  .next (runWord (.cwb w) s (fun iss tid s1 => withThread iss tid s1 (fun e t =>
    let (b, n) := wholeLines (e.pair t (vnum w.a)).toNat (e.v t (vnum w.b)).toNat
    if e.v t (vnum w.b) = 0 then .done s1 none
    else
      match s1.drainRange iss.core iss.grp tid b n with
      | none => .hold s1
      | some s2 =>
        let lines := (pageParts b n).flatMap (fun p => (List.range (p.2 / 128)).map (fun k => p.1 + 128 * k))
        let plain := s2.windows.all (fun x => x.ctx != e.grp.ctx || decide (x.base + x.len ≤ b) || decide (b + n ≤ x.base))
        let parts := if plain then pageParts b n else (lines.filter (fun va => (s2.windowAt e.grp.ctx va).isNone)).map (fun va => (va, 128))
        let far := parts.filter (fun p => s2.unreached e.grp.ctx (p.1 / 65536))
        if far.isEmpty then .done (parts.foldl (fun a p => a.cleanPart e.grp.ctx p.1 p.2) s2) none
        else .hold (far.foldl (fun a p => a.cleanWait e.grp.ctx (p.1 / 65536)) s2))))

/-- The first page of a range whose translation fails. -/
def State.rangeFault (s : State) (c base len : Nat) (w : Want) : Option (Nat × PgFault) :=
  (pageParts base len).findSome? (fun p => match s.translate c p.1 w with
    | .error f => some (p.1, f)
    | .ok _ => none)

/-- PIN (09 R209). -/
def execPin (w : F0) (s : State) : Host.Outcome State Fault Refusal :=
  .next (runWord (.pin w) s (fun iss tid s1 => withThread iss tid s1 (fun e t =>
    let base := e.pair t (vnum w.a)
    let len := (e.v t (vnum w.b)).toNat
    let (b, n) := wholeLines base.toNat len
    let done (s2 : State) (v : Word) : Turnout := .done (s2.modThread iss.grp tid (fun x => x.write (vnum w.d) v)) none
    if len = 0 ∨ 2 ^ 20 < n then done s1 3
    else if 16 ≤ (s1.pins.filter (fun p => p.grp == iss.grp)).length then done s1 2
    else if 32 * 2 ^ 20 < s1.pins.foldl (fun a p => a + p.len) 0 + n then done s1 1
    else if bits base 63 57 ≠ 0 then .fault (iss.bad 0x06 base)
    else
      match s1.rangeFault e.grp.ctx b n .load with
      | some (va, f) => .fault (.page va 0 f)
      | none => done { s1 with pins := s1.pins ++ [{ grp := iss.grp, ctx := e.grp.ctx, base := b, len := n, lapse := s1.ns + 1000000 }] } 0)))

/-- UNPIN (09 R209): a length of 0 names no range (09 R208). -/
def execUnpin (w : F0) (s : State) : Host.Outcome State Fault Refusal :=
  .next (runWord (.unpin w) s (fun iss tid s1 => withThread iss tid s1 (fun e t =>
    let (b, n) := wholeLines (e.pair t (vnum w.a)).toNat (e.v t (vnum w.b)).toNat
    .done (if e.v t (vnum w.b) = 0 then s1 else { s1 with pins := s1.pins.filter (fun p => !(p.grp == iss.grp && decide (b ≤ p.base) && decide (p.base + p.len ≤ b + n))) }) none)))

/-- Every core's queued stores to a range of a context performed, before a window takes the range over (12 R260); none while one is held back. -/
def State.drainAll (s : State) (ctx base len : Nat) : Option State :=
  s.cores.foldl (fun (a : Option State) c => a.bind (fun x => x.drainWhere c.1 (fun e => e.ctx == ctx && decide (e.va < base + len) && decide (base < e.va + e.bytes.length)))) (some s)

/-- SPMAP (09 R210). -/
def execSpmap (w : F0) (s : State) : Host.Outcome State Fault Refusal :=
  .next (runWord (.spmap w) s (fun iss tid s1 => withThread iss tid s1 (fun e t =>
    let g64 := e.pair t (vnum w.a)
    let g := g64.toNat
    let off := (e.v t (vnum w.b)).toNat
    let len := (e.v t (vnum w.b + 1)).toNat
    let done (s2 : State) (v : Word) : Turnout := .done (s2.modThread iss.grp tid (fun x => x.write (vnum w.d) v)) none
    if g % 4096 ≠ 0 ∨ off % 4096 ≠ 0 ∨ len % 4096 ≠ 0 ∨ len = 0 ∨ 65536 < len then .fault (iss.bad 0x05 g64)
    else if g / 65536 ≠ (g + len - 1) / 65536 ∨ e.grp.scratchBytes < off + len ∨ bits g64 63 57 ≠ 0 then .fault (iss.bad 0x06 g64)
    else
      match s1.translate e.grp.ctx g .store with
      | .error f => .fault (.page g 1 f)
      | .ok pa =>
        let s0 := s1.markDirty e.grp.ctx g
        if 4 ≤ (s1.windows.filter (fun x => x.grp == iss.grp)).length then done s0 1
        else if s1.windows.any (fun x => x.ctx == e.grp.ctx && decide (x.base < g + len) && decide (g < x.base + x.len)) then done s0 2
        else
          match s0.drainAll e.grp.ctx g len with
          | none => .hold s1
          | some s3 =>
          let s2 := (s3.dirRecallRange pa len).l1Range iss.core e.grp.ctx g len
          done { s2 with windows := s2.windows ++ [{ grp := iss.grp, ctx := e.grp.ctx, base := g, len := len, off := off, valid := true, gone := false }] } 0)))

/-- The bytes of a window written to its backing page (09 R210, R211; 14 R315), where the page has a frame. -/
def State.windowBack (s : State) (w : Window) : State :=
  match s.pte w.ctx w.base with
  | some (_, p) =>
    if framed p then
      let pa := pteFrame p * 65536 + w.base % 65536
      let part := ((s.group? w.grp).map (fun g => g.scratch.slice w.off w.len)).getD []
      let s1 := (s.markDirty w.ctx w.base).dirRecallRange pa w.len
      { s1 with hbm := s1.hbm.paste pa w.len part }
    else s
  | none => s

/-- A window written back, if valid, and removed. -/
def State.closeWindow (s : State) (w : Window) : State :=
  let s1 := if w.valid then s.windowBack w else s
  { s1 with windows := s1.windows.filter (fun x => decide (x ≠ w)) }

/-- A line under a window is held by an exclusive attempt against a party (10 R237). -/
def State.windowHeld (s : State) (core : Nat) (w : Window) (who : Party) : Bool :=
  match s.pte w.ctx w.base with
  | some (_, p) => framed p && (List.range (w.len / 128)).any (fun k => s.lineHeld core (pteFrame p * 512 + w.base % 65536 / 128 + k) who)
  | none => false

/-- SPUNMAP (09 R210): its write waits for a line that an exclusive attempt holds (10 R237). -/
def execSpunmap (w : F0) (s : State) : Host.Outcome State Fault Refusal :=
  .next (runWord (.spunmap w) s (fun iss tid s1 => withThread iss tid s1 (fun e t =>
    match s1.windows.find? (fun x => x.grp == iss.grp && x.base == (e.pair t (vnum w.a)).toNat) with
    | some x => if x.valid && s1.windowHeld iss.core x (some (iss.grp, tid)) then .hold s1 else .done (s1.closeWindow x) none
    | none => .done s1 none)))

end Sys2Proof.Machine
end

