-- ==== Sys2Proof/Machine/Barrier.lean ====
section
/-! DEFINITION. Barriers (spec/11): instances, phases, tokens, releases and acquires, and the barrier instructions. -/

namespace Sys2Proof.Machine

/-- A barrier instance at its reset values (11 R245). -/
def Barrier.fresh (members : Nat) : Barrier :=
  { phase := 0, count := 0, expBytes := 0, arrivals := 0, arrBytes := 0, lastOvf := false, members := members, openGlobal := false, pastGlobal := false }

/-- Refusal of an arrival with count n (11 R247): reason 2, then 3, then 1. -/
def Barrier.refusal (b : Barrier) (n : Word) : Option Nat :=
  if n = 0 ∨ b.members < n.toNat then some 2
  else if b.arrivals ≠ 0 ∧ b.arrivals = b.count then some 3
  else if b.arrivals ≠ 0 ∧ n ≠ b.count then some 1
  else none

/-- Flip (11 R246). -/
def Barrier.flip (b : Barrier) (ovf : Bool) : Barrier :=
  { b with phase := b.phase + 1, lastOvf := ovf, count := 0, arrivals := 0, expBytes := 0, arrBytes := 0, pastGlobal := b.pastGlobal || b.openGlobal, openGlobal := false }

/-- The test of both totals after an event (11 R246, R257): the state after it, and whether it flipped, with overflow or without. -/
def Barrier.settle (b : Barrier) (total : Nat) : Barrier × Option Bool :=
  if b.arrivals = 0 ∨ b.arrivals ≠ b.count then (b, none)
  else if total = b.expBytes.toNat then (b.flip false, some false)
  else if b.expBytes.toNat < total then (b.flip true, some true)
  else (b, none)

/-- An arrival that is not refused (11 R246). -/
def Barrier.arrive (b : Barrier) (n : Word) : Barrier × Option Bool :=
  let b1 : Barrier := { b with count := if b.arrivals = 0 then n else b.count, arrivals := b.arrivals + 1 }
  b1.settle b.arrBytes.toNat

/-- Bytes of a copy completion (11 R245, R246); ARRBYTES saturates. -/
def Barrier.addBytes (b : Barrier) (k : Nat) (glob : Bool) : Barrier × Option Bool :=
  let total := b.arrBytes.toNat + k
  ({ b with arrBytes := BitVec.ofNat 32 (Nat.min total 0xFFFFFFFF), openGlobal := b.openGlobal || glob }).settle total

/-- The 32-byte state record (11 R245). -/
def Barrier.record (b : Barrier) : Nat :=
  (b.phase.toNat <<< 32 ||| b.count.toNat) + ((b.expBytes.toNat <<< 32 ||| b.arrivals.toNat) <<< 64)
    + ((b.arrBytes.toNat <<< 32 ||| (if b.lastOvf then 1 else 0)) <<< 128) + (b.members <<< 192)

/-- Whose barriers a name means (11 R242): the group, its kernel and gang, and the die it is placed on. -/
structure Owner where
  grp : Nat
  kern : Nat
  gang : Nat
  die : Nat
  deriving DecidableEq, Repr

/-- The owner for a group's threads. -/
def Group.owner (g : Group) (gid : Nat) : Owner := { grp := gid, kern := g.kern, gang := g.gang, die := dieOf g.core }

/-- The owner for an engine command. -/
def EngCmd.owner (c : EngCmd) : Owner := { grp := c.grp, kern := c.kern, gang := c.gang, die := c.die }

/-- The instance a barrier code means (11 R242). -/
def State.bar? (s : State) (o : Owner) (code : Nat) : Option Barrier :=
  match Operand.ofCode (BitVec.ofNat 11 code) with
  | .gb n => (s.group? o.grp).bind (fun g => g.gb[n]?)
  | .qb n => (s.gang? o.kern o.gang).bind (fun x => x.qb[n]?)
  | .db n => (s.kern? o.kern).bind (fun k => ((lookKey o.die k.dieBars).getD [])[n]?)
  | .vb n => (s.kern? o.kern).bind (fun k => k.devBars[n]?)
  | _ => none

/-- The instance replaced. -/
def State.setBar (s : State) (o : Owner) (code : Nat) (b : Barrier) : State :=
  match Operand.ofCode (BitVec.ofNat 11 code) with
  | .gb n => s.modGroup o.grp (fun g => { g with gb := g.gb.set n b })
  | .qb n => s.modGang o.kern o.gang (fun x => { x with qb := x.qb.set n b })
  | .db n => s.modKern o.kern (fun k => { k with dieBars := putKey o.die (((lookKey o.die k.dieBars).getD []).set n b) k.dieBars })
  | .vb n => s.modKern o.kern (fun k => { k with devBars := k.devBars.set n b })
  | _ => s

/-- Groups whose threads name the same instance. -/
def State.barPeers (s : State) (o : Owner) (code : Nat) : List Nat :=
  match Operand.ofCode (BitVec.ofNat 11 code) with
  | .gb _ => [o.grp]
  | .qb _ => (s.groups.filter (fun e => e.2.kern == o.kern && e.2.gang == o.gang)).map (fun e => e.1)
  | .db _ => (s.groups.filter (fun e => e.2.kern == o.kern && dieOf e.2.core == o.die)).map (fun e => e.1)
  | .vb _ => (s.groups.filter (fun e => e.2.kern == o.kern)).map (fun e => e.1)
  | _ => []

/-- The token of a phase of a barrier (11 R250). -/
def token (phase : Word) (code : Nat) : Word := BitVec.ofNat 32 (phase.toNat % 65536 * 65536 + code % 2048)

/-- EXTRA of the barrier causes (11 R249). -/
def barExtra (b : Barrier) (reason code : Nat) : Dword := BitVec.ofNat 64 (b.phase.toNat <<< 32 ||| reason <<< 24 ||| code % 2048)

/-- An acquire of a phase (11 R251): the bound ranges, and the whole L1 when it may have counted global writes. -/
def State.barAcquire (s : State) (core ctx : Nat) (rs : List Bound) (glob : Bool) : State :=
  let s1 := s.acquire core ctx rs
  if glob then s1.l1Clear core else s1

/-- The dispatch and pack of the word being issued. -/
def State.issuingPack (s : State) : Option (Nat × Nat × Nat) :=
  s.issue.bind (fun i => (s.issuing i).map (fun d => (i.grp, d.uid, i.pack)))

/-- Waits of one group that a flip completes and that fault (03 R84, 11 R248): a record for each pack, taken up at the end of the issue for the pack that is issuing. -/
def State.waitFaults (s : State) (core gid : Nat) (ws : List (Nat × Thread)) (f : TFault) : State :=
  let now := s.issuingPack
  let mine (w : Nat × Thread) : Bool := decide (now = some (gid, w.2.place.1, w.2.place.2.1))
  let s1 := (ws.filter mine).foldl (fun a w => a.modThread gid w.1 (fun t => { t.blockAt .contain t.addr (s.clock core) with late := some (f.cause, f.addr, f.extra 0) })) s
  let rest := ws.filter (fun w => !mine w)
  (distinct (rest.map (fun w => (w.2.place.1, w.2.place.2.1, w.2.addr)))).foldl (fun a k =>
    let lanes := (rest.filter (fun w => decide ((w.2.place.1, w.2.place.2.1, w.2.addr) = k))).map (fun w => (w.2.place.2.2, w.1))
    a.takeFault core gid lanes (k.2.2 - 8) [] f true) s1

/-- Waits of one group that have completed their acquire become runnable at their addresses (07 R139). -/
def State.wakeThreads (s : State) (core gid : Nat) (ws : List (Nat × Thread)) : State :=
  ws.foldl (fun a w => a.modThread gid w.1 (fun t => t.waitAt t.addr (s.clock core))) s

/-- The word being issued, where it is the BSYNC of a group whose arrival flipped a phase. -/
def State.flipper (s : State) (gid : Nat) (own : Option (Nat × Dword)) : Option Issue :=
  s.issue.bind (fun iss => if own = some (gid, iss.pc) then some iss else none)

/-- What follows the acquire of waits of one group (03 R83, 11 R248): the pending FP exception is delivered to those of one instruction, the others go on. DESIGN CHOICE (log 70): where waits stand at several addresses, the delivery point is the BSYNC whose arrival flipped, else the lowest thread's. -/
def State.deliverWaits (s : State) (g : Group) (gid : Nat) (ws : List (Nat × Thread)) (own : Option (Nat × Dword)) : State :=
  match ws with
  | [] => s
  | w0 :: _ =>
    match (match s.flipper gid own with | some iss => s.pendingAt iss | none => g.pendingFp (s.clock g.core)) with
    | none => s.wakeThreads g.core gid ws
    | some p =>
      let at_ := match own with
        | some (n, pc) => if n = gid then pc + 8 else w0.2.addr
        | none => w0.2.addr
      let hit := ws.filter (fun w => decide (w.2.addr = at_))
      if hit.isEmpty then s.wakeThreads g.core gid ws
      else
        let s1 := match s.flipper gid own with
          | some iss => s.deliverFp iss p
          | none => s.modGroup gid (fun x => { x with fpPending := none })
        (s1.waitFaults g.core gid hit (fpFault g p)).wakeThreads g.core gid (ws.filter (fun w => decide (w.2.addr ≠ at_)))

/-- Waits of one group that a flip completes (11 R246, R248, R251, R255): the acquire, of the ranges bound when the instruction issued (04 R96) and of those bound now (12 R265, log 69), then an overflow fault, or a pending FP exception, or the thread goes on. A saved waiter becomes runnable and keeps the flip for its resumption. `own` is the BSYNC whose arrival flipped. -/
def State.wakeGroup (s : State) (gid : Nat) (tok : Word) (ovf glob : Bool) (extra : Dword) (own : Option (Nat × Dword)) : State :=
  match s.group? gid with
  | none => s
  | some g =>
    let ws := ((g.threads.zipIdx.map (fun e => (e.2, e.1))).filter (fun w => decide (w.2.cond = .blocked .barrier ∧ w.2.token = some tok)))
    if ws.isEmpty then s
    else if !g.resident then ws.foldl (fun a w => a.modThread gid w.1 (fun t => { t.waitAt t.addr (s.clock g.core) with wake := some (ovf, glob, extra) })) s
    else
      let s1 := s.barAcquire g.core g.ctx (ws.flatMap (fun w => w.2.acq) ++ s.barRanges g.ctx (bits tok 10 0)) glob
      if ovf then s1.waitFaults g.core gid ws (.plain 0x21 0 extra) else s1.deliverWaits g gid ws own

/-- Flips that came while a group was saved, at its resumption, which has invalidated its L1 (06 R137, 11 R255): what follows the acquire. -/
def State.finishWakes (s : State) (gid : Nat) : State :=
  match s.group? gid with
  | none => s
  | some g =>
    let ws := ((g.threads.zipIdx.map (fun e => (e.2, e.1))).filter (fun w => w.2.wake.isSome))
    if ws.isEmpty then s
    else
      let s1 := s.modThreads gid (ws.map (fun w => w.1)) (fun t => { t with wake := none })
      let ovf (w : Nat × Thread) : Option Dword := w.2.wake.bind (fun x => if x.1 then some x.2.2 else none)
      let s2 := (distinct (ws.filterMap ovf)).foldl (fun a x => a.waitFaults g.core gid (ws.filter (fun w => decide (ovf w = some x))) (.plain 0x21 0 x)) s1
      s2.deliverWaits g gid (ws.filter (fun w => (ovf w).isNone)) none

/-- An event of an instance takes effect (11 R246): its state, and, at a flip, every wait on the old phase. -/
def State.barEvent (s : State) (o : Owner) (code : Nat) (old : Barrier) (r : Barrier × Option Bool) (own : Option (Nat × Dword)) : State :=
  let s1 := s.setBar o code r.1
  match r.2 with
  | none => s1
  | some ovf => (s1.barPeers o code).foldl (fun a n => a.wakeGroup n (token old.phase code) ovf old.openGlobal (barExtra r.1 1 code) own) s1

/-- A gang's barriers are being saved or are in its image: its halt is complete, or it is saved or waiting (06 R133, R136). -/
def Gang.away (x : Gang) : Bool := x.halted || decide (x.state = .saved ∨ x.state = .waiting)

/-- Bytes a completion adds to the barrier its command names (11 R246, R251), if the instance still exists; an ordered contribution's count for a group or gang barrier of a gang being saved, or saved, is held for its resumption (11 R255, R257; 13 R306). -/
def State.barBytes (s : State) (o : Owner) (code k : Nat) (glob ordered : Bool) : State :=
  let local_ := match Operand.ofCode (BitVec.ofNat 11 code) with | .gb _ | .qb _ => true | _ => false
  if ordered && local_ && ((s.gang? o.kern o.gang).map (fun x => x.away)).getD false then
    s.modGang o.kern o.gang (fun x => { x with heldCounts := x.heldCounts ++ [(o.grp, code, k)] })
  else
    match s.bar? o code with
    | some b => s.barEvent o code { b with openGlobal := b.openGlobal || glob } (b.addBytes k glob) none
    | none => s

/-- Ranges bound to a barrier name (09 R204, 11 R251). -/
def Env.barRanges (e : Env) (code : Nat) : Except TFault (List Bound) := (e.s.bindTable e.grp.ctx).map (fun tab => boundRanges tab true code)

/-- arrive of 11 R253: the release, then the arrival; `k` goes on with the phase joined, the instance after it, and the ranges bound to the name. -/
def Env.arrive (e : Env) (w : F0) (n : Word) (own : Bool) (k : State → Barrier → Barrier → List Bound → Turnout) : Turnout :=
  let code := w.a.toNat
  match e.s.bar? (e.grp.owner e.iss.grp) code with
  | none => .fault (e.iss.bad 0x03 0)
  | some b =>
    match e.barRanges code with
    | .error f => .fault f
    | .ok rs =>
      match e.s.release e.iss.core e.iss.grp e.tid rs with
      | none => .hold e.s
      | some s1 =>
        match b.refusal n with
        | some r => .fault (.plain 0x20 0 (barExtra b r code))
        | none =>
          let r := b.arrive n
          k (s1.barEvent (e.grp.owner e.iss.grp) code b r (if own then some (e.iss.grp, e.iss.pc) else none)) b r.1 rs

/-- A thread blocked on a phase, at the following address, with the ranges its acquire covers (04 R96, 11 R253). -/
def Env.blockOn (e : Env) (tok : Word) (rs : List Bound) (t : Thread) : Thread :=
  let uid := ((e.s.issuing e.iss).map (fun d => d.uid)).getD 0
  let lane := ((e.iss.lanes.find? (fun l => l.2 == e.tid)).map (fun l => l.1)).getD 0
  { t.blockAt .barrier (e.iss.pc + 8) e.now with token := some tok, acq := rs, place := (uid, e.iss.pack, lane) }

/-- A wait that completes at its instruction (11 R253): the acquire, then an overflow fault, or the pending FP exception, or the thread goes on. `from_` is the state at the start of the issue. -/
def Env.waitDone (e : Env) (s : State) (from_ : State) (rs : List Bound) (b : Barrier) (code : Nat) (ovf : Bool) : Turnout :=
  let s1 := s.barAcquire e.iss.core e.grp.ctx rs b.pastGlobal
  if ovf then .late s1 (.plain 0x21 0 (barExtra b 1 code))
  else
    match from_.pendingAt e.iss with
    | some a => .late (s1.deliverFp e.iss a) (fpFault e.grp a)
    | none => .leave s1 (fun t => t.waitAt (e.iss.pc + 8) e.now)

/-- BARRIVE (11 R253). -/
def execBarrive (w : F0) (s : State) : Host.Outcome State Fault Refusal :=
  .next (runWord (.barrive w) s (fun iss tid s1 => withThread iss tid s1 (fun e t =>
    e.arrive w (e.v t (vnum w.b)) false (fun s2 b _ _ => .done (s2.modThread iss.grp tid (fun x => x.write (vnum w.d) (token b.phase w.a.toNat))) none))))

/-- BSYNC (11 R253). -/
def execBsync (w : F0) (s : State) : Host.Outcome State Fault Refusal :=
  .next (runWord (.bsync w) s (fun iss tid s1 => withThread iss tid s1 (fun e t =>
    e.arrive w (e.v t (vnum w.b)) true (fun s2 b after rs =>
      if after.phase = b.phase then .leave s2 (e.blockOn (token b.phase w.a.toNat) rs)
      else e.waitDone s2 s rs after w.a.toNat after.lastOvf))))

/-- What a token names for a thread (11 R250): the instance and how many flips ago its phase was open; none when it is malformed, not nameable or ahead. -/
def Env.readToken (e : Env) (tok : Word) : Option (Barrier × Nat) :=
  let code := bits tok 10 0
  let named := match Operand.ofCode (BitVec.ofNat 11 code) with
    | .gb _ | .qb _ => true
    | .db _ | .vb _ => e.s.corOf e.grp
    | _ => false
  if !named || bits tok 15 11 != 0 then none
  else
    match e.s.bar? (e.grp.owner e.iss.grp) code with
    | none => none
    | some b =>
      let d := (b.phase.toNat % 65536 + 65536 - bits tok 31 16) % 65536
      if 32768 ≤ d then none else some (b, d)

/-- BWAIT (11 R253). -/
def execBwait (w : F0) (s : State) : Host.Outcome State Fault Refusal :=
  .next (runWord (.bwait w) s (fun iss tid s1 => withThread iss tid s1 (fun e t =>
    let tok := e.v t (vnum w.a)
    match e.readToken tok with
    | none => .fault (iss.bad 0x03 0)
    | some (b, d) =>
      match e.barRanges (bits tok 10 0) with
      | .error f => .fault f
      | .ok rs =>
        if d = 0 then .leave s1 (e.blockOn tok rs)
        else e.waitDone s1 s rs b (bits tok 10 0) (d == 1 && b.lastOvf))))

/-- BEXPECT (11 R253). -/
def execBexpect (w : F0) (s : State) : Host.Outcome State Fault Refusal :=
  .next (runWord (.bexpect w) s (fun iss tid s1 => withThread iss tid s1 (fun e t =>
    match s1.bar? (e.grp.owner iss.grp) w.a.toNat with
    | none => .fault (iss.bad 0x03 0)
    | some b =>
      if 2 ^ 32 ≤ b.expBytes.toNat + (e.v t (vnum w.b)).toNat then .fault (.plain 0x21 0 (barExtra b 2 w.a.toNat))
      else .done (s1.setBar (e.grp.owner iss.grp) w.a.toNat { b with expBytes := b.expBytes + e.v t (vnum w.b) }) none)))

/-- BTEST (11 R253). -/
def execBtest (w : F0) (s : State) : Host.Outcome State Fault Refusal :=
  .next (runWord (.btest w) s (fun iss tid s1 => withThread iss tid s1 (fun e t =>
    let tok := e.v t (vnum w.a)
    let pd := match Operand.ofCode w.d with | .p n => n | _ => 7
    match e.readToken tok with
    | none => .fault (iss.bad 0x03 0)
    | some (b, d) =>
      match e.barRanges (bits tok 10 0) with
      | .error f => .fault f
      | .ok rs =>
        let s2 := if d = 0 then s1 else s1.barAcquire iss.core e.grp.ctx rs b.pastGlobal
        .done (s2.modThread iss.grp tid (fun x => x.setPred pd (d != 0))) none)))

/-- BTEST.cur (11 R253). -/
def execBtestCur (w : F0) (s : State) : Host.Outcome State Fault Refusal :=
  .next (runWord (.btestCur w) s (fun iss tid s1 => withThread iss tid s1 (fun e _ =>
    match s1.bar? (e.grp.owner iss.grp) w.a.toNat with
    | none => .fault (iss.bad 0x03 0)
    | some b => .done (s1.modThread iss.grp tid (fun x => x.write (vnum w.d) (token b.phase w.a.toNat))) none)))

end Sys2Proof.Machine
end

