-- ==== Sys2Proof/Machine/Flags.lean ====
section
/-! DEFINITION. The flags of FPFLAGS (spec/03 R81, 02 R54), the number formats (03 R64 to R70) and the one rounding step that raises them (03 R77 to R79, R89). Every rounded result of the device comes from `roundQ`. -/

namespace Sys2Proof.Machine

/-- Flag bits of FPFLAGS (02 R54). -/
def flInvalid : Flags := 1
def flDivzero : Flags := 2
def flOverflow : Flags := 4
def flUnderflow : Flags := 8
def flInexact : Flags := 16
def flScalenan : Flags := 32
def flSat : Flags := 64

/-- Floating-point formats (03 R64). -/
inductive Fmt where
  | f32 | bf16 | f16 | e4m3n | e5m2n | e2m1
  deriving DecidableEq, Repr

/-- Mantissa bits, precision less the leading bit. -/
def Fmt.mbits : Fmt → Nat
  | .f32 => 23 | .bf16 => 7 | .f16 => 10 | .e4m3n => 3 | .e5m2n => 2 | .e2m1 => 1

/-- Bits of the format. -/
def Fmt.width : Fmt → Nat
  | .f32 => 32 | .bf16 => 16 | .f16 => 16 | .e4m3n => 8 | .e5m2n => 8 | .e2m1 => 4

/-- Exponent of the smallest normal value. -/
def Fmt.emin : Fmt → Int
  | .f32 => -126 | .bf16 => -126 | .f16 => -14 | .e4m3n => -7 | .e5m2n => -15 | .e2m1 => 0

/-- Infinity and NaN as in IEEE 754-2019. -/
def Fmt.ieee : Fmt → Bool
  | .f32 | .bf16 | .f16 => true
  | _ => false

/-- Code of the largest finite magnitude. -/
def Fmt.maxMag : Fmt → Nat
  | .f32 => 0x7F7FFFFF | .bf16 => 0x7F7F | .f16 => 0x7BFF | .e4m3n => 0x7F | .e5m2n => 0x7F | .e2m1 => 7

/-- The sign bit. -/
def Fmt.signBit (f : Fmt) : Nat := 2 ^ (f.width - 1)

/-- The canonical NaN (03 R66, R70). -/
def Fmt.nan : Fmt → Nat
  | .f32 => 0x7FC00000 | .bf16 => 0x7FC0 | .f16 => 0x7E00 | .e4m3n => 0x80 | .e5m2n => 0x80 | .e2m1 => 0

/-- A magnitude code with its sign; the 8-bit formats have one zero (03 R68). -/
def Fmt.signed (f : Fmt) (neg : Bool) (mag : Nat) : Nat :=
  if neg && (mag ≠ 0 || f.ieee || f == .e2m1) then mag + f.signBit else mag

/-- Code of an infinity, or of the largest finite value where there is none (03 R68, R70). -/
def Fmt.inf (f : Fmt) (neg : Bool) : Nat := f.signed neg (if f.ieee then f.maxMag + 1 else f.maxMag)

/-- A decoded value: a NaN, signalling or not; an infinity; or (−1)^neg × m × 2^e. -/
inductive Val where
  | nan (signalling : Bool)
  | inf (neg : Bool)
  | fin (neg : Bool) (m : Nat) (e : Int)
  deriving DecidableEq, Repr

/-- The value of a code (03 R64, R67, R69). -/
def Fmt.decode (f : Fmt) (code : Nat) : Val :=
  let neg := decide (f.signBit ≤ code % 2 ^ f.width)
  let mag := code % f.signBit
  let m := mag % 2 ^ f.mbits
  let x := mag / 2 ^ f.mbits
  if f.ieee && decide (f.maxMag < mag) then (if m = 0 then .inf neg else .nan (decide (m < 2 ^ (f.mbits - 1))))
  else if !f.ieee && f != .e2m1 && neg && mag == 0 then .nan false
  else if x = 0 then .fin neg m (f.emin - f.mbits)
  else .fin neg (m + 2 ^ f.mbits) ((x : Int) - 1 + f.emin - f.mbits)

/-- Rounding modes (03 R77); stochastic rounding carries the value of g_hash (R79). -/
inductive Mode where
  | rne | rtz | rup | rdn
  | rsr (h : Nat)
  deriving DecidableEq, Repr

/-- A result code and the flags its making raises. -/
structure FRes where
  code : Nat
  flags : Flags
  deriving DecidableEq, Repr

/-- g_hash (03 R89). -/
def gHash (key ctr : Dword) : Nat :=
  let turn (x : Dword) : Dword :=
    let a := x + key
    let b := a ^^^ (a >>> 29)
    let c := b * 0x9E6C63D0676A9A99
    c ^^^ (c >>> 32)
  (turn (turn (turn (turn ctr)))).toNat % 2 ^ 32

/-- ⌊log2 (n/d)⌋ for n, d > 0. -/
def ilog2 (n d : Nat) : Int :=
  let l : Int := (Nat.log2 n : Int) - (Nat.log2 d : Int)
  if l ≥ 0 then (if d <<< l.toNat ≤ n then l else l - 1) else (if d ≤ n <<< (-l).toNat then l else l - 1)

/-- The magnitude kept is rounded away from zero: `k` is the kept part, `r`/`den` what is discarded (03 R77, R79). -/
def roundsUp (mode : Mode) (neg : Bool) (k r den : Nat) : Bool :=
  match mode with
  | .rne => decide (den < 2 * r) || (decide (2 * r = den) && k % 2 == 1)
  | .rtz => false
  | .rup => !neg && decide (0 < r)
  | .rdn => neg && decide (0 < r)
  | .rsr h => decide (2 ^ 32 ≤ r * 2 ^ 32 / den + h)

/-- An overflowing result (03 R68, R70, R78). -/
def Fmt.overflow (f : Fmt) (mode : Mode) (neg : Bool) : Nat :=
  match mode with
  | .rtz => f.signed neg f.maxMag
  | .rup => if neg then f.signed neg f.maxMag else f.inf neg
  | .rdn => if neg then f.inf neg else f.signed neg f.maxMag
  | _ => f.inf neg

/-- round_fmt of (−1)^neg × n/d, with n, d > 0 (03 R78, R79). -/
def roundQ (f : Fmt) (mode : Mode) (neg : Bool) (n d : Nat) : FRes :=
  let l := Max.max (ilog2 n d) f.emin
  let u := l - f.mbits
  let num := if u ≥ 0 then n else n <<< (-u).toNat
  let den := if u ≥ 0 then d <<< u.toNat else d
  let k := num / den
  let r := num % den
  let k1 := if roundsUp mode neg k r den then k + 1 else k
  let mag := ((l - f.emin).toNat <<< f.mbits) + k1
  if f.maxMag < mag then { code := f.overflow mode neg, flags := flOverflow ||| flInexact }
  else
    { code := f.signed neg mag
      flags := if r = 0 then 0 else if mag < 2 ^ f.mbits then flInexact ||| flUnderflow else flInexact }

/-- round_fmt of (−1)^neg × m × 2^e, zero included. -/
def roundDy (f : Fmt) (mode : Mode) (neg : Bool) (m : Nat) (e : Int) : FRes :=
  if m = 0 then { code := f.signed neg 0, flags := 0 }
  else if e ≥ 0 then roundQ f mode neg (m <<< e.toNat) 1 else roundQ f mode neg m (1 <<< (-e).toNat)

/-- A quiet or signalling NaN result (03 R66). -/
def FRes.nan (f : Fmt) (signalling : Bool) : FRes := { code := f.nan, flags := if signalling then flInvalid else 0 }

/-- An invalid operation. -/
def FRes.invalid (f : Fmt) : FRes := { code := f.nan, flags := flInvalid }

/-- The sign IEEE 754-2019 gives a zero sum of terms that are not all zeros of one sign. -/
def Mode.zeroNeg (m : Mode) : Bool := m == .rdn

/-- A NaN that is signalling. -/
def Val.signals : Val → Bool
  | .nan s => s
  | _ => false

/-- A NaN. -/
def Val.isNan : Val → Bool
  | .nan _ => true
  | _ => false

/-- Zero of either sign. -/
def Val.isZero : Val → Bool
  | .fin _ m _ => m == 0
  | _ => false

/-- An infinity. -/
def Val.isInf : Val → Bool
  | .inf _ => true
  | _ => false

/-- The sign of a value that is no NaN. -/
def Val.neg : Val → Bool
  | .nan _ => false
  | .inf n => n
  | .fin n _ _ => n

/-- The value with the opposite sign. -/
def Val.minus : Val → Val
  | .nan s => .nan s
  | .inf n => .inf (!n)
  | .fin n m e => .fin (!n) m e

/-- Flags of signalling inputs (03 R66, R81). -/
def sigFlags (l : List Val) : Flags := if l.any Val.signals then flInvalid else 0

/-- An exact product, and INVALID for infinity × 0. -/
def Val.times (a b : Val) : Val × Flags :=
  match a, b with
  | .nan _, _ => (.nan false, 0)
  | _, .nan _ => (.nan false, 0)
  | .inf n, y => if y.isZero then (.nan false, flInvalid) else (.inf (n != y.neg), 0)
  | x, .inf n => if x.isZero then (.nan false, flInvalid) else (.inf (n != x.neg), 0)
  | .fin n m e, .fin n2 m2 e2 => (.fin (n != n2) (m * m2) (e + e2), 0)

/-- A finite value as a multiple of 2^e0, for e0 at most its exponent. -/
def Val.atExp (v : Val) (e0 : Int) : Int :=
  match v with
  | .fin n m e => if n then -((m <<< (e - e0).toNat : Nat) : Int) else ((m <<< (e - e0).toNat : Nat) : Int)
  | _ => 0

/-- The least exponent of a list of finite non-zero values. -/
def leastExp (l : List Val) : Int :=
  l.foldl (fun a v => match v with
    | .fin _ m e => if m = 0 then a else Min.min a e
    | _ => a) 0

/-- An exact sum (03 R85, R86; 08 R174): infinities of opposite sign are INVALID; a zero sum takes the common sign of its terms, or the sign the mode gives. DESIGN CHOICE (log 96): with a NaN among the terms, infinities of opposite sign raise no INVALID. -/
def sumVals (mode : Mode) (l : List Val) : Val × Flags :=
  if l.any Val.isNan then (.nan false, 0)
  else if l.any (fun v => v.isInf && v.neg) && l.any (fun v => v.isInf && !v.neg) then (.nan false, flInvalid)
  else
    match l.find? Val.isInf with
    | some v => (v, 0)
    | none =>
      let e0 := leastExp l
      let z := l.foldl (fun a v => a + v.atExp e0) (0 : Int)
      if z = 0 then (.fin (if l.all (fun v => v.isZero && v.neg) then true else if l.all (fun v => v.isZero && !v.neg) then false else mode.zeroNeg) 0 0, 0)
      else (.fin (decide (z < 0)) z.natAbs e0, 0)

/-- A value rounded to a format, its NaN and infinity in that format (03 R66, R68, R70): an infinity into a format without one raises OVERFLOW. -/
def roundVal (f : Fmt) (mode : Mode) (v : Val) : FRes :=
  match v with
  | .nan s => { code := f.nan, flags := (if s then flInvalid else 0) ||| (if f = .e2m1 then flInvalid else 0) }
  | .inf n => { code := f.inf n, flags := if f.ieee then 0 else flOverflow }
  | .fin n m e => roundDy f mode n m e

end Sys2Proof.Machine
end

