-- ==== Sys2Proof/Machine/Fp.lean ====
section
/-! DEFINITION. Floating-point arithmetic, comparison, conversion and QN4 on codes (spec/03 R65 to R76, 08 R174 to R182), each a function of its operands and the rounding mode that gives a code and its flags. -/

namespace Sys2Proof.Machine

/-- Flags added to a result. -/
def FRes.more (r : FRes) (fl : Flags) : FRes := { r with flags := r.flags ||| fl }

/-- A sum of exact terms, rounded once; `fl` are the flags of its parts. -/
def roundSum (f : Fmt) (mode : Mode) (l : List Val) (fl : Flags) : FRes :=
  let (v, g) := sumVals mode l
  (roundVal f mode v).more (fl ||| g)

/-- FADD (08 R174). -/
def fadd (f : Fmt) (mode : Mode) (a b : Nat) : FRes :=
  let x := f.decode a
  let y := f.decode b
  roundSum f mode [x, y] (sigFlags [x, y])

/-- FSUB. -/
def fsub (f : Fmt) (mode : Mode) (a b : Nat) : FRes :=
  let x := f.decode a
  let y := f.decode b
  roundSum f mode [x, y.minus] (sigFlags [x, y])

/-- FMUL. -/
def fmul (f : Fmt) (mode : Mode) (a b : Nat) : FRes :=
  let x := f.decode a
  let y := f.decode b
  let (p, g) := x.times y
  (roundVal f mode p).more (g ||| sigFlags [x, y])

/-- FFMA: A × B + D, one rounding. -/
def ffma (f : Fmt) (mode : Mode) (a b d : Nat) : FRes :=
  let x := f.decode a
  let y := f.decode b
  let z := f.decode d
  let (p, g) := x.times y
  roundSum f mode [p, z] (g ||| sigFlags [x, y, z])

/-- FSCALE: A × 2^k. Scaling by more than 2^1000 rounds as scaling by 2^1000 does in every format. -/
def fscale (f : Fmt) (mode : Mode) (a : Nat) (k : Int) : FRes :=
  let x := f.decode a
  match x with
  | .fin n m e => roundDy f mode n m (e + Max.max (-1000) (Min.min 1000 k))
  | v => (roundVal f mode v).more (sigFlags [v])

/-- FDOT2: A0×B0 + A1×B1 + D, one rounding to f32. -/
def fdot2 (f : Fmt) (mode : Mode) (a b d : Nat) : FRes :=
  let x0 := f.decode (a % 65536)
  let x1 := f.decode (a / 65536 % 65536)
  let y0 := f.decode (b % 65536)
  let y1 := f.decode (b / 65536 % 65536)
  let z := Fmt.f32.decode d
  let (p0, g0) := x0.times y0
  let (p1, g1) := x1.times y1
  roundSum .f32 mode [p0, p1, z] (g0 ||| g1 ||| sigFlags [x0, x1, y0, y1, z])

/-- A quotient of finite values, the divisor non-zero, rounded. -/
def quotient (f : Fmt) (mode : Mode) (neg : Bool) (m1 : Nat) (e1 : Int) (m2 : Nat) (e2 : Int) : FRes :=
  let e := e1 - e2
  if m1 = 0 then { code := f.signed neg 0, flags := 0 }
  else if e ≥ 0 then roundQ f mode neg (m1 <<< e.toNat) m2 else roundQ f mode neg m1 (m2 <<< (-e).toNat)

/-- FDIV (08 R174). -/
def fdiv (f : Fmt) (mode : Mode) (a b : Nat) : FRes :=
  let x := f.decode a
  let y := f.decode b
  match x, y with
  | .nan _, _ => FRes.nan f (x.signals || y.signals)
  | _, .nan _ => FRes.nan f y.signals
  | .inf _, .inf _ => FRes.invalid f
  | .inf n, v => { code := f.inf (n != v.neg), flags := 0 }
  | v, .inf n => { code := f.signed (n != v.neg) 0, flags := 0 }
  | .fin n m e, .fin n2 m2 e2 =>
    if m2 = 0 then (if m = 0 then FRes.invalid f else { code := f.inf (n != n2), flags := flDivzero })
    else quotient f mode (n != n2) m e m2 e2

/-- Integer square root, bit by bit from bit k down. -/
def isqrtFrom (n : Nat) : Nat → Nat → Nat
  | 0, r => r
  | k + 1, r => isqrtFrom n k (if (r + 2 ^ k) * (r + 2 ^ k) ≤ n then r + 2 ^ k else r)

/-- ⌊√n⌋ for n below 2^(2k). -/
def isqrt (n k : Nat) : Nat := isqrtFrom n k 0

/-- √ of n/d × 2^(−2c) rounded; the discarded part is kept as one sticky bit below the last place, which no rounding boundary reaches. -/
def rootQ (f : Fmt) (mode : Mode) (n d c : Nat) : FRes :=
  let q := n / d
  let r := isqrt q 320
  let exact := decide (r * r * d = n)
  roundQ f mode false (2 * r + (if exact then 0 else 1)) (2 ^ (c + 1))

/-- FSQRT (08 R174). -/
def fsqrt (f : Fmt) (mode : Mode) (a : Nat) : FRes :=
  match f.decode a with
  | .nan s => FRes.nan f s
  | .inf n => if n then FRes.invalid f else { code := f.inf false, flags := 0 }
  | .fin n m e =>
    if m = 0 then { code := f.signed n 0, flags := 0 }
    else if n then FRes.invalid f
    else if e ≥ 0 then rootQ f mode (m <<< (e.toNat + 80)) 1 40
    else rootQ f mode (m <<< 400) (1 <<< (-e).toNat) 200

/-- Order of two finite values as integers at one exponent. -/
def Val.order (a b : Val) : Int :=
  let e0 := leastExp [a, b]
  a.atExp e0 - b.atExp e0

/-- a < b for values that are no NaN; −0 equals +0. -/
def Val.lt (a b : Val) : Bool :=
  match a, b with
  | .nan _, _ => false
  | _, .nan _ => false
  | .inf n, .inf n2 => n && !n2
  | .inf n, _ => n
  | _, .inf n => !n
  | x, y => decide (x.order y < 0)

/-- a < b with −0 below +0. -/
def Val.below (a b : Val) : Bool := a.lt b || (a.isZero && b.isZero && a.neg && !b.neg)

/-- FMIN and FMAX (08 R175). -/
def fminmax (f : Fmt) (wantMax : Bool) (a b : Nat) : FRes :=
  let x := f.decode a
  let y := f.decode b
  let fl := sigFlags [x, y]
  if x.isNan && y.isNan then { code := f.nan, flags := fl }
  else if x.isNan then { code := b, flags := fl }
  else if y.isNan then { code := a, flags := fl }
  else if wantMax then { code := if x.below y then b else a, flags := fl }
  else { code := if y.below x then b else a, flags := fl }

/-- FAMAX (08 R175). -/
def famax (f : Fmt) (a b : Nat) : FRes :=
  let x := f.decode a
  let y := f.decode b
  if x.isNan || y.isNan then { code := f.nan, flags := sigFlags [x, y] }
  else { code := Max.max (a % f.signBit) (b % f.signBit), flags := 0 }

/-- FSETP (08 R176): the outcome and its flags. -/
def fcompare (c : Nat) (a b : Nat) : Bool × Flags :=
  let x := Fmt.f32.decode a
  let y := Fmt.f32.decode b
  let un := x.isNan || y.isNan
  let eq := !un && !x.lt y && !y.lt x
  let fl : Flags := if 2 ≤ c ∧ c ≤ 5 then (if un then flInvalid else 0) else sigFlags [x, y]
  (match c with
    | 0 => eq
    | 1 => !eq
    | 2 => !un && x.lt y
    | 3 => !un && (x.lt y || eq)
    | 4 => !un && y.lt x
    | 5 => !un && (y.lt x || eq)
    | 6 => un
    | _ => !un, fl)

/-- The integer a magnitude m × 2^e rounds to, and whether it differs (03 R71, R77). -/
def toIntegral (mode : Mode) (neg : Bool) (m : Nat) (e : Int) : Nat × Bool :=
  if e ≥ 0 then (m <<< e.toNat, false)
  else
    let den := 1 <<< (-e).toNat
    let k := m / den
    let r := m % den
    (if roundsUp mode neg k r den then k + 1 else k, decide (r ≠ 0))

/-- FRND (08 R177). -/
def frnd (f : Fmt) (mode : Mode) (a : Nat) : FRes :=
  match f.decode a with
  | .nan s => FRes.nan f s
  | .inf n => { code := f.inf n, flags := 0 }
  | .fin n m e => { code := (roundDy f .rne n (toIntegral mode n m e).1 0).code, flags := 0 }

/-- FCLASS of one element (08 R177). -/
def fclass (f : Fmt) (a : Nat) : Nat :=
  match f.decode a with
  | .nan s => if s then 0x100 else 0x200
  | .inf n => if n then 1 else 0x80
  | .fin n m _ =>
    if m = 0 then (if n then 8 else 0x10)
    else if a % f.signBit < 2 ^ f.mbits then (if n then 4 else 0x20)
    else (if n then 2 else 0x40)

/-- FFREXP (08 R177): the fraction's code or the exponent, and flags. -/
def ffrexp (a : Nat) (wantExp : Bool) : FRes :=
  match Fmt.f32.decode a with
  | .nan s => if wantExp then { code := 0, flags := if s then flInvalid else 0 } else FRes.nan .f32 s
  | .inf _ => { code := if wantExp then 0 else a, flags := 0 }
  | .fin n m e =>
    if m = 0 then { code := if wantExp then 0 else a, flags := 0 }
    else
      let l : Int := Nat.log2 m
      if wantExp then { code := (BitVec.ofInt 32 (e + l + 1)).toNat, flags := 0 }
      else { code := (roundDy .f32 .rne n m (-(l + 1))).code, flags := 0 }

/-- sat (03 R71). -/
def satInt (x lo hi : Int) : Int × Flags := if x < lo then (lo, flSat) else if hi < x then (hi, flSat) else (x, 0)

/-- A value converted to an integer format with limits lo and hi (03 R71); stochastic rounding acts as RNE (R79). -/
def toInt (mode : Mode) (v : Val) (lo hi : Int) : Int × Flags :=
  match v with
  | .nan _ => (0, flInvalid)
  | .inf n => (if n then lo else hi, flSat)
  | .fin n m e =>
    let md := match mode with | .rsr _ => .rne | x => x
    let (k, ne) := toIntegral md n m e
    let (r, g) := satInt (if n then -(k : Int) else k) lo hi
    (r, g ||| (if ne then flInexact else 0))

/-- An integer converted to a format (08 R179). -/
def ofInt (f : Fmt) (mode : Mode) (z : Int) : FRes := roundDy f mode (decide (z < 0)) z.natAbs 0

/-- qn4_level in units of 2^−11 (03 R73). -/
def qnLevel (c : Nat) : Int :=
  [-2048, -1424, -1072, -808, -584, -380, -187, 0, 164, 328, 504, 692, 904, 1152, 1480, 2048].getD c 0

/-- qn4_level as a value. -/
def qnVal (c : Nat) : Val := .fin (decide (qnLevel c < 0)) (qnLevel c).natAbs (-11)

/-- qn4_decode (03 R75). -/
def qnDecode (c s sup : Nat) : FRes :=
  let sv := Fmt.f32.decode sup
  if s % 256 = 0x80 ∨ sv.isNan then { code := Fmt.f32.nan, flags := flInvalid ||| flScalenan }
  else
    let (p, _) := (qnVal c).times (Fmt.e4m3n.decode s)
    let (q, g) := p.times sv
    (roundVal .f32 .rne q).more g

/-- Distance of y = ±n/d from a level, times 2048 d. -/
def qnDist (neg : Bool) (n d c : Nat) : Nat := ((if neg then -((n * 2048 : Nat) : Int) else ((n * 2048 : Nat) : Int)) - qnLevel c * d).natAbs

/-- The code whose level is nearest, a tie going to the level nearer zero (03 R76). -/
def qnNearest (neg : Bool) (n d : Nat) : Nat :=
  (List.range 16).foldl (fun best c =>
    let x := qnDist neg n d c
    let y := qnDist neg n d best
    if x < y ∨ (x = y ∧ (qnLevel c).natAbs < (qnLevel best).natAbs) then c else best) 7

/-- qn4_encode of y = ±n/d (03 R76). -/
def qnEncodeQ (neg : Bool) (n d : Nat) : FRes :=
  if d < n then { code := if neg then 0 else 15, flags := flSat ||| flInexact }
  else
    let c := qnNearest neg n d
    { code := c, flags := if qnDist neg n d c = 0 then 0 else flInexact }

/-- qn4_encode of x / (s × S) (03 R76, 08 R182). -/
def qnEncode (x : Val) (s sup : Nat) : FRes :=
  let (t, _) := (Fmt.e4m3n.decode s).times (Fmt.f32.decode sup)
  match x, t with
  | .fin n m e, .fin n2 m2 e2 =>
    if m2 = 0 then { code := 7, flags := flInvalid }
    else if e ≥ e2 then qnEncodeQ (n != n2) (m <<< (e - e2).toNat) m2 else qnEncodeQ (n != n2) m (m2 <<< (e2 - e).toNat)
  | .fin _ _ _, .inf _ => { code := 7, flags := 0 }
  | _, _ => { code := 7, flags := flInvalid }

/-- qn4_scale (08 R182). -/
def qnScale (amax : Val) (sup : Nat) : FRes :=
  match amax, Fmt.f32.decode sup with
  | .nan _, _ => { code := 0x80, flags := flInvalid }
  | _, .nan _ => { code := 0x80, flags := flInvalid }
  | .inf _, .inf _ => { code := 0x80, flags := flInvalid }
  | .inf _, .fin n _ _ => if n then { code := 0xFF, flags := 0 } else { code := 0x7F, flags := flSat }
  | .fin _ _ _, .inf _ => { code := 0x40, flags := 0 }
  | .fin _ m e, .fin n m2 e2 =>
    if m = 0 ∧ m2 = 0 then { code := 0x80, flags := flInvalid }
    else if m = 0 then { code := 0x40, flags := 0 }
    else if m2 = 0 then (if n then { code := 0xFF, flags := 0 } else { code := 0x7F, flags := flSat })
    else
      let num := if e ≥ e2 then m <<< (e - e2).toNat else m
      let den := if e ≥ e2 then m2 else m2 <<< (e2 - e).toNat
      if !n ∧ 240 * den < num then { code := 0x7F, flags := flSat }
      else { code := (roundQ .e4m3n .rup n num den).code, flags := 0 }

/-- The float format a type code names as a single value in CVT, CVTSR, PACK and UNPACK (08 R179, R181). -/
def Fmt.ofTy : Ty → Option Fmt
  | .f32 => some .f32
  | .bf16 | .bf16x2 => some .bf16
  | .f16x2 => some .f16
  | .e4m3n => some .e4m3n
  | .e5m2n => some .e5m2n
  | .e2m1 => some .e2m1
  | _ => none

/-- Width and signedness of an integer type (08 R179). -/
def intTy : Ty → Nat × Bool
  | .i32 => (32, true) | .n32 => (32, false) | .i64 => (64, true) | .n64 => (64, false)
  | .i16 => (16, true) | .n16 => (16, false) | .i4 => (4, true) | _ => (4, false)

/-- Limits of an integer type. -/
def intLo (t : Ty) : Int := if (intTy t).2 then -(2 ^ ((intTy t).1 - 1) : Nat) else 0
def intHi (t : Ty) : Int := if (intTy t).2 then ((2 ^ ((intTy t).1 - 1) : Nat) : Int) - 1 else ((2 ^ (intTy t).1 : Nat) : Int) - 1

/-- An integer source read under its type (08 R168, R179). -/
def intOf (t : Ty) (raw : Nat) : Int :=
  let (w, sg) := intTy t
  let x := raw % 2 ^ w
  if sg && decide (2 ^ (w - 1) ≤ x) then (x : Int) - (2 ^ w : Nat) else x

/-- CVT (08 R179): the 64-bit result, of which a 32-bit type uses the low half, and flags. -/
def cvt (dt st : Ty) (mode : Mode) (raw : Nat) : Dword × Flags :=
  match Fmt.ofTy dt, Fmt.ofTy st with
  | some fd, some fs => let r := roundVal fd mode (fs.decode raw); (BitVec.ofNat 64 r.code, r.flags)
  | some fd, none => let r := ofInt fd mode (intOf st raw); (BitVec.ofNat 64 r.code, r.flags)
  | none, some fs => let (z, g) := toInt mode (fs.decode raw) (intLo dt) (intHi dt); (BitVec.ofInt 64 z, g)
  | none, none => let (z, g) := satInt (intOf st raw) (intLo dt) (intHi dt); (BitVec.ofInt 64 z, g)

/-- CVT writes a 64-bit or a 32-bit register. -/
def cvtTakesSeq (dt : Ty) : Bool := (Fmt.ofTy dt).isSome

end Sys2Proof.Machine
end

