-- ==== Sys2Proof/Machine/Integer.lean ====
section
/-! DEFINITION. The integer, bit, comparison, selection and predicate instructions and the immediate moves (spec/08 R170 to R173), with the symbolic values of an atomic region (10 R226, R227). -/

namespace Sys2Proof.Machine

/-- Source A of an F0 word. -/
def Env.fa (e : Env) (t : Thread) (w : F0) : Word := e.a32 t w.a

/-- Source B of an F0 word. -/
def Env.fb (e : Env) (t : Thread) (w : F0) : Word := e.b32 t w.a w.b

/-- The old destination as third source (08 R166). -/
def Env.fd (e : Env) (t : Thread) (w : F0) : Word := e.v t (vnum w.d)

/-- imm16 widened to 32 bits: x[3] selects zero extension (02 R32). -/
def immWide (w : F1) : Word := if w.x.getLsbD 3 then w.imm.setWidth 32 else w.imm.signExtend 32

/-- The type of an F1 integer word: x[4] (02 R32). -/
def immTy (w : F1) : Ty := if w.x.getLsbD 4 then .n32 else .i32

/-- ival: two's complement for i32 and i64, unsigned for n32 and n64 (08 R168). -/
def ival {n : Nat} (t : Ty) (x : BitVec n) : Int :=
  match t with
  | .i32 | .i64 => x.toInt
  | _ => x.toNat

/-- A 32-bit F0 operation on A and B. -/
def bin32 (i : Instr) (w : F0) (s : State) (f : Word → Word → Word) : State :=
  runWrite i w.d s (fun e t => f (e.fa t w) (e.fb t w))

/-- The same with the old destination. -/
def tri32 (i : Instr) (w : F0) (s : State) (f : Word → Word → Word → Word) : State :=
  runWrite i w.d s (fun e t => f (e.fa t w) (e.fb t w) (e.fd t w))

/-- A 32-bit F0 operation on A. -/
def un32 (i : Instr) (w : F0) (s : State) (f : Word → Word) : State := runWrite i w.d s (fun e t => f (e.fa t w))

/-- A 32-bit F1 operation on A and the widened immediate. -/
def binImm (i : Instr) (w : F1) (s : State) (f : Word → Word → Word) : State :=
  runWrite i w.d s (fun e t => f (e.a32 t w.a) (immWide w))

/-- A 64-bit operation on pairs a and b. -/
def bin64 (i : Instr) (w : F0) (s : State) (f : Dword → Dword → Dword) : State :=
  runWritePair i w.d s (fun e t => f (e.pair t (vnum w.a)) (e.pair t (vnum w.b)))

/-- The tag of a vector source. -/
def Thread.srcTag (t : Thread) (c : Code) : Option (Nat × Word) :=
  match Operand.ofCode c with
  | .v n => t.tag n
  | _ => none

/-- The tag of a sum or difference (10 R226): one tagged operand and one untagged, the subtrahend never tagged. -/
def sumTag (sub : Bool) (ta tb : Option (Nat × Word)) (a b : Word) : Option (Nat × Word) :=
  match ta, tb with
  | some (x, c), none => some (x, if sub then c - b else c + b)
  | none, some (x, c) => if sub then none else some (x, c + a)
  | _, _ => none

/-- Operands whose tags a sum or difference concretises (10 R226). -/
def sumConcretises (sub : Bool) (ta tb : Option (Nat × Word)) : Bool :=
  match ta, tb with
  | some _, some _ => true
  | none, some _ => sub
  | _, _ => false

/-- A register written with a tag or without. -/
def Thread.writeMaybe (t : Thread) (n : Nat) (x : Word) (tag : Option (Nat × Word)) : Thread :=
  match tag with
  | some g => t.writeTagged n x g
  | none => t.write n x

/-- A symbol concretised, if there is one. -/
def Thread.dropTag (t : Thread) (tag : Option (Nat × Word)) : Thread :=
  match tag with
  | some (x, _) => t.concretise x
  | none => t

/-- ADD and SUB of a thread with their tag rules. -/
def Thread.addSub (t : Thread) (sub : Bool) (d : Nat) (a b : Word) (ta tb : Option (Nat × Word)) : Thread :=
  let t1 := if sumConcretises sub ta tb then (t.dropTag ta).dropTag tb else t
  t1.writeMaybe d (if sub then a - b else a + b) (if sumConcretises sub ta tb then none else sumTag sub ta tb a b)

/-- ADD (08 R170). -/
def execAdd (w : F0) (s : State) : Host.Outcome State Fault Refusal :=
  .next (runLocal (.add w) s (fun e t => .ok (t.addSub false (vnum w.d) (e.fa t w) (e.fb t w) (t.srcTag w.a) (t.srcTag w.b)) 0 none))

/-- ADD with an immediate. -/
def execAddImm (w : F1) (s : State) : Host.Outcome State Fault Refusal :=
  .next (runLocal (.addImm w) s (fun e t => .ok (t.addSub false (vnum w.d) (e.a32 t w.a) (immWide w) (t.srcTag w.a) none) 0 none))

/-- SUB. -/
def execSub (w : F0) (s : State) : Host.Outcome State Fault Refusal :=
  .next (runLocal (.sub w) s (fun e t => .ok (t.addSub true (vnum w.d) (e.fa t w) (e.fb t w) (t.srcTag w.a) (t.srcTag w.b)) 0 none))

/-- SUB with an immediate. -/
def execSubImm (w : F1) (s : State) : Host.Outcome State Fault Refusal :=
  .next (runLocal (.subImm w) s (fun e t => .ok (t.addSub true (vnum w.d) (e.a32 t w.a) (immWide w) (t.srcTag w.a) none) 0 none))

/-- Limits of a 32-bit type (03 R71). -/
def sat32 (t : Ty) (z : Int) : Word × Flags :=
  let (r, g) := satInt z (intLo t) (intHi t)
  (wordOfInt r, g)

/-- ADDSAT: x[0] subtracts. -/
def execAddsat (w : F0) (s : State) : Host.Outcome State Fault Refusal :=
  .next (runLocal (.addsat w) s (fun e t =>
    let a := ival w.ty (e.fa t w)
    let b := ival w.ty (e.fb t w)
    let (r, g) := sat32 w.ty (if w.x.getLsbD 0 then a - b else a + b)
    .ok (t.write (vnum w.d) r) g none))

/-- MUL. -/
def execMul (w : F0) (s : State) : Host.Outcome State Fault Refusal := .next (bin32 (.mul w) w s (fun a b => a * b))

/-- MUL with an immediate. -/
def execMulImm (w : F1) (s : State) : Host.Outcome State Fault Refusal := .next (binImm (.mulImm w) w s (fun a b => a * b))

/-- High word of a product under ival. -/
def mulHigh (t : Ty) (a b : Word) : Word := wordOfInt ((ival t a * ival t b) / 2 ^ 32)

/-- MULHI. -/
def execMulhi (w : F0) (s : State) : Host.Outcome State Fault Refusal := .next (bin32 (.mulhi w) w s (mulHigh w.ty))

/-- MAD. -/
def execMad (w : F0) (s : State) : Host.Outcome State Fault Refusal := .next (tri32 (.mad w) w s (fun a b d => a * b + d))

/-- MADW. -/
def execMadw (w : F0) (s : State) : Host.Outcome State Fault Refusal :=
  .next (runWritePair (.madw w) w.d s (fun e t => BitVec.ofInt 64 (ival w.ty (e.fa t w) * ival w.ty (e.fb t w)) + e.pair t (vnum w.d)))

/-- The lesser or the greater under ival. -/
def pickBy {n : Nat} (t : Ty) (greater : Bool) (a b : BitVec n) : BitVec n :=
  if greater then (if ival t a ≥ ival t b then a else b) else (if ival t a ≤ ival t b then a else b)

/-- MIN, in 32 or 64 bits. -/
def execMin (w : F0) (s : State) : Host.Outcome State Fault Refusal :=
  .next (if w.ty.wide then bin64 (.min w) w s (pickBy w.ty false) else bin32 (.min w) w s (pickBy w.ty false))

/-- MIN with an immediate. -/
def execMinImm (w : F1) (s : State) : Host.Outcome State Fault Refusal := .next (binImm (.minImm w) w s (pickBy (immTy w) false))

/-- MAX, in 32 or 64 bits. -/
def execMax (w : F0) (s : State) : Host.Outcome State Fault Refusal :=
  .next (if w.ty.wide then bin64 (.max w) w s (pickBy w.ty true) else bin32 (.max w) w s (pickBy w.ty true))

/-- MAX with an immediate. -/
def execMaxImm (w : F1) (s : State) : Host.Outcome State Fault Refusal := .next (binImm (.maxImm w) w s (pickBy (immTy w) true))

/-- ABS. -/
def execAbs (w : F0) (s : State) : Host.Outcome State Fault Refusal := .next (un32 (.abs w) w s (fun a => if a.msb then 0 - a else a))

/-- NEG. -/
def execNeg (w : F0) (s : State) : Host.Outcome State Fault Refusal := .next (un32 (.neg w) w s (fun a => 0 - a))

/-- Byte k of a word under a type. -/
def byteVal (t : Ty) (a : Word) (k : Nat) : Int := ival t (a.extractLsb' (8 * k) 8)

/-- DOT4 (08 R170). -/
def dot4 (t : Ty) (a b d : Word) : Word :=
  d + wordOfInt (byteVal t a 0 * byteVal t b 0 + byteVal t a 1 * byteVal t b 1 + byteVal t a 2 * byteVal t b 2 + byteVal t a 3 * byteVal t b 3)

/-- DOT4. -/
def execDot4 (w : F0) (s : State) : Host.Outcome State Fault Refusal := .next (tri32 (.dot4 w) w s (dot4 w.ty))

/-- ADD64. -/
def execAdd64 (w : F0) (s : State) : Host.Outcome State Fault Refusal := .next (bin64 (.add64 w) w s (fun a b => a + b))

/-- SUB64. -/
def execSub64 (w : F0) (s : State) : Host.Outcome State Fault Refusal := .next (bin64 (.sub64 w) w s (fun a b => a - b))

/-- AND (08 R171). -/
def execAnd (w : F0) (s : State) : Host.Outcome State Fault Refusal := .next (bin32 (.and w) w s (fun a b => a &&& b))

/-- AND with an immediate. -/
def execAndImm (w : F1) (s : State) : Host.Outcome State Fault Refusal := .next (binImm (.andImm w) w s (fun a b => a &&& b))

/-- OR. -/
def execOr (w : F0) (s : State) : Host.Outcome State Fault Refusal := .next (bin32 (.or w) w s (fun a b => a ||| b))

/-- OR with an immediate. -/
def execOrImm (w : F1) (s : State) : Host.Outcome State Fault Refusal := .next (binImm (.orImm w) w s (fun a b => a ||| b))

/-- XOR. -/
def execXor (w : F0) (s : State) : Host.Outcome State Fault Refusal := .next (bin32 (.xor w) w s (fun a b => a ^^^ b))

/-- XOR with an immediate. -/
def execXorImm (w : F1) (s : State) : Host.Outcome State Fault Refusal := .next (binImm (.xorImm w) w s (fun a b => a ^^^ b))

/-- ANDN. -/
def execAndn (w : F0) (s : State) : Host.Outcome State Fault Refusal := .next (bin32 (.andn w) w s (fun a b => a &&& ~~~b))

/-- NOT. -/
def execNot (w : F0) (s : State) : Host.Outcome State Fault Refusal := .next (un32 (.not w) w s (fun a => ~~~a))

/-- Logical shift left; 0 from 32 on. -/
def shlWord (a b : Word) : Word := if b.toNat < 32 then a <<< b.toNat else 0

/-- Logical shift right; 0 from 32 on. -/
def shrWord (a b : Word) : Word := if b.toNat < 32 then a >>> b.toNat else 0

/-- Arithmetic shift right by at most 31. -/
def sarWord (a b : Word) : Word := a.sshiftRight (Nat.min b.toNat 31)

/-- SHL. -/
def execShl (w : F0) (s : State) : Host.Outcome State Fault Refusal := .next (bin32 (.shl w) w s shlWord)

/-- SHL with an immediate. -/
def execShlImm (w : F1) (s : State) : Host.Outcome State Fault Refusal := .next (binImm (.shlImm w) w s shlWord)

/-- SHR. -/
def execShr (w : F0) (s : State) : Host.Outcome State Fault Refusal := .next (bin32 (.shr w) w s shrWord)

/-- SHR with an immediate. -/
def execShrImm (w : F1) (s : State) : Host.Outcome State Fault Refusal := .next (binImm (.shrImm w) w s shrWord)

/-- SAR. -/
def execSar (w : F0) (s : State) : Host.Outcome State Fault Refusal := .next (bin32 (.sar w) w s sarWord)

/-- SAR with an immediate. -/
def execSarImm (w : F1) (s : State) : Host.Outcome State Fault Refusal := .next (binImm (.sarImm w) w s sarWord)

/-- ROL. -/
def execRol (w : F0) (s : State) : Host.Outcome State Fault Refusal := .next (bin32 (.rol w) w s (fun a b => a.rotateLeft (b.toNat % 32)))

/-- The field BFX extracts (08 R171). -/
def bfx (t : Ty) (a b : Word) : Word :=
  let pos := bits b 7 0
  let len := bits b 15 8
  let f := (BitVec.ofInt 512 (ival t a)).toNat >>> pos % 2 ^ len
  if len = 0 then 0 else if t = .i32 then sextNat (Nat.min len 32) 32 f else BitVec.ofNat 32 f

/-- BFX. -/
def execBfx (w : F0) (s : State) : Host.Outcome State Fault Refusal := .next (bin32 (.bfx w) w s (bfx w.ty))

/-- BFI (08 R171). -/
def bfi (a b d : Word) : Word :=
  let pos := bits b 7 0
  let m : Word := BitVec.ofNat 32 ((2 ^ (Nat.min (bits b 15 8) 32) - 1) <<< pos)
  (d &&& ~~~m) ||| (BitVec.ofNat 32 (a.toNat <<< pos) &&& m)

/-- BFI. -/
def execBfi (w : F0) (s : State) : Host.Outcome State Fault Refusal := .next (tri32 (.bfi w) w s bfi)

/-- Number of 1 bits. -/
def popcount (a : Word) : Nat := (List.range 32).foldl (fun n k => if a.getLsbD k then n + 1 else n) 0

/-- POPC. -/
def execPopc (w : F0) (s : State) : Host.Outcome State Fault Refusal := .next (un32 (.popc w) w s (fun a => BitVec.ofNat 32 (popcount a)))

/-- Leading zero bits; 32 for 0. -/
def leadZeros (a : Word) : Nat := if a = 0 then 32 else 31 - Nat.log2 a.toNat

/-- CLZ. -/
def execClz (w : F0) (s : State) : Host.Outcome State Fault Refusal := .next (un32 (.clz w) w s (fun a => BitVec.ofNat 32 (leadZeros a)))

/-- BREV. -/
def execBrev (w : F0) (s : State) : Host.Outcome State Fault Refusal := .next (un32 (.brev w) w s (fun a => a.reverse))

/-- PRMT (08 R171). -/
def prmt (a b d : Word) : Word :=
  let y (k : Nat) : Nat := bits (b ++ a) (8 * k + 7) (8 * k)
  let one (k : Nat) : Nat :=
    let sel := bits d (4 * k + 3) (4 * k)
    let v := y (sel % 8)
    if 8 ≤ sel then (if 128 ≤ v then 0xFF else 0) else v
  BitVec.ofNat 32 (one 0 + one 1 <<< 8 + one 2 <<< 16 + one 3 <<< 24)

/-- PRMT. -/
def execPrmt (w : F0) (s : State) : Host.Outcome State Fault Refusal := .next (tri32 (.prmt w) w s prmt)

/-- SHL64: b is a 32-bit source. -/
def execShl64 (w : F0) (s : State) : Host.Outcome State Fault Refusal :=
  .next (runWritePair (.shl64 w) w.d s (fun e t =>
    let b := (e.fb t w).toNat
    if b < 64 then e.pair t (vnum w.a) <<< b else 0))

/-- SHR64: arithmetic for i64, logical for n64. -/
def execShr64 (w : F0) (s : State) : Host.Outcome State Fault Refusal :=
  .next (runWritePair (.shr64 w) w.d s (fun e t =>
    let b := (e.fb t w).toNat
    let a := e.pair t (vnum w.a)
    if w.ty = .i64 then a.sshiftRight (Nat.min b 63) else if b < 64 then a >>> b else 0))

/-- Conditions of SETP (08 R172): 0 eq, 1 ne, 2 lt, 3 le, 4 gt, 5 ge. -/
def condHolds (c : Nat) (a b : Int) : Bool :=
  match c with
  | 0 => decide (a = b)
  | 1 => decide (a ≠ b)
  | 2 => decide (a < b)
  | 3 => decide (a ≤ b)
  | 4 => decide (a > b)
  | _ => decide (a ≥ b)

/-- SETP of a thread with 32-bit operands (10 R227): a constraint where one operand is tagged or both with one base. -/
def Thread.compare (t : Thread) (d c : Nat) (ty : Ty) (a b : Word) (ta tb : Option (Nat × Word)) : Thread :=
  let out := condHolds c (ival ty a) (ival ty b)
  let form (x : Word) (g : Option (Nat × Word)) : SymVal := match g with | some (y, k) => .sym y k | none => .conc x
  let clash := match ta, tb with | some x, some y => decide (x.1 ≠ y.1) | _, _ => false
  let t1 : Thread := match t.region with
    | none => t
    | some r =>
      if ta.isNone && tb.isNone then t
      else if clash || decide (16 ≤ r.cons.length) then (t.dropTag ta).dropTag tb
      else { t with region := some { r with cons := r.cons ++ [({ cond := c, signed := decide (ty = .i32), a := form a ta, b := form b tb, outcome := out } : Constraint)] } }
  t1.setPred d out

/-- Number of a predicate operand. -/
def pnum (c : Code) : Nat :=
  match Operand.ofCode c with
  | .p n => n
  | _ => 7

/-- SETP (08 R172). -/
def execSetp (w : F0) (s : State) : Host.Outcome State Fault Refusal :=
  .next (runLocal (.setp w) s (fun e t =>
    if w.ty.wide then
      let t1 := t.concretiseRegs (srcRegs (.setp w))
      .ok (t1.setPred (pnum w.d) (condHolds (lo3 w.x) (ival w.ty (e.pair t (vnum w.a))) (ival w.ty (e.pair t (vnum w.b))))) 0 none
    else .ok (t.compare (pnum w.d) (lo3 w.x) w.ty (e.fa t w) (e.fb t w) (t.srcTag w.a) (t.srcTag w.b)) 0 none))

/-- SETP with an immediate. -/
def execSetpImm (w : F1) (s : State) : Host.Outcome State Fault Refusal :=
  .next (runLocal (.setpImm w) s (fun e t =>
    .ok (t.compare (pnum w.d) (lo3 w.x) (immTy w) (e.a32 t w.a) (immWide w) (t.srcTag w.a) none) 0 none))

/-- PLOP's operations (08 R172). -/
def plop (op : Nat) (a b : Bool) : Bool :=
  match op with
  | 0 => a && b
  | 1 => a || b
  | 2 => a != b
  | 3 => a && !b
  | 4 => !a
  | _ => a

/-- PLOP. -/
def execPlop (w : F0) (s : State) : Host.Outcome State Fault Refusal :=
  .next (runLocal (.plop w) s (fun _ t => .ok (t.setPred (pnum w.d) (plop (lo3 w.x) (t.pred (pnum w.a)) (t.pred (pnum w.b)))) 0 none))

/-- SEL: p[n] with x[3] the negation. -/
def execSel (w : F0) (s : State) : Host.Outcome State Fault Refusal :=
  .next (if w.ty.wide then
      runWritePair (.sel w) w.d s (fun e t => if t.pred (lo3 w.x) != w.x.getLsbD 3 then e.pair t (vnum w.a) else e.pair t (vnum w.b))
    else runWrite (.sel w) w.d s (fun e t => if t.pred (lo3 w.x) != w.x.getLsbD 3 then e.fa t w else e.fb t w))

/-- MOV (08 R172, 10 R226). -/
def execMov (w : F0) (s : State) : Host.Outcome State Fault Refusal :=
  .next (runLocal (.mov w) s (fun e t =>
    if w.ty.wide then .ok ((t.concretiseRegs (srcRegs (.mov w))).writePair (vnum w.d) (e.pair t (vnum w.a))) 0 none
    else if w.ty = .f32 then .ok ((t.concretiseRegs (srcRegs (.mov w))).write (vnum w.d) (e.fa t w)) 0 none
    else .ok (t.writeMaybe (vnum w.d) (e.fa t w) (t.srcTag w.a)) 0 none))

/-- PTOV. -/
def execPtov (w : F0) (s : State) : Host.Outcome State Fault Refusal := .next (runWrite (.ptov w) w.d s (fun _ t => t.p.setWidth 32 ||| 0x80))

/-- VTOP. -/
def execVtop (w : F0) (s : State) : Host.Outcome State Fault Refusal :=
  .next (runLocal (.vtop w) s (fun e t => .ok ({ t with p := (e.fa t w).setWidth 7 } : Thread) 0 none))

/-- LEA's sum (08 R172). -/
def lea (t : Ty) (a : Dword) (b : Word) (sh : Nat) : Dword := a + ((if t = .i32 then b.signExtend 64 else b.setWidth 64) <<< sh)

/-- LEA. -/
def execLea (w : F0) (s : State) : Host.Outcome State Fault Refusal :=
  .next (runWritePair (.lea w) w.d s (fun e t => lea w.ty (e.pair t (vnum w.a)) (e.fb t w) (lo3 w.x)))

/-- LEA with an immediate. -/
def execLeaImm (w : F1) (s : State) : Host.Outcome State Fault Refusal :=
  .next (runWritePair (.leaImm w) w.d s (fun e t => lea (immTy w) (e.pair t (vnum w.a)) (immWide w) (lo3 w.x)))

/-- MOVI (08 R173). -/
def execMovi (w : F2) (s : State) : Host.Outcome State Fault Refusal := .next (runWrite (.movi w) w.d s (fun _ _ => w.imm))

/-- MOVI of a pair. -/
def execMoviW (w : F2) (s : State) : Host.Outcome State Fault Refusal := .next (runWritePair (.moviW w) w.d s (fun _ _ => w.imm.signExtend 64))

end Sys2Proof.Machine
end

