-- ==== Sys2Proof/Machine/Sfu.lean ====
section
/-! DEFINITION. The special functions (spec/08 R178), each the exact value rounded once. The value is enclosed between two fixed-point numbers with 512 fraction bits; when both round to the same code, that code is the correctly rounded one. Where they do not, the value is left free (log 20). -/

namespace Sys2Proof.Machine

/-- One, in units of 2^−512. -/
def fxOne : Nat := 2 ^ 512

/-- π/2 lies between this and the next unit. -/
def fxHalfPi : Nat := 0x1921FB54442D18469898CC51701B839A252049C1114CF98E804177D4C76273644A29410F31C6809BBDF2A33679A748636605614DBE4BE286E9FC26ADADAA3848B

/-- ln 2 lies between this and the next unit. -/
def fxLn2 : Nat := 0xB17217F7D1CF79ABC9E3B39803F2F6AF40F343267298B62D8A0D175B8BAAFA2BE7B876206DEBAC98559552FB4AFA1B10ED2EAE35C138214427573B291169B825

/-- A real between two numbers of units. -/
structure Box where
  lo : Nat
  hi : Nat
  deriving DecidableEq, Repr

/-- ⌈a/b⌉. -/
def ceilDiv (a b : Nat) : Nat := (a + b - 1) / b

/-- Product of enclosed reals. -/
def Box.mul (a b : Box) : Box := { lo := a.lo * b.lo / fxOne, hi := ceilDiv (a.hi * b.hi) fxOne }

/-- A box divided by a number. -/
def Box.div (a : Box) (k : Nat) : Box := { lo := a.lo / k, hi := ceilDiv a.hi k }

/-- Terms of Σ x^k/k! from the (k+1)-th on, n of them: the last term, the sum of the even and of the odd ones so far. -/
def expTerms (x : Box) : Nat → Nat → Box → Box × Box → Box × Box × Box
  | 0, _, t, acc => (t, acc.1, acc.2)
  | n + 1, k, t, acc =>
    let t1 := (t.mul x).div k
    let acc1 := if k % 2 = 0 then ({ lo := acc.1.lo + t1.lo, hi := acc.1.hi + t1.hi }, acc.2) else (acc.1, { lo := acc.2.lo + t1.lo, hi := acc.2.hi + t1.hi })
    expTerms x n (k + 1) t1 acc1

/-- e^x for 0 ≤ x < 1; the rest of the series is below its last term. -/
def expSmall (x : Box) : Box :=
  let (t, e, o) := expTerms x 110 1 { lo := fxOne, hi := fxOne } ({ lo := fxOne, hi := fxOne }, { lo := 0, hi := 0 })
  { lo := e.lo + o.lo, hi := e.hi + o.hi + t.hi }

/-- A box squared k times. -/
def Box.squares : Nat → Box → Box
  | 0, b => b
  | k + 1, b => Box.squares k (b.mul b)

/-- e^x for 0 ≤ x < 256. -/
def expBox (x : Box) : Box := (expSmall (x.div 512)).squares 9

/-- Terms of Σ z^(2k+1)/(2k+1). -/
def atanhTerms (z2 : Box) : Nat → Nat → Box → Box → Box × Box
  | 0, _, t, acc => (t, acc)
  | n + 1, k, t, acc =>
    let t1 := t.mul z2
    let u := t1.div k
    atanhTerms z2 n (k + 2) t1 { lo := acc.lo + u.lo, hi := acc.hi + u.hi }

/-- ln of a ratio m/2^c between 1 and 2: twice atanh of (m − 2^c)/(m + 2^c), which is below 1/3. -/
def lnBox (m c : Nat) : Box :=
  let n := (m - 2 ^ c) * fxOne
  let d := m + 2 ^ c
  let z : Box := { lo := n / d, hi := ceilDiv n d }
  let (t, s) := atanhTerms (z.mul z) 170 3 z z
  { lo := 2 * s.lo, hi := 2 * (s.hi + t.hi) }

/-- sin and cos of 0 ≤ x < π/2, as boxes with the remainder of the series added. -/
def sinCosTerms (x : Box) : Nat → Nat → Box → Box × Box × Box × Box → Box × Box × Box × Box × Box
  | 0, _, t, a => (t, a.1, a.2.1, a.2.2.1, a.2.2.2)
  | n + 1, k, t, a =>
    let t1 := (t.mul x).div k
    let add (b : Box) : Box := { lo := b.lo + t1.lo, hi := b.hi + t1.hi }
    let a1 := match k % 4 with
      | 0 => (add a.1, a.2.1, a.2.2.1, a.2.2.2)
      | 1 => (a.1, add a.2.1, a.2.2.1, a.2.2.2)
      | 2 => (a.1, a.2.1, add a.2.2.1, a.2.2.2)
      | _ => (a.1, a.2.1, a.2.2.1, add a.2.2.2)
    sinCosTerms x n (k + 1) t1 a1

/-- sin x. -/
def sinBox (x : Box) : Box :=
  let z : Box := { lo := 0, hi := 0 }
  let (t, _, s1, _, s3) := sinCosTerms x 130 1 { lo := fxOne, hi := fxOne } ({ lo := fxOne, hi := fxOne }, z, z, z)
  { lo := s1.lo - s3.hi - t.hi, hi := s1.hi + t.hi - s3.lo }

/-- cos x. -/
def cosBox (x : Box) : Box :=
  let z : Box := { lo := 0, hi := 0 }
  let (t, s0, _, s2, _) := sinCosTerms x 130 1 { lo := fxOne, hi := fxOne } ({ lo := fxOne, hi := fxOne }, z, z, z)
  { lo := s0.lo - s2.hi - t.hi, hi := s0.hi + t.hi - s2.lo }

/-- A magnitude m × 2^e in units, for e ≥ −512 and a small value. -/
def fxOf (m : Nat) (e : Int) : Nat := if e + 512 ≥ 0 then m <<< (e + 512).toNat else 0

/-- The code both ends of a box × 2^k round to, with the flags of an inexact result (08 R178); where they differ the value is free. -/
def boxRound (fn : Nat) (arg : Word) (neg : Bool) (b : Box) (k : Int) : FRes :=
  let r (x : Nat) : FRes := roundDy .f32 .rne neg x (k - 512)
  let code := if (r b.lo).code = (r b.hi).code then (r b.lo).code else (Config.sfuValue fn arg).toNat
  let mag := code % 2 ^ 31
  { code := code, flags := flInexact ||| (if mag < 2 ^ 23 then flUnderflow else 0) ||| (if Fmt.f32.maxMag < mag then flOverflow else 0) }

/-- FRCP. -/
def sfuRcp (a : Word) : FRes :=
  match Fmt.f32.decode a.toNat with
  | .nan s => FRes.nan .f32 s
  | .inf n => { code := Fmt.f32.signed n 0, flags := 0 }
  | .fin n m e => if m = 0 then { code := Fmt.f32.inf n, flags := flDivzero } else quotient .f32 .rne n 1 0 m e

/-- FRSQ. -/
def sfuRsq (a : Word) : FRes :=
  match Fmt.f32.decode a.toNat with
  | .nan s => FRes.nan .f32 s
  | .inf n => if n then FRes.invalid .f32 else { code := 0, flags := 0 }
  | .fin n m e =>
    if m = 0 then { code := Fmt.f32.inf n, flags := flDivzero }
    else if n then FRes.invalid .f32
    else if e ≥ 0 then rootQ .f32 .rne (1 <<< 400) (m <<< e.toNat) 200
    else rootQ .f32 .rne (1 <<< ((-e).toNat + 400)) m 200

/-- FEXP2: 2^A = 2^i × e^(f ln 2) with i = ⌊A⌋; exact for an integer A. -/
def sfuExp2 (a : Word) : FRes :=
  match Fmt.f32.decode a.toNat with
  | .nan s => FRes.nan .f32 s
  | .inf n => { code := if n then 0 else Fmt.f32.inf false, flags := 0 }
  | .fin n m e =>
    if m = 0 then { code := 0x3F800000, flags := 0 }
    else
      let big := decide (e ≥ 0 ∧ 1024 ≤ m <<< (Min.min e 16).toNat) || decide (e < 0 ∧ 1024 ≤ m >>> (-e).toNat)
      if big then (if n then roundQ .f32 .rne false 1 (2 ^ 400) else roundQ .f32 .rne false (2 ^ 400) 1)
      else
        let x : Int := if n then -(fxOf m e : Int) else fxOf m e
        let i := x / (fxOne : Int)
        let f := (x % (fxOne : Int)).toNat
        if f = 0 then roundDy .f32 .rne false 1 i
        else boxRound 2 a false (expSmall { lo := f * fxLn2 / fxOne, hi := ceilDiv (f * (fxLn2 + 1)) fxOne }) i

/-- FLOG2: log2 A = e + ln m / ln 2; exact for a power of 2. -/
def sfuLog2 (a : Word) : FRes :=
  match Fmt.f32.decode a.toNat with
  | .nan s => FRes.nan .f32 s
  | .inf n => if n then FRes.invalid .f32 else { code := Fmt.f32.inf false, flags := 0 }
  | .fin n m e =>
    if m = 0 then { code := Fmt.f32.inf true, flags := flDivzero }
    else if n then FRes.invalid .f32
    else
      let c := Nat.log2 m
      let i : Int := e + c
      if m = 2 ^ c then ofInt .f32 .rne i
      else
        let l := lnBox m c
        let lo : Int := i * fxOne + (l.lo * fxOne / (fxLn2 + 1) : Nat)
        let hi : Int := i * fxOne + (ceilDiv (l.hi * fxOne) fxLn2 : Nat)
        if lo ≥ 0 then boxRound 3 a false { lo := lo.toNat, hi := hi.toNat } 0 else boxRound 3 a true { lo := (-hi).toNat, hi := (-lo).toNat } 0

/-- A magnitude reduced by multiples of π/2: the quadrant and what is left. -/
def reduceBox (m : Nat) (e : Int) : Nat × Box :=
  let x := fxOf m e
  let q := x / fxHalfPi
  (q % 4, { lo := x - q * (fxHalfPi + 1), hi := x - q * fxHalfPi })

/-- FSIN. -/
def sfuSin (a : Word) : FRes :=
  match Fmt.f32.decode a.toNat with
  | .nan s => FRes.nan .f32 s
  | .inf _ => FRes.invalid .f32
  | .fin n m e =>
    if m = 0 then { code := a.toNat, flags := 0 }
    else
      let (q, r) := reduceBox m e
      boxRound 4 a (n != decide (2 ≤ q)) (if q % 2 = 0 then sinBox r else cosBox r) 0

/-- FCOS. -/
def sfuCos (a : Word) : FRes :=
  match Fmt.f32.decode a.toNat with
  | .nan s => FRes.nan .f32 s
  | .inf _ => FRes.invalid .f32
  | .fin _ m e =>
    if m = 0 then { code := 0x3F800000, flags := 0 }
    else
      let (q, r) := reduceBox m e
      boxRound 5 a (q == 1 || q == 2) (if q % 2 = 0 then cosBox r else sinBox r) 0

/-- A magnitude m × 2^e at or above 2^k. -/
def atLeast (m : Nat) (e : Int) (k : Nat) : Bool := if e ≥ 0 then decide (2 ^ k ≤ m <<< (Min.min e 64).toNat) else decide (2 ^ k ≤ m >>> (-e).toNat)

/-- FTANH: (e^2x − 1)/(e^2x + 1); from 16 on it rounds to 1. -/
def sfuTanh (a : Word) : FRes :=
  match Fmt.f32.decode a.toNat with
  | .nan s => FRes.nan .f32 s
  | .inf n => { code := Fmt.f32.signed n 0x3F800000, flags := 0 }
  | .fin n m e =>
    if m = 0 then { code := a.toNat, flags := 0 }
    else if atLeast m e 4 then { code := Fmt.f32.signed n 0x3F800000, flags := flInexact }
    else
      let x := 2 * fxOf m e
      let b := expBox { lo := x, hi := x }
      boxRound 6 a n { lo := (b.lo - fxOne) * fxOne / (b.lo + fxOne), hi := ceilDiv ((b.hi - fxOne) * fxOne) (b.hi + fxOne) } 0

/-- FSIGM: 1/(1 + e^−x); from 128 on it rounds to 1, and from −128 down to 0. -/
def sfuSigm (a : Word) : FRes :=
  match Fmt.f32.decode a.toNat with
  | .nan s => FRes.nan .f32 s
  | .inf n => { code := if n then 0 else 0x3F800000, flags := 0 }
  | .fin n m e =>
    if m = 0 then { code := 0x3F000000, flags := 0 }
    else if atLeast m e 7 then (if n then { code := 0, flags := flInexact ||| flUnderflow } else { code := 0x3F800000, flags := flInexact })
    else
      let x := fxOf m e
      let b := expBox { lo := x, hi := x }
      if n then boxRound 7 a false { lo := fxOne * fxOne / (b.hi + fxOne), hi := ceilDiv (fxOne * fxOne) (b.lo + fxOne) } 0
      else boxRound 7 a false { lo := b.lo * fxOne / (b.lo + fxOne), hi := ceilDiv (b.hi * fxOne) (b.hi + fxOne) } 0

end Sys2Proof.Machine
end

