-- ==== Sys2Proof/Machine/Float.lean ====
section
/-! DEFINITION. The floating-point and special-function instructions (spec/08 R167, R174 to R178), and the pair word (02 R34, 08 R185). -/

namespace Sys2Proof.Machine

/-- The rounding code an instruction's field resolves to: 0 RNE to 4 RSR (08 R167). -/
def Env.modeCode (e : Env) (field : Nat) : Nat := if field = 0 then e.grp.fpround.toNat else field - 1

/-- The counter of the k-th element rounded by an instruction (03 R80). -/
def Env.counter (e : Env) (t : Thread) (k : Nat) : Dword :=
  BitVec.ofNat 64 (((e.grp.gidx * 1024 + e.tid) % 2 ^ 32) <<< 32 + (t.sq.toNat + k) % 2 ^ 32)

/-- The rounding mode of the k-th element. -/
def Env.mode (e : Env) (t : Thread) (field k : Nat) : Mode :=
  match e.modeCode field with
  | 0 => .rne
  | 1 => .rtz
  | 2 => .rup
  | 3 => .rdn
  | _ => .rsr (gHash e.grp.key (e.counter t k))

/-- The mode of the rows that exclude RSR: it rounds as RNE (08 R167). -/
def Mode.near (m : Mode) : Mode :=
  match m with
  | .rsr _ => .rne
  | x => x

/-- The rounding sequence after n elements (03 R80). DESIGN CHOICE (log 88): an element counts whatever its result is, a NaN, an infinity, a zero or an exact value too. -/
def Env.advance (e : Env) (t : Thread) (field n : Nat) : Thread := if e.modeCode field = 4 then { t with sq := t.sq + BitVec.ofNat 32 n } else t

/-- The format of an arithmetic type: f32, bf16x2 or f16x2. -/
def arithFmt (t : Ty) : Fmt := (Fmt.ofTy t).getD .f32

/-- Elements of an arithmetic type in a register (08 R169). -/
def elems (t : Ty) : Nat := if t = .f32 then 1 else 2

/-- Element k of a register. -/
def elemOf (t : Ty) (x : Word) (k : Nat) : Nat := if t = .f32 then x.toNat else bits x (16 * k + 15) (16 * k)

/-- An operation on each element: the codes joined, the flags gathered (08 R169). -/
def perElem (t : Ty) (f : Nat → FRes) : Word × Flags :=
  if t = .f32 then (BitVec.ofNat 32 (f 0).code, (f 0).flags)
  else (BitVec.ofNat 32 ((f 0).code % 65536 + (f 1).code % 65536 * 65536), (f 0).flags ||| (f 1).flags)

/-- A rounded element-wise operation of A, B and the old destination. -/
def floatOp (i : Instr) (w : F0) (s : State) (f : Fmt → Mode → Nat → Nat → Nat → FRes) : State :=
  runLocal i s (fun e t =>
    let a := e.fa t w
    let b := e.fb t w
    let d := e.fd t w
    let (r, g) := perElem w.ty (fun k => f (arithFmt w.ty) (e.mode t (lo3 w.x) k) (elemOf w.ty a k) (elemOf w.ty b k) (elemOf w.ty d k))
    .ok ((e.advance t (lo3 w.x) (elems w.ty)).write (vnum w.d) r) g none)

/-- An element-wise operation that does not round under the field. -/
def floatPlain (i : Instr) (w : F0) (s : State) (f : Fmt → Nat → Nat → FRes) : State :=
  runLocal i s (fun e t =>
    let a := e.fa t w
    let b := e.fb t w
    let (r, g) := perElem w.ty (fun k => f (arithFmt w.ty) (elemOf w.ty a k) (elemOf w.ty b k))
    .ok (t.write (vnum w.d) r) g none)

/-- A long-latency operation on f32: its result and flags come with its held write (02 R46, 03 R82). -/
def floatLong (i : Instr) (w : F0) (s : State) (f : Mode → Word → Word → FRes) : State :=
  runLocal i s (fun e t =>
    let r := f (e.mode t (lo3 w.x) 0).near (e.fa t w) (e.fb t w)
    .ok t 0 (some { reg := vnum w.d, count := 1, value := BitVec.ofNat 128 r.code, tag := none, flags := r.flags }))

/-- FADD (08 R174). -/
def execFadd (w : F0) (s : State) : Host.Outcome State Fault Refusal := .next (floatOp (.fadd w) w s (fun f m a b _ => fadd f m a b))

/-- FSUB. -/
def execFsub (w : F0) (s : State) : Host.Outcome State Fault Refusal := .next (floatOp (.fsub w) w s (fun f m a b _ => fsub f m a b))

/-- FMUL. -/
def execFmul (w : F0) (s : State) : Host.Outcome State Fault Refusal := .next (floatOp (.fmul w) w s (fun f m a b _ => fmul f m a b))

/-- FFMA. -/
def execFfma (w : F0) (s : State) : Host.Outcome State Fault Refusal := .next (floatOp (.ffma w) w s ffma)

/-- FSCALE: one scale for every element. -/
def execFscale (w : F0) (s : State) : Host.Outcome State Fault Refusal :=
  .next (runLocal (.fscale w) s (fun e t =>
    let a := e.fa t w
    let b := (e.fb t w).toInt
    let (r, g) := perElem w.ty (fun k => fscale (arithFmt w.ty) (e.mode t (lo3 w.x) k) (elemOf w.ty a k) b)
    .ok ((e.advance t (lo3 w.x) (elems w.ty)).write (vnum w.d) r) g none))

/-- FDOT2. -/
def execFdot2 (w : F0) (s : State) : Host.Outcome State Fault Refusal :=
  .next (runLocal (.fdot2 w) s (fun e t =>
    let r := fdot2 (arithFmt w.ty) (e.mode t (lo3 w.x) 0) (e.fa t w).toNat (e.fb t w).toNat (e.fd t w).toNat
    .ok ((e.advance t (lo3 w.x) 1).write (vnum w.d) (BitVec.ofNat 32 r.code)) r.flags none))

/-- FDIV. -/
def execFdiv (w : F0) (s : State) : Host.Outcome State Fault Refusal := .next (floatLong (.fdiv w) w s (fun m a b => fdiv .f32 m a.toNat b.toNat))

/-- FSQRT. -/
def execFsqrt (w : F0) (s : State) : Host.Outcome State Fault Refusal := .next (floatLong (.fsqrt w) w s (fun m a _ => fsqrt .f32 m a.toNat))

/-- FMIN (08 R175). -/
def execFmin (w : F0) (s : State) : Host.Outcome State Fault Refusal := .next (floatPlain (.fmin w) w s (fun f a b => fminmax f false a b))

/-- FMAX. -/
def execFmax (w : F0) (s : State) : Host.Outcome State Fault Refusal := .next (floatPlain (.fmax w) w s (fun f a b => fminmax f true a b))

/-- FAMAX. -/
def execFamax (w : F0) (s : State) : Host.Outcome State Fault Refusal := .next (floatPlain (.famax w) w s famax)

/-- FSETP (08 R176). -/
def execFsetp (w : F0) (s : State) : Host.Outcome State Fault Refusal :=
  .next (runLocal (.fsetp w) s (fun e t =>
    let (r, g) := fcompare (lo3 w.x) (e.fa t w).toNat (e.fb t w).toNat
    .ok (t.setPred (pnum w.d) r) g none))

/-- FRND (08 R177). -/
def execFrnd (w : F0) (s : State) : Host.Outcome State Fault Refusal :=
  .next (runLocal (.frnd w) s (fun e t =>
    let a := e.fa t w
    let (r, g) := perElem w.ty (fun k => frnd (arithFmt w.ty) (e.mode t (lo3 w.x) k).near (elemOf w.ty a k))
    .ok (t.write (vnum w.d) r) g none))

/-- FCLASS. -/
def execFclass (w : F0) (s : State) : Host.Outcome State Fault Refusal :=
  .next (floatPlain (.fclass w) w s (fun f a _ => { code := fclass f a, flags := 0 }))

/-- FFREXP: x[0] selects the exponent. -/
def execFfrexp (w : F0) (s : State) : Host.Outcome State Fault Refusal :=
  .next (floatPlain (.ffrexp w) w s (fun _ a _ => ffrexp a (w.x.getLsbD 0)))

/-- FRCP (08 R178). -/
def execFrcp (w : F0) (s : State) : Host.Outcome State Fault Refusal := .next (floatLong (.frcp w) w s (fun _ a _ => sfuRcp a))

/-- FRSQ. -/
def execFrsq (w : F0) (s : State) : Host.Outcome State Fault Refusal := .next (floatLong (.frsq w) w s (fun _ a _ => sfuRsq a))

/-- FEXP2. -/
def execFexp2 (w : F0) (s : State) : Host.Outcome State Fault Refusal := .next (floatLong (.fexp2 w) w s (fun _ a _ => sfuExp2 a))

/-- FLOG2. -/
def execFlog2 (w : F0) (s : State) : Host.Outcome State Fault Refusal := .next (floatLong (.flog2 w) w s (fun _ a _ => sfuLog2 a))

/-- FSIN. -/
def execFsin (w : F0) (s : State) : Host.Outcome State Fault Refusal := .next (floatLong (.fsin w) w s (fun _ a _ => sfuSin a))

/-- FCOS. -/
def execFcos (w : F0) (s : State) : Host.Outcome State Fault Refusal := .next (floatLong (.fcos w) w s (fun _ a _ => sfuCos a))

/-- FTANH. -/
def execFtanh (w : F0) (s : State) : Host.Outcome State Fault Refusal := .next (floatLong (.ftanh w) w s (fun _ a _ => sfuTanh a))

/-- FSIGM. -/
def execFsigm (w : F0) (s : State) : Host.Outcome State Fault Refusal := .next (floatLong (.fsigm w) w s (fun _ a _ => sfuSigm a))

/-- Type of a pair half (02 R34). -/
def halfTy (h : Half) : Ty :=
  match h.ty.toNat with
  | 0 => .i32
  | 1 => .n32
  | 2 => .f32
  | 3 => .bf16x2
  | _ => .f16x2

/-- An integer half's result: A is dst, B is src or the sign-extended imm8 (02 R34, 08 R185). -/
def halfInt (op : Nat) (t : Ty) (a b : Word) : Word :=
  match op % 16 with
  | 0 => a + b
  | 1 => a - b
  | 2 => a * b
  | 3 => pickBy t false a b
  | 4 => pickBy t true a b
  | 5 => a &&& b
  | 6 => a ||| b
  | 7 => a ^^^ b
  | 8 => shlWord a b
  | 9 => shrWord a b
  | 10 => sarWord a b
  | _ => b

/-- A floating-point half's result on one element. -/
def halfFloat (op : Nat) (f : Fmt) (m : Mode) (a b : Nat) : FRes :=
  match op with
  | 0x10 => fadd f m a b
  | 0x11 => fsub f m a b
  | 0x12 => fmul f m a b
  | 0x13 => fminmax f false a b
  | 0x14 => fminmax f true a b
  | _ => famax f a b

/-- The half rounds its result: FADD, FSUB and FMUL. -/
def halfRounds (h : Half) : Bool := 0x10 ≤ h.op7.toNat && h.op7.toNat ≤ 0x12

/-- Source B of a half. -/
def halfB (e : Env) (t : Thread) (h : Half) : Word := if h.isImm then (h.src.signExtend 32) else e.v t h.src.toNat

/-- Elements a half rounds under RSR. -/
def halfSeqs (h : Half) : Nat := if halfRounds h then elems (halfTy h) else 0

/-- A half's result and flags; `k` elements of the word are rounded before it. -/
def halfResult (e : Env) (t : Thread) (k : Nat) (h : Half) : Word × Flags :=
  let a := e.v t h.dst.toNat
  let b := halfB e t h
  if h.isFloat then perElem (halfTy h) (fun j => halfFloat h.op7.toNat (arithFmt (halfTy h)) (e.mode t 0 (k + j)) (elemOf (halfTy h) a j) (elemOf (halfTy h) b j))
  else (halfInt h.op7.toNat (halfTy h) a b, 0)

/-- The tag of a half's src operand. -/
def halfTag (t : Thread) (h : Half) : Option (Nat × Word) := if h.isImm then none else t.tag h.src.toNat

/-- The half is ADD, SUB or MOV, whose tag rules are their own (10 R226): the symbols it concretises. -/
def halfPrepare (t : Thread) (h : Half) : Thread :=
  let op := h.op7.toNat % 64
  if h.isFloat then t.concretiseRegs h.reads
  else if op = 11 then t
  else if op ≤ 1 then
    let ta := t.tag h.dst.toNat
    let tb := halfTag t h
    if sumConcretises (op == 1) ta tb then (t.dropTag ta).dropTag tb else t
  else t.concretiseRegs h.reads

/-- The tag of a half's result (10 R226). -/
def halfResultTag (e : Env) (t : Thread) (h : Half) : Option (Nat × Word) :=
  let op := h.op7.toNat % 64
  if h.isFloat then none
  else if op = 11 then halfTag t h
  else if op ≤ 1 then sumTag (op == 1) (t.tag h.dst.toNat) (halfTag t h) (e.v t h.dst.toNat) (halfB e t h)
  else none

/-- A pair word (02 R34): both halves read before either writes; the low half, bits [30:0], rounds first (03 R80, log 36). -/
def execPair (h0 h1 : Half) (s : State) : Host.Outcome State Fault Refusal :=
  .next (runLocal (.pair h0 h1) s (fun e t =>
    let t0 := halfPrepare (halfPrepare t h0) h1
    let (r0, g0) := halfResult e t0 (halfSeqs h1) h0
    let (r1, g1) := halfResult e t0 0 h1
    let t1 := (t0.writeMaybe h0.dst.toNat r0 (halfResultTag e t0 h0)).writeMaybe h1.dst.toNat r1 (halfResultTag e t0 h1)
    .ok (e.advance t1 0 (halfSeqs h0 + halfSeqs h1)) (g0 ||| g1) none))

end Sys2Proof.Machine
end

