-- ==== Sys2Proof/Machine/Tensor.lean ====
section
/-! DEFINITION. Layout entries (spec/09 R195 to R199): their fields, their validity, where an element and its scales lie, and the pages a window covers (14 R332). Pure functions of the entry and the coordinates. -/

namespace Sys2Proof.Machine

/-- Bits of an element code; 0 for the reserved one (09 R195). -/
def elemBits (c : Nat) : Nat := [8, 8, 16, 16, 32, 32, 32, 16, 16, 8, 8, 4, 4, 4, 4].getD c 0

/-- A layout entry (09 R196). -/
structure Lay where
  base : Nat
  wrap : Nat
  swzShift : Nat
  swzBits : Nat
  scale : Nat
  splitDim : Nat
  split : Bool
  fmt2 : Nat
  fmt : Nat
  space : Nat
  rank : Nat
  ext : List Nat
  splitAt : Nat
  stride : List Nat
  scaleBase : Nat
  reserved : Nat
  deriving DecidableEq, Repr

/-- An entry read from its 64 bytes (09 R196). -/
def Lay.ofBits (e : BitVec 512) : Lay :=
  let w (k : Nat) : Nat := bits e (32 * k + 31) (32 * k)
  { base := bits e 56 0, wrap := bits e 94 90, swzShift := bits e 89 86, swzBits := bits e 85 83, scale := bits e 82 81, splitDim := bits e 80 78, split := e.getLsbD 77,
    fmt2 := bits e 76 73, fmt := bits e 72 69, space := bits e 68 67, rank := bits e 66 64, ext := [w 4, w 5, w 6, w 7, w 8], splitAt := w 9, stride := [0, w 10, w 11, w 12, w 13],
    scaleBase := bits e 504 448, reserved := bits e 63 57 + bits e 127 95 + bits e 511 505 }

/-- Extent of a dimension. -/
def Lay.extent (e : Lay) (i : Nat) : Nat := e.ext.getD i 0

/-- Step of a dimension, in bytes. -/
def Lay.step (e : Lay) (i : Nat) : Nat := 16 * e.stride.getD i 0

/-- Coordinate i is taken modulo its extent. -/
def Lay.wraps (e : Lay) (i : Nat) : Bool := e.wrap.testBit i

/-- Validity (09 R197). -/
def Lay.valid (e : Lay) : Bool :=
  let wide := Nat.max (elemBits e.fmt) (if e.split then elemBits e.fmt2 else 0)
  decide (1 ≤ e.rank ∧ e.rank ≤ 5) && decide (e.space ≠ 3) && decide (e.fmt ≠ 15) && (!e.split || !([15, 11, 12].contains e.fmt2))
    && (e.scale != 1 || e.fmt == 11) && (e.scale != 2 || e.fmt == 12) && (e.scale != 3 || (e.split && (e.fmt == 9 || e.fmt == 10))) && (e.fmt != 12 || e.scale == 2)
    && (!e.split || (e.splitDim != 0 && decide (e.splitDim < e.rank))) && decide (e.swzBits ≤ 3) && (e.swzBits == 0 || e.space != 0)
    && (List.range 5).all (fun i => if i < e.rank then decide (e.extent i ≠ 0) else decide (e.extent i = 0 ∧ e.step i = 0))
    && (decide (e.rank < 2) || decide (e.extent 0 * wide ≤ e.step 1 * 8)) && (e.scale != 0 || e.scaleBase == 0)
    && e.base % (if e.swzBits = 0 then 16 else 128) == 0 && e.scaleBase % 64 == 0 && e.reserved == 0

/-- Coordinate x of dimension i, wrapped and checked (09 R198). -/
def Lay.coord (e : Lay) (i x : Nat) : Option Nat := if e.wraps i then some (x % e.extent i) else if x < e.extent i then some x else none

/-- Coordinates of dimensions 1 and above, wrapped and checked; dimension 0 stands as 0. -/
def Lay.row (e : Lay) (c : List Nat) : Option (List Nat) :=
  ((List.range (e.rank - 1)).mapM (fun i => e.coord (i + 1) (c.getD (i + 1) 0))).map (fun l => 0 :: l)

/-- The element code of a row (09 R198). -/
def Lay.rowFmt (e : Lay) (xx : List Nat) : Nat := if e.split && decide (e.splitAt ≤ xx.getD e.splitDim 0) then e.fmt2 else e.fmt

/-- Swizzle of an address (09 R198); in quad scratchpad it acts on the offset alone. -/
def Lay.swz (e : Lay) (a : Nat) : Nat :=
  if e.swzBits = 0 then a
  else
    let hi := if e.space = 2 then a / 2 ^ 24 * 2 ^ 24 else 0
    let o := a - hi
    hi + (o ^^^ (((o >>> 7) >>> e.swzShift % 2 ^ e.swzBits) <<< 4))

/-- Byte offset of a row from BASE. -/
def Lay.rowOffset (e : Lay) (xx : List Nat) : Nat := ((List.range (e.rank - 1)).map (fun i => xx.getD (i + 1) 0 * e.step (i + 1))).foldl (fun a b => a + b) 0

/-- Where a unit lies: its address, the bit within its byte, its width in bits. -/
structure UnitLoc where
  addr : Nat
  bit : Nat
  width : Nat
  deriving DecidableEq, Repr

/-- elem_loc of 09 R198: element j of the row named by c; none is OUT. -/
def Lay.elemLoc (e : Lay) (c : List Nat) (j : Nat) : Option UnitLoc :=
  match e.coord 0 (c.getD 0 0 + j), e.row c with
  | some x0, some xx =>
    let w := elemBits (e.rowFmt xx)
    let bit := 8 * e.rowOffset xx + x0 * w
    some { addr := e.swz (e.base + bit / 8), bit := bit % 8, width := w }
  | _, _ => none

/-- Elements in a block: 32 for MX, 64 for QN4 (09 R199). -/
def Lay.blockLen (e : Lay) : Nat := if e.scale = 1 then 32 else 64

/-- Blocks of a row. -/
def Lay.blocks (e : Lay) : Nat := (e.extent 0 + e.blockLen - 1) / e.blockLen

/-- Bytes of a row of block scales. -/
def Lay.srow (e : Lay) : Nat := 16 * ((e.blocks + 15) / 16)

/-- Superscales of a row. -/
def Lay.supers (e : Lay) : Nat := (e.blocks + 255) / 256

/-- Bytes of a row of superscales. -/
def Lay.ssrow (e : Lay) : Nat := 16 * ((4 * e.supers + 15) / 16)

/-- Rows of the tensor. -/
def Lay.nrows (e : Lay) : Nat := ((List.range (e.rank - 1)).map (fun i => e.extent (i + 1))).foldl (fun a b => a * b) 1

/-- Start of the superscales. -/
def Lay.ssbase (e : Lay) : Nat := e.scaleBase + 64 * ((e.nrows * e.srow + 63) / 64)

/-- The row index ρ (09 R199). -/
def Lay.rho (e : Lay) (xx : List Nat) : Nat :=
  xx.getD 1 0 + e.extent 1 * (xx.getD 2 0 + e.extent 2 * (xx.getD 3 0 + e.extent 3 * xx.getD 4 0))

/-- The row carries a scale: it lies below SPLITAT, or there is no split (09 R199). -/
def Lay.scaled (e : Lay) (xx : List Nat) : Bool := !(e.split && decide (e.splitAt ≤ xx.getD e.splitDim 0))

/-- Scale k of a row (09 R199): view 1 the block or channel scales, view 2 the superscales. -/
def Lay.scaleLoc (e : Lay) (c : List Nat) (view k : Nat) : Option UnitLoc :=
  match e.row c with
  | none => none
  | some xx =>
    if !e.scaled xx then none
    else if view = 1 ∧ e.scale = 3 then (e.coord 0 k).map (fun x => { addr := e.scaleBase + 4 * x, bit := 0, width := 32 })
    else if view = 1 then (if k < e.blocks then some { addr := e.scaleBase + e.rho xx * e.srow + k, bit := 0, width := 8 } else none)
    else if k < e.supers then some { addr := e.ssbase + e.rho xx * e.ssrow + 4 * k, bit := 0, width := 32 }
    else none

/-- Width of the units a view moves (09 R202); a row out of bounds takes the format its raw coordinate selects. -/
def Lay.unitBits (e : Lay) (c : List Nat) (view : Nat) : Nat :=
  match view with
  | 0 => elemBits (e.rowFmt ((e.row c).getD c))
  | 1 => if e.scale = 3 then 32 else 8
  | _ => 32

/-- Unit j of a view at coordinates c (09 R202). -/
def Lay.unitLoc (e : Lay) (c : List Nat) (view j : Nat) : Option UnitLoc := if view = 0 then e.elemLoc c j else e.scaleLoc c view (c.getD 0 0 + j)

/-- Runs of wrapped coordinates that a window covers in one dimension: first coordinate and count (09 R203). -/
def Lay.runs (e : Lay) (i o n : Nat) : List (Nat × Nat) :=
  let x := e.extent i
  if n = 0 then []
  else if e.wraps i then (if x ≤ n then [(0, x)] else if o % x + n ≤ x then [(o % x, n)] else [(o % x, x - o % x), (0, o % x + n - x)])
  else if x ≤ o then []
  else [(o, Nat.min n (x - o))]

/-- A run cut where the split coordinate is. -/
def cutRun (at_ : Nat) (r : Nat × Nat) : List (Nat × Nat) :=
  if at_ ≤ r.1 ∨ r.1 + r.2 ≤ at_ then [r] else [(r.1, at_ - r.1), (at_, r.1 + r.2 - at_)]

/-- A page put in a rising list without repeats. -/
def insertPage (p : Nat) : List Nat → List Nat
  | [] => [p]
  | q :: t => if p < q then p :: q :: t else if p = q then q :: t else q :: insertPage p t

/-- The lowest 256 pages of two lists. -/
def mergePages (a b : List Nat) : List Nat := (b.foldl (fun l p => insertPage p l) a).take 256

/-- The lowest 256 pages of a set of addresses base + Σ k × step + [0, w), steps over 64 KiB, the largest first: index k of a step begins above every earlier one, so no more than 256 count. -/
def sparsePages : List (Nat × Nat) → Nat → Nat → List Nat
  | [], base, w => if w = 0 then [] else (List.range (Nat.min 256 ((base + w - 1) / 65536 - base / 65536 + 1))).map (fun k => base / 65536 + k)
  | (step, n) :: rest, base, w =>
    (List.range (Nat.min n 256)).foldl (fun acc k =>
      if acc.length = 256 ∧ acc.getLastD 0 < (base + k * step) / 65536 then acc else mergePages acc (sparsePages rest (base + k * step) w)) []

/-- Steps put in rising order. -/
def sortSteps (l : List (Nat × Nat)) : List (Nat × Nat) := l.foldl (fun a e => insertKey e.1 e.2 a) []

/-- Steps no longer than a page, or than what is covered, widen the covered interval; what is left is sparse. -/
def densePages : List (Nat × Nat) → Nat → Nat → List Nat
  | [], base, w => sparsePages [] base w
  | (step, n) :: rest, base, w =>
    if step ≤ Nat.max 65536 w then densePages rest base ((n - 1) * step + w)
    else sparsePages ((step, n) :: rest).reverse base w

/-- The lowest 256 pages of a box of rows: steps and counts above dimension 0, a start and the bytes of a row. -/
def boxPages (steps : List (Nat × Nat)) (base w : Nat) : List Nat := if w = 0 then [] else densePages (sortSteps (steps.filter (fun e => 1 < e.2))) base w

/-- Choices of one run per dimension. -/
def runBoxes : List (List (Nat × Nat)) → List (List (Nat × Nat))
  | [] => [[]]
  | l :: rest => l.flatMap (fun r => (runBoxes rest).map (fun b => r :: b))

/-- The covering set of a window, kept to 256 pages (14 R332): the elements in bounds and the scale bytes of their rows. -/
def Lay.coverPages (e : Lay) (org len : List Nat) : List Nat :=
  if e.space ≠ 0 ∨ (List.range e.rank).any (fun i => len.getD i 0 == 0) then []
  else
    let dim (i : Nat) : List (Nat × Nat) :=
      let r := e.runs i (org.getD i 0) (len.getD i 0)
      if e.split && i == e.splitDim then r.flatMap (cutRun e.splitAt) else r
    let boxes := runBoxes ((List.range e.rank).map dim)
    boxes.foldl (fun acc b =>
      let at_ (i : Nat) : Nat × Nat := b.getD i (0, 1)
      let xx := (List.range e.rank).map (fun i => (at_ i).1)
      let w := elemBits (e.rowFmt xx)
      let lo := (at_ 0).1 * w / 8
      let hi := (((at_ 0).1 + (at_ 0).2) * w + 7) / 8
      let ups := (List.range (e.rank - 1)).map (fun i => i + 1)
      let a1 := mergePages acc (boxPages (ups.map (fun i => (e.step i, (at_ i).2))) (e.base + e.rowOffset xx + lo) (hi - lo))
      if e.scale = 0 ∨ !e.scaled xx then a1
      else if e.scale = 3 then mergePages a1 (boxPages [] e.scaleBase (4 * e.extent 0))
      else
        let mult (i : Nat) : Nat := ((List.range (i - 1)).map (fun k => e.extent (k + 1))).foldl (fun x y => x * y) 1
        let a2 := mergePages a1 (boxPages (ups.map (fun i => (e.srow * mult i, (at_ i).2))) (e.scaleBase + e.rho xx * e.srow) e.blocks)
        if e.scale = 2 then mergePages a2 (boxPages (ups.map (fun i => (e.ssrow * mult i, (at_ i).2))) (e.ssbase + e.rho xx * e.ssrow) (4 * e.supers)) else a2) []

end Sys2Proof.Machine
end

