-- ==== Sys2Proof/Machine/Layout.lean ====
section
/-! DEFINITION. The layout table and its instructions, tensor loads and stores, tensor prefetch, and bindings (spec/09 R200 to R206). -/

namespace Sys2Proof.Machine

/-- LAYOUT_INVALID of an entry (16 R356). -/
def Issue.badLayout (i : Issue) (n : Nat) : TFault := i.bad 0x07 (BitVec.ofNat 64 n)

/-- Bytes written to a table of the context by an instruction, with what becomes of the L1 lines that hold them in every core; none while an exclusive attempt of another party holds their line (10 R237). -/
def State.tablePut (s : State) (core ctx : Nat) (va : Dword) (bs : List Byte) (who : Party) (f : L1Line → Option L1Line) : Option State :=
  match s.route ctx va.toNat .store with
  | .ok l =>
    if s.locHeld core l who then none
    else
      let s1 := s.devPut (dieOf core) ctx l bs
      some { s1 with cores := s1.cores.map (fun (c : Nat × CoreSt) => (c.1, { c.2 with l1 := c.2.l1.filterMap (fun (x : L1Line) => if x.ctx == ctx && x.line == va.toNat / 128 then f x else some x) })) }
  | .error _ => some s

/-- A layout entry written: every cached copy is invalidated (09 R200). -/
def State.layoutWrite (s : State) (core ctx : Nat) (va : Dword) (bs : List Byte) (who : Party) : Option State := s.tablePut core ctx va bs who (fun _ => none)

/-- A binding entry written: every cached copy is updated (09 R205, R206). -/
def State.bindWrite (s : State) (core ctx : Nat) (va : Dword) (bs : List Byte) (who : Party) : Option State :=
  s.tablePut core ctx va bs who (fun x => some { x with bytes := x.bytes.write (va.toNat % 128) bs })

/-- A table entry can be written: the fault otherwise (04 R96). -/
def State.tableStoreFault (s : State) (ctx : Nat) (va : Dword) : Option TFault :=
  match s.route ctx va.toNat .store with
  | .ok _ => none
  | .error f => some (.page va.toNat 7 f)

/-- LTSET (09 R200). -/
def execLtset (w : F0) (s : State) : Host.Outcome State Fault Refusal :=
  .next (runWord (.ltset w) s (fun iss tid s1 => withThread iss tid s1 (fun e t =>
    let n := ltnum w.d
    let img := (List.range 16).flatMap (fun k => bytesOfNat (e.v t (vnum w.a + k)).toNat 4)
    let entry : BitVec 512 := BitVec.ofNat 512 (natOfBytes img)
    if entry ≠ 0 && !(Lay.ofBits entry).valid then .fault (iss.badLayout n)
    else
      match s1.tableStoreFault e.grp.ctx (s1.layoutAt e.grp.ctx n) with
      | some f => .fault f
      | none =>
        match s1.layoutWrite iss.core e.grp.ctx (s1.layoutAt e.grp.ctx n) img (some (iss.grp, tid)) with
        | none => .hold s1
        | some s2 => .done s2 none)))

/-- LTGET (09 R200). -/
def execLtget (w : F0) (s : State) : Host.Outcome State Fault Refusal :=
  .next (runWord (.ltget w) s (fun iss tid s1 => withThread iss tid s1 (fun e _ =>
    match s1.layout e.grp.ctx (ltnum w.a) with
    | .error f => .fault f
    | .ok x => .done (s1.modThread iss.grp tid (fun t => (List.range 16).foldl (fun a k => a.write (vnum w.d + k) (x.extractLsb' (32 * k) 32)) t)) none)))

/-- Bytes of W (09 R201). -/
def tensorWidth (x : BitVec 5) : Nat := 4 <<< lo2 x

/-- Coordinates in registers from n on. -/
def Env.coords (e : Env) (t : Thread) (n rank : Nat) : List Nat := (List.range rank).map (fun i => (e.v t (n + i)).toNat)

/-- A unit's location routed and checked in the entry's space (09 R202). -/
def Env.unitCheck (e : Env) (lay : Lay) (u : UnitLoc) (w : Want) (pg : Nat) : Except TFault Loc :=
  let size := Nat.max 1 (u.width / 8)
  if lay.space = 0 then
    if 2 ^ 57 ≤ u.addr then .error (e.iss.bad 0x06 (BitVec.ofNat 64 u.addr))
    else
      match e.s.route e.grp.ctx u.addr w with
      | .error f => .error (.page u.addr pg f)
      | .ok l => .ok l
  else if 2 ^ 32 ≤ u.addr then .error (e.iss.bad 0x06 (BitVec.ofNat 64 u.addr))
  else e.local lay.space (BitVec.ofNat 32 u.addr) size

/-- What LDT and STT find before they move data: the entry, the units with their checked locations, lowest first; the first failing test otherwise. DESIGN CHOICE (log 37): MISALIGNED is tested before any location, so also of a word whose units all lie out of bounds. -/
def Env.tensor (e : Env) (t : Thread) (w : F0) (want : Want) (pg : Nat) : Except TFault (Lay × Nat × List (Option (UnitLoc × Loc))) :=
  let lt := ltnum w.a
  match e.s.layout e.grp.ctx lt with
  | .error f => .error f
  | .ok x =>
    let lay := Lay.ofBits x
    let view := (w.x.extractLsb' 2 2).toNat
    if lay.rank = 0 ∨ lay.rank > 5 then .error (e.iss.badLayout lt)
    else if !lay.valid then .error (e.iss.badLayout lt)
    else if view = 1 ∧ lay.scale = 0 ∨ view = 2 ∧ lay.scale ≠ 2 then .error (e.iss.badLayout lt)
    else
      let c := e.coords t (vnum w.b) lay.rank
      let u := lay.unitBits c view
      let n := 8 * tensorWidth w.x / u
      if c.getD 0 0 * u % (8 * tensorWidth w.x) ≠ 0 then .error (e.iss.bad 0x05 (BitVec.ofNat 64 (((lay.unitLoc c view 0).map (fun z => z.addr)).getD 0)))
      else
        let locs := (List.range n).map (fun j => lay.unitLoc c view j)
        match locs.mapM (fun (o : Option UnitLoc) => (match o with
          | none => Except.ok none
          | some z => (e.unitCheck lay z want pg).map (fun l => some (z, l)) : Except TFault (Option (UnitLoc × Loc)))) with
        | .error f => .error f
        | .ok l =>
          match (if lay.space = 0 then l.findSome? (fun (o : Option (UnitLoc × Loc)) => o.bind (fun z => e.watch t z.1.addr (Nat.max 1 (z.1.width / 8)) (if pg = 0 then 0 else 1))) else none) with
          | some f => .error f
          | none => .ok (lay, u, l)

/-- Units loaded in order, each in its place of the result; none while a store of the thread is held back. -/
def Env.loadUnits (e : Env) (u : Nat) : List (Option (UnitLoc × Loc)) → Nat → State → Nat → Option (State × Nat)
  | [], _, s, acc => some (s, acc)
  | none :: rest, j, s, acc => e.loadUnits u rest (j + 1) s acc
  | some (z, l) :: rest, j, s, acc =>
    match ({ e with s := s } : Env).read l z.addr (Nat.max 1 (u / 8)) with
    | none => none
    | some (s1, bs) => e.loadUnits u rest (j + 1) s1 (acc + ((natOfBytes bs >>> z.bit) % 2 ^ u) <<< (u * j))

/-- A word whose registers reach as far as its entry's RANK says: a register past the frame faults every thread of the pack (09 R201, R203; 02 R43). -/
def runSpan (i : Instr) (w : F0) (span : Nat → Nat) (s : State) (body : Issue → Nat → State → Turnout) : State :=
  match s.issue.bind (fun iss => (s.group? iss.grp).map (fun g => (iss, g))) with
  | none => runWord i s body
  | some (iss, g) =>
    let legal := (wordFault i g.frame g.accs (s.corOf g) (((s.issuing iss).map (fun x => x.handler)).getD false)).isNone
    match s.layout g.ctx (ltnum w.a) with
    | .ok x =>
      let r := (Lay.ofBits x).rank
      if legal && decide (1 ≤ r ∧ r ≤ 5 ∧ g.frame < vnum w.b + span r) then faultPack iss 0x03 s else runWord i s body
    | .error _ => runWord i s body

/-- LDT (09 R202). -/
def execLdt (w : F0) (s : State) : Host.Outcome State Fault Refusal :=
  .next (runSpan (.ldt w) w id s (fun iss tid s1 => withThread iss tid s1 (fun e t =>
    match e.tensor t w .load 0 with
    | .error f => .fault f
    | .ok (_, u, locs) =>
      let n := tensorWidth w.x
      match locs.findSome? (fun (o : Option (UnitLoc × Loc)) => o.bind (fun z => if e.meetsPoison z.2 z.1.addr (Nat.max 1 (u / 8)) then some z.1.addr else none)) with
      | some va =>
        let bad (o : Option (UnitLoc × Loc)) : Bool := (o.map (fun z => e.meetsPoison z.2 z.1.addr (Nat.max 1 (u / 8)))).getD false
        let mask := (locs.zipIdx.map (fun (x : Option (UnitLoc × Loc) × Nat) => if bad x.1 then (2 ^ u - 1) <<< (u * x.2) else 0)).foldl (fun a b => a ||| b) 0
        match e.loadUnits u (locs.map (fun o => if bad o then none else o)) 0 s1 0 with
        | none => .hold s1
        | some (_, v) => .fault (e.poisonPart va n (lo2 w.x) (4 + lo2 w.x) w.la.toNat w.d mask v)
      | none =>
        match e.loadUnits u locs 0 s1 0 with
        | none => .hold s1
        | some (s2, v) => .done s2 (some { reg := vnum w.d, count := n / 4, value := BitVec.ofNat 128 v, tag := none, flags := 0 }))))

/-- Bytes that an STT stores at an address; `nibble` where one nibble alone is stored. -/
structure TensorRun where
  loc : Loc
  addr : Nat
  bytes : List Byte
  nibble : Option Bool

/-- A run with the unit after it, where both lie in one naturally aligned 16-byte part: stored as one (09 R188, R202). -/
def TensorRun.join (x y : TensorRun) : Option TensorRun :=
  match x.nibble, y.nibble with
  | none, none => if y.addr = x.addr + x.bytes.length ∧ x.addr / 16 = y.addr / 16 then some { x with bytes := x.bytes ++ y.bytes } else none
  | some false, some true => if x.addr = y.addr then some { x with bytes := [nibbleInto (x.bytes.headD 0) (y.bytes.headD 0) true], nibble := none } else none
  | _, _ => none

/-- A unit added to the runs before it, the latest first. -/
def pushRun : List TensorRun → TensorRun → List TensorRun
  | [], y => [y]
  | x :: rest, y =>
    match x.join y with
    | some z => pushRun rest z
    | none => y :: x :: rest

/-- STT (09 R202): a 4-bit unit changes its nibble alone; units side by side are stored together. -/
def execStt (w : F0) (s : State) : Host.Outcome State Fault Refusal :=
  .next (runSpan (.stt w) w id s (fun iss tid s1 => withThread iss tid s1 (fun e t =>
    match e.tensor t w .store 1 with
    | .error f => .fault f
    | .ok (_, u, locs) =>
      let n := tensorWidth w.x
      let data := natOfBytes (e.dataBytes t (vnum w.d) n)
      let units := locs.zipIdx.filterMap (fun (o : Option (UnitLoc × Loc) × Nat) => o.1.map (fun z =>
        let v := data >>> (u * o.2) % 2 ^ u
        ({ loc := z.2, addr := z.1.addr, bytes := if u = 4 then [BitVec.ofNat 8 (v + 16 * v)] else bytesOfNat v (u / 8), nibble := if u = 4 then some (z.1.bit == 4) else none } : TensorRun)))
      .done ((units.foldl pushRun []).reverse.foldl (fun (a : State) r => ({ e with s := a } : Env).store r.loc r.addr r.bytes r.nibble) s1) none)))

/-- TPREF (09 R203). -/
def execTpref (w : F0) (s : State) : Host.Outcome State Fault Refusal :=
  .next (runSpan (.tpref w) w (fun r => 5 + r) s (fun iss tid s1 => withThread iss tid s1 (fun e t =>
    match s1.layout e.grp.ctx (ltnum w.a) with
    | .error f => .fault f
    | .ok x =>
      let lay := Lay.ofBits x
      if lay.rank = 0 ∨ !lay.valid then .fault (iss.badLayout (ltnum w.a))
      else .done (s1.askPrefetch e.grp.ctx (lay.coverPages (e.coords t (vnum w.b) lay.rank) (e.coords t (vnum w.b + 5) lay.rank)) (w.x.getLsbD 0)) none)))

/-- Object of a binding (09 R204, R205): a barrier's code, or a lock word's address. -/
def Env.bindObj (e : Env) (t : Thread) (w : F0) : Dword := if (Operand.ofCode w.b).isBar then w.b.setWidth 64 else e.pair t (vnum w.b)

/-- KIND of a new binding. -/
def newBindKind (w : F0) : Nat := if (Operand.ofCode w.b).isBar then 1 else if w.x.getLsbD 3 then 3 else 2

/-- BIND (09 R205). -/
def execBind (w : F0) (s : State) : Host.Outcome State Fault Refusal :=
  .next (runWord (.bind w) s (fun iss tid s1 => withThread iss tid s1 (fun e t =>
    let base := e.pair t (vnum w.a)
    let len := (e.v t (vnum w.a + 2)).toNat
    let obj := e.bindObj t w
    let kind := newBindKind w
    if base.toNat % 128 ≠ 0 ∨ len = 0 ∨ len % 128 ≠ 0 then .fault (iss.bad 0x05 base)
    else if kind ≠ 1 ∧ obj.toNat % (if kind = 3 then 8 else 4) ≠ 0 then .fault (iss.bad 0x05 obj)
    else
      match s1.bindTable e.grp.ctx, s1.tableStoreFault e.grp.ctx (s1.ctx e.grp.ctx).bindBase with
      | .error f, _ => .fault f
      | _, some f => .fault f
      | .ok tab, none =>
        match (List.range 256).find? (fun k => bindKind tab k == 0) with
        | none => .done (s1.modThread iss.grp tid (fun x => x.write (vnum w.d) 0x80000001)) none
        | some k =>
          let bs := bytesOfNat (bits base 56 7 * 128) 8 ++ bytesOfNat (len / 128) 8 ++ bytesOfNat obj.toNat 8 ++ bytesOfNat (lo3 w.x * 4 + kind) 8
          match s1.bindWrite iss.core e.grp.ctx ((s1.ctx e.grp.ctx).bindBase + BitVec.ofNat 64 (32 * k)) bs (some (iss.grp, tid)) with
          | none => .hold s1
          | some s2 => .done (s2.modThread iss.grp tid (fun x => x.write (vnum w.d) (BitVec.ofNat 32 k))) none)))

/-- UNBIND (09 R206). -/
def execUnbind (w : F0) (s : State) : Host.Outcome State Fault Refusal :=
  .next (runWord (.unbind w) s (fun iss tid s1 => withThread iss tid s1 (fun e t =>
    let k := (e.v t (vnum w.a)).toNat
    if 256 ≤ k then .done s1 none
    else
      match s1.bindTable e.grp.ctx, s1.tableStoreFault e.grp.ctx (s1.ctx e.grp.ctx).bindBase with
      | .error f, _ => .fault f
      | _, some f => .fault f
      | .ok tab, none =>
        if bindKind tab k = 0 then .done s1 none
        else
          let va := (s1.ctx e.grp.ctx).bindBase + BitVec.ofNat 64 (32 * k + 0x18)
          match s1.bindWrite iss.core e.grp.ctx va [BitVec.ofNat 8 (tab.num (32 * k + 0x18) 1 - bindKind tab k)] (some (iss.grp, tid)) with
          | none => .hold s1
          | some s2 => .done s2 none)))

end Sys2Proof.Machine
end

