-- ==== Sys2Proof/Machine/Engine.lean ====
section
/-! DEFINITION. What the array, the vitrine loader, the drain unit and the copy channels share (spec/13 R282 to R300, R305, R328 of 14): the values of elements, accesses after submission, failure, and the completion of a command. -/

namespace Sys2Proof.Machine

/-- What stops an engine access (13 R300, 14 R328, R331): a page fault the command waits for, poisoned data, a retired member of the gang, a row pair that is not allowed. -/
inductive EngErr where
  | page (va : Nat) (f : PgFault)
  | poison (va : Nat)
  | gone
  | rows
  deriving DecidableEq, Repr

/-- REASON of ENGINE_ERROR (13 R305); for poisoned data the spec names none of the codes, and it is a free value (log 4). -/
def State.engReason (s : State) (e : EngErr) : Nat :=
  match e with
  | .page _ _ => 2
  | .poison _ => Config.pick s.choiceCtr % 256
  | .gone => 5
  | .rows => 1

/-- Where an engine access of a group's command lands (13 R300). -/
def State.engLoc (s : State) (gid : Nat) (g : Group) (space a : Nat) (w : Want) : Except EngErr Loc :=
  match space with
  | 1 => .ok (.cell gid a false)
  | 2 =>
    match s.member g (a / 2 ^ 24 % 4) with
    | some n => .ok (.cell n (a % 2 ^ 24) false)
    | none => .error .gone
  | _ =>
    match s.route g.ctx a w with
    | .error f => .error (.page a f)
    | .ok l => .ok l

/-- Bytes an engine reads, past every L1 (13 R303); `s` is the state as the engine reads it (`State.viewOf`). -/
def State.engRead (s : State) (gid : Nat) (g : Group) (space a n : Nat) : Except EngErr (List Byte) :=
  match s.engLoc gid g space a .load with
  | .error e => .error e
  | .ok l => if s.locPoisoned l then .error (.poison a) else .ok (s.currentBytes l n)

/-- A unit an engine reads; an OUT one is the value given. -/
def State.engUnit (s : State) (gid : Nat) (g : Group) (space : Nat) (u : Option UnitLoc) (out : Nat) : Except EngErr Nat :=
  match u with
  | none => .ok out
  | some z => (s.engRead gid g space z.addr ((z.width + 7) / 8)).map (fun bs => (natOfBytes bs >>> z.bit) % 2 ^ z.width)

/-- The value of an element code (09 R195; 03 R64 to R73). -/
def elemVal (code raw : Nat) : Val :=
  let int (n : Nat) (sg : Bool) : Val := if sg && decide (2 ^ (n - 1) ≤ raw % 2 ^ n) then .fin true (2 ^ n - raw % 2 ^ n) 0 else .fin false (raw % 2 ^ n) 0
  match code with
  | 0 => int 8 true
  | 1 => int 8 false
  | 2 => int 16 true
  | 3 => int 16 false
  | 4 => int 32 true
  | 5 => int 32 false
  | 6 => Fmt.f32.decode raw
  | 7 => Fmt.bf16.decode raw
  | 8 => Fmt.f16.decode raw
  | 9 => Fmt.e4m3n.decode raw
  | 10 => Fmt.e5m2n.decode raw
  | 11 => Fmt.e2m1.decode raw
  | 12 => qnVal (raw % 16)
  | 13 => int 4 true
  | _ => int 4 false

/-- The float format of an element code. -/
def elemFmt (code : Nat) : Fmt :=
  match code with
  | 7 => .bf16
  | 8 => .f16
  | 9 => .e4m3n
  | 10 => .e5m2n
  | 11 => .e2m1
  | _ => .f32

/-- An E8M0 scale (03 R69). -/
def e8m0 (b : Nat) : Val := if b % 256 = 255 then .nan false else .fin false 1 ((b % 256 : Nat) - 127)

/-- A scale used: a NaN raises INVALID and SCALENAN (03 R70, R75). -/
def scaleFlags (v : Val) : Flags := if v.isNan then flInvalid ||| flScalenan else 0

/-- The row's raw coordinates with dimension 1 moved on. -/
def rowCoords (c : List Nat) (i : Nat) : List Nat := c.set 1 (c.getD 1 0 + i)

/-- A row in bounds, and its format; none for a row that is OUT (09 R198). -/
def Lay.rowFmt? (e : Lay) (c : List Nat) : Option Nat := (e.row c).map e.rowFmt

/-- An element's MX block carries a scale in its row; else its scale is 1 (13 R304, 09 R199). -/
def Lay.mxScaled (e : Lay) (c : List Nat) : Bool := decide (e.scale = 1) && ((e.row c).map e.scaled).getD true

/-- Submission check of the units of a command (13 R289): the first that fails its space's checks. -/
def Env.checkUnits (e : Env) (lay : Lay) (us : List (Option UnitLoc)) (w : Want) (pg : Nat) : Option TFault :=
  us.findSome? (fun (o : Option UnitLoc) => o.bind (fun u => match e.unitCheck lay u w pg with
    | .error f => some f
    | .ok _ => none))

/-- A barrier operand the group's kernel may name, or 0 for none (13 R286, R302). -/
def Env.barNameable (e : Env) (code : Nat) : Bool :=
  code == 0 || (decide (code < 2048) && (match Operand.ofCode (BitVec.ofNat 11 code) with
    | .gb _ | .qb _ => true
    | .db _ | .vb _ => e.s.corOf e.grp
    | _ => false))

/-- Accumulator a of a group, by row and column. -/
def Group.accGet (g : Group) (a i j : Nat) : Word := g.acc.get (4096 * a + 64 * i + j)

/-- Accumulator a read whole, by 64 i + j. -/
def Group.accRead (g : Group) (a : Nat) : Words := (g.acc.filter (fun e => 4096 * a ≤ e.1 && e.1 < 4096 * a + 4096)).map (fun e => (e.1 - 4096 * a, e.2))

/-- Accumulator a replaced whole. -/
def Group.accWrite (g : Group) (a : Nat) (v : Words) : Group :=
  { g with acc := g.acc.filter (fun e => e.1 < 4096 * a) ++ (v.filter (fun e => e.1 < 4096)).map (fun e => (e.1 + 4096 * a, e.2)) ++ g.acc.filter (fun e => 4096 * a + 4096 ≤ e.1) }

/-- Words from a list, by place. -/
def wordsOfList (l : List Word) : Words := l.zipIdx.foldl (fun w e => if e.1 = 0 then w else w ++ [(e.2, e.1)]) []

/-- An engine error's record reaches containment (13 R305): no thread is held. A group that has retired before its contribution failed is named all the same. -/
def State.engError (s : State) (c : EngCmd) (reason engine : Nat) : State :=
  let (seq, ch) := match c.follow with
    | some (q, h) => (q.toNat, h)
    | none => (0, 0)
  let f : TFault := .plain 0x24 0 (BitVec.ofNat 64 (seq <<< 32 ||| (reason % 256) <<< 24 ||| engine <<< 20 ||| ch <<< 18))
  match s.group? c.grp with
  | none =>
    let record : FaultRec := { kseq := c.kseq, route := 0, ctx := c.ctx, cls := 3, cause := 0x24, noThread := false, count := 1, first := c.tid, gidx := c.gidx, instAddr := c.pc, addr := 0, retry := 0, queue := c.qnum, laneMask := 0, extra := f.extra 0, time := BitVec.ofNat 64 s.ns, idx := 0, regTop := 0 }
    s.toContain c.ctx { record := record, grp := some c.grp, kern := some c.kern, tids := [], after := false, level := 0, engine := true }
  | some g =>
    let record := { s.faultRec g [] c.pc f 0 with first := c.tid, count := 1, noThread := false, regTop := ((g.threads[c.tid]?).map (fun (t : Thread) => t.regtop)).getD 0, retry := ((g.threads[c.tid]?).map (fun (t : Thread) => if t.retryAt = c.pc then t.retry else 0)).getD 0 }
    (s.tellFault g.core c.grp [c.tid] c.pc 0x24).toContain g.ctx { record := record, grp := some c.grp, kern := some g.kern, tids := [], after := false, level := 0, engine := true }

/-- Flags of a command raised into its group at completion (03 R82). -/
def State.engFlags (s : State) (gid : Nat) (fl : Flags) (pc : Dword) : State := if fl = 0 then s else s.modGroup gid (fun g => g.raise fl pc (s.clock g.core) 2)

/-- A command ends: its flags and its count on the barrier it names (13 R299); flags raised in the cycle of the flip wait for the next delivery point (03 R83). -/
def State.engDone (s : State) (c : EngCmd) (fl : Flags) (count : Nat) (glob : Bool) (ordered : Bool := false) : State :=
  let s1 := s.engFlags c.grp fl c.pc
  if c.bar = 0 then s1 else s1.barBytes c.owner c.bar count glob ordered

/-- The kernel, group and queue slot that a record of an engine access names (16 R354). -/
def State.whoOf (s : State) (c : EngCmd) : Word × Nat × Nat :=
  (((s.kern? c.kern).map (fun k => k.kseq)).getD c.kseq, ((s.group? c.grp).map (fun g => g.gidx)).getD c.gidx, ((s.kern? c.kern).map (fun k => k.slot)).getD c.qnum)

/-- A pending fault of an engine access is waited for (14 R328): the command with its wait. -/
def State.engWait (s : State) (c : EngCmd) (ctx : Nat) (va : Nat) (f : PgFault) : State × Nat := s.devFault ctx va 6 f (s.whoOf c)

/-- The record of poison that an engine has met (14 R331). -/
def State.engNote (s : State) (ctx : Nat) (x : EngErr) : State :=
  match x with
  | .poison va => s.poisonAt ctx va
  | _ => s

/-- A copy block (13 R302). -/
structure Blk where
  bar : Nat
  xform : Nat
  follow : Bool
  rank : Nat
  dstLt : Nat
  srcLt : Nat
  src : List Nat
  dst : List Nat
  ext : List Nat
  reserved : Nat
  deriving DecidableEq, Repr

/-- Its fields (13 R302). -/
def Blk.ofBits (b : BitVec 512) : Blk :=
  let w (k : Nat) : Nat := bits b (32 * k + 31) (32 * k)
  { bar := bits b 34 24, xform := bits b 23 20, follow := b.getLsbD 19, rank := bits b 18 16, dstLt := bits b 15 8, srcLt := bits b 7 0,
    src := [w 2, w 3, w 4, w 5, w 6], dst := [w 7, w 8, w 9, w 10, w 11],
    ext := [w 12, w 13, w 14 % 65536, w 14 / 65536, w 15 % 65536], reserved := bits b 63 35 + w 15 / 65536 }

/-- Extent of a dimension; 1 above RANK (13 R302). -/
def Blk.len (b : Blk) (i : Nat) : Nat := if i < b.rank then b.ext.getD i 0 else 1

/-- Row offsets of a copy, o1 varying fastest (13 R303). -/
def Blk.rows (b : Blk) : List (List Nat) :=
  (List.range (b.len 4)).flatMap (fun o4 => (List.range (b.len 3)).flatMap (fun o3 => (List.range (b.len 2)).flatMap (fun o2 => (List.range (b.len 1)).map (fun o1 => [0, o1, o2, o3, o4]))))

/-- Coordinates moved by an offset. -/
def addCoords (c o : List Nat) : List Nat := List.zipWith (fun x y => x + y) c o

/-- Units of a row's elements. -/
def Lay.rowUnits (e : Lay) (c : List Nat) (n : Nat) : List (Option UnitLoc) := (List.range n).map (fun j => e.elemLoc c j)

/-- Lines of global memory that an engine beside a core has read: they come through the die cache, and leave the host's filter (12 R275, 15 R342); a copy channel counts each of them once more (14 R317). -/
def State.engTouch (s : State) (core gid : Nat) (g : Group) (space : Nat) (us : List (Option UnitLoc)) (count : Nat) : State :=
  if space ≠ 0 then s
  else
    let spots := us.filterMap (fun u => u.bind (fun z => match s.engLoc gid g 0 z.addr .load with
      | .ok (.mem _ pa) => some (pa / 128, lineMask pa ((z.width + 7) / 8))
      | _ => none))
    (distinct (spots.map (fun x => x.1))).foldl (fun a l => (a.dirReadMask (dieOf core) l ((spots.filter (fun x => x.1 == l)).foldl (fun m x => m ||| x.2) 0)).countFrame (l * 128) count) s

/-- Where units land (12 R272): 0 and a physical address, or a group's scratchpad, its number after 0, and an offset. -/
def State.places (s : State) (gid : Nat) (g : Group) (space : Nat) (us : List (Option UnitLoc)) : List (Nat × Nat) :=
  us.filterMap (fun u => u.bind (fun z => match s.engLoc gid g space z.addr .load with
    | .ok (.mem _ pa) => some (0, pa)
    | .ok (.cell n o _) => some (n + 1, o)
    | _ => none))

/-- The lowest and highest of some numbers. -/
def hullOf (l : List Nat) : Option (Nat × Nat) :=
  l.foldl (fun a x => match a with
    | none => some (x, x)
    | some h => some (Nat.min h.1 x, Nat.max h.2 x)) none

/-- Places of units of 4 bytes at most that may share a byte: their hulls in one store do. -/
def placesMeet (a b : List (Nat × Nat)) : Bool :=
  (distinct (a.map (fun x => x.1))).any (fun k =>
    match hullOf ((a.filter (fun x => x.1 == k)).map (fun x => x.2)), hullOf ((b.filter (fun x => x.1 == k)).map (fun x => x.2)) with
    | some x, some y => decide (x.1 < y.2 + 4) && decide (y.1 < x.2 + 4)
    | _, _ => false)

/-- A copy that has written some of its bytes may still read a tile whose elements stand at some places: an add-on-store to the tile waits (12 R272). -/
def State.midCopy (s : State) (tile : List (Nat × Nat)) : Bool :=
  s.chains.any (fun k => match k.2.cmds with
    | [] => false
    | c :: _ =>
      let b := Blk.ofBits c.block
      let src := Lay.ofBits c.src
      c.started && (c.written != 0 || !c.ahead.isEmpty) && (match s.group? c.grp with
        | some g => placesMeet tile (s.places c.grp g src.space (b.rows.flatMap (fun o => src.rowUnits (addCoords b.src o) (b.len 0))))
        | none => false))

/-- No exclusive attempt of a thread inside its scope holds a line an engine beside a core writes (10 R237). -/
def State.engFree (s : State) (core : Nat) (l : Loc) : Bool := !s.locHeld core l none

end Sys2Proof.Machine
end

