-- ==== Sys2Proof/Machine/Matrix.lean ====
section
/-! DEFINITION. The matrix array, the vitrine loader and the drain unit (spec/13 R282 to R300; 03 R85, R86, R88, R90): the instructions that submit commands, and the events that complete them. -/

namespace Sys2Proof.Machine

/-- A format pair (13 R285): element code of A, element code of B, K; none for a reserved code. -/
def pairOf (p : Nat) : Option (Nat × Nat × Nat) :=
  [(7, 7, 32), (8, 8, 32), (9, 9, 64), (9, 10, 64), (10, 9, 64), (10, 10, 64), (0, 0, 64), (1, 1, 64), (0, 1, 64), (1, 0, 64), (7, 12, 64), (11, 11, 128), (13, 13, 128), (14, 14, 128)][p]?

/-- A tile bytes of a pair (13 R285). -/
def pairBytes (p : Nat) : Nat := if p = 10 then 8192 else 4096

/-- Fields of the MMA command word (13 R286). -/
def mcwScale (m : Dword) : Nat := bits m 47 32
def mcwBar (m : Dword) : Nat := bits m 27 17
def mcwSlot (m : Dword) : Nat := bits m 16 8
def mcwPair (m : Dword) : Nat := bits m 7 4
def mcwAcc (m : Dword) : Nat := bits m 3 0

/-- Units of the A tile, row by row (13 R288). -/
def Lay.tileUnits (e : Lay) (c : List Nat) (rows k : Nat) : List (Option UnitLoc) :=
  (List.range rows).flatMap (fun i => (List.range k).map (fun j => e.elemLoc (rowCoords c i) j))

/-- The block-scale byte of element k of a row (13 R288, 09 R199): 0x7F where the row carries no scale, 0 where it is OUT. -/
def Lay.mxUnit (e : Lay) (c : List Nat) (k : Nat) : Option UnitLoc × Nat :=
  if e.mxScaled c then (e.scaleLoc c 1 ((c.getD 0 0 + k) / 32), 0) else (none, 127)

/-- The submission check of MMA, and of a follow-on MMA against its destination (13 R289, R304): the first condition that fails. -/
def Env.mmaCheck (e : Env) (lt : Nat) (lay : Lay) (c : List Nat) (m : Dword) : Option TFault :=
  if lay.rank = 0 ∨ !lay.valid then some (e.iss.badLayout lt)
  else if lay.space ≠ 1 ∧ lay.space ≠ 2 then some (e.iss.badLayout lt)
  else
    match pairOf (mcwPair m) with
    | none => some (e.iss.bad 0x03 0)
    | some (fa, _, k) =>
      if e.grp.vslots ≤ mcwSlot m ∨ !e.barNameable (mcwBar m) ∨ bits m 63 48 ≠ 0 ∨ bits m 31 28 ≠ 0 ∨ (mcwPair m ≠ 11 ∧ mcwScale m ≠ 0) then some (e.iss.bad 0x03 0)
      else if (List.range 64).any (fun i => (lay.rowFmt? (rowCoords c i)).any (fun f => f != fa)) then some (e.iss.badLayout lt)
      else if c.getD 0 0 * elemBits fa % 8 ≠ 0 ∨ (mcwPair m = 11 ∧ c.getD 0 0 % 32 ≠ 0) then some (e.iss.bad 0x05 (BitVec.ofNat 64 (((lay.elemLoc c 0).map (fun u => u.addr)).getD 0)))
      else if mcwPair m = 11 ∧ e.grp.scratchBytes < mcwScale m * 16 + 256 then some (e.iss.bad 0x06 (BitVec.ofNat 64 (mcwScale m * 16)))
      else
        let scales := if mcwPair m = 11 then (List.range 64).flatMap (fun i => (List.range 4).map (fun b => (lay.mxUnit (rowCoords c i) (32 * b)).1)) else []
        e.checkUnits lay (lay.tileUnits c 64 k ++ scales) .load 0

/-- A blank command of a kind from the word being issued. -/
def Env.engCmd (e : Env) (kind : EngKind) (num : Nat) : EngCmd :=
  { num := num, kind := kind, ctx := e.grp.ctx, gidx := e.grp.gidx, qnum := ((e.s.kern? e.grp.kern).map (fun k => k.slot)).getD 0, kseq := ((e.s.kern? e.grp.kern).map (fun k => k.kseq)).getD 0, grp := e.iss.grp, kern := e.grp.kern, gang := e.grp.gang, die := dieOf e.iss.core, tid := e.tid, pc := e.iss.pc, acc := 0, slot := 0, entry := 0, coords := [], mcw := 0, ctl := 0, keep := 0, bar := 0, scope := 0,
    transpose := false, resEntry := 0, biasEntry := 0, key := 0, vals := [], follow := none, wait := none, lost := false }

/-- Fields of MDRAIN's control word (13 R294). -/
def drainMode (c : Word) : Nat := bits c 5 4
def drainRank (c : Word) : Nat := bits c 9 6
def drainRanks (c : Word) : Nat := bits c 14 10

/-- Coordinates of a command. -/
def EngCmd.at_ (c : EngCmd) : List Nat := c.coords.map (fun w => w.toNat)

/-- The count of a drain (13 R299). -/
def EngCmd.drainCount (c : EngCmd) : Nat :=
  if drainMode c.ctl ≠ 0 then 16384
  else
    let lay := Lay.ofBits c.entry
    (List.range 64).foldl (fun a r =>
      let f := (lay.rowFmt? (rowCoords c.at_ r)).getD lay.fmt
      a + 8 * elemBits f + (if f = 11 then 2 else if f = 12 then 1 else 0)) 0

/-- A drain at the head of the array queue reads its accumulator and leaves for the drain unit (13 R283, R294); as many times as there is one. An unstarted command of a killed group fails (13 R306). -/
def State.arrayAdvance (s : State) (core : Nat) : Nat → State
  | 0 => s
  | n + 1 =>
    let k := s.core core
    match k.arrayQ with
    | c :: rest =>
      if c.kind = .mdrain then
        let s1 := s.setCore core { k with arrayQ := rest }
        match s.group? c.grp with
        | none => s1.arrayAdvance core n
        | some g =>
          if g.killed.isSome then ((s1.engError c 6 2).engDone c 0 c.drainCount false).arrayAdvance core n
          else
            let s2 := s1.setCore core { s1.core core with drains := (s1.core core).drains ++ [{ c with vals := g.accRead c.acc }] }
            (if c.ctl.getLsbD 17 then s2.modGroup c.grp (fun x => x.accWrite c.acc []) else s2).arrayAdvance core n
      else s
    | [] => s

/-- A copy of the quad waits to put its follow-on MMA in this core's queue (13 R303). -/
def State.followWaits (s : State) (core : Nat) : Bool :=
  (List.range 4).any (fun ch => match (lookKey (4 * quadOf core + ch) s.chains).bind (fun c => c.follow) with
    | some f => ((s.group? f.grp).map (fun g => g.core == core)).getD false
    | none => false)

/-- A command put in the array queue; none while it is full (13 R283). -/
def State.arrayPut (s : State) (core : Nat) (c : EngCmd) : Option State :=
  let k := s.core core
  if 16 ≤ k.arrayQ.length then none
  else some ((s.setCore core { k with arrayQ := k.arrayQ ++ [{ c with num := k.engNum }], engNum := k.engNum + 1 }).arrayAdvance core 17)

/-- An instruction's submission to the array queue: held while it is full, or while a follow-on MMA is to take the next entry. -/
def Env.submit (e : Env) (c : EngCmd) : Turnout :=
  if e.s.followWaits e.iss.core then .hold e.s
  else
    match e.s.arrayPut e.iss.core c with
    | none => .hold e.s
    | some s1 => .done s1 none

/-- Accumulator number of an operand. -/
def accNum (c : Code) : Nat := match Operand.ofCode c with | .a n => n | _ => 0

/-- MMA (13 R287 to R289). -/
def execMma (w : F0) (s : State) : Host.Outcome State Fault Refusal :=
  .next (runWord (.mma w) s (fun iss tid s1 => withThread iss tid s1 (fun e t =>
    match s1.layout e.grp.ctx (ltnum w.a) with
    | .error f => .fault f
    | .ok x =>
      let c := e.coords t (vnum w.b) 5
      let m := e.pair t (vnum w.b + 6)
      match e.mmaCheck (ltnum w.a) (Lay.ofBits x) c m with
      | some f => .fault f
      | none => e.submit { e.engCmd .mma 0 with acc := accNum w.d, slot := mcwSlot m, entry := x, coords := e.coords t (vnum w.b) 5 |>.map (fun n => (BitVec.ofNat 32 n : Word)), mcw := m, bar := mcwBar m })))

/-- MZERO (13 R290). -/
def execMzero (w : F0) (s : State) : Host.Outcome State Fault Refusal :=
  .next (runWord (.mzero w) s (fun iss tid s1 => withThread iss tid s1 (fun e _ => e.submit { e.engCmd .mzero 0 with acc := accNum w.d })))

/-- MRNG (13 R290). -/
def execMrng (w : F0) (s : State) : Host.Outcome State Fault Refusal :=
  .next (runWord (.mrng w) s (fun iss tid s1 => withThread iss tid s1 (fun e t => .done (s1.modGroup iss.grp (fun g => { g with key := e.pair t (vnum w.a) })) none)))

/-- K of a slot format (13 R291). -/
def slotK (f : Nat) : Nat := if f = 12 then 64 else if elemBits f = 16 then 32 else if elemBits f = 8 then 64 else 128

/-- A source row's format is allowed for a slot format (13 R292). -/
def slotRowOk (f row : Nat) : Bool := row == f || (f == 7 && (row == 9 || row == 10))

/-- MLDB (13 R291, R292). -/
def execMldb (w : F0) (s : State) : Host.Outcome State Fault Refusal :=
  .next (runWord (.mldb w) s (fun iss tid s1 => withThread iss tid s1 (fun e t =>
    match s1.layout e.grp.ctx (ltnum w.a) with
    | .error f => .fault f
    | .ok x =>
      let lay := Lay.ofBits x
      let n := vnum w.b
      let c := e.coords t n 5
      let slot := (e.v t (n + 5)).toNat
      let ctl := e.v t (n + 6)
      let bar := (e.v t (n + 7)).toNat
      let f := bits ctl 3 0
      let tr := ctl.getLsbD 4
      let k := slotK f
      let rows := if tr then k else 64
      let cols := if tr then 64 else k
      if lay.rank = 0 ∨ !lay.valid then .fault (iss.badLayout (ltnum w.a))
      else if (2 ≤ f ∧ f ≤ 6) ∨ f = 15 ∨ (tr ∧ elemBits f = 4) ∨ bits ctl 31 5 ≠ 0 ∨ e.grp.vslots ≤ slot ∨ !e.barNameable bar then .fault (iss.bad 0x03 0)
      else if (List.range rows).any (fun i => (lay.rowFmt? (rowCoords c i)).any (fun r => !slotRowOk f r)) then .fault (iss.badLayout (ltnum w.a))
      else if (f = 12 ∧ c.getD 0 0 % 64 ≠ 0) ∨ (f = 11 ∧ c.getD 0 0 % 32 ≠ 0) ∨ (13 ≤ f ∧ c.getD 0 0 % 2 ≠ 0) then .fault (iss.bad 0x05 (BitVec.ofNat 64 (((lay.elemLoc c 0).map (fun u => u.addr)).getD 0)))
      else
        let scales := if f = 12 then (List.range 64).flatMap (fun i => [lay.scaleLoc (rowCoords c i) 1 (c.getD 0 0 / 64), lay.scaleLoc (rowCoords c i) 2 (c.getD 0 0 / 16384)])
          else if f = 7 ∧ lay.scale = 3 then (List.range rows).flatMap (fun i => if (lay.rowFmt? (rowCoords c i)).any (fun r => r != 7) then (List.range cols).map (fun j => lay.scaleLoc (rowCoords c i) 1 (c.getD 0 0 + j)) else [])
          else []
        match e.checkUnits lay (lay.tileUnits c rows cols ++ scales) .load 0 with
        | some z => .fault z
        | none =>
          let k0 := s1.core iss.core
          let cmd := { e.engCmd .mldb k0.engNum with slot := slot, entry := x, coords := c.map (fun q => (BitVec.ofNat 32 q : Word)), ctl := ctl, bar := bar, transpose := tr }
          .done (s1.setCore iss.core { k0 with loads := k0.loads ++ [cmd], engNum := k0.engNum + 1 }) none)))

/-- A destination row format a mode accepts (13 R296). -/
def drainRowOk (mode f : Nat) : Bool := if mode = 0 then decide (6 ≤ f ∧ f ≤ 12) else f == 6

/-- MDRAIN (13 R293 to R298). -/
def execMdrain (w : F0) (s : State) : Host.Outcome State Fault Refusal :=
  .next (runWord (.mdrain w) s (fun iss tid s1 => withThread iss tid s1 (fun e t =>
    let n := vnum w.b
    let c := e.coords t n 5
    let ctl := e.v t (n + 5)
    let two := e.v t (n + 6)
    let keep := e.v t (n + 7)
    let bar := (e.v t (n + 8)).toNat
    let entry (k : Nat) : Except TFault (BitVec 512) := s1.layout e.grp.ctx k
    match entry (ltnum w.a), (if ctl.getLsbD 0 then entry (bits two 7 0) else .ok 0), (if ctl.getLsbD 1 then entry (bits two 15 8) else .ok 0) with
    | .error f, _, _ => .fault f
    | _, .error f, _ => .fault f
    | _, _, .error f => .fault f
    | .ok x, .ok rx, .ok bx =>
      let lay := Lay.ofBits x
      let res := Lay.ofBits rx
      let bias := Lay.ofBits bx
      let mode := drainMode ctl
      let useRes := ctl.getLsbD 0
      let useBias := ctl.getLsbD 1
      let rows := (List.range 64).map (fun i => rowCoords c i)
      if lay.rank = 0 ∨ !lay.valid then .fault (iss.badLayout (ltnum w.a))
      else if useRes ∧ (res.rank = 0 ∨ !res.valid) then .fault (iss.badLayout (bits two 7 0))
      else if useBias ∧ (bias.rank = 0 ∨ !bias.valid) then .fault (iss.badLayout (bits two 15 8))
      else if bits ctl 31 18 ≠ 0 ∨ ctl.getLsbD 15 ∨ mode = 3 ∨ bits two 31 16 ≠ 0 ∨ bits keep 31 16 ≠ 0 ∨ !e.barNameable bar ∨ (mode = 2 ∧ (drainRanks ctl = 0 ∨ 16 < drainRanks ctl ∨ drainRanks ctl ≤ drainRank ctl)) then .fault (iss.bad 0x03 0)
      else if rows.any (fun r => (lay.rowFmt? r).any (fun f => !drainRowOk mode f)) ∨ (mode = 2 ∧ lay.space ≠ 0) then .fault (iss.badLayout (ltnum w.a))
      else if useRes ∧ rows.any (fun r => (res.rowFmt? r).any (fun f => f != 6 && f != 7 && f != 8)) then .fault (iss.badLayout (bits two 7 0))
      else if useBias ∧ (bias.rowFmt? [0, 0, 0, 0, 0]).any (fun f => f != 6 && f != 7) then .fault (iss.badLayout (bits two 15 8))
      else if rows.any (fun r => (lay.rowFmt? r).any (fun f => (f == 11 && c.getD 0 0 % 32 != 0) || (f == 12 && c.getD 0 0 % 64 != 0))) then .fault (iss.bad 0x05 (BitVec.ofNat 64 (((lay.elemLoc c 0).map (fun u => u.addr)).getD 0)))
      else
        let chans := if lay.scale = 3 then rows.flatMap (fun r => (List.range 64).map (fun j => lay.scaleLoc r 1 (c.getD 0 0 + j))) else []
        let blocks := if lay.scale = 1 then rows.flatMap (fun r => [lay.scaleLoc r 1 (c.getD 0 0 / 32), lay.scaleLoc r 1 (c.getD 0 0 / 32 + 1)]) else if lay.scale = 2 then rows.map (fun r => lay.scaleLoc r 1 (c.getD 0 0 / 64)) else []
        let supers := if lay.scale = 2 then rows.map (fun r => lay.scaleLoc r 2 (c.getD 0 0 / 16384)) else []
        match e.checkUnits lay (lay.tileUnits c 64 64 ++ blocks) .store 1 with
        | some z => .fault z
        | none =>
          match e.checkUnits lay (chans ++ supers) .load 0 with
          | some z => .fault z
          | none =>
            match (if useRes then e.checkUnits res (res.tileUnits c 64 64) .load 0 else none), (if useBias then e.checkUnits bias ((List.range 64).map (fun j => bias.elemLoc [0, 0, 0, 0, 0] j)) .load 0 else none) with
            | some z, _ => .fault z
            | _, some z => .fault z
            | none, none =>
              e.submit { e.engCmd .mdrain 0 with acc := accNum w.d, entry := x, coords := c.map (fun q => (BitVec.ofNat 32 q : Word)), ctl := ctl, keep := keep, bar := bar, scope := lo3 w.x, transpose := w.x.getLsbD 3, resEntry := rx, biasEntry := bx, key := e.grp.key })))

/-- A BF16 operand that is subnormal enters the array as a zero of its sign (03 R65). -/
def arrayVal (code raw : Nat) : Val :=
  if code = 7 ∧ raw / 128 % 256 = 0 then .fin (decide (2 ^ 15 ≤ raw % 65536)) 0 0 else elemVal code raw

/-- Column j of a slot as one number (13 R284). -/
def slotColumn (slot : Mem) (code j : Nat) : Nat := if code = 12 then slot.num (32 * j) 32 else slot.num (64 * j) 64

/-- The elements of column j of B (13 R288), with the flags of its scales. -/
def slotVals (slot : Mem) (code k j : Nat) (scales : List Nat) : List Val × Flags :=
  let col := slotColumn slot code j
  let w := elemBits code
  let el (i : Nat) : Val := arrayVal code (col >>> (w * i) % 2 ^ w)
  if code = 11 then
    ((List.range k).map (fun i => ((el i).times (e8m0 (scales.getD (i / 32) 0))).1), scales.foldl (fun f x => f ||| scaleFlags (e8m0 x)) 0)
  else ((List.range k).map el, 0)

/-- One K-chunk added to an accumulator element (03 R85, R86). -/
def mmaStep (a b : List Val) (scale : Option (Val × Val)) (c : Word) : Word × Flags :=
  let ps := List.zipWith (fun x y => ((x.times y).1, (x.times y).2)) a b
  let fl := ps.foldl (fun f p => f ||| p.2) (sigFlags (a ++ b))
  let (t0, f0) := sumVals .rne (ps.map (fun p => p.1))
  let (t, f1) : Val × Flags := match scale with
    | none => (t0, 0)
    | some (s, sup) => if s.isNan || sup.isNan then (.nan false, flInvalid ||| flScalenan) else
      let (u, g) := t0.times s
      let (v, h) := u.times sup
      (v, g ||| h)
  let r := roundVal .f32 .rne t
  let q := fadd .f32 .rne c.toNat r.code
  (BitVec.ofNat 32 q.code, fl ||| f0 ||| f1 ||| r.flags ||| q.flags)

/-- MMA over the operands as read (13 R288): the accumulator's new words and the flags. `rows` are A's rows, `bs` B's columns with their QN4 scales. -/
def mmaTile (rows : List (List Val)) (bs : List (List Val × Option (Val × Val))) (acc : Words) : Words × Flags :=
  let out := rows.zipIdx.flatMap (fun r => bs.zipIdx.map (fun b => mmaStep r.1 b.1.1 b.1.2 (acc.get (64 * r.2 + b.2))))
  (wordsOfList (out.map (fun x => x.1)), out.foldl (fun f x => f ||| x.2) 0)

/-- An element list read by an engine. -/
def State.engVals (s : State) (gid : Nat) (g : Group) (lay : Lay) (us : List (Option UnitLoc)) (f : Nat) : Except EngErr (List Val) :=
  us.mapM (fun (u : Option UnitLoc) => (s.engUnit gid g lay.space u 0).map (fun raw => arrayVal f raw))

/-- What MMA computes (13 R288): the accumulator's new words and the flags. -/
def State.mmaRun (s : State) (c : EngCmd) (g : Group) : Except EngErr (Words × Flags) :=
  match pairOf (mcwPair c.mcw) with
  | none => .error .rows
  | some (fa, fb, k) =>
    let lay := Lay.ofBits c.entry
    let slot := g.vitrine.slice (4096 * c.slot) 4096
    let row (i : Nat) : Except EngErr (List Val × Flags) :=
      let rc := rowCoords c.at_ i
      match s.engVals c.grp g lay ((List.range k).map (fun j => lay.elemLoc rc j)) fa with
      | .error x => .error x
      | .ok vs =>
        if fa = 11 then
          match (List.range 4).mapM (fun b => let u := lay.mxUnit rc (32 * b); s.engUnit c.grp g lay.space u.1 u.2) with
          | .error x => .error x
          | .ok sc => .ok (vs.zipIdx.map (fun v => (v.1.times (e8m0 (sc.getD (v.2 / 32) 0))).1), sc.foldl (fun f x => f ||| scaleFlags (e8m0 x)) 0)
        else .ok (vs, 0)
    match (List.range 64).mapM row with
    | .error x => .error x
    | .ok rows =>
      let bs := (List.range 64).map (fun j =>
        let sc := if fb = 11 then (s.scratchRead c.grp (16 * mcwScale c.mcw + 4 * j) 4).map (fun b => b.toNat) else []
        let col := slotVals slot fb k j sc
        let q : Option (Val × Val) := if fb = 12 then some (Fmt.e4m3n.decode (slot.num (2048 + j) 1), Fmt.f32.decode (slot.num (2112 + 4 * j) 4)) else none
        ((col.1, q), col.2))
      let (w, fl) := mmaTile (rows.map (fun r => r.1)) (bs.map (fun b => b.1)) (g.accRead c.acc)
      .ok (w, (rows.map (fun r => r.2) ++ bs.map (fun b => b.2)).foldl (fun f x => f ||| x) fl)

/-- A failed MMA leaves its accumulator undefined (13 R300). -/
def Group.accFree (g : Group) (a ctr : Nat) : Group := g.accWrite a (wordsOfList ((List.range 4096).map (fun i => Config.freeWord ctr i)))

/-- The head of the array queue leaves it. -/
def State.arrayPop (s : State) (core : Nat) : State := s.setCore core { s.core core with arrayQ := (s.core core).arrayQ.drop 1 }

/-- The head of the array queue fails (13 R300, R305, R306). -/
def State.mmaFail (s : State) (core : Nat) (c : EngCmd) (reason : Nat) : State :=
  let s1 := (s.arrayPop core).modGroup c.grp (fun g => g.accFree c.acc s.choiceCtr)
  ((s1.engError c reason 0).engDone c 0 (pairBytes (mcwPair c.mcw)) false).arrayAdvance core 17

/-- MMA_COMPLETE (13 R283, R288): the MMA at the head of the array queue writes its accumulator, once every earlier load of its slot has completed. -/
def execMmaComplete (core : Nat) (s : State) : Host.Outcome State Fault Refusal :=
  .next (
    match (s.core core).arrayQ with
    | c :: _ =>
      if c.kind ≠ .mma ∨ c.wait.isSome then s
      else if (s.core core).loads.any (fun l => l.grp == c.grp && l.slot == c.slot && decide (l.num < c.num)) then s
      else
        match s.group? c.grp with
        | none => s.arrayPop core
        | some g =>
          if g.killed.isSome then s.mmaFail core c 6
          else if c.lost then s.mmaFail core c 2
          else
            match s.mmaRun c g with
            | .error (.page va f) =>
              let (s1, n) := s.engWait c g.ctx va f
              s1.setCore core { s1.core core with arrayQ := { c with wait := some n } :: (s1.core core).arrayQ.drop 1 }
            | .error x => (s.mmaFail core c (s.engReason x)).engNote g.ctx x
            | .ok (w, fl) =>
              (((s.arrayPop core).modGroup c.grp (fun x => x.accWrite c.acc w)).engDone c fl (pairBytes (mcwPair c.mcw)) false).arrayAdvance core 17
    | [] => s)

/-- MZERO_COMPLETE (13 R290). -/
def execMzeroComplete (core : Nat) (s : State) : Host.Outcome State Fault Refusal :=
  .next (
    match (s.core core).arrayQ with
    | c :: _ =>
      if c.kind ≠ .mzero then s
      else
        match s.group? c.grp with
        | none => s.arrayPop core
        | some g =>
          if g.killed.isSome then ((s.arrayPop core).engError c 6 0).arrayAdvance core 17
          else ((s.arrayPop core).modGroup c.grp (fun x => x.accWrite c.acc [])).arrayAdvance core 17
    | [] => s)

/-- What MLDB puts in its slot (13 R291, R292): 4,096 bytes and the flags. -/
def State.mldbRun (s : State) (c : EngCmd) (g : Group) : Except EngErr (List Byte × Flags) :=
  let lay := Lay.ofBits c.entry
  let f := bits c.ctl 3 0
  let k := slotK f
  let w := elemBits f
  let rows := if c.transpose then k else 64
  let cols := if c.transpose then 64 else k
  let el (rc : List Nat) (j : Nat) : Except EngErr (Nat × Flags) :=
    match lay.elemLoc rc j with
    | none => .ok (if f = 12 then 7 else 0, 0)
    | some u =>
      match s.engUnit c.grp g lay.space (some u) 0 with
      | .error x => .error x
      | .ok raw =>
        let rf := (lay.rowFmt? rc).getD f
        if rf = f then .ok (raw, 0)
        else
          let chan := lay.scale == 3 && ((lay.row rc).map lay.scaled).getD false
          match (if chan then (s.engUnit c.grp g lay.space (lay.scaleLoc rc 1 (rc.getD 0 0 + j)) 0).map (fun b => Fmt.f32.decode b) else .ok (.fin false 1 0)) with
          | .error x => .error x
          | .ok sc =>
            let v := elemVal rf raw
            let (p, g1) := v.times sc
            let r := roundVal .bf16 .rne p
            .ok (r.code, r.flags ||| g1 ||| sigFlags [v, sc])
  match (List.range rows).mapM (fun i => (List.range cols).mapM (fun j => el (rowCoords c.at_ i) j)) with
  | .error x => .error x
  | .ok tile =>
    let at_ (col i : Nat) : Nat := (if c.transpose then ((tile.getD i []).getD col (0, 0)) else ((tile.getD col []).getD i (0, 0))).1
    let fl := tile.flatten.foldl (fun a x => a ||| x.2) 0
    let column (j : Nat) : Nat := (List.range k).foldl (fun a i => a + at_ j i <<< (w * i)) 0
    if f ≠ 12 then .ok ((List.range 64).flatMap (fun j => bytesOfNat (column j) 64), fl)
    else
      let c0 := c.at_.getD 0 0
      match (List.range 64).mapM (fun j => s.engUnit c.grp g lay.space (lay.scaleLoc (rowCoords c.at_ j) 1 (c0 / 64)) 0), (List.range 64).mapM (fun j => s.engUnit c.grp g lay.space (lay.scaleLoc (rowCoords c.at_ j) 2 (c0 / 16384)) 0) with
      | .error x, _ => .error x
      | _, .error x => .error x
      | .ok ss, .ok sups => .ok ((List.range 64).flatMap (fun j => bytesOfNat (column j) 32) ++ ss.flatMap (fun b => bytesOfNat b 1) ++ sups.flatMap (fun b => bytesOfNat b 4) ++ List.replicate 1728 0, fl)

/-- The scales that MLDB reads with a tile (13 R292): QN4 block scales and superscales, or channel scales. -/
def Lay.tileScales (e : Lay) (c : List Nat) (rows cols : Nat) : List (Option UnitLoc) :=
  let c0 := c.getD 0 0
  if e.scale = 2 then (List.range rows).flatMap (fun j => [e.scaleLoc (rowCoords c j) 1 (c0 / 64), e.scaleLoc (rowCoords c j) 2 (c0 / 16384)])
  else if e.scale = 3 then (List.range rows).flatMap (fun j => (List.range cols).map (fun k => e.scaleLoc (rowCoords c j) 1 (c0 + k)))
  else []

/-- A slot's bytes replaced whole. -/
def Group.slotWrite (g : Group) (slot : Nat) (bs : List Byte) : Group := { g with vitrine := g.vitrine.paste (4096 * slot) 4096 (Mem.write [] 0 bs) }

/-- MLDB_COMPLETE (13 R283, R292): the idx-th load of the loader writes its slot, once every earlier MMA that reads the slot has executed. -/
def execMldbComplete (core idx : Nat) (s : State) : Host.Outcome State Fault Refusal :=
  .next (
    match (s.core core).loads[idx]? with
    | none => s
    | some c =>
      let k := s.core core
      let drop (a : State) : State := a.setCore core { a.core core with loads := (a.core core).loads.eraseIdx idx }
      let fail (reason : Nat) : State := ((drop s).modGroup c.grp (fun x => x.slotWrite c.slot ((List.range 4096).map (fun i => Config.freeByte s.choiceCtr i)))).engError c reason 1 |>.engDone c 0 4096 false
      if c.wait.isSome ∨ k.arrayQ.any (fun m => m.kind == .mma && m.grp == c.grp && m.slot == c.slot && decide (m.num < c.num)) then s
      else
        match s.group? c.grp with
        | none => drop s
        | some g =>
          if g.killed.isSome then fail 6
          else if c.lost then fail 2
          else
            match (s.viewOf core false).mldbRun c g with
            | .error (.page va f) =>
              let (s1, n) := s.engWait c g.ctx va f
              s1.setCore core { s1.core core with loads := (s1.core core).loads.set idx { c with wait := some n } }
            | .error x => (fail (s.engReason x)).engNote g.ctx x
            | .ok (bs, fl) =>
              let lay := Lay.ofBits c.entry
              let k := slotK (bits c.ctl 3 0)
              let s1 := (drop s).engTouch core c.grp g lay.space (lay.tileUnits c.at_ (if c.transpose then k else 64) (if c.transpose then 64 else k) ++ lay.tileScales c.at_ (if c.transpose then k else 64) (if c.transpose then 64 else k)) 0
              (s1.modGroup c.grp (fun x => x.slotWrite c.slot bs)).engDone c fl 4096 false)

/-- x / c rounded to a format (13 R296): an infinite or undefined quotient as IEEE 754-2019 gives it. -/
def divRound (f : Fmt) (mode : Mode) (x c : Val) : FRes :=
  match x, c with
  | .nan _, _ => FRes.nan f (x.signals || c.signals)
  | _, .nan _ => FRes.nan f c.signals
  | .inf _, .inf _ => FRes.invalid f
  | .inf n, v => roundVal f mode (.inf (n != v.neg))
  | v, .inf n => { code := f.signed (n != v.neg) 0, flags := 0 }
  | .fin n m e, .fin n2 m2 e2 =>
    if m2 = 0 then (if m = 0 then FRes.invalid f else roundVal f mode (.inf (n != n2)))
    else quotient f mode (n != n2) m e m2 e2

/-- mx_scale (13 R296). -/
def mxScale (amax : Val) : Nat :=
  match amax with
  | .nan _ => 0xFF
  | .inf _ => 0xFE
  | .fin _ m e => if m = 0 then 0x7F else (Max.max (-127) (Min.min 127 ((Nat.log2 m : Int) + e - 2)) + 127).toNat

/-- The largest magnitude of a list, a NaN if any is one. -/
def amaxOf (l : List Val) : Val :=
  l.foldl (fun a v => match a, v with
    | .nan s, _ => .nan s
    | _, .nan s => .nan s
    | .inf _, _ => .inf false
    | _, .inf _ => .inf false
    | .fin _ m e, .fin _ m2 e2 => if (Val.fin false m e).lt (.fin false m2 e2) then .fin false m2 e2 else .fin false m e) (.fin false 0 0)

/-- An element of an E2M1 block under its scale (13 R296, 03 R70). -/
def mxEncode (mode : Mode) (s : Nat) (y : Val) : FRes :=
  if s = 0xFF then { code := 0, flags := if y.isNan then flInvalid else 0 }
  else
    match y with
    | .fin n m e => roundDy .e2m1 mode n m (e - ((s : Int) - 127))
    | v => roundVal .e2m1 mode v

/-- A drain element before quantisation (13 R295): FP32 code and flags. -/
def drainElem (ctl keep : Word) (key : Dword) (ctr : Dword) (x res bias : Nat) : Nat × Flags :=
  let r1 := if ctl.getLsbD 0 then fadd .f32 .rne x res else { code := x, flags := 0 }
  let r2 := if ctl.getLsbD 1 then (fadd .f32 .rne r1.code bias).more r1.flags else r1
  let v := Fmt.f32.decode r2.code
  let r3 : FRes := if ctl.getLsbD 2 && !v.isNan && v.neg then { code := 0, flags := r2.flags } else r2
  if ctl.getLsbD 3 then
    if gHash key ctr / 65536 < bits keep 15 0 then
      let k := quotient .f32 .rne false 65536 0 (bits keep 15 0) 0
      let p := fmul .f32 .rne r3.code k.code
      (p.code, r3.flags ||| p.flags)
    else (0, r3.flags)
  else (r3.code, r3.flags)

/-- The counter of a drain element (03 R80): the row index and the dimension-0 coordinate within the destination. -/
def Lay.drainCtr (e : Lay) (rc : List Nat) (j : Nat) : Dword :=
  let row := ((e.row rc).map e.rho).getD 0
  let col := (e.coord 0 (rc.getD 0 0 + j)).getD (rc.getD 0 0 + j)
  BitVec.ofNat 64 ((row % 2 ^ 32) <<< 32 + col % 2 ^ 32)

/-- y of 13 R295: by destination row and element. -/
def State.drainVals (s : State) (c : EngCmd) (g : Group) : Except EngErr (List (List (Nat × Flags))) :=
  let lay := Lay.ofBits c.entry
  let res := Lay.ofBits c.resEntry
  let bias := Lay.ofBits c.biasEntry
  let plain (l : Lay) (rc : List Nat) (j : Nat) : Except EngErr Nat :=
    (s.engUnit c.grp g l.space (l.elemLoc rc j) 0).map (fun raw =>
      let v := elemVal ((l.rowFmt? rc).getD 6) raw
      if v.signals then 0x7F800001 else (roundVal .f32 .rne v).code)
  let exact (l : Lay) (rc : List Nat) (j : Nat) : Except EngErr Nat :=
    if (l.rowFmt? rc).getD 6 = 6 then s.engUnit c.grp g l.space (l.elemLoc rc j) 0 else plain l rc j
  match (if c.ctl.getLsbD 1 then (List.range 64).mapM (fun j => exact bias [0, 0, 0, 0, 0] j) else .ok []) with
  | .error x => .error x
  | .ok bs =>
    (List.range 64).mapM (fun r => (List.range 64).mapM (fun n =>
      let rc := rowCoords c.at_ r
      let i := if c.transpose then n else r
      let j := if c.transpose then r else n
      match (if c.ctl.getLsbD 0 then exact res rc n else .ok 0) with
      | .error x => .error x
      | .ok rv => .ok (drainElem c.ctl c.keep c.key (lay.drainCtr rc n) (c.vals.get (64 * i + j)).toNat rv (bs.getD j 0))))

/-- A write an engine makes: where, and the unit's bits. -/
abbrev EngWrite := UnitLoc × Nat

/-- A row of y quantised into its format (13 R296, R304): element writes, scale writes, flags. `chan` is the channel scale of an element, `sup` the superscale of a block. -/
def quantRow (lay : Lay) (rc : List Nat) (f : Nat) (mode : Nat → Mode) (y : List (Nat × Flags)) (chan : Nat → Val) (sup : Nat → Nat) : List EngWrite × Flags :=
  let vals := y.map (fun v => Fmt.f32.decode v.1)
  let c0 := rc.getD 0 0
  let put (j : Nat) (code : Nat) : List EngWrite := match lay.elemLoc rc j with
    | some u => [(u, code)]
    | none => []
  let inb (j : Nat) : Bool := (lay.elemLoc rc j).isSome
  let joinAll (l : List (List EngWrite × Flags)) : List EngWrite × Flags := (l.flatMap (fun x => x.1), l.foldl (fun a x => a ||| x.2) 0)
  let each (g : Nat → Val → FRes) : List EngWrite × Flags := joinAll (vals.zipIdx.map (fun v => if inb v.2 then (put v.2 (g v.2 v.1).code, (g v.2 v.1).flags) else ([], 0)))
  let blockOf (b n : Nat) : List Val := (((vals.drop (n * b)).take n).zipIdx.filter (fun v => inb (n * b + v.2))).map (fun v => v.1)
  let scalePut (k code : Nat) : List EngWrite := match lay.scaleLoc rc 1 k with
    | some u => [(u, code)]
    | none => []
  match f with
  | 6 => joinAll (y.zipIdx.map (fun v => (put v.2 v.1.1, 0)))
  | 11 =>
    let ss := (List.range ((y.length + 31) / 32)).map (fun b => mxScale (amaxOf (blockOf b 32)))
    let els := each (fun j v => mxEncode (mode j) (ss.getD (j / 32) 0) v)
    (els.1 ++ (if lay.scale = 1 then ss.zipIdx.flatMap (fun s => scalePut (c0 / 32 + s.2) s.1) else []), els.2)
  | 12 =>
    let ss := (List.range ((y.length + 63) / 64)).map (fun b => qnScale (amaxOf (blockOf b 64)) (sup b))
    let els := each (fun j v => qnEncode v (ss.getD (j / 64) { code := 0, flags := 0 }).code (sup (j / 64)))
    (els.1 ++ ss.zipIdx.flatMap (fun s => scalePut (c0 / 64 + s.2) s.1.code), ss.foldl (fun a s => a ||| s.flags) els.2)
  | _ => each (fun j v => if f = 9 ∨ f = 10 then divRound (elemFmt f) (mode j) v (chan j) else (roundVal (elemFmt f) (mode j) v).more (sigFlags [v]))

/-- A unit's bits put in memory by an engine: a nibble changes its half byte alone. -/
def State.engPut (s : State) (core gid : Nat) (g : Group) (space : Nat) (w : EngWrite) : State :=
  match s.engLoc gid g space w.1.addr .store with
  | .error _ => s
  | .ok l =>
    if w.1.width = 4 then
      let old := (s.currentBytes l 1).headD 0
      s.devPut (dieOf core) g.ctx l [nibbleInto old (BitVec.ofNat 8 (w.2 % 16 * 17)) (w.1.bit == 4)]
    else s.devPut (dieOf core) g.ctx l (bytesOfNat w.2 (w.1.width / 8))

/-- Every place of a list of writes can be written now: the error otherwise; false while an exclusive attempt holds one. -/
def State.engCanPut (s : State) (core gid : Nat) (g : Group) (space : Nat) (ws : List UnitLoc) : Except EngErr Bool :=
  (ws.mapM (fun (u : UnitLoc) => (s.engLoc gid g space u.addr .store).map (fun l => s.engFree core l))).map (fun bs => bs.all (fun b => b))

/-- The rounding mode of a drain element (13 R296). -/
def EngCmd.drainRound (c : EngCmd) (lay : Lay) (rc : List Nat) (j : Nat) : Mode :=
  if c.ctl.getLsbD 16 then .rsr (gHash c.key (lay.drainCtr rc j)) else .rne

/-- The writes of a drain in MODE 0 and MODE 1 (13 R296, R297), with the flags; what it reads it reads in `v`, but a tile it adds to as that stands (12 R272). -/
def State.drainRun (s v : State) (c : EngCmd) (g : Group) : Except EngErr (List EngWrite × Flags) :=
  let lay := Lay.ofBits c.entry
  match v.drainVals c g with
  | .error x => .error x
  | .ok y =>
    let pre := y.flatten.foldl (fun a v => a ||| v.2) 0
    let row (r : Nat) : Except EngErr (List EngWrite × Flags) :=
      let rc := rowCoords c.at_ r
      let ys := y.getD r []
      match lay.rowFmt? rc with
      | none => .ok ([], 0)
      | some f =>
        if drainMode c.ctl = 0 then
          let chan := (f == 9 || f == 10) && lay.scale == 3 && ((lay.row rc).map lay.scaled).getD false
          match (List.range 64).mapM (fun j => if chan then v.engUnit c.grp g lay.space (lay.scaleLoc rc 1 (rc.getD 0 0 + j)) 0 else .ok 0x3F800000),
            (if f = 12 then v.engUnit c.grp g lay.space (lay.scaleLoc rc 2 (rc.getD 0 0 / 16384)) 0 else .ok 0) with
          | .error x, _ => .error x
          | _, .error x => .error x
          | .ok cs, .ok sup => .ok (quantRow lay rc f (c.drainRound lay rc) ys (fun j => Fmt.f32.decode (cs.getD j 0)) (fun _ => sup))
        else
          match (List.range 64).mapM (fun j => match lay.elemLoc rc j with
            | none => Except.ok (none : Option (EngWrite × Flags))
            | some u => (s.engUnit c.grp g lay.space (some u) 0).map (fun old => let r := fadd .f32 .rne old (ys.getD j (0, 0)).1; some ((u, r.code), r.flags))) with
          | .error x => .error x
          | .ok l => .ok (l.filterMap (fun o => o.map (fun z => z.1)), l.foldl (fun a o => a ||| (o.map (fun z => z.2)).getD 0) 0)
    match (List.range 64).mapM row with
    | .error x => .error x
    | .ok rows => .ok (rows.flatMap (fun r => r.1), rows.foldl (fun a r => a ||| r.2) pre)

/-- The address an ordered slot is keyed by (13 R298). -/
def EngCmd.tileAddr (c : EngCmd) : Nat := (((Lay.ofBits c.entry).elemLoc c.at_ 0).map (fun u => u.addr)).getD 0

/-- The residual and bias elements, and in MODE 0 the scales, that a drain has read (13 R295, R296). -/
def State.drainTouch (s : State) (core : Nat) (c : EngCmd) (g : Group) : State :=
  let res := Lay.ofBits c.resEntry
  let bias := Lay.ofBits c.biasEntry
  let s1 := if c.ctl.getLsbD 0 then s.engTouch core c.grp g res.space (res.tileUnits c.at_ 64 64) 0 else s
  let s2 := if c.ctl.getLsbD 1 then s1.engTouch core c.grp g bias.space ((List.range 64).map (fun j => bias.elemLoc [0, 0, 0, 0, 0] j)) 0 else s1
  let lay := Lay.ofBits c.entry
  if drainMode c.ctl = 0 then s2.engTouch core c.grp g lay.space ((List.range 64).flatMap (fun r =>
    let rc := rowCoords c.at_ r
    match lay.rowFmt? rc with
    | some f => if f = 12 then [lay.scaleLoc rc 2 (rc.getD 0 0 / 16384)] else if (f = 9 ∨ f = 10) ∧ lay.scale = 3 then (List.range 64).map (fun j => lay.scaleLoc rc 1 (rc.getD 0 0 + j)) else []
    | none => [])) 0 else s2

/-- A drain fails (13 R300); what waits in an ordered slot keeps its count for a saved gang's resumption (06 R136, 13 R306). -/
def State.drainFail (s : State) (c : EngCmd) (reason : Nat) (ordered : Bool := false) : State := (s.engError c reason 2).engDone c 0 c.drainCount false ordered

/-- A contribution reaches its ordered slot (13 R298): none while all 32 are open. `y` holds its 4,096 elements, and its flags behind them. -/
def State.contribute (s : State) (c : EngCmd) (g : Group) (y : Words) : Option State :=
  let cc := { c with vals := y }
  match s.oslots.find? (fun o => o.ctx == g.ctx && o.addr == c.tileAddr && o.transpose == c.transpose) with
  | some o =>
    if o.nrank ≠ drainRanks c.ctl ∨ o.parts.any (fun p => p.1 == drainRank c.ctl) then some (s.drainFail c 3)
    else some { s with oslots := s.oslots.map (fun x => if x.ctx == o.ctx && x.addr == o.addr && x.transpose == o.transpose then { x with parts := x.parts ++ [(drainRank c.ctl, cc)] } else x) }
  | none =>
    if 32 ≤ s.oslots.length then none
    else some { s with oslots := s.oslots ++ [{ ctx := g.ctx, addr := c.tileAddr, transpose := c.transpose, nrank := drainRanks c.ctl, kern := g.kern, kseq := ((s.kern? g.kern).map (fun k => k.kseq)).getD 0, parts := [(drainRank c.ctl, cc)] }] }

/-- MDRAIN_COMPLETE (13 R295 to R298): the idx-th drain writes its tile under its mode, or reaches its ordered slot. -/
def execMdrainComplete (core idx : Nat) (s : State) : Host.Outcome State Fault Refusal :=
  .next (
    match (s.core core).drains[idx]? with
    | none => s
    | some c =>
      let drop (a : State) : State := a.setCore core { a.core core with drains := (a.core core).drains.eraseIdx idx }
      let wait (ctx va : Nat) (f : PgFault) : State :=
        let (s1, n) := s.engWait c ctx va f
        s1.setCore core { s1.core core with drains := (s1.core core).drains.set idx { c with wait := some n } }
      if c.wait.isSome then s
      else
        match s.group? c.grp with
        | none => drop s
        | some g =>
          let lay := Lay.ofBits c.entry
          if c.lost then (drop s).drainFail c 2
          else if drainMode c.ctl = 2 then
            match (s.viewOf core false).drainVals c g with
            | .error (.page va f) => wait g.ctx va f
            | .error x => ((drop s).drainFail c (s.engReason x)).engNote g.ctx x
            | .ok y =>
              match ((drop s).drainTouch core c g).contribute c g (wordsOfList (y.flatten.map (fun v => BitVec.ofNat 32 v.1) ++ [(y.flatten.foldl (fun (a : Flags) v => a ||| v.2) 0).setWidth 32])) with
              | some s1 => s1
              | none => s
          else
            match s.drainRun (s.viewOf core false) c g with
            | .error (.page va f) => wait g.ctx va f
            | .error x => ((drop s).drainFail c (s.engReason x)).engNote g.ctx x
            | .ok (ws, fl) =>
              match s.engCanPut core c.grp g lay.space (ws.map (fun w => w.1)) with
              | .error (.page va f) => wait g.ctx va f
              | .error x => ((drop s).drainFail c (s.engReason x)).engNote g.ctx x
              | .ok false => s
              | .ok true =>
                if drainMode c.ctl == 1 && s.midCopy (s.places c.grp g lay.space (lay.tileUnits c.at_ 64 64)) then s
                else (ws.foldl (fun a w => a.engPut core c.grp g lay.space w) ((drop s).drainTouch core c g)).engDone c fl c.drainCount (lay.space == 0))

/-- One level of the tree of 03 R88: a node with one absent child passes the other. -/
def rankLevel : List (Option Nat) → List (Option Nat) × Flags
  | a :: b :: rest =>
    let (r, fl) := rankLevel rest
    match a, b with
    | some x, some y => let z := fadd .f32 .rne x y; (some z.code :: r, fl ||| z.flags)
    | some x, none => (some x :: r, fl)
    | none, y => (y :: r, fl)
  | l => (l, 0)

/-- The tree over 16 ranks (03 R88). -/
def rankTree (l : List (Option Nat)) : Nat × Flags :=
  let (a, f1) := rankLevel l
  let (b, f2) := rankLevel a
  let (c, f3) := rankLevel b
  let (d, f4) := rankLevel c
  ((d.headD none).getD 0, f1 ||| f2 ||| f3 ||| f4)

/-- The root of each element of an ordered slot, by destination row and element. -/
def OSlot.roots (o : OSlot) : List (Nat × Flags) :=
  (List.range 4096).map (fun k => rankTree ((List.range 16).map (fun r => ((o.parts.find? (fun p => p.1 == r)).map (fun p => (p.2.vals.get k).toNat)))))

/-- Every contribution of a slot fails; the slot is discarded (13 R298). -/
def State.slotFail (s : State) (o : OSlot) (reason : Nat) : State :=
  o.parts.foldl (fun a p => a.drainFail p.2 reason true) { s with oslots := s.oslots.filter (fun x => decide (x ≠ o)) }

/-- ORDERED_SLOT_COMPLETE (13 R298): the idx-th slot, all of whose ranks have arrived, adds the roots to the tile in one action. DESIGN CHOICE (log 71): the flags of the additions are raised in the group of every contribution. -/
def execOrderedSlotComplete (idx : Nat) (s : State) : Host.Outcome State Fault Refusal :=
  .next (
    match s.oslots[idx]? with
    | none => s
    | some o =>
      match o.parts with
      | [] => s
      | (_, c) :: _ =>
        if o.parts.length < o.nrank ∨ c.wait.isSome then s
        else if c.lost then s.slotFail o 2
        else
          let lay := Lay.ofBits c.entry
          let core := ((s.group? c.grp).map (fun g => g.core)).getD (48 * c.die)
          let units := (List.range 4096).map (fun k => lay.elemLoc (rowCoords c.at_ (k / 64)) (k % 64))
          let read (u : UnitLoc) : Except EngErr (Loc × Nat) :=
            match s.route o.ctx u.addr .store with
            | .error f => .error (.page u.addr f)
            | .ok l => if s.locPoisoned l then .error (.poison u.addr) else .ok (l, natOfBytes (s.currentBytes l 4))
          match units.mapM (fun (u : Option UnitLoc) => (match u with
            | none => Except.ok none
            | some z => (read z).map some : Except EngErr (Option (Loc × Nat)))) with
          | .error (.page va f) =>
            let (s1, n) := s.engWait c o.ctx va f
            { s1 with oslots := s1.oslots.map (fun x => if x = o then { x with parts := (o.parts.headD (0, c)).1 |> fun r => (r, { c with wait := some n }) :: o.parts.drop 1 } else x) }
          | .error x => (s.slotFail o (s.engReason x)).engNote o.ctx x
          | .ok old =>
            if !(old.all (fun (x : Option (Loc × Nat)) => (x.map (fun z => s.engFree core z.1)).getD true)) || s.midCopy (old.filterMap (fun x => x.bind (fun z => match z.1 with | .mem _ pa => some (0, pa) | .cell n a _ => some (n + 1, a) | .frame _ => none))) then s
            else
              let sums := (List.zip old o.roots).map (fun (x : Option (Loc × Nat) × (Nat × Flags)) => (x.1.map (fun z => (z.1, fadd .f32 .rne z.2 x.2.1)), x.2.2))
              let fl := sums.foldl (fun a x => a ||| x.2 ||| ((x.1.map (fun z => z.2.flags)).getD 0)) (0 : Flags)
              let s1 := sums.foldl (fun a x => match x.1 with
                | none => a
                | some (l, r) => a.devPut (dieOf core) o.ctx l (bytesOfNat r.code 4)) s
              o.parts.foldl (fun a p => a.engDone p.2 (fl ||| (p.2.vals.get 4096).setWidth 7) 16384 true true) { s1 with oslots := s1.oslots.filter (fun x => decide (x ≠ o)) })

end Sys2Proof.Machine
end

