-- ==== Sys2Proof/Machine/Copy.lean ====
section
/-! DEFINITION. The quad's copy channels (spec/13 R301 to R307): the copy block, its submission checks, the movement and conversion of rows, completion, failure, cancellation, and the instructions. -/

namespace Sys2Proof.Machine

/-- Offsets in bounds of dimension i, of n from o, and those whose coordinate is at or above `at_` (09 R198). -/
def Lay.inCount (e : Lay) (i o n at_ : Nat) : Nat × Nat :=
  let x := e.extent i
  let above (r : Nat × Nat) : Nat := r.1 + r.2 - Nat.max r.1 (Nat.min at_ (r.1 + r.2))
  if n = 0 then (0, 0)
  else if e.wraps i then
    let rest := e.runs i o (n % x)
    (n, n / x * (x - Nat.min at_ x) + rest.foldl (fun a r => a + above r) 0)
  else
    let r := (o, Nat.min n (x - o))
    if x ≤ o then (0, 0) else (r.2, above r)

/-- Rows of a window at or above SPLITAT and in bounds; rows in bounds; all rows. -/
def Lay.rowCounts (e : Lay) (c : List Nat) (len : Nat → Nat) : Nat × Nat × Nat :=
  let dims := (List.range 4).map (fun i => i + 1)
  let inb (i : Nat) : Nat × Nat := if i < e.rank then e.inCount i (c.getD i 0) (len i) e.splitAt else (len i, 0)
  (if e.split then dims.foldl (fun a i => a * (if i = e.splitDim then (inb i).2 else (inb i).1)) 1 else 0,
    dims.foldl (fun a i => a * (inb i).1) 1, dims.foldl (fun a i => a * len i) 1)

/-- Elements of a block of a scaled row format, 0 for one without block scales (09 R199). -/
def Lay.scaleBlock (e : Lay) (f : Nat) : Nat := if e.scale = 1 ∧ f = 11 then 32 else if e.scale = 2 ∧ f = 12 then 64 else 0

/-- Counted bytes of one destination row of n elements (13 R303). -/
def Lay.rowBytes (e : Lay) (f n : Nat) : Nat := n * elemBits f / 8 + (if e.scaleBlock f = 0 then 0 else (n + e.scaleBlock f - 1) / e.scaleBlock f)

/-- Misalignment of a row format at a coordinate and extent (13 R304). -/
def Lay.rowMisaligned (e : Lay) (f c0 n : Nat) : Bool :=
  (elemBits f == 4 && (c0 % 2 != 0 || n % 2 != 0)) || (e.scaleBlock f != 0 && (c0 % e.scaleBlock f != 0 || n % e.scaleBlock f != 0))

/-- The count of a copy (13 R303). -/
def Blk.count (b : Blk) (dst : Lay) : Nat :=
  let (hi, _, all) := dst.rowCounts b.dst b.len
  hi * dst.rowBytes dst.fmt2 (b.len 0) + (all - hi) * dst.rowBytes dst.fmt (b.len 0)

/-- Scale units that a row's copy or conversion reaches. -/
def Lay.rowScaleUnits (e : Lay) (c : List Nat) (n : Nat) : List (Option UnitLoc) :=
  let f := (e.rowFmt? c).getD e.fmt
  let b := e.scaleBlock f
  if b ≠ 0 then (List.range ((n + b - 1) / b)).map (fun k => e.scaleLoc c 1 (c.getD 0 0 / b + k)) else []

/-- Scale units a conversion reads beside them: superscales and channel scales. -/
def Lay.rowExtraUnits (e : Lay) (c : List Nat) (n : Nat) : List (Option UnitLoc) :=
  let f := (e.rowFmt? c).getD e.fmt
  if e.scale = 2 ∧ f = 12 then (List.range ((n + 63) / 64)).map (fun k => e.scaleLoc c 2 ((c.getD 0 0 / 64 + k) / 256))
  else if e.scale = 3 ∧ (f = 9 ∨ f = 10) then (List.range n).map (fun j => e.scaleLoc c 1 (c.getD 0 0 + j))
  else []

/-- The submission check of a copy (13 R304): the first condition that holds. -/
def Env.copyCheck (e : Env) (b : Blk) (convert : Bool) (mcw : Dword) (src dst : Lay) : Option TFault :=
  let n := b.len 0
  if b.reserved ≠ 0 ∨ b.rank = 0 ∨ 5 < b.rank ∨ (if convert then b.xform = 0 ∨ 2 < b.xform else b.xform ≠ 0) ∨ !e.barNameable b.bar ∨ (b.follow ∧ e.grp.accs ≤ mcwAcc mcw) then some (e.iss.bad 0x03 0)
  else if src.rank = 0 ∨ !src.valid then some (e.iss.badLayout b.srcLt)
  else if dst.rank = 0 ∨ !dst.valid then some (e.iss.badLayout b.dstLt)
  else if b.follow ∧ ((dst.space ≠ 1 ∧ dst.space ≠ 2) ∨ (e.mmaCheck b.dstLt dst b.dst mcw).isSome) then some (e.iss.badLayout b.dstLt)
  else if src.rank < b.rank then some (e.iss.badLayout b.srcLt)
  else if dst.rank < b.rank then some (e.iss.badLayout b.dstLt)
  else
    let off (l : Lay) (c : List Nat) : Bool :=
      let (hi, inb, _) := l.rowCounts c b.len
      (hi != 0 && l.rowMisaligned l.fmt2 (c.getD 0 0) n) || (inb != hi && l.rowMisaligned l.fmt (c.getD 0 0) n)
    if off src b.src then some (e.iss.bad 0x05 (BitVec.ofNat 64 (((src.elemLoc b.src 0).map (fun u => u.addr)).getD 0)))
    else if off dst b.dst then some (e.iss.bad 0x05 (BitVec.ofNat 64 (((dst.elemLoc b.dst 0).map (fun u => u.addr)).getD 0)))
    else if 2 ^ 24 < b.count dst then some (e.iss.bad 0x03 0)
    else if n = 0 then none
    else
      b.rows.findSome? (fun o =>
        let sc := addCoords b.src o
        let dc := addCoords b.dst o
        match e.checkUnits src (src.rowUnits sc n ++ src.rowScaleUnits sc n ++ (if convert then src.rowExtraUnits sc n else [])) .load 0 with
        | some f => some f
        | none =>
          match e.checkUnits dst (dst.rowUnits dc n ++ dst.rowScaleUnits dc n) .store 1 with
          | some f => some f
          | none => if convert then e.checkUnits dst (dst.rowExtraUnits dc n) .load 0 else none)

/-- A channel with nothing in it. -/
def Chain.empty : Chain := { cmds := [], follow := none }

/-- A channel of a quad. -/
def State.chain (s : State) (quad ch : Nat) : Chain := (lookKey (4 * quad + ch) s.chains).getD Chain.empty

/-- A channel replaced. -/
def State.setChain (s : State) (quad ch : Nat) (c : Chain) : State := { s with chains := putKey (4 * quad + ch) c s.chains }

/-- A gang's channel at its start (13 R301, R305). -/
def ChanState.start : ChanState := { seq := 0, done := 0, wp := 0, canFirst := 0xFFFFFFFF, canLast := 0xFFFFFFFF, failFirst := 0xFFFFFFFF, failCount := 0 }

/-- A gang's values of a channel. -/
def State.chan (s : State) (kern gang ch : Nat) : ChanState := ((s.gang? kern gang).bind (fun g => g.chans[ch]?)).getD ChanState.start

/-- A gang's values of a channel changed. -/
def State.modChan (s : State) (kern gang ch : Nat) (f : ChanState → ChanState) : State := s.modGang kern gang (fun g => { g with chans := modifyAt g.chans ch f })

/-- CPY and CPYX (13 R303): check, the thread's stores, an entry of the chain, the sequence number. -/
def Env.copy (e : Env) (t : Thread) (w : F0) (convert : Bool) : Turnout :=
  let raw : BitVec 512 := BitVec.ofNat 512 (natOfBytes ((List.range 16).flatMap (fun k => bytesOfNat (e.v t (vnum w.a + k)).toNat 4)))
  let b := Blk.ofBits raw
  let mcw : Dword := if b.follow then e.pair t (vnum w.b) else 0
  match e.s.layout e.grp.ctx b.srcLt, e.s.layout e.grp.ctx b.dstLt with
  | .error f, _ => .fault f
  | _, .error f => .fault f
  | .ok sx, .ok dx =>
    match e.copyCheck b convert mcw (Lay.ofBits sx) (Lay.ofBits dx) with
    | some f => .fault f
    | none =>
      match e.s.drainThread e.iss.core e.iss.grp e.tid with
      | none => .hold e.s
      | some s1 =>
        let quad := quadOf e.iss.core
        let ch := lo2 w.x
        let k := s1.chain quad ch
        if 64 ≤ k.cmds.length then .hold s1
        else
          let seq := (s1.chan e.grp.kern e.grp.gang ch).seq
          let cmd : CopyCmd := { grp := e.iss.grp, kern := e.grp.kern, gang := e.grp.gang, tid := e.tid, pc := e.iss.pc, seq := seq, block := raw, src := sx, dst := dx, mcw := mcw, convert := convert, started := false, written := 0, wait := none, lost := false, flags := 0 }
          .done ((s1.setChain quad ch { k with cmds := k.cmds ++ [cmd] }).modChan e.grp.kern e.grp.gang ch (fun c => { c with seq := c.seq + 1 }))
            (some { reg := vnum w.d, count := 1, value := seq.setWidth 128, tag := none, flags := 0 })

/-- CPY (13 R303). -/
def execCpy (w : F0) (s : State) : Host.Outcome State Fault Refusal :=
  .next (runWord (.cpy w) s (fun iss tid s1 => withThread iss tid s1 (fun e t => e.copy t w false)))

/-- CPYX (13 R303, R304). -/
def execCpyx (w : F0) (s : State) : Host.Outcome State Fault Refusal :=
  .next (runWord (.cpyx w) s (fun iss tid s1 => withThread iss tid s1 (fun e t => e.copy t w true)))

/-- CPYWP (13 R305): an acquire of the bytes below the pointer; the core's L1 is invalidated. -/
def execCpywp (w : F0) (s : State) : Host.Outcome State Fault Refusal :=
  .next (runWord (.cpywp w) s (fun iss tid s1 => withThread iss tid s1 (fun e _ =>
    .done (s1.l1Clear iss.core) (some { reg := vnum w.d, count := 2, value := (s1.chan e.grp.kern e.grp.gang (lo2 w.x)).wp.setWidth 128, tag := none, flags := 0 }))))

/-- CPYSEQ (13 R305). -/
def execCpyseq (w : F0) (s : State) : Host.Outcome State Fault Refusal :=
  .next (runWord (.cpyseq w) s (fun iss tid s1 => withThread iss tid s1 (fun e _ =>
    .done s1 (some { reg := vnum w.d, count := 1, value := (s1.chan e.grp.kern e.grp.gang (lo2 w.x)).done.setWidth 128, tag := none, flags := 0 }))))

/-- CPYSEQ.stat (13 R305): the status words are read and cleared. -/
def execCpyseqStat (w : F0) (s : State) : Host.Outcome State Fault Refusal :=
  .next (runWord (.cpyseqStat w) s (fun iss tid s1 => withThread iss tid s1 (fun e _ =>
    let c := s1.chan e.grp.kern e.grp.gang (lo2 w.x)
    let s2 := s1.modChan e.grp.kern e.grp.gang (lo2 w.x) (fun x => { x with canFirst := 0xFFFFFFFF, canLast := 0xFFFFFFFF, failFirst := 0xFFFFFFFF, failCount := 0 })
    .done s2 (some { reg := vnum w.d, count := 4, value := c.failCount ++ c.failFirst ++ c.canLast ++ c.canFirst, tag := none, flags := 0 }))))

/-- One command of a gang cancelled (13 R305): it writes nothing and adds nothing, and its channel counts it as ended; `late`: once the gang's command that is running there has ended (13 R301). -/
def ChanState.cancel (c : ChanState) (seq : Word) (late : Bool) : ChanState :=
  { c with done := if late then c.done else c.done + 1, ended := if late then c.ended + 1 else c.ended, canFirst := if c.canFirst = 0xFFFFFFFF then seq else if seq < c.canFirst then seq else c.canFirst, canLast := if c.canFirst = 0xFFFFFFFF then seq else if c.canLast < seq then seq else c.canLast }

/-- The commands of a gang on a channel that a test picks, cancelled. -/
def State.cancelCopies (s : State) (quad ch kern gang : Nat) (f : CopyCmd → Bool) : State :=
  let k := s.chain quad ch
  let mine (c : CopyCmd) : Bool := c.kern == kern && c.gang == gang && f c
  let late := k.cmds.any (fun c => c.started && c.kern == kern && c.gang == gang && !mine c)
  ((k.cmds.filter mine).foldl (fun a c => a.modChan kern gang ch (fun x => x.cancel c.seq late)) (s.setChain quad ch { k with cmds := k.cmds.filter (fun c => !mine c) }))

/-- A command of the gang on the channel ends, and those cancelled behind it with it (13 R301). -/
def ChanState.endOne (c : ChanState) : ChanState := { c with done := c.done + 1 + BitVec.ofNat 32 c.ended, ended := 0 }

/-- CPYCAN (13 R305). -/
def execCpycan (w : F0) (s : State) : Host.Outcome State Fault Refusal :=
  .next (runWord (.cpycan w) s (fun iss tid s1 => withThread iss tid s1 (fun e _ =>
    let n := ((s1.chain (quadOf iss.core) (lo2 w.x)).cmds.filter (fun c => c.kern == e.grp.kern && c.gang == e.grp.gang && !c.started)).length
    .done ((s1.cancelCopies (quadOf iss.core) (lo2 w.x) e.grp.kern e.grp.gang (fun c => !c.started)).modThread iss.grp tid (fun x => x.write (vnum w.d) (BitVec.ofNat 32 n))) none)))

/-- The commands cancelled behind one that a halt has cancelled in its turn have ended with it (13 R301, R305). -/
def ChanState.settle (c : ChanState) : ChanState := { c with done := c.done + BitVec.ofNat 32 c.ended, ended := 0 }

/-- A conversion that R304's table allows. -/
def convertOk (xform sf df : Nat) : Bool :=
  if xform = 1 then (sf == 6 || sf == 7) && (df == 7 || (9 ≤ df && df ≤ 12)) else (sf == 7 || (9 ≤ sf && sf ≤ 12)) && (df == 6 || df == 7)

/-- A step of a row's writing: the bytes it counts, and what it writes. -/
abbrev CopyStep := Nat × List EngWrite

/-- The naturally aligned 4-byte word that a step writes in. -/
def stepWord (x : CopyStep) : Option Nat := x.2.head?.map (fun w => w.1.addr / 4)

/-- Steps side by side that write one naturally aligned 4-byte word are taken as one (12 R271). -/
def joinNear (l : List CopyStep) : List CopyStep :=
  l.foldr (fun x acc => match acc with
    | y :: rest => if (stepWord x).isSome && stepWord x == stepWord y then (x.1 + y.1, x.2 ++ y.2) :: rest else x :: acc
    | [] => [x]) []

/-- Steps that write one naturally aligned 4-byte word are taken as one, where the first of them stands (12 R271). -/
def joinSteps (l : List CopyStep) : List CopyStep :=
  (l.foldl (fun (a : List Nat × List CopyStep) x => match stepWord x with
    | none => (a.1, a.2 ++ [x])
    | some k => if a.1.contains k then a else (k :: a.1, a.2 ++ [let same := l.filter (fun y => stepWord y == some k); ((same.map (fun y => y.1)).foldl (fun m n => m + n) 0, same.flatMap (fun y => y.2))])) ([], [])).2

/-- A row's element and scale writes cut into steps of whole bytes, a 4-byte word at most (12 R271, 13 R303): elements first, then scales. Under WRAP the parts of one word need not follow each other. -/
def Lay.steps (e : Lay) (dc : List Nat) (f n : Nat) (els : Nat → Option EngWrite) (scs : Nat → Option EngWrite) : List CopyStep :=
  let one (o : Option EngWrite) : List EngWrite := o.toList
  let w := elemBits f
  let body := if w = 4 then (List.range (n / 2)).map (fun k => ((1 : Nat), one (els (2 * k)) ++ one (els (2 * k + 1)))) else (List.range n).map (fun j => (w / 8, one (els j)))
  let b := e.scaleBlock f
  let tail := if b = 0 then [] else (List.range ((n + b - 1) / b)).map (fun k => ((1 : Nat), one (scs (dc.getD 0 0 / b + k))))
  (if e.wraps 0 then joinSteps (joinNear body) else joinNear body) ++ joinNear tail

/-- The exact value of a promoted element with its scale, and the flags of using it (13 R304; 03 R70, R75). -/
def State.promoted (s : State) (gid : Nat) (g : Group) (src : Lay) (sc : List Nat) (sf j : Nat) : Except EngErr (Val × Flags) :=
  let c0 := sc.getD 0 0 + j
  match s.engUnit gid g src.space (src.elemLoc sc j) (if sf = 12 then 7 else 0) with
  | .error x => .error x
  | .ok raw =>
    let v := elemVal sf raw
    let use (m : Val) : Val × Flags := if m.isNan then (.nan false, flInvalid ||| flScalenan) else let (p, g1) := v.times m; (p, g1 ||| sigFlags [v])
    if sf = 11 then
      (if src.mxScaled sc then s.engUnit gid g src.space (src.scaleLoc sc 1 (c0 / 32)) 0 else .ok 127).map (fun b => use (e8m0 b))
    else if sf = 12 then
      match s.engUnit gid g src.space (src.scaleLoc sc 1 (c0 / 64)) 0, s.engUnit gid g src.space (src.scaleLoc sc 2 (c0 / 16384)) 0 with
      | .error x, _ => .error x
      | _, .error x => .error x
      | .ok b, .ok sup =>
        let m := Fmt.e4m3n.decode b
        let q := Fmt.f32.decode sup
        if m.isNan || q.isNan then .ok (.nan false, flInvalid ||| flScalenan)
        else .ok (((v.times m).1.times q).1, ((v.times m).1.times q).2)
    else if (sf = 9 ∨ sf = 10) ∧ src.scale = 3 ∧ ((src.row sc).map src.scaled).getD false then
      (s.engUnit gid g src.space (src.scaleLoc sc 1 c0) 0).map (fun b =>
        let m := Fmt.f32.decode b
        let (p, g1) := v.times m
        (p, g1 ||| sigFlags [v, m]))
    else .ok (v, sigFlags [v])

/-- What writing one destination row takes (13 R303, R304): its steps and the flags of its conversion. -/
def State.copyRow (s : State) (c : CopyCmd) (g : Group) (o : List Nat) : Except EngErr (List CopyStep × Flags) :=
  let b := Blk.ofBits c.block
  let src := Lay.ofBits c.src
  let dst := Lay.ofBits c.dst
  let n := b.len 0
  let sc := addCoords b.src o
  let dc := addCoords b.dst o
  let sf? := src.rowFmt? sc
  match dst.rowFmt? dc with
  | none => .ok ([(dst.rowBytes dst.fmt n, [])], 0)
  | some df =>
    let unit (u : Option UnitLoc) (v : Nat) : Option EngWrite := u.map (fun z => (z, v))
    let look (l : List EngWrite) (u : Option UnitLoc) : Option EngWrite := u.bind (fun z => l.find? (fun w => decide (w.1 = z)))
    if !c.convert then
      if sf?.any (fun f => f != df) then .error .rows
      else
        let sb := src.scaleBlock df
        match (List.range n).mapM (fun j => s.engUnit c.grp g src.space (src.elemLoc sc j) (if df = 12 then 7 else 0)),
          (if dst.scaleBlock df = 0 then .ok [] else (List.range ((n + dst.scaleBlock df - 1) / dst.scaleBlock df)).mapM (fun k =>
            if sf?.isNone then .ok 0
            else if sb = 0 then .ok 0x7F
            else s.engUnit c.grp g src.space (src.scaleLoc sc 1 (sc.getD 0 0 / sb + k)) 0)) with
        | .error x, _ => .error x
        | _, .error x => .error x
        | .ok els, .ok scs => .ok (dst.steps dc df n (fun j => unit (dst.elemLoc dc j) (els.getD j 0)) (fun k => unit (dst.scaleLoc dc 1 k) (scs.getD (k - dc.getD 0 0 / Nat.max 1 (dst.scaleBlock df)) 0)), 0)
    else if sf?.any (fun f => !convertOk b.xform f df) then .error .rows
    else
      let sf := sf?.getD src.fmt
      if b.xform = 1 then
        let chan := (df == 9 || df == 10) && dst.scale == 3 && ((dst.row dc).map dst.scaled).getD false
        match (List.range n).mapM (fun j => (s.engUnit c.grp g src.space (src.elemLoc sc j) 0).map (fun raw => if sf?.isNone then 0 else if sf = 6 then raw else raw * 65536)),
          (List.range n).mapM (fun j => if chan then s.engUnit c.grp g dst.space (dst.scaleLoc dc 1 (dc.getD 0 0 + j)) 0 else .ok 0x3F800000),
          (if df = 12 then (List.range ((n + 63) / 64)).mapM (fun k => s.engUnit c.grp g dst.space (dst.scaleLoc dc 2 ((dc.getD 0 0 / 64 + k) / 256)) 0) else .ok []) with
        | .error x, _, _ => .error x
        | _, .error x, _ => .error x
        | _, _, .error x => .error x
        | .ok xs, .ok cs, .ok sups =>
          let (ws, fl) := quantRow dst dc df (fun _ => .rne) (xs.map (fun x => (x, (0 : Flags)))) (fun j => Fmt.f32.decode (cs.getD j 0)) (fun k => sups.getD k 0)
          .ok (dst.steps dc df n (fun j => look ws (dst.elemLoc dc j)) (fun k => look ws (dst.scaleLoc dc 1 k)), fl)
      else
        match (List.range n).mapM (fun j => s.promoted c.grp g src sc sf j) with
        | .error x => .error x
        | .ok vs =>
          let out := vs.map (fun v => ((roundVal (elemFmt df) .rne v.1).code, (roundVal (elemFmt df) .rne v.1).flags ||| v.2))
          .ok (dst.steps dc df n (fun j => unit (dst.elemLoc dc j) (out.getD j (0, 0)).1) (fun _ => none), out.foldl (fun a x => a ||| x.2) 0)

/-- A copy as far as it has gone: bytes passed, bytes written, flags, what stopped it. -/
structure CopyRun where
  s : State
  pos : Nat
  flags : Flags
  err : Option EngErr
  held : Bool

/-- The steps of a row taken in order up to `limit` bytes; those below `from_`, and those that end at a count of `ahead`, have been written before. -/
def CopyRun.steps (core gid : Nat) (g : Group) (space from_ limit : Nat) (ahead : List Nat) : List CopyStep → CopyRun → CopyRun
  | [], r => r
  | (n, ws) :: rest, r =>
    if r.err.isSome || r.held || decide (limit ≤ r.pos) then r
    else if r.pos + n ≤ from_ ∨ ahead.contains (r.pos + n) then CopyRun.steps core gid g space from_ limit ahead rest { r with pos := r.pos + n }
    else
      match r.s.engCanPut core gid g space (ws.map (fun w => w.1)) with
      | .error e => { r with err := some e }
      | .ok false => { r with held := true }
      | .ok true => CopyRun.steps core gid g space from_ limit ahead rest { r with s := ws.foldl (fun a w => a.engPut core gid g space w) r.s, pos := r.pos + n }

/-- The rows of a copy taken in order. -/
def CopyRun.rows (core : Nat) (c : CopyCmd) (g : Group) (limit : Nat) : List (List Nat) → CopyRun → CopyRun
  | [], r => r
  | o :: rest, r =>
    if r.err.isSome || r.held || decide (limit ≤ r.pos) then r
    else
      let b := Blk.ofBits c.block
      let dst := Lay.ofBits c.dst
      let size := dst.rowBytes ((dst.rowFmt? (addCoords b.dst o)).getD dst.fmt) (b.len 0)
      if r.pos + size ≤ c.written ∧ size ≠ 0 then CopyRun.rows core c g limit rest { r with pos := r.pos + size }
      else
        match (r.s.viewOf core true).copyRow c g o with
        | .error e => { r with err := some e }
        | .ok (steps, fl) =>
          let src := Lay.ofBits c.src
          let sc := addCoords b.src o
          let read := r.s.engTouch core c.grp g src.space (src.rowUnits sc (b.len 0) ++ src.rowScaleUnits sc (b.len 0) ++ (if c.convert then src.rowExtraUnits sc (b.len 0) else [])) 1
          let s1 := if c.convert then read.engTouch core c.grp g dst.space (dst.rowExtraUnits (addCoords b.dst o) (b.len 0)) 1 else read
          CopyRun.rows core c g limit rest (CopyRun.steps core c.grp g dst.space c.written limit c.ahead steps { r with s := s1, flags := r.flags ||| fl })

/-- A copy carried on to `limit` bytes of its count. -/
def State.copyRun (s : State) (core : Nat) (c : CopyCmd) (g : Group) (limit : Nat) : CopyRun :=
  let b := Blk.ofBits c.block
  CopyRun.rows core c g limit (if b.len 0 = 0 then [] else b.rows) { s := s, pos := 0, flags := c.flags, err := none, held := false }

/-- The count of a command. -/
def CopyCmd.count (c : CopyCmd) : Nat := (Blk.ofBits c.block).count (Lay.ofBits c.dst)

/-- A command as the engine error and the completion see it (13 R305). -/
def CopyCmd.asEng (c : CopyCmd) (quad ch : Nat) : EngCmd :=
  { num := 0, kind := .mma, ctx := 0, gidx := 0, qnum := 0, kseq := 0, grp := c.grp, kern := c.kern, gang := c.gang, die := quad / 12, tid := c.tid, pc := c.pc, acc := 0, slot := 0, entry := c.dst, coords := [], mcw := c.mcw, ctl := 0, keep := 0, bar := (Blk.ofBits c.block).bar, scope := 0,
    transpose := false, resEntry := 0, biasEntry := 0, key := 0, vals := [], follow := some (c.seq, ch), wait := none, lost := false }

/-- The head of a channel replaced. -/
def State.setHead (s : State) (quad ch : Nat) (c : CopyCmd) : State :=
  let k := s.chain quad ch
  s.setChain quad ch { k with cmds := c :: k.cmds.drop 1 }

/-- The progress of a run recorded: bytes written, and the gang's write pointer with them (13 R301). -/
def State.copyProgress (r : CopyRun) (quad ch : Nat) (c : CopyCmd) : State :=
  let n := r.pos - c.written
  (r.s.setHead quad ch { c with written := Nat.max c.written r.pos, flags := r.flags, ahead := c.ahead.filter (fun p => decide (r.pos < p)) }).modChan c.kern c.gang ch (fun x => { x with wp := x.wp + BitVec.ofNat 64 n })

/-- What a failed copy had written holds undefined values (13 R300). -/
def State.copyScrub (s : State) (core : Nat) (c : CopyCmd) (g : Group) : State :=
  let b := Blk.ofBits c.block
  let dst := Lay.ofBits c.dst
  let go (a : State × Nat) (o : List Nat) : State × Nat :=
    let dc := addCoords b.dst o
    let f := (dst.rowFmt? dc).getD dst.fmt
    let steps := dst.steps dc f (b.len 0) (fun j => (dst.elemLoc dc j).map (fun u => (u, (Config.freeWord s.choiceCtr (a.2 + j)).toNat % 2 ^ u.width))) (fun k => (dst.scaleLoc dc 1 k).map (fun u => (u, (Config.freeByte s.choiceCtr (a.2 + k)).toNat)))
    if c.written ≤ a.2 ∧ c.ahead.isEmpty then a
    else steps.foldl (fun (x : State × Nat) (st : CopyStep) =>
      if (x.2 + st.1 ≤ c.written ∨ c.ahead.contains (x.2 + st.1)) ∧ (x.1.engCanPut core c.grp g dst.space (st.2.map (fun w => w.1))).toOption = some true then (st.2.foldl (fun y w => y.engPut core c.grp g dst.space w) x.1, x.2 + st.1)
      else (x.1, x.2 + st.1)) a
  if c.written = 0 ∧ c.ahead.isEmpty then s else (b.rows.foldl go (s, 0)).1

/-- A copy command fails (13 R300, R305): its full count is added, and the gang's status words record it. Where a pair of rows is not allowed, the rows already written stay written (13 R304). -/
def State.copyFail (s : State) (quad ch : Nat) (c : CopyCmd) (reason : Nat) : State :=
  let k := s.chain quad ch
  let s1 := s.setChain quad ch { k with cmds := k.cmds.drop 1 }
  let s2 := match s.group? c.grp with
    | some g => if reason = 1 then s1 else s1.copyScrub (4 * quad) c g
    | none => s1
  let s3 := s2.modChan c.kern c.gang ch (fun x => { x.endOne with failFirst := if x.failCount = 0 then c.seq else x.failFirst, failCount := x.failCount + 1 })
  (s3.engError (c.asEng quad ch) reason 3).engDone (c.asEng quad ch) 0 c.count ((Lay.ofBits c.dst).space == 0)

/-- COPY_START (13 R301): a channel starts its next command. An unstarted command of a killed group fails (R306). -/
def execCopyStart (quad ch : Nat) (s : State) : Host.Outcome State Fault Refusal :=
  .next (
    match (s.chain quad ch).cmds with
    | [] => s
    | c :: _ =>
      if c.started || (s.chain quad ch).follow.isSome then s
      else if ((s.group? c.grp).map (fun g => g.killed.isSome)).getD true then s.copyFail quad ch c 6
      else s.setHead quad ch { c with started := true })

/-- A copy carried on by some bytes: what it meets stops it, and it waits or fails. -/
def State.copyOn (s : State) (quad ch bytes : Nat) : State :=
  match (s.chain quad ch).cmds with
  | [] => s
  | c :: _ =>
    if !c.started || c.wait.isSome then s
    else if c.lost then s.copyFail quad ch c 2
    else
      match s.group? c.grp with
      | none => s
      | some g =>
        let r := s.copyRun (4 * quad) c g (Nat.min c.count (c.written + bytes))
        let s1 := State.copyProgress r quad ch c
        match r.err, (s1.chain quad ch).cmds with
        | some (.page va f), c1 :: _ =>
          let (s2, n) := s1.engWait (c1.asEng quad ch) g.ctx va f
          s2.setHead quad ch { c1 with wait := some n }
        | some e, c1 :: _ => (s1.copyFail quad ch c1 (s.engReason e)).engNote g.ctx e
        | _, _ => s1

/-- A copy's word that lies further on becomes visible before those in front of it (12 R271): the step that holds byte `pos` of its count is written now, once the rows up to it are found allowed (13 R304). -/
def State.copyAhead (s : State) (quad ch pos : Nat) : State :=
  match (s.chain quad ch).cmds with
  | [] => s
  | c :: _ =>
    if !c.started || c.wait.isSome || c.lost || decide (pos < c.written) then s
    else
      match s.group? c.grp with
      | none => s
      | some g =>
        let r := s.copyRun (4 * quad) { c with written := pos } g (Nat.min c.count (pos + 1))
        if (s.copyRun (4 * quad) c g (Nat.min c.count (pos + 1))).err.isSome || r.err.isSome || r.held || decide (r.pos ≤ pos) || c.ahead.contains r.pos then s
        else r.s.setHead quad ch { c with ahead := r.pos :: c.ahead, flags := r.flags }

/-- The follow-on MMA of a completed copy (13 R303). -/
def CopyCmd.followOn (c : CopyCmd) (quad ch : Nat) : EngCmd :=
  { c.asEng quad ch with acc := mcwAcc c.mcw, slot := mcwSlot c.mcw, coords := (Blk.ofBits c.block).dst.map (fun n => (BitVec.ofNat 32 n : Word)), bar := mcwBar c.mcw }

/-- COPY_COMPLETE (13 R303): the head of a channel writes its last byte, adds its count and ends; its follow-on MMA enters the array queue or waits for an entry. -/
def execCopyComplete (quad ch : Nat) (s : State) : Host.Outcome State Fault Refusal :=
  .next (
    let s1 := s.copyOn quad ch (2 ^ 25)
    match (s.chain quad ch).cmds, (s1.chain quad ch).cmds with
    | c0 :: _, c :: _ =>
      if !c.started || c.wait.isSome || decide (c.seq ≠ c0.seq ∨ c.kern ≠ c0.kern ∨ c.gang ≠ c0.gang) || decide (c.written < c.count) then s1
      else
        let k := s1.chain quad ch
        let s2 := (s1.setChain quad ch { k with cmds := k.cmds.drop 1 }).engDone (c.asEng quad ch) c.flags c.count ((Lay.ofBits c.dst).space == 0)
        let s3 := s2.modChan c.kern c.gang ch (fun x => x.endOne)
        match s3.group? c.grp with
        | some g =>
          if !(Blk.ofBits c.block).follow || g.killed.isSome then s3
          else
            match s3.arrayPut g.core (c.followOn quad ch) with
            | some s4 => s4
            | none => s3.setChain quad ch { s3.chain quad ch with follow := some (c.followOn quad ch) }
        | none => s3
    | _, _ => s1)

/-- FOLLOW_ON_MMA (13 R303): a waiting follow-on MMA takes a freed entry. -/
def execFollowOnMma (quad ch : Nat) (s : State) : Host.Outcome State Fault Refusal :=
  .next (
    match (s.chain quad ch).follow with
    | none => s
    | some f =>
      match s.group? f.grp with
      | none => s.setChain quad ch { s.chain quad ch with follow := none }
      | some g =>
        match s.arrayPut g.core f with
        | none => s
        | some s1 => s1.setChain quad ch { s1.chain quad ch with follow := none })

end Sys2Proof.Machine
end

