-- ==== Sys2Proof/Machine/Device.lean ====
section
/-! DEFINITION. Accesses of the device itself: host memory and MSI-X over port 0 (spec/15 R339, R341, R343, R344), writes through a context's translation (04 R402, 14 R328), the fault ring (04 R102), the journal (04 R103, R104) and group event records (06 R131). -/

namespace Sys2Proof.Machine

/-- Device physical address of a host physical address in the HDM window (15 R341). -/
def State.hdmAt (s : State) (a : Nat) : Option Nat :=
  match s.hdmBase with
  | some b => if b ≤ a ∧ a < b + Config.hbmBytes then some (a - b) else none
  | none => none

/-- An access to a host physical address can be made (15 R344). -/
def State.hostReach (s : State) (a : Nat) : Bool := (s.hdmAt a).isSome || s.linkUp 0

/-- An access to host memory wakes port 0 (15 R352). -/
def State.wakeHost (s : State) (a : Nat) : State := if (s.hdmAt a).isSome then s else s.wakePort 0

/-- Bytes at a host physical address. -/
def State.hostRead (s : State) (a n : Nat) : List Byte :=
  match s.hdmAt a with
  | some pa => s.hbm.read pa n
  | none => s.hostMem.read a n

/-- Bytes written at a host physical address. -/
def State.hostPut (s : State) (a : Nat) (bs : List Byte) : State :=
  match s.hdmAt a with
  | some pa => let s1 := s.dirRecallRange pa bs.length; { s1 with hbm := s1.hbm.write pa bs }
  | none => let s1 := s.wakePort 0; { s1 with hostMem := s1.hostMem.write a bs }

/-- A doubleword at a host physical address. -/
def State.hostDword (s : State) (a : Nat) : Dword := BitVec.ofNat 64 (natOfBytes (s.hostRead a 8))

/-- An MSI-X message of a vector (15 R339, R344): sent while port 0 is up, else held, one for each vector. -/
def State.msix (s : State) (v : Nat) : State :=
  if 2048 ≤ v then s
  else if s.linkUp 0 then { s.wakePort 0 with msi := s.msi ++ [v] }
  else if s.msiHeld.contains v then s else { s with msiHeld := s.msiHeld ++ [v] }

/-- A location some bytes further on. -/
def Loc.add (l : Loc) (n : Nat) : Loc :=
  match l with
  | .mem va pa => .mem (va + n) (pa + n)
  | .cell g o r => .cell g (o + n) r
  | .frame o => .frame (o + n)

/-- Bytes written by the plinth itself at a routed location, performed at fabric scope (12 R270, R276): every die's copy is recalled. -/
def State.plinthPut (s : State) (ctx : Nat) (loc : Loc) (bs : List Byte) : State :=
  match loc with
  | .mem va pa => let s1 := (s.markDirty ctx va).dirRecallRange pa bs.length; { s1 with hbm := s1.hbm.write pa bs }
  | .cell g off _ => s.scratchWrite g off bs
  | .frame _ => s

/-- Streams of device writes, each made in the order it was produced (04 R402): a context's journal and fault ring, an event array. -/
def journalStream (ctx : Nat) : Nat := 4 * ctx
def faultStream (ctx : Nat) : Nat := 4 * ctx + 1
def eventStream (ctx : Nat) (base : Dword) : Nat := 1024 + 256 * base.toNat + ctx

/-- A device write of a stream (04 R402): behind an earlier one that waits, or at once, or waiting for the Registrar. -/
def State.devWrite (s : State) (stream ctx va : Nat) (bs : List Byte) : State :=
  let w (n : Option Nat) : DevWrite := { ctx := ctx, va := va, bytes := bs, stream := stream, wait := n, lost := false }
  if s.devWrites.any (fun x => x.stream == stream) then { s with devWrites := s.devWrites ++ [w none] }
  else
    match s.route ctx va .store with
    | .ok l => s.plinthPut ctx l bs
    | .error f =>
      let (s1, n) := s.devFault ctx va 7 f
      { s1 with devWrites := s1.devWrites ++ [w (some n)] }

/-- The 64 bytes of a journal record (04 R103). -/
def JRec.toNat (r : JRec) : Nat :=
  (r.kind <<< 24 ||| (r.cause % 256) <<< 16 ||| r.state <<< 8 ||| r.queue) + (r.seq.toNat <<< 64) + (r.tacc.toNat <<< 128) + (r.trun.toNat <<< 192) + (r.tend.toNat <<< 256)
    + (((r.nfail % 2 ^ 32) <<< 32 ||| r.ndone % 2 ^ 32) <<< 320) + (r.kseq.toNat <<< 384) + (((r.jidx.toNat % 2 ^ 32) <<< 32 ||| r.upd % 2 ^ 32) <<< 448)

/-- Address of the journal record of an index (04 R103). -/
def Ctx.jaddr (c : Ctx) (j : Dword) : Nat := c.jbase.toNat + j.toNat % 2 ^ c.jlog * 64

/-- UPD and JIDX of the version of a journal record that a device write holds (04 R103). -/
def DevWrite.upd (w : DevWrite) : Nat := natOfBytes ((w.bytes.drop 56).take 4)
def DevWrite.jidx (w : DevWrite) : Nat := natOfBytes ((w.bytes.drop 60).take 4)

/-- The counts the device keeps in a context's descriptor, written there (04 R95): JPROD, FDROP, FPROD. A record whose first version is still held is not yet counted in memory (04 R104). -/
def State.descSync (s : State) (ctx : Nat) : State :=
  let c := s.ctx ctx
  let a := c.desc.toNat
  let js := (s.devWrites.filter (fun w => w.stream == journalStream ctx && w.upd == 1)).length
  let fs := (s.devWrites.filter (fun w => w.stream == faultStream ctx)).length
  if c.state = .empty ∨ !s.hostReach a then s
  else
    ((s.hostPut (a + 0x40) (bytesOfNat (c.jprod - BitVec.ofNat 64 js).toNat 8)).hostPut (a + 0x58) (bytesOfNat c.fdrop.toNat 4)).hostPut (a + 0x60) (bytesOfNat (c.fprod - BitVec.ofNat 64 fs).toNat 8)

/-- The descriptors' counts written again once held records of theirs have been made or lost. -/
def State.descsSync (s : State) (ws : List DevWrite) : State := (distinct ((ws.filter (fun w => decide (w.stream < 1024))).map (fun w => w.ctx))).foldl (fun a c => a.descSync c) s

/-- Held device writes made, in order, as far as nothing stops them. -/
def State.flushDev (s : State) : State :=
  (s.devWrites.foldl (fun (a : State) (w : DevWrite) => if w.wait.isSome then { a with devWrites := a.devWrites ++ [w] } else a.devWrite w.stream w.ctx w.va w.bytes) { s with devWrites := [] }).descsSync s.devWrites

/-- JCONS and FCONS, which software writes in the descriptor (04 R95). -/
def State.jcons (s : State) (ctx : Nat) : Dword := s.hostDword ((s.ctx ctx).desc.toNat + 0x48)
def State.fcons (s : State) (ctx : Nat) : Dword := s.hostDword ((s.ctx ctx).desc.toNat + 0x68)

/-- The journal is full (04 R103). -/
def State.journalFull (s : State) (ctx : Nat) : Bool := decide (((s.ctx ctx).jprod - s.jcons ctx).toNat = 2 ^ (s.ctx ctx).jlog)

/-- A version of a journal record written (04 R103, R104); a lost record is not (04 R402). A record in a final state is no longer kept. -/
def State.jwrite (s : State) (ctx : Nat) (r : JRec) : State :=
  let r1 := { r with upd := r.upd + 1 }
  let c := s.ctx ctx
  let rest := c.journal.filter (fun x => decide (x.jidx ≠ r.jidx))
  let s1 := s.setCtx ctx { c with journal := if 2 ≤ r.state then rest else rest ++ [r1] }
  if r.lost then s1 else s1.devWrite (journalStream ctx) ctx (c.jaddr r.jidx) (bytesOfNat r1.toNat 64)

/-- The record of a journal index that is not final. -/
def State.jrec? (s : State) (ctx : Nat) (j : Dword) : Option JRec := (s.ctx ctx).journal.find? (fun r => decide (r.jidx = j))

/-- A journal record changed and written. -/
def State.jmod (s : State) (ctx : Nat) (j : Dword) (f : JRec → JRec) : State :=
  match s.jrec? ctx j with
  | some r => s.jwrite ctx (f r)
  | none => s

/-- The record of a newly accepted command (04 R103): written, then JPROD. -/
def State.jopen (s : State) (ctx : Nat) (r : JRec) : State :=
  let s1 := s.jwrite ctx { r with jidx := (s.ctx ctx).jprod }
  (s1.setCtx ctx { s1.ctx ctx with jprod := (s1.ctx ctx).jprod + 1 }).descSync ctx

/-- A record to the fault ring (04 R102): a full ring counts FDROP. -/
def State.faultRing (s : State) (ctx : Nat) (r : FaultRec) : State :=
  let c := s.ctx ctx
  if (c.fprod - s.fcons ctx).toNat = 2 ^ c.flog then (s.setCtx ctx { c with fdrop := c.fdrop + 1 }).descSync ctx
  else
    let r1 := { r with idx := c.fprod.setWidth 32 }
    let s1 := s.devWrite (faultStream ctx) ctx (c.fbase.toNat + c.fprod.toNat % 2 ^ c.flog * 64) (bytesOfNat r1.toNat 64)
    (s1.setCtx ctx { s1.ctx ctx with fprod := c.fprod + 1 }).descSync ctx

/-- A group's event record (06 R131). -/
def State.eventRecord (s : State) (kn : Nat) (gidx status : Nat) : State :=
  match s.kern? kn with
  | none => s
  | some k =>
    if k.desc.evAddr = 0 then s
    else s.devWrite (eventStream k.ctx k.desc.evAddr) k.ctx (k.desc.evAddr.toNat + 8 * gidx) (bytesOfNat (k.kseq.toNat <<< 32 ||| gidx <<< 8 ||| status % 256) 8)

/-- Held writes after the Registrar has declared a translation unrecoverable (04 R402): the writes that wait for it are not made, and a journal record lost in this way is dropped with its later versions. -/
def State.devLost (s : State) (n : Nat) : State :=
  let gone := s.devWrites.filter (fun w => decide (w.wait = some n))
  let dead (w : DevWrite) : Bool := decide (w.wait = some n) || gone.any (fun x => x.stream == w.stream && x.va == w.va && x.jidx == w.jidx && decide (w.stream < 1024 ∧ w.stream % 4 = 0))
  let s1 := { s with devWrites := s.devWrites.filter (fun w => !dead w) }
  (gone.foldl (fun (a : State) (w : DevWrite) =>
    if w.stream < 1024 ∧ w.stream % 4 = 0 then
      let c := a.ctx w.ctx
      a.setCtx w.ctx { c with journal := c.journal.map (fun r => if c.jaddr r.jidx = w.va ∧ r.jidx.toNat % 2 ^ 32 = w.jidx then { r with lost := true } else r) }
    else a) s1).descsSync gone

end Sys2Proof.Machine
end

