-- ==== Sys2Proof/Machine/Queue.lean ====
section
/-! DEFINITION. Queues (spec/05 R108 to R119): the control block as the device writes it, notify and unmap, the states of a queue, the ends of commands, and the kills of 04 R101. -/

namespace Sys2Proof.Machine

/-- Code of a queue state in QCB.STATE (05 R108). -/
def QueueSt.code : QueueSt → Nat
  | .unmapped => 0
  | .mapped => 1
  | .active => 2
  | .stalled => 3
  | .draining => 4
  | .suspended => 5
  | .error => 6

/-- A queue record by its key. -/
def State.slot? (s : State) (k : Nat) : Option QSlot := lookKey k s.slots

/-- A queue record replaced. -/
def State.setSlot (s : State) (k : Nat) (q : QSlot) : State := { s with slots := putKey k q s.slots }

/-- A queue record changed, if it exists. -/
def State.modSlot (s : State) (k : Nat) (f : QSlot → QSlot) : State :=
  match s.slot? k with
  | some q => s.setSlot k (f q)
  | none => s

/-- A queue waits at its control block. -/
def State.slotWaits (s : State) (k : Nat) : Bool := ((s.slot? k).map (fun q => q.wait.isSome)).getD false

/-- A queue whose unmap begins (05 R113): a notify that came earlier in the same plinth cycle is pending too. -/
def QSlot.noted (q : QSlot) (cycle : Nat) : QSlot := if q.notedAt = some cycle then { q with pendNotify := true } else q

/-- FINSEQ (05 R108): the oldest outstanding command, or CONS. -/
def QSlot.fin (q : QSlot) : Dword := q.cmds.foldl (fun a c => if c.seq < a then c.seq else a) q.cons

/-- The word at 0x40 as the device writes it (05 R108, R109): PENDNOTIFY keeps a 1 in memory unless a MAP clears it. -/
def QSlot.word40 (q : QSlot) (mapped : Bool) (old : Nat) (clear : Bool) : Nat :=
  (q.home <<< 8) ||| (if mapped then 0x80 else 0) ||| (if q.pendNotify || (!clear && old.testBit 6) then 0x40 else 0) ||| ((if mapped then q.state.code else 0) <<< 3) ||| q.errcode

/-- Where the control block lies, for the device's writes. -/
def State.qcbLoc (s : State) (q : QSlot) : Except PgFault Loc := s.route q.ctx q.qcb.toNat .store

/-- Bytes of the control block written at an offset. -/
def State.qcbPut (s : State) (q : QSlot) (l : Loc) (off v n : Nat) : State := s.plinthPut q.ctx (l.add off) (bytesOfNat v n)

/-- A queue waits for the Registrar at its control block (05 R109, 14 R328). -/
def State.slotWait (s : State) (k : Nat) (q : QSlot) (va : Nat) (f : PgFault) : State :=
  let (s1, n) := s.devFault q.ctx va 7 f
  s1.setSlot k { q with wait := some n }

/-- A queue waits for the page of its head packet, or for one that its acceptance reads (05 R111, 14 R328). -/
def State.headWait (s : State) (k : Nat) (q : QSlot) (va : Nat) (f : PgFault) : State :=
  let (s1, n) := s.devFault q.ctx va 7 f
  s1.setSlot k { q with hwait := some n }

/-- A notify owed to a queue that is unmapped (05 R113, R114): PENDNOTIFY in its control block, then its vector. -/
def State.tellNotify (s : State) (k : Nat) (q : QSlot) (l : Loc) : State :=
  if !q.pendNotify then s
  else
    let old := natOfBytes (s.currentBytes (l.add 0x40) 8)
    let s1 := (s.qcbPut q l 0x40 (old ||| 0x40) 8).setSlot k { q with pendNotify := false }
    if q.nvec = 0xFFFF then s1 else s1.msix q.nvec

/-- The device's fields of the control block written with the values current now (05 R109): while its page is away the queue waits, and later writes behind it; a queue whose block is lost keeps its state on its slot alone. Of an unmapped queue FINSEQ alone is written, and nothing of a record with no ring (RLOG 0), which is owed a notify. -/
def State.qcbSync (s : State) (k : Nat) (clear : Bool) : State :=
  match s.slot? k with
  | none => s
  | some q0 =>
    let q := { q0 with finseq := q0.fin }
    if q.gone ∨ q.wait.isSome then s.setSlot k q else
    match s.qcbLoc q with
    | .ok l =>
      if 256 ≤ k then ((if q.rlog = 0 then s else s.qcbPut q l 0x48 q.finseq.toNat 8).setSlot k q).tellNotify k q l
      else
        let old := natOfBytes (s.currentBytes (l.add 0x40) 8)
        (((s.qcbPut q l 0x18 q.cons.toNat 8).qcbPut q l 0x40 (q.word40 true old clear) 8).qcbPut q l 0x48 q.finseq.toNat 8).setSlot k { q with pendNotify := false }
    | .error f => s.slotWait k q q.qcb.toNat f

/-- PROD read again (05 R110), behind a write of the control block that waits. -/
def State.readProd (s : State) (k : Nat) : State :=
  match s.slot? k with
  | none => s
  | some q =>
    if q.gone then s else if q.wait.isSome then s.setSlot k { q with reread := true } else
    match s.devRead q.ctx (q.qcb.toNat + 0x10) 8 with
    | .ok bs => s.setSlot k { q with prod := BitVec.ofNat 64 (natOfBytes bs), reread := false }
    | .error f => s.slotWait k { q with reread := true } (q.qcb.toNat + 0x10) f

/-- A packet (05 R116): a doubleword of it. -/
def pktDword (p : BitVec 512) (n : Nat) : Nat := bits p (64 * n + 63) (64 * n)

/-- The head packet of a queue (05 R110). -/
def State.headPacket (s : State) (q : QSlot) : Except PgFault (BitVec 512) :=
  (s.devRead q.ctx (q.rbase.toNat + q.cons.toNat % 2 ^ q.rlog * 64) 64).map (fun bs => BitVec.ofNat 512 (natOfBytes bs))

/-- The stall conditions for a head packet (05 R111). -/
def State.stalls (s : State) (q : QSlot) (p : BitVec 512) : Bool :=
  let behind := !q.cmds.isEmpty
  q.wait.isSome || q.hwait.isSome || s.journalFull q.ctx || decide (64 ≤ q.cmds.length) || (p.getLsbD 8 && behind)
    || q.cmds.any (fun c => c.running && (c.type == 2 || c.type == 3)) || (bits p 7 0 == 4 && behind)

/-- A queue enters a state, with its control block written (05 R109). -/
def State.slotState (s : State) (k : Nat) (st : QueueSt) : State :=
  match s.slot? k with
  | none => s
  | some q => if q.state = st then s else (s.setSlot k { q with state := st, idleSince := if st = .mapped then s.ns else q.idleSince }).qcbSync k false

/-- A slot freed at the end of an unmap, its vector signalled where there is something to tell (05 R114). Commands still outstanding are kept. -/
def State.slotFree (s : State) (k : Nat) (q : QSlot) (pend : Bool) : State :=
  let tell := pend && q.nvec != 0xFFFF
  let a1 := if tell then s.msix q.nvec else s
  let a2 := { a1 with slots := dropKey k a1.slots, unmaps := a1.unmaps.filter (fun u => u.cycle == s.plinth && u.slot != k) ++ [{ cycle := s.plinth, slot := k, ctx := q.ctx, qcb := q.qcb, nvec := q.nvec, told := tell }] }
  if q.cmds.isEmpty then a2
  else
    let key := 256 + a2.nextUid
    { a2 with nextUid := a2.nextUid + 1, slots := putKey key { q with state := .unmapped, wait := none, hwait := none, unmapping := false, pendNotify := false } a2.slots, kernels := a2.kernels.map (fun e => if e.2.qkey = k then (e.1, { e.2 with qkey := key }) else e) }

/-- An unmap (05 R114): PROD read again, the word at 0x40, the signal, the slot freed. It waits for an absent page of the control block. DESIGN CHOICE (log 78): of a block whose translation is lost PROD cannot be read, and the vector is signalled for a notify that the slot itself holds. -/
def State.unmap (s : State) (k : Nat) : State :=
  match (s.slot? k).map (fun q => if q.unmapping then q else q.noted s.plinth) with
  | none => s
  | some q =>
    if q.gone then s.slotFree k q q.pendNotify
    else if q.wait.isSome then s.setSlot k { q with state := .draining, unmapping := true }
    else
      match s.qcbLoc q with
      | .ok l =>
        let prod := natOfBytes (s.currentBytes (l.add 0x10) 8)
        let w := q.word40 false (natOfBytes (s.currentBytes (l.add 0x40) 8)) false
        (((s.qcbPut q l 0x18 q.cons.toNat 8).qcbPut q l 0x48 q.fin.toNat 8).qcbPut q l 0x40 w 8).slotFree k q (w.testBit 6 || prod != q.cons.toNat)
      | .error f => s.slotWait k { q with state := .draining, unmapping := true } q.qcb.toNat f

/-- A queue brought to the state the table of 05 R111 gives it: MAPPED with nothing to accept, else STALLED or ACTIVE; a DRAINING queue with nothing outstanding is unmapped. It waits for a write of the control block (05 R109), and for a journal whose descriptor cannot be reached (15 R344). -/
def State.settle (s : State) (k : Nat) : State :=
  match s.slot? k with
  | none => s
  | some q =>
    if q.wait.isSome then s
    else if q.state = .draining then (if q.cmds.isEmpty || q.unmapping then s.unmap k else s)
    else if q.state ≠ .mapped ∧ q.state ≠ .active ∧ q.state ≠ .stalled then s
    else if q.prod = q.cons then s.slotState k .mapped
    else if !s.hostReach ((s.ctx q.ctx).desc.toNat + 0x48) then s
    else
      let s := s.wakeHost ((s.ctx q.ctx).desc.toNat + 0x48)
      match s.headPacket q with
      | .ok p => s.slotState k (if s.stalls q p then .stalled else .active)
      | .error f =>
        let s1 := s.slotState k .stalled
        match s1.slot? k with
        | some q1 => if q1.hwait.isSome ∨ q1.wait.isSome then s1 else s1.headWait k q1 (q.rbase.toNat + q.cons.toNat % 2 ^ q.rlog * 64) f
        | none => s1

/-- What is left of an unmapped queue goes once its last command is final and FINSEQ is written. -/
def State.dropSpent (s : State) (k : Nat) : State :=
  match s.slot? k with
  | some q => if 256 ≤ k ∧ q.cmds.isEmpty ∧ q.wait.isNone ∧ q.pendNotify = false then { s with slots := dropKey k s.slots } else s
  | none => s

/-- A command reaches a final state (05 R119): its record, and FINSEQ. 2 DONE, 3 FAILED, 4 CANCELLED, with NDONE and NFAIL 0. -/
def State.cmdFinish (s : State) (k : Nat) (seq : Dword) (st : Nat) (f : JRec → JRec) : State :=
  match s.slot? k with
  | none => s
  | some q =>
    match q.cmds.find? (fun c => decide (c.seq = seq)) with
    | none => s
    | some c =>
      let s1 := s.jmod q.ctx c.jidx (fun r => if st = 4 then { f r with state := st, tend := BitVec.ofNat 64 s.ns, ndone := 0, nfail := 0 } else { f r with state := st, tend := BitVec.ofNat 64 s.ns })
      let cmds := q.cmds.filter (fun x => decide (x.seq ≠ seq))
      ((s1.modSlot k (fun x => { x with cmds := cmds, idleSince := s.ns })).qcbSync k false).dropSpent k

/-- A kernel that has not started is CANCELLED (06 R133): its groups' event records are written, its claims go with it. -/
def State.kernCancel (s : State) (kn : Nat) : State :=
  match s.kern? kn with
  | none => s
  | some k =>
    let s1 := (List.range k.desc.ngroups).foldl (fun a g => a.eventRecord kn g 0x41) s
    { s1 with kernels := dropKey kn s1.kernels }

/-- A queue enters ERROR (05 R111, R112): accepted commands that have not started become CANCELLED. -/
def State.queueError (s : State) (k code : Nat) : State :=
  match s.slot? k with
  | none => s
  | some q =>
    let s1 := (s.setSlot k { q with state := .error, errcode := code }).qcbSync k false
    (q.cmds.filter (fun c => !c.running)).foldl (fun a c =>
      let a1 := match c.kern with
        | some kn => a.kernCancel kn
        | none => a
      a1.cmdFinish k c.seq 4 (fun r => r)) s1

/-- The queue is bound to a slot. -/
def QueueSt.isMapped (x : QueueSt) : Bool := decide (x ≠ .unmapped)

/-- A command ends (05 R111, R116): FAILED with ONFAIL set puts its queue in ERROR, with code 3 for a wait, 2 for a rejected descriptor, 6 otherwise. -/
def State.cmdFinal (s : State) (k : Nat) (seq : Dword) (st : Nat) (rejected : Bool) (f : JRec → JRec) : State :=
  match s.slot? k with
  | none => s
  | some q =>
    match q.cmds.find? (fun c => decide (c.seq = seq)) with
    | none => s
    | some c =>
      let s1 := s.cmdFinish k seq st f
      let s2 := if st = 3 ∧ c.onfail ∧ q.state.isMapped ∧ q.unmapping = false then s1.queueError k (if c.type = 2 ∨ c.type = 3 then 3 else if rejected then 2 else 6) else s1
      s2.settle k

/-- A kernel whose last group has ended (06 R131, R133): contributions to its ordered slots fail, its command ends, and it is gone. -/
def State.kernFinal (s : State) (kn : Nat) : State :=
  match s.kern? kn with
  | none => s
  | some k =>
    let ok := (k.ended.filter (fun e => e.2 == 0)).length
    let bad := k.ended.length - ok
    let s1 := (s.oslots.filter (fun o => o.kern == kn)).foldl (fun a o => a.slotFail o 4) s
    let s2 := s1.cmdFinal k.qkey k.seq (if bad = 0 then 2 else 3) false (fun r => { r with ndone := ok, nfail := bad })
    { s2 with kernels := dropKey kn s2.kernels }

/-- Groups that have ended are counted (06 R131, 05 R119); the last one ends the kernel. -/
def State.countEnded (s : State) (kn : Nat) (gs : List (Nat × Nat)) : State :=
  match s.kern? kn with
  | none => s
  | some k =>
    let k1 := { k with ended := k.ended ++ gs }
    let s1 := s.setKern kn k1
    if k.desc.ngroups ≤ k1.ended.length then s1.kernFinal kn
    else
      let ok := (k1.ended.filter (fun e => e.2 == 0)).length
      match (s1.slot? k.qkey).bind (fun q => q.cmds.find? (fun c => decide (c.seq = k.seq))) with
      | some c => s1.jmod k.ctx c.jidx (fun r => { r with ndone := ok, nfail := k1.ended.length - ok })
      | none => s1

/-- A kill of a group (04 R101; 07 R139; 10 R240; 16 R361): every thread exits; its region, lock, handler activation and pins are gone. It retires with the status. -/
def State.killGroup (s : State) (gid status : Nat) : State :=
  match s.group? gid with
  | none => s
  | some g =>
    if g.killed.isSome then s
    else
      let stop (t : Thread) : Thread := { t with cond := .exited, region := none, handler := none, held := [], q := List.replicate 8 [], ret := [], wake := none, haltReq := none }
      let s1 := s.setGroup gid { g with killed := some status, threads := g.threads.map stop }
      let locks := (s1.locks.map (fun l => { l with holder := l.holder.filter (fun h => h.1 != gid), refused := l.refused.filter (fun h => h.1 != gid) })).filter (fun l => l.holder.isSome || !l.refused.isEmpty)
      let s2 := { s1 with locks := locks, pins := s1.pins.filter (fun p => p.grp != gid) }
      let s3 := if g.resident then s2.setCore g.core { s2.core g.core with activations := (s2.core g.core).activations.filter (fun a => a.grp != gid) } else s2
      s3.purge gid

/-- Status of a killed group: the fault's cause for the group that faulted, else KILLED_BY_CONTAINMENT (04 R101). -/
def killStatus (who : Option (Nat × Nat)) (gid : Nat) : Nat :=
  match who with
  | some (g, c) => if g = gid then c else 0x41
  | none => 0x41

/-- A context's save slot freed. -/
def State.freeSlot (s : State) (ctx : Nat) (n : Option Nat) : State :=
  match n with
  | none => s
  | some k => s.setCtx ctx { s.ctx ctx with slotsUsed := (s.ctx ctx).slotsUsed.filter (fun x => x != k) }

/-- A kill of a gang (04 R101, 06 R133): one that never started has its groups counted as failed; a member that is live is killed. -/
def State.killGang (s : State) (kn gi : Nat) (who : Option (Nat × Nat)) : State :=
  match s.kern? kn, s.gang? kn gi with
  | some k, some g =>
    if g.state = .retired then s
    else if g.state = .waiting then
      let gs := (List.range k.desc.gangSize).map (fun m => gi * k.desc.gangSize + m)
      let s1 := gs.foldl (fun a x => a.eventRecord kn x 0x41) (s.modGang kn gi (fun x => { x with state := .retired }))
      s1.countEnded kn (gs.map (fun x => (x, 0x41)))
    else
      let s1 := (s.freeSlot k.ctx g.saveSlot).modGang kn gi (fun x => { x with saveSlot := none, halted := false, state := if x.state = .saved then .saved else .resident })
      g.members.foldl (fun a n => a.killGroup n (killStatus who n)) s1
  | _, _ => s

/-- A kill of a kernel (04 R101): each of its gangs. -/
def State.killKern (s : State) (kn : Nat) (who : Option (Nat × Nat)) : State :=
  match s.kern? kn with
  | none => s
  | some k => (List.range k.gangs.length).foldl (fun a g => a.killGang kn g who) s

/-- What a running SIGNAL does (05 R116): its write at fabric scope, then DONE and its vector; it waits for an absent page, and fails when the page is lost. -/
def State.signalRun (s : State) (k : Nat) (c : Cmd) : State :=
  match s.slot? k with
  | none => s
  | some q =>
    if c.lost then s.cmdFinal k c.seq 3 false (fun r => r)
    else if c.wait.isSome then s
    else
      match s.route q.ctx (pktDword c.packet 1) .store with
      | .error f =>
        let (s1, n) := s.devFault q.ctx (pktDword c.packet 1) 7 f
        s1.modSlot k (fun x => { x with cmds := x.cmds.map (fun y => if y.seq = c.seq then { y with wait := some n } else y) })
      | .ok l =>
        let old := natOfBytes (s.currentBytes l 8)
        let v := pktDword c.packet 2
        let new := match pktDword c.packet 3 % 4 with
          | 0 => v
          | 1 => (old + v) % 2 ^ 64
          | _ => Nat.max old v
        let s1 := (s.plinthPut q.ctx l (bytesOfNat new 8)).cmdFinal k c.seq 2 false (fun r => r)
        if (pktDword c.packet 3).testBit 2 && q.nvec != 0xFFFF then s1.msix q.nvec else s1

/-- A kill of a queue (04 R101): its running kernels are killed, its waits fail, its signals complete, the rest is cancelled. -/
def State.killQueue (s : State) (k : Nat) (who : Option (Nat × Nat)) : State :=
  match s.slot? k with
  | none => s
  | some q =>
    let s1 := s.queueError k 4
    (q.cmds.filter (fun c => c.running)).foldl (fun a c =>
      match c.type, c.kern with
      | 1, some kn => a.killKern kn who
      | 4, _ => a.signalRun k c
      | _, _ => a.cmdFinish k c.seq 3 (fun r => r)) s1

/-- A kill of a context (04 R93, R101): every queue of it, and the context goes to FAULTED. DESIGN CHOICE (log 79): the table of R93 has a kill in ACTIVE and QUIESCING only, and one decided in another state changes nothing. -/
def State.killCtx (s : State) (ctx : Nat) (who : Option (Nat × Nat)) : State :=
  let c := s.ctx ctx
  if c.state ≠ .active ∧ c.state ≠ .quiescing then s
  else
    let s1 := s.setCtx ctx { c with state := .faulted }
    let s2 := (s1.slots.filter (fun e => e.2.ctx == ctx)).foldl (fun a e => a.killQueue e.1 who) s1
    (s2.kernels.filter (fun e => e.2.ctx == ctx)).foldl (fun a e => a.killKern e.1 who) s2

/-- A running WAITMEM or WAITCMD evaluated (05 R116). -/
def State.waitEval (s : State) (k : Nat) (c : Cmd) : State :=
  match s.slot? k with
  | none => s
  | some q =>
    if c.lost then s.cmdFinal k c.seq 3 false (fun r => r)
    else if c.wait.isSome then s
    else
      let va := if c.type = 2 then pktDword c.packet 1 else pktDword c.packet 1 + 0x48
      match s.devRead q.ctx va 8 with
      | .error f =>
        let (s1, n) := s.devFault q.ctx va 7 f
        s1.modSlot k (fun x => { x with cmds := x.cmds.map (fun y => if y.seq = c.seq then { y with wait := some n } else y) })
      | .ok bs =>
        let x := natOfBytes bs
        let v := pktDword c.packet 2
        let holds := if c.type = 2 then
            let y := x &&& pktDword c.packet 3
            (match pktDword c.packet 4 % 4 with
            | 0 => decide (v ≤ y)
            | 1 => y == v
            | _ => y != v)
          else decide (v < x)
        if holds then s.cmdFinal k c.seq 2 false (fun r => r) else s

/-- Every running wait of a queue evaluated. -/
def State.waitsEval (s : State) (k : Nat) : State :=
  match s.slot? k with
  | none => s
  | some q => (q.cmds.filter (fun c => c.running && (c.type == 2 || c.type == 3))).foldl (fun a c => a.waitEval k c) s

/-- What is kept of an unmapped queue that is owed a notify (05 R113): its control block and the vector still to signal; it has no ring. -/
def Unmapped.owed (u : Unmapped) (nvec now : Nat) : QSlot :=
  { home := u.slot, state := .unmapped, saved := .unmapped, errcode := 0, ctx := u.ctx, qcb := u.qcb, prio := 0, rlog := 0, rbase := 0, qpolicy := 0, idleUnmap := 0, nvec := nvec, prod := 0, cons := 0, finseq := 0, cmds := [], idleSince := now, pendNotify := true, wait := none, lost := false }

/-- A notify in the plinth cycle in which its slot was unmapped belongs to the unmapping path (05 R113, R114): PENDNOTIFY in the control block, and the signal. It waits for an absent page of the block (05 R109). -/
def State.lateNotify (s : State) (k : Nat) : State :=
  match s.unmaps.find? (fun u => u.cycle == s.plinth && u.slot == k) with
  | none => s
  | some u =>
    match s.route u.ctx u.qcb.toNat .store with
    | .error f =>
      let key := 256 + s.nextUid
      let told : State := { s with nextUid := s.nextUid + 1, unmaps := s.unmaps.map (fun x => if x = u then { x with told := true } else x) }
      match s.slots.find? (fun e => decide (256 ≤ e.1 ∧ e.2.qcb = u.qcb ∧ e.2.wait.isSome) && e.2.ctx == u.ctx) with
      | some e => told.setSlot e.1 { e.2 with pendNotify := true, nvec := if u.told then 0xFFFF else u.nvec }
      | none => told.slotWait key (u.owed (if u.told then 0xFFFF else u.nvec) s.ns) u.qcb.toNat f
    | .ok l =>
      let old := natOfBytes (s.currentBytes (l.add 0x40) 8)
      let s1 := s.plinthPut u.ctx (l.add 0x40) (bytesOfNat (old ||| 0x40) 8)
      let s2 := if u.told || u.nvec == 0xFFFF then s1 else s1.msix u.nvec
      { s2 with unmaps := s2.unmaps.map (fun x => if x = u then { x with told := true } else x) }

/-- A notify that reaches a slot (05 R111, R113, R116). -/
def State.notifySlot (s : State) (k : Nat) : State :=
  match s.slot? k with
  | none => s.lateNotify k
  | some q =>
    let s := s.setSlot k { q with notedAt := some s.plinth }
    match q.state with
    | .mapped | .active | .stalled => ((s.readProd k).waitsEval k).settle k
    | .error | .suspended => s.waitsEval k
    | .draining => ((s.modSlot k (fun x => { x with pendNotify := true })).qcbSync k false).waitsEval k
    | .unmapped => s

end Sys2Proof.Machine
end

