-- ==== Sys2Proof/Machine/Image.lean ====
section
/-! DEFINITION. The gang image (spec/06 R134): its bytes, in the order in which its size counts its parts (log 25), its place in the save area (04 R99), its writing (06 R136), and what a debugger's write of it means (16 R365; 07 R142; 11 R245). -/

namespace Sys2Proof.Machine

/-- A wait word holds no reserved value (07 R142). -/
def waitOk (w : Dword) : Bool :=
  match bits w 63 62 with
  | 1 => decide (bits w 61 59 ≠ 0)
  | 3 => false
  | _ => decide (bits w 61 59 = 0)

/-- An area of an image as one little-endian number, from its fields: first byte, bytes, value. -/
def areaOf (l : List (Nat × Nat × Nat)) : Nat := l.foldl (fun a e => a + (e.2.2 % 2 ^ (8 * e.2.1)) <<< (8 * e.1)) 0

/-- The field of an area at a byte. -/
def areaField (n off len : Nat) : Nat := n >>> (8 * off) % 2 ^ (8 * len)

/-- An area with the bytes a write covers replaced, from a byte of it on. -/
def areaWrite (n off : Nat) (bytes : List Byte) : Nat :=
  bytes.zipIdx.foldl (fun (a : Nat) (e : Byte × Nat) => a - areaField a (off + e.2) 1 <<< (8 * (off + e.2)) + e.1.toNat <<< (8 * (off + e.2))) n

/-- A held write in its 24 bytes (06 R134, log 25): value, destination operand code, count of window instructions, and kind: registers written, flags raised. The repaired registers that land with the result of a commit have no place in them (log 25). -/
def HeldWrite.area (h : HeldWrite) : Nat := areaOf [(0, 16, h.value.toNat), (16, 2, h.reg), (18, 2, h.left), (20, 1, h.count), (21, 1, h.flags.toNat)]

/-- A held write from its 24 bytes; none where no register is written. -/
def HeldWrite.ofArea (n : Nat) (at_ : Dword) : Option HeldWrite :=
  if areaField n 20 1 = 0 then none
  else some { reg := areaField n 16 2, count := areaField n 20 1, value := BitVec.ofNat 128 (areaField n 0 16), left := areaField n 18 2, ready := true, tag := none, flags := BitVec.ofNat 7 (areaField n 21 1), at_ := at_ }

/-- The fields of a thread's area, as 06 R134 lists them. -/
def Thread.areaList (t : Thread) : List (Nat × Nat × Nat) :=
  t.held.zipIdx.map (fun (h : HeldWrite × Nat) => (24 * h.2, 24, h.1.area))
  ++ (List.range 32).map (fun k => (0x180 + 4 * k, 4, (((t.queue (k / 4))[k % 4]?).map (fun e => e.value.toNat)).getD 0))
  ++ (List.range 8).flatMap (fun k => [(0x200 + 4 * k, 2, ((t.queue k).filter (fun e => e.arrived)).length), (0x202 + 4 * k, 2, ((t.queue k).filter (fun e => !e.arrived)).length)])
  ++ (List.range 8).map (fun k => (0x220 + 8 * k, 8, (t.ret.getD k 0).toNat))
  ++ [(0x260, 8, t.spill), (0x268, 8, t.waitWord.toNat)]
  ++ (List.range 8).map (fun k => (0x270 + 2 * k, 2, (t.stack.getD k 0).toNat))
  ++ [(0x280, 4, t.depth.toNat), (0x284, 4, t.sq.toNat), (0x288, 4, t.reloc.toNat), (0x28C, 4, t.acause.toNat), (0x290, 4, t.arepairs.toNat), (0x294, 4, t.retry), (0x298, 8, (t.lastAbegin.getD 0).toNat), (0x2A0, 8, t.napLeft), (0x2A8, 8, t.p.toNat)]
  ++ [(0x2B0, 64, (t.handler.map (fun h => h.record.toNat)).getD 0), (0x2F0, 16, (t.handler.map (fun h => h.data.toNat)).getD 0)]

/-- A thread's area (06 R134). -/
def Thread.area (t : Thread) : Nat := areaOf t.areaList

/-- A fault record from its 64 bytes (16 R354). -/
def FaultRec.ofNat (n : Nat) : FaultRec :=
  let f (k hi lo : Nat) : Nat := n >>> (64 * k + lo) % 2 ^ (hi + 1 - lo)
  { kseq := BitVec.ofNat 32 (f 0 63 32), route := f 0 31 24, ctx := f 0 23 16, cls := f 0 15 8, cause := f 0 7 0, noThread := decide (f 1 48 48 = 1), count := f 1 47 42, first := f 1 41 32, gidx := f 1 23 0,
    instAddr := BitVec.ofNat 64 (f 2 63 0), addr := BitVec.ofNat 64 (f 3 63 0), retry := f 4 47 40, queue := f 4 39 32, laneMask := BitVec.ofNat 32 (f 4 31 0), extra := BitVec.ofNat 64 (f 5 63 0), time := BitVec.ofNat 64 (f 6 63 0), idx := BitVec.ofNat 32 (f 7 63 32), regTop := BitVec.ofNat 32 (f 7 31 0) }

/-- A thread with its area written (06 R134); a field whose bytes are as they were is kept as it is; none for a reserved wait word. -/
def Thread.ofArea (t : Thread) (n clock : Nat) : Option Thread :=
  let old := t.area
  let f (off len : Nat) : Nat := areaField n off len
  let same (off len : Nat) : Bool := areaField n off len == areaField old off len
  let wait : Dword := BitVec.ofNat 64 (f 0x268 8)
  let depth : Word := BitVec.ofNat 32 (f 0x280 4)
  let queue (k : Nat) : List QEntry :=
    let word (j : Nat) : Word := BitVec.ofNat 32 (f (0x180 + 16 * k + 4 * j) 4)
    let kept := ((t.queue k).zipIdx.map (fun (e : QEntry × Nat) => if e.2 < 4 then { e.1 with value := word e.2 } else e.1))
    if same (0x200 + 4 * k) 4 then kept
    else (List.range (Nat.min 4 (f (0x200 + 4 * k) 2 + f (0x202 + 4 * k) 2))).map (fun j => { value := word j, arrived := decide (j < f (0x200 + 4 * k) 2), left := 0 })
  if !waitOk wait then none
  else
    some { (if same 0x268 8 then t else t.setWait wait clock) with
      held := (List.range 16).filterMap (fun k => if same (24 * k) 24 then t.held[k]? else (HeldWrite.ofArea (f (24 * k) 24) ((t.held[k]?.map (fun h => h.at_)).getD t.addr)).map (fun h => { h with more := (t.held[k]?.map (fun x => x.more)).getD [] }))
      q := (List.range t.q.length).map queue
      ret := t.ret.zipIdx.map (fun (e : Dword × Nat) => if e.2 < 8 then BitVec.ofNat 64 (f (0x220 + 8 * e.2) 8) else e.1)
      spill := f 0x260 8, stack := (if same 0x270 16 && same 0x280 4 then t.stack else ((List.range 8).map (fun k => (BitVec.ofNat 16 (f (0x270 + 2 * k) 2) : BitVec 16))).take depth.toNat), depth := depth, sq := BitVec.ofNat 32 (f 0x284 4)
      reloc := decide (f 0x288 4 ≠ 0), acause := BitVec.ofNat 32 (f 0x28C 4), arepairs := BitVec.ofNat 32 (f 0x290 4), retry := if same 0x294 4 then t.retry else f 0x294 4
      lastAbegin := if same 0x298 8 then t.lastAbegin else some (BitVec.ofNat 64 (f 0x298 8)), napLeft := if same 0x2A0 8 then t.napLeft else f 0x2A0 8, p := BitVec.ofNat 7 (f 0x2A8 8)
      handler := t.handler.map (fun h => { h with record := if same 0x2B0 64 then h.record else FaultRec.ofNat (f 0x2B0 64), data := BitVec.ofNat 128 (f 0x2F0 16) }) }

/-- A mask of the instances that something holds of, the first in bit 0. -/
def barMask (l : List Barrier) (p : Barrier → Bool) : Nat := l.zipIdx.foldl (fun (a : Nat) (b : Barrier × Nat) => a + (p b.1).toNat <<< b.2) 0

/-- A group's header (06 R134, log 25): FPFLAGS, FPTRAPEN, FPROUND, the pending FP exception and its address, the generator key, which of gb0 to gb15 have an open or a past phase that took an arrival of the global space (11 R251), and their records (11 R245). -/
def Group.area (g : Group) : Nat :=
  areaOf ([(0x00, 8, g.fpflags.toNat), (0x08, 8, g.trapEn.toNat + g.orderReq.toNat <<< 16 + g.pinLapse.toNat <<< 17), (0x10, 8, g.fpround.toNat), (0x18, 8, g.fpPending.isSome.toNat), (0x20, 8, ((g.fpPending.map (fun (p : Dword × Nat) => p.1)).getD 0).toNat), (0x28, 8, g.key.toNat), (0x30, 2, barMask g.gb (fun b => b.openGlobal)), (0x32, 2, barMask g.gb (fun b => b.pastGlobal))]
    ++ g.gb.zipIdx.map (fun (b : Barrier × Nat) => (0x100 + 32 * b.2, 32, b.1.record)))

/-- A group with its header written; none for a reserved FPROUND (03 R79) or a changed barrier record (11 R245). -/
def Group.ofArea (g : Group) (n : Nat) : Option Group :=
  let f (off len : Nat) : Nat := areaField n off len
  let at_ : Dword := BitVec.ofNat 64 (f 0x20 8)
  if 4 < f 0x10 8 % 8 ∨ areaField n 0x100 512 ≠ areaField g.area 0x100 512 then none
  else some { g with
    fpflags := BitVec.ofNat 7 (f 0 8), trapEn := BitVec.ofNat 7 (f 8 8), orderReq := (f 8 8).testBit 16, pinLapse := (f 8 8).testBit 17, fpround := BitVec.ofNat 3 (f 0x10 8), key := BitVec.ofNat 64 (f 0x28 8)
    fpPending := if f 0x18 8 = 0 then none else some (at_, (g.fpPending.map (fun (p : Dword × Nat) => p.2)).getD 0) }

/-- A gang's header (06 R134, log 25): qb0 to qb7 and their masks as a group's, the number of cancelled copies, each channel's three values and status words (13 R301, R305), and channel and sequence of each cancelled copy. -/
def Gang.area (g : Gang) : Nat :=
  areaOf (g.qb.zipIdx.map (fun (b : Barrier × Nat) => (32 * b.2, 32, b.1.record)) ++ [(0x100, 1, barMask g.qb (fun b => b.openGlobal)), (0x101, 1, barMask g.qb (fun b => b.pastGlobal)), (0x104, 4, g.cancelled.length)]
    ++ g.chans.zipIdx.flatMap (fun (c : ChanState × Nat) => let a := 0x110 + 32 * c.2; [(a, 4, c.1.seq.toNat), (a + 4, 4, c.1.done.toNat), (a + 8, 8, c.1.wp.toNat), (a + 16, 4, c.1.canFirst.toNat), (a + 20, 4, c.1.canLast.toNat), (a + 24, 4, c.1.failFirst.toNat), (a + 28, 4, c.1.failCount.toNat)])
    ++ g.cancelled.zipIdx.map (fun (e : (Nat × Word) × Nat) => (0x190 + 8 * e.2, 8, e.1.1 <<< 32 ||| e.1.2.toNat)))

/-- A channel's values from its 32 bytes of a gang's header. -/
def ChanState.ofArea (c : ChanState) (n : Nat) : ChanState :=
  let f (off : Nat) : Word := BitVec.ofNat 32 (areaField n off 4)
  { c with seq := f 0, done := f 4, wp := BitVec.ofNat 64 (areaField n 8 8), canFirst := f 16, canLast := f 20, failFirst := f 24, failCount := f 28 }

/-- A gang with its header written; none for a changed barrier record (11 R245). -/
def Gang.ofArea (g : Gang) (n : Nat) : Option Gang :=
  if areaField n 0 256 ≠ areaField g.area 0 256 then none
  else some { g with
    chans := g.chans.zipIdx.map (fun (c : ChanState × Nat) => c.1.ofArea (areaField n (0x110 + 32 * c.2) 32))
    cancelled := (List.range (Nat.min 462 (areaField n 0x104 4))).map (fun k => (areaField n (0x194 + 8 * k) 4, BitVec.ofNat 32 (areaField n (0x190 + 8 * k) 4))) }

/-- Parts of a group image, by offset (06 R134). -/
inductive ImagePart where
  | header (off : Nat)
  | frame (off : Nat)
  | scratch (off : Nat)
  | acc (off : Nat)
  | vitrine (off : Nat)
  | thread (tid off : Nat)
  | pad

/-- The part a byte of a group image belongs to. -/
def Group.imagePart (g : Group) (o : Nat) : ImagePart :=
  let a := o - 4096
  let b := a - g.frameBytes
  let c := b - 4096 * g.scratchUnits
  let d := c - 16384 * g.accs
  let e := d - 4096 * g.vslots
  if o < 4096 then .header o
  else if a < g.frameBytes then .frame a
  else if b < 4096 * g.scratchUnits then .scratch b
  else if c < 16384 * g.accs then .acc c
  else if d < 4096 * g.vslots then .vitrine d
  else if e < 1024 * g.threads.length then .thread (e / 1024) (e % 1024)
  else .pad

/-- Bytes of a group image, a multiple of 4,096 (06 R134). -/
def Group.imageSize (g : Group) : Nat :=
  (4096 + g.frameBytes + 4096 * g.scratchUnits + 16384 * g.accs + 4096 * g.vslots + 1024 * g.threads.length + 4095) / 4096 * 4096

/-- Byte b of a word. -/
def wordByte (w : Word) (b : Nat) : Byte := (w >>> (8 * b)).setWidth 8

/-- A word with byte b replaced. -/
def putWordByte (w : Word) (b : Nat) (x : Byte) : Word := (w &&& ~~~((0xFF : Word) <<< (8 * b))) ||| (x.setWidth 32 <<< (8 * b))

/-- A byte of a group image; none where the spec names no content (06 R134). -/
def Group.imageByte (g : Group) (o : Nat) : Option Byte :=
  match g.imagePart o with
  | .header a => if a < 0x300 then some (BitVec.ofNat 8 (areaField g.area a 1)) else none
  | .pad => none
  | .frame a =>
    let (r, tid, b) := g.frameAt a
    some (((g.threads[tid]?).map (fun t => wordByte (t.v.get r) b)).getD 0)
  | .scratch a => some (g.scratch.get a)
  | .acc a => some (wordByte (g.acc.get (a / 4)) (a % 4))
  | .vitrine a => some (g.vitrine.get a)
  | .thread tid a =>
    match g.threads[tid]? with
    | none => none
    | some t => if a < 0x300 then some (BitVec.ofNat 8 (areaField t.area a 1)) else none

/-- A byte of a group image's frame, scratchpad, accumulators or vitrine slots written. -/
def Group.imageSet (g : Group) (o : Nat) (x : Byte) : Group :=
  match g.imagePart o with
  | .frame a =>
    let (r, tid, b) := g.frameAt a
    { g with threads := modifyAt g.threads tid (fun t => t.setV r (putWordByte (t.v.get r) b x)) }
  | .scratch a => { g with scratch := g.scratch.set a x }
  | .acc a => { g with acc := g.acc.set (a / 4) (putWordByte (g.acc.get (a / 4)) (a % 4) x) }
  | .vitrine a => { g with vitrine := g.vitrine.set a x }
  | _ => g

/-- 64 bytes of a group image written (16 R365), which lie in one part; none for a value that may not be written. -/
def Group.imageWrite (g : Group) (o : Nat) (bytes : List Byte) (clock : Nat) : Option Group :=
  match g.imagePart o with
  | .header a => g.ofArea (areaWrite g.area a bytes)
  | .thread tid a =>
    match g.threads[tid]? with
    | none => some g
    | some t => (t.ofArea (areaWrite t.area a bytes) clock).map (fun t1 => { g with threads := g.threads.set tid t1 })
  | _ => some (bytes.zipIdx.foldl (fun (b : Group) (e : Byte × Nat) => b.imageSet (o + e.2) e.1) g)

/-- Live members of a gang: placed groups that have not retired. -/
def State.liveMembers (s : State) (g : Gang) : List Nat := g.members.filter (fun n => (s.group? n).isSome)

/-- Bytes of a gang's image, a multiple of 65,536 (06 R134). -/
def State.imageSize (s : State) (g : Gang) : Nat :=
  (4096 + ((s.liveMembers g).map (fun n => ((s.group? n).map (fun x => x.imageSize)).getD 0)).sum + 65535) / 65536 * 65536

/-- The group a byte of a gang's image belongs to, and its place in that group's image: the members follow the gang's header in their order. -/
def State.imageGroup (s : State) (g : Gang) (off : Nat) : Option (Nat × Nat) :=
  let size := (((s.liveMembers g).head?.bind (fun n => s.group? n)).map (fun x => x.imageSize)).getD 1
  if off < 4096 then none else (s.liveMembers g)[(off - 4096) / size]?.map (fun n => (n, (off - 4096) % size))

/-- A byte of a gang's image; none where the spec names no content. -/
def State.gangByte (s : State) (g : Gang) (off : Nat) : Option Byte :=
  if off < 4096 then some (BitVec.ofNat 8 (areaField g.area off 1)) else (s.imageGroup g off).bind (fun e => (s.group? e.1).bind (fun x => x.imageByte e.2))

/-- Where a gang's image lies: its slot of the save area (04 R99). -/
def State.saveAt (s : State) (ctx : Nat) (g : Gang) : Nat := (s.ctx ctx).saveBase.toNat + g.saveSlot.getD 0 * (s.ctx ctx).slotSize

/-- Bytes of a gang's image written to its slot and performed (06 R136); those without content are free. A page whose translation is lost is not written (log 26). -/
def State.savePut (s : State) (ctx : Nat) (g : Gang) (off n : Nat) : State :=
  match s.route ctx (s.saveAt ctx g + off) .store with
  | .ok l => s.plinthPut ctx l ((List.range n).map (fun k => (s.gangByte g (off + k)).getD (Config.freeByte s.choiceCtr (off + k))))
  | .error _ => s

/-- The pages of a gang's image, by their offset in it. -/
def State.savePages (s : State) (g : Gang) : List Nat := (List.range (s.imageSize g / 65536)).map (fun i => 65536 * i)

/-- The first page of a gang's image that an access of the device does not reach, but for pages whose translation is lost. -/
def State.saveFault (s : State) (ctx : Nat) (g : Gang) (access : Want) : Option (Nat × PgFault) :=
  (s.savePages g).findSome? (fun off =>
    let va := s.saveAt ctx g + off
    match s.route ctx va access with
    | .ok _ => none
    | .error f => if g.saveLost.contains (va / 65536) then none else some (va, f))

/-- The image of a gang written, page by page (06 R136). -/
def State.saveImage (s : State) (ctx : Nat) (g : Gang) : State :=
  let s1 := (s.savePages g).foldl (fun (a : State) off => a.savePut ctx g off 65536) s
  { s1 with choiceCtr := s1.choiceCtr + 1 }

end Sys2Proof.Machine
end

