-- ==== Sys2Proof/Machine/Gang.lean ====
section
/-! DEFINITION. Gangs (spec/06 R127 to R137): what the distributor sees, the order of placement, placing new and saved gangs, dependences, pre-emption, and the retirement of groups. -/

namespace Sys2Proof.Machine

/-- A quad is in placement (01 R27, 19 R396). -/
def State.inPlacement (s : State) (q : Nat) : Bool := decide (q < Config.quads) && !s.bar.qout.getLsbD q && !s.bar.qgate.getLsbD q

/-- Bytes of frame of a descriptor (01 R17). -/
def LaunchDesc.frameBytes (d : LaunchDesc) : Nat := d.frame * ((d.threads + 31) / 32) * 128

/-- What one group of a kernel takes of a core; `frameBytes` counts frame and scratchpad together (01 R16, 06 R128). -/
def LaunchDesc.need (d : LaunchDesc) : CoreFree :=
  { groups := 1, threads := d.threads, frameBytes := d.frameBytes + 4096 * d.scratch, scratchBytes := 4096 * d.scratch, accs := d.acc, vslots := d.vslots }

/-- An empty core: 704 KiB beside the smallest cache, 512 KiB of it at most scratchpad (01 R16, 06 R128). -/
def CoreFree.full : CoreFree := { groups := 8, threads := 2048, frameBytes := 720896, scratchBytes := 524288, accs := 16, vslots := 512 }

/-- A need fits what is free. -/
def CoreFree.fits (f n : CoreFree) : Bool :=
  decide (n.groups ≤ f.groups ∧ n.threads ≤ f.threads ∧ n.frameBytes ≤ f.frameBytes ∧ n.scratchBytes ≤ f.scratchBytes ∧ n.accs ≤ f.accs ∧ n.vslots ≤ f.vslots)

/-- What is free after a need is taken. -/
def CoreFree.take (f n : CoreFree) : CoreFree :=
  { groups := f.groups - n.groups, threads := f.threads - n.threads, frameBytes := f.frameBytes - n.frameBytes, scratchBytes := f.scratchBytes - n.scratchBytes, accs := f.accs - n.accs, vslots := f.vslots - n.vslots }

/-- What a core has free. -/
def State.coreFree (s : State) (core : Nat) : CoreFree :=
  (s.residents core).foldl (fun f e => f.take { groups := 1, threads := e.2.threads.length, frameBytes := e.2.frameBytes + 4096 * e.2.scratchUnits, scratchBytes := 4096 * e.2.scratchUnits, accs := e.2.accs, vslots := e.2.vslots }) CoreFree.full

/-- The gang has a member that can run. -/
def State.gangAlive (s : State) (g : Gang) : Bool := g.members.any (fun n => ((s.group? n).map (fun x => x.killed.isNone)).getD false)

/-- Barrier sets of co-resident kernels in use (11 R244). -/
def State.setsUsed (s : State) : Nat := (s.kernels.filter (fun e => e.2.barSet)).length

/-- A co-resident kernel may begin to gather (06 R130, 11 R244): accepted, its context ACTIVE, with a barrier set. -/
def State.mayGather (s : State) (k : Kernel) : Bool :=
  k.desc.cor && decide (k.state = .accepted) && decide ((s.ctx k.ctx).state = .active) && (k.barSet || decide (s.setsUsed < 32))

/-- The next kernel begins to gather, in the order of R129, when none does (06 R130). -/
def State.startGather (s : State) : State :=
  if s.kernels.any (fun e => e.2.gathering) then s
  else
    match (s.kernels.filter (fun e => s.mayGather e.2)).foldl (fun (b : Option (Nat × Kernel)) e => match b with
      | none => some e
      | some x => if x.2.prio < e.2.prio ∨ (x.2.prio = e.2.prio ∧ e.2.order < x.2.order) then some e else some x) none with
    | some e => s.setKern e.1 { e.2 with gathering := true, barSet := true }
    | none => s

/-- A gang may be placed now (06 R129, R130; 04 R93): its kernel has been accepted and has not ended, its context is ACTIVE, and it is saved, with no page of its image awaited, or waiting with its dependences held, and its co-resident kernel gathering. -/
def State.eligible (s : State) (k : Kernel) (gi : Nat) (g : Gang) : Bool :=
  decide ((s.ctx k.ctx).state = .active) && (match g.state with
    | .saved => s.gangAlive g && g.saveWait.isNone
    | .waiting =>
      g.depOk && (!k.desc.cor || (k.gathering && !k.claims.any (fun c => c.1 == gi)))
    | _ => false)

/-- A kernel holds an open phase on a die or device barrier (06 R129). DESIGN CHOICE (log 97): a phase is held open once it has an arrival; expected or arrived bytes alone do not count. -/
def Kernel.openPhase (k : Kernel) : Bool := (k.dieBars.flatMap (fun e => e.2) ++ k.devBars).any (fun b => decide (b.arrivals ≠ 0))

/-- A gang in the order of R129: an open phase, priority, saved, order of acceptance, index; its kernel's number. -/
structure Cand where
  kn : Nat
  gi : Nat
  opened : Bool
  prio : Nat
  saved : Bool
  order : Nat
  deriving DecidableEq, Repr

/-- The first of two gangs (06 R129). -/
def Cand.before (x y : Cand) : Bool :=
  if x.opened ≠ y.opened then x.opened
  else if x.prio ≠ y.prio then decide (y.prio < x.prio)
  else if x.saved ≠ y.saved then x.saved
  else if x.order ≠ y.order then decide (x.order < y.order)
  else decide (x.gi < y.gi)

/-- The eligible gangs. -/
def State.cands (s : State) : List Cand :=
  s.kernels.flatMap (fun e => e.2.gangs.zipIdx.filterMap (fun (g : Gang × Nat) =>
    if s.eligible e.2 g.2 g.1 then
      some { kn := e.1, gi := g.2, opened := decide (g.1.state = .saved) && e.2.openPhase, prio := e.2.prio, saved := decide (g.1.state = .saved), order := e.2.order }
    else none))

/-- The gang that has been first and unplaced for 100 µs (06 R129): no other is placed until it is. -/
def State.heldGang (s : State) : Option Cand :=
  s.cands.find? (fun c => (((s.gang? c.kn c.gi).bind (fun g => g.firstSince)).map (fun t => decide (t + 100000 ≤ s.ns))).getD false)

/-- The first eligible gang. -/
def State.firstCand (s : State) : Option Cand :=
  if s.heldGang.isSome then s.heldGang else s.cands.foldl (fun (b : Option Cand) c => match b with
    | none => some c
    | some x => if c.before x then some c else some x) none

/-- A kernel that may gather does, and it is noted since when the first gang has been first and unplaced (06 R129, R130, R135). -/
def State.markFirst (s0 : State) : State :=
  let s := s0.startGather
  let h := s.firstCand
  { s with kernels := s.kernels.map (fun e => (e.1, { e.2 with gangs := e.2.gangs.zipIdx.map (fun (g : Gang × Nat) =>
      { g.1 with firstSince := if (h.map (fun c => decide (c.kn = e.1 ∧ c.gi = g.2))).getD false then some (g.1.firstSince.getD s.ns) else none }) })) }

/-- Cores of a quad, by their place in it, that can take a member of a gang (06 R127, R128, R130): the distributor's copy of the last report, less what the gathering kernel has claimed; nothing on a quad that another kernel has claimed. -/
def State.roomy (s : State) (kn : Nat) (k : Kernel) (quad : Nat) : List Nat :=
  match lookKey quad s.reports with
  | none => []
  | some r =>
    if !s.inPlacement quad || s.kernels.any (fun e => e.1 != kn && e.2.claims.any (fun c => c.2.1 == quad)) then []
    else
      let left := (k.claims.filter (fun c => c.2.1 == quad)).foldl (fun a c => c.2.2.foldl (fun b x => modifyAt b x (fun f => f.take k.desc.need)) a) r
      (left.zipIdx.filter (fun e => e.1.fits k.desc.need)).map (fun e => e.2)

/-- Cores a gang takes: one for each member that is live, or, before its start, for each member. -/
def State.coresWanted (s : State) (k : Kernel) (g : Gang) : Nat := if g.state = .saved then (s.liveMembers g).length else k.desc.gangSize

/-- A gang may stand on a quad (06 R128): a saved gang of a kernel with die barriers stays on its die. -/
def quadAllowed (k : Kernel) (g : Gang) (quad : Nat) : Bool := !(decide (g.state = .saved) && k.desc.cor && quad / 12 != g.quad / 12)

/-- A gang fits a quad (06 R128). -/
def State.fitsQuad (s : State) (kn gi quad : Nat) : Bool :=
  match s.kern? kn, s.gang? kn gi with
  | some k, some g => quadAllowed k g quad && decide (s.coresWanted k g ≤ (s.roomy kn k quad).length)
  | _, _ => false

/-- A gang fits some quad. -/
def State.fitsSome (s : State) (kn gi : Nat) : Bool := s.reports.any (fun e => s.fitsQuad kn gi e.1)

/-- The distributor's copy debited (06 R127). -/
def State.debit (s : State) (quad : Nat) (cores : List Nat) (n : CoreFree) : State :=
  match lookKey quad s.reports with
  | none => s
  | some r => { s with reports := putKey quad (cores.foldl (fun a c => modifyAt a c (fun f => f.take n)) r) s.reports }

/-- The lowest group slot of a core that is free. -/
def State.openSlot (s : State) (core : Nat) : Nat :=
  ((List.range 8).find? (fun k => (s.residents core).all (fun e => e.2.slot != k))).getD 0

/-- A group at its start (06 R123, R126; 02 R38, R54; 11 R242, R243). -/
def Kernel.newGroup (k : Kernel) (kn gi m core slot clock : Nat) : Group :=
  let d := k.desc
  { ctx := k.ctx, kern := kn, gang := gi, gidx := gi * d.gangSize + m, member := m, core := core, slot := slot, resident := true, frame := d.frame, scratchUnits := d.scratch, accs := d.acc, vslots := d.vslots,
    threads := List.replicate d.threads (Thread.start d.entry k.params clock), scratch := [], acc := [], vitrine := [], fpflags := 0, trapEn := 0, orderReq := false, pinLapse := false, fpround := 0,
    fpPending := none, key := 0, gb := List.replicate 16 (Barrier.fresh d.threads), table := [], overflow := [], yielded := [], killed := none }

/-- A kernel starts with its first gang (06 R133): journal RUNNING, TRUN. -/
def State.kernStart (s : State) (kn : Nat) : State :=
  match s.kern? kn with
  | none => s
  | some k =>
    if k.state ≠ .accepted then s
    else
      let s1 := (s.setKern kn { k with state := .running }).modSlot k.qkey (fun q => { q with cmds := q.cmds.map (fun c => if c.seq = k.seq then { c with running := true } else c) })
      match (s1.slot? k.qkey).bind (fun q => q.cmds.find? (fun c => decide (c.seq = k.seq))) with
      | some c => s1.jmod k.ctx c.jidx (fun r => { r with state := 1, trun := BitVec.ofNat 64 s.ns })
      | none => s1

/-- A new gang becomes resident (06 R126, R128, R133): member m on the m-th core; the L1 of each core holds no earlier line. -/
def State.putNew (s : State) (kn gi quad : Nat) (cores : List Nat) : State :=
  match s.kern? kn with
  | none => s
  | some k =>
    let base := s.nextUid
    let n := k.desc.gangSize
    let s1 := (cores.zipIdx).foldl (fun (a : State) (e : Nat × Nat) =>
      let core := 4 * quad + e.1
      (a.setGroup (base + e.2) (k.newGroup kn gi e.2 core (a.openSlot core) (a.clock core)).retable).l1Clear core) { s with nextUid := base + n }
    let s2 := s1.modGang kn gi (fun g => { g with
      state := .resident, quad := quad, members := (List.range n).map (fun m => base + m), qb := List.replicate 8 (Barrier.fresh (n * k.desc.threads)), chans := List.replicate 4 ChanState.start,
      firstSince := none, halted := false, placedAt := s.ns })
    (s2.debit quad cores k.desc.need).kernStart kn

/-- Every gang of a gathering kernel has its quad: all become resident, with the kernel's die and device barriers (06 R130, 11 R242, R243). -/
def State.gatherDone (s : State) (kn : Nat) : State :=
  match s.kern? kn with
  | none => s
  | some k =>
    let waiting := (k.gangs.zipIdx.filter (fun (g : Gang × Nat) => decide (g.1.state = .waiting))).map (fun (g : Gang × Nat) => g.2)
    if !k.gathering || waiting.isEmpty || waiting.any (fun i => !k.claims.any (fun c => c.1 == i)) then s
    else
      let d := k.desc
      let perDie (x : Nat) : Nat := (k.claims.filter (fun c => c.2.1 / 12 == x)).length * d.gangSize
      let dies := (List.range 8).filter (fun x => decide (0 < perDie x))
      let bars : Tab (List Barrier) := dies.map (fun x => (x, List.replicate 4 (Barrier.fresh (perDie x * d.threads))))
      let s1 := s.setKern kn { k with gathering := false, claims := [], dieBars := bars, devBars := List.replicate 4 (Barrier.fresh (d.ngroups * d.threads + if d.evb then d.ngroups else 0)) }
      k.claims.foldl (fun a c => a.putNew kn c.1 c.2.1 c.2.2) s1

/-- What is restored of a thread at resumption (06 R137, 07 R163, 14 R326, 16 R361). DESIGN CHOICE (log 98): its waiting time, and with it its entry's age (07 R140), begins again. -/
def Thread.resume (t : Thread) (clock : Nat) (moved : Bool) : Thread :=
  let t1 := { t with since := clock, reloc := t.reloc || moved }
  if t.cond = .blocked .page then t1.waitAt t.addr clock else t1

/-- A group's threads that wait for the error handler, with no activation pending for their record, have it raised again (16 R361). -/
def State.reactivate (s : State) (gid : Nat) : State :=
  match s.group? gid with
  | none => s
  | some g =>
    let waiting := (g.threads.zipIdx.filter (fun (t : Thread × Nat) => decide (t.1.cond = .blocked .handler))).map (fun (t : Thread × Nat) => ((t.1.handler.map (fun h => h.record), (t.1.handler.map (fun h => h.lane)).getD 0), t.2))
    if !g.resident || (s.core g.core).activations.any (fun a => a.grp == gid) then s
    else
      (distinct (waiting.map (fun w => w.1.1))).foldl (fun (b : State) r =>
        b.setCore g.core { b.core g.core with activations := (b.core g.core).activations ++ [{ grp := gid, lanes := (waiting.filter (fun w => decide (w.1.1 = r))).map (fun w => (w.1.2, w.2)) }] }) s

/-- A saved gang becomes resident again (06 R137): its live members on the cores named, each L1 invalidated, cancelled copies reported, held counts added (11 R255), flips met while saved followed up, abandoned activations raised again (16 R361); pending faults of its threads concern them no more: they replay (14 R329). -/
def State.putSaved (s : State) (kn gi quad : Nat) (cores : List Nat) : State :=
  match s.kern? kn, s.gang? kn gi with
  | some k, some g =>
    let live := s.liveMembers g
    let pairs := live.zip cores
    let moved := pairs.any (fun e => decide (((s.group? e.1).map (fun x => x.core)) ≠ some (4 * quad + e.2)))
    let s1 := pairs.foldl (fun (a : State) (e : Nat × Nat) =>
      let core := 4 * quad + e.2
      ((a.modGroup e.1 (fun x => { x with core := core, slot := a.openSlot core, resident := true, fpPending := x.fpPending.map (fun p => (p.1, 0)), threads := x.threads.map (fun t => t.resume (a.clock core) moved) })).l1Clear core).reactivate e.1) s
    let s2 := (s1.freeSlot k.ctx g.saveSlot).modGang kn gi (fun x => { x with
      state := .resident, quad := quad, saveSlot := none, saveLost := [], halted := false, firstSince := none, placedAt := s.ns, cancelled := [], heldCounts := [],
      chans := x.chans.zipIdx.map (fun (c : ChanState × Nat) => (x.cancelled.filter (fun e => e.1 == c.2)).foldl (fun b e => b.cancel e.2 false) c.1 |>.settle) })
    let s3 := g.heldCounts.foldl (fun (a : State) h => a.barBytes { grp := h.1, kern := kn, gang := gi, die := quad / 12 } h.2.1 h.2.2 true false) s2
    let s4 : State := { s3 with pend := s3.pend.map (fun (p : PendFault) => { p with packs := p.packs.filter (fun x => !live.contains x.grp) }) }
    (live.foldl (fun (a : State) n => (a.finishWakes n).modGroup n (fun x => x.retable)) s4).debit quad cores k.desc.need
  | _, _ => s

/-- PLACEMENT_REPORT (06 R127): the quads of a die in placement report what their cores have free. -/
def execPlacementReport (die : Nat) (s : State) : Host.Outcome State Fault Refusal :=
  .next (
    if Config.dies ≤ die then s
    else
      ((List.range 12).foldl (fun (a : State) k =>
        let q := 12 * die + k
        if a.inPlacement q then { a with reports := putKey q ((List.range 4).map (fun c => s.coreFree (4 * q + c))) a.reports }
        else { a with reports := dropKey q a.reports }) s).markFirst)

/-- A saved gang is restored on a quad, once the pages of its image can be read (06 R137, log 26). -/
def State.restore (s : State) (kn gi quad : Nat) (cores : List Nat) (k : Kernel) (g : Gang) : State :=
  match s.saveFault k.ctx g .load with
  | some (va, f) => let (s1, n) := s.devFault k.ctx va 7 f; s1.modGang kn gi (fun x => { x with saveWait := some n })
  | none => s.putSaved kn gi quad cores

/-- PLACE_GANG (06 R128 to R130): the first gang in order that fits some quad takes the cores named, one for each member; a gang of a gathering kernel claims them, in any order among its gangs (06 R130, 18 R393), and the last claim makes all its gangs resident. After 100 µs first and unplaced, only the first gang is placed. -/
def execPlaceGang (kern gang quad : Nat) (cores : List Nat) (s0 : State) : Host.Outcome State Fault Refusal :=
  .next (
    let s := s0.markFirst
    match s.kern? kern, s.gang? kern gang, s.cands.find? (fun c => decide (c.kn = kern ∧ c.gi = gang)) with
    | some k, some g, some me =>
      let room := s.roomy kern k quad
      let ahead := s.cands.filter (fun c => c.before me)
      let ok := quadAllowed k g quad && decide (cores.length = s.coresWanted k g) && decide (distinct cores = cores) && cores.all (fun c => room.contains c)
        && (match s.heldGang with | some h => decide (h = me) || (k.desc.cor && h.kn == kern) | none => ahead.all (fun c => (k.desc.cor && c.kn == kern) || !s.fitsSome c.kn c.gi))
      if !ok then s
      else if g.state = .saved then (s.restore kern gang quad cores k g).markFirst
      else if k.desc.cor then ((s.setKern kern { k with claims := k.claims ++ [(gang, quad, cores)] }).gatherDone kern).markFirst
      else (s.putNew kern gang quad cores).markFirst
    | _, _, _ => s)

/-- Producer groups that a group depends on (06 R132). -/
def LaunchDesc.producers (d : LaunchDesc) (g : Nat) : List Nat :=
  match d.depKind with
  | 1 => List.range d.prodNg
  | 2 =>
    let lo := Max.max (0 : Int) ((g : Int) + d.depLo)
    let hi := Min.min ((d.prodNg : Int) - 1) ((g : Int) + d.depHi)
    if hi < lo then [] else (List.range ((hi - lo).toNat + 1)).map (fun i => lo.toNat + i)
  | _ => []

/-- What the records of a group's producers say: none not yet, true that the dependence holds, false that it failed. A record whose page is away is not yet there, and its fault goes to the Registrar. -/
def State.depState (s : State) (k : Kernel) (g : Nat) : State × Option Bool :=
  (k.desc.producers g).foldl (fun (a : State × Option Bool) p =>
    if a.2 = some false then a
    else
      let va := k.desc.prodEvt.toNat + 8 * p
      match a.1.devRead k.ctx va 8 with
      | .error f => ((a.1.devFault k.ctx va 7 f).1, none)
      | .ok bs =>
        let w := natOfBytes bs
        if w / 2 ^ 32 ≠ k.desc.prodKseq.toNat then (a.1, none)
        else if w % 256 ≠ 0 then (a.1, some false)
        else a) (s, some true)

/-- A gang whose dependence has failed ends without starting: each of its groups with status 0xFE (06 R132). -/
def State.depFail (s : State) (kn gi : Nat) (k : Kernel) : State :=
  let gs := (List.range k.desc.gangSize).map (fun m => gi * k.desc.gangSize + m)
  let s1 := gs.foldl (fun (a : State) x => a.eventRecord kn x 0xFE) (s.modGang kn gi (fun x => { x with state := .retired }))
  (s1.modKern kn (fun x => { x with claims := x.claims.filter (fun c => c.1 != gi) })).countEnded kn (gs.map (fun x => (x, 0xFE)))

/-- The dependences of a kernel's waiting gangs read again (06 R132). -/
def State.depCheck (s : State) (kn : Nat) : State :=
  match s.kern? kn with
  | none => s
  | some k =>
    if k.desc.depKind = 0 then s
    else
      ((List.range k.gangs.length).foldl (fun (a : State) gi =>
        match a.kern? kn, a.gang? kn gi with
        | some k1, some g =>
          if g.state ≠ .waiting ∨ g.depOk then a
          else
            let r := (List.range k1.desc.gangSize).foldl (fun (b : State × Option Bool) m =>
              let o := b.1.depState k1 (gi * k1.desc.gangSize + m)
              (o.1, if b.2 = some false ∨ o.2 = some false then some false else if b.2 = none ∨ o.2 = none then none else some true)) (a, some true)
            match r.2 with
            | none => r.1
            | some true => r.1.modGang kn gi (fun x => { x with depOk := true })
            | some false => r.1.depFail kn gi k1
        | _, _ => a) s).gatherDone kn

/-- DEPENDENCE_CHECK (06 R132). -/
def execDependenceCheck (kern : Nat) (s : State) : Host.Outcome State Fault Refusal := .next ((s.depCheck kern).markFirst)

/-- A context's lowest free save slot (04 R99). -/
def Ctx.openSlot (c : Ctx) : Option Nat := (List.range c.nslots).find? (fun k => !c.slotsUsed.contains k)

/-- A pre-emption is decided (06 R133, R135): the gang halts, with a save slot taken. -/
def State.preempt (s : State) (kn gi : Nat) : State :=
  match s.kern? kn, s.gang? kn gi with
  | some k, some g =>
    match (s.ctx k.ctx).openSlot with
    | none => s
    | some n =>
      if g.state ≠ .resident ∨ !s.gangAlive g then s
      else (s.setCtx k.ctx { s.ctx k.ctx with slotsUsed := (s.ctx k.ctx).slotsUsed ++ [n] }).modGang kn gi (fun x => { x with state := .halting, saveSlot := some n, halted := false })
  | _, _ => s

/-- A gang's quad would take another gang if this one were gone (06 R135). -/
def State.servesIfGone (s : State) (kn gi : Nat) (h : Cand) : Bool :=
  match s.kern? kn, s.gang? kn gi with
  | some k, some g =>
    let gone := s.liveMembers g
    let back := (gone.filterMap (fun n => (s.group? n).map (fun x => x.core % 4)))
    let give (f n : CoreFree) : CoreFree := { groups := f.groups + n.groups, threads := f.threads + n.threads, frameBytes := f.frameBytes + n.frameBytes, scratchBytes := f.scratchBytes + n.scratchBytes, accs := f.accs + n.accs, vslots := f.vslots + n.vslots }
    match lookKey g.quad s.reports with
    | none => false
    | some r => ({ s with reports := putKey g.quad (back.foldl (fun a c => modifyAt a c (fun f => give f k.desc.need)) r) s.reports } : State).fitsQuad h.kn h.gi g.quad
  | _, _ => false

/-- Gangs that may be taken for a waiting one (06 R135): kernel, gang, priority, when placed. -/
def State.victims (s : State) (h : Cand) : List (Nat × Nat × Nat × Nat) :=
  s.kernels.flatMap (fun e => e.2.gangs.zipIdx.filterMap (fun (g : Gang × Nat) =>
    if g.1.state = .resident ∧ e.2.desc.cor = false ∧ e.2.prio < h.prio ∧ s.gangAlive g.1 = true ∧ ((s.ctx e.2.ctx).openSlot).isSome = true ∧ s.servesIfGone e.1 g.2 h = true then some (e.1, g.2, e.2.prio, g.1.placedAt) else none))

/-- PREEMPT_DECISION (06 R135): a resident gang of a QUIESCING context; or, for a gang that has been first and unplaced for 20 µs, the resident gang of lowest priority below it, placed last among equals, whose removal lets it fit. One such gang is taken at a time. -/
def execPreemptDecision (kern gang : Nat) (s0 : State) : Host.Outcome State Fault Refusal :=
  .next (
    let s := s0.markFirst
    match s.kern? kern with
    | none => s
    | some k =>
      if (s.ctx k.ctx).state = .quiescing then s.preempt kern gang
      else
        match s.firstCand with
        | none => s
        | some h =>
          let since := ((s.gang? h.kn h.gi).bind (fun x => x.firstSince)).getD s.ns
          let busy := s.kernels.any (fun e => decide ((s.ctx e.2.ctx).state = .active) && e.2.gangs.any (fun g => decide (g.state = .halting ∨ g.state = .saving)))
          let vs := s.victims h
          match vs.find? (fun v => decide (v.1 = kern ∧ v.2.1 = gang)) with
          | none => s
          | some me =>
            let best := vs.all (fun v => decide (me.2.2.1 < v.2.2.1 ∨ (me.2.2.1 = v.2.2.1 ∧ v.2.2.2 ≤ me.2.2.2)))
            if s.ns < since + 20000 ∨ busy ∨ !best ∨ s.fitsSome h.kn h.gi then s else s.preempt kern gang)

/-- A thread halted (06 R136; 07 R142, R163; 02 R48; 16 R361): a running one waits at the first instruction it has not retired, an activation is abandoned, long-latency values and queue data are there, what they allow follows, and the rest of a nap is kept. Its region has been ended before. -/
def Thread.halt (t : Thread) (clock : Nat) : Thread :=
  let t1 : Thread := { t with held := t.held.map (fun h => { h with ready := true }), q := t.q.map (fun l => l.map (fun e => { e with arrived := true })) }
  let t2 : Thread := match t1.handler with
    | some h => if h.active then { (t1.blockAt .handler h.record.instAddr clock) with p := h.savedP, held := h.savedHeld.map (fun x => { x with ready := true }), handler := some { h with active := false, savedP := 0, savedHeld := [] } } else t1
    | none => t1
  let t3 : Thread := t2.land
  let t4 : Thread := (if t3.isRunning ∨ (t3.cond = .blocked .queue ∧ Thread.queuesFed t t3 t3.queues = true) then t3.waitAt t3.addr clock else t3).considered clock
  if t4.cond = .blocked .nap then { t4 with napLeft := t4.since + t4.napLeft - clock, since := clock } else t4

/-- A thread waits for a decided commit to retire: the halt waits for it (10 R240). -/
def Thread.committing (t : Thread) : Bool := (t.region.map (fun r => r.decided.isSome)).getD false

/-- The threads of a group halted, and its dispatches and pending activations given up (06 R136). -/
def State.haltGroup (s : State) (gid : Nat) : State :=
  match s.group? gid with
  | none => s
  | some g =>
    let s1 := (List.range g.threads.length).foldl (fun (a : State) t => a.abortRegion gid t 1 1 0) s
    let s2 := s1.modGroup gid (fun x => { x with threads := x.threads.map (fun t => t.halt (s.clock g.core)) })
    let c := s2.core g.core
    let s3 := s2.setCore g.core { c with
      streams := c.streams.map (fun st => if (st.dispatch.map (fun d => d.grp == gid)).getD false then { st with dispatch := none } else st)
      activations := c.activations.filter (fun a => a.grp != gid) }
    (s3.modGroup gid (fun x => x.retable)).gatherFlags gid (List.range g.threads.length) 2

/-- Copy commands of a gang in its quad's chains. -/
def State.gangCopies (s : State) (kn gi quad : Nat) : List (Nat × CopyCmd) :=
  (List.range 4).flatMap (fun ch => ((s.chain quad ch).cmds.filter (fun c => c.kern == kn && c.gang == gi)).map (fun c => (ch, c)))

/-- A copy has written no byte, in its order or ahead of it (06 R136, 12 R271). -/
def CopyCmd.untouched (c : CopyCmd) : Bool := c.written == 0 && c.ahead.isEmpty

/-- Copies of a halted gang that have written nothing are cancelled, and kept for its channels' status words (06 R136). -/
def State.settleCopies (s : State) (kn gi quad : Nat) : State :=
  let gone := (s.gangCopies kn gi quad).filter (fun e => e.2.untouched)
  let s1 := (List.range 4).foldl (fun (a : State) ch =>
    let k := a.chain quad ch
    a.setChain quad ch { k with cmds := k.cmds.filter (fun c => !(c.kern == kn && c.gang == gi && c.untouched)) }) s
  s1.modGang kn gi (fun x => { x with cancelled := x.cancelled ++ gone.map (fun e => (e.1, e.2.seq)) })

/-- GANG_HALTED (06 R136): every thread of a halting gang is halted, and its copies settle. -/
def execGangHalted (kern gang : Nat) (s : State) : Host.Outcome State Fault Refusal :=
  .next (
    match s.gang? kern gang with
    | none => s
    | some g =>
      let live := s.liveMembers g
      if g.state ≠ .halting ∨ g.halted ∨ live.any (fun n => ((s.group? n).map (fun x => x.threads.any (fun t => t.committing))).getD false) then s
      else
        let s1 := (live.foldl (fun (a : State) n => a.haltGroup n) s).settleCopies kern gang g.quad
        let rest := s1.gangCopies kern gang g.quad
        s1.modGang kern gang (fun x => { x with halted := true, state := if rest.isEmpty then .saving else .halting }))

/-- The engine work of a gang that must complete before its save (06 R136, 13 R306). -/
def State.gangBusy (s : State) (kn gi : Nat) (g : Gang) : Bool :=
  !(s.gangCopies kn gi g.quad).isEmpty || (List.range 4).any (fun ch => ((s.chain g.quad ch).follow.map (fun f => f.kern == kn && f.gang == gi)).getD false)
    || (List.range 4).any (fun c =>
      let k := s.core (4 * g.quad + c)
      (k.arrayQ ++ k.loads ++ k.drains).any (fun x => x.kern == kn && x.gang == gi))

/-- A context in QUIESCING whose last resident gang has been saved or has retired, with no copy outstanding, is SUSPENDED, and its queues with it (04 R93, 05 R111). -/
def State.quiesceCheck (s : State) (ctx : Nat) : State :=
  let mine := s.kernels.filter (fun e => e.2.ctx == ctx)
  let up := mine.any (fun e => e.2.gangs.any (fun g => decide (g.state = .resident ∨ g.state = .halting ∨ g.state = .saving)))
  let copies := s.chains.any (fun e => e.2.cmds.any (fun c => mine.any (fun k => k.1 == c.kern)))
  if (s.ctx ctx).state ≠ .quiescing ∨ up ∨ copies then s
  else
    let s1 := s.setCtx ctx { s.ctx ctx with state := .suspended }
    (s1.slots.filter (fun e => e.2.ctx == ctx && decide (e.1 < 256))).foldl (fun (a : State) e =>
      match e.2.state with
      | .draining => if e.2.unmapping then a else (a.setSlot e.1 { e.2 with state := .suspended, saved := e.2.state }).qcbSync e.1 false
      | .mapped | .active | .stalled => (a.setSlot e.1 { e.2 with state := .suspended, saved := e.2.state }).qcbSync e.1 false
      | _ => a) s1

/-- A gang's image is written, once every page it takes can be (06 R136, log 26), and the gang leaves its cores. Its region locks' refused places are given up. -/
def State.save (s : State) (kern gang : Nat) (k : Kernel) (g : Gang) : State :=
  match s.saveFault k.ctx g .store with
  | some (va, f) => let (s1, n) := s.devFault k.ctx va 7 f; s1.modGang kern gang (fun x => { x with saveWait := some n })
  | none =>
    let live := s.liveMembers g
    let s2 := live.foldl (fun (a : State) n => a.modGroup n (fun x => { x with resident := false })) (s.saveImage k.ctx g)
    let locks := (s2.locks.map (fun l => { l with refused := l.refused.filter (fun h => !live.contains h.1) })).filter (fun l => l.holder.isSome || !l.refused.isEmpty)
    ((({ s2 with locks := locks } : State).modGang kern gang (fun x => { x with state := .saved, halted := false })).quiesceCheck k.ctx).markFirst

/-- GANG_SAVED (06 R136): with its engine work done, a gang is saved. Its stores are performed at every scope, and so are those of others that its threads may have read inside a scope they leave (12 R260). -/
def execGangSaved (kern gang : Nat) (s : State) : Host.Outcome State Fault Refusal :=
  .next (
    match s.kern? kern, s.gang? kern gang with
    | some k, some g =>
      if !(decide (g.state = .halting ∨ g.state = .saving) && g.halted) || s.gangBusy kern gang g || g.saveWait.isSome then s
      else
        let live := s.liveMembers g
        let drained := live.foldl (fun (a : Option State) n => a.bind (fun x => (x.group? n).bind (fun y => x.drainWhere y.core (fun e => e.grp == n)))) (some s)
        match drained with
        | none => s
        | some s1 => (s1.widenTo (fun u => if live.contains u.grp || live.any (fun n => ((s1.group? n).map (fun x => scopeInst u.scope u.core == scopeInst u.scope x.core)).getD false) then some 4 else none)).save kern gang k g
    | _, _ => s)

/-- Copies and array commands of a group that are still to end (06 R131, log 21). -/
def State.groupBusy (s : State) (gid : Nat) (g : Group) : Bool :=
  (List.range 4).any (fun ch =>
      let c := s.chain (quadOf g.core) ch
      c.cmds.any (fun x => x.grp == gid) || (c.follow.map (fun f => f.grp == gid)).getD false)
    || (let k := s.core g.core; (k.arrayQ ++ k.loads ++ k.drains).any (fun x => x.grp == gid))

/-- A retirement arrival on EVBAR (06 R131, 11 R254): a refused one is dropped, with a record that names the group and no thread, decided from kernel level. -/
def State.evArrival (s : State) (gid : Nat) (g : Group) (k : Kernel) : State :=
  let code := 0x63C + k.desc.evbar
  match s.bar? (g.owner gid) code with
  | none => s
  | some b =>
    match b.refusal k.desc.evCount with
    | none => s.barEvent (g.owner gid) code b (b.arrive k.desc.evCount) none
    | some _ =>
      let record : FaultRec := { kseq := k.kseq, route := 0, ctx := g.ctx, cls := 2, cause := 0x20, noThread := true, count := 0, first := 0, gidx := g.gidx, instAddr := 0, addr := 0, retry := 0, queue := k.slot, laneMask := 0, extra := barExtra b 4 code, time := BitVec.ofNat 64 s.ns, idx := 0, regTop := 0 }
      s.toContain g.ctx { record := record, grp := some gid, kern := some g.kern, tids := [], after := false, level := 2, engine := true }

/-- A gang whose last member has retired (06 R133). -/
def State.gangEnd (s : State) (kn gi : Nat) : State :=
  match s.kern? kn, s.gang? kn gi with
  | some k, some g => if (s.liveMembers g).isEmpty then (s.freeSlot k.ctx g.saveSlot).modGang kn gi (fun x => { x with state := .retired, saveSlot := none, halted := false }) else s
  | _, _ => s

/-- A fault of a living group is on its way to containment: it is decided while its command's record is not final (04 R102). -/
def State.undecided (s : State) (gid : Nat) (g : Group) : Bool := g.killed.isNone && (s.ctx g.ctx).faults.any (fun f => decide (f.grp = some gid))

/-- GROUP_RETIRE (06 R131): its threads have exited and its copies ended; its stores are performed, its windows close, its event record and its arrival follow, and its resources are free. -/
def execGroupRetire (grp : Nat) (s : State) : Host.Outcome State Fault Refusal :=
  .next (
    match s.group? grp with
    | none => s
    | some g =>
      if !g.threads.all (fun t => decide (t.cond = .exited)) || s.groupBusy grp g || s.undecided grp g then s
      else
        match s.drainWhere g.core (fun e => e.grp == grp) with
        | none => s
        | some s0 =>
          let s1 := s0.widenTo (fun u => if u.grp == grp then some 4 else none)
          let s2 := (s1.windows.filter (fun w => w.grp == grp)).foldl (fun (a : State) w => a.closeWindow w) s1
          let status := g.killed.getD 0
          let s3 := ({ s2 with pins := s2.pins.filter (fun p => p.grp != grp) } : State).eventRecord g.kern g.gidx status
          let s4 := match s3.kern? g.kern with
            | some k => if k.desc.evb then s3.evArrival grp g k else s3
            | none => s3
          let s5 := ({ s4 with groups := dropKey grp s4.groups } : State).gangEnd g.kern g.gang
          let s6 := (s5.modGang g.kern g.gang (fun x => { x with retiredAt := some s.plinth })).countEnded g.kern [(g.gidx, status)]
          let s7 := (s6.kernels.filter (fun e => e.2.ctx == g.ctx)).foldl (fun (a : State) e => a.depCheck e.1) s6
          (s7.quiesceCheck g.ctx).markFirst)

end Sys2Proof.Machine
end

