-- ==== Sys2Proof/Machine/Contain.lean ====
section
/-! DEFINITION. Containment (spec/04 R100 to R102): the record on the fault ring, the policies from the group upwards, and what a decision does. -/

namespace Sys2Proof.Machine

/-- A containment decision: IGNORE, RETRY, or a kill at a level, 0 group to 4 context. -/
inductive Verdict where
  | ignore
  | retry
  | kill (level : Nat)
  deriving DecidableEq, Repr

/-- The policies consulted from a level upwards (04 R100): `field` gives a level's code, `spent` says that three RETRYs have been used. -/
def verdict (field : Nat → Nat) (spent engine : Bool) : Nat → Nat → Verdict
  | 0, level => .kill (Nat.min level 4)
  | n + 1, level =>
    match field level with
    | 0 => verdict field spent engine n (level + 1)
    | 1 => .ignore
    | 2 => if engine then .ignore else if spent then verdict field spent engine n (level + 1) else .retry
    | 4 => .kill (Nat.min (level + 1) 4)
    | _ => .kill level

/-- The field of a cause class at a level for a fault (04 R100). -/
def State.policyField (s : State) (ctx : Nat) (f : ContFault) (level : Nat) : Nat :=
  let p := if level = 4 then (s.ctx ctx).cpolicy else f.pols.getD level 0
  (p.toNat >>> (4 * f.record.cls)) % 16

/-- RETRYs of a thread at an address (04 R100). -/
def Thread.retries (t : Thread) (a : Dword) : Nat := if t.retryAt = a then t.retry else 0

/-- IGNORE (04 R100): the threads go on at the next address, or after the delivery point. -/
def State.ignoreFault (s : State) (gid : Nat) (f : ContFault) : State :=
  s.releaseThreads gid f.tids .contain (if f.after then none else some (f.record.instAddr + 8))

/-- RETRY (04 R100): the retry count rises, and the threads replay the instruction; after a delivery point they go on. -/
def State.retryFault (s : State) (gid : Nat) (f : ContFault) : State :=
  (s.modThreads gid f.tids (fun t => { t with retry := t.retries f.record.instAddr + 1, retryAt := f.record.instAddr })).releaseThreads gid f.tids .contain none

/-- The gang of a fault's group. -/
def State.faultGang (s : State) (f : ContFault) : Nat :=
  match f.grp.bind (fun n => s.group? n) with
  | some g => g.gang
  | none => ((f.kern.bind (fun n => s.kern? n)).map (fun k => f.record.gidx / Nat.max 1 k.desc.gangSize)).getD 0

/-- The queue record of a fault's kernel, as it is now. -/
def State.faultQueue (s : State) (f : ContFault) : Option Nat :=
  match f.kern.bind (fun n => s.kern? n) with
  | some k => some k.qkey
  | none => f.qkey

/-- A kill at a level (04 R101). -/
def State.killLevel (s : State) (ctx : Nat) (f : ContFault) (level : Nat) : State :=
  let who := f.grp.map (fun g => (g, f.record.cause))
  match level with
  | 0 => (f.grp.map (fun g => s.killGroup g f.record.cause)).getD s
  | 1 => (f.kern.map (fun k => s.killGang k (s.faultGang f) who)).getD s
  | 2 => (f.kern.map (fun k => s.killKern k who)).getD s
  | 3 => ((s.faultQueue f).map (fun k => s.killQueue k who)).getD s
  | _ => s.killCtx ctx who

/-- The first fault decided for a command is kept in its journal record (04 R102, R103). -/
def State.firstCause (s : State) (ctx : Nat) (f : ContFault) : State :=
  match f.kern.bind (fun n => s.kern? n) with
  | none => s
  | some k =>
    match (s.slot? k.qkey).bind (fun q => q.cmds.find? (fun c => decide (c.seq = k.seq))) with
    | none => s
    | some c =>
      match s.jrec? ctx c.jidx with
      | some r => if r.cause = 0 then s.jwrite ctx { r with cause := f.record.cause } else s
      | none => s

/-- A fault decided (04 R100 to R102). DESIGN CHOICE (log 81): where a record covers threads with different retry counts, its first thread's decides between RETRY and the next level. -/
def State.decideFault (s : State) (ctx : Nat) (f : ContFault) : State :=
  let spent := ((f.grp.bind (fun g => s.thread? g f.record.first)).map (fun t => decide (3 ≤ t.retries f.record.instAddr))).getD true
  let s1 := s.firstCause ctx f
  match verdict (s.policyField ctx f) spent f.engine (5 - f.level) f.level with
  | .ignore => (f.grp.map (fun g => s1.ignoreFault g f)).getD s1
  | .retry => (f.grp.map (fun g => s1.retryFault g f)).getD s1
  | .kill l => s1.killLevel ctx f l

/-- A gang of a context has lost a member to retirement in this plinth cycle (06 R133). -/
def State.retiresNow (s : State) (ctx : Nat) : Bool := s.kernels.any (fun k => k.2.ctx == ctx && k.2.gangs.any (fun g => decide (g.retiredAt = some s.plinth)))

/-- CONTAINMENT_DECISION (04 R102; 16 R357): the oldest record of a context goes to the fault ring, and, unless the debugger has it or its group has been killed, is decided. It waits for a descriptor that cannot be reached, and follows no host command to the context in the same plinth cycle: it would have come first (04 R94). Nor does it follow a retirement of the context in one plinth cycle: of a kill and a retirement in one cycle the kill stands (06 R133), so that a kill decided after a retirement falls into the next (log 95). -/
def execContainmentDecision (ctx : Nat) (s : State) : Host.Outcome State Fault Refusal :=
  .next (
    let c := s.ctx ctx
    match c.faults with
    | [] => s
    | f :: rest =>
      if !s.hostReach (c.desc.toNat + 0x68) || decide (lookKey ctx s.bar.ctxAt = some s.plinth) || s.retiresNow ctx then s
      else
        let s1 := (s.setCtx ctx { c with faults := rest }).faultRing ctx f.record
        if f.record.route = 3 ∨ f.dead ∨ s.faultDead f then s1 else (s1.decideFault ctx f).markFirst)

end Sys2Proof.Machine
end

