-- ==== Sys2Proof/Machine/PageInstr.lean ====
section
/-! DEFINITION. The page instructions (spec/14 R333 to R336): PGSTAT, LEASEQ and PGHINT. -/

namespace Sys2Proof.Machine

/-- The lease that covers the region of a virtual address, with its index (14 R321). -/
def State.leaseOf (s : State) (ctx va : Nat) : Option (Nat × Lease) :=
  s.leases.find? (fun l => l.2.ctx == ctx && l.2.vabase == va / 2 ^ 30 && l.2.state != 0)

/-- Pins on the lines of a page, saturating (14 R334). -/
def State.pagePins (s : State) (ctx va : Nat) : Nat :=
  Nat.min 4095 (s.pins.filter (fun p => p.ctx == ctx && decide (p.base < (va / 65536 + 1) * 65536) && decide (va / 65536 * 65536 < p.base + p.len))).length

/-- The pair of words PGSTAT gives for a page entry (14 R334). -/
def State.pgstatWords (s : State) (ctx va : Nat) (p : Dword) : Dword :=
  let has := decide (pteKind p ≠ 0 ∧ pteState p ≠ 0)
  let resident := framed p
  let counter := if resident then sparseGet 0 s.counters (pteFrame p) else 0
  let lo := (bits p 63 52 <<< 20) ||| ((if has then pteLease p else 0) <<< 8) ||| counter
  let hi := (s.pagePins ctx va <<< 4) ||| (if has then 8 ||| (s.leaseFor ctx p).state else 0)
  BitVec.ofNat 64 (hi <<< 32 ||| lo)

/-- PGSTAT (14 R334). -/
def execPgstat (w : F0) (s : State) : Host.Outcome State Fault Refusal :=
  .next (runWord (.pgstat w) s (fun iss tid s1 => withThread iss tid s1 (fun e t =>
    let va := e.pair t (vnum w.a)
    if bits va 63 57 ≠ 0 then .fault (iss.bad 0x06 va)
    else
      let p := ((s1.pte e.grp.ctx va.toNat).map (fun x => x.2)).getD 0
      .done s1 (some { reg := vnum w.d, count := 2, value := (s1.pgstatWords e.grp.ctx va.toNat p).setWidth 128, tag := none, flags := 0 }))))

/-- The four words LEASEQ gives (14 R335): a lease of another context reads as FREE. -/
def leaseWords (ctx : Nat) (l : Option Lease) : Qword :=
  match l with
  | some x => if x.ctx = ctx ∧ x.state ≠ 0 then BitVec.ofNat 128 (x.expiry <<< 64 ||| x.lid.toNat <<< 32 ||| x.state) else (0xFFFFFFFF : Qword) <<< 32
  | none => (0xFFFFFFFF : Qword) <<< 32

/-- LEASEQ by index (14 R335). -/
def execLeaseq (w : F0) (s : State) : Host.Outcome State Fault Refusal :=
  .next (runWord (.leaseq w) s (fun iss tid s1 => withThread iss tid s1 (fun e t =>
    let n := (e.v t (vnum w.a)).toNat
    let l := if n < 4096 then some (s1.lease n) else none
    .done s1 (some { reg := vnum w.d, count := 4, value := leaseWords e.grp.ctx l, tag := none, flags := 0 }))))

/-- LEASEQ by address (14 R335). -/
def execLeaseqVa (w : F0) (s : State) : Host.Outcome State Fault Refusal :=
  .next (runWord (.leaseqVa w) s (fun iss tid s1 => withThread iss tid s1 (fun e t =>
    let va := e.pair t (vnum w.a)
    if bits va 63 57 ≠ 0 then .fault (iss.bad 0x06 va)
    else
      let l := (s1.leaseOf e.grp.ctx va.toNat).map (fun x => x.2)
      .done s1 (some { reg := vnum w.d, count := 4, value := leaseWords e.grp.ctx l, tag := none, flags := 0 }))))

/-- PGHINT takes this entry: a POOLED or SHARED page in POOL, RESIDENT or SHARED (14 R336). -/
def hintable (p : Dword) : Bool := (pteKind p == 1 || pteKind p == 2) && (1 ≤ pteState p && pteState p ≤ 3)

/-- HINT set in the pages that lie within a range from page `p`, `left` of them at most, over `n` pages still to look at (14 R336). -/
def State.hintPages (s : State) (ctx h : Nat) : Nat → Nat → Nat → State
  | 0, _, _ => s
  | n + 1, p, left =>
    if left = 0 then s
    else
      match s.pte ctx (p * 65536) with
      | some (pa, e) =>
        if hintable e then (s.setPte pa (pteWith e 53 52 h)).hintPages ctx h n (p + 1) (left - 1)
        else s.hintPages ctx h n (p + 1) left
      | none => s.hintPages ctx h n (p + 1) left

/-- PGHINT (14 R336). -/
def execPghint (w : F0) (s : State) : Host.Outcome State Fault Refusal :=
  .next (runWord (.pghint w) s (fun iss tid s1 => withThread iss tid s1 (fun e t =>
    let base := (e.pair t (vnum w.a)).toNat
    let len := (e.v t (vnum w.b)).toNat
    let first := (base + 65535) / 65536
    let last := Nat.min ((base + len) / 65536) (2 ^ 41)
    .done (s1.hintPages e.grp.ctx (lo2 w.x) (last - first) first 256) none)))

end Sys2Proof.Machine
end

