-- ==== Sys2Proof/Machine/Registrar.lean ====
section
/-! DEFINITION. The Registrar's page operations (spec/14 R311 to R320): frames, tables, shootdowns, write-backs, refills, and dropping a page's copy. -/

namespace Sys2Proof.Machine

/-- The Registrar runs (19 R399). -/
def State.registrarUp (s : State) : Bool := decide (6 ≤ s.boot) && s.powered && !s.tripped

/-- The HBM stack of a frame is powered (19 R397): bits [38:36] of its address. -/
def State.stackUp (s : State) (frame : Nat) : Bool := !s.bar.hbmDown.getLsbD (frame / 2 ^ 20 % 8)

/-- First frame that belongs to the Registrar (14 R316). -/
def State.firstFrame (s : State) : Nat := s.bar.hostlim * 16384

/-- A frame the Registrar may allocate (14 R316, 19 R397). -/
def State.frameFree (s : State) (f : Nat) : Bool :=
  decide (s.firstFrame ≤ f) && decide (f < 2 ^ 23) && s.stackUp f && (lookKey f s.frames).isNone

/-- The lowest free frame at or above one, within as many tries as frames are in use. -/
def State.findFrame (s : State) : Nat → Nat → Option Nat
  | 0, _ => none
  | n + 1, f => if 2 ^ 23 ≤ f then none else if s.frameFree f then some f else if s.stackUp f then s.findFrame n (f + 1) else s.findFrame n ((f / 2 ^ 20 + 1) * 2 ^ 20)

/-- A free frame (log 22). -/
def State.freeFrame (s : State) : Option Nat := s.findFrame (s.frames.length + 9) s.firstFrame

/-- Tracked lines of the regions of a context, by a function of the region (10 R221). -/
def State.modRegions (s : State) (f : Nat → Region → List Nat) : State :=
  { s with groups := s.groups.map (fun g => (g.1, { g.2 with threads := g.2.threads.map (fun t => { t with region := t.region.map (fun r => { r with lines := f g.2.ctx r }) }) })) }

/-- No region tracks a line of a frame. -/
def State.untrack (s : State) (f : Nat) : State := s.modRegions (fun _ r => r.lines.filter (fun l => l / 512 != f))

/-- A page stands in a frame: the lines of it that regions of its context track stand there (10 R237). -/
def State.track (s : State) (ctx page f : Nat) : State :=
  s.modRegions (fun c r => if c = ctx then r.lines ++ (distinct (r.vaLines.filter (fun l => l / 512 == page))).map (fun l => f * 512 + l % 512) else r.lines)

/-- A frame taken for a page or a table, with contents; no line of it is cached or poisoned, and its counter is 0 (14 R317). -/
def State.takeFrame (s : State) (f ctx page : Nat) (table : Bool) (m : Mem) : State :=
  let a := f * 65536
  let s1 := s.dirRecallRange a 65536
  { s1.untrack f with hbm := s1.hbm.paste a 65536 m, poison := s1.poison.filter (fun l => decide (l / 512 ≠ f)), frames := putKey f { ctx := ctx, page := page, table := table } s1.frames, counters := dropKey f s1.counters }

/-- A frame given back; what regions have tracked in it is nowhere. -/
def State.dropFrame (s : State) (f : Nat) : State :=
  { (s.dirRecallRange (f * 65536) 65536).untrack f with poison := s.poison.filter (fun l => decide (l / 512 ≠ f)), frames := dropKey f s.frames }

/-- Where the entry of a level that covers an address stands, given the table's address (14 R308). -/
def entryAt (table level va : Nat) : Nat :=
  match level with
  | 3 => table + 8 * (va / 2 ^ 43 % 16384)
  | 2 => table + 8 * (va / 2 ^ 34 % 512)
  | 1 => table + 8 * (va / 2 ^ 25 % 512)
  | _ => table + 8 * (va / 2 ^ 16 % 512)

/-- The tables down to an address's page entry, made where they are missing (14 R319): the entry's address. -/
def State.makeTables (s : State) (ctx va : Nat) : Nat → Nat → Option (State × Nat)
  | 0, table => some (s, entryAt table 0 va)
  | n + 1, table =>
    let at_ := entryAt table (n + 1) va
    let e := s.hbm.dword at_
    if s.tableOwn ctx e then s.makeTables ctx va n (tableNext e)
    else
      match s.freeFrame with
      | none => none
      | some f =>
        let s1 := (s.takeFrame f ctx (va / 65536) true []).setPte at_ (BitVec.ofNat 64 (2 ^ 60 + f * 65536))
        s1.makeTables ctx va n (f * 65536)

/-- The page entry's address, with tables made. -/
def State.pteMake (s : State) (ctx va : Nat) : Option (State × Nat) := s.makeTables ctx va 3 (s.ctx ctx).ptroot.toNat

/-- A table holds no valid entry. -/
def State.tableEmpty (s : State) (table : Nat) : Bool := (s.hbm.slice table 4096).isEmpty

/-- Tables left empty above an address are freed (14 R319): those the Registrar has made. -/
def State.pruneTables (s : State) (ctx va : Nat) : State :=
  let root := (s.ctx ctx).ptroot.toNat
  let drop (a : State) (at_ table : Nat) : State :=
    if a.tableEmpty table && ((lookKey (table / 65536) a.frames).map (fun f => f.table)).getD false then (a.setPte at_ 0).dropFrame (table / 65536) else a
  let at3 := entryAt root 3 va
  let e3 := s.hbm.dword at3
  if !s.tableOwn ctx e3 then s else
    let at2 := entryAt (tableNext e3) 2 va
    let e2 := s.hbm.dword at2
    if !s.tableOwn ctx e2 then drop s at3 (tableNext e3) else
      let at1 := entryAt (tableNext e2) 1 va
      let e1 := s.hbm.dword at1
      let s1 := if s.tableOwn ctx e1 then drop s at1 (tableNext e1) else s
      drop (drop s1 at2 (tableNext e2)) at3 (tableNext e3)

/-- A TLB entry covers a page (14 R311). -/
def tlbCovers (ctx page : Nat) (e : Nat × Nat × Nat) : Bool := e.1 == ctx && decide (e.2.1 ≤ page ∧ page < e.2.1 + e.2.2)

/-- TLB entries of a page removed from every core and die (14 R313). -/
def State.tlbDrop (s : State) (ctx page : Nat) : State :=
  { s with
    dies := s.dies.map (fun d => { d with tlb := d.tlb.filter (fun e => !tlbCovers ctx page e) })
    cores := s.cores.map (fun c => (c.1, { c.2 with tlb := c.2.tlb.filter (fun e => !tlbCovers ctx page e) })) }

/-- Every access that passed its check point under the old translation of a page is performed (14 R313); none while an exclusive attempt holds one back (10 R237). -/
def State.performOld (s : State) (ctx page : Nat) : Option State :=
  (s.cores.foldl (fun (a : Option State) c => a.bind (fun x => x.drainWhere c.1 (fun e => e.ctx == ctx && decide (e.va / 65536 = page)))) (some s)).map
    (fun a => a.widenTo (fun u => if u.ctx == ctx && decide (u.va / 65536 = page) then some 4 else none))

/-- L1 lines of a page dropped in every core. -/
def State.l1Page (s : State) (ctx page : Nat) : State :=
  { s with cores := s.cores.map (fun c => (c.1, { c.2 with l1 := c.2.l1.filter (fun l => !(l.ctx == ctx && decide (l.line / 512 = page))) })) }

/-- A shootdown of a page (14 R313). -/
def State.shootdown (s : State) (ctx page : Nat) : Option State := (s.performOld ctx page).map (fun a => (a.tlbDrop ctx page).l1Page ctx page)

/-- A page's entry changed, if it is reached. -/
def State.modPte (s : State) (ctx va : Nat) (f : Dword → Dword) : State :=
  match s.pte ctx va with
  | some (pa, p) => s.setPte pa (f p)
  | none => s

/-- Frames that hold copies of a lease's pages: POOLED and SHARED pages of its region (14 R314). -/
def State.leasePages (s : State) (l : Lease) : List (Nat × FrameSt) :=
  s.frames.filter (fun f => f.2.ctx == l.ctx && !f.2.table && decide (f.2.page / 16384 = l.vabase) && ((s.pte l.ctx (f.2.page * 65536)).map (fun e => pteKind e.2 != 0)).getD false)

/-- A dirty page's write-back in one action (14 R315): the stores that made it dirty are performed, DIRTY is cleared, the frame copied to the pool; unacknowledged, it leaves DIRTY set. -/
def State.writeBack (s : State) (ctx va : Nat) : State :=
  match s.pte ctx va, s.performOld ctx (va / 65536) with
  | some (pa, p), some s1 =>
    let l := s1.leaseFor ctx p
    if framed p ∧ pteDirty p ∧ pteKind p = 1 ∧ s1.leaseReach l then ((s1.wakePort l.port).toPool ctx (va / 65536 * 65536) 65536).setPte pa (pteWith p 54 54 0) else s
  | _, _ => s

/-- Windows over a page. -/
def State.pageWindows (s : State) (ctx page : Nat) : List Window := s.windows.filter (fun w => w.ctx == ctx && decide (w.base / 65536 = page))

/-- The windows over a page invalidated, their bytes written to it first (09 R211, 14 R320). -/
def State.stopWindows (s : State) (ctx page : Nat) (gone : Bool) : State :=
  let s1 := (s.pageWindows ctx page).foldl (fun (a : State) w => if w.valid then (a.windowBack w).markDirty w.ctx w.base else a) s
  { s1 with windows := s1.windows.map (fun w => if w.ctx == ctx && decide (w.base / 65536 = page) then { w with valid := false, gone := w.gone || gone } else w) }

/-- The group of a page is one no longer (14 R311): GROUP goes from its 32 entries. -/
def State.ungroup (s : State) (ctx va : Nat) : State :=
  if ((s.pte ctx va).map (fun e => e.2.getLsbD 57)).getD false then (List.range 32).foldl (fun (a : State) k => a.modPte ctx ((va / 2097152 * 32 + k) * 65536) (fun p => pteWith p 57 57 0)) s else s

/-- A page's copy dropped: its frame freed, its entry in a state with DIRTY, GROUP and FRAME clear (14 R314). Jobs on it end. -/
def State.dropCopy (s : State) (ctx va st : Nat) : State :=
  match s.pte ctx va with
  | some (pa, p) =>
    let s1 := if framed p then s.dropFrame (pteFrame p) else s
    let q := pteWith (pteWith (pteWith (pteWith p 63 60 st) 38 16 0) 54 54 0) 57 57 0
    { (s1.ungroup ctx va).setPte pa q with jobs := s1.jobs.filter (fun j => j.holds || !(j.ctx == ctx && j.page == va / 65536)) }
  | none => s

/-- A page leaves residence: shootdown, then its copy is dropped. -/
def State.unload (s : State) (ctx va st : Nat) : Option State := (s.shootdown ctx (va / 65536)).map (fun a => a.dropCopy ctx va st)

/-- A job is in progress on a page. -/
def State.jobOn (s : State) (ctx page : Nat) : Option PageJob := s.jobs.find? (fun j => j.ctx == ctx && j.page == page && !j.holds && !j.cleans)

/-- A refill started, if the page has no job. -/
def State.startRefill (s : State) (ctx page : Nat) (prefetch llc : Bool) : State :=
  if (s.jobOn ctx page).isSome then s else { s.wakePage ctx page with jobs := s.jobs ++ [{ ctx := ctx, page := page, op := .refill prefetch llc, since := s.ns }] }

/-- A dirty page's write-back started (14 R315): the stores that made it dirty are performed, and DIRTY is cleared. -/
def State.startWriteBack (s : State) (ctx page : Nat) (evict : Bool) : State :=
  match s.pte ctx (page * 65536), s.performOld ctx page with
  | some (pa, p), some s1 =>
    if framed p && pteDirty p && pteKind p == 1 && (s.jobOn ctx page).isNone then { (s1.wakePage ctx page).setPte pa (pteWith p 54 54 0) with jobs := s1.jobs ++ [{ ctx := ctx, page := page, op := .writeBack evict, since := s1.ns }] } else s
  | _, _ => s

/-- Pins on an extent's lines released, with PINLAPSE in their groups (14 R323). -/
def State.lapsePins (s : State) (f : Pin → Bool) : State :=
  let gone := s.pins.filter f
  gone.foldl (fun (a : State) p => a.modGroup p.grp (fun g => { g with pinLapse := true })) { s with pins := s.pins.filter (fun p => !f p) }

/-- A write-back of a page is in progress: until the pool has acknowledged it, its data counts as dirty (14 R315, R337). -/
def State.writingBack (s : State) (ctx page : Nat) : Bool := ((s.jobOn ctx page).map (fun j => match j.op with | .writeBack _ => true | _ => false)).getD false

/-- The pages of a lease dropped (14 R323, steps 2 to 5): accesses past their check point are performed, pins lapse, windows close with their bytes written to the pool while it answers, and each copy is dropped; dirty pages, or all of them, become LOST. -/
def State.dropLease (s : State) (l : Lease) (allLost keepBytes : Bool) : Option State :=
  let pages := (s.leasePages l).map (fun f => f.2.page)
  let inExtent (base : Nat) : Bool := decide (base / 2 ^ 30 = l.vabase)
  let performed := pages.foldl (fun (a : Option State) p => a.bind (fun x => x.performOld l.ctx p)) (some s)
  performed.bind (fun s1 =>
    let s2 := s1.lapsePins (fun p => p.ctx == l.ctx && inExtent p.base)
    let wins := s2.windows.filter (fun w => w.ctx == l.ctx && inExtent w.base && w.valid)
    let s3 := if keepBytes && s2.leaseReach l then wins.foldl (fun (a : State) w => (a.windowBack w).toPool w.ctx w.base w.len) (s2.wakePort l.port) else s2
    let s4 := { s3 with windows := s3.windows.map (fun w => if w.ctx == l.ctx && inExtent w.base then { w with valid := false } else w) }
    pages.foldl (fun (a : Option State) p => a.bind (fun x => match x.pte l.ctx (p * 65536) with
      | some (_, e) => x.unload l.ctx (p * 65536) (if allLost || ((pteDirty e || x.writingBack l.ctx p) && pteKind e != 2) then 6 else 1)
      | none => some x)) (some s4))

/-- An outbound mailbox record waits to be written (15 R347). -/
def State.post (s : State) (r : OutRec) : State := { s with outbox := s.outbox ++ [r] }

/-- An outbound record about a lease (15 R348). -/
def Lease.out (l : Lease) (type arg : Nat) : OutRec := { type := type, lid := l.lid, node := l.node, shr := l.shr, port := l.port, ctx := l.ctx, arg := arg }

/-- A renewal requested (15 R349). -/
def State.askRenewal (s : State) (n : Nat) : State :=
  let l := s.lease n
  (s.setLease n { l with asking := true, askedAt := s.ns }).post (l.out 0x81 l.gen.toNat)

/-- ms of device time in ns. -/
def msNs (n : Nat) : Nat := n * 1000000

/-- TLB_WALK (14 R311, R312): the walk of a page is complete; a translation that passes is cached for the cores and dies of its context's groups, a whole group in one entry (log 72). -/
def execTlbWalk (ctx : Nat) (va : Dword) (s : State) : Host.Outcome State Fault Refusal :=
  .next (
    if bits va 63 57 ≠ 0 then s
    else
      match s.translate ctx va.toNat .load with
      | .error _ => s
      | .ok _ =>
        let page := va.toNat / 65536
        let group := ((s.pte ctx va.toNat).map (fun x => x.2.getLsbD 57)).getD false
        let e := if group then (ctx, page / 32 * 32, 32) else (ctx, page, 1)
        let add (n : Nat) (l : List (Nat × Nat × Nat)) : List (Nat × Nat × Nat) := if l.contains e then l else (if l.length < n then l else l.drop 1) ++ [e]
        let here := (s.groups.filter (fun g => g.2.ctx == ctx && g.2.resident)).map (fun g => g.2.core)
        { s with
          cores := s.cores.map (fun c => if here.contains c.1 then (c.1, { c.2 with tlb := add 128 c.2.tlb }) else c)
          dies := s.dies.zipIdx.map (fun (d : Die × Nat) => if here.any (fun c => dieOf c == d.2) then { d.1 with tlb := add 8192 d.1.tlb } else d.1) })

end Sys2Proof.Machine
end

