-- ==== Sys2Proof/Machine/Admin.lean ====
section
/-! DEFINITION. The context commands (spec/04 R91 to R98) and the queue slot commands, doorbells and idle unmaps (spec/05 R106 to R115), with what bring-up does to them (19 R400). -/

namespace Sys2Proof.Machine

/-- The host is answered over port 0 (15 R344, R352; 19 R398): not for anything but SPDM once step 2 of bring-up has failed (19 R399). -/
def State.barUp (s : State) : Bool := s.powered && s.linkUp 0 && decide (s.boot ≠ 1)

/-- A context command is in progress (04 R92, 05 R109): a RESUME waits for writes of its queues' control blocks. -/
def State.ctxWaits (s : State) : Bool := !s.bar.ctxBusy.isEmpty

/-- Result of a context command (04 R91), and when it was applied (04 R94). -/
def State.ctxDone (s : State) (err : Nat) (last : Option Nat) : State :=
  { s with bar := { s.bar with ctxErr := err, ctxLast := last.getD s.bar.ctxLast, ctxAt := match last with | some c => putKey c s.plinth s.bar.ctxAt | none => s.bar.ctxAt } }

/-- A write of CTXCMD (04 R92, 19 R400): `op` is the operation of the event; a word with another operation is another event's. DESIGN CHOICE (log 82): a discarded write leaves the context that CTXSTAT shows as it was. -/
def State.ctxCommand (s0 : State) (w : Dword) (op : Nat) (f : State → Nat → State × Nat) : State :=
  let o := bits w 11 8
  if !s0.barUp || s0.tripped then s0
  else
    let s := s0.wakePort 0
    if s.boot < 6 ∨ s.ctxWaits then s.ctxDone 2 none
    else if bits w 63 20 ≠ 0 ∨ bits w 15 12 ≠ 0 ∨ o = 0 ∨ 6 < o then s.ctxDone 5 none
    else if o ≠ op then s0
    else
      let (s1, e) := f s (bits w 7 0)
      s1.ctxDone e (some (bits w 7 0))

/-- The checks of a context descriptor (04 R95); a root outside physical memory fails too (log 23). -/
def descriptorOk (d : Nat → Nat) : Bool :=
  let w0 := d 0
  decide (w0 / 2 ^ 32 = 0 ∧ w0 / 2 ^ 24 % 256 < 32 ∧ w0 / 2 ^ 20 % 16 = 0 ∧ w0 / 2 ^ 9 % 128 = 0 ∧ w0 % 256 = 1)
    && decide (d 1 % 4096 = 0 ∧ d 1 + 131072 ≤ Config.hbmBytes ∧ d 2 % 65536 = 0)
    && decide (d 3 / 2 ^ 32 ≠ 0 ∧ d 3 % 65536 = 0 ∧ d 3 % 2 ^ 32 ≠ 0)
    && decide (d 4 % 16384 = 0 ∧ d 5 % 8192 = 0 ∧ d 6 % 65536 = 0)
    && decide (d 7 / 2 ^ 37 = 0 ∧ d 7 % 2 ^ 32 = 0 ∧ 6 ≤ d 7 / 2 ^ 32 ∧ d 7 / 2 ^ 32 ≤ 16)
    && decide (d 10 % 4096 = 0 ∧ d 11 / 2 ^ 37 = 0 ∧ 4 ≤ d 11 / 2 ^ 32 ∧ d 11 / 2 ^ 32 ≤ 14)
    && decide (d 14 % 8 = 0 ∧ d 15 / 2 ^ 28 = 0)

/-- A context made from its descriptor (04 R93, R95). -/
def Ctx.ofDesc (at_ : Dword) (d : Nat → Nat) : Ctx :=
  { Ctx.empty with
    state := .created, desc := at_, prioCap := d 0 / 2 ^ 24 % 256, rights := BitVec.ofNat 4 (d 0 / 2 ^ 16), maint := (d 0).testBit 8,
    ptroot := BitVec.ofNat 64 (d 1), saveBase := BitVec.ofNat 64 (d 2), nslots := d 3 / 2 ^ 32, slotSize := d 3 % 2 ^ 32, ltBase := BitVec.ofNat 64 (d 4), bindBase := BitVec.ofNat 64 (d 5),
    jbase := BitVec.ofNat 64 (d 6), jlog := d 7 / 2 ^ 32, fbase := BitVec.ofNat 64 (d 10), flog := d 11 / 2 ^ 32, ehAddr := BitVec.ofNat 64 (d 14), cpolicy := BitVec.ofNat 28 (d 15) }

/-- CREATE (04 R93, R95, R97). DESIGN CHOICE (log 83): of a descriptor that fails an ordinary check and lacks the maintenance right, the check is reported. -/
def execCreate (w : Dword) (s : State) : Host.Outcome State Fault Refusal :=
  .next (s.ctxCommand w 1 (fun s c =>
    if (s.ctx c).state ≠ .empty then (s, 1)
    else
      let a := s.bar.ctxdesc
      let d (k : Nat) : Nat := (s.hostDword (a.toNat + 8 * k)).toNat
      if !descriptorOk d then (s, 3)
      else if (d 0).testBit 8 ∧ !(d 0).testBit 19 then (s, 4)
      else ((s.setCtx c (Ctx.ofDesc a d)).descSync c, 0)))

/-- ACTIVATE (04 R93). -/
def execActivate (w : Dword) (s : State) : Host.Outcome State Fault Refusal :=
  .next (s.ctxCommand w 2 (fun s c => if (s.ctx c).state = .created then (s.setCtx c { s.ctx c with state := .active }, 0) else (s, 1)))

/-- Claims of a context's gathering kernel released (06 R130). -/
def State.releaseClaims (s : State) (ctx : Nat) : State :=
  { s with kernels := s.kernels.map (fun e => if e.2.ctx == ctx then (e.1, { e.2 with gathering := false, claims := [] }) else e) }

/-- QUIESCE (04 R93; 06 R130, R135): every resident gang that finds a free save slot is halted. -/
def execQuiesce (w : Dword) (s : State) : Host.Outcome State Fault Refusal :=
  .next (s.ctxCommand w 3 (fun s c =>
    if (s.ctx c).state ≠ .active then (s, 1)
    else
      let s1 := (s.setCtx c { s.ctx c with state := .quiescing }).releaseClaims c
      let gangs := (s1.kernels.filter (fun e => e.2.ctx == c)).flatMap (fun e => (List.range e.2.gangs.length).map (fun g => (e.1, g)))
      (((gangs.foldl (fun (a : State) g => a.preempt g.1 g.2) s1).quiesceCheck c).markFirst, 0)))

/-- A queue of a resumed context goes back to its saved state (05 R111): PROD is read again. DESIGN CHOICE (log 91): the time it was SUSPENDED counts as idle for IDLEUNMAP. -/
def State.slotResume (s : State) (k : Nat) : State :=
  match s.slot? k with
  | some q => if q.state = .suspended then ((((s.setSlot k { q with state := q.saved }).qcbSync k false).readProd k).settle k) else s
  | none => s

/-- RESUME (04 R93, 05 R111): in progress until every queue's new STATE is written (05 R109). -/
def execResume (w : Dword) (s : State) : Host.Outcome State Fault Refusal :=
  .next (s.ctxCommand w 4 (fun s c =>
    if (s.ctx c).state ≠ .suspended then (s, 1)
    else
      let s1 := s.setCtx c { s.ctx c with state := .active }
      let mine := ((s1.slots.filter (fun e => e.2.ctx == c && decide (e.1 < 256) && decide (e.2.state = .suspended))).map (fun e => e.1))
      let s2 := (mine.foldl (fun (a : State) k => a.slotResume k) s1).markFirst
      ({ s2 with bar := { s2.bar with ctxBusy := mine.filter s2.slotWaits } }, 0)))

/-- Commands of a queue whose context is destroyed end (05 R119, log 24): those that have not started are CANCELLED, waits and signals FAIL, kernels are killed. -/
def State.endCommands (s : State) (k : Nat) : State :=
  match s.slot? k with
  | none => s
  | some q => q.cmds.foldl (fun (a : State) c =>
      match c.kern, c.running with
      | some kn, true => a.killKern kn none
      | some kn, false => (a.kernCancel kn).cmdFinish k c.seq 4 (fun r => r)
      | none, true => a.cmdFinish k c.seq 3 (fun r => r)
      | none, false => a.cmdFinish k c.seq 4 (fun r => r)) s

/-- DESTROY (04 R93; 05 R114): the queues' commands end and the queues are unmapped; saved images go with their groups. -/
def execDestroy (w : Dword) (s : State) : Host.Outcome State Fault Refusal :=
  .next (s.ctxCommand w 5 (fun s c =>
    match (s.ctx c).state with
    | .created | .suspended | .faulted =>
      let s1 := s.setCtx c { s.ctx c with state := .destroying }
      let mine := (s1.slots.filter (fun e => e.2.ctx == c)).map (fun e => e.1)
      let s2 := mine.foldl (fun (a : State) k => a.endCommands k) s1
      ((mine.filter (fun k => decide (k < 256))).foldl (fun (a : State) k => a.unmap k) s2, 0)
    | _ => (s, 1)))

/-- A thread when DEBUG goes: one halted for debug goes on, and no precise halt is asked for. -/
def Thread.undebug (t : Thread) (clock : Nat) : Thread := { t.goOn clock with preciseHalt := false }

/-- Threads halted for debug resume when DEBUG goes (04 R98), and breakpoints and watchpoints go. -/
def State.dropDebug (s : State) (c : Nat) : State :=
  let s1 := s.setCtx c { s.ctx c with bps := List.replicate 8 none, wps := List.replicate 4 none }
  (s1.groups.filter (fun g => g.2.ctx == c)).foldl (fun (a : State) g =>
    (a.modGroup g.1 (fun x => ({ x with threads := x.threads.map (fun t => t.undebug (s.clock x.core)) } : Group).retable)).reactivate g.1) s1

/-- SETRIGHTS (04 R97, R98). -/
def execSetrights (w : Dword) (s : State) : Host.Outcome State Fault Refusal :=
  .next (s.ctxCommand w 6 (fun s c =>
    let x := s.ctx c
    let r : BitVec 4 := BitVec.ofNat 4 (bits w 19 16)
    if x.state = .empty ∨ x.state = .destroying then (s, 1)
    else if x.maint ∧ !r.getLsbD 3 then (s, 4)
    else
      let s1 := s.setCtx c { x with rights := r }
      (if x.debug && !r.getLsbD 0 then s1.dropDebug c else s1, 0)))

/-- Leases of a destroyed context end (14 R322): dirty pages of a GRANTED or EXPIRING one are written back, copies dropped, and the release is sent. -/
def State.endLeases (s : State) (c : Nat) : State :=
  (s.leases.filter (fun l => l.2.ctx == c)).foldl (fun (a : State) e =>
    let pages := (a.leasePages e.2).map (fun f => f.2.page)
    let a1 := if e.2.state = 1 ∨ e.2.state = 2 then pages.foldl (fun (b : State) p => b.writeBack c (p * 65536)) a else a
    let a2 := pages.foldl (fun (b : State) p => b.dropCopy c (p * 65536) 1) a1
    (a2.setLease e.1 Lease.free).post (e.2.out 0x83 0)) s

/-- TEARDOWN_COMPLETE (04 R93): when nothing of a destroyed context is left, its pins, windows, leases, frames and translations go, and its number is free. -/
def execTeardownComplete (ctx : Nat) (s : State) : Host.Outcome State Fault Refusal :=
  .next (
    let busy := s.groups.any (fun g => g.2.ctx == ctx) || s.kernels.any (fun k => k.2.ctx == ctx) || s.slots.any (fun q => q.2.ctx == ctx)
      || s.devWrites.any (fun w => w.ctx == ctx) || !(s.ctx ctx).faults.isEmpty || s.jobs.any (fun j => j.ctx == ctx && !j.holds) || (s.bar.mapWait.map (fun m => m.2.1 == ctx)).getD false
    if (s.ctx ctx).state ≠ .destroying ∨ busy then s
    else
      let s1 := (s.endLeases ctx).lapsePins (fun p => p.ctx == ctx)
      let s2 := ((s1.frames.filter (fun f => f.2.ctx == ctx)).map (fun f => f.1)).foldl (fun (a : State) f => a.dropFrame f) s1
      { s2 with
        windows := s2.windows.filter (fun w => w.ctx != ctx), pend := s2.pend.filter (fun p => p.ctx != ctx), jobs := s2.jobs.filter (fun j => j.ctx != ctx), unseen := s2.unseen.filter (fun u => u.ctx != ctx), prefetch := s2.prefetch.filter (fun p => p.ctx != ctx), oslots := s2.oslots.filter (fun o => o.ctx != ctx),
        cores := s2.cores.map (fun c => (c.1, { c.2 with l1 := c.2.l1.filter (fun l => l.ctx != ctx), tlb := c.2.tlb.filter (fun e => e.1 != ctx) })),
        dies := s2.dies.map (fun d => { d with tlb := d.tlb.filter (fun e => e.1 != ctx) }),
        ctxs := dropKey ctx s2.ctxs })

/-- Result of a slot command (05 R106). -/
def State.slotDone (s : State) (err : Nat) (last : Option Nat) : State :=
  { s with bar := { s.bar with qErr := err, qLast := last.getD s.bar.qLast } }

/-- A slot command is in progress (05 R107 to R109): a MAP waits, or a change waits for a write of its control block. -/
def State.slotBusy (s : State) : Bool := s.bar.mapWait.isSome || (s.bar.qBusy.map s.slotWaits).getD false

/-- A slot command's change waits for a write of its control block, if one waits. -/
def State.slotPending (s : State) (k : Nat) : State :=
  if s.bar.qErr = 0 ∧ s.slotWaits k then { s with bar := { s.bar with qBusy := some k } } else s

/-- A write of QSLOTCMD (05 R107, 19 R400). DESIGN CHOICE (log 82): a write discarded with ERR 2 or 5 leaves the slot that QSLOTSTAT shows as it was. -/
def State.slotCommand (s0 : State) (w : Dword) (op : Nat) (f : State → Nat → State) : State :=
  let o := bits w 11 8
  if !s0.barUp || s0.tripped then s0
  else
    let s := s0.wakePort 0
    if s.boot < 6 ∨ s.slotBusy then s.slotDone 2 none
    else if bits w 63 24 ≠ 0 ∨ bits w 15 12 ≠ 0 ∨ o = 0 ∨ 3 < o then s.slotDone 5 none
    else if o ≠ op then s0
    else (f (s.slotDone 0 (some (bits w 7 0))) (bits w 7 0)).slotPending (bits w 7 0)

/-- The conditions of R108 on a control block's doublewords. -/
def qcbOk (d : Nat → Nat) (ctx prioCap : Nat) : Bool :=
  let w0 := d 0
  decide (w0 / 2 ^ 40 = 0 ∧ w0 / 2 ^ 32 % 256 = ctx ∧ w0 / 2 ^ 29 % 8 = 0 ∧ w0 / 2 ^ 24 % 32 ≤ prioCap ∧ w0 / 2 ^ 21 % 8 = 0 ∧ 4 ≤ w0 / 2 ^ 16 % 32 ∧ w0 / 2 ^ 16 % 32 ≤ 16 ∧ w0 / 2 ^ 9 % 128 = 0 ∧ w0 % 256 = 1)
    && decide (d 1 % 4096 = 0 ∧ d 5 / 2 ^ 28 = 0 ∧ d 6 / 2 ^ 48 = 0 ∧ d 6 / 2 ^ 16 % 65536 = 0 ∧ d 7 / 2 ^ 32 = 0 ∧ d 8 / 2 ^ 16 = 0)
    && (List.range 6).all (fun k => decide (d (10 + k) = 0))

/-- A queue bound to a slot (05 R111); what is left of it from an earlier mapping goes on here. -/
def State.bindSlot (s : State) (k ctx : Nat) (qcb : Dword) (d : Nat → Nat) : State :=
  let old := s.slots.find? (fun e => decide (256 ≤ e.1) && e.2.ctx == ctx && decide (e.2.qcb = qcb))
  let cmds := (old.map (fun e => e.2.cmds)).getD []
  let susp := decide ((s.ctx ctx).state = .suspended)
  let q : QSlot :=
    { home := k, state := if susp then .suspended else .mapped, saved := .mapped, errcode := 0, ctx := ctx, qcb := qcb, prio := d 0 / 2 ^ 24 % 32, rlog := d 0 / 2 ^ 16 % 32, rbase := BitVec.ofNat 64 (d 1),
      qpolicy := BitVec.ofNat 28 (d 5), idleUnmap := d 6 / 2 ^ 32 % 65536, nvec := d 6 % 65536, prod := BitVec.ofNat 64 (d 2), cons := BitVec.ofNat 64 (d 3), finseq := 0, cmds := cmds, idleSince := s.ns, pendNotify := false, wait := none, lost := false }
  let s1 := match old with
    | some e => { s with slots := dropKey e.1 s.slots, kernels := s.kernels.map (fun (x : Nat × Kernel) => if x.2.qkey = e.1 then (x.1, { x.2 with qkey := k }) else x) }
    | none => s
  ((s1.setSlot k q).qcbSync k true).settle k

/-- MAP (05 R108, R111): it waits with BUSY at 1 while its control block's page is away; `lost` says that the Registrar has given the page up. DESIGN CHOICE (log 84): its access to the block is checked as a store, which MAP makes of it, so a page without W fails the MAP. DESIGN CHOICE (log 82): one that has waited and succeeds leaves ERR as it is, at 2 where a write was discarded meanwhile. -/
def State.mapTry (s : State) (k ctx : Nat) (a : Dword) (lost : Bool) : State :=
  if (s.slot? k).isSome then s.slotDone 1 none
  else if (s.ctx ctx).state ≠ .active ∧ (s.ctx ctx).state ≠ .suspended then s.slotDone 4 none
  else
    match s.route ctx a.toNat .store with
    | .error f =>
      if lost then s.slotDone 3 none
      else
        let (s1, n) := s.devFault ctx a.toNat 7 f
        { s1 with bar := { s1.bar with mapWait := some (k, ctx, n, a) } }
    | .ok l =>
      let d (i : Nat) : Nat := natOfBytes (s.currentBytes (l.add (8 * i)) 8)
      let held := (d 8).testBit 7 || s.slots.any (fun e => decide (e.1 < 256) && e.2.ctx == ctx && decide (e.2.qcb = a))
      if !qcbOk d ctx (s.ctx ctx).prioCap || held then s.slotDone 3 none else s.bindSlot k ctx a d

/-- QSLOT_MAP (05 R111). -/
def execQslotMap (w : Dword) (s : State) : Host.Outcome State Fault Refusal := .next (s.slotCommand w 1 (fun s k => s.mapTry k (bits w 23 16) s.bar.qslotaddr false))

/-- UNMAP of a queue that could accept (05 R111): DRAINING while anything is outstanding, and notifies of this plinth cycle belong to the unmapping path (05 R113). -/
def State.hostUnmap (s : State) (k : Nat) : State :=
  match s.slot? k with
  | none => s
  | some q => if q.cmds.isEmpty then s.unmap k else (s.setSlot k (q.noted s.plinth)).slotState k .draining

/-- A host UNMAP in the plinth cycle of an acceptance from its slot begins in the next one (05 R114, log 90): of the two in one cycle the unmap would have come first. -/
def State.afterAccept (s : State) (k : Nat) : State := if ((s.slot? k).map (fun q => decide (q.acceptedAt = some s.plinth))).getD false then s.nextPlinth else s

/-- QSLOT_UNMAP (05 R111, R114). -/
def execQslotUnmap (w : Dword) (s : State) : Host.Outcome State Fault Refusal :=
  .next (s.slotCommand w 2 (fun s0 k =>
    let s := s0.afterAccept k
    match s.slot? k with
    | none => s.slotDone 1 none
    | some q =>
      match q.state with
      | .mapped | .active | .stalled => s.hostUnmap k
      | .suspended => if q.cmds.isEmpty then s.unmap k else s.slotDone 1 none
      | .error => s.unmap k
      | _ => s.slotDone 1 none))

/-- QSLOT_RESET (05 R111). -/
def execQslotReset (w : Dword) (s : State) : Host.Outcome State Fault Refusal :=
  .next (s.slotCommand w 3 (fun s k =>
    match s.slot? k with
    | none => s.slotDone 1 none
    | some q =>
      if q.state = .error ∧ (s.ctx q.ctx).state = .active then (((s.setSlot k { q with state := .mapped, errcode := 0, idleSince := s.ns, lost := false, gone := false }).readProd k).qcbSync k false).settle k
      else s.slotDone 1 none))

/-- QNOTIFY (05 R111, R113; 15 R339, R344). -/
def execQnotify (slot : Nat) (s : State) : Host.Outcome State Fault Refusal :=
  .next (if !s.barUp || s.tripped || decide (256 ≤ slot) then s else (s.wakePort 0).notifySlot slot)

/-- IDLE_UNMAP (05 R111, R114): a MAPPED queue with nothing outstanding has been idle for IDLEUNMAP µs. -/
def execIdleUnmap (slot : Nat) (s : State) : Host.Outcome State Fault Refusal :=
  .next (
    match s.slot? slot with
    | none => s
    | some q => if q.state = .mapped ∧ q.idleUnmap ≠ 0 ∧ q.cmds.isEmpty ∧ q.wait.isNone ∧ slot < 256 ∧ q.idleSince + 1000 * q.idleUnmap ≤ s.ns then s.unmap slot else s)

end Sys2Proof.Machine
end

