-- ==== Sys2Proof/Machine/Packet.lean ====
section
/-! DEFINITION. Command packets (spec/05 R116 to R119) and launch descriptors (06 R123 to R125): arbitration, acceptance, and the waits and signals of a queue. -/

namespace Sys2Proof.Machine

/-- Reserved bits and limits of a packet (05 R116), its TYPE aside. -/
def packetOk (p : BitVec 512) : Bool :=
  let d (k : Nat) : Nat := pktDword p k
  let rest (n : Nat) : Bool := (List.range (8 - n)).all (fun k => decide (d (n + k) = 0))
  decide (d 0 / 2 ^ 10 = 0) && (match d 0 % 256 with
    | 0 => rest 1
    | 1 => decide (d 1 % 64 = 0) && rest 2
    | 2 => decide (d 1 % 8 = 0 ∧ d 4 % 4 ≠ 3 ∧ d 4 % 2 ^ 32 / 4 = 0) && rest 5
    | 3 => decide (d 1 % 128 = 0 ∧ d 3 % 2 ^ 32 = 0) && rest 4
    | 4 => decide (d 1 % 8 = 0 ∧ d 3 % 4 ≠ 3 ∧ d 3 / 8 = 0) && rest 4
    | _ => false)

/-- A queue that could have its head packet accepted (05 R111, R118): ACTIVE or just clear of a stall, its context ACTIVE, nothing waited for. -/
def State.acceptable (s : State) (k : Nat) (q : QSlot) : Bool :=
  decide (k < 256) && decide (q.state = .active ∨ q.state = .stalled) && decide ((s.ctx q.ctx).state = .active) && q.wait.isNone && q.hwait.isNone && decide (q.prod ≠ q.cons)
    && s.hostReach ((s.ctx q.ctx).desc.toNat + 0x48)
    && (match s.headPacket q with
      | .ok p => !s.stalls q p
      | .error _ => false)

/-- Slots from the one above the last accepted at a level on, wrapping (05 R118). -/
def State.slotOrder (s : State) (prio k : Nat) : Nat := (k + 255 - (lookKey prio s.lastAccept).getD 255) % 256

/-- The slot whose packet is accepted next (05 R118). -/
def State.winner (s : State) : Option Nat :=
  ((s.slots.filter (fun e => s.acceptable e.1 e.2)).foldl (fun (b : Option (Nat × QSlot)) e => match b with
    | none => some e
    | some x =>
      if x.2.prio < e.2.prio ∨ (x.2.prio = e.2.prio ∧ s.slotOrder x.2.prio e.1 < s.slotOrder x.2.prio x.1) then some e else some x) none).map (fun e => e.1)

/-- A packet accepted (05 R111, R117; 04 R103): the command is outstanding, its record is ACCEPTED, CONS has passed it, PROD is read again. -/
def State.accept (s : State) (k : Nat) (q : QSlot) (p : BitVec 512) (running : Bool) (deadline : Option Nat) (kern : Option Nat) (kseq : Word) : State :=
  let c := s.ctx q.ctx
  let cmd : Cmd := { seq := q.cons, type := bits p 7 0, onfail := p.getLsbD 9, packet := p, jidx := c.jprod, running := running, deadline := deadline, kern := kern, wait := none, lost := false }
  let rec0 : JRec := { kind := bits p 7 0, cause := 0, state := 0, queue := k, seq := q.cons, tacc := BitVec.ofNat 64 s.ns, trun := 0, tend := 0, nfail := 0, ndone := 0, kseq := kseq, jidx := c.jprod, upd := 0, lost := false }
  let s1 := (s.setSlot k { q with cons := q.cons + 1, cmds := q.cmds ++ [cmd], lost := false, acceptedAt := some s.plinth }).jopen q.ctx rec0
  ((({ s1 with lastAccept := putKey q.prio k s1.lastAccept } : State).qcbSync k false).readProd k)

/-- A command enters RUNNING at its acceptance (05 R117). -/
def State.runCmd (s : State) (ctx : Nat) (j : Dword) : State := s.jmod ctx j (fun r => { r with state := 1, trun := BitVec.ofNat 64 s.ns })

/-- The turn of a slot at its head packet: only the slot that arbitration chooses accepts, and only a packet of the event's kind; any other is brought to its state. -/
def State.packetTurn (s : State) (k : Nat) (kind : QSlot → BitVec 512 → Bool) (f : State → QSlot → BitVec 512 → State) : State :=
  let s1 := s.settle k
  if s1.winner = some k then
    match s1.slot? k with
    | some q =>
      match s1.headPacket q with
      | .ok p => if kind q p then f s1 q p else s1
      | .error _ => s1
    | none => s1
  else s1

/-- The packet is valid and of a type. -/
def validOf (t : Nat) (_ : QSlot) (p : BitVec 512) : Bool := decide (bits p 7 0 = t) && packetOk p

/-- NOP_PACKET (05 R116): DONE at acceptance. -/
def execNopPacket (slot : Nat) (s : State) : Host.Outcome State Fault Refusal :=
  .next (s.packetTurn slot (validOf 0) (fun s q p =>
    let s1 := (s.accept slot q p true none none 0).runCmd q.ctx (s.ctx q.ctx).jprod
    s1.cmdFinal slot q.cons 2 false (fun r => r)))

/-- An invalid packet taken (05 R111, R116): FAILED, and ERROR with code 1. DESIGN CHOICE (log 80): the row gives no effect on CONS; the packet counts as accepted, and CONS passes it. -/
def State.rejectPacket (s : State) (k : Nat) (q : QSlot) (p : BitVec 512) : State :=
  ((s.accept k q p true none none 0).cmdFinish k q.cons 3 (fun r => r)).queueError k 1

/-- INVALID_PACKET (05 R116). -/
def execInvalidPacket (slot : Nat) (s : State) : Host.Outcome State Fault Refusal :=
  .next (s.packetTurn slot (fun _ p => !packetOk p) (fun s q p => s.rejectPacket slot q p))

/-- A TIMEOUT in µs as a moment (05 R116). -/
def State.deadlineOf (s : State) (us : Nat) : Option Nat := if us = 0 then none else some (s.ns + 1000 * us)

/-- A wait accepted: RUNNING, and evaluated at once (05 R116). -/
def State.startWait (s : State) (k : Nat) (q : QSlot) (p : BitVec 512) (us : Nat) : State :=
  (((s.accept k q p true (s.deadlineOf us) none 0).runCmd q.ctx (s.ctx q.ctx).jprod).waitsEval k).settle k

/-- WAITMEM (05 R116). -/
def execWaitmem (slot : Nat) (s : State) : Host.Outcome State Fault Refusal :=
  .next (s.packetTurn slot (validOf 2) (fun s q p => s.startWait slot q p (pktDword p 4 / 2 ^ 32)))

/-- WAITCMD (05 R116): the QCB it names is read at acceptance; the queue stalls while its page is refilled, and another context's, or a lost one, makes the packet invalid. -/
def execWaitcmd (slot : Nat) (s : State) : Host.Outcome State Fault Refusal :=
  .next (s.packetTurn slot (validOf 3) (fun s q p =>
    match s.devRead q.ctx (pktDword p 1) 8 with
    | .ok bs => if natOfBytes bs / 2 ^ 32 % 256 = q.ctx then s.startWait slot q p (pktDword p 3 / 2 ^ 32) else s.rejectPacket slot q p
    | .error f => if q.lost then s.rejectPacket slot q p else (s.headWait slot q (pktDword p 1) f).slotState slot .stalled))

/-- SIGNAL (05 R116): RUNNING; its write follows. -/
def execSignal (slot : Nat) (s : State) : Host.Outcome State Fault Refusal :=
  .next (s.packetTurn slot (validOf 4) (fun s q p => ((s.accept slot q p true none none 0).runCmd q.ctx (s.ctx q.ctx).jprod).settle slot))

/-- SIGNAL_DONE (05 R116): the write of a queue's running SIGNAL is performed. -/
def execSignalDone (slot : Nat) (s : State) : Host.Outcome State Fault Refusal :=
  .next (
    match s.slot? slot with
    | none => s
    | some q => (q.cmds.filter (fun c => c.running && c.type == 4)).foldl (fun (a : State) c => a.signalRun slot c) s)

/-- WAIT_EVALUATE (05 R116). -/
def execWaitEvaluate (slot : Nat) (s : State) : Host.Outcome State Fault Refusal := .next (s.waitsEval slot)

/-- WAIT_TIMEOUT (05 R116): waits that have reached their TIMEOUT end FAILED. -/
def execWaitTimeout (slot : Nat) (s : State) : Host.Outcome State Fault Refusal :=
  .next (
    match s.slot? slot with
    | none => s
    | some q => (q.cmds.filter (fun c => c.running && (c.type == 2 || c.type == 3) && (c.deadline.map (fun d => decide (d ≤ s.ns))).getD false)).foldl (fun (a : State) c => a.cmdFinal slot c.seq 3 false (fun r => r)) s)

/-- Bytes read by the device across pages (05 R109): what could be read, or the address and fault that stop it. -/
def State.devReadAll (s : State) (ctx va n : Nat) : Except (Nat × PgFault) (List Byte) :=
  let part (p : Nat × Nat) : Except (Nat × PgFault) (List Byte) :=
    match s.devRead ctx p.1 p.2 with
    | .ok bs => .ok bs
    | .error f => .error (p.1, f)
  ((pageParts va n).mapM part).map (fun (l : List (List Byte)) => l.flatten)

/-- A launch descriptor from its bytes, as doublewords (06 R124). -/
def LaunchDesc.ofDwords (d : Nat → Nat) : LaunchDesc :=
  { frame := d 0 / 2 ^ 48 % 64 * 32, vslots := d 0 / 2 ^ 32 % 1024, nparam := d 0 / 2 ^ 24 % 64, acc := d 0 / 2 ^ 20 % 8, gangSize := d 0 / 2 ^ 16 % 8, depKind := d 0 / 2 ^ 12 % 4, evbar := d 0 / 2 ^ 10 % 4,
    evb := (d 0).testBit 9, cor := (d 0).testBit 8, entry := BitVec.ofNat 64 (d 1), scratch := d 2 / 2 ^ 48 % 256, threads := d 2 / 2 ^ 32 % 2048, ngroups := d 2 % 2 ^ 24,
    stkBase := BitVec.ofNat 64 (d 4), evCount := BitVec.ofNat 32 (d 5 / 2 ^ 32), stkSize := d 5 % 2 ^ 32, evAddr := BitVec.ofNat 64 (d 6), gangPol := BitVec.ofNat 28 (d 7 / 2 ^ 32), grpPol := BitVec.ofNat 28 (d 7), kPol := BitVec.ofNat 28 (d 8),
    prodEvt := BitVec.ofNat 64 (d 9), prodNg := d 10 / 2 ^ 32 % 2 ^ 24, prodKseq := BitVec.ofNat 32 (d 10), depHi := (BitVec.ofNat 32 (d 11 / 2 ^ 32)).toInt, depLo := (BitVec.ofNat 32 (d 11)).toInt }

/-- Reserved fields of a launch descriptor are zero, and its VERSION is 1 (06 R124, R125). -/
def launchReserved (d : Nat → Nat) : Bool :=
  decide (d 0 / 2 ^ 54 = 0 ∧ d 0 / 2 ^ 42 % 64 = 0 ∧ d 0 / 2 ^ 30 % 4 = 0 ∧ d 0 / 2 ^ 23 % 2 = 0 ∧ d 0 / 2 ^ 19 % 2 = 0 ∧ d 0 / 2 ^ 14 % 4 = 0 ∧ d 0 % 256 = 1)
    && decide (d 2 / 2 ^ 56 = 0 ∧ d 2 / 2 ^ 43 % 32 = 0 ∧ d 2 / 2 ^ 24 % 256 = 0 ∧ d 7 / 2 ^ 60 = 0 ∧ d 7 / 2 ^ 28 % 16 = 0 ∧ d 8 / 2 ^ 28 = 0 ∧ d 10 / 2 ^ 56 = 0)
    && (List.range 4).all (fun k => decide (d (12 + k) = 0))

/-- Bytes of a gang image (06 R134). -/
def LaunchDesc.image (d : LaunchDesc) : Nat :=
  let up (n m : Nat) : Nat := (n + m - 1) / m * m
  let grp := up (4096 + d.frameBytes + 4096 * d.scratch + 16384 * d.acc + 4096 * d.vslots + 1024 * d.threads) 4096
  up (4096 + d.gangSize * grp) 65536

/-- Groups of a kernel that an empty core holds. -/
def LaunchDesc.perCore (d : LaunchDesc) : Nat :=
  let n := d.need
  let lim (a b : Nat) : Nat := if b = 0 then 8 else a / b
  [8, lim 2048 n.threads, lim 720896 n.frameBytes, lim 524288 n.scratchBytes, lim 16 n.accs, lim 512 n.vslots].foldl Nat.min 8

/-- The tests 1 to 7 of R125. `next` is the KSEQ the launch would take; PARAMADDR is doubleword 3. -/
def State.launchOk (s : State) (c : Ctx) (raw : Nat → Nat) : Bool :=
  let d := LaunchDesc.ofDwords raw
  let quads := ((List.range Config.quads).filter (fun q => s.inPlacement q)).length
  launchReserved raw
    && decide (32 ≤ d.frame ∧ d.frame ≤ 1536 ∧ d.vslots ≤ 512 ∧ d.nparam ≤ 32 ∧ d.acc ≤ 4 ∧ 1 ≤ d.gangSize ∧ d.gangSize ≤ 4 ∧ d.depKind ≠ 3 ∧ d.scratch ≤ 128 ∧ 1 ≤ d.threads ∧ d.threads ≤ 1024 ∧ 1 ≤ d.ngroups ∧ d.stkSize % 64 = 0)
    && decide (d.ngroups % d.gangSize = 0 ∧ d.entry.toNat % 8 = 0 ∧ raw 3 % 4 = 0 ∧ d.stkBase.toNat % 64 = 0 ∧ d.evAddr.toNat % 8 = 0)
    && decide (d.frameBytes + 4096 * d.scratch ≤ 720896 ∧ d.image ≤ c.slotSize) && (!d.evb || d.cor)
    && (d.depKind == 0 || (decide (1 ≤ d.prodNg) && decide (let k := (c.kseqNext - d.prodKseq).toNat; 1 ≤ k ∧ k < 2 ^ 31) && (d.depKind != 2 || decide (d.depLo ≤ d.depHi))))
    && (!d.cor || decide (d.ngroups / d.gangSize ≤ quads * (4 * d.perCore / d.gangSize)))

/-- What the acceptance of a LAUNCH reads (06 R124, R125): the descriptor passes with its parameters, is rejected, or waits for a page. -/
inductive LaunchRead where
  | pass (d : LaunchDesc) (params : List Word)
  | reject
  | wait (va : Nat) (f : PgFault)

/-- The descriptor and its parameter block read. -/
def State.launchRead (s : State) (q : QSlot) (p : BitVec 512) : LaunchRead :=
  match s.devReadAll q.ctx (pktDword p 1) 128 with
  | .error (va, f) => if q.lost then .reject else .wait va f
  | .ok bs =>
    let raw (k : Nat) : Nat := natOfBytes ((bs.drop (8 * k)).take 8)
    if !s.launchOk (s.ctx q.ctx) raw then .reject
    else
      let d := LaunchDesc.ofDwords raw
      match (if d.nparam = 0 then .ok [] else s.devReadAll q.ctx (raw 3) (4 * d.nparam)) with
      | .error (va, f) => if q.lost then .reject else .wait va f
      | .ok ps => .pass d ((List.range d.nparam).map (fun i => BitVec.ofNat 32 (natOfBytes ((ps.drop (4 * i)).take 4))))

/-- A gang before its placement (06 R133). -/
def Gang.fresh (dep : Bool) : Gang :=
  { state := .waiting, quad := 0, members := [], qb := [], chans := [], saveSlot := none, cancelled := [], heldCounts := [], firstSince := none, halted := false, depOk := !dep, placedAt := 0 }

/-- LAUNCH_PACKET (06 R123 to R125, R132, R133): the descriptor and its parameters are read; a rejected one ends FAILED with no KSEQ. -/
def execLaunchPacket (slot : Nat) (s : State) : Host.Outcome State Fault Refusal :=
  .next (s.packetTurn slot (validOf 1) (fun s q p =>
    match s.launchRead q p with
    | .wait va f => (s.headWait slot q va f).slotState slot .stalled
    | .reject => (s.accept slot q p false none none 0).cmdFinal slot q.cons 3 true (fun r => r)
    | .pass d params =>
      let c := s.ctx q.ctx
      let kn := s.nextUid
      let ks := c.kseqNext
      let k : Kernel := { ctx := q.ctx, kseq := ks, slot := slot, seq := q.cons, prio := q.prio, desc := d, params := params, state := .accepted, gangs := List.replicate (d.ngroups / d.gangSize) (Gang.fresh (d.depKind != 0)), ended := [], order := s.kernOrder, gathering := false, qkey := slot, qcb := q.qcb, claims := [], dieBars := [], devBars := [] }
      let s1 := s.setCtx q.ctx { c with kseqNext := if ks = 0xFFFFFFFF then 1 else ks + 1 }
      let s2 := ({ s1 with nextUid := kn + 1, kernOrder := s1.kernOrder + 1 } : State).setKern kn k
      (((s2.accept slot q p false none (some kn) ks).settle slot).depCheck kn).markFirst))

end Sys2Proof.Machine
end

