-- ==== Sys2Proof/Machine/Resolve.lean ====
section
/-! DEFINITION. The Registrar at work (spec/14 R314 to R332): the resolution of pending faults, by release or by conversion, page jobs, the request ring, access counters, prefetch and uncorrectable errors. -/

namespace Sys2Proof.Machine

/-- An engine command's wait ends. -/
def EngCmd.wake (c : EngCmd) (n : Nat) (lost : Bool) : EngCmd := if c.wait = some n then { c with wait := none, lost := c.lost || lost } else c

/-- A copy command's wait ends. -/
def CopyCmd.wake (c : CopyCmd) (n : Nat) (lost : Bool) : CopyCmd := if c.wait = some n then { c with wait := none, lost := c.lost || lost } else c

/-- Engine commands that wait for a pending fault go on, or know their translation lost (14 R328; 13 R300). -/
def State.wakeEngines (s : State) (n : Nat) (lost : Bool) : State :=
  { s with
    cores := s.cores.map (fun c => (c.1, { c.2 with arrayQ := c.2.arrayQ.map (fun x => x.wake n lost), loads := c.2.loads.map (fun x => x.wake n lost), drains := c.2.drains.map (fun x => x.wake n lost) }))
    chains := s.chains.map (fun c => (c.1, { cmds := c.2.cmds.map (fun x => x.wake n lost), follow := c.2.follow.map (fun x => x.wake n lost) }))
    oslots := s.oslots.map (fun o => { o with parts := o.parts.map (fun (x : Nat × EngCmd) => (x.1, x.2.wake n lost)) }) }

/-- A queue in ERROR with code 5 (05 R109), unless it is in ERROR already. -/
def State.queueLost (s : State) (k : Nat) : State := if ((s.slot? k).map (fun q => decide (q.state = .error))).getD true then s else s.queueError k 5

/-- The control block of an unmapped queue that is owed a notify is lost: its vector is signalled (log 78). -/
def State.tellLost (s : State) (k : Nat) : State :=
  match s.slot? k with
  | some q => if !q.pendNotify then s else let s1 := s.setSlot k { q with pendNotify := false }; if q.nvec = 0xFFFF then s1 else s1.msix q.nvec
  | none => s

/-- A queue's access to its control block goes on (05 R109): the write that waits is made with the values current now, an owed read of PROD follows, and what waited behind them; a block that is lost leaves the queue's state on its slot. -/
def State.wakeBlock (s : State) (k : Nat) (q : QSlot) (lost : Bool) : State :=
  let s0 : State := { s with bar := { s.bar with qBusy := if s.bar.qBusy = some k then none else s.bar.qBusy, ctxBusy := s.bar.ctxBusy.filter (fun x => x != k) } }
  let s1 := s0.setSlot k { q with wait := none, gone := q.gone || lost, reread := q.reread && !lost }
  if q.unmapping then s1.unmap k
  else if 256 ≤ k then ((if lost then s1.tellLost k else s1).qcbSync k false).dropSpent k
  else if lost then s1.queueLost k
  else
    let s2 := s1.qcbSync k false
    (if q.reread then s2.readProd k else s2).settle k

/-- A queue that waited for a page goes on (05 R109, R111): for its control block's, or for the head packet's, whose loss puts it in ERROR with code 5; a lost page of the packet's acceptance is that acceptance's to judge. -/
def State.wakeSlot (s : State) (k n page : Nat) (lost : Bool) : State :=
  match s.slot? k with
  | none => s
  | some q =>
    if q.wait = some n then s.wakeBlock k q lost
    else if q.hwait = some n then
      let ring := decide ((q.rbase.toNat + q.cons.toNat % 2 ^ q.rlog * 64) / 65536 = page)
      let s1 := s.setSlot k { q with hwait := none, lost := lost && !ring }
      if lost && ring then s1.queueLost k else s1.settle k
    else s

/-- Gangs whose image waited for a page of their save area go on, or know it lost (06 R136, log 26). -/
def State.wakeSaves (s : State) (n page : Nat) (lost : Bool) : State :=
  { s with kernels := s.kernels.map (fun e => (e.1, { e.2 with gangs := e.2.gangs.map (fun g => if g.saveWait = some n then { g with saveWait := none, saveLost := if lost then g.saveLost ++ [page] else g.saveLost } else g) })) }

/-- Commands of a queue that waited for a page are evaluated again (05 R116). -/
def State.wakeCmds (s : State) (k n : Nat) (lost : Bool) : State :=
  match s.slot? k with
  | none => s
  | some q =>
    let mine := q.cmds.filter (fun c => decide (c.wait = some n))
    let s1 := s.setSlot k { q with cmds := q.cmds.map (fun c => if c.wait = some n then { c with wait := none, lost := lost } else c) }
    mine.foldl (fun (a : State) c =>
      let c1 := { c with wait := none, lost := lost }
      if c.type = 4 then a.signalRun k c1 else a.waitEval k c1) s1

/-- Everything of the device that waited for a pending fault of a page (14 R328; 04 R402; 05 R108). -/
def State.wakeAll (s : State) (n page : Nat) (lost : Bool) : State :=
  let keys := s.slots.map (fun e => e.1)
  let s1 := keys.foldl (fun (a : State) k => a.wakeSlot k n page lost) ((s.wakeEngines n lost).wakeSaves n page lost)
  let s2 := keys.foldl (fun (a : State) k => a.wakeCmds k n lost) s1
  let s3 := if lost then s2.devLost n else { s2 with devWrites := s2.devWrites.map (fun w => if w.wait = some n then { w with wait := none } else w) }
  let s4 := s3.flushDev
  match s4.bar.mapWait with
  | some (k, ctx, m, a) => if m = n then ({ s4 with bar := { s4.bar with mapWait := none } } : State).mapTry k ctx a lost else s4
  | none => s4

/-- The first 4,096 pending faults are the Registrar's; the others wait on the plinth (14 R326). -/
def requeue (l : List PendFault) : List PendFault := l.zipIdx.map (fun (x : PendFault × Nat) => { x.1 with queued := decide (x.2 < 4096) })

/-- A pending fault is no longer one. -/
def State.dropPend (s : State) (n : Nat) : State := { s with pend := requeue (s.pend.filter (fun p => p.fseq != n)) }

/-- Release (14 R326, R329): the attached threads replay; a saved gang's are left as they are. -/
def State.releasePend (s : State) (p : PendFault) : State :=
  let s1 := p.packs.foldl (fun (a : State) k => if a.residentGrp k.grp then a.releaseThreads k.grp k.tids .page none else a) s
  (s1.dropPend p.fseq).wakeAll p.fseq p.page false

/-- Lanes of a pack attached to a fault, as (lane, thread): the bits of its mask, in order. -/
def FPack.lanes (k : FPack) : List (Nat × Nat) := ((List.range 32).filter (fun i => k.record.laneMask.getLsbD i)).zip k.tids

/-- Conversion for one pack (14 R326, R328; 10 R239; 07 R154): its threads in regions abort; for the others a containment fault is raised with the original cause, or RETURN_STACK_SPILL_FAULT for a spill. Threads of a saved gang are left as they are: they replay at resumption (06 R137). -/
def State.convertPack (s : State) (k : FPack) : State :=
  match s.group? k.grp with
  | none => s
  | some g =>
    if !g.resident || g.killed.isSome then s
    else
      let held (t : Nat) : Bool := ((g.threads[t]?).map (fun x => decide (x.cond = .blocked .page))).getD false
      let inReg (t : Nat) : Bool := ((g.threads[t]?).map (fun x => x.region.isSome)).getD false
      let lanes := k.lanes.filter (fun l => held l.2)
      let regs := lanes.filter (fun l => inReg l.2)
      let rest := lanes.filter (fun l => !inReg l.2)
      let s1 := regs.foldl (fun (a : State) l => a.abortRegion k.grp l.2 4 k.record.cause 0) s
      if rest.isEmpty then s1
      else
        let spill := decide (bits k.record.extra 57 55 = 4)
        let record : FaultRec := { k.record with route := 0, cls := if spill then 2 else 1, cause := if spill then 0x22 else k.record.cause, extra := if spill then 0 else k.record.extra, count := rest.length, first := (rest.headD (0, 0)).2, laneMask := rest.foldl (fun m l => m ||| ((1 : Word) <<< l.1)) 0, time := BitVec.ofNat 64 s.ns }
        let tids := rest.map (fun l => l.2)
        (s1.modThreads k.grp tids (fun t => { t with cond := .blocked .contain })).toContain g.ctx { record := record, grp := some k.grp, kern := some g.kern, tids := tids, after := false, level := 0, engine := false }

/-- Conversion (14 R326, R328). -/
def State.convertPend (s : State) (p : PendFault) : State :=
  ((p.packs.foldl (fun (a : State) k => a.convertPack k) s).dropPend p.fseq).wakeAll p.fseq p.page true

/-- What an access of a pending fault wants, as far as its cause depends on it. -/
def PendFault.want (p : PendFault) : Want := if p.cause = 0x11 then (if p.access = 3 then .fetch else .store) else .load

/-- What stands in the way of a pending fault's access now (14 R327): nothing; nothing, once the windows over the page are routed again; an unmapped page under a window; or a fault of the page path. -/
inductive PageView where
  | clear
  | reroute
  | gone
  | fault (f : PgFault)

/-- The condition as it now stands (14 R327). -/
def State.pageView (s : State) (p : PendFault) : PageView :=
  let va := p.record.addr.toNat
  match s.route p.ctx va p.want with
  | .ok _ => .clear
  | .error f =>
    if f.level ≠ 7 then .fault f
    else
      match s.windowAt p.ctx va with
      | none => .fault f
      | some w =>
        if w.valid then .fault f
        else if w.gone then .gone
        else
          match s.translate p.ctx va .load with
          | .ok _ => .reroute
          | .error f2 => .fault f2

/-- Windows over a page registered again after a migration or a refill (14 R320, R327). -/
def State.rerouteWindows (s : State) (ctx page : Nat) : State :=
  { s with windows := s.windows.map (fun w => if w.ctx == ctx && decide (w.base / 65536 = page) && !w.gone then { w with valid := true } else w) }

/-- The Registrar's work on poisoned data (14 R331): a clean pooled or shared copy is dropped; any other page, and one whose write-back the pool has not acknowledged, becomes POISONED. -/
def State.resolvePoison (s : State) (p : PendFault) : State :=
  match s.pte p.ctx (p.page * 65536) with
  | none => s.dropPend p.fseq
  | some (_, e) =>
    if !framed e || !s.poison.any (fun l => decide (l / 512 = pteFrame e)) then s.dropPend p.fseq
    else
      match s.unload p.ctx (p.page * 65536) (if pteKind e ≠ 0 ∧ !pteDirty e ∧ !s.writingBack p.ctx p.page then 1 else 7) with
      | some s1 => s1.dropPend p.fseq
      | none => s

/-- A fault for which a renewal was requested that did not come within RENEWWAIT: it is converted, whatever came after (14 R327, 18 R390). -/
def State.tooLate (s : State) (p : PendFault) : Bool := decide (p.cause = 0x13 ∧ p.asked = true ∧ p.at_ + msNs s.bar.renewwait ≤ s.ns)

/-- The Registrar judges a pending fault (14 R327). -/
def State.resolve (s : State) (p : PendFault) : State :=
  if p.cause = 0x16 then s.resolvePoison p
  else if s.tooLate p then s.convertPend p
  else
    match s.pageView p with
    | .clear => s.releasePend p
    | .reroute => (s.rerouteWindows p.ctx p.page).releasePend p
    | .gone => s.convertPend p
    | .fault f =>
      let n := f.lease
      let l := if (s.lease n).ctx = p.ctx then s.lease n else Lease.free
      match f.cause with
      | 0x10 => if f.pstate = 1 ∧ f.lv ∧ (l.state = 1 ∨ l.state = 2) then s.startRefill p.ctx p.page false false else s.convertPend p
      | 0x12 => s
      | 0x13 =>
        if l.state ≠ 3 then s.convertPend p
        else
          let s1 := s.setLease n { l with lastFault := Nat.max l.lastFault p.at_ }
          if p.at_ + msNs s.bar.renewwait ≤ s.ns then s.convertPend p
          else if p.asked then s1 else ({ s1 with pend := s1.pend.map (fun x => if x.fseq = p.fseq then { x with asked := true } else x) } : State).askRenewal n
      | 0x15 => if Nat.min p.at_ l.failedAt + msNs s.bar.renewwait ≤ s.ns then s.convertPend p else s
      | _ => s.convertPend p

/-- A pending fault the Registrar can take up: in its queue, with none of the same page before it (14 R326). -/
def State.pendReady (s : State) (n : Nat) : Option PendFault :=
  if !s.registrarUp then none
  else
    match s.pend.find? (fun p => p.fseq == n) with
    | none => none
    | some p => if p.queued && s.pend.all (fun x => !(x.ctx == p.ctx && x.page == p.page && decide (x.fseq < p.fseq))) then some p else none

/-- FAULT_RESOLVE (14 R327). -/
def execFaultResolve (fseq : Nat) (s : State) : Host.Outcome State Fault Refusal :=
  .next ((s.pendReady fseq).elim s (fun p => s.resolve p))

/-- RENEWWAIT_EXPIRY (14 R327): no renewal has come for a fault of an EXPIRED lease. -/
def execRenewwaitExpiry (fseq : Nat) (s : State) : Host.Outcome State Fault Refusal :=
  .next (
    match s.pendReady fseq with
    | none => s
    | some p =>
      match s.pageView p with
      | .fault f => if f.cause = 0x13 ∧ (s.lease f.lease).state = 3 ∧ p.at_ + msNs s.bar.renewwait ≤ s.ns then s.convertPend p else s
      | _ => s)

/-- REFILL_COMPLETE (14 R314, R315): the frame holds the pool's bytes, and the page is RESIDENT or SHARED. A refill whose lease no longer allows it ends. -/
def execRefillComplete (ctx : Nat) (va : Dword) (frame : Nat) (s : State) : Host.Outcome State Fault Refusal :=
  .next (
    let page := va.toNat / 65536
    match s.jobOn ctx page with
    | some j =>
      match j.op with
      | .refill prefetch _ =>
        let s0 := { s with jobs := s.jobs.filter (fun x => decide (x ≠ j)) }
        match s0.pte ctx (page * 65536) with
        | none => s0
        | some (pa, p) =>
          let l := s.leaseFor ctx p
          if pteState p ≠ 1 ∨ !(l.state = 1 ∨ (l.state = 2 ∧ prefetch = false)) then s0
          else if !s.leaseReach l || !s.frameFree frame then s
          else
            let s1 := (s0.wakePort l.port).takeFrame frame ctx page false (s0.pool.slice (l.poolAt (page * 65536)) 65536)
            let s2 := (s1.track ctx page frame).setPte pa (pteWith (pteWith (pteWith p 63 60 (if pteKind p = 2 then 3 else 2)) 38 16 frame) 54 54 0)
            if j.snooped then (s2.unload ctx (page * 65536) 1).getD s2 else s2
      | _ => s
    | none => s)

/-- A page may be evicted (14 R314, R316): POOLED in RESIDENT with no pin and no window, or SHARED in SHARED, with no job. Its place in the order. -/
def State.evictKey (s : State) (f : Nat × FrameSt) : Option (Nat × Nat × Nat) :=
  if f.2.table then none
  else
    match s.pte f.2.ctx (f.2.page * 65536) with
    | none => none
    | some (_, p) =>
      let quiet := decide (s.pagePins f.2.ctx (f.2.page * 65536) = 0) && (s.pageWindows f.2.ctx f.2.page).isEmpty
      let ok := (decide (pteState p = 2 ∧ pteKind p = 1) && quiet || decide (pteState p = 3)) && decide (pteFrame p = f.1) && (s.jobOn f.2.ctx f.2.page).isNone
      if !ok then none
      else
        match pteHint p with
        | 2 => some (0, 0, f.1)
        | 0 => some (1, sparseGet 0 s.counters f.1, f.1)
        | _ => some (2, sparseGet 0 s.counters f.1, f.1)

/-- An order of victims: class, counter, frame. -/
def victimBefore (x y : Nat × Nat × Nat) : Bool :=
  if x.1 ≠ y.1 then decide (x.1 < y.1) else if x.2.1 ≠ y.2.1 then decide (x.2.1 < y.2.1) else decide (x.2.2 < y.2.2)

/-- PAGE_EVICTION (14 R314, R316): the first victim; a dirty one is written back first. -/
def execPageEviction (ctx : Nat) (va : Dword) (s : State) : Host.Outcome State Fault Refusal :=
  .next (
    let page := va.toNat / 65536
    match s.frames.find? (fun f => f.2.ctx == ctx && f.2.page == page && !f.2.table) with
    | none => s
    | some f =>
      match s.evictKey f with
      | none => s
      | some k =>
        if !s.registrarUp || s.frames.any (fun x => (s.evictKey x).any (fun y => victimBefore y k)) then s
        else if ((s.pte ctx (page * 65536)).map (fun e => pteDirty e.2)).getD false then s.startWriteBack ctx page true
        else (s.unload ctx (page * 65536) 1).getD s)

/-- A page is written back again while its lease is EXPIRING or REVOKED, its windows' bytes with it (14 R323, R324). -/
def State.writeAgain (s : State) (ctx page : Nat) : State :=
  match s.pte ctx (page * 65536) with
  | none => s
  | some (_, p) =>
    let l := s.leaseFor ctx p
    if framed p ∧ pteKind p = 1 ∧ (l.state = 2 ∨ l.state = 4) ∧ s.leaseReach l then
      let s1 := (s.pageWindows ctx page).foldl (fun (a : State) w => if w.valid then (a.windowBack w).toPool ctx w.base w.len else a) (s.wakePort l.port)
      s1.writeBack ctx (page * 65536)
    else s

/-- PAGE_WRITEBACK_COMPLETE (14 R315, R316, R323): the pool holds the frame's bytes; unreached, it leaves the page dirty. It waits while its port is retrained (15 R352). -/
def execPageWritebackComplete (ctx : Nat) (va : Dword) (s : State) : Host.Outcome State Fault Refusal :=
  .next (
    let page := va.toNat / 65536
    match s.jobOn ctx page with
    | none => s.writeAgain ctx page
    | some j =>
      match j.op, s.pte ctx (page * 65536) with
      | .writeBack evict, some (pa, p) =>
        let s0 := { s with jobs := s.jobs.filter (fun x => decide (x ≠ j)) }
        if !framed p then s0
        else if (s.port (s.leaseFor ctx p).port).state = 1 then s
        else if !s.leaseReach (s.leaseFor ctx p) then s0.setPte pa (pteWith p 54 54 1)
        else
          let s1 := (s0.wakePort (s.leaseFor ctx p).port).toPool ctx (page * 65536) 65536
          let quiet := decide (s1.pagePins ctx (page * 65536) = 0) && (s1.pageWindows ctx page).isEmpty
          if evict && !pteDirty p && quiet && pteState p == 2 then (s1.unload ctx (page * 65536) 1).getD s1 else s1.writeAgain ctx page
      | .writeBack _, none => { s with jobs := s.jobs.filter (fun x => decide (x ≠ j)) }
      | _, _ => s)

/-- COUNTER_HALVING (14 R317, R318). -/
def execCounterHalving (s : State) : Host.Outcome State Fault Refusal :=
  .next (if s.ns < s.halvedAt + msNs (Nat.max 1 s.bar.age) then s
    else { s with halvedAt := s.ns, counters := (s.counters.map (fun f => (f.1, f.2 / 2))).filter (fun f => f.2 != 0) })

/-- PREFETCH_REQUEST (14 R332): the first 256 pages of a request's covering set are staged. -/
def execPrefetchRequest (s : State) : Host.Outcome State Fault Refusal :=
  .next (
    match s.prefetch with
    | [] => s
    | r :: rest =>
      (r.pages.take 256).foldl (fun (a : State) page =>
        match a.pte r.ctx (page * 65536) with
        | some (_, p) => if pteState p = 1 ∧ (a.pageTest r.ctx p .load).map (fun f => f.cause) = some 0x10 ∧ (a.leaseFor r.ctx p).state = 1 then a.startRefill r.ctx page true r.llc else a
        | none => a) { s with prefetch := rest })

/-- Indices of the entries of a table that hold a byte that is not zero. -/
def State.entries (s : State) (table size : Nat) : List Nat := distinct ((s.hbm.slice table size).map (fun e => e.1 / 8))

/-- The page whose entry names a frame, in a context's tables. -/
def State.pageIn (s : State) (c : Nat × Ctx) (frame : Nat) : Option (Nat × Nat) :=
  (s.entries c.2.ptroot.toNat 131072).findSome? (fun i3 =>
    let e3 := s.hbm.dword (c.2.ptroot.toNat + 8 * i3)
    if !s.tableOwn c.1 e3 then none
    else (s.entries (tableNext e3) 4096).findSome? (fun i2 =>
      let e2 := s.hbm.dword (tableNext e3 + 8 * i2)
      if !s.tableOwn c.1 e2 then none
      else (s.entries (tableNext e2) 4096).findSome? (fun i1 =>
        let e1 := s.hbm.dword (tableNext e2 + 8 * i1)
        if !s.tableOwn c.1 e1 then none
        else (s.entries (tableNext e1) 4096).findSome? (fun i0 =>
          let p := s.hbm.dword (tableNext e1 + 8 * i0)
          if framed p && decide (pteFrame p = frame) && !s.foreign c.1 frame false then some (c.1, ((i3 * 512 + i2) * 512 + i1) * 512 + i0) else none))))

/-- UNCORRECTABLE_ERROR (14 R331): a line is poisoned, and the Registrar gets a record with its page. -/
def execUncorrectableError (line : Nat) (s : State) : Host.Outcome State Fault Refusal :=
  if Config.hbmBytes ≤ line * 128 then .fault (.physicalHole (line * 128))
  else .next (
    let s1 := if s.poison.contains line then s else { s with poison := s.poison ++ [line] }
    match s1.ctxs.findSome? (fun c => s1.pageIn c (line / 512)) with
    | none => s1
    | some (ctx, page) => s1.poisonRecord ctx page)

/-- A request record's fields (14 R319). -/
structure Req where
  at_ : Nat
  op : Nat
  ctx : Nat
  va : Nat
  pages : Nat
  w : Bool
  x : Bool
  kind : Nat
  ok : Bool

/-- The record at RQCONS. -/
def State.reqHead (s : State) : Req :=
  let a := s.bar.rqbase.toNat + s.bar.rqcons.toNat % 2 ^ s.bar.rqlog * 64
  let d (k : Nat) : Nat := (s.hostDword (a + 8 * k)).toNat
  let op := d 0 % 256
  { at_ := a, op := op, ctx := d 0 / 2 ^ 8 % 256, va := d 1, pages := d 2 % 2 ^ 32, w := (d 3).testBit 5, x := (d 3).testBit 6, kind := d 3 % 4,
    ok := decide (d 0 / 2 ^ 32 = 0 ∧ d 0 / 2 ^ 16 % 256 = 0 ∧ 1 ≤ op ∧ op ≤ 6 ∧ d 1 % 65536 = 0 ∧ d 2 / 2 ^ 32 = 0 ∧ 1 ≤ d 2 ∧ d 2 ≤ 65536 ∧ d 1 + d 2 * 65536 ≤ 2 ^ 57 ∧ d 3 / 2 ^ 8 = 0 ∧ d 3 / 4 % 8 = 0 ∧ d 6 = 0 ∧ d 7 = 0)
      && !(op == 1 && (d 3 % 4 == 3 || (d 3 % 4 == 2 && (d 3).testBit 5))) }

/-- Its pages' addresses. -/
def Req.vas (r : Req) : List Nat := (List.range r.pages).map (fun i => r.va + 65536 * i)

/-- The request at the head is complete (14 R319): STATUS, SEQ and TDONE, then CONS. Pages held for it are held no more. -/
def State.reqDone (s : State) (r : Req) (status : Nat) : State :=
  let s1 := ((s.hostPut (r.at_ + 3) (bytesOfNat status 1)).hostPut (r.at_ + 0x20) (bytesOfNat s.bar.rqcons.toNat 8)).hostPut (r.at_ + 0x28) (bytesOfNat s.ns 8)
  { s1 with bar := { s1.bar with rqcons := s1.bar.rqcons + 1 }, jobs := s1.jobs.filter (fun j => !j.holds) }

/-- A page being migrated. -/
def PageJob.moves (j : PageJob) : Bool := match j.op with | .migrate _ _ => true | _ => false

/-- A migration is in progress: the ring waits for it. -/
def State.migrating (s : State) : Bool := s.jobs.any (fun j => j.moves)

/-- The Registrar takes the request at the head of its ring (14 R318, R319), over port 0, which a read of the record wakes (15 R352): checked whole, then done; `none` from `f` means that it waits. -/
def State.request (s : State) (op : Nat) (f : State → Req → State × Option Nat) : State :=
  let r := s.reqHead
  if !s.registrarUp || s.migrating || decide (s.bar.rqlog < 4 ∨ 12 < s.bar.rqlog) || decide (s.bar.rqprod = s.bar.rqcons) || !s.hostReach r.at_ then s
  else if r.op ≠ op ∧ !(op = 1 ∧ (r.op = 0 ∨ 6 < r.op)) then s
  else
    let s0 := s.wakeHost r.at_
    if !r.ok then s0.reqDone r 2
    else if (s.ctx r.ctx).state = .empty ∨ (s.ctx r.ctx).state = .destroying then s0.reqDone r 5
    else
      match f s0 r with
      | (s1, none) => s1
      | (s1, some st) => s1.reqDone r st

/-- State of a page, 0 where a table entry is invalid. -/
def State.pageState (s : State) (ctx va : Nat) : Nat := ((s.pte ctx va).map (fun e => pteState e.2)).getD 0

/-- Kind of a page. -/
def State.pageKind (s : State) (ctx va : Nat) : Nat := ((s.pte ctx va).map (fun e => pteKind e.2)).getD 0

/-- One page mapped (14 R314): a zeroed frame for LOCAL, else an entry under its lease; none when frames run short. -/
def State.mapPage (s : State) (r : Req) (va : Nat) : Option State :=
  (s.pteMake r.ctx va).bind (fun (a : State × Nat) =>
    let flags := (if r.w then 2 ^ 56 else 0) + (if r.x then 2 ^ 55 else 0) + r.kind * 2 ^ 58
    if r.kind = 0 then
      match a.1.freeFrame with
      | none => none
      | some f => some ((a.1.takeFrame f r.ctx (va / 65536) false []).setPte a.2 (BitVec.ofNat 64 (2 * 2 ^ 60 + flags + f * 65536)))
    else
      let n := ((a.1.leaseOf r.ctx va).map (fun l => l.1)).getD 0
      some (a.1.setPte a.2 (BitVec.ofNat 64 (2 ^ 60 + flags + n))))

/-- REQ_MAP (14 R314, R319). -/
def execReqMap (s : State) : Host.Outcome State Fault Refusal :=
  .next (s.request 1 (fun s r =>
    let leased (va : Nat) : Bool := ((s.leaseOf r.ctx va).map (fun l => decide ((l.2.state = 1 ∨ l.2.state = 2) ∧ l.2.shr = (r.kind == 2)))).getD false
    if r.vas.any (fun va => s.pageState r.ctx va != 0) then (s, some 6)
    else if r.kind ≠ 0 ∧ r.vas.any (fun va => !leased va) then (s, some 4)
    else
      match r.vas.foldl (fun (a : Option State) va => a.bind (fun x => x.mapPage r va)) (some s) with
      | some s1 => (s1, some 1)
      | none => (s, some 3)))

/-- A pin covers a line of the pages of a request (14 R320). -/
def State.reqPinned (s : State) (r : Req) : Bool := s.pins.any (fun p => p.ctx == r.ctx && decide (p.base < r.va + 65536 * r.pages) && decide (r.va < p.base + p.len))

/-- One page unmapped (14 R320): windows closed, dirty pooled data written back, shootdown, the entry cleared. -/
def State.unmapPage (s : State) (ctx va : Nat) : Option State :=
  if s.pageState ctx va = 0 then some s
  else
    match (s.stopWindows ctx (va / 65536) true).performOld ctx (va / 65536) with
    | none => none
    | some s1 => ((s1.writeBack ctx va).unload ctx va 0).map (fun a => (a.modPte ctx va (fun _ => 0)).pruneTables ctx va)

/-- New accesses to a request's pages are held (14 R320, step 1). -/
def State.holdPages (s : State) (r : Req) : State :=
  r.vas.foldl (fun (a : State) va => if a.pageState r.ctx va = 0 ∨ a.pageHeld r.ctx (va / 65536) then a else { a with jobs := a.jobs ++ [{ ctx := r.ctx, page := va / 65536, op := .hold, since := a.ns }] }) s

/-- A request's pages held no more. -/
def State.unhold (s : State) : State := { s with jobs := s.jobs.filter (fun j => !j.holds) }

/-- REQ_UNMAP (14 R314, R320): it waits for refills in progress, holds new accesses, and waits for pins and for accesses under way. -/
def execReqUnmap (s : State) : Host.Outcome State Fault Refusal :=
  .next (s.request 2 (fun s r =>
    if r.vas.any (fun va => (s.jobOn r.ctx (va / 65536)).isSome) then (s, none)
    else
      let s1 := s.holdPages r
      if s1.reqPinned r then (s1, none)
      else
        match r.vas.foldl (fun (a : Option State) va => a.bind (fun x => x.unmapPage r.ctx va)) (some s1.unhold) with
        | some s2 => (s2, some 1)
        | none => (s1, none)))

/-- Free frames counted, up to a number of them. -/
def State.freeFrames (s : State) : Nat → Nat → Nat
  | 0, _ => 0
  | n + 1, from_ =>
    match s.findFrame (s.frames.length + 9) from_ with
    | none => 0
    | some f => 1 + s.freeFrames n (f + 1)

/-- Frames a migration needs at once: one for each page whose own frame is the host's, and one more where another page's serves the next in turn (14 R316, R320). -/
def State.framesWanted (s : State) (r : Req) : Nat :=
  let own (va : Nat) : Bool := ((s.pte r.ctx va).map (fun e => (lookKey (pteFrame e.2) s.frames).isSome && decide (s.firstFrame ≤ pteFrame e.2))).getD false
  (r.vas.filter (fun va => !own va)).length + (if r.vas.any own then 1 else 0)

/-- MIGRATE's first step (14 R320): the pages are MIGRATING. -/
def State.migrateMark (s : State) (r : Req) : State :=
  r.vas.foldl (fun (a : State) va => { (a.ungroup r.ctx va).modPte r.ctx va (fun p => pteWith (pteWith p 63 60 5) 57 57 0) with jobs := a.jobs ++ [{ ctx := r.ctx, page := va / 65536, op := .migrate (a.pageState r.ctx va) false, since := a.ns }] }) s

/-- A page's migration job waits for its shootdown. -/
def PageJob.unshot (j : PageJob) : Bool := match j.op with | .migrate _ shot => !shot | _ => false

/-- MIGRATE's third and fourth steps (14 R320): windows invalid, the shootdown done. -/
def State.migrateShoot (s : State) (j : PageJob) : Option State :=
  ((s.stopWindows j.ctx j.page false).shootdown j.ctx j.page).map (fun b =>
    { b with jobs := b.jobs.map (fun x => if x = j then { x with op := (match x.op with | .migrate back _ => .migrate back true | o => o) } else x) })

/-- A pin covers a line of a page. -/
def State.jobPinned (s : State) (j : PageJob) : Bool := s.pins.any (fun p => p.ctx == j.ctx && decide (p.base < (j.page + 1) * 65536) && decide (j.page * 65536 < p.base + p.len))

/-- MIGRATE's pages shot down, once no pin covers a line of one and accesses under way are performed. -/
def State.migrateGo (s : State) : State :=
  let js := s.jobs.filter (fun j => j.unshot)
  if js.any (fun j => s.jobPinned j) then s else (js.foldl (fun (a : Option State) j => a.bind (fun x => x.migrateShoot j)) (some s)).getD s

/-- MIGRATE (14 R320): it waits for refills in progress; the pages are MIGRATING from then on; once no pin covers them, windows go and the shootdown is done. -/
def execMigrate (s : State) : Host.Outcome State Fault Refusal :=
  .next (
    if s.registrarUp && s.jobs.any (fun j => j.unshot) then s.migrateGo
    else s.request 3 (fun s r =>
      if r.vas.any (fun va => (s.jobOn r.ctx (va / 65536)).isSome) then (s, none)
      else if r.vas.any (fun va => let st := s.pageState r.ctx va; decide (st < 2 ∨ 4 < st)) then (s, some 6)
      else if s.freeFrames (s.framesWanted r) s.firstFrame < s.framesWanted r then (s, some 3)
      else ((s.migrateMark r).migrateGo, none)))

/-- Lines of regions that are tracked follow a page to its new frame (10 R237). -/
def State.moveLines (s : State) (old new : Nat) : State :=
  let move (l : Nat) : Nat := if l / 512 = old then new * 512 + l % 512 else l
  s.modRegions (fun _ r => r.lines.map move)

/-- MIGRATION_COMPLETE (14 R314, R320): the copy stands in its new frame, and the page is in the state it left; one that a back-invalidation snoop met is then dropped (R330). The last page completes the request, over port 0 (15 R344). -/
def execMigrationComplete (ctx : Nat) (va : Dword) (s : State) : Host.Outcome State Fault Refusal :=
  .next (
    let page := va.toNat / 65536
    match s.jobOn ctx page, s.pte ctx (page * 65536), s.freeFrame with
    | some j, some (pa, p), some f =>
      match j.op with
      | .migrate back true =>
        let rest := s.jobs.filter (fun x => decide (x ≠ j))
        let last := !rest.any (fun x => x.moves)
        if last && !s.hostReach s.reqHead.at_ then s
        else
          let old := pteFrame p
          let bad := s.poison.filter (fun l => decide (l / 512 = old))
          let s1 := ((s.takeFrame f ctx page false (s.hbm.slice (old * 65536) 65536)).moveLines old f).dropFrame old
          let s2 := { s1 with poison := s1.poison ++ bad.map (fun l => f * 512 + l % 512), jobs := rest }.setPte pa (pteWith (pteWith p 38 16 f) 63 60 back)
          let s3 := if j.snooped then (s2.unload ctx (page * 65536) 1).getD s2 else s2
          if last then s3.reqDone s3.reqHead 1 else s3
      | _ => s
    | _, _, _ => s)

/-- A request that changes entries of pages in given states and nothing else. -/
def State.editPages (s : State) (r : Req) (ok : Nat → Bool) (f : Dword → Dword) : State × Option Nat :=
  if r.vas.any (fun va => !ok (s.pageState r.ctx va)) then (s, some 6)
  else (r.vas.foldl (fun (a : State) va => (a.ungroup r.ctx va).modPte r.ctx va f) s, some 1)

/-- PINPAGE (14 R314). -/
def execPinpage (s : State) : Host.Outcome State Fault Refusal := .next (s.request 4 (fun s r => s.editPages r (fun st => st == 2) (fun p => pteWith p 63 60 4)))

/-- UNPINPAGE (14 R314). -/
def execUnpinpage (s : State) : Host.Outcome State Fault Refusal := .next (s.request 5 (fun s r => s.editPages r (fun st => st == 4) (fun p => pteWith p 63 60 2)))

/-- PROTECT (14 R313, R319): W and X of mapped pages; a SHARED page takes no W; a right taken away waits for accesses under way. -/
def execProtect (s : State) : Host.Outcome State Fault Refusal :=
  .next (s.request 6 (fun s r =>
    if r.w && r.vas.any (fun va => s.pageKind r.ctx va == 2) then (s, some 2)
    else
      match s.editPages r (fun st => st != 0) (fun p => pteWith (pteWith (pteWith p 56 56 (if r.w then 1 else 0)) 55 55 (if r.x then 1 else 0)) 57 57 0) with
      | (s1, some 1) =>
        match r.vas.foldl (fun (a : Option State) va => a.bind (fun x => x.performOld r.ctx (va / 65536))) (some s1) with
        | some a => (r.vas.foldl (fun (b : State) va => b.tlbDrop r.ctx (va / 65536)) a, some 1)
        | none => (s, none)
      | o => o))

end Sys2Proof.Machine
end

