-- ==== Sys2Proof/Machine/Lease.lean ====
section
/-! DEFINITION. Leases over time (spec/14 R322 to R324), the lease mailbox (15 R347 to R349), failures of fabric nodes (15 R345) and back-invalidation snoops (14 R330, 15 R346). -/

namespace Sys2Proof.Machine

/-- Dirty pages of a lease written back, and the bytes of the windows over its pages (14 R323). -/
def State.leaseWriteBack (s : State) (l : Lease) : State :=
  (s.leasePages l).foldl (fun (a : State) f =>
    let wins := (a.pageWindows l.ctx f.2.page).filter (fun w => w.valid)
    let a1 := if wins.isEmpty || !a.leaseReach l then a else wins.foldl (fun (b : State) w => (b.windowBack w).toPool w.ctx w.base w.len) (a.wakePort l.port)
    a1.startWriteBack l.ctx f.2.page false) s

/-- A lease enters EXPIRING (14 R322, R323): write-back begins, a renewal is requested. -/
def State.enterExpiring (s : State) (n : Nat) (l : Lease) : State :=
  ((s.setLease n { l with state := 2 }).leaseWriteBack l).askRenewal n

/-- LEASE_EXPIRING (14 R322). -/
def execLeaseExpiring (n : Nat) (s : State) : Host.Outcome State Fault Refusal :=
  .next (
    let l := s.lease n
    if s.registrarUp ∧ l.state = 1 ∧ l.expiry ≤ s.ns + msNs s.bar.lead then s.enterExpiring n l else s)

/-- No page of a lease is dirty, nor still on its way to the pool. -/
def State.leaseClean (s : State) (l : Lease) : Bool :=
  (s.leasePages l).all (fun f => !s.writingBack l.ctx f.2.page && !(((s.pte l.ctx (f.2.page * 65536)).map (fun e => pteKind e.2 == 1 && pteDirty e.2)).getD false))

/-- REVOCATION_DEADLINE (14 R324; 15 R349 REVOKEACK): at the deadline, or once every page is written back. -/
def execRevocationDeadline (n : Nat) (s : State) : Host.Outcome State Fault Refusal :=
  .next (
    let l := s.lease n
    let done := s.leaseClean l
    if s.registrarUp ∧ l.state = 4 ∧ l.acked = false ∧ (l.deadline ≤ s.ns ∨ done = true) then
      (((s.setLease n { l with acked := true }).dropLease l false true).map (fun a => a.post (l.out 0x84 (if done then 1 else 0)))).getD s
    else s)

/-- NODE_FAILURE_TIMEOUT (14 R324): no replacement grant has come within RENEWWAIT. -/
def execNodeFailureTimeout (n : Nat) (s : State) : Host.Outcome State Fault Refusal :=
  .next (
    let l := s.lease n
    if s.registrarUp ∧ l.state = 5 ∧ l.failedAt + msNs s.bar.renewwait ≤ s.ns then (s.dropLease l true false).getD s else s)

/-- A pending fault names a lease (14 R325 EXTRA). -/
def PendFault.names (p : PendFault) (n ctx : Nat) : Bool := p.ctx == ctx && p.record.extra.getLsbD 54 && bits p.record.extra 53 42 == n

/-- A renewal has come within RENEWWAIT for the faults that name its lease (14 R327): they wait for the refill and are no longer late. -/
def State.renewed (s : State) (n ctx : Nat) : State :=
  { s with pend := s.pend.map (fun p => if p.names n ctx && decide (p.cause = 0x13 ∧ s.ns < p.at_ + msNs s.bar.renewwait) then { p with asked := false } else p) }

/-- LEASE_RELEASE (14 R322). -/
def execLeaseRelease (n : Nat) (s : State) : Host.Outcome State Fault Refusal :=
  .next (
    let l := s.lease n
    let wait := msNs s.bar.renewwait
    let due := decide (l.state = 3 ∧ l.expiry + wait ≤ s.ns ∧ (l.lastFault = 0 ∨ l.lastFault + wait ≤ s.ns)) || decide (l.state = 4 ∧ l.acked = true) || (decide (l.state = 5 ∧ l.failedAt + wait ≤ s.ns) && (s.leasePages l).isEmpty)
    if s.registrarUp && due && !s.pend.any (fun p => p.names n l.ctx) && !s.outbox.any (fun r => decide (r.lid = l.lid ∧ r.type ≠ 0x85)) then (s.setLease n Lease.free).post (l.out 0x83 0) else s)

/-- REQRENEW_REPEAT (15 R349). -/
def execReqrenewRepeat (n : Nat) (s : State) : Host.Outcome State Fault Refusal :=
  .next (
    let l := s.lease n
    if s.registrarUp ∧ l.asking = true ∧ (l.state = 2 ∨ l.state = 3) ∧ l.askedAt + msNs 100 ≤ s.ns then s.askRenewal n else s)

/-- Address of the mailbox (15 R340, R347). -/
def State.mbx (s : State) : Nat := s.bar.mbxaddr.toNat

/-- The Registrar serves the mailbox, and reaches it (15 R340, R345). -/
def State.mbxUp (s : State) : Bool := s.registrarUp && s.bar.mbxen && decide (s.bar.mbxport ≠ 0) && s.linkUp s.bar.mbxport

/-- Bytes of an outbound record (15 R348, R349). -/
def OutRec.toBytes (r : OutRec) : List Byte :=
  bytesOfNat (r.lid.toNat <<< 32 ||| (r.node % 4096) <<< 20 ||| (if r.shr then 1 else 0) <<< 19 ||| (r.port % 8) <<< 16 ||| (r.ctx % 256) <<< 8 ||| r.type % 256) 8 ++ bytesOfNat (r.arg % 2 ^ 64) 8 ++ List.replicate 48 0

/-- Outbound records written to the ring while it has room, then OUTPROD (15 R347). -/
def State.sendOut (s : State) : State :=
  let prod := s.pool.num (s.mbx + 0x40) 8
  let cons := s.pool.num (s.mbx + 0x48) 8
  let room := 256 - (prod + 2 ^ 64 - cons) % 2 ^ 64
  let now := s.outbox.take room
  if now.isEmpty then s
  else
    let p1 := now.zipIdx.foldl (fun (m : Mem) (e : OutRec × Nat) => m.write (s.mbx + 0x5000 + 64 * ((prod + e.2) % 256)) e.1.toBytes) s.pool
    { s with pool := p1.write (s.mbx + 0x40) (bytesOfNat (prod + now.length) 8), outbox := s.outbox.drop room }

/-- Inbound records published and not consumed (15 R347). -/
def State.inWaiting (s : State) : Bool := decide (s.pool.num s.mbx 8 ≠ s.pool.num (s.mbx + 8) 8)

/-- Doubleword k of the inbound record at INCONS. -/
def State.inWord (s : State) (k : Nat) : Nat := s.pool.num (s.mbx + 0x1000 + 64 * (s.pool.num (s.mbx + 8) 8 % 256) + 8 * k) 8

/-- The record at INCONS is consumed. -/
def State.inDone (s : State) : State := { s with pool := s.pool.write (s.mbx + 8) (bytesOfNat (s.pool.num (s.mbx + 8) 8 + 1) 8) }

/-- An inbound record's fields (15 R348, R349). -/
structure InRec where
  type : Nat
  ctx : Nat
  port : Nat
  shr : Bool
  node : Nat
  lid : Nat
  vabase : Nat
  pooladdr : Nat
  term : Nat
  oldlid : Nat
  sound : Bool

/-- The record at INCONS, and whether it is well formed but for its term. -/
def State.inRec (s : State) : InRec :=
  let d (k : Nat) : Nat := s.inWord k
  let w := d 0
  let t := w % 256
  let grantish := decide (t = 1 ∨ t = 5)
  { type := t, ctx := w / 2 ^ 8 % 256, port := w / 2 ^ 16 % 8, shr := w.testBit 19, node := w / 2 ^ 20 % 4096, lid := w / 2 ^ 32, vabase := d 1 / 2 ^ 30 % 2 ^ 27, pooladdr := d 2, term := d 3 % 2 ^ 32, oldlid := d 4 % 2 ^ 32,
    sound := decide (1 ≤ t ∧ t ≤ 5) && (decide (t = 4) || decide (w / 2 ^ 16 % 8 ≠ 0))
      && (if grantish then decide (d 1 / 2 ^ 57 = 0 ∧ d 1 % 2 ^ 30 = 0 ∧ d 2 % 2 ^ 30 = 0) else decide (d 1 = 0 ∧ d 2 = 0))
      && (if t = 4 then decide (d 3 = 0) else decide (d 3 / 2 ^ 32 = 0)) && (decide (t ≠ 3) || decide (d 3 % 2 ^ 32 ≤ 60000))
      && (if t = 5 then decide (d 4 / 2 ^ 32 = 0) else decide (d 4 = 0)) && decide (d 5 = 0 ∧ d 6 = 0 ∧ d 7 = 0) }

/-- The term is in range (15 R349). -/
def InRec.termOk (r : InRec) : Bool := decide (1000 ≤ r.term) && decide (r.term ≤ 3600000)

/-- An inbound record refused (15 R349 REFUSE). -/
def State.refuse (s : State) (r : InRec) (reason : Nat) : State :=
  s.post { type := 0x82, lid := BitVec.ofNat 32 r.lid, node := r.node, shr := r.shr, port := r.port, ctx := r.ctx, arg := reason }

/-- MAILBOX_POLL (15 R347, R349): INPROD is read; outbound records are written; a malformed record at the head is refused. -/
def execMailboxPoll (s : State) : Host.Outcome State Fault Refusal :=
  .next (
    if !s.mbxUp then s
    else
      let s1 := (s.wakePort s.bar.mbxport).sendOut
      if s1.inWaiting && !s1.inRec.sound then (s1.refuse s1.inRec 5).inDone else s1)

/-- The inbound record at the head handled, when it is of a type; INCONS follows its effect (15 R347), for which `none` waits. -/
def State.inbound (s : State) (type : Nat) (f : State → InRec → Option State) : State :=
  if !s.mbxUp || !s.inWaiting then s
  else
    let r := s.inRec
    if !r.sound || decide (r.type ≠ type) then s else ((f (s.wakePort s.bar.mbxport) r).map (fun a => a.inDone)).getD s

/-- The lowest free lease index (14 R321). -/
def State.freeLease (s : State) : Option Nat := (List.range (s.leases.length + 1)).find? (fun n => (lookKey n s.leases).isNone && decide (n < 4096))

/-- The plinth cycle in which a lease's EXPIRY fell is not over: a renewal handled in it wins (14 R322, 15 R353), so that its expiry is settled only after it (log 92). -/
def State.renewalWins (s : State) (l : Lease) : Bool := s.mbxUp && decide (s.devTicks - s.tick % Config.plinthTicks ≤ l.expiry * Config.ticksPerNs)

/-- LEASE_EXPIRY (14 R323): from now on checks fail; the pages are dropped once accesses that passed their check point are performed. -/
def execLeaseExpiry (n : Nat) (s : State) : Host.Outcome State Fault Refusal :=
  .next (
    let l := s.lease n
    if !s.registrarUp then s
    else if l.state = 2 ∧ l.expiry ≤ s.ns ∧ s.renewalWins l = false then
      let s1 := s.setLease n { l with state := 3 }
      (s1.dropLease l false true).getD s1
    else if l.state = 3 ∧ s.leasePages l ≠ [] then (s.dropLease l false true).getD s
    else s)

/-- GRANT (14 R322; 15 R349). -/
def execGrant (s : State) : Host.Outcome State Fault Refusal :=
  .next (s.inbound 1 (fun s r => some (
    if (s.ctx r.ctx).state = .empty then s.refuse r 1
    else if (s.leaseOf r.ctx (r.vabase * 2 ^ 30)).isSome then s.refuse r 2
    else if !r.termOk then s.refuse r 3
    else
      match s.freeLease with
      | none => s.refuse r 4
      | some n => s.setLease n { Lease.free with state := 1, ctx := r.ctx, port := r.port, shr := r.shr, lid := BitVec.ofNat 32 r.lid, vabase := r.vabase, pooladdr := BitVec.ofNat 64 r.pooladdr, expiry := s.ns + msNs r.term, node := r.node })))

/-- A held lease by its identifier. -/
def State.leaseById (s : State) (lid : Nat) : Option (Nat × Lease) := s.leases.find? (fun l => l.2.lid.toNat == lid)

/-- RENEW (14 R322; 15 R349). What is left to drop of an EXPIRED lease is dropped first. -/
def execRenew (s : State) : Host.Outcome State Fault Refusal :=
  .next (s.inbound 2 (fun s r =>
    match s.leaseById r.lid with
    | none => some (s.refuse r 6)
    | some (n, l) =>
      if l.state = 0 ∨ 3 < l.state then some (s.refuse r 6)
      else if !r.termOk then some (s.refuse r 3)
      else (if l.state = 3 ∧ s.leasePages l ≠ [] then s.dropLease l false true else some s).map (fun s =>
        let expiry := s.ns + msNs r.term
        let l1 := { l with state := if l.state = 2 then 2 else 1, expiry := expiry, gen := l.gen + 1, asking := false }
        let s1 := s.renewed n l.ctx
        if s.ns + msNs s.bar.lead < expiry then s1.setLease n { l1 with state := 1 }
        else if l.state = 2 then s1.setLease n l1
        else s1.enterExpiring n l1)))

/-- A lease leaves GRANTED or EXPIRING (14 R313): its pages' translations are removed, and accesses under the old ones performed; what an exclusive attempt holds back the drop, the remap and the acknowledgement wait for. -/
def State.leaseShoot (s : State) (l : Lease) : State :=
  (s.leasePages l).foldl (fun (a : State) f => (a.performOld l.ctx f.2.page).getD a) ((s.leasePages l).foldl (fun (a : State) f => a.tlbDrop l.ctx f.2.page) s)

/-- REVOKE (14 R322, R324). -/
def execRevoke (s : State) : Host.Outcome State Fault Refusal :=
  .next (s.inbound 3 (fun s r => some (
    match s.leaseById r.lid with
    | none => s.refuse r 6
    | some (n, l) =>
      if l.state ≠ 1 ∧ l.state ≠ 2 then s.refuse r 6
      else
        let l1 := { l with state := 4, deadline := s.ns + msNs r.term, acked := false, asking := false }
        ((s.setLease n l1).leaseShoot l1).leaseWriteBack l1)))

/-- Page operations under a lease that its node's failure ends (14 R315, R337; 15 R345): a refill leaves the page in POOL, a write-back leaves it dirty. -/
def State.failJobs (s : State) (l : Lease) : State :=
  let mine (j : PageJob) : Bool := j.ctx == l.ctx && decide (j.page / 16384 = l.vabase) && j.pool
  (s.jobs.filter mine).foldl (fun (a : State) j => match j.op with
    | .writeBack _ => a.modPte j.ctx (j.page * 65536) (fun p => if framed p then pteWith p 54 54 1 else p)
    | _ => a) { s with jobs := s.jobs.filter (fun j => !mine j) }

/-- A request to a lease's extent is under way (15 R345). -/
def State.requestsOf (s : State) (l : Lease) : List PageJob :=
  s.jobs.filter (fun j => j.ctx == l.ctx && decide (j.page / 16384 = l.vabase) && j.pool)

/-- A lease whose node's failure concerns it (15 R345): one that holds, or a REVOKED one with a write-back under way, which keeps its state (14 R322). -/
def State.failable (s : State) (l : Lease) : Bool := decide (1 ≤ l.state ∧ l.state ≤ 3) || (decide (l.state = 4) && !(s.requestsOf l).isEmpty)

/-- A node fails (14 R324; 15 R345): every lease of it that holds goes to NODE_FAILED, and requests to its extents fail. `report` is the reason of the device's own report, 0 for none; a node is reported once. -/
def State.failNode (s : State) (node report : Nat) : State :=
  let mine := s.leases.filter (fun l => l.2.node == node && s.failable l.2)
  let told := s.leases.any (fun l => l.2.node == node && decide (l.2.state = 5 ∨ (l.2.state = 4 ∧ l.2.failedAt ≠ 0)))
  match mine with
  | [] => s
  | (_, l0) :: _ =>
    let s1 := mine.foldl (fun (a : State) e =>
      if e.2.state = 4 then (a.setLease e.1 { e.2 with failedAt := s.ns }).failJobs e.2
      else (((a.setLease e.1 { e.2 with state := 5, failedAt := s.ns, asking := false }).failJobs e.2).leaseShoot e.2)) s
    if report = 0 || told then s1 else s1.post { type := 0x85, lid := 0, node := node, shr := false, port := l0.port, ctx := 0, arg := report }

/-- NODEFAIL (15 R345, R349). -/
def execNodefail (s : State) : Host.Outcome State Fault Refusal := .next (s.inbound 4 (fun s r => some (s.failNode r.node 0)))

/-- Pages of a region with an entry that is not 0, as page numbers. -/
def State.regionPages (s : State) (ctx vabase : Nat) : List Nat :=
  (List.range 32).flatMap (fun i => match s.walkCtx ctx (vabase * 2 ^ 30 + i * 2 ^ 25) with
    | .leaf pa _ => (s.entries pa 4096).map (fun k => vabase * 16384 + i * 512 + k)
    | .invalid _ => [])

/-- A page moved to a new extent (14 R324): a resident copy is written there and is clean; any other page is LOST. -/
def State.remapPage (s : State) (l : Lease) (page : Nat) : State :=
  match s.pte l.ctx (page * 65536) with
  | none => s
  | some (pa, p) =>
    if pteKind p = 0 ∨ pteState p = 0 ∨ pteState p = 6 ∨ pteState p = 7 then s
    else if framed p then { s with pool := s.pool.paste (l.poolAt (page * 65536)) 65536 (s.hbm.slice (pteFrame p * 65536) 65536) }.setPte pa (pteWith p 54 54 0)
    else s.setPte pa (pteWith p 63 60 6)

/-- Every access that passed its check point under a lease is performed (14 R313). -/
def State.performLease (s : State) (l : Lease) : Option State := (s.leasePages l).foldl (fun (a : Option State) f => a.bind (fun x => x.performOld l.ctx f.2.page)) (some s)

/-- REPLACE (14 R322, R324; 15 R349): the Registrar remaps, once accesses under the old extent are performed. A new extent that cannot be reached fails its node at once. -/
def execReplace (s : State) : Host.Outcome State Fault Refusal :=
  .next (s.inbound 5 (fun s r =>
    match s.leaseById r.oldlid with
    | none => some (s.refuse r 6)
    | some (n, l) =>
      if l.state ≠ 5 ∨ l.failedAt + msNs s.bar.renewwait < s.ns then some (s.refuse r 6)
      else if l.ctx ≠ r.ctx ∨ l.vabase ≠ r.vabase then some (s.refuse r 5)
      else if !r.termOk then some (s.refuse r 3)
      else (s.performLease l).map (fun s =>
        let l1 := { l with state := 1, lid := BitVec.ofNat 32 r.lid, port := r.port, pooladdr := BitVec.ofNat 64 r.pooladdr, expiry := s.ns + msNs r.term, node := r.node, lastFault := 0 }
        let s1 := s.setLease n l1
        if s1.leaseReach l1 then (s1.regionPages l.ctx l.vabase).foldl (fun (a : State) p => a.remapPage l1 p) (s1.wakePort l1.port) else s1.failNode r.node 1)))

/-- COMPLETION_TIMEOUT (15 R345): 20 ms have passed since a request to the lease's extent began. -/
def execCompletionTimeout (n : Nat) (s : State) : Host.Outcome State Fault Refusal :=
  .next (
    let l := s.lease n
    if s.registrarUp && decide (1 ≤ l.state ∧ l.state ≤ 4) && (s.requestsOf l).any (fun j => decide (j.since + msNs 20 ≤ s.ns)) then s.failNode l.node 1 else s)

/-- BISNP (14 R330; 15 R346): a line of a SHARED page is called back; the page's copy goes. A page whose refill is in progress is dropped when the refill completes. -/
def execBisnp (port : Nat) (addr : Dword) (s : State) : Host.Outcome State Fault Refusal :=
  .next (
    if !s.registrarUp || decide (port = 0 ∨ 8 ≤ port) || !s.linkUp port then s
    else
      let hits := s.leases.filter (fun l => l.2.shr && l.2.port == port && decide (l.2.pooladdr.toNat ≤ addr.toNat ∧ addr.toNat < l.2.pooladdr.toNat + 2 ^ 30))
      hits.foldl (fun (a : State) e =>
        let va := e.2.vabase * 2 ^ 30 + (addr.toNat - e.2.pooladdr.toNat) / 65536 * 65536
        match a.pte e.2.ctx va with
        | some (_, p) =>
          if pteKind p = 2 ∧ pteState p = 3 then (a.unload e.2.ctx va 1).getD a
          else { a with jobs := a.jobs.map (fun (j : PageJob) => if j.ctx == e.2.ctx && j.page == va / 65536 then { j with snooped := true } else j) }
        | none => a) (s.wakePort port))

end Sys2Proof.Machine
end

