-- ==== Sys2Proof/Machine/Link.lean ====
section
/-! DEFINITION. Host accesses to device memory (spec/15 R341 to R343), the directory's own events (12 R275 to R279), device time (15 R350), security (15 R351) and link states (15 R352), with the mailbox and link registers (15 R340). -/

namespace Sys2Proof.Machine

/-- ERRCNT of a port rises, saturating (15 R340). -/
def State.linkError (s : State) (p : Nat) : State := s.setPort p { s.port p with errcnt := Nat.min ((s.port p).errcnt + 1) 65535 }

/-- A host request of n bytes below HOSTLIM, in stacks that are up (15 R341; 19 R397). -/
def State.hdmServed (s : State) (pa n : Nat) : Bool :=
  decide (pa + n ≤ s.bar.hostlim * 2 ^ 30) && s.stackUp (pa / 65536) && s.stackUp ((pa + n - 1) / 65536)

/-- Lines of a host access. -/
def hdmLines (pa n : Nat) : List Nat := (List.range ((pa + n + 127) / 128 - pa / 128)).map (fun i => pa / 128 + i)

/-- Lines the host may hold from now on (15 R342): a full filter gives up its oldest. -/
def hostHold (filter lines : List Nat) : List Nat :=
  let f := filter.filter (fun x => !lines.contains x) ++ lines
  f.drop (f.length - 1048576)

/-- HDM_READ (15 R341, R342): served at the LLC, so that the stores it returns are performed at fabric scope (12 R259); otherwise zeros, marked poisoned, and ERRCNT of port 0 rises. -/
def execHdmRead (pa n : Nat) (s : State) : Host.Outcome State Fault Refusal :=
  if Config.hbmBytes < pa + n then .fault (.physicalHole (pa + n))
  else .next (
    if !s.barUp || s.tripped || decide (n = 0) then s
    else
      let s1 := s.wakePort 0
      if s1.hdmServed pa n then { s1.widen pa n with reply := (s1.hbm.read pa n, (hdmLines pa n).any (fun l => s1.poison.contains l)), hostFilter := hostHold s1.hostFilter (hdmLines pa n) }
      else { s1.linkError 0 with reply := (List.replicate n 0, true) })

/-- HDM_WRITE (15 R341; 12 R270, R276): every die's copy is recalled, then the bytes are performed; otherwise discarded. -/
def execHdmWrite (pa : Nat) (bytes : List Byte) (s : State) : Host.Outcome State Fault Refusal :=
  if Config.hbmBytes < pa + bytes.length then .fault (.physicalHole (pa + bytes.length))
  else .next (
    if !s.barUp || s.tripped || bytes.isEmpty then s
    else
      let s1 := s.wakePort 0
      if s1.hdmServed pa bytes.length then { s1.dirRecallRange pa bytes.length with hbm := s1.hbm.write pa bytes, hostFilter := s1.hostFilter } else s1.linkError 0)

/-- HOST_SNOOP (15 R343): answered as a miss, since the device holds no host line. -/
def execHostSnoop (_addr : Dword) (s : State) : Host.Outcome State Fault Refusal := .next (if s.barUp then { s.wakePort 0 with reply := ([], false) } else s)

/-- A line's directory entry changed by an event of a die, the line within physical memory; a die cache it fills counts for the frame (14 R317). -/
def State.dirEvent (s : State) (line : Nat) (f : DirLine → DirLine) : Host.Outcome State Fault Refusal :=
  if Config.hbmBytes ≤ line * 128 then .fault (.physicalHole (line * 128)) else .next (s.dirSet (line * 128) (f (s.dirLine line)))

/-- Requests for a line in one plinth cycle are served in ascending die number (12 R276): a lower die's waits once a higher one's has been served, until the next cycle. -/
def State.dieRequest (s : State) (die line : Nat) (f : DirLine → DirLine) : Host.Outcome State Fault Refusal :=
  if Config.hbmBytes ≤ line * 128 then .fault (.physicalHole (line * 128))
  else if s.served.any (fun x => decide (x.1 = s.plinth ∧ x.2.1 = line ∧ die < x.2.2)) then .next s
  else .next { s.dirSet (line * 128) (f (s.dirLine line)) with served := s.served.filter (fun x => x.1 == s.plinth) ++ [(s.plinth, line, die)] }

/-- READ_REQUEST (12 R279): a die reads a line; in PRIV without a copy the LLC serves it, unless a mask holds a byte of it. -/
def execReadRequest (die line : Nat) (s : State) : Host.Outcome State Fault Refusal :=
  s.dieRequest die line (fun l =>
    match l.state with
    | .home => { l with state := .held die, wrote := 0, dirty := false }
    | .priv => if l.copies.contains die || l.others die == 0 then l else { l with state := .merge (some die), copies := [] }
    | _ => l)

/-- OWNERSHIP_REQUEST (12 R277 to R279): HOME gives the line; a holder hands it off; PRIV merges for a die without a copy; a line in a transient state makes the request wait. -/
def execOwnershipRequest (die line : Nat) (s : State) : Host.Outcome State Fault Refusal :=
  s.dieRequest die line (fun l =>
    match l.state with
    | .home => { l with state := .held die, wrote := 0, dirty := false }
    | .held e => if e = die then l else { l with state := .handoff e die }
    | .priv => if l.copies.contains die then l else { l with state := .merge (some die), copies := [] }
    | _ => l)

/-- HANDOFF (12 R277): the line is delivered to its new holder. -/
def execHandoff (line : Nat) (s : State) : Host.Outcome State Fault Refusal :=
  s.dirEvent line (fun l => match l.state with
    | .handoff d e => l.handOff d e s.privLines
    | _ => l)

/-- DIE_EVICTION (12 R278, R279): the holder asks to write the line back; in PRIV a copy goes with its masked bytes, the last one leaving the line HOME. -/
def execDieEviction (die line : Nat) (s : State) : Host.Outcome State Fault Refusal :=
  s.dirEvent line (fun l =>
    match l.state with
    | .held e => if e = die then { l with state := .wb die } else l
    | .priv =>
      if !l.copies.contains die then l
      else
        let rest := l.copies.filter (fun x => x != die)
        if rest.isEmpty then DirLine.home else { l with copies := rest, masks := l.masks.filter (fun e => e.1 != die) }
    | _ => l)

/-- WRITEBACK_GRANT (12 R278): the line is HOME once the LLC has written it. -/
def execWritebackGrant (line : Nat) (s : State) : Host.Outcome State Fault Refusal :=
  s.dirEvent line (fun l => match l.state with
    | .wb d => l.released d
    | _ => l)

/-- MERGE_COMPLETE (12 R277). -/
def execMergeComplete (line : Nat) (s : State) : Host.Outcome State Fault Refusal :=
  s.dirEvent line (fun l => match l.state with
    | .merge t => DirLine.merged t
    | _ => l)

/-- PTM_EXCHANGE (15 R340, R350): every 10 ms while port 0 is ACTIVE; a forward correction of 1 µs or more is a step, any other is slewed. -/
def execPtmExchange (offset : Int) (s : State) : Host.Outcome State Fault Refusal :=
  .next (
    let due := match s.bar.ptmAt with
      | some t => decide (t + msNs 10 ≤ s.ns)
      | none => true
    if !s.powered || s.tripped || decide ((s.port 0).state ≠ 2) || !due then s
    else
      let fits := decide (-(2 ^ 31 : Int) ≤ offset ∧ offset < 2 ^ 31)
      let word := if fits then BitVec.ofInt 32 offset else Config.freeWord s.choiceCtr 0
      let s1 := { s with choiceCtr := if fits then s.choiceCtr else s.choiceCtr + 1 }
      let s2 := if 1000 ≤ offset then { s1 with devTicks := s1.devTicks + offset.toNat * Config.ticksPerNs, slew := 0 } else { s1 with slew := offset * (Config.ticksPerNs : Int) }
      { s2 with bar := { s2.bar with ptmOffset := word, ptmAt := some s2.ns, ptmLocked := true } })

/-- Port 0 is up again (15 R344): held MSI-X messages are sent, and the descriptors' counts written. -/
def State.sendHeld (s : State) : State := s.ctxs.foldl (fun (a : State) c => a.descSync c.1) { s with msi := s.msi ++ s.msiHeld, msiHeld := [] }

/-- A port carries requests again: the CWBs that wait for it are made by their threads (09 R208, 15 R352). -/
def State.cleanDone (s : State) (port : Nat) : State :=
  { s with jobs := s.jobs.filter (fun j => !(j.cleans && ((s.pte j.ctx (j.page * 65536)).map (fun e => (s.leaseFor j.ctx e.2).port == port)).getD true)) }

/-- TRAINING_COMPLETE (15 R340, R352): WIDTH 1 to 3 and RATE 0 to 2 are set. -/
def execTrainingComplete (port rate width : Nat) (s : State) : Host.Outcome State Fault Refusal :=
  .next (
    if !s.powered || s.tripped || decide (8 ≤ port ∨ (s.port port).state ≠ 1 ∨ 2 < rate ∨ width = 0 ∨ 3 < width ∨ s.boot = 0) then s
    else
      let s1 := (s.setPort port { s.port port with state := 2, rate := rate, width := width }).cleanDone port
      if port = 0 then s1.sendHeld else s1)

/-- TRAINING_RETRY (15 R352): no partner within 100 ms; the port stays in TRAINING and tries again. -/
def execTrainingRetry (port : Nat) (s : State) : Host.Outcome State Fault Refusal :=
  .next (if (s.port port).state = 1 then s.setPort port { s.port port with state := 1 } else s)

/-- Nodes reached through a port with leases that a failure concerns; `busy` keeps those with a request under way. -/
def State.portNodes (s : State) (port : Nat) (busy : Bool) : List Nat :=
  distinct ((s.leases.filter (fun l => l.2.port == port && s.failable l.2 && (!busy || !(s.requestsOf l.2).isEmpty))).map (fun l => l.2.node))

/-- A port leaves ACTIVE or LOWPOWER (15 R344, R345): on a fabric port the nodes with requests pending fail, or all of them. -/
def State.dropPort (s : State) (port st : Nat) (all : Bool) : State :=
  let s1 := s.setPort port { s.port port with state := st }
  if port = 0 then s1 else (s.portNodes port (!all)).foldl (fun (a : State) n => a.failNode n 2) s1

/-- LINK_LOSS (15 R352). -/
def execLinkLoss (port : Nat) (s : State) : Host.Outcome State Fault Refusal :=
  .next (if s.powered && !s.tripped && decide (port < 8) && s.linkUp port then s.dropPort port 4 false else s)

/-- INTEGRITY_FAILURE (15 R351, R352), on a port with IDE keys set. -/
def execIntegrityFailure (port : Nat) (s : State) : Host.Outcome State Fault Refusal :=
  .next (if s.powered && !s.tripped && decide (port < 8) && s.linkUp port && (s.port port).ide then s.dropPort port 4 true else s)

/-- SPDM_REQUEST (15 R351; 19 R399, R401): answered over port 0, from step 2 of bring-up on, with the measurements, SHA-256 digests and the image's version (log 64); a key-management message sets a port's IDE keys. -/
def execSpdmRequest (setsKey : Bool) (port : Nat) (s : State) : Host.Outcome State Fault Refusal :=
  .next (
    if !s.powered || s.tripped || !s.linkUp 0 || decide (s.boot = 0) then s
    else
      let s1 := { s.wakePort 0 with reply := (s.measured.flatMap (fun v => bytesOfNat v.toNat 32) ++ bytesOfNat s.measuredVersion.toNat 4, false) }
      if setsKey ∧ port < 8 then s1.setPort port { s1.port port with ide := true } else s1)

/-- A write of LINKCMD (15 R340; 19 R400): `op` is the event's operation; a word with another operation is not this event's. -/
def State.linkCommand (s : State) (w : Dword) (op : Nat) (f : State → Nat → State) : State :=
  if !s.barUp || s.tripped || decide (s.boot = 0) || decide (bits w 11 8 ≠ op) then s else f (s.wakePort 0) (bits w 2 0)

/-- RETRAIN (15 R352): from ACTIVE, with requests waiting, or from FAILED. -/
def execRetrain (w : Dword) (s : State) : Host.Outcome State Fault Refusal :=
  .next (s.linkCommand w 1 (fun s p => if (s.port p).state = 2 ∨ (s.port p).state = 4 then s.setPort p { s.port p with state := 1 } else s))

/-- Requests are pending on a port (15 R352). -/
def State.portBusy (s : State) (p : Nat) : Bool :=
  s.leases.any (fun l => l.2.port == p && !(s.requestsOf l.2).isEmpty) || (s.bar.mbxen && s.bar.mbxport == p && !s.outbox.isEmpty)

/-- LOWPOWER (15 R352): discarded while requests are pending. -/
def execLowpower (w : Dword) (s : State) : Host.Outcome State Fault Refusal :=
  .next (s.linkCommand w 2 (fun s p => if (s.port p).state = 2 ∧ !s.portBusy p then s.setPort p { s.port p with state := 3 } else s))

/-- WAKE (15 R352). -/
def execWake (w : Dword) (s : State) : Host.Outcome State Fault Refusal := .next (s.linkCommand w 3 (fun s p => s.wakePort p))

/-- LINK_DISABLE (15 R352): as link loss. -/
def execLinkDisable (w : Dword) (s : State) : Host.Outcome State Fault Refusal :=
  .next (s.linkCommand w 4 (fun s p => if (s.port p).state = 0 then s else s.dropPort p 0 false))

/-- LINK_ENABLE (15 R352): from DISABLED or FAILED. -/
def execLinkEnable (w : Dword) (s : State) : Host.Outcome State Fault Refusal :=
  .next (s.linkCommand w 5 (fun s p => if (s.port p).state = 0 ∨ (s.port p).state = 4 then s.setPort p { s.port p with state := 1 } else s))

/-- LINKSTAT of a port (15 R340). -/
def Port.linkstat (p : Port) : Nat := p.errcnt <<< 32 ||| p.width <<< 8 ||| p.rate <<< 6 ||| p.state

/-- LINKSTAT_READ (15 R340): ERRCNT clears. -/
def execLinkstatRead (port : Nat) (s : State) : Host.Outcome State Fault Refusal :=
  .next (
    if !s.barUp || decide (8 ≤ port) then s
    else
      let s1 := s.wakePort 0
      { s1.setPort port { s1.port port with errcnt := 0 } with reply := (bytesOfNat (s1.port port).linkstat 8, false) })

/-- LINK_ERROR_RECOVERED (15 R340): an error of a link in use, recovered by replay or retraining. -/
def execLinkErrorRecovered (port : Nat) (s : State) : Host.Outcome State Fault Refusal :=
  .next (if port < 8 ∧ (s.port port).state ≠ 0 ∧ (s.port port).state ≠ 4 then s.linkError port else s)

/-- MBXCFG_WRITE (15 R340): discarded while EN is 1, unless it clears EN. -/
def execMbxcfgWrite (v : Dword) (s : State) : Host.Outcome State Fault Refusal :=
  .next (
    if !s.barUp || s.tripped || (s.bar.mbxen && v.getLsbD 3) then s
    else
      let s1 := s.wakePort 0
      { s1 with bar := { s1.bar with mbxaddr := BitVec.ofNat 64 (bits v 63 16 <<< 16), mbxen := v.getLsbD 3, mbxport := bits v 2 0 } })

end Sys2Proof.Machine
end

