-- ==== Sys2Proof/Machine/Power.lean ====
section
/-! DEFINITION. Power, reset and bring-up (spec/19 R394 to R401), and writes of BAR0 registers without a behaviour of their own (15 R339, R340; 04 R91; 05 R106; 14 R318; 16 R363). -/

namespace Sys2Proof.Machine

/-- A bit of a vector set or cleared. -/
def putBit {n : Nat} (x : BitVec n) (k : Nat) (b : Bool) : BitVec n := if b then x ||| (1#n <<< k) else x &&& ~~~(1#n <<< k)

/-- Result of a power command (19 R394). -/
def State.pwrDone (s : State) (err : Nat) : State := { s with bar := { s.bar with pwrErr := err } }

/-- A write of PWRCMD (19 R394, R400): `op` is the event's operation; a word with another operation is not this event's. `limit` bounds TARGET. -/
def State.power (s0 : State) (w : Dword) (op limit : Nat) (f : State → Nat → Nat → State × Nat) : State :=
  let o := bits w 7 0
  let target := bits w 15 8
  let arg := bits w 23 16
  if !s0.barUp || s0.tripped then s0
  else
    let s := s0.wakePort 0
    if s.boot < 4 then s.pwrDone 4
    else if bits w 63 24 ≠ 0 ∨ o = 0 ∨ 8 < o then s.pwrDone 5
    else if o ≠ op then s0
    else if (if o = 1 then 3 < arg else arg ≠ 0) then s.pwrDone 5
    else if limit ≤ target ∧ !(o = 3 ∧ target = 255) then s.pwrDone 2
    else
      let (s1, e) := f s target arg
      s1.pwrDone e

/-- A die at another clock level (19 R395; 01 R19). DESIGN CHOICE (log 89): its first cycle at the new clock begins with the change; of the cycle under way nothing is counted. -/
def Die.setLevel (d : Die) (lvl : BitVec 2) : Die := if d.level = lvl then d else { d with level := lvl, frac := 0 }

/-- DIECLK (19 R395; 01 R19). -/
def execDieclk (w : Dword) (s : State) : Host.Outcome State Fault Refusal :=
  .next (s.power w 1 8 (fun s d lvl => ({ s with dies := modifyAt s.dies d (fun x => x.setLevel (BitVec.ofNat 2 lvl)) }, 0)))

/-- QUADOUT (19 R396). -/
def execQuadout (w : Dword) (s : State) : Host.Outcome State Fault Refusal :=
  .next (s.power w 2 96 (fun s q _ => (if s.bar.qgate.getLsbD q then s else { s with bar := { s.bar with qout := putBit s.bar.qout q true } }, 0)))

/-- QUADIN (19 R396): one quad, or every quad in OUT that passed self-test. -/
def execQuadin (w : Dword) (s : State) : Host.Outcome State Fault Refusal :=
  .next (s.power w 3 96 (fun s q _ =>
    if q = 255 then
      let go := (List.range 96).filter (fun k => !s.bar.qgate.getLsbD k && !s.bar.stfail.getLsbD k)
      ({ s with bar := { s.bar with qout := go.foldl (fun b k => putBit b k false) s.bar.qout } }, 0)
    else if !s.bar.qout.getLsbD q then (s, 0)
    else if s.bar.qgate.getLsbD q || s.bar.stfail.getLsbD q then (s, 3)
    else ({ s with bar := { s.bar with qout := putBit s.bar.qout q false } }, 0)))

/-- A group is resident on a quad, or a save is in progress there (19 R396). -/
def State.quadBusy (s : State) (q : Nat) : Bool :=
  s.groups.any (fun g => g.2.resident && quadOf g.2.core == q) || s.kernels.any (fun k => k.2.gangs.any (fun g => g.quad == q && decide (g.state = .halting ∨ g.state = .saving)))

/-- A quad's store, vitrine slices and copy chains lose their contents (19 R396). -/
def State.blankQuad (s : State) (q : Nat) : State :=
  { s with
    cores := s.cores.map (fun c => if quadOf c.1 = q then (c.1, { CoreSt.empty with traceSeq := c.2.traceSeq, sampleSlot := c.2.sampleSlot, sampleNext := c.2.sampleNext, engNum := c.2.engNum }) else c)
    chains := s.chains.filter (fun c => c.1 / 4 != q) }

/-- QUADGATE (19 R396). -/
def execQuadgate (w : Dword) (s : State) : Host.Outcome State Fault Refusal :=
  .next (s.power w 4 96 (fun s q _ =>
    if s.bar.qgate.getLsbD q then (s, 0)
    else if !s.bar.qout.getLsbD q || s.quadBusy q then (s, 3)
    else ({ s.blankQuad q with bar := { s.bar with qgate := putBit s.bar.qgate q true } }, 0)))

/-- QUADUNGATE (19 R396): the store is clear. -/
def execQuadungate (w : Dword) (s : State) : Host.Outcome State Fault Refusal :=
  .next (s.power w 5 96 (fun s q _ => (if s.bar.qgate.getLsbD q then { s.blankQuad q with bar := { s.bar with qgate := putBit s.bar.qgate q false } } else s, 0)))

/-- HBMDOWN (19 R397): only while the Registrar holds no frame in the stack. -/
def execHbmdown (w : Dword) (s : State) : Host.Outcome State Fault Refusal :=
  .next (s.power w 6 8 (fun s k _ => if s.frames.any (fun f => f.1 / 2 ^ 20 % 8 == k) then (s, 3) else ({ s with bar := { s.bar with hbmDown := putBit s.bar.hbmDown k true } }, 0)))

/-- HBMUP (19 R397): the stack is retrained before the command ends. -/
def execHbmup (w : Dword) (s : State) : Host.Outcome State Fault Refusal :=
  .next (s.power w 7 8 (fun s k _ => ({ s with bar := { s.bar with hbmDown := putBit s.bar.hbmDown k false } }, 0)))

/-- The fuses' minimum version: as made, or as raised since (19 R401). -/
def State.minVersion (s : State) : Nat := Nat.max Config.fusedMinimum s.fwVersion

/-- Digests of the three parts of the firmware image at FWADDR: the Registrar, core microcode, plinth firmware (19 R401). -/
def State.imageDigests (s : State) : List (BitVec 256) := (List.range 3).map (fun k => Config.sha256 (Config.fwPart s.hostMem s.bar.fwaddr k))

/-- The image's signature verifies and every digest of its header matches its part (19 R401). -/
def State.imageOk (s : State) : Bool := Config.fwSigned s.hostMem s.bar.fwaddr && decide ((List.range 3).map (Config.fwHeader s.hostMem s.bar.fwaddr) = s.imageDigests)

/-- FWLOAD (19 R399, R401): an accepted image raises the fused minimum, its digests and version become the measurements, and the Registrar starts. -/
def execFwload (w : Dword) (s : State) : Host.Outcome State Fault Refusal :=
  .next (s.power w 8 256 (fun s _ _ =>
    let v := Config.fwVersion s.hostMem s.bar.fwaddr
    if 6 ≤ s.boot then (s, 3)
    else if !s.imageOk || decide (v.toNat < s.minVersion) then (s, 6)
    else ({ s with boot := 6, fwVersion := v.toNat, measured := s.imageDigests, measuredVersion := v }, 0)))

/-- HBM_RETRAIN (19 R397): a recalibration burst of one pseudo-channel changes no value and no order. -/
def execHbmRetrain (_stack _chan : Nat) (s : State) : Host.Outcome State Fault Refusal := .next s

/-- The state at reset, with what lies outside the device and the fuses (19 R398, R399), and the model's own fields. -/
def State.resetKeep (s : State) : State :=
  { State.reset with agenda := s.agenda, focus := s.focus, choiceCtr := s.choiceCtr, nextUid := s.nextUid, tick := s.tick, fwVersion := s.fwVersion, hostMem := s.hostMem, pool := s.pool, msi := s.msi }

/-- TRIP (19 R398; 01 R26): everything stops and is lost; port 0 stays as it is, the report is written, vector 0 is raised. CAUSE is 1 to 3; the die 0 to 7, or 255. -/
def execTrip (cause die : Nat) (s : State) : Host.Outcome State Fault Refusal :=
  .next (
    if !s.powered || s.tripped || decide (cause = 0 ∨ 3 < cause ∨ (8 ≤ die ∧ die ≠ 255)) then s
    else
      let r := s.resetKeep
      let s1 : State := { r with tripped := true, boot := s.boot, devTicks := s.devTicks, hdmBase := s.hdmBase, ports := s.port 0 :: r.ports.drop 1, msiHeld := s.msiHeld, bar := { r.bar with trip := BitVec.ofNat 64 (cause <<< 56 ||| die <<< 48 ||| s.ns % 2 ^ 48) } }
      s1.msix 0)

/-- Bring-up begins (19 R399): the boot ROM starts, port 0 trains, and the ROM's own stage of firmware is verified; one that fails leaves the device at step 2. -/
def State.bringUp (s : State) : State := { s with powered := true, boot := if Config.bootVerifies s.choiceCtr then 2 else 1, choiceCtr := s.choiceCtr + 1 }

/-- POWER_GOOD (19 R399): the module is given power, or has it and has not begun bring-up. -/
def execPowerGood (s : State) : Host.Outcome State Fault Refusal :=
  .next (if !s.powered then (s.resetKeep).bringUp else if s.boot = 0 ∧ s.tripped = false then s.bringUp else s)

/-- WARM_RESET (19 R398, R399): through port 0; TRIP is kept. -/
def execWarmReset (s : State) : Host.Outcome State Fault Refusal :=
  .next (if !s.powered || !s.linkUp 0 then s else let r := s.resetKeep; { r with bar := { r.bar with trip := s.bar.trip } }.bringUp)

/-- HBM_TRAINING (19 R399, step 3): stacks that fail are DOWN. -/
def execHbmTraining (failed : BitVec 8) (s : State) : Host.Outcome State Fault Refusal :=
  .next (if s.powered = true ∧ s.tripped = false ∧ s.boot = 2 then { s with boot := 3, bar := { s.bar with hbmDown := failed } } else s)

/-- SELF_TEST (19 R399, step 4). -/
def execSelfTest (failed : BitVec 96) (s : State) : Host.Outcome State Fault Refusal :=
  .next (if s.powered = true ∧ s.tripped = false ∧ s.boot = 3 then { s with boot := 4, bar := { s.bar with stfail := failed } } else s)

/-- TRIP_READ (19 R394): the report is returned and cleared. -/
def execTripRead (s : State) : Host.Outcome State Fault Refusal :=
  .next (if !s.barUp then s else { s.wakePort 0 with reply := (bytesOfNat s.bar.trip.toNat 8, false), bar := { s.bar with trip := 0 } })

/-- POWER_OFF (19 R398; 01 R28): every domain loses power; the fuses and what lies outside the device stay. -/
def execPowerOff (s : State) : Host.Outcome State Fault Refusal := .next { s.resetKeep with powered := false, ports := (List.range 8).map (fun p => { Port.reset p with state := 0 }) }

/-- SAMPCFG_WRITE (16 R363, R370): the period, 1 to 15 taken as 16; the rotation starts again. -/
def execSampcfgWrite (v : Dword) (s : State) : Host.Outcome State Fault Refusal :=
  .next (
    if !s.barUp || s.tripped then s
    else
      let s1 := s.wakePort 0
      let p := bits v 15 0
      { s1 with
        bar := { s1.bar with gated := v.getLsbD 16, period := if 1 ≤ p ∧ p ≤ 15 then 16 else p, sampStart := s1.dies.map (fun d => d.clock) }
        cores := s1.cores.map (fun c => (c.1, { c.2 with sampleSlot := none, sampleNext := 0 })) })

/-- RETRAIN (19 R394): 4 to 512 ms; other values are taken as 64. -/
def retrainMs (n : Nat) : Nat := if 4 ≤ n ∧ n ≤ 512 then n else 64

/-- A BAR0 register without a behaviour of its own takes a value (15 R339, R340; 04 R91; 05 R106; 14 R318; 16 R363; 19 R394). -/
def State.barWrite (s : State) (off : Nat) (v : Dword) : State :=
  let b := s.bar
  let aligned (hi lo : Nat) : Dword := BitVec.ofNat 64 (bits v hi lo <<< lo)
  let idle := decide (b.rqprod = b.rqcons)
  let q := (off - 0x4010) / 8
  match off with
  | 0x1000 => { s with bar := { b with ctxdesc := aligned 56 7 } }
  | 0x2000 => { s with bar := { b with qslotaddr := aligned 56 7 } }
  | 0x3000 => if idle then { s with bar := { b with rqbase := aligned 56 6 } } else s
  | 0x3008 => if idle then { s with bar := { b with rqlog := bits v 4 0 } } else s
  | 0x3010 => { s with bar := { b with rqprod := v } }
  | 0x3020 =>
    let free := s.ctxs.all (fun c => decide (c.2.state = .empty))
    { s with bar := { b with hostlim := if free then bits v 63 48 else b.hostlim, age := bits v 47 40, renewwait := bits v 31 16, lead := bits v 15 0 } }
  | 0x5038 => { s with bar := { b with retrain := retrainMs (bits v 40 32) } }
  | 0x5048 => { s with bar := { b with fwaddr := v } }
  | 0x8000 => { s with bar := { b with dbgarg0 := v } }
  | 0x8008 => { s with bar := { b with dbgarg1 := v } }
  | 0x8020 => { s with bar := { b with sampbase := v } }
  | 0x8030 => { s with bar := { b with tracebase := v } }
  | _ =>
    if 0x8100 ≤ off ∧ off < 0x8140 ∧ off % 8 = 0 then
      let k := (off - 0x8100) * 8
      { s with bar := { b with dbgdata := (b.dbgdata &&& ~~~((0xFFFFFFFFFFFFFFFF : BitVec 512) <<< k)) ||| (v.setWidth 512 <<< k) } }
    else if 0x4018 ≤ off ∧ off < 0x4050 ∧ off % 8 = 0 ∧ (s.port q).state ≠ 2 then s.setPort q { s.port q with pid := bits v 11 0 }
    else s

/-- REGISTER_WRITE (15 R339): a write of 8 bytes; any other size is discarded, and so is one to no such register. -/
def execRegisterWrite (off size : Nat) (v : Dword) (s : State) : Host.Outcome State Fault Refusal :=
  .next (if !s.barUp || s.tripped then s else let s1 := s.wakePort 0; if size = 8 then s1.barWrite off v else s1)

/-- A register's fields put together: value and lowest bit. -/
def fields (l : List (Nat × Nat)) : Dword := BitVec.ofNat 64 (l.foldl (fun a e => a ||| e.1 <<< e.2) 0)

/-- CTXSTAT.STATE (04 R91). -/
def CtxSt.code : CtxSt → Nat
  | .empty => 0
  | .created => 1
  | .active => 2
  | .quiescing => 3
  | .suspended => 4
  | .faulted => 5
  | .destroying => 6

/-- A block reads BUSY until a step of bring-up has completed (19 R400); after a trip it reads its reset value (19 R398). -/
def State.busyBefore (s : State) (step : Nat) : Bool := decide (s.boot < step) && !s.tripped

/-- What a BAR0 register reads as (15 R339, R340, R352; 04 R91; 05 R106; 14 R318; 16 R363, R365; 19 R394). The clearing reads of TRIP and LINKSTAT are events of their own. -/
def State.barRead (s : State) (off : Nat) : Dword :=
  let b := s.bar
  let q := (off - 0x4010) / 8
  let p := (off - 0x4050) / 8
  match off with
  | 0x1000 => b.ctxdesc
  | 0x1010 => fields [((s.ctx b.ctxLast).rights.toNat, 16), (b.ctxErr, 8), ((s.ctxWaits || s.busyBefore 6).toNat, 7), ((s.ctx b.ctxLast).state.code, 0)]
  | 0x2000 => b.qslotaddr
  | 0x2010 => fields [(b.qErr, 8), ((s.slotBusy || s.busyBefore 6).toNat, 7), (((s.slot? b.qLast).map (fun x => x.state.code)).getD 0, 0)]
  | 0x3000 => b.rqbase
  | 0x3008 => fields [(b.rqlog, 0)]
  | 0x3010 => b.rqprod
  | 0x3018 => b.rqcons
  | 0x3020 => fields [(b.hostlim, 48), (b.age, 40), (b.renewwait, 16), (b.lead, 0)]
  | 0x4000 => b.mbxaddr ||| fields [(b.mbxen.toNat, 3), (b.mbxport, 0)]
  | 0x4008 => fields [(b.ptmOffset.toNat, 32), (Nat.min 255 ((b.ptmAt.map (fun t => (s.ns - t) / 1000000)).getD 255), 8), (b.ptmLocked.toNat, 0)]
  | 0x5008 => fields [(b.pwrErr, 8), ((s.busyBefore 4).toNat, 7)]
  | 0x5010 => fields (s.dies.zipIdx.map (fun (d : Die × Nat) => (d.1.level.toNat, 2 * d.2)))
  | 0x5018 => b.qout.setWidth 64
  | 0x5020 => (b.qout >>> 64).setWidth 64
  | 0x5028 => b.qgate.setWidth 64
  | 0x5030 => (b.qgate >>> 64).setWidth 64
  | 0x5038 => fields [(b.retrain, 32), (b.hbmDown.toNat, 0)]
  | 0x5040 => b.trip
  | 0x5048 => b.fwaddr
  | 0x5050 => b.stfail.setWidth 64
  | 0x5058 => (b.stfail >>> 64).setWidth 64
  | 0x8000 => b.dbgarg0
  | 0x8008 => b.dbgarg1
  | 0x8018 => fields [(b.dbgErr, 8), ((s.busyBefore 6 || !s.bar.dbgHalt.isEmpty).toNat, 7)]
  | 0x8020 => b.sampbase
  | 0x8028 => fields [(b.gated.toNat, 16), (b.period, 0)]
  | 0x8030 => b.tracebase
  | _ =>
    if 0x8100 ≤ off ∧ off < 0x8140 ∧ off % 8 = 0 then (b.dbgdata >>> ((off - 0x8100) * 8)).setWidth 64
    else if 0x4018 ≤ off ∧ off < 0x4050 ∧ off % 8 = 0 then fields [((s.port q).pid, 0)]
    else if 0x4050 ≤ off ∧ off < 0x4090 ∧ off % 8 = 0 then BitVec.ofNat 64 (s.port p).linkstat
    else 0

/-- A host read of n bytes of BAR0 (15 R339): the addressed bytes of the register. One of TRIP or LINKSTAT clears as a read of the whole does (19 R394, 15 R340; log 87). -/
def State.barPeek (s : State) (off n : Nat) : State :=
  if !s.barUp then s
  else
    let reg := off / 8 * 8
    let a : State := { s.wakePort 0 with reply := ((List.range n).map (fun k => ((s.barRead ((off + k) / 8 * 8)) >>> (8 * ((off + k) % 8))).setWidth 8), false) }
    if reg = 0x5040 then { a with bar := { a.bar with trip := 0 } }
    else if 0x4050 ≤ reg ∧ reg < 0x4090 then let p := (reg - 0x4050) / 8; a.setPort p { a.port p with errcnt := 0 }
    else a

/-- What a byte of BAR2 reads as (15 R339, log 77): the MSI-X table, whose mask bits are 1 at reset, and the pending bits, those of the vectors held. -/
def State.bar2Byte (s : State) (a : Nat) : Byte :=
  if a < 0x8000 then s.bar2.get a ^^^ (if a % 16 = 12 then 1 else 0)
  else if a < 0x8100 then BitVec.ofNat 8 ((List.range 8).foldl (fun (x : Nat) k => if s.msiHeld.contains (8 * (a - 0x8000) + k) then x + 2 ^ k else x) 0)
  else 0

/-- A host write of the MSI-X table (15 R339, log 77). -/
def State.bar2Put (s : State) (a : Nat) (bs : List Byte) : State :=
  if !s.barUp || s.tripped then s
  else { s.wakePort 0 with bar2 := bs.zipIdx.foldl (fun (m : Mem) (e : Byte × Nat) => if a + e.2 < 0x8000 then m.set (a + e.2) (e.1 ^^^ (if (a + e.2) % 16 = 12 then 1 else 0)) else m) s.bar2 }

/-- A host read of BAR2. -/
def State.bar2Peek (s : State) (a n : Nat) : State :=
  if !s.barUp then s else { s.wakePort 0 with reply := ((List.range n).map (fun k => s.bar2Byte (a + k)), false) }

end Sys2Proof.Machine
end

