-- ==== Sys2Proof/Machine/Control.lean ====
section
/-! DEFINITION. The control instructions (spec/07 R154, R157 to R164). -/

namespace Sys2Proof.Machine

/-- A thread leaves the dispatch, waiting at an address (07 R147). -/
def goTo (iss : Issue) (s : State) (a : Dword) : Turnout := .leave s (fun t => t.waitAt a (s.clock iss.core))

/-- Target of BRA and CALL (07 R159). -/
def branchTarget (pc : Dword) (imm : Word) : Dword := pc + imm.signExtend 64 * 8

/-- Start of a thread's spill area (07 R154). -/
def Env.stackArea (e : Env) : Dword :=
  match e.s.kern? e.grp.kern with
  | some k => k.desc.stkBase + BitVec.ofNat 64 ((e.grp.gidx * k.desc.threads + e.tid) * k.desc.stkSize)
  | none => 0

/-- STKSIZE of the kernel (06 R124). -/
def Env.stackSize (e : Env) : Nat := ((e.s.kern? e.grp.kern).map (fun k => k.desc.stkSize)).getD 0

/-- push of 07 R154; `k` goes on with the thread's change. The newest held entry stands first. -/
def push (e : Env) (t : Thread) (ret : Dword) (k : State → (Thread → Thread) → Turnout) : Turnout :=
  match t.ret.getLast? with
  | some old =>
    if t.ret.length < 8 then k e.s (fun x => { x with ret := ret :: x.ret })
    else
      let at_ := e.stackArea + BitVec.ofNat 64 (8 * t.spill)
      if e.stackSize < 8 * (t.spill + 1) then .fault (.plain 0x22 at_ 0)
      else
        match e.s.route e.grp.ctx at_.toNat .store with
        | .error f => .fault (.page at_.toNat 4 f)
        | .ok l =>
          let s1 := e.store l at_.toNat (bytesOfNat old.toNat 8) none
          match s1.drainThread e.iss.core e.iss.grp e.tid with
          | none => .hold e.s
          | some s2 => k s2 (fun x => { x with ret := ret :: x.ret.dropLast, spill := x.spill + 1 })
  | none => k e.s (fun x => { x with ret := [ret] })

/-- pop of 07 R154. DESIGN CHOICE (log 99): a spilled entry in a poisoned line is returned as its bytes stand; 14 R331 names no RET. -/
def pop (e : Env) (t : Thread) (k : State → Dword → (Thread → Thread) → Turnout) : Turnout :=
  match t.ret with
  | r :: _ => k e.s r (fun x => { x with ret := x.ret.drop 1 })
  | [] =>
    let at_ := e.stackArea + BitVec.ofNat 64 (8 * (t.spill - 1))
    if t.spill = 0 then .fault (.plain 0x22 e.stackArea 1)
    else
      match e.s.route e.grp.ctx at_.toNat .load with
      | .error f => .fault (.page at_.toNat 4 f)
      | .ok l =>
        match e.read l at_.toNat 8 with
        | none => .hold e.s
        | some (s1, bs) => k s1 (BitVec.ofNat 64 (natOfBytes bs)) (fun x => { x with spill := x.spill - 1 })

/-- NOP (07 R158): no effect. -/
def execNop (w : F0) (s : State) : Host.Outcome State Fault Refusal := .next (runWord (.nop w) s (fun _ _ s1 => .done s1 none))

/-- BRA (07 R159). -/
def execBra (w : F2) (s : State) : Host.Outcome State Fault Refusal :=
  .next (runWord (.bra w) s (fun iss _ s1 => goTo iss s1 (branchTarget iss.pc w.imm)))

/-- JMP (07 R159). -/
def execJmp (w : F0) (s : State) : Host.Outcome State Fault Refusal :=
  .next (runWord (.jmp w) s (fun iss tid s1 => withThread iss tid s1 (fun e t =>
    let tgt := e.pair t (vnum w.a)
    if tgt.toNat % 8 ≠ 0 then .fault (iss.bad 0x05 tgt) else goTo iss s1 tgt)))

/-- CALL (07 R159). -/
def execCall (w : F2) (s : State) : Host.Outcome State Fault Refusal :=
  .next (runWord (.call w) s (fun iss tid s1 => withThread iss tid s1 (fun e t =>
    push e t (iss.pc + 8) (fun s2 f => .leave s2 (fun x => (f x).waitAt (branchTarget iss.pc w.imm) (s2.clock iss.core))))))

/-- CALLI (07 R159). -/
def execCalli (w : F0) (s : State) : Host.Outcome State Fault Refusal :=
  .next (runWord (.calli w) s (fun iss tid s1 => withThread iss tid s1 (fun e t =>
    let tgt := e.pair t (vnum w.a)
    if tgt.toNat % 8 ≠ 0 then .fault (iss.bad 0x05 tgt)
    else push e t (iss.pc + 8) (fun s2 f => .leave s2 (fun x => (f x).waitAt tgt (s2.clock iss.core))))))

/-- RET (07 R160). -/
def execRet (w : F0) (s : State) : Host.Outcome State Fault Refusal :=
  .next (runWord (.ret w) s (fun iss tid s1 => withThread iss tid s1 (fun e t =>
    pop e t (fun s2 r f => .leave s2 (fun x => (f x).waitAt r (s2.clock iss.core))))))

/-- EXIT (07 R160; 10 R236: a refused thread gives up its place). -/
def execExit (w : F0) (s : State) : Host.Outcome State Fault Refusal :=
  .next (runWord (.exit w) s (fun iss tid s1 => .leave (s1.unlock iss.grp tid true)
    (fun t => { t.waitAt (iss.pc + 8) (s1.clock iss.core) with cond := .exited, q := List.replicate 8 [], ret := [] })))

/-- ROWBLK (07 R161): as the first word of a dispatch it has no further effect, for DISPATCH has formed the packs by row; elsewhere it ends the dispatch before itself. -/
def execRowblk (w : F1) (s : State) : Host.Outcome State Fault Refusal :=
  .next (runWord (.rowblk w) s (fun iss tid s1 =>
    if ((s1.issuing iss).map (fun d => d.index)).getD 0 = 0 then .done s1 none
    else .out (s1.modThread iss.grp tid (fun t => t.waitAt iss.pc (s1.clock iss.core)))))

/-- YIELD (07 R144, R162): the end of the issue marks the entry when the dispatch has ended. -/
def execYield (w : F0) (s : State) : Host.Outcome State Fault Refusal :=
  .next (runWord (.yield w) s (fun iss _ s1 =>
    goTo iss s1 (iss.pc + 8)))

/-- NAP (07 R163). -/
def execNap (w : F1) (s : State) : Host.Outcome State Fault Refusal :=
  .next (runWord (.nap w) s (fun iss _ s1 =>
    if w.imm = 0 then goTo iss s1 (iss.pc + 8)
    else .leave s1 (fun t => { t.blockAt .nap (iss.pc + 8) (s1.clock iss.core) with napLeft := w.imm.toNat })))

/-- TRAP (07 R164). -/
def execTrap (w : F1) (s : State) : Host.Outcome State Fault Refusal :=
  .next (runWord (.trap w) s (fun _ _ _ => .fault (.plain 0x31 0 (w.imm.setWidth 64))))

/-- BRK (07 R164). -/
def execBrk (w : F0) (s : State) : Host.Outcome State Fault Refusal :=
  .next (runWord (.brk w) s (fun iss _ _ => .fault (.plain 0x32 iss.pc 0)))

end Sys2Proof.Machine
end

