-- ==== Sys2Proof/Machine/Selector.lean ====
section
/-! DEFINITION. The selector (spec/07 R140 to R146, R149, R150), handler activations (16 R358), and what a core completes on its own: speculative loads (07 R155), long-latency results (02 R46), queue data (09 R193), stores (09 R192), naps (07 R163), pins (09 R209). -/

namespace Sys2Proof.Machine

/-- The gang of a group is halted (06 R136). -/
def State.gangHalted (s : State) (g : Group) : Bool := ((s.gang? g.kern g.gang).map (fun x => x.halted)).getD false

/-- The runnable threads of an entry (07 R140, R150). -/
def State.runnable (s : State) (g : Group) (a : Dword) : List Nat :=
  let here := (g.threads.zipIdx.filter (fun e => decide (e.1.cond = .waiting ∧ e.1.addr = a))).map (fun e => e.2)
  if s.rowblkAt g.ctx a = some true then here.filter (fun t => g.rowJoined a (t / 32)) else here

/-- What the selector sees of an entry (07 R140, R141, R144). -/
structure Entry where
  grp : Nat
  slot : Nat
  addr : Dword
  pop : Nat
  age : Nat
  yielded : Bool
  list : Bool := false

/-- Age of the oldest of some threads. -/
def Group.ageOf (g : Group) (clock : Nat) (ts : List Nat) : Nat :=
  (ts.filterMap (fun t => (g.threads[t]?).map (fun x => clock - x.since))).foldl Nat.max 0

/-- Entries of a group with population at least 1 (07 R140); the overflow list is one entry (07 R141, log 17). DESIGN CHOICE (log 93): it counts as yielded while the address it offers has been yielded at. -/
def State.groupEntries (s : State) (gid : Nat) (g : Group) (clock : Nat) : List Entry :=
  let entry (a : Dword) : Option Entry :=
    let ts := s.runnable g a
    if ts.isEmpty then none else some { grp := gid, slot := g.slot, addr := a, pop := ts.length, age := g.ageOf clock ts, yielded := g.yielded.contains a }
  let ovl := g.overflow.filterMap entry
  let low := ovl.foldl (fun b e => match b with
    | none => some e
    | some x => if e.addr < x.addr then some e else some x) (none : Option Entry)
  let old := ovl.foldl (fun b e => match b with
    | none => some e
    | some x => if x.age < e.age then some e else some x) (none : Option Entry)
  let list := match low, old with
    | some l, some o => if 2048 ≤ o.age then [{ o with pop := l.pop, list := true }] else [{ l with age := o.age, list := true }]
    | _, _ => []
  g.table.filterMap entry ++ list

/-- The first of two entries under the rules of 07 R143. -/
def Entry.before (x y : Entry) : Bool :=
  let ax := if 2048 ≤ x.age then x.age else 0
  let ay := if 2048 ≤ y.age then y.age else 0
  if ax ≠ ay then decide (ay < ax)
  else if x.pop ≠ y.pop then decide (y.pop < x.pop)
  else if x.slot ≠ y.slot then decide (x.slot < y.slot)
  else decide (x.addr < y.addr)

/-- A dispatch holds an entry: its address, or the overflow list it was chosen from (07 R141, R143). -/
def Dispatch.holds (d : Dispatch) (e : Entry) : Bool := d.grp == e.grp && (d.entry == e.addr || (d.list && e.list))

/-- The entry a stream chooses (07 R143, R144). -/
def State.choose (s : State) (core stream : Nat) : Option Entry :=
  let clock := s.clock core
  let held (e : Entry) : Bool := (List.range 2).any (fun k => k != stream && ((s.stream core k).dispatch.map (fun d => d.holds e)).getD false)
  let all := ((s.residents core).filter (fun e => e.2.killed.isNone && !s.gangHalted e.2)).flatMap (fun e => s.groupEntries e.1 e.2 clock)
  let free := all.filter (fun e => !held e)
  let fresh := free.filter (fun e => !e.yielded || decide (2048 ≤ e.age))
  (if fresh.isEmpty then free else fresh).foldl (fun b e => match b with
    | none => some e
    | some x => if e.before x then some e else some x) none

/-- Threads in packs of 32 in ascending index (07 R145). -/
def packsOf (ts : List Nat) : List (List (Nat × Nat)) :=
  (List.range ((ts.length + 31) / 32)).map (fun k => ((ts.drop (32 * k)).take 32).zipIdx.map (fun e => (e.2, e.1)))

/-- Threads in one pack for each row (07 R149). -/
def rowPacks (ts : List Nat) : List (List (Nat × Nat)) :=
  (distinct (ts.map (fun t => t / 32))).map (fun r => (ts.filter (fun t => t / 32 == r)).map (fun t => (t % 32, t)))

/-- Stream 1 falls free while stream 0 is free and has something to choose: stream 0 chooses first (07 R143). -/
def State.chooseLater (s : State) (core stream : Nat) : Bool :=
  stream != 0 && (s.stream core 0).dispatch.isNone && (s.choose core 0).isSome

/-- Threads that a halt has asked for, now runnable, stop before their next instruction (16 R362): one record for each pack they would form. -/
def State.haltAsked (s : State) (gid : Nat) : State :=
  match s.group? gid with
  | none => s
  | some g =>
    let mine := (g.threads.zipIdx.filterMap (fun (t : Thread × Nat) => match t.1.haltReq with
      | some k => if t.1.cond = .waiting then some (t.1.addr, k, t.2) else none
      | none => none))
    (distinct (mine.map (fun e => (e.1, e.2.1)))).foldl (fun (a : State) key =>
      let ts := (mine.filter (fun e => decide ((e.1, e.2.1) = key))).map (fun e => e.2.2)
      let f : TFault := .plain 0x42 0 (if key.2 < 4 then BitVec.ofNat 64 (1 ||| key.2 <<< 1) else 0)
      (packsOf ts).foldl (fun (b : State) lanes => (b.takeFaults g.core gid key.1 false (lanes.map (fun l => (l, f)))).modThreads gid (lanes.map (fun l => l.2)) (fun t => { t with haltReq := none, stop := if t.cond = .blocked .debug ∧ t.region.isNone then 4 else t.stop })) a) s

/-- A pending activation can be taken: its group's gang is not halted, nor its threads for the debugger (06 R136, 16 R362). -/
def State.activates (s : State) (a : Activation) : Bool :=
  match s.group? a.grp with
  | none => true
  | some g => !s.gangHalted g && a.lanes.all (fun l => ((g.threads[l.2]?).map (fun t => decide (t.haltReq ≠ some 4))).getD true)

/-- DISPATCH (07 R143 to R145, R149): a free stream chooses an entry, and takes a snapshot of its runnable threads; its first word is fetched with the choice, which decides whether the dispatch is a row-block one (07 R148, R161). -/
def execDispatch (core stream : Nat) (s : State) : Host.Outcome State Fault Refusal :=
  .next (
    let s0 := (s.residents core).foldl (fun a e => ((a.modGroup e.1 (fun g => { g with threads := g.threads.map (fun (t : Thread) => t.considered (s.clock core)) })).haltAsked e.1).retable e.1) s
    let st := s0.stream core stream
    if 2 ≤ stream ∨ st.dispatch.isSome ∨ (s0.core core).activations.any s0.activates ∨ s0.chooseLater core stream then s
    else
      match s0.choose core stream with
      | none => s0
      | some e =>
        match s0.group? e.grp with
        | none => s0
        | some g =>
          let ts := s0.runnable g e.addr
          let word := s0.fetch g.ctx e.addr
          let rows := (s0.rowblkAt g.ctx e.addr).isSome
          let packs := if rows then rowPacks ts else packsOf ts
          let d : Dispatch := { uid := s0.nextUid, grp := e.grp, entry := e.addr, pc := e.addr, packs := packs, todo := List.range packs.length, index := 0, rowblk := rows, handler := false, acted := [], stuck := false, fpe := none, word := word.toOption, list := e.list }
          let s1 := (s0.residents core).foldl (fun a x => a.modGroup x.1 (fun y => { y with yielded := [] })) s0
          let s2 := s1.modGroup e.grp (fun y => { y with threads := y.threads.zipIdx.map (fun (x : Thread × Nat) => if ts.contains x.2 then { x.1 with cond := .running } else x.1) }.retable)
          let s3 : State := { s2.setStream core stream { st with dispatch := some d } with nextUid := s2.nextUid + 1 }
          match word with
          | .ok _ => s3.fetchTouch g.ctx e.addr
          | .error f => s3.fetchFault core stream f)

/-- HANDLER_ACTIVATION (16 R358): a free stream takes the oldest pending activation; each thread's p0 to p6 and open windows are set aside. -/
def execHandlerActivation (core stream : Nat) (s : State) : Host.Outcome State Fault Refusal :=
  .next (
    let st := s.stream core stream
    match st.dispatch, (s.core core).activations.find? s.activates with
    | none, some a =>
      if stream != 0 && (s.stream core 0).dispatch.isNone then s else
      let s0 := s.setCore core { s.core core with activations := (s.core core).activations.erase a }
      match s0.group? a.grp with
      | none => s0
      | some g =>
        if 2 ≤ stream then s
        else
          let pending (t : Nat) : Bool := ((g.threads[t]?).map (fun x => decide (x.cond = .blocked .handler) && (x.handler.map (fun h => !h.active)).getD false)).getD false
          let lanes := a.lanes.filter (fun l => pending l.2)
          let eh := (s.ctx g.ctx).ehAddr
          let enter (t : Thread) : Thread := { t with cond := .running, addr := eh, held := [], handler := t.handler.map (fun h => { h with active := true, savedP := t.p, savedHeld := t.held }) }
          if lanes.isEmpty then s0
          else
            let d : Dispatch := { uid := s0.nextUid, grp := a.grp, entry := eh, pc := eh, packs := [lanes], todo := [0], index := 0, rowblk := false, handler := true, acted := [], stuck := false, fpe := none }
            let s1 := (s0.modThreads a.grp (lanes.map (fun l => l.2)) enter).modGroup a.grp (fun y => y.retable)
            { (s1.setStream core stream { st with dispatch := some d }) with nextUid := s1.nextUid + 1 }
    | _, _ => s)

/-- A global LD of this address stands in the straight-line code from `pc` on, within `fuel` words, and its address registers hold their final values: none of them is in `open_` or written on the way, and no ABEGIN comes before it (07 R155, 10 R224). -/
def State.earlyLoad (s : State) (ctx : Nat) (t : Thread) (va : Dword) : Nat → Dword → List Nat → Bool
  | 0, _, _ => false
  | fuel + 1, pc, open_ =>
    match s.fetch ctx pc with
    | .error _ => false
    | .ok word =>
      match decode word with
      | .error _ => false
      | .ok i =>
        !endsDispatch i && !(match i with | .abegin _ => true | _ => false) && ((match i with
          | .ld w => memSpace w.x == 0 && decide (joinWords (t.v.get (vnum w.a)) (t.v.get (vnum w.a + 1)) + w.imm.signExtend 64 = va ∧ va.toNat % sizeBytes (lo3 w.x) = 0) && !open_.contains (vnum w.a) && !open_.contains (vnum w.a + 1)
          | _ => false) || s.earlyLoad ctx t va fuel (pc + 8) (dstRegs i ++ open_))

/-- The target of the guarded BRA at an address. -/
def State.guardedBranch (s : State) (ctx : Nat) (a : Dword) : Option Dword :=
  match s.fetch ctx a with
  | .error _ => none
  | .ok word => match decode word with
    | .ok (.bra w) => if w.g.p.toNat < 7 then some (branchTarget a w.imm) else none
    | _ => none

/-- Predicates a word writes. -/
def predDsts (i : Instr) : List Nat :=
  match shape0 i with
  | some (w, s) => if s.d == .pred then (match Operand.ofCode w.d with | .p n => [n] | _ => []) else []
  | none =>
    match shape1 i with
    | some (w, s) => if s.d == .pred then (match Operand.ofCode w.d with | .p n => [n] | _ => []) else []
    | none => []

/-- The guard of the BRA at an address rests on a load of the thread whose result is outstanding (07 R155), directly or through integer and compare words: the words before the BRA are read backwards, `regs` and `preds` being what the guard rests on so far, within `fuel` words. -/
def State.restsOn (s : State) (ctx : Nat) (t : Thread) : Nat → Dword → List Nat → List Nat → Bool
  | 0, _, _, _ => false
  | fuel + 1, pc, regs, preds =>
    if t.held.any (fun h => !h.ready && h.regs.any regs.contains) then true
    else
      match s.fetch ctx (pc - 8) with
      | .error _ => false
      | .ok word =>
        match decode word with
        | .error _ => false
        | .ok i =>
          if endsDispatch i then false
          else if (predDsts i).any (fun p => preds.contains p) || (dstRegs i).any (fun r => regs.contains r) then
            s.restsOn ctx t fuel (pc - 8) (srcRegs i ++ regs.filter (fun r => !(dstRegs i).contains r)) (((guardOf i).map (fun g => g.p.toNat)).toList ++ preds.filter (fun p => !(predDsts i).contains p))
          else s.restsOn ctx t fuel (pc - 8) regs preds

/-- The guard of the BRA at an address waits for a load of the thread (07 R155). -/
def State.guardWaits (s : State) (ctx : Nat) (a : Dword) (t : Thread) : Bool :=
  match s.fetch ctx a with
  | .error _ => false
  | .ok word => match decode word with
    | .ok (.bra w) => s.restsOn ctx t 64 a [] [w.g.p.toNat]
    | _ => false

/-- A load that the selector may issue early (07 R155): all threads of an entry wait at a guarded BRA whose guard rests on a load that is outstanding, none of them in a region (10 R224), and one of them would load the address on the predicted path. -/
def State.speculates (s : State) (g : Group) (va : Dword) : Bool :=
  g.waitAddrs.any (fun a =>
    let ts := g.threads.filter (fun t => decide (t.cond = .waiting ∧ t.addr = a))
    match s.guardedBranch g.ctx a with
    | none => false
    | some target => ts.all (fun t => t.region.isNone && s.guardWaits g.ctx a t) && ts.any (fun t => s.earlyLoad g.ctx t va 4096 target (t.held.flatMap HeldWrite.regs)))

/-- SPECULATIVE_LOAD (07 R155): an early load may fill a line of the L1 where its translation passes; it takes no state in the directory and changes nothing else. -/
def execSpeculativeLoad (core grp : Nat) (va : Dword) (s : State) : Host.Outcome State Fault Refusal :=
  .next (
    match s.group? grp with
    | none => s
    | some g =>
      if !(g.resident && g.core == core) || bits va 63 57 != 0 || !s.speculates g va then s
      else
        match s.route g.ctx va.toNat .load with
        | .ok (.mem a pa) =>
          if s.poisoned pa || ((s.core core).l1Find g.ctx (a / 128)).isSome then s else s.l1Install core g.ctx a pa
        | _ => s)

/-- The stream whose dispatch holds a thread; 2 for none. -/
def State.streamOf (s : State) (grp tid : Nat) : Nat :=
  match s.group? grp with
  | some g => ((List.range 2).find? (fun k => ((s.stream g.core k).dispatch.map (fun d => d.grp == grp && d.packs.flatten.any (fun l => l.2 == tid))).getD false)).getD 2
  | none => 2

/-- LONG_LATENCY_COMPLETE (02 R46): the idx-th held write of a thread has its value, and lands once its window is closed. -/
def execLongLatencyComplete (grp tid idx : Nat) (s : State) : Host.Outcome State Fault Refusal :=
  .next ((s.modThread grp tid (fun t => { t with held := modifyAt t.held idx (fun h => { h with ready := true }) }.land)).gatherFlags grp [tid] (s.streamOf grp tid))

/-- LDQ_DATA_ARRIVE (09 R193): the data of an entry arrives; a thread that waits for entries of its queues goes on when an entry has arrived in each (07 R139). -/
def execLdqDataArrive (grp tid q idx : Nat) (s : State) : Host.Outcome State Fault Refusal :=
  .next (
    match s.group? grp with
    | none => s
    | some g => s.modThread grp tid (fun t =>
        let t1 : Thread := { t with q := modifyAt t.q q (fun l => modifyAt l idx (fun e => { e with arrived := true })) }
        if t1.cond = .blocked .queue ∧ q ∈ t1.queues ∧ Thread.queuesFed t t1 t1.queues = true then t1.waitAt t1.addr (s.clock g.core) else t1))

/-- STORE_DRAIN (09 R192; 12 R259): the idx-th store of a write queue is performed, after the earlier ones of its core to the same bytes (07 R146); it waits for an exclusive attempt that holds its line (10 R237). -/
def execStoreDrain (core idx : Nat) (s : State) : Host.Outcome State Fault Refusal :=
  .next (
    match (s.core core).wq[idx]? with
    | none => s
    | some e =>
      if ((s.core core).wq.take idx).any (fun x => x.clash e) || s.lineHeld core (e.phys / 128) (some (e.grp, e.tid)) then s
      else
        let s1 := s.drainEntry core e 4
        s1.setCore core { s1.core core with wq := (s1.core core).wq.eraseIdx idx })

/-- NAP_EXPIRE (07 R163): a thread whose nap has passed waits, runnable. -/
def execNapExpire (grp tid : Nat) (s : State) : Host.Outcome State Fault Refusal :=
  .next (
    match s.group? grp with
    | none => s
    | some g =>
      if !g.resident then s
      else s.modThread grp tid (fun t => if t.cond = .blocked .nap ∧ t.since + t.napLeft ≤ s.clock g.core then t.waitAt t.addr (s.clock g.core) else t))

/-- PIN_LAPSE (09 R209): a pin at its lapse time is released, and PINLAPSE set. -/
def execPinLapse (idx : Nat) (s : State) : Host.Outcome State Fault Refusal :=
  .next (
    match s.pins[idx]? with
    | none => s
    | some p => if s.ns < p.lapse then s else { s with pins := s.pins.eraseIdx idx }.modGroup p.grp (fun g => { g with pinLapse := true }))

end Sys2Proof.Machine
end

