-- ==== Sys2Proof/Machine/System.lean ====
section
/-! DEFINITION. Status registers (spec/02 R53 to R57), the region stack and trace events (16 R366 to R369), and the return from the error handler with its data (16 R358 to R361). -/

namespace Sys2Proof.Machine

/-- Quad of a core within its die (01 R11, 02 R53). -/
def quadInDie (core : Nat) : Nat := core / 4 % 12

/-- FPTRAPEN (02 R54). -/
def Group.fptrapen (g : Group) : Word := BitVec.ofNat 32 ((if g.pinLapse then 1 else 0) <<< 17 ||| (if g.orderReq then 1 else 0) <<< 16 ||| g.trapEn.toNat)

/-- The value of a status register for a thread (02 R53). -/
def Env.csr (e : Env) (t : Thread) (n : Nat) : Dword :=
  let k := e.s.kern? e.grp.kern
  let kv (f : Kernel → Nat) : Dword := BitVec.ofNat 64 ((k.map f).getD 0)
  match n with
  | 0x000 => BitVec.ofNat 64 e.tid
  | 0x001 => BitVec.ofNat 64 (e.tid / 32)
  | 0x002 => BitVec.ofNat 64 (e.tid % 32)
  | 0x003 => BitVec.ofNat 64 e.grp.gidx
  | 0x004 => kv (fun x => x.desc.ngroups)
  | 0x005 => BitVec.ofNat 64 e.grp.gang
  | 0x006 => BitVec.ofNat 64 e.grp.member
  | 0x007 => BitVec.ofNat 64 (e.s.gangSize e.grp)
  | 0x008 => BitVec.ofNat 64 e.grp.threads.length
  | 0x010 => BitVec.ofNat 64 e.iss.core
  | 0x011 => BitVec.ofNat 64 (quadInDie e.iss.core)
  | 0x012 => BitVec.ofNat 64 (dieOf e.iss.core)
  | 0x013 => if t.reloc then 1 else 0
  | 0x020 => BitVec.ofNat 64 e.now
  | 0x021 => BitVec.ofNat 64 e.s.ns
  | 0x030 => e.grp.fpflags.setWidth 64
  | 0x031 => e.grp.fptrapen.setWidth 64
  | 0x032 => e.grp.fpround.setWidth 64
  | 0x040 => t.acause.setWidth 64
  | 0x041 => t.arepairs.setWidth 64
  | 0x050 => t.regtop.setWidth 64
  | 0x051 => t.depth.setWidth 64
  | 0x052 => (e.s.ctx e.grp.ctx).progress.setWidth 64
  | 0x060 => kv (fun x => x.kseq.toNat)
  | 0x061 => BitVec.ofNat 64 e.grp.ctx
  | 0x070 => if e.maint then 1 else 0
  | _ => 0

/-- CSRR (02 R55). -/
def execCsrr (w : F1) (s : State) : Host.Outcome State Fault Refusal :=
  .next (runLocal (.csrr w) s (fun e t =>
    let x := e.csr t w.imm.toNat
    let t1 := if csrWidth w.imm.toNat = some 64 then t.writePair (vnum w.d) x else t.write (vnum w.d) (lowWord x)
    .ok (if w.imm = 0x013 then { t1 with reloc := false } else t1) 0 none))

/-- A group's FPTRAPEN written (02 R54, R56): EN replaced, a 1 clears each status bit. -/
def Group.writeTrapen (g : Group) (x : Word) : Group :=
  { g with trapEn := x.setWidth 7, orderReq := g.orderReq && !x.getLsbD 16, pinLapse := g.pinLapse && !x.getLsbD 17 }

/-- CSRW (02 R56, R57). -/
def execCsrw (w : F1) (s : State) : Host.Outcome State Fault Refusal :=
  .next (runWord (.csrw w) s (fun iss tid s1 => withThread iss tid s1 (fun e t =>
    let x := e.v t (vnum w.a)
    match w.imm.toNat with
    | 0x030 => .done (s1.modGroup iss.grp (fun g => { g with fpflags := x.setWidth 7 })) none
    | 0x031 => .done (s1.modGroup iss.grp (fun g => g.writeTrapen x)) none
    | 0x032 => if 4 < bits x 2 0 then .fault (iss.bad 0x03 0) else .done (s1.modGroup iss.grp (fun g => { g with fpround := x.setWidth 3 })) none
    | 0x041 => .done (s1.setThread iss.grp tid { t with arepairs := x }) none
    | 0x052 => .done (s1.setCtx e.grp.ctx { s1.ctx e.grp.ctx with progress := (s1.ctx e.grp.ctx).progress + 1 }) none
    | _ => .done s1 none)))

/-- A thread that the host has halted precisely stops before its next ENTER or LEAVE (16 R362). -/
def Thread.haltsHere (t : Thread) (precise : Bool) : Bool := precise && t.preciseHalt && !t.stepOver

/-- Threads of the pack whose guard holds at an event instruction and that take it (16 R367); inside a region it aborts instead (10 R224). -/
def State.eventThreads (s : State) (i : Instr) (precise : Bool) : List Nat :=
  match s.issue with
  | none => []
  | some iss =>
    (iss.lanes.map (fun l => l.2)).filter (fun n => ((s.thread? iss.grp n).map (fun t =>
      t.isRunning && t.region.isNone && ((guardOf i).map (fun g => t.guard g)).getD true && !t.haltsHere precise)).getD false)

/-- The event of a pack (16 R367, R369): `who` its threads whose guard holds; REGTOP is that of its lowest thread after the instruction. -/
def State.packEvent (s : State) (who : List Nat) (kind id : Nat) (f : Thread → Thread) : Option TrigEvent :=
  match s.issue with
  | none => none
  | some iss =>
    let low := (iss.lanes.headD (0, 0)).2
    if who.isEmpty then none
    else (s.eventOf iss.core iss.grp who low kind id (((s.thread? iss.grp low).map (fun t => (if who.contains low then f t else t).regtop)).getD 0)).map (fun e => { e with hit := who })

/-- The event may open a window whose trigger halts: its pack waits for what the triggers make of it (16 R362, R369). -/
def State.mayHalt (s : State) (e : TrigEvent) : Bool :=
  (s.ctx e.ctx).trigs.any (fun t => !t.isOpen && t.action.getLsbD 2 && condMet (bits t.cfg 15 12) (bits t.cfg 31 16) e.kind e.id)

/-- What the triggers have made of the event of the pack being issued. -/
def State.answerOf (s : State) : Option EventAnswer := (s.issue.bind (fun iss => s.issuing iss)).bind (fun d => d.sent)

/-- The pack being issued stays at its word, its event with the triggers (16 R362). -/
def State.holdEvent (s : State) : State :=
  match s.issue with
  | none => s
  | some iss =>
    let st := s.stream iss.core iss.stream
    let s1 := s.setStream iss.core iss.stream { st with dispatch := st.dispatch.map (fun d => { d with sent := some .pending }) }
    finishIssue iss { s := s1, faults := [], late := [], held := true, acted := ((s.issuing iss).map (fun d => d.acted)).getD [] }

/-- The word reaches its threads: it has no decode fault, and is not ended by handler mode (02 R43, 16 R358). -/
def State.wordPasses (s : State) (i : Instr) : Bool :=
  match s.issue with
  | none => false
  | some iss =>
    match s.group? iss.grp with
    | none => false
    | some g =>
      let inHandler := ((s.issuing iss).map (fun x => x.handler)).getD false
      (wordFault i g.frame g.accs (s.corOf g) inHandler).isNone && !inHandler

/-- The threads' turns at ENTER, LEAVE, MARK and TRIG: a thread halted precisely stops before the word, and so does every one that a trigger halts; else each thread's stack changes (16 R362, R366). -/
def runStack (i : Instr) (precise : Bool) (halt : Option Nat) (s : State) (f : Thread → Thread) : State :=
  runWord i s (fun iss tid s1 => withThread iss tid s1 (fun _ t =>
    if t.haltsHere precise then .fault (.plain 0x42 0 0)
    else
      match halt with
      | some k => .fault (.plain 0x42 0 (BitVec.ofNat 64 (1 ||| k <<< 1)))
      | none => .done (s1.setThread iss.grp tid { f t with preciseHalt := t.preciseHalt && !precise }) none))

/-- ENTER, LEAVE, MARK and TRIG (16 R362, R366, R367, R369): the pack's event goes to the triggers, and where it may open a window whose trigger halts, the pack waits before the word for what they make of it. -/
def runEvent (i : Instr) (kind id : Nat) (precise : Bool) (s : State) (f : Thread → Thread) : State :=
  let e := if s.wordPasses i then s.packEvent (s.eventThreads i precise) kind id f else none
  match s.answerOf with
  | some .pending => s.holdEvent
  | some (.halt k) => runStack i precise (some k) s f
  | some .go => runStack i precise none s f
  | none => if (e.map s.mayHalt).getD false then (s.tell (e.map (fun x => { x with waits := true }))).holdEvent else runStack i precise none (s.tell e) f

/-- enter of 16 R366. -/
def Thread.enter (t : Thread) (id : BitVec 16) : Thread :=
  { t with stack := if t.depth < 8 then (t.stack.take t.depth.toNat) ++ [id] else t.stack, depth := if t.depth = 0xFFFFFFFF then t.depth else t.depth + 1 }

/-- leave of 16 R366. -/
def Thread.leave (t : Thread) : Thread :=
  let d := if t.depth = 0 then 0 else t.depth - 1
  { t with depth := d, stack := t.stack.take d.toNat }

/-- ENTER (16 R366, R367). -/
def execEnter (w : F1) (s : State) : Host.Outcome State Fault Refusal := .next (runEvent (.enter w) 3 w.imm.toNat true s (fun t => t.enter w.imm))

/-- LEAVE (16 R366, R367). -/
def execLeave (w : F1) (s : State) : Host.Outcome State Fault Refusal := .next (runEvent (.leave w) 4 w.imm.toNat true s (fun t => t.leave))

/-- MARK (16 R367). -/
def execMark (w : F1) (s : State) : Host.Outcome State Fault Refusal := .next (runEvent (.mark w) 2 w.imm.toNat false s (fun t => t))

/-- The context of the word being issued holds TRACE (04 R97). -/
def State.issuerTraces (s : State) : Bool :=
  ((s.issue.bind (fun i => s.group? i.grp)).map (fun g => (s.ctx g.ctx).trace)).getD false

/-- TRIG (16 R367, R369): without TRACE it has no effect (04 R97). -/
def execTrig (w : F1) (s : State) : Host.Outcome State Fault Refusal :=
  .next (if s.issuerTraces then runEvent (.trig w) 1 w.imm.toNat false s (fun t => t) else runWord (.trig w) s (fun _ _ s1 => .done s1 none))

/-- Registers of the width in a poison record (16 R356). -/
def widthRegs (w : Nat) : Nat := if w = 2 then 4 else if w = 1 then 2 else 1

/-- The thread leaves its activation: p0 to p6 and the suspended windows are its own again (16 R359). -/
def Thread.leaveHandler (t : Thread) (h : HandlerCtx) : Thread := { t with p := h.savedP, held := h.savedHeld, handler := none }

/-- Registers the marks of the replaced instruction release (02 R49). -/
def State.replayMarks (s : State) (ctx : Nat) (at_ : Dword) (count dest : Nat) : List Nat :=
  match s.fetch ctx at_ with
  | .error _ => []
  | .ok w => match decode w with
    | .error _ => []
    | .ok i => marksOf (wordMarks i) ((List.range count).map (fun k => dest + k))

/-- I retires with its data replaced (16 R359): a load's destination, a queue entry, or an atomic's result, landing under 02 R46. -/
def Thread.replaced (t : Thread) (h : HandlerCtx) (marks : List Nat) (value : Qword) : Thread :=
  let at_ := h.record.instAddr
  match Operand.ofCode h.dest with
  | .q n => ({ t with q := modifyAt t.q n (fun l => l ++ [{ value := value.setWidth 32, arrived := true, left := h.la + 1 }]) } : Thread).retire marks h.la none (at_ + 8)
  | _ =>
    if h.sizeCode = 8 then t.retire marks h.la none (at_ + 8)
    else
      t.retire marks h.la (some { reg := vnum h.dest, count := if h.sizeCode = 7 then 3 else widthRegs h.width, value := value, tag := none, flags := 0 }) (at_ + 8)

/-- Registers released by the marks of an instruction that ends the thread's activation (02 R49, 16 R359). -/
def Thread.release (t : Thread) (ns : List Nat) : Thread := { t with released := ns ++ t.released.filter (fun r => !ns.contains r) }

/-- FRET (16 R359). -/
def execFret (w : F0) (s : State) : Host.Outcome State Fault Refusal :=
  let who := s.eventThreads (.fret w) false
  .next (runWord (.fret w) s (fun iss tid s1 => withThread iss tid s1 (fun e t =>
    match t.handler with
    | none => .out s1
    | some h =>
      let clear := who.all (fun n => ((s.thread? iss.grp n).map (fun x => x.closeWindows.land.held.isEmpty)).getD true)
      let t0 : Thread := t.closeWindows.land
      let t1 : Thread := { t0 with q := t.q }
      if !clear then .hold (s1.setThread iss.grp tid t1)
      else
        let mode := lo2 w.x
        let n := widthRegs h.width
        let dead := if (wordMarks (.fret w)).any (fun x => x.1) then (List.range n).map (fun k => vnum w.a + k) else []
        if mode = 2 then .out (s1.setThread iss.grp tid ((t1.leaveHandler h).waitAt h.record.instAddr e.now))
        else if mode = 1 ∨ vnum w.a % n ≠ 0 then
          let s2 := s1.setThread iss.grp tid ((t1.release dead).blockAt .handler h.record.instAddr e.now)
          .out (if who.getLast? = some tid then s2.failHandler iss.grp who else s2)
        else
          let value : Qword := if n = 4 then e.quad t1 (vnum w.a) else if n = 2 then (e.pair t1 (vnum w.a)).setWidth 128 else (e.v t1 (vnum w.a)).setWidth 128
          let marks := s1.replayMarks e.grp.ctx h.record.instAddr n (vnum h.dest)
          .out (s1.setThread iss.grp tid ((((t1.release dead).leaveHandler h).replaced h marks value).waitAt (h.record.instAddr + 8) e.now)))))

/-- What FREAD reads of a handler's record and data (16 R360); outside handler mode, zeros. -/
def Thread.handlerData (t : Thread) (n : Nat) : Qword :=
  match t.handler with
  | none => 0
  | some h => if !h.active then 0 else if n = 8 then h.data else BitVec.ofNat 128 (h.record.toNat >>> (64 * n) % 2 ^ 64)

/-- FREAD (16 R360). -/
def execFread (w : F0) (s : State) : Host.Outcome State Fault Refusal :=
  .next (runLocal (.fread w) s (fun _ t =>
    let n := (w.x.extractLsb' 0 4).toNat
    if n = 8 then .ok (t.writeQuad (vnum w.d) (t.handlerData 8)) 0 none
    else .ok (t.writePair (vnum w.d) ((t.handlerData n).setWidth 64)) 0 none))

end Sys2Proof.Machine
end

