-- ==== Sys2Proof/Machine/Debug.lean ====
section
/-! DEFINITION. The host debug interface (spec/16 R362 to R365), triggers' configuration (R369), stall sampling (R370 to R372) and causal trials (R373). -/

namespace Sys2Proof.Machine

/-- Result of a debug operation (16 R363). -/
def State.dbgDone (s : State) (err : Nat) : State := { s with bar := { s.bar with dbgErr := err } }

/-- A write of DBGCMD (16 R363; 19 R400): `op` is the event's operation; `right` says whether a context may have it done. -/
def State.debug (s0 : State) (w : Dword) (op : Nat) (right : Ctx → Bool) (f : State → Nat → State × Nat) : State :=
  let o := bits w 7 0
  if !s0.barUp || s0.tripped then s0
  else
    let s := s0.wakePort 0
    if s.boot < 6 ∨ s.bar.dbgHalt ≠ [] then s.dbgDone 4
    else if bits w 63 16 ≠ 0 ∨ o = 0 ∨ 10 < o then s.dbgDone 5
    else if o ≠ op then s0
    else if !right (s.ctx (bits w 15 8)) then s.dbgDone 1
    else
      let (s1, e) := f s (bits w 15 8)
      s1.dbgDone e

/-- The group of the group address (16 R364): its number and thread. -/
def State.dbgGroup (s : State) (ctx : Nat) : Option (Nat × Group × Nat) :=
  let kseq : Word := s.bar.dbgarg0.setWidth 32
  let gidx := bits s.bar.dbgarg1 47 24
  (s.groups.find? (fun g => g.2.ctx == ctx && g.2.gidx == gidx && decide ((s.kern? g.2.kern).map (fun k => k.kseq) = some kseq))).map (fun g => (g.1, g.2, bits s.bar.dbgarg1 23 14))

/-- Live members of a group's gang, with the groups as they are. -/
def State.gangOf (s : State) (g : Group) : List Nat := ((s.gang? g.kern g.gang).map (fun x => s.liveMembers x)).getD []

/-- Records of a halt (16 R356, R362): for each address, one for each pack its threads would form. -/
def State.haltRecords (s : State) (gid : Nat) : State :=
  match s.group? gid with
  | none => s
  | some g =>
    let mine := (g.threads.zipIdx.filter (fun (t : Thread × Nat) => decide (t.1.cond = .waiting))).map (fun (t : Thread × Nat) => (t.1.addr, t.2))
    (distinct (mine.map (fun e => e.1))).foldl (fun (a : State) addr =>
      (packsOf ((mine.filter (fun e => decide (e.1 = addr))).map (fun e => e.2))).foldl (fun (b : State) lanes =>
        b.toContain g.ctx { record := b.faultRec g lanes addr (.plain 0x42 0 0) 3, grp := some gid, kern := some g.kern, tids := lanes.map (fun l => l.2), after := false, level := 0, engine := false }) a) s

/-- A thread that waits is blocked for the debugger; one that is blocked for another reason stops when that reason ends, before its next instruction (16 R362; log 31). -/
def Thread.debugBlock (t : Thread) (clock : Nat) : Thread :=
  if t.cond = .waiting then { t.blockAt .debug t.addr clock with stop := 4 }
  else if t.cond = .exited ∨ t.cond = .blocked .debug then t
  else { t with haltReq := some 4 }

/-- A group halted at once (16 R361, R362; 07 R142; 10 R240): open regions abort, running threads wait where they are, and every waiting thread is blocked. -/
def State.debugHalt (s : State) (gid : Nat) : State :=
  match s.group? gid with
  | none => s
  | some g =>
    let s1 := (List.range g.threads.length).foldl (fun (a : State) t => a.abortRegion gid t 1 2 0) s
    let s2 := if g.resident then s1.haltGroup gid else s1
    (s2.haltRecords gid).modGroup gid (fun x => ({ x with threads := x.threads.map (fun t => t.debugBlock (s.clock g.core)) } : Group).retable)

/-- A thread of some groups has a decided commit (10 R230, R240). -/
def State.anyCommits (s : State) (gids : List Nat) : Bool := gids.any (fun n => ((s.group? n).map (fun x => x.threads.any (fun t => t.committing))).getD false)

/-- A HOST HALT that waited for a decided commit stops its groups once the commit is done, in the next cycle, while the context still holds DEBUG (10 R240; 16 R362). -/
def State.finishHalt (s : State) : State :=
  if s.bar.dbgHalt = [] || s.anyCommits s.bar.dbgHalt then s
  else
    let s1 := s.bar.dbgHalt.foldl (fun (a : State) n => if ((a.group? n).map (fun x => (a.ctx x.ctx).debug)).getD false then a.debugHalt n else a) s
    { s1 with bar := { s1.bar with dbgHalt := [] } }

/-- HOST HALT (16 R362, R364): the gang of the group, at once or precisely. It waits for a decided commit, BUSY meanwhile (10 R240; 16 R363). -/
def execHostHalt (w : Dword) (s : State) : Host.Outcome State Fault Refusal :=
  .next (s.debug w 1 (fun c => c.debug) (fun s ctx =>
    match s.dbgGroup ctx with
    | none => (s, 3)
    | some (_, g, _) =>
      let live := s.gangOf g
      if s.bar.dbgarg1.getLsbD 0 then
        (live.foldl (fun (a : State) n => a.modGroup n (fun x => { x with threads := x.threads.map (fun t => if t.cond = .exited then t else { t with preciseHalt := true }) })) s, 0)
      else if s.anyCommits live then ({ s with bar := { s.bar with dbgHalt := live } }, 0)
      else (live.foldl (fun (a : State) n => a.debugHalt n) s, 0)))

/-- RESUME (16 R361, R362, R364). -/
def execDebugResume (w : Dword) (s : State) : Host.Outcome State Fault Refusal :=
  .next (s.debug w 2 (fun c => c.debug) (fun s ctx =>
    match s.dbgGroup ctx with
    | none => (s, 3)
    | some (_, g, _) =>
      ((s.gangOf g).foldl (fun (a : State) n => (a.modGroup n (fun x => ({ x with threads := x.threads.map (fun t => t.goOn (s.clock x.core)) } : Group).retable)).reactivate n) s, 0)))

/-- 512 bits of eight doublewords. -/
def dataOf (l : List Nat) : BitVec 512 := BitVec.ofNat 512 ((l.zipIdx.map (fun (e : Nat × Nat) => (e.1 % 2 ^ 64) <<< (64 * e.2))).foldl (fun a b => a + b) 0)

/-- Doubleword k of DBGDATA. -/
def State.dbgWord (s : State) (k : Nat) : Dword := s.bar.dbgdata.extractLsb' (64 * k) 64

/-- Object 1 of 16 R365. -/
def Thread.object1 (t : Thread) : List Nat :=
  [t.waitWord.toNat, (t.retry % 256) <<< 32 ||| (t.held.length % 256) <<< 16 ||| 0x80 ||| t.p.toNat, t.sq.toNat <<< 32 ||| t.spill % 2 ^ 32, t.depth.toNat]

/-- Object 4 of 16 R365. -/
def Group.object4 (g : Group) (t : Thread) : List Nat :=
  [g.fptrapen.toNat <<< 32 ||| g.fpflags.toNat, t.acause.toNat <<< 32 ||| g.fpround.toNat, (if t.reloc then 1 else 0) <<< 32 ||| t.arepairs.toNat, t.depth.toNat <<< 32 ||| t.regtop.toNat, g.key.toNat,
    (if g.fpPending.isSome then 1 else 0), ((g.fpPending.map (fun (p : Dword × Nat) => p.1)).getD 0).toNat]

/-- A trigger record (16 R365, object 5). -/
def Trigger.record (t : Trigger) : List Nat := [(if t.isOpen then 1 else 0), t.windows.toNat, t.emptyWin.toNat, t.cfg.toNat, t.action.toNat <<< 4]

/-- A trial's counters (16 R365, object 6). -/
def Trial.record (t : Trial) : List Nat := [t.dsum.toNat, t.streamCyc.toNat, t.cfg.toNat, (if t.en then 1 else 0)]

/-- The object a READ asks for (16 R364, R365), as DBGDATA, or an error. Saved-image bytes for which the spec names no content are free (log 25). -/
def State.object (s : State) (g : Group) (gid : Nat) (t : Thread) (obj index : Nat) : Except Nat (BitVec 512) :=
  match obj with
  | 0 => .ok (BitVec.ofNat 512 (((List.range 16).map (fun k => (if index + k < g.frame then (t.v.get (index + k)).toNat else 0) <<< (32 * k))).foldl (fun a b => a + b) 0))
  | 1 => .ok (dataOf t.object1)
  | 2 => match s.bar? (g.owner gid) index with
    | some b => .ok (BitVec.ofNat 512 b.record)
    | none => .error 2
  | 3 =>
    if g.resident then .error 3
    else .ok (BitVec.ofNat 512 (natOfBytes ((List.range 64).map (fun k =>
      (((s.gang? g.kern g.gang).bind (fun x => s.gangByte x (64 * index + k))).getD (Config.freeByte s.choiceCtr k) : Byte)))))
  | 4 => .ok (dataOf (g.object4 t))
  | _ => .error 2

/-- DEBUG_READ (16 R364, R365): objects 5 and 6 belong to the context, and PROFILE gives them too. -/
def execDebugRead (w : Dword) (s : State) : Host.Outcome State Fault Refusal :=
  let obj := bits s.bar.dbgarg1 63 60
  let index := bits s.bar.dbgarg0 63 32
  let put (a : State) (x : BitVec 512) : State × Nat := ({ a with choiceCtr := a.choiceCtr + 1, bar := { a.bar with dbgdata := x } }, 0)
  .next (s.debug w 3 (fun c => c.debug || ((obj == 5 || obj == 6) && c.profile)) (fun s ctx =>
    if obj = 5 then
      match (s.ctx ctx).trigs[index]? with
      | some t => put s (dataOf t.record)
      | none => (s, 2)
    else if obj = 6 then put s (dataOf (s.ctx ctx).trial.record)
    else if 6 < obj then (s, 2)
    else
      match s.dbgGroup ctx with
      | none => (s, 3)
      | some (gid, g, tid) =>
        match g.threads[tid]? with
        | none => (s, 2)
        | some t =>
          match s.object g gid t obj index with
          | .ok x => put s x
          | .error e => (s, e)))

/-- 64 bytes of a gang's image written by a debugger (16 R365): what they hold, and the image in its save slot with it (log 26); none for a value that may not be written. -/
def State.imageEdit (s : State) (g : Group) (off clock : Nat) (bytes : List Byte) : Option State :=
  let put (a : State) : State := ((a.gang? g.kern g.gang).map (fun x => a.savePut g.ctx x off 64)).getD a
  match s.gang? g.kern g.gang with
  | none => some s
  | some x =>
    if off < 4096 then (x.ofArea (areaWrite x.area off bytes)).map (fun y => put (s.modGang g.kern g.gang (fun _ => y)))
    else
      match s.imageGroup x off with
      | none => some s
      | some (n, o) => match s.group? n with
        | none => some s
        | some y => (y.imageWrite o bytes clock).map (fun z => put (s.setGroup n z.retable))

/-- An object written from DBGDATA (16 R365), or an error that leaves everything as it was. -/
def State.putObject (s : State) (g : Group) (gid tid : Nat) (t : Thread) (obj index : Nat) : Except Nat State :=
  let d (k : Nat) : Dword := s.dbgWord k
  let clock := s.clock g.core
  let setT (x : Thread) : State := s.setGroup gid ({ g with threads := g.threads.set tid x } : Group).retable
  match obj with
  | 0 =>
    if g.frame < index + 16 then .error 2
    else .ok (setT ((List.range 16).foldl (fun (a : Thread) k => a.setV (index + k) (s.bar.dbgdata.extractLsb' (32 * k) 32)) t))
  | 1 =>
    if !waitOk (d 0) then .error 2
    else .ok (setT { t.setWait (d 0) clock with p := (d 1).setWidth 7, sq := highWord (d 2) })
  | 3 =>
    if g.resident then .error 3
    else
      match s.imageEdit g (64 * index) clock ((List.range 64).map (fun k => (s.bar.dbgdata.extractLsb' (8 * k) 8 : Byte))) with
      | some s1 => .ok s1
      | none => .error 2
  | 4 =>
    if 4 < bits (d 1) 2 0 then .error 2
    else
      let g1 := ({ g with fpflags := (d 0).setWidth 7, fpround := (d 1).setWidth 3, key := d 4 } : Group).writeTrapen (highWord (d 0))
      .ok (s.setGroup gid { g1 with threads := g1.threads.set tid { t with arepairs := lowWord (d 2) } })
  | _ => .error 2

/-- DEBUG_WRITE (16 R364, R365; 11 R245). -/
def execDebugWrite (w : Dword) (s : State) : Host.Outcome State Fault Refusal :=
  .next (s.debug w 4 (fun c => c.debug) (fun s ctx =>
    let obj := bits s.bar.dbgarg1 63 60
    if obj = 2 ∨ 4 < obj then (s, 2)
    else
      match s.dbgGroup ctx with
      | none => (s, 3)
      | some (gid, g, tid) =>
        match g.threads[tid]? with
        | none => (s, 2)
        | some t =>
          match s.putObject g gid tid t obj (bits s.bar.dbgarg0 63 32) with
          | .ok s1 => (s1, 0)
          | .error e => (s, e)))

/-- A context's record changed by a debug operation. -/
def State.editCtx (s : State) (ctx : Nat) (f : Ctx → Ctx) : State × Nat := (s.setCtx ctx (f (s.ctx ctx)), 0)

/-- SETBP (16 R362, R364). -/
def execSetbp (w : Dword) (s : State) : Host.Outcome State Fault Refusal :=
  .next (s.debug w 5 (fun c => c.debug) (fun s ctx =>
    if bits s.bar.dbgarg0 2 0 ≠ 0 then (s, 2) else s.editCtx ctx (fun c => { c with bps := c.bps.set (bits s.bar.dbgarg1 2 0) (some s.bar.dbgarg0) })))

/-- CLRBP (16 R364). -/
def execClrbp (w : Dword) (s : State) : Host.Outcome State Fault Refusal :=
  .next (s.debug w 6 (fun c => c.debug) (fun s ctx => s.editCtx ctx (fun c => { c with bps := c.bps.set (bits s.bar.dbgarg1 2 0) none })))

/-- SETWP (16 R362, R364): a length of 1 to 65,536 bytes. -/
def execSetwp (w : Dword) (s : State) : Host.Outcome State Fault Refusal :=
  .next (s.debug w 7 (fun c => c.debug) (fun s ctx =>
    let a := s.bar.dbgarg1
    let len := bits a 63 32
    if len = 0 ∨ 65536 < len then (s, 2)
    else s.editCtx ctx (fun c => { c with wps := c.wps.set (bits a 1 0) (some { base := s.bar.dbgarg0, len := len, load := a.getLsbD 4, store := a.getLsbD 5, atomic := a.getLsbD 6 }) })))

/-- CLRWP (16 R364). -/
def execClrwp (w : Dword) (s : State) : Host.Outcome State Fault Refusal :=
  .next (s.debug w 8 (fun c => c.debug) (fun s ctx => s.editCtx ctx (fun c => { c with wps := c.wps.set (bits s.bar.dbgarg1 1 0) none })))

/-- TRIGCFG (16 R369): the trigger is closed and keeps its counters; a condition code above 5 is a bad argument. -/
def execTrigcfg (w : Dword) (s : State) : Host.Outcome State Fault Refusal :=
  .next (s.debug w 9 (fun c => c.trace) (fun s ctx =>
    let a := s.bar.dbgarg0
    if 5 < bits a 47 44 ∨ 5 < bits a 15 12 then (s, 2)
    else s.editCtx ctx (fun c => { c with trigs := modifyAt c.trigs (bits s.bar.dbgarg1 1 0) (fun t => { t with isOpen := false, cfg := a, action := s.bar.dbgarg1.extractLsb' 4 3 }) })))

/-- TRIAL (16 R373, R375): EN 1 clears the counters, those of the streams too; N of 0 is a bad argument. -/
def execTrial (w : Dword) (s : State) : Host.Outcome State Fault Refusal :=
  .next (s.debug w 10 (fun c => c.profile) (fun s ctx =>
    let a := s.bar.dbgarg0
    let en := s.bar.dbgarg1.getLsbD 0
    if bits a 31 16 = 0 then (s, 2)
    else
      let (s1, e) := s.editCtx ctx (fun c => { c with trial := { en := en, cfg := a, dsum := if en then 0 else c.trial.dsum, streamCyc := if en then 0 else c.trial.streamCyc } })
      (if en then { s1 with cores := s1.cores.map (fun c => (c.1, { c.2 with streams := c.2.streams.map (fun st => { st with trialCount := 0, trialCtx := none }) })) } else s1, e)))

/-- TRIAL_DELAY (16 R373): the stream's counter has reached the N of the context that counted last; it returns to 0, and D cycles without an issue begin. -/
def execTrialDelay (core stream : Nat) (s : State) : Host.Outcome State Fault Refusal :=
  .next (
    let st := s.stream core stream
    match st.trialCtx with
    | none => s
    | some k =>
      let c := s.ctx k
      let n := bits c.trial.cfg 31 16
      let d := bits c.trial.cfg 47 32
      if !c.trial.en || !c.profile || decide (n = 0 ∨ st.trialCount < n ∨ 2 ≤ stream) then s
      else
        let s1 := s.setCtx k { c with trial := { c.trial with dsum := c.trial.dsum + BitVec.ofNat 64 d } }
        s1.setStream core stream { st with trialCount := 0, trialDelay := s.clock core + d, trialCtx := none })

/-- Words whose results come from a unit or an engine, for a sample's class (16 R372): special functions and division, engine and page instructions. -/
def engineWait (i : Instr) : Bool :=
  match i with
  | .fdiv _ | .fsqrt _ | .frcp _ | .frsq _ | .fexp2 _ | .flog2 _ | .fsin _ | .fcos _ | .ftanh _ | .fsigm _ => true
  | .mma _ | .mzero _ | .mrng _ | .mldb _ | .mdrain _ | .cpy _ | .cpyx _ | .cpywp _ | .cpyseq _ | .cpyseqStat _ | .cpycan _ => true
  | .pgstat _ | .leaseq _ | .leaseqVa _ | .pghint _ => true
  | _ => false

/-- Class of a wait on the word at an address (16 R372): 2 memory, 5 engine. -/
def State.waitClass (s : State) (ctx : Nat) (a : Dword) : Nat :=
  match s.fetch ctx a with
  | .error _ => 2
  | .ok w => match decode w with
    | .ok i => if engineWait i then 5 else 2
    | .error _ => 2

/-- What a sample says of a group: class, address, population, index, the lowest thread concerned. -/
structure SampleOf where
  cls : Nat
  addr : Dword
  pop : Nat
  index : Nat
  low : Option Nat

/-- Packs that the next word of a dispatch may go to: all that it has still to go to, or the first alone for a word that takes packs in order (07 R146). -/
def State.nextPacks (s : State) (core ctx : Nat) (d : Dispatch) : List Nat :=
  match (s.wordOf d ctx).toOption.map (decodeOn core) with
  | some (.ok i) => if ordersPacks i then d.todo.take 1 else d.todo
  | _ => d.todo

/-- The stalled dispatch of a group on a stream (16 R372, rule 2): no pack can take its next word for a held write (07 R146), or the last issue held the pack. -/
def State.stalledOn (s : State) (core stream gid ctx : Nat) : Option SampleOf :=
  match (s.stream core stream).dispatch with
  | none => none
  | some d =>
    if d.grp ≠ gid then none
    else
      let make (k cls : Nat) : SampleOf := { cls := cls, addr := d.entry, pop := (d.packs.getD k []).length, index := d.index, low := ((d.packs.getD k []).head?).map (fun l => l.2) }
      let next := s.nextPacks core ctx d
      match next.head? with
      | none => none
      | some k =>
        if next.any (s.packReady d) then (if d.stuck then some (make k (s.waitClass ctx d.pc)) else none)
        else
        let held := (d.packs.getD k []).findSome? (fun l => (s.thread? gid l.2).bind (fun t => (t.held.find? (fun h => h.left == 0)).map (fun h => h.at_)))
        some (make k ((held.map (fun a => s.waitClass ctx a)).getD 2))

/-- Sample class of a block reason (07 R139). -/
def Reason.sampleClass (r : Reason) : Nat :=
  match r with
  | .barrier => 3
  | .queue => 4
  | .nap => 3
  | .page => 2
  | .contain => 6
  | .handler => 6
  | .debug => 6

/-- The longest-blocked thread of a group, with its index. -/
def Group.longestBlocked (g : Group) : Option (Thread × Nat × Reason) :=
  (g.threads.zipIdx.filterMap (fun (t : Thread × Nat) => match t.1.cond with
    | .blocked r => some (t.1, t.2, r)
    | _ => none)).foldl (fun (b : Option (Thread × Nat × Reason)) e => match b with
      | none => some e
      | some x => if e.1.since < x.1.since then some e else some x) none

/-- The classification of a group (16 R372), by the first rule that applies. -/
def State.classify (s : State) (core gid : Nat) (g : Group) : SampleOf :=
  let now := s.clock core
  let issued (k : Nat) : Option SampleOf := match (s.stream core k).last with
    | some l => if l.grp = gid ∧ l.clock = now then some { cls := 0, addr := l.entry, pop := l.pop, index := l.index, low := some l.low } else none
    | none => none
  let oldest := (s.groupEntries gid g now).foldl (fun (b : Option Entry) e => match b with
    | none => some e
    | some x => if x.age < e.age then some e else some x) none
  match (issued 0).orElse (fun _ => issued 1) with
  | some x => x
  | none =>
    match (s.stalledOn core 0 gid g.ctx).orElse (fun _ => s.stalledOn core 1 gid g.ctx) with
    | some x => x
    | none =>
      match oldest with
      | some e => { cls := 1, addr := e.addr, pop := e.pop, index := 0, low := (s.runnable g e.addr).head? }
      | none =>
        match g.longestBlocked with
        | some (t, n, r) => { cls := if t.haltReq = some 4 then 6 else r.sampleClass, addr := t.addr, pop := (g.threads.filter (fun x => decide (x.addr = t.addr) && (match x.cond with | .blocked _ => true | _ => false))).length, index := 0, low := some n }
        | none => { cls := 7, addr := 0, pop := 0, index := 0, low := none }

/-- A sample record (16 R371). -/
def State.sampleBody (s : State) (core ctx slot gidx : Nat) (x : SampleOf) (regtop : Word) : Nat :=
  s.ns % 2 ^ 64 + (bits x.addr 56 0 <<< 64) + ((ctx <<< 44 ||| core <<< 35 ||| slot <<< 32 ||| x.cls <<< 24 ||| (x.pop % 256) <<< 16 ||| x.index % 65536) <<< 128) + ((gidx <<< 32 ||| regtop.toNat) <<< 192)

/-- The group a core samples next (16 R370): the next slot after the last one taken, wrapping. -/
def State.sampleGroup (s : State) (core : Nat) : Option (Nat × Group) :=
  let l := inOrder (fun a b => decide (a.2.slot ≤ b.2.slot)) (s.residents core)
  match (s.core core).sampleSlot with
  | none => l.head?
  | some k => (l.find? (fun e => decide (k < e.2.slot))).orElse (fun _ => l.head?)

/-- The cycle of a core in which its next sample falls (16 R370). -/
def State.sampleDue (s : State) (core : Nat) : Nat := s.bar.sampStart.getD (dieOf core) 0 + s.bar.period * ((s.core core).sampleNext + 1)

/-- A core's sample in the present cycle (16 R370, R371); one that is not taken takes its group's place in the rotation, and a gated quad gives none (19 R395). -/
def State.sample (s : State) (core : Nat) : State :=
    let c := s.core core
    let s1 := s.setCore core { c with sampleNext := c.sampleNext + 1 }
    if s.bar.qgate.getLsbD (quadOf core) then s1
    else
      let put (a : State) (body : Nat) : State := a.ringWrite (s.bar.sampbase.toNat + 32 * core) 32 body
      match s1.sampleGroup core with
      | none => if s.bar.gated then s1 else put s1 (s1.sampleBody core 0 0 0 { cls := 7, addr := 0, pop := 0, index := 0, low := none } 0)
      | some (gid, g) =>
        let s2 := s1.setCore core { s1.core core with sampleSlot := some g.slot }
        let x := s.ctx g.ctx
        let open_ := x.trigs.any (fun t => t.isOpen && t.action.getLsbD 1)
        if !x.profile || (s.bar.gated && !open_) then s2
        else
          let r := s.classify core gid g
          put s2 (s.sampleBody core g.ctx g.slot g.gidx r (((r.low.bind (fun t => g.threads[t]?)).map (fun t => t.regtop)).getD 0))

/-- SAMPLE (16 R370): a core's sample, in the cycle it falls in. -/
def execSample (core : Nat) (s : State) : Host.Outcome State Fault Refusal :=
  .next (if !s.registrarUp || decide (Config.cores ≤ core ∨ s.bar.period = 0 ∨ s.clock core < s.sampleDue core) then s else s.sample core)

/-- Ticks until a die's cycle count reads `k`; 0 once it does. -/
def Die.ticksTo (d : Die) (k : Nat) : Nat := if k ≤ d.clock then 0 else (k - d.clock) * Config.coreTicks d.level - d.frac

/-- Cores whose sample falls in a cycle that ends within `n` ticks, with the ticks until that cycle begins (16 R370). -/
def State.samplesWithin (s : State) (n : Nat) : List (Nat × Nat) :=
  (List.range Config.cores).filterMap (fun c =>
    let d := s.die (dieOf c)
    if d.ticksTo (s.sampleDue c + 1) ≤ n then some (c, d.ticksTo (s.sampleDue c)) else none)

/-- `n` ticks pass, and each core's sample is taken in its cycle, at the latest as that cycle ends (16 R370). -/
def State.passSamples : Nat → State → Nat → State
  | 0, s, n => s.advance n
  | fuel + 1, s, n =>
    let due := s.samplesWithin n
    match due with
    | [] => s.advance n
    | e :: rest =>
      let b := rest.foldl (fun m x => Min.min m x.2) e.2
      passSamples fuel ((due.filter (fun x => x.2 == b)).foldl (fun (a : State) x => a.sample x.1) (if b = 0 then s else s.advance b)) (n - b)

/-- Time passes by itself: samples that fall due are taken (16 R370), L1 lines are displaced (07 R141, R154), and a HOST HALT that waited may stop its groups (10 R240). -/
def State.passTime (s : State) (n : Nat) : State :=
  (if s.bar.period = 0 || !s.registrarUp then s.advance n else State.passSamples (n + 1) s n).displace.finishHalt

end Sys2Proof.Machine
end

