-- ==== Sys2Proof/Machine/Atomic.lean ====
section
/-! DEFINITION. The atomic instructions (spec/09 R212 to R218; 12 R263, R269): ATOM, CAS, RED, ENQ and DEQ, each one indivisible action of a thread. -/

namespace Sys2Proof.Machine

/-- Release and acquire of an atomic (09 R215, R218): sequentially consistent in service mode, under the order field in maintenance mode. -/
def Env.atomOrders (e : Env) (w : F0) (red : Bool) : Bool × Bool :=
  let o := atomOrder w
  if red then (o == 3, false)
  else if e.maint then (o == 0 || o == 3 || o == 4, o == 0 || o == 2 || o == 4)
  else (true, true)

/-- ORDERREQ is set by an order field other than 0 in service mode (09 R218). -/
def Env.markOrder (e : Env) (w : F0) (red : Bool) (s : State) : State :=
  if red || e.maint || atomOrder w == 0 then s else s.modGroup e.iss.grp (fun g => { g with orderReq := true })

/-- The ranges bound to a lock word at a global address, when the atomic orders them (12 R263). -/
def Env.lockRanges (e : Env) (w : F0) (red : Bool) (space va : Nat) : Except TFault (List Bound) :=
  let o := e.atomOrders w red
  if space ≠ 0 ∨ !(o.1 || o.2) then .ok []
  else (e.s.bindTable e.grp.ctx).map (fun tab => boundRanges tab false va)

/-- A queued store of the thread to one of some global places. -/
def Env.ownStore (e : Env) (ls : List (Loc × Nat)) (x : WqEntry) : Bool :=
  x.grp == e.iss.grp && x.tid == e.tid && ls.any (fun l => match l.1 with
    | .mem _ pa => x.overlaps pa l.2
    | _ => false)

/-- The stores an atomic performs first: those it releases, at their bindings' scopes, and those to its own places (09 R189; 12 R263, R265). None while one is held back, or while an exclusive attempt holds a line it writes (10 R237). -/
def Env.atomStart (e : Env) (w : F0) (red : Bool) (rs : List Bound) (ls : List (Loc × Nat)) : Option State :=
  if ls.any (fun l => e.s.locHeld e.iss.core l.1 (some (e.iss.grp, e.tid))) then none
  else
    let freed := if (e.atomOrders w red).1 then rs else []
    (e.s.widenBound e.iss.grp e.tid freed).drainAt e.iss.core (fun x => if e.ownStore ls x then some 4 else if x.grp == e.iss.grp && x.tid == e.tid then x.boundScope freed else none)

/-- The page of an atomic's place is marked DIRTY as its check passes (14 R310). -/
def Env.atomMark (e : Env) (l : Loc) (s : State) : State :=
  match l with
  | .mem va _ => s.markDirty e.grp.ctx va
  | _ => s

/-- The read part of an atomic's action at its place (12 R269), with the issuing core's L1 line of it invalidated (09 R217). It returns the latest of the coherence order, which from now on every party reads: what it has returned, a later load of its thread must not go behind (12 R260). -/
def Env.atomTouch (e : Env) (scope : Nat) (l : Loc) (at_ n : Nat) (s : State) : State :=
  match l with
  | .cell _ _ true => s.l1Range e.iss.core e.grp.ctx at_ n
  | .mem va pa => ((s.dirAtomic (dieOf e.iss.core) pa n scope).widen pa n).l1Drop e.iss.core (fun x => x.ctx == e.grp.ctx && x.line == va / 128)
  | _ => s

/-- Bytes of an atomic's action written at its place, for every party (12 R260). -/
def atomPut (l : Loc) (off : Nat) (bs : List Byte) (s : State) : State :=
  match l with
  | .mem _ pa => { s with hbm := s.hbm.write (pa + off) bs }.widen (pa + off) bs.length
  | .cell g o _ => s.scratchWrite g (o + off) bs
  | .frame _ => s

/-- What an acquire of an atomic invalidates. -/
def Env.atomEnd (e : Env) (w : F0) (red : Bool) (rs : List Bound) (s : State) : State :=
  e.markOrder w red (if (e.atomOrders w red).2 then s.acquire e.iss.core e.grp.ctx rs else s)

/-- An atomic on one location (09 R217): `f` gives the new value from the old one, `k` the result. `code` is the size code of a replaced result. -/
def Env.atomic (e : Env) (t : Thread) (w : F0) (red : Bool) (code : Nat) (f : Nat → Option Nat) (k : Nat → Option LongRes) : Turnout :=
  let size := if w.ty.wide then 8 else 4
  match e.place t (lo2 w.x) (vnum w.a) 0 size .store 2 with
  | .error x => .fault x
  | .ok (l, va) =>
    match e.lockRanges w red (lo2 w.x) va with
    | .error x => .fault x
    | .ok rs =>
      match e.watched t (lo2 w.x) va size 2 with
      | some x => .fault x
      | none =>
      if e.s.locPoisoned l then .fault (e.poisonFault va size (if w.ty.wide then 1 else 0) code w.la.toNat w.d)
      else
        match e.atomStart w red rs [(l, size)] with
        | none => .hold e.s
        | some s1 =>
          let s2 := e.atomTouch (atomScope w) l va size (e.atomMark l s1)
          let old := natOfBytes (s2.currentBytes l size)
          let s3 := match f old with
            | some v => atomPut l 0 (bytesOfNat v size) s2
            | none => s2
          .done (e.atomEnd w red rs s3) (k old)

/-- Operand at n + 2 of an atomic (09 R212). -/
def Env.atomOpnd (e : Env) (t : Thread) (w : F0) : Nat := if w.ty.wide then (e.pair t (vnum w.a + 2)).toNat else (e.v t (vnum w.a + 2)).toNat

/-- The new value of an integer operation on n bits (09 R213). -/
def atomInt (n op : Nat) (t : Ty) (old x : BitVec n) : BitVec n :=
  match op with
  | 0 => old + x
  | 1 => old &&& x
  | 2 => old ||| x
  | 3 => old ^^^ x
  | 4 => x
  | 5 => pickBy t false old x
  | _ => pickBy t true old x

/-- The new value of a floating-point operation: RNE, no flags (09 R213). -/
def atomFloat (op : Nat) (t : Ty) (old x : Word) : Word :=
  (perElem t (fun k =>
    let a := elemOf t old k
    let b := elemOf t x k
    match op with
    | 7 => fadd (arithFmt t) .rne a b
    | 8 => fminmax (arithFmt t) false a b
    | _ => fminmax (arithFmt t) true a b)).1

/-- The new value of ATOM and RED (09 R213). -/
def atomNew (op : Nat) (t : Ty) (old x : Nat) : Nat :=
  if 7 ≤ op then (atomFloat op t (BitVec.ofNat 32 old) (BitVec.ofNat 32 x)).toNat
  else if t.wide then (atomInt 64 op t (BitVec.ofNat 64 old) (BitVec.ofNat 64 x)).toNat
  else (atomInt 32 op t (BitVec.ofNat 32 old) (BitVec.ofNat 32 x)).toNat

/-- The old value as the instruction's result (09 R213). -/
def atomResult (w : F0) (old : Nat) : Option LongRes :=
  some { reg := vnum w.d, count := if w.ty.wide then 2 else 1, value := BitVec.ofNat 128 old, tag := none, flags := 0 }

/-- ATOM (09 R213). -/
def execAtom (w : F0) (s : State) : Host.Outcome State Fault Refusal :=
  .next (runWord (.atom w) s (fun iss tid s1 => withThread iss tid s1 (fun e t =>
    e.atomic t w false (if w.ty.wide then 5 else 4) (fun old => some (atomNew (atomOp w) w.ty old (e.atomOpnd t w))) (atomResult w))))

/-- CAS (09 R214). -/
def execCas (w : F0) (s : State) : Host.Outcome State Fault Refusal :=
  .next (runWord (.cas w) s (fun iss tid s1 => withThread iss tid s1 (fun e t =>
    let new := if w.ty.wide then (e.pair t (vnum w.d)).toNat else (e.v t (vnum w.d)).toNat
    e.atomic t w false (if w.ty.wide then 5 else 4) (fun old => if old = e.atomOpnd t w then some new else none) (atomResult w))))

/-- RED (09 R215). -/
def execRed (w : F0) (s : State) : Host.Outcome State Fault Refusal :=
  .next (runWord (.red w) s (fun iss tid s1 => withThread iss tid s1 (fun e t =>
    e.atomic t w true 8 (fun old => some (atomNew (atomOp w) w.ty old (e.atomOpnd t w))) (fun _ => none))))

/-- A ring control block as read (09 R216). -/
structure Rcb where
  tail : Nat
  head : Nat
  base : Nat
  log : Nat
  reserved : Nat
  deriving DecidableEq, Repr

/-- The fields of its 64 bytes (09 R216). -/
def Rcb.ofBytes (bs : List Byte) : Rcb :=
  let d (k : Nat) : Nat := natOfBytes ((bs.drop (8 * k)).take 8)
  { tail := d 0, head := d 1, base := d 2 / 8 % 2 ^ 54 * 8, log := d 3 % 32, reserved := d 2 / 2 ^ 57 + d 2 % 8 + d 3 / 32 + natOfBytes (bs.drop 32) }

/-- Entries in the ring. -/
def Rcb.fill (r : Rcb) : Nat := (r.tail + 2 ^ 64 - r.head) % 2 ^ 64

/-- The action moves an entry: ENQ on a ring that is not full, DEQ on one that is not empty. -/
def Rcb.moves (r : Rcb) (enq : Bool) : Bool := decide (1 ≤ r.log ∧ r.log ≤ 24) && (if enq then r.fill != 2 ^ r.log else r.tail != r.head)

/-- Address of the entry the action moves. -/
def Rcb.entry (r : Rcb) (enq : Bool) : Nat := r.base + 8 * ((if enq then r.tail else r.head) % 2 ^ r.log)

/-- ENQ and DEQ (09 R216): the checks on the control block and the entry, then one indivisible action. -/
def Env.ring (e : Env) (t : Thread) (w : F0) (enq : Bool) : Turnout :=
  let ea := e.pair t (vnum w.a)
  let poison (va : Nat) : Turnout := .fault (if enq then e.poisonFault va 4 0 4 w.la.toNat w.d else e.poisonFault va 8 1 7 w.la.toNat w.d)
  match e.reach ea 64 .store 2 with
  | .error x => .fault x
  | .ok l =>
    match e.lockRanges w false 0 ea.toNat with
    | .error x => .fault x
    | .ok rs =>
      if e.s.locPoisoned l then (match e.watch t ea.toNat 64 2 with | some x => .fault x | none => poison ea.toNat)
      else
        match e.atomStart w false rs [(l, 64)] with
        | none => .hold e.s
        | some s1 =>
          let r := Rcb.ofBytes (s1.currentBytes l 64)
          let e1 : Env := { e with s := s1 }
          let entry : Except TFault (Option Loc) :=
            if !r.moves enq then .ok none
            else if 2 ^ 57 ≤ r.entry enq then .error (e.iss.bad 0x06 (BitVec.ofNat 64 (r.entry enq)))
            else
              match s1.route e.grp.ctx (r.entry enq) (if enq then .store else .load) with
              | .error f => .error (.page (r.entry enq) 2 f)
              | .ok x => .ok (some x)
          match entry with
          | .error x => .fault x
          | .ok y =>
            if r.reserved ≠ 0 ∨ r.log < 1 ∨ 24 < r.log then .fault (e.iss.bad 0x07 ea)
            else
              match (e.watch t ea.toNat 64 2).or (if y.isSome then e.watch t (r.entry enq) 8 2 else none) with
              | some x => .fault x
              | none =>
              match y with
              | none =>
                let s2 := e.atomTouch (atomScope w) l ea.toNat 64 (e.atomMark l s1)
                .done (e.atomEnd w false rs s2) (some { reg := vnum w.d, count := if enq then 1 else 3, value := if enq then 1 else (1 : Qword) <<< 64, tag := none, flags := 0 })
              | some x =>
                if !enq && s1.locPoisoned x then poison (r.entry enq)
                else
                  match e1.atomStart w false [] [(x, 8)] with
                  | none => .hold e.s
                  | some s2 =>
                    let s2a := if enq then e.atomMark x s2 else s2
                    let s3 := e.atomTouch (atomScope w) x (r.entry enq) 8 (e.atomTouch (atomScope w) l ea.toNat 64 (e.atomMark l s2a))
                    let got := natOfBytes (s3.currentBytes x 8)
                    let s4 := if enq then atomPut l 0 (bytesOfNat (r.tail + 1) 8) (atomPut x 0 (bytesOfNat (e.pair t (vnum w.a + 2)).toNat 8) s3)
                      else atomPut l 8 (bytesOfNat (r.head + 1) 8) s3
                    .done (e.atomEnd w false rs s4) (some { reg := vnum w.d, count := if enq then 1 else 3, value := if enq then 0 else BitVec.ofNat 128 got, tag := none, flags := 0 })

/-- ENQ (09 R216). -/
def execEnq (w : F0) (s : State) : Host.Outcome State Fault Refusal :=
  .next (runWord (.enq w) s (fun iss tid s1 => withThread iss tid s1 (fun e t => e.ring t w true)))

/-- DEQ (09 R216). -/
def execDeq (w : F0) (s : State) : Host.Outcome State Fault Refusal :=
  .next (runWord (.deq w) s (fun iss tid s1 => withThread iss tid s1 (fun e t => e.ring t w false)))

end Sys2Proof.Machine
end

