-- ==== Sys2Proof/Machine/RegionInstr.lean ====
section
/-! DEFINITION. Atomic regions (spec/10 R220 to R241): ABEGIN, ACOMMIT, AABORT, and the conservator's decision. -/

namespace Sys2Proof.Machine

/-- The windows of a thread closed and its available held writes landed; none while one is still to land (10 R222, R230). -/
def Env.landed (_ : Env) (t : Thread) : Thread × Bool :=
  let t1 := t.closeWindows.land
  (t1, t1.held.isEmpty)

/-- A thread that keeps its place among the refused of a region lock (10 R236): one that has exited, by a wait word written for it too (07 R142), has none. -/
def State.keepsPlace (s : State) (who : Nat × Nat) : Bool := ((s.thread? who.1 who.2).map (fun t => decide (t.cond ≠ .exited))).getD false

/-- The region lock of a scope instance asked for by a thread (10 R236): granted when free and no other thread was refused first. -/
def State.lockGrant (s : State) (scope inst : Nat) (who : Nat × Nat) : State × Bool :=
  match s.locks.find? (fun l => l.scope == scope && l.inst == inst) with
  | none => ({ s with locks := s.locks ++ [{ scope := scope, inst := inst, holder := some who, refused := [] }] }, true)
  | some l =>
    let queue := l.refused.filter s.keepsPlace
    let free := l.holder.isNone && (queue.isEmpty || decide (queue.head? = some who))
    let l1 : RLock := if free then { l with holder := some who, refused := queue.filter (fun x => decide (x ≠ who)) }
      else { l with refused := if queue.contains who then queue else queue ++ [who] }
    ({ s with locks := s.locks.map (fun x => if x.scope == scope && x.inst == inst then l1 else x) }, free)

/-- A region just begun (10 R222). -/
def Region.start (handler : Dword) (scope : Nat) (excl : Bool) (p : BitVec 7) : Region :=
  { depth := 1, handler := handler, scope := scope, excl := excl, chkP := p, chkV := [], lines := [], words := [], tags := [], cons := [], stores := [], count := 0, commit := none, decided := none }

/-- The result of a region instruction. -/
def statusRes (d : Code) (v : Word) : Option LongRes := some { reg := vnum d, count := 1, value := v.setWidth 128, tag := none, flags := 0 }

/-- ABEGIN (10 R222). -/
def execAbegin (w : F1) (s : State) : Host.Outcome State Fault Refusal :=
  .next (runWord (.abegin w) s (fun iss tid s1 => withThread iss tid s1 (fun e t0 =>
    let (t1, clear) := e.landed t0
    let s2 := s1.setThread iss.grp tid t1
    if !clear then .hold s2
    else
      match t1.region with
      | some r =>
        if r.depth = 4 then .out (s2.abortRegion iss.grp tid 3 5 0)
        else if r.scope < lo3 w.x then .out (s2.abortRegion iss.grp tid 4 0x82 0)
        else .done (s2.setThread iss.grp tid { t1 with region := some { r with depth := r.depth + 1 } }) (statusRes w.d 2)
      | none =>
        let t2 : Thread := if t1.lastAbegin = some iss.pc then t1 else { t1.setAcount 0 with lastAbegin := some iss.pc }
        let excl := t2.acount == 8
        let (s3, ok) := if excl then s2.lockGrant (lo3 w.x) (scopeInst (lo3 w.x) iss.core) (iss.grp, tid) else (s2, true)
        if !ok then .out (s3.setThread iss.grp tid (t2.waitAt iss.pc (s1.clock iss.core)))
        else
          let handler := iss.pc + (w.imm.signExtend 64 : Dword) * 8
          .done (s3.setThread iss.grp tid { t2 with region := some (Region.start handler (lo3 w.x) excl t2.p) }) (statusRes w.d (if excl then 1 else 0)))))

/-- Places of a region's read words and store records, with the first that cannot be reached (10 R228, R231). -/
def State.regionPlaces (s : State) (ctx : Nat) (r : Region) : Except TFault (List (ReadWord × Loc) × List (StoreRec × Loc)) :=
  let one (va : Nat) (w : Want) (acc : Nat) : Except TFault Loc := match s.route ctx va w with
    | .error f => .error (.page va acc f)
    | .ok l => .ok l
  match r.words.mapM (fun x => (one x.addr .load 5).map (fun l => (x, l))) with
  | .error f => .error f
  | .ok ws =>
    match r.stores.mapM (fun x => (one x.addr .store 1).map (fun l => (x, l))) with
    | .error f => .error f
    | .ok ss => .ok (ws, ss)

/-- Ranges bound to the lock words of a region: those of which a read word or a store record holds a byte (10 R232). -/
def State.regionRanges (s : State) (ctx : Nat) (r : Region) : Except TFault (List Bound) :=
  (s.bindTable ctx).map (fun tab => boundWhere tab (fun kind o =>
    let n := if kind = 3 then 8 else 4
    decide (2 ≤ kind) && (r.words.any (fun w => decide (w.addr < o + n) && decide (o < w.addr + 4)) || r.stores.any (fun st => st.overlaps o n))))

/-- Registers repaired by a commit, which land with its result as one held write (02 R46, 10 R231). -/
def commitWrites (r : Region) : List (Nat × Word) := r.tags.map (fun e => (e.1, r.wordValue e.2.1 + e.2.2))

/-- ACOMMIT (10 R230): the outermost one asks the conservator, and retires once it has decided to commit. -/
def execAcommit (w : F0) (s : State) : Host.Outcome State Fault Refusal :=
  .next (runWord (.acommit w) s (fun iss tid s1 => withThread iss tid s1 (fun e t0 =>
    let (t1, clear) := e.landed t0
    let s2 := s1.setThread iss.grp tid t1
    if !clear then .hold s2
    else
      match t1.region with
      | none => .done s2 (statusRes w.d 0x80000000)
      | some r =>
        if 1 < r.depth then .done (s2.setThread iss.grp tid { t1 with region := some { r with depth := r.depth - 1 } }) (statusRes w.d 2)
        else
          match r.decided with
          | some repaired =>
            .done (s2.setThread iss.grp tid { t1 with region := none }) ((statusRes w.d (if repaired then 1 else 0)).map (fun x => { x with more := commitWrites r }))
          | none =>
            match s2.regionPlaces e.grp.ctx r, s2.regionRanges e.grp.ctx r with
            | .error f, _ => .fault f
            | _, .error f => .fault f
            | .ok _, .ok _ => .hold (s2.setThread iss.grp tid { t1 with region := some { r with commit := some (vnum w.d, w.la.toNat) } }))))

/-- AABORT (10 R235). -/
def execAabort (w : F0) (s : State) : Host.Outcome State Fault Refusal :=
  .next (runWord (.aabort w) s (fun iss tid s1 => withThread iss tid s1 (fun e t =>
    if t.region.isNone then .done s1 none
    else .out (s1.abortRegion iss.grp tid 5 0 (if w.x.getLsbD 0 then bits (e.v t (vnum w.a)) 15 0 else 0)))))

/-- A value of the region over the fresh words (10 R231). -/
def SymVal.now (v : SymVal) (now : Nat → Word) : Word :=
  match v with
  | .conc x => x
  | .sym a c => now a + c

/-- A constraint keeps its outcome over the fresh words (10 R231). -/
def Constraint.holds (k : Constraint) (now : Nat → Word) : Bool :=
  let t : Ty := if k.signed then .i32 else .n32
  condHolds k.cond (ival t (k.a.now now)) (ival t (k.b.now now)) == k.outcome

/-- Data a store record writes at commit. -/
def StoreRec.now (st : StoreRec) (now : Nat → Word) : List Byte :=
  bytesOfNat (match st.sym with
    | some (a, c) => (now a + c).toNat
    | none => st.data.toNat) st.size

/-- A tracked line brought into a die's cache, HELD (10 R231), its stores performed everywhere. -/
def State.dirClaim (s : State) (die line : Nat) : State := (s.dirSet (128 * line) ((s.dirSettled line).claim die s.privLines)).widen (128 * line) 128

/-- A commit's stores performed in order (10 R231). -/
def State.commitStores (s : State) (die ctx : Nat) (ss : List (StoreRec × Loc)) (now : Nat → Word) : State :=
  ss.foldl (fun a x => a.devPut die ctx x.2 (x.1.now now)) s

/-- A region aborted by the conservator: its thread leaves the dispatch that holds its ACOMMIT (10 R234; 07 R147). -/
def State.abortAway (s : State) (grp tid cause detail : Nat) : State := (s.abortRegion grp tid cause detail 0).purge grp

/-- A lower thread of the same pack of the ACOMMIT has not had its commit decided (10 R241, 07 R146). -/
def State.commitsLater (s : State) (g : Group) (tid : Nat) : Bool :=
  (s.core g.core).streams.any (fun st => match st.dispatch with
    | some d => d.packs.any (fun p => p.any (fun l => l.2 == tid) && p.any (fun l => decide (l.2 < tid) && ((g.threads[l.2]?).map (fun t => t.isRunning && (t.region.map (fun r => r.commit.isSome && r.decided.isNone)).getD false)).getD false))
    | none => false)

/-- CONSERVATOR_COMMIT (10 R231, R232): one indivisible action that commits the region of a thread whose outermost ACOMMIT asks for it, or aborts it. It waits for the stores it releases, and for an exclusive attempt that holds a line it writes (R237). DESIGN CHOICE (log 100): a tracked line poisoned since it was read is compared by the bytes memory holds. -/
def execConservatorCommit (grp tid : Nat) (s : State) : Host.Outcome State Fault Refusal :=
  .next (
    match s.group? grp, s.thread? grp tid with
    | some g, some t =>
      match t.region with
      | none => s
      | some r =>
        if r.commit.isNone || r.decided.isSome then s
        else
          match s.regionPlaces g.ctx r, s.regionRanges g.ctx r with
          | .ok (ws, ss), .ok rs =>
            let die := dieOf g.core
            if (ws.map (fun x => x.2) ++ ss.map (fun x => x.2)).any (fun l => match l with | .mem _ _ => false | _ => true) then s.abortAway grp tid 4 0x81
            else if ss.any (fun x => s.locHeld g.core x.2 (some (grp, tid))) || s.commitsLater g tid then s
            else
              match (s.widenBound grp tid rs).drainAt g.core (fun x => if x.grp == grp && x.tid == tid then (if r.lines.contains (x.phys / 128) then some 4 else x.boundScope rs) else none) with
              | none => s
              | some s0 =>
                let s1 := r.lines.foldl (fun a l => a.dirClaim die l) s0
                let vals := ws.map (fun x => (x.1.addr, (BitVec.ofNat 32 (natOfBytes (s1.currentBytes x.2 4)) : Word)))
                let now (a : Nat) : Word := ((vals.find? (fun v => v.1 == a)).map (fun v => v.2)).getD 0
                if r.words.any (fun x => !x.symbolic && now x.addr != x.value) then s1.abortAway grp tid 1 0
                else if !r.cons.all (fun k => k.holds now) then s1.abortAway grp tid 2 0
                else
                  let repaired := r.words.any (fun x => x.symbolic && now x.addr != x.value)
                  let s2 := ((s1.commitStores die g.ctx ss now).unlock grp tid false).acquire g.core g.ctx rs
                  let s3 := s2.l1Drop g.core (fun l => l.ctx == g.ctx && r.vaLines.contains l.line)
                  let r1 : Region := { r with words := r.words.map (fun x => { x with value := now x.addr }), cons := [], stores := [], decided := some repaired }
                  s3.modThread grp tid (fun x => { x.setAcount 0 with region := some r1, arepairs := if repaired then x.arepairs + 1 else x.arepairs })
          | _, _ => s.modThread grp tid (fun x => { x with region := some { r with commit := none } })
    | _, _ => s)

end Sys2Proof.Machine
end

