-- ==== Sys2Proof/Machine/Agenda.lean ====
section
/-! DEFINITION. What happens when the agenda names no turn (log 3): the events of the device's own agents that may come next, in the order in which they are tried; and the turns that are no instruction. -/

namespace Sys2Proof.Machine

/-- Events of one thread: a value that a closed held write waits for, queue data, the end of a nap. -/
def Thread.cands (t : Thread) (gid tid : Nat) : List Instr :=
  (match t.held.findIdx? (fun h => !h.ready && h.left == 0) with
    | some k => [.longLatencyComplete gid tid k]
    | none => [])
  ++ (match t.cond with
    | .blocked .queue => t.q.zipIdx.filterMap (fun (q : List QEntry × Nat) => (q.1.findIdx? (fun e => !e.arrived)).map (fun k => .ldqDataArrive gid tid q.2 k))
    | .blocked .nap => [.napExpire gid tid]
    | _ => [])
  ++ (if (t.region.bind (fun r => r.commit)).isSome then [.conservatorCommit gid tid] else [])

/-- Events of the engines of a core and its quad. -/
def engineCands (core : Nat) : List Instr :=
  [.mmaComplete core, .mzeroComplete core, .mldbComplete core 0, .mdrainComplete core 0]
  ++ (List.range 4).flatMap (fun ch => [.followOnMma (quadOf core) ch, .copyStart (quadOf core) ch, .copyComplete (quadOf core) ch])

/-- The events that may come next, in the order in which they are tried: of the stream's core, of its threads, of the engines, of its stores and groups, and of the plinth's containment and Registrar. -/
def State.nextEvents (s : State) (core stream : Nat) : List Instr :=
  let here := s.residents core
  (if (s.core core).activations.isEmpty then [] else (distinct [0, stream]).map (fun k => .handlerActivation core k))
  ++ here.flatMap (fun g => g.2.threads.zipIdx.flatMap (fun (t : Thread × Nat) => t.1.cands g.1 t.2))
  ++ engineCands core
  ++ (if (s.core core).wq.isEmpty then [] else [.storeDrain core 0])
  ++ here.filterMap (fun g => if g.2.threads.all (fun t => decide (t.cond = .exited)) then some (.groupRetire g.1) else none)
  ++ (s.ctxs.filter (fun c => !c.2.faults.isEmpty)).map (fun c => .containmentDecision c.1)
  ++ s.pend.map (fun p => .faultResolve p.fseq)

/-- A queued store performed at group, quad or die scope only, with the earlier ones to its bytes (12 R259). -/
def State.drainNarrow (s : State) (core idx scope : Nat) : State :=
  if scope < 3 then
    match (s.core core).wq[idx]? with
    | none => s
    | some e => (s.drainAt core (fun x => if x = e then some scope else none)).getD s
  else s

/-- A store performed at a narrow scope is performed at a wider one (12 R259). -/
def State.widenOne (s : State) (idx scope : Nat) : State :=
  match s.unseen[idx]? with
  | none => s
  | some u => s.widenTo (fun x => if x = u then some scope else none)

/-- A turn that is no instruction: time, focus, the progress of a copy, stores becoming visible to more parties, an L1 line displaced, and what the world outside writes and reads. -/
def State.plainTurn (s : State) (t : Turn) : State :=
  match t with
  | .time n => s.passTime n
  | .focus c k => { s with focus := (c, k) }
  | .copyBytes q ch n => s.copyOn q ch n
  | .copyAhead q ch p => s.copyAhead q ch p
  | .drainNarrow c i n => s.drainNarrow c i n
  | .widen i n => s.widenOne i n
  | .evictL1 c x l => s.l1Drop c (fun e => e.ctx == x && e.line == l)
  | .hostWrite a bs => { s with hostMem := s.hostMem.write a bs }
  | .poolWrite a bs => { s with pool := s.pool.write a bs }
  | .hdmMap b => { s with hdmBase := b }
  | .barRead off n => s.barPeek off n
  | .bar2Write a bs => s.bar2Put a bs
  | .bar2Read a n => s.bar2Peek a n
  | _ => s

end Sys2Proof.Machine
end

