-- ==== Sys2Proof/Machine/Convert.lean ====
section
/-! DEFINITION. The conversion instructions (spec/08 R179 to R182). -/

namespace Sys2Proof.Machine

/-- CVT (08 R179). -/
def execCvt (w : F0) (s : State) : Host.Outcome State Fault Refusal :=
  .next (runLocal (.cvt w) s (fun e t =>
    let st := cvtSrc w
    let raw := if st.wide then (e.pair t (vnum w.a)).toNat else (e.a32 t w.a).toNat
    let toFloat := (Fmt.ofTy w.ty).isSome
    let m := e.mode t (lo3 w.x) 0
    let (r, g) := cvt w.ty st m raw
    let t1 := if toFloat then e.advance t (lo3 w.x) 1 else t
    .ok (if w.ty.wide then t1.writePair (vnum w.d) r else t1.write (vnum w.d) (lowWord r)) g none))

/-- CVTSR: the counter is pair(b) (08 R180). -/
def execCvtsr (w : F0) (s : State) : Host.Outcome State Fault Refusal :=
  .next (runLocal (.cvtsr w) s (fun e t =>
    let r := roundVal ((Fmt.ofTy w.ty).getD .bf16) (.rsr (gHash e.grp.key (e.pair t (vnum w.b)))) (Fmt.f32.decode (e.a32 t w.a).toNat)
    .ok (t.write (vnum w.d) (BitVec.ofNat 32 r.code)) r.flags none))

/-- Bits of an element of a packed register (08 R181). -/
def packBits (t : Ty) : Nat := 32 / packElems t

/-- The full-width type PACK converts from: f32, i32 or n32. -/
def packFrom (t : Ty) : Ty := if packInt t then (if (intTy t).2 then .i32 else .n32) else .f32

/-- One element of PACK, as CVT makes it. -/
def packElem (t : Ty) (m : Mode) (x : Word) : Nat × Flags :=
  let (r, g) := cvt t (packFrom t) m x.toNat
  (r.toNat % 2 ^ packBits t, g)

/-- An element of a packed register replaced. -/
def putElem (t : Ty) (d : Nat) (k v : Nat) : Nat :=
  let b := packBits t
  d - (d >>> (b * k) % 2 ^ b) <<< (b * k) + v <<< (b * k)

/-- PACK (08 R181). -/
def execPack (w : F0) (s : State) : Host.Outcome State Fault Refusal :=
  .next (runLocal (.pack w) s (fun e t =>
    let j := (w.x.extractLsb' 3 2).toNat
    let (x, g) := packElem w.ty (e.mode t (lo3 w.x) 0) (e.fa t w)
    let (y, g2) := packElem w.ty (e.mode t (lo3 w.x) 1) (e.fb t w)
    let t1 := if packInt w.ty then t else e.advance t (lo3 w.x) 2
    .ok (t1.write (vnum w.d) (BitVec.ofNat 32 (putElem w.ty (putElem w.ty (e.fd t w).toNat (2 * j) x) (2 * j + 1) y))) (g ||| g2) none))

/-- UNPACK: exact; a signalling NaN raises INVALID (08 R181; 03 R66, R81). -/
def execUnpack (w : F0) (s : State) : Host.Outcome State Fault Refusal :=
  .next (runLocal (.unpack w) s (fun e t =>
    let b := packBits w.ty
    let x := (e.fa t w).toNat >>> (b * lo3 w.x) % 2 ^ b
    match Fmt.ofTy w.ty with
    | some f => .ok (t.write (vnum w.d) (BitVec.ofNat 32 (roundVal .f32 .rne (f.decode x)).code)) (sigFlags [f.decode x]) none
    | none => .ok (t.write (vnum w.d) (wordOfInt (intOf w.ty x))) 0 none))

/-- QSCALE (08 R182). -/
def execQscale (w : F0) (s : State) : Host.Outcome State Fault Refusal :=
  .next (runLocal (.qscale w) s (fun e t =>
    let r := qnScale (Fmt.f32.decode (e.fa t w).toNat) (e.fb t w).toNat
    .ok (t.write (vnum w.d) (BitVec.ofNat 32 r.code)) r.flags none))

/-- QENC: nibble n of d (08 R182). -/
def execQenc (w : F0) (s : State) : Host.Outcome State Fault Refusal :=
  .next (runLocal (.qenc w) s (fun e t =>
    let b := vnum w.b
    let r := qnEncode (Fmt.f32.decode (e.a32 t w.a).toNat) ((e.v t b).toNat % 256) (e.v t (b + 1)).toNat
    .ok (t.write (vnum w.d) (BitVec.ofNat 32 (putElem .e2m1 (e.fd t w).toNat (lo3 w.x) r.code))) r.flags none))

/-- QDEC: nibble n of A (08 R182). -/
def execQdec (w : F0) (s : State) : Host.Outcome State Fault Refusal :=
  .next (runLocal (.qdec w) s (fun e t =>
    let b := vnum w.b
    let r := qnDecode ((e.a32 t w.a).toNat >>> (4 * lo3 w.x) % 16) ((e.v t b).toNat % 256) (e.v t (b + 1)).toNat
    .ok (t.write (vnum w.d) (BitVec.ofNat 32 r.code)) r.flags none))

end Sys2Proof.Machine
end

