-- ==== Sys2Proof/Machine/CrossLane.lean ====
section
/-! DEFINITION. The cross-lane instructions (spec/07 R151, 08 R183, R184, 03 R87): each acts once for a pack, over its active lanes, on the registers as they stood before it. -/

namespace Sys2Proof.Machine

/-- The active lanes of a cross-lane instruction (07 R151), with their threads, in ascending lane order: `s` is the state before the instruction. -/
def activeLanes (i : Instr) (iss : Issue) (s : State) : List (Nat × Nat × Thread) :=
  iss.lanes.filterMap (fun l => match s.thread? iss.grp l.2 with
    | some t =>
      let go := ((guardOf i).map (fun g => t.guard g)).getD true
      let stop := (t.region.bind (fun r => regionStop i (iss.word.extractLsb' 52 10).toNat r t.heldRegs go)).isSome
      if t.isRunning && go && !stop then some (l.1, l.2, t) else none
    | none => none)

/-- The environment of a thread in the state before the instruction. -/
def laneEnv (iss : Issue) (s : State) (g : Group) (tid : Nat) : Env := { s := s, iss := iss, grp := g, tid := tid }

/-- A cross-lane instruction: what a lane's thread becomes, from the active lanes and its own. -/
def runCross (i : Instr) (s : State) (f : Issue → Group → List (Nat × Nat × Thread) → Nat → Thread → Thread × Flags) : State :=
  runWord i s (fun iss tid s1 =>
    match s.group? iss.grp, s1.thread? iss.grp tid with
    | some g, some t =>
      let act := activeLanes i iss s
      match act.find? (fun a => a.2.1 == tid) with
      | some own =>
        let (t1, fl) := f iss g act own.1 t
        .done (s1.setThread iss.grp tid (if fl = 0 then t1 else { t1 with raised := t1.raised ++ [(fl, iss.pc)] })) none
      | none => .done s1 none
    | _, _ => .out s1)

/-- VOTE (08 R183): 0 any, 1 all, 2 uni. -/
def voteOf (m : Nat) (l : List Bool) : Bool :=
  match m with
  | 0 => l.any (fun b => b)
  | 1 => l.all (fun b => b)
  | _ => l.all (fun b => b) || l.all (fun b => !b)

/-- VOTE. -/
def execVote (w : F0) (s : State) : Host.Outcome State Fault Refusal :=
  .next (runCross (.vote w) s (fun _ _ act _ t => (t.setPred (pnum w.d) (voteOf (lo2 w.x) (act.map (fun a => a.2.2.pred (pnum w.a)))), 0)))

/-- A mask with the bits of the lanes that satisfy a test. -/
def laneMask (act : List (Nat × Nat × Thread)) (p : Nat × Nat × Thread → Bool) : Word :=
  act.foldl (fun m a => if p a then m ||| ((1 : Word) <<< a.1) else m) 0

/-- BALLOT. -/
def execBallot (w : F0) (s : State) : Host.Outcome State Fault Refusal :=
  .next (runCross (.ballot w) s (fun _ _ act _ t => (t.write (vnum w.d) (laneMask act (fun a => a.2.2.pred (pnum w.a))), 0)))

/-- A lane's 32- or 64-bit source in the state before the instruction. -/
def laneSrc (iss : Issue) (s : State) (g : Group) (wide : Bool) (n : Nat) (a : Nat × Nat × Thread) : Dword :=
  let e := laneEnv iss s g a.2.1
  if wide then e.pair a.2.2 n else (e.v a.2.2 n).setWidth 64

/-- MATCH. -/
def execMatchLanes (w : F0) (s : State) : Host.Outcome State Fault Refusal :=
  .next (runCross (.matchLanes w) s (fun iss g act own t =>
    let src := laneSrc iss s g w.ty.wide (vnum w.a)
    let mine := ((act.find? (fun a => a.1 == own)).map src).getD 0
    (t.write (vnum w.d) (laneMask act (fun a => src a == mine)), 0)))

/-- The source lane of SHFL (08 R183): 0 idx, 1 up, 2 down, 3 xor. -/
def shflLane (m n j : Nat) : Option Nat :=
  match m with
  | 0 => some (n % 32)
  | 1 => if n ≤ j then some (j - n) else none
  | 2 => some (j + n)
  | _ => some (j ^^^ (n % 32))

/-- SHFL. -/
def execShfl (w : F0) (s : State) : Host.Outcome State Fault Refusal :=
  .next (runCross (.shfl w) s (fun iss g act own t =>
    let src := laneSrc iss s g w.ty.wide (vnum w.a)
    let me := act.find? (fun a => a.1 == own)
    let n := (me.map (fun a => ((laneEnv iss s g a.2.1).v a.2.2 (vnum w.b)).toNat)).getD 0
    let hit := (shflLane (lo2 w.x) n own).bind (fun k => act.find? (fun a => a.1 == k))
    let x := (match hit with
      | some a => src a
      | none => (me.map src).getD 0)
    (if w.ty.wide then t.writePair (vnum w.d) x else t.write (vnum w.d) (lowWord x), 0)))

/-- One combination of REDL and SCANL (08 R184): 0 add, 1 min, 2 max, 3 and, 4 or, 5 xor. -/
def laneOp (op : Nat) (t : Ty) (m : Mode) (a b : Word) : Word × Flags :=
  if t = .f32 then
    let r := match op with
      | 0 => fadd .f32 m a.toNat b.toNat
      | 1 => fminmax .f32 false a.toNat b.toNat
      | _ => fminmax .f32 true a.toNat b.toNat
    (BitVec.ofNat 32 r.code, r.flags)
  else
    (match op with
      | 0 => a + b
      | 1 => pickBy t false a b
      | 2 => pickBy t true a b
      | 3 => a &&& b
      | 4 => a ||| b
      | _ => a ^^^ b, 0)

/-- One level of the tree (03 R87, 08 R184): a node with one absent child passes the other. -/
def treeLevel (f : Word → Word → Word × Flags) : List (Option Word) → Flags → List (Option Word) × Flags
  | a :: b :: rest, fl =>
    let (x, g) := match a, b with
      | some p, some q => let (r, h) := f p q; (some r, h)
      | some p, none => (some p, 0)
      | none, q => (q, 0)
    let (tl, fl1) := treeLevel f rest (fl ||| g)
    (x :: tl, fl1)
  | l, fl => (l, fl)

/-- The tree over a list of leaves, n levels. -/
def treeRun (f : Word → Word → Word × Flags) : Nat → List (Option Word) → Flags → List (Option Word) × Flags
  | 0, l, fl => (l, fl)
  | n + 1, l, fl =>
    let (l1, fl1) := treeLevel f l fl
    treeRun f n l1 fl1

/-- The mode of REDL's and SCANL's additions: FPROUND, RSR as RNE (08 R184). -/
def laneMode (g : Group) : Mode :=
  match g.fpround.toNat with
  | 1 => .rtz
  | 2 => .rup
  | 3 => .rdn
  | _ => .rne

/-- REDL's result over a row. -/
def redl (op : Nat) (t : Ty) (m : Mode) (xs : List (Option Word)) : Word × Flags :=
  let leaves := if t = .f32 ∧ op = 0 then xs.map (fun x => some (x.getD 0)) else xs
  let (l, fl) := treeRun (laneOp op t m) 5 leaves 0
  ((l.headD none).getD 0, fl)

/-- The 32 lane values of a pack, absent where a lane is inactive. -/
def laneValues (iss : Issue) (s : State) (g : Group) (n : Nat) (act : List (Nat × Nat × Thread)) : List (Option Word) :=
  (List.range 32).map (fun k => (act.find? (fun a => a.1 == k)).map (fun a => (laneEnv iss s g a.2.1).v a.2.2 n))

/-- REDL. -/
def execRedl (w : F0) (s : State) : Host.Outcome State Fault Refusal :=
  .next (runCross (.redl w) s (fun iss g act _ t =>
    let (r, fl) := redl (lo3 w.x) w.ty (laneMode g) (laneValues iss s g (vnum w.a) act)
    (t.write (vnum w.d) r, fl)))

/-- The identity of an exclusive scan (08 R184). -/
def scanIdentity (op : Nat) (t : Ty) : Word :=
  match op with
  | 1 => if t = .f32 then 0x7F800000 else if t = .i32 then 0x7FFFFFFF else 0xFFFFFFFF
  | 2 => if t = .f32 then 0xFF800000 else if t = .i32 then 0x80000000 else 0
  | 3 => 0xFFFFFFFF
  | _ => 0

/-- SCANL's value for a lane, from the values of the lanes before it in order. -/
def scanl (op : Nat) (t : Ty) (m : Mode) (excl : Bool) (xs : List Word) : Word × Flags :=
  let go (start : Word) (l : List Word) : Word × Flags :=
    l.foldl (fun a x => let (r, g) := laneOp op t m a.1 x; (r, a.2 ||| g)) (start, 0)
  if excl then go (scanIdentity op t) xs
  else
    match xs with
    | [] => (0, 0)
    | x :: rest => go x rest

/-- SCANL: x[3] makes it exclusive. -/
def execScanl (w : F0) (s : State) : Host.Outcome State Fault Refusal :=
  .next (runCross (.scanl w) s (fun iss g act own t =>
    let excl := w.x.getLsbD 3
    let xs := (laneValues iss s g (vnum w.a) (act.filter (fun a => if excl then decide (a.1 < own) else decide (a.1 ≤ own)))).filterMap (fun x => x)
    let (r, fl) := scanl (lo3 w.x) w.ty (laneMode g) excl xs
    (t.write (vnum w.d) r, fl)))

end Sys2Proof.Machine
end

