-- ==== Sys2Proof/Machine/QueueInstr.lean ====
section
/-! DEFINITION. The queue instructions (spec/05 R120 to R122): LAUNCH and NOTIFY. -/

namespace Sys2Proof.Machine

/-- A doubleword of a control block at an offset (05 R108). -/
def State.qcbDword (s : State) (l : Loc) (off : Nat) : Nat := natOfBytes (s.currentBytes (l.add off) 8)

/-- The refusal of a LAUNCH (05 R121), by the control block it reads: 2 not an own device queue, 3 in ERROR, 1 full. -/
def State.launchRefusal (s : State) (ctx : Nat) (l : Loc) : Option Nat :=
  let h := s.qcbDword l 0
  let rlog := h / 2 ^ 16 % 32
  if h % 256 ≠ 1 ∨ h / 2 ^ 32 % 256 ≠ ctx ∨ !h.testBit 8 then some 2
  else if s.qcbDword l 0x40 / 8 % 8 = 6 then some 3
  else if (s.qcbDword l 0x20 + 2 ^ 64 - s.qcbDword l 0x18) % 2 ^ 64 = 2 ^ rlog then some 1
  else none

/-- The notify of a LAUNCH (05 R113, R121): the slot its control block names while it holds one, else PENDNOTIFY. -/
def State.launchNotify (s : State) (ctx : Nat) (qa : Dword) (l : Loc) : State :=
  let w := s.qcbDword l 0x40
  match s.slot? (w / 256 % 256) with
  | some q => if w.testBit 7 && q.ctx == ctx && decide (q.qcb = qa) then s.notifySlot (w / 256 % 256) else s.plinthPut ctx (l.add 0x40) (bytesOfNat (w ||| 0x40) 8)
  | none => s.plinthPut ctx (l.add 0x40) (bytesOfNat (w ||| 0x40) 8)

/-- LAUNCH (05 R121): the tests and the reservation, then the thread's stores, the packet, PROD and the notify, as one action; it waits for lines that an exclusive attempt holds (10 R237). -/
def execLaunch (w : F0) (s : State) : Host.Outcome State Fault Refusal :=
  .next (runWord (.launch w) s (fun iss tid s1 => withThread iss tid s1 (fun e t =>
    let qa := e.pair t (vnum w.a)
    let pa := e.pair t (vnum w.b)
    let ctx := e.grp.ctx
    let done (s2 : State) (v : Nat) : Turnout := .done s2 (some { reg := vnum w.d, count := 2, value := BitVec.ofNat 128 v, tag := none, flags := 0 })
    let watch : Option TFault := (e.watch t qa.toNat 128 2).or (e.watch t pa.toNat 64 0)
    if pa.toNat % 64 ≠ 0 ∧ qa.toNat % 128 = 0 then .fault (iss.bad 0x05 pa)
    else
      match e.reach qa 128 .store 2 with
      | .error f => .fault f
      | .ok ql =>
        match e.reach pa 64 .load 0 with
        | .error f => .fault f
        | .ok pl =>
          match s1.drainThread iss.core iss.grp tid with
          | none => .hold s1
          | some s2 =>
            match s2.launchRefusal ctx ql with
            | some c => (match watch with | some f => .fault f | none => done s2 (2 ^ 63 + c))
            | none =>
              let i := s2.qcbDword ql 0x20
              let at_ := (s2.qcbDword ql 0x08 + i % 2 ^ (s2.qcbDword ql 0 / 2 ^ 16 % 32) * 64) % 2 ^ 64
              if 2 ^ 57 ≤ at_ then .fault (iss.bad 0x06 (BitVec.ofNat 64 at_))
              else
                match s2.route ctx at_ .store with
                | .error f => .fault (.page at_ 1 f)
                | .ok rl =>
                  match watch with
                  | some f => .fault f
                  | none =>
                  if s2.qcbDword ql 0x10 ≠ i || s2.locHeld iss.core ql (some (iss.grp, tid)) || s2.locHeld iss.core rl (some (iss.grp, tid)) then .hold s1
                  else
                    let s3 := s2.plinthPut ctx (ql.add 0x20) (bytesOfNat (i + 1) 8)
                    let s4 := s3.plinthPut ctx rl (s3.currentBytes pl 64)
                    let s5 := s4.plinthPut ctx (ql.add 0x10) (bytesOfNat (i + 1) 8)
                    done (s5.launchNotify ctx qa ql) i)))

/-- NOTIFY (05 R122): release of the thread's stores, NOTEBITS, and the vector of the issuing queue. -/
def execNotify (w : F0) (s : State) : Host.Outcome State Fault Refusal :=
  .next (runWord (.notify w) s (fun iss tid s1 => withThread iss tid s1 (fun e t =>
    let qcb := ((s1.kern? e.grp.kern).map (fun k => k.qcb)).getD 0
    match s1.route e.grp.ctx qcb.toNat .store with
    | .error f => .fault (.page qcb.toNat 2 f)
    | .ok l =>
      match (if s1.locHeld iss.core l (some (iss.grp, tid)) then none else s1.drainThread iss.core iss.grp tid) with
      | none => .hold s1
      | some s2 =>
        let n := s2.qcbDword l 0x38
        let bits32 := (n % 2 ^ 32) ||| (e.v t (vnum w.a)).toNat
        let s3 := s2.plinthPut e.grp.ctx (l.add 0x38) (bytesOfNat (n / 2 ^ 32 * 2 ^ 32 + bits32) 8)
        let nvec := s3.qcbDword l 0x30 % 65536
        .done (if nvec = 0xFFFF then s3 else s3.msix nvec) none)))

end Sys2Proof.Machine
end

