-- ==== Sys2Proof/Machine/Dispatch.lean ====
section
/-! DEFINITION. One arm for every constructor of Instr: a direct call of its meaning. -/

namespace Sys2Proof.Machine

def exec (i : Instr) (s : State) : Host.Outcome State Fault Refusal :=
  match i with
  | .nop w => Sys2Proof.Machine.execNop w s
  | .bra w => Sys2Proof.Machine.execBra w s
  | .jmp w => Sys2Proof.Machine.execJmp w s
  | .call w => Sys2Proof.Machine.execCall w s
  | .calli w => Sys2Proof.Machine.execCalli w s
  | .ret w => Sys2Proof.Machine.execRet w s
  | .exit w => Sys2Proof.Machine.execExit w s
  | .rowblk w => Sys2Proof.Machine.execRowblk w s
  | .yield w => Sys2Proof.Machine.execYield w s
  | .nap w => Sys2Proof.Machine.execNap w s
  | .trap w => Sys2Proof.Machine.execTrap w s
  | .brk w => Sys2Proof.Machine.execBrk w s
  | .add w => Sys2Proof.Machine.execAdd w s
  | .addImm w => Sys2Proof.Machine.execAddImm w s
  | .sub w => Sys2Proof.Machine.execSub w s
  | .subImm w => Sys2Proof.Machine.execSubImm w s
  | .addsat w => Sys2Proof.Machine.execAddsat w s
  | .mul w => Sys2Proof.Machine.execMul w s
  | .mulImm w => Sys2Proof.Machine.execMulImm w s
  | .mulhi w => Sys2Proof.Machine.execMulhi w s
  | .mad w => Sys2Proof.Machine.execMad w s
  | .madw w => Sys2Proof.Machine.execMadw w s
  | .min w => Sys2Proof.Machine.execMin w s
  | .minImm w => Sys2Proof.Machine.execMinImm w s
  | .max w => Sys2Proof.Machine.execMax w s
  | .maxImm w => Sys2Proof.Machine.execMaxImm w s
  | .abs w => Sys2Proof.Machine.execAbs w s
  | .neg w => Sys2Proof.Machine.execNeg w s
  | .dot4 w => Sys2Proof.Machine.execDot4 w s
  | .add64 w => Sys2Proof.Machine.execAdd64 w s
  | .sub64 w => Sys2Proof.Machine.execSub64 w s
  | .and w => Sys2Proof.Machine.execAnd w s
  | .andImm w => Sys2Proof.Machine.execAndImm w s
  | .or w => Sys2Proof.Machine.execOr w s
  | .orImm w => Sys2Proof.Machine.execOrImm w s
  | .xor w => Sys2Proof.Machine.execXor w s
  | .xorImm w => Sys2Proof.Machine.execXorImm w s
  | .andn w => Sys2Proof.Machine.execAndn w s
  | .not w => Sys2Proof.Machine.execNot w s
  | .shl w => Sys2Proof.Machine.execShl w s
  | .shlImm w => Sys2Proof.Machine.execShlImm w s
  | .shr w => Sys2Proof.Machine.execShr w s
  | .shrImm w => Sys2Proof.Machine.execShrImm w s
  | .sar w => Sys2Proof.Machine.execSar w s
  | .sarImm w => Sys2Proof.Machine.execSarImm w s
  | .rol w => Sys2Proof.Machine.execRol w s
  | .bfx w => Sys2Proof.Machine.execBfx w s
  | .bfi w => Sys2Proof.Machine.execBfi w s
  | .popc w => Sys2Proof.Machine.execPopc w s
  | .clz w => Sys2Proof.Machine.execClz w s
  | .brev w => Sys2Proof.Machine.execBrev w s
  | .prmt w => Sys2Proof.Machine.execPrmt w s
  | .shl64 w => Sys2Proof.Machine.execShl64 w s
  | .shr64 w => Sys2Proof.Machine.execShr64 w s
  | .setp w => Sys2Proof.Machine.execSetp w s
  | .setpImm w => Sys2Proof.Machine.execSetpImm w s
  | .plop w => Sys2Proof.Machine.execPlop w s
  | .sel w => Sys2Proof.Machine.execSel w s
  | .mov w => Sys2Proof.Machine.execMov w s
  | .ptov w => Sys2Proof.Machine.execPtov w s
  | .vtop w => Sys2Proof.Machine.execVtop w s
  | .lea w => Sys2Proof.Machine.execLea w s
  | .leaImm w => Sys2Proof.Machine.execLeaImm w s
  | .movi w => Sys2Proof.Machine.execMovi w s
  | .moviW w => Sys2Proof.Machine.execMoviW w s
  | .pair h0 h1 => Sys2Proof.Machine.execPair h0 h1 s
  | .fadd w => Sys2Proof.Machine.execFadd w s
  | .fsub w => Sys2Proof.Machine.execFsub w s
  | .fmul w => Sys2Proof.Machine.execFmul w s
  | .ffma w => Sys2Proof.Machine.execFfma w s
  | .fscale w => Sys2Proof.Machine.execFscale w s
  | .fdot2 w => Sys2Proof.Machine.execFdot2 w s
  | .fdiv w => Sys2Proof.Machine.execFdiv w s
  | .fsqrt w => Sys2Proof.Machine.execFsqrt w s
  | .fmin w => Sys2Proof.Machine.execFmin w s
  | .fmax w => Sys2Proof.Machine.execFmax w s
  | .famax w => Sys2Proof.Machine.execFamax w s
  | .fsetp w => Sys2Proof.Machine.execFsetp w s
  | .frnd w => Sys2Proof.Machine.execFrnd w s
  | .fclass w => Sys2Proof.Machine.execFclass w s
  | .ffrexp w => Sys2Proof.Machine.execFfrexp w s
  | .frcp w => Sys2Proof.Machine.execFrcp w s
  | .frsq w => Sys2Proof.Machine.execFrsq w s
  | .fexp2 w => Sys2Proof.Machine.execFexp2 w s
  | .flog2 w => Sys2Proof.Machine.execFlog2 w s
  | .fsin w => Sys2Proof.Machine.execFsin w s
  | .fcos w => Sys2Proof.Machine.execFcos w s
  | .ftanh w => Sys2Proof.Machine.execFtanh w s
  | .fsigm w => Sys2Proof.Machine.execFsigm w s
  | .cvt w => Sys2Proof.Machine.execCvt w s
  | .cvtsr w => Sys2Proof.Machine.execCvtsr w s
  | .pack w => Sys2Proof.Machine.execPack w s
  | .unpack w => Sys2Proof.Machine.execUnpack w s
  | .qscale w => Sys2Proof.Machine.execQscale w s
  | .qenc w => Sys2Proof.Machine.execQenc w s
  | .qdec w => Sys2Proof.Machine.execQdec w s
  | .vote w => Sys2Proof.Machine.execVote w s
  | .ballot w => Sys2Proof.Machine.execBallot w s
  | .matchLanes w => Sys2Proof.Machine.execMatchLanes w s
  | .shfl w => Sys2Proof.Machine.execShfl w s
  | .redl w => Sys2Proof.Machine.execRedl w s
  | .scanl w => Sys2Proof.Machine.execScanl w s
  | .ld w => Sys2Proof.Machine.execLd w s
  | .st w => Sys2Proof.Machine.execSt w s
  | .ldq w => Sys2Proof.Machine.execLdq w s
  | .pref w => Sys2Proof.Machine.execPref w s
  | .ltset w => Sys2Proof.Machine.execLtset w s
  | .ltget w => Sys2Proof.Machine.execLtget w s
  | .ldt w => Sys2Proof.Machine.execLdt w s
  | .stt w => Sys2Proof.Machine.execStt w s
  | .tpref w => Sys2Proof.Machine.execTpref w s
  | .bind w => Sys2Proof.Machine.execBind w s
  | .unbind w => Sys2Proof.Machine.execUnbind w s
  | .fence w => Sys2Proof.Machine.execFence w s
  | .cinv w => Sys2Proof.Machine.execCinv w s
  | .cwb w => Sys2Proof.Machine.execCwb w s
  | .pin w => Sys2Proof.Machine.execPin w s
  | .unpin w => Sys2Proof.Machine.execUnpin w s
  | .spmap w => Sys2Proof.Machine.execSpmap w s
  | .spunmap w => Sys2Proof.Machine.execSpunmap w s
  | .atom w => Sys2Proof.Machine.execAtom w s
  | .cas w => Sys2Proof.Machine.execCas w s
  | .red w => Sys2Proof.Machine.execRed w s
  | .enq w => Sys2Proof.Machine.execEnq w s
  | .deq w => Sys2Proof.Machine.execDeq w s
  | .abegin w => Sys2Proof.Machine.execAbegin w s
  | .acommit w => Sys2Proof.Machine.execAcommit w s
  | .aabort w => Sys2Proof.Machine.execAabort w s
  | .conservatorCommit grp tid => Sys2Proof.Machine.execConservatorCommit grp tid s
  | .barrive w => Sys2Proof.Machine.execBarrive w s
  | .bsync w => Sys2Proof.Machine.execBsync w s
  | .bwait w => Sys2Proof.Machine.execBwait w s
  | .bexpect w => Sys2Proof.Machine.execBexpect w s
  | .btest w => Sys2Proof.Machine.execBtest w s
  | .btestCur w => Sys2Proof.Machine.execBtestCur w s
  | .mma w => Sys2Proof.Machine.execMma w s
  | .mzero w => Sys2Proof.Machine.execMzero w s
  | .mrng w => Sys2Proof.Machine.execMrng w s
  | .mldb w => Sys2Proof.Machine.execMldb w s
  | .mdrain w => Sys2Proof.Machine.execMdrain w s
  | .cpy w => Sys2Proof.Machine.execCpy w s
  | .cpyx w => Sys2Proof.Machine.execCpyx w s
  | .cpywp w => Sys2Proof.Machine.execCpywp w s
  | .cpyseq w => Sys2Proof.Machine.execCpyseq w s
  | .cpyseqStat w => Sys2Proof.Machine.execCpyseqStat w s
  | .cpycan w => Sys2Proof.Machine.execCpycan w s
  | .pgstat w => Sys2Proof.Machine.execPgstat w s
  | .leaseq w => Sys2Proof.Machine.execLeaseq w s
  | .leaseqVa w => Sys2Proof.Machine.execLeaseqVa w s
  | .pghint w => Sys2Proof.Machine.execPghint w s
  | .csrr w => Sys2Proof.Machine.execCsrr w s
  | .csrw w => Sys2Proof.Machine.execCsrw w s
  | .enter w => Sys2Proof.Machine.execEnter w s
  | .leave w => Sys2Proof.Machine.execLeave w s
  | .mark w => Sys2Proof.Machine.execMark w s
  | .trig w => Sys2Proof.Machine.execTrig w s
  | .fret w => Sys2Proof.Machine.execFret w s
  | .fread w => Sys2Proof.Machine.execFread w s
  | .launch w => Sys2Proof.Machine.execLaunch w s
  | .notify w => Sys2Proof.Machine.execNotify w s
  | .dispatch core stream => Sys2Proof.Machine.execDispatch core stream s
  | .handlerActivation core stream => Sys2Proof.Machine.execHandlerActivation core stream s
  | .speculativeLoad core grp va => Sys2Proof.Machine.execSpeculativeLoad core grp va s
  | .longLatencyComplete grp tid idx => Sys2Proof.Machine.execLongLatencyComplete grp tid idx s
  | .ldqDataArrive grp tid q idx => Sys2Proof.Machine.execLdqDataArrive grp tid q idx s
  | .storeDrain core idx => Sys2Proof.Machine.execStoreDrain core idx s
  | .napExpire grp tid => Sys2Proof.Machine.execNapExpire grp tid s
  | .pinLapse idx => Sys2Proof.Machine.execPinLapse idx s
  | .mmaComplete core => Sys2Proof.Machine.execMmaComplete core s
  | .mzeroComplete core => Sys2Proof.Machine.execMzeroComplete core s
  | .mldbComplete core idx => Sys2Proof.Machine.execMldbComplete core idx s
  | .mdrainComplete core idx => Sys2Proof.Machine.execMdrainComplete core idx s
  | .orderedSlotComplete idx => Sys2Proof.Machine.execOrderedSlotComplete idx s
  | .copyStart quad ch => Sys2Proof.Machine.execCopyStart quad ch s
  | .copyComplete quad ch => Sys2Proof.Machine.execCopyComplete quad ch s
  | .followOnMma quad ch => Sys2Proof.Machine.execFollowOnMma quad ch s
  | .groupRetire grp => Sys2Proof.Machine.execGroupRetire grp s
  | .placementReport die => Sys2Proof.Machine.execPlacementReport die s
  | .placeGang kern gang quad cores => Sys2Proof.Machine.execPlaceGang kern gang quad cores s
  | .dependenceCheck kern => Sys2Proof.Machine.execDependenceCheck kern s
  | .preemptDecision kern gang => Sys2Proof.Machine.execPreemptDecision kern gang s
  | .gangHalted kern gang => Sys2Proof.Machine.execGangHalted kern gang s
  | .gangSaved kern gang => Sys2Proof.Machine.execGangSaved kern gang s
  | .containmentDecision ctx => Sys2Proof.Machine.execContainmentDecision ctx s
  | .create w => Sys2Proof.Machine.execCreate w s
  | .activate w => Sys2Proof.Machine.execActivate w s
  | .quiesce w => Sys2Proof.Machine.execQuiesce w s
  | .resume w => Sys2Proof.Machine.execResume w s
  | .destroy w => Sys2Proof.Machine.execDestroy w s
  | .setrights w => Sys2Proof.Machine.execSetrights w s
  | .teardownComplete ctx => Sys2Proof.Machine.execTeardownComplete ctx s
  | .qslotMap w => Sys2Proof.Machine.execQslotMap w s
  | .qslotUnmap w => Sys2Proof.Machine.execQslotUnmap w s
  | .qslotReset w => Sys2Proof.Machine.execQslotReset w s
  | .qnotify slot => Sys2Proof.Machine.execQnotify slot s
  | .idleUnmap slot => Sys2Proof.Machine.execIdleUnmap slot s
  | .nopPacket slot => Sys2Proof.Machine.execNopPacket slot s
  | .launchPacket slot => Sys2Proof.Machine.execLaunchPacket slot s
  | .waitmem slot => Sys2Proof.Machine.execWaitmem slot s
  | .waitcmd slot => Sys2Proof.Machine.execWaitcmd slot s
  | .signal slot => Sys2Proof.Machine.execSignal slot s
  | .waitEvaluate slot => Sys2Proof.Machine.execWaitEvaluate slot s
  | .waitTimeout slot => Sys2Proof.Machine.execWaitTimeout slot s
  | .signalDone slot => Sys2Proof.Machine.execSignalDone slot s
  | .tlbWalk ctx va => Sys2Proof.Machine.execTlbWalk ctx va s
  | .faultResolve fseq => Sys2Proof.Machine.execFaultResolve fseq s
  | .refillComplete ctx va frame => Sys2Proof.Machine.execRefillComplete ctx va frame s
  | .pageEviction ctx va => Sys2Proof.Machine.execPageEviction ctx va s
  | .pageWritebackComplete ctx va => Sys2Proof.Machine.execPageWritebackComplete ctx va s
  | .migrationComplete ctx va => Sys2Proof.Machine.execMigrationComplete ctx va s
  | .counterHalving => Sys2Proof.Machine.execCounterHalving s
  | .prefetchRequest => Sys2Proof.Machine.execPrefetchRequest s
  | .uncorrectableError line => Sys2Proof.Machine.execUncorrectableError line s
  | .reqMap => Sys2Proof.Machine.execReqMap s
  | .reqUnmap => Sys2Proof.Machine.execReqUnmap s
  | .migrate => Sys2Proof.Machine.execMigrate s
  | .pinpage => Sys2Proof.Machine.execPinpage s
  | .unpinpage => Sys2Proof.Machine.execUnpinpage s
  | .protect => Sys2Proof.Machine.execProtect s
  | .leaseExpiring l => Sys2Proof.Machine.execLeaseExpiring l s
  | .leaseExpiry l => Sys2Proof.Machine.execLeaseExpiry l s
  | .revocationDeadline l => Sys2Proof.Machine.execRevocationDeadline l s
  | .nodeFailureTimeout l => Sys2Proof.Machine.execNodeFailureTimeout l s
  | .leaseRelease l => Sys2Proof.Machine.execLeaseRelease l s
  | .reqrenewRepeat l => Sys2Proof.Machine.execReqrenewRepeat l s
  | .mailboxPoll => Sys2Proof.Machine.execMailboxPoll s
  | .grant => Sys2Proof.Machine.execGrant s
  | .renew => Sys2Proof.Machine.execRenew s
  | .revoke => Sys2Proof.Machine.execRevoke s
  | .nodefail => Sys2Proof.Machine.execNodefail s
  | .replace => Sys2Proof.Machine.execReplace s
  | .completionTimeout l => Sys2Proof.Machine.execCompletionTimeout l s
  | .bisnp port addr => Sys2Proof.Machine.execBisnp port addr s
  | .hdmRead pa n => Sys2Proof.Machine.execHdmRead pa n s
  | .hdmWrite pa bytes => Sys2Proof.Machine.execHdmWrite pa bytes s
  | .hostSnoop addr => Sys2Proof.Machine.execHostSnoop addr s
  | .readRequest die line => Sys2Proof.Machine.execReadRequest die line s
  | .ownershipRequest die line => Sys2Proof.Machine.execOwnershipRequest die line s
  | .handoff line => Sys2Proof.Machine.execHandoff line s
  | .dieEviction die line => Sys2Proof.Machine.execDieEviction die line s
  | .writebackGrant line => Sys2Proof.Machine.execWritebackGrant line s
  | .mergeComplete line => Sys2Proof.Machine.execMergeComplete line s
  | .ptmExchange offset => Sys2Proof.Machine.execPtmExchange offset s
  | .trainingComplete port rate width => Sys2Proof.Machine.execTrainingComplete port rate width s
  | .trainingRetry port => Sys2Proof.Machine.execTrainingRetry port s
  | .linkLoss port => Sys2Proof.Machine.execLinkLoss port s
  | .integrityFailure port => Sys2Proof.Machine.execIntegrityFailure port s
  | .spdmRequest setsKey port => Sys2Proof.Machine.execSpdmRequest setsKey port s
  | .retrain w => Sys2Proof.Machine.execRetrain w s
  | .lowpower w => Sys2Proof.Machine.execLowpower w s
  | .wake w => Sys2Proof.Machine.execWake w s
  | .linkDisable w => Sys2Proof.Machine.execLinkDisable w s
  | .linkEnable w => Sys2Proof.Machine.execLinkEnable w s
  | .dieclk w => Sys2Proof.Machine.execDieclk w s
  | .quadout w => Sys2Proof.Machine.execQuadout w s
  | .quadin w => Sys2Proof.Machine.execQuadin w s
  | .quadgate w => Sys2Proof.Machine.execQuadgate w s
  | .quadungate w => Sys2Proof.Machine.execQuadungate w s
  | .hbmdown w => Sys2Proof.Machine.execHbmdown w s
  | .hbmup w => Sys2Proof.Machine.execHbmup w s
  | .fwload w => Sys2Proof.Machine.execFwload w s
  | .hbmRetrain stack chan => Sys2Proof.Machine.execHbmRetrain stack chan s
  | .trip cause die => Sys2Proof.Machine.execTrip cause die s
  | .powerGood => Sys2Proof.Machine.execPowerGood s
  | .warmReset => Sys2Proof.Machine.execWarmReset s
  | .hbmTraining failed => Sys2Proof.Machine.execHbmTraining failed s
  | .selfTest failed => Sys2Proof.Machine.execSelfTest failed s
  | .tripRead => Sys2Proof.Machine.execTripRead s
  | .linkstatRead port => Sys2Proof.Machine.execLinkstatRead port s
  | .mbxcfgWrite v => Sys2Proof.Machine.execMbxcfgWrite v s
  | .sampcfgWrite v => Sys2Proof.Machine.execSampcfgWrite v s
  | .registerWrite off size v => Sys2Proof.Machine.execRegisterWrite off size v s
  | .hostHalt w => Sys2Proof.Machine.execHostHalt w s
  | .debugResume w => Sys2Proof.Machine.execDebugResume w s
  | .debugRead w => Sys2Proof.Machine.execDebugRead w s
  | .debugWrite w => Sys2Proof.Machine.execDebugWrite w s
  | .setbp w => Sys2Proof.Machine.execSetbp w s
  | .clrbp w => Sys2Proof.Machine.execClrbp w s
  | .setwp w => Sys2Proof.Machine.execSetwp w s
  | .clrwp w => Sys2Proof.Machine.execClrwp w s
  | .trigcfg w => Sys2Proof.Machine.execTrigcfg w s
  | .trial w => Sys2Proof.Machine.execTrial w s
  | .sample core => Sys2Proof.Machine.execSample core s
  | .trialDelay core stream => Sys2Proof.Machine.execTrialDelay core stream s
  | .renewwaitExpiry fseq => Sys2Proof.Machine.execRenewwaitExpiry fseq s
  | .linkErrorRecovered port => Sys2Proof.Machine.execLinkErrorRecovered port s
  | .invalidPacket slot => Sys2Proof.Machine.execInvalidPacket slot s
  | .powerOff => Sys2Proof.Machine.execPowerOff s

end Sys2Proof.Machine
end

