-- ==== Sys2Proof/Machine/Turn.lean ====
section
/-! DEFINITION. A stream's turn, and the turn of the stream in focus when the agenda names none (log 3): what `step` calls. -/

namespace Sys2Proof.Machine

/-- A stream's turn: the word it issues is executed; a stream with nothing to issue leaves the state as it is. -/
def issueStep (core stream : Nat) (s : State) : Host.Outcome State Fault Refusal :=
  match s.ready core stream with
  | .run i s1 => exec i s1
  | .took s1 => .next s1
  | .idle => .next s

/-- A stream's turn in which the word it issues goes to the next `n` threads of its pack that have not had theirs, so that other agents may act between two threads' turns (09 R217; 07 R146). -/
def lanesStep (core stream n : Nat) (s : State) : Host.Outcome State Fault Refusal :=
  match issueStep core stream { s with laneLimit := some n } with
  | .next s1 => .next { s1 with laneLimit := none }
  | other => other

/-- The first event of the device's own agents that changes anything (log 3). -/
def State.internal (s : State) (core stream : Nat) : Option Instr :=
  (s.nextEvents core stream).find? (fun i => match exec i s with
    | .next s1 => decide (s1 ≠ s)
    | _ => false)

/-- A free stream chooses a dispatch, stream 0 first (07 R143). -/
def State.chosen (s : State) (core stream : Nat) : State :=
  (distinct [0, stream]).foldl (fun (a : State) k => match exec (.dispatch core k) a with
    | .next s1 => s1
    | _ => a) s

/-- The turn of the stream in focus when the agenda is empty: one core cycle passes; then an event of the device happens where the stream has nothing to issue (16 R358: pending activations come first), or a free stream chooses a dispatch, and a word issues in the same cycle (07 R143, R146). -/
def focusStep (s : State) : Host.Outcome State Fault Refusal :=
  let c := s.focus.1
  let k := s.focus.2
  let s0 := s.passTime (s.cycle c)
  match (s0.stream c k).dispatch with
  | none =>
    match s0.internal c k with
    | some i => exec i s0
    | none => issueStep c k (s0.chosen c k)
  | some d =>
    if d.stuck then
      let s1 := s0.setStream c k { s0.stream c k with dispatch := some { d with stuck := false } }
      match s1.internal c k with
      | some i => exec i s1
      | none => .next s1
    else
      match s0.ready c k with
      | .run i s1 => exec i s1
      | .took s1 => .next s1
      | .idle =>
        match s0.internal c k with
        | some i => exec i s0
        | none => .next s0

end Sys2Proof.Machine
end

