-- ==== Sys2Proof/Machine/Step.lean ====
section
/-! DEFINITION. One step of the device: the head of the agenda, or, when it is empty, the stream in focus (log 3); and a word placed where the next step fetches it. -/

namespace Sys2Proof.Machine

/-- One step (log 3). -/
def step (s : State) : Host.Outcome State Fault Refusal :=
  match s.agenda with
  | [] => focusStep s
  | t :: rest =>
    let s1 := { s with agenda := rest }
    match t with
    | .event i => exec i s1
    | .issue c k => issueStep c k s1
    | .issueLanes c k n => lanesStep c k n s1
    | other => .next (s1.plainTurn other)

/-- `s` with a word where step fetches next, and all that its issue takes: context 0, its tables and code page, a kernel of one thread on core 0 whose dispatch on stream 0 stands at the word (log 15). Every word of this hardware has 64 bits. -/
def State.withFetchWord (s : State) (nbits w : Nat) : State :=
  let word := w % 2 ^ nbits % 2 ^ 64
  let i := rawDecode (BitVec.ofNat 64 word)
  let s1 := { s with agenda := [], focus := (0, 0), nextUid := s.nextUid + 1, hbm := Mem.write placedTables 0x70000 (bytesOfNat word 8), ctxs := putKey 0 placedCtx s.ctxs, kernels := putKey 0 placedKernel s.kernels, groups := putKey 0 placedGroup s.groups }
  s1.setStream 0 0 { Stream.free with dispatch := some (placedDispatch i) }

end Sys2Proof.Machine
end

