-- ==== Sys2Proof/Safety.lean ====
section
/-! DEFINITION. The terms claims are stated in: canonical memories, a word issued to a pack that can take it, and what a word leaves as it was. -/

namespace Sys2Proof.Machine

/-- Every byte memory of the device, its MSI-X table, of the host, of the pool and of the groups' scratchpads and vitrines is in its canonical form. -/
def State.memWf (s : State) : Bool :=
  s.hbm.wf && s.hostMem.wf && s.pool.wf && s.bar2.wf && s.groups.all (fun e => e.2.scratch.wf && e.2.vitrine.wf)

/-- Every byte memory is in its canonical form; every core has its two streams (01 R12), the device its eight ports (15 R338), and the lease table lists each lease once. -/
def State.wf (s : State) : Bool :=
  s.memWf && s.cores.all (fun c => c.2.streams.length == 2) && s.ports.length == 8 && keysRise s.leases

/-- The word's guard holds for a thread (02 R41). -/
def Thread.takes (t : Thread) (i : Instr) : Bool := ((guardOf i).map (fun g => t.guard g)).getD true

/-- A thread can take a word now (02 R39, R45; 07 R146): it runs, outside regions, with no write still held, and where the guard holds the queue entries it pops are there. -/
structure Thread.Ready (t : Thread) (i : Instr) : Prop where
  runs : t.cond = .running
  noRegion : t.region = none
  landed : t.held = []
  unraised : t.raised = []
  onTime : t.late = none
  sources : t.takes i = true → t.canPop (srcQueues i) = true

/-- The word is issued from a dispatch in handler mode (16 R358). -/
def State.handling (s : State) (iss : Issue) : Bool := ((s.issuing iss).map (fun d => d.handler)).getD false

/-- A word is being issued to a pack (07 R146) that meets no decode fault (02 R43, 07 R149, 16 R358) and whose threads are all ready; it goes to all of them in this turn (log 3). -/
structure State.Issues (s : State) (iss : Issue) (g : Group) (i : Instr) : Prop where
  issue : s.issue = some iss
  group : s.group? iss.grp = some g
  legal : wordFault i g.frame g.accs (s.corOf g) (s.handling iss) = none
  rows : crossLane i = true → ((s.issuing iss).map (fun d => d.rowblk)).getD false = true
  goesOn : s.handling iss = true → handlerEnds i = false
  fresh : ((s.issuing iss).map (fun d => d.acted)).getD [] = []
  whole : s.laneLimit = none
  distinct : (iss.lanes.map (fun l => l.2)).Nodup
  threads : ∀ l ∈ iss.lanes, ∃ t, g.threads[l.2]? = some t ∧ t.Ready i

/-- A 32-bit source before the word: the register, or the entry of a queue register after `k` others (02 R37, R39). -/
def Thread.source (t : Thread) (c : Code) (k : Nat) : Word :=
  match Operand.ofCode c with
  | .v n => t.v.get n
  | .q n => (((t.queue n).drop k).head?.map (fun x => x.value)).getD 0
  | _ => 0

/-- Source A of an F0 word. -/
def Thread.sourceA (t : Thread) (w : F0) : Word := t.source w.a 0

/-- Source B of an F0 word: the entry after A's where both pop one queue (02 R39). -/
def Thread.sourceB (t : Thread) (w : F0) : Word :=
  t.source w.b (match Operand.ofCode w.a, Operand.ofCode w.b with
    | .q m, .q n => if m = n then 1 else 0
    | _, _ => 0)

/-- A 64-bit source in a register pair (02 R37). -/
def Thread.sourcePair (t : Thread) (c : Code) : Dword := joinWords (t.v.get (vnum c)) (t.v.get (vnum c + 1))

/-- No source register of the word has been released by a last-read mark: a read of one is not defined (02 R50). -/
def Thread.reads (t : Thread) (i : Instr) : Prop := ∀ r ∈ srcRegs i, r ∉ t.released

/-- The word changed nothing but threads and flags of its group, and the dispatch it was issued from: no memory, no other group, no engine, queue, table or register of the device. -/
structure OnlyThreads (s s' : State) (iss : Issue) (g : Group) : Prop where
  device : ∃ G C, s' = { s with groups := G, cores := C, issue := none, choiceCtr := s.choiceCtr + 1 }
  others : ∀ k, k ≠ iss.grp → s'.group? k = s.group? k
  group : ∃ ths fl pd fs tab ovl y jn, s'.group? iss.grp = some { g with threads := ths, fpflags := fl, fpPending := pd, fpStream := fs, table := tab, overflow := ovl, yielded := y, joinAt := jn }
  rest : ∀ n, n ∉ iss.lanes.map (fun l => l.2) → s'.thread? iss.grp n = s.thread? iss.grp n
  cores : ∀ c, c ≠ iss.core → s'.core c = s.core c
  core : ∃ st, s'.core iss.core = { s.core iss.core with streams := st }

/-- Flags gathered. -/
def orFlags (l : List Flags) : Flags := l.foldl (fun a b => a ||| b) 0

/-- Retirement of a thread with nothing held (02 R39, R45, R49; 04 R100; 16 R358): its sources are popped where the guard held, the windows count the word, or close where it ends the dispatch, its marked sources are released but for the registers it has written, its retry count is 0 and it goes on at the next address. -/
def Thread.after (t : Thread) (i : Instr) (go : Bool) (written : List Nat) (pc : Dword) : Thread :=
  { t with
    released := marksOf (wordMarks i) written ++ t.released.filter (fun r => !(marksOf (wordMarks i) written).contains r)
    q := (if go then t.pops (srcQueues i) else t).q.map (fun l => l.map (fun e => { e with left := if endsDispatch i then 0 else if t.inHandler then e.left else e.left - 1 }))
    retry := 0, addr := pc + 8, stepOver := false, raised := [] }

/-- A thread whose guard does not hold (02 R42): it retires with no effect, and leaves the dispatch where the word ends it. -/
def Thread.skips (t : Thread) (i : Instr) (pc : Dword) (clock : Nat) : Thread :=
  if endsDispatch i then (t.after i false [] pc).waitAt (pc + 8) clock else t.after i false [] pc

/-- A group's pending FP exception and the stream it came from, once flags are raised at an address in this core cycle (03 R83): an enabled flag makes it pending with that address where none is pending, or where the one pending came in the same cycle from a higher stream. -/
def Group.pendingWith (g : Group) (flags : Flags) (pc : Dword) (clock stream : Nat) : Option (Dword × Nat) × Nat :=
  if flags &&& g.trapEn ≠ 0 ∧ (g.fpPending = none ∨ (g.fpPending.map (fun p => p.2) = some clock ∧ stream < g.fpStream)) then (some (pc, clock), stream)
  else (g.fpPending, g.fpStream)

/-- The flags that the threads of a pack raise by a word: those of each thread whose guard holds. -/
def Group.raisedOver (g : Group) (iss : Issue) (i : Instr) (flags : Nat × Nat → Thread → Flags) : Flags :=
  orFlags (iss.lanes.map (fun l => ((g.threads[l.2]?).map (fun t => if t.takes i then flags l t else 0)).getD 0))

/-- What a word leaves that changes its threads alone: `next` makes each thread of the pack whose guard holds from what it was, `flags` is what it raises; an enabled flag makes an FP exception pending with the word's address (03 R83). -/
structure Gives (s s' : State) (iss : Issue) (g : Group) (i : Instr) (next : Nat × Nat → Thread → Thread) (flags : Nat × Nat → Thread → Flags) : Prop where
  only : OnlyThreads s s' iss g
  threads : ∀ l ∈ iss.lanes, ∀ t, g.threads[l.2]? = some t → s'.thread? iss.grp l.2 = some (if t.takes i then next l t else t.skips i iss.pc (s.clock iss.core))
  pending : (s'.group? iss.grp).map (fun x => (x.fpPending, x.fpStream)) = some (g.pendingWith (g.raisedOver iss i flags) iss.pc (s.clock g.core) iss.stream)
  flags : (s'.group? iss.grp).map (fun x => x.fpflags) = some (g.fpflags ||| g.raisedOver iss i flags)

/-- In every state that issues the word to a pack, its source registers live, it completes and changes its threads alone: the registers and predicates of `put`, the flags, and the thread's retirement. -/
def Computes (i : Instr) (put : State → Group → Nat × Nat → Thread → Thread) (flags : State → Group → Nat × Nat → Thread → Flags) : Prop :=
  ∀ (s : State) (iss : Issue) (g : Group), s.Issues iss g i → (∀ l ∈ iss.lanes, ∀ t, g.threads[l.2]? = some t → t.takes i = true → t.reads i) →
    ∃ s', exec i s = .next s' ∧ Gives s s' iss g i (fun l t => (put s g l t).after i true (dstRegs i) iss.pc) (flags s g)

/-- One, two, three or four registers set, the first with bits [31:0] (02 R37). -/
def Thread.setMany (t : Thread) (n count : Nat) (x : Qword) : Thread :=
  (List.range count).foldl (fun a k => a.setV (n + k) (x.extractLsb' (32 * k) 32)) t

/-- A thread whose word gives a result of `count` registers that may come later (02 R46; 03 R82): with lookahead 0 the registers are written at once; else the write is held for as many instructions and its value is to come. -/
def Thread.later (t : Thread) (i : Instr) (pc : Dword) (reg count : Nat) (value : Qword) (flags : Flags) : Thread :=
  if laOf i = 0 then (t.after i true [] pc).setMany reg count value
  else { t.after i true [] pc with held := [{ reg := reg, count := count, value := value, left := laOf i, ready := false, tag := none, flags := flags, at_ := pc }] }

/-- In every state that issues the word to a pack, its source registers live, it completes and changes its threads alone: each takes the result, at once or held, and with lookahead 0 the flags are raised now. -/
def ComputesLater (i : Instr) (reg count : Nat) (value : State → Group → Nat × Nat → Thread → Qword) (flags : State → Group → Nat × Nat → Thread → Flags) : Prop :=
  ∀ (s : State) (iss : Issue) (g : Group), s.Issues iss g i → (∀ l ∈ iss.lanes, ∀ t, g.threads[l.2]? = some t → t.takes i = true → t.reads i) →
    ∃ s', exec i s = .next s' ∧ Gives s s' iss g i (fun l t => t.later i iss.pc reg count (value s g l t) (flags s g l t)) (fun l t => if laOf i = 0 then flags s g l t else 0)

/-- A register pair set, the low word first (02 R37). -/
def Thread.setPair (t : Thread) (n : Nat) (x : Dword) : Thread := (t.setV n (lowWord x)).setV (n + 1) (highWord x)

/-- The word sets one register to a function of its thread, and nothing else but the thread's retirement. -/
def Sets32 (i : Instr) (d : Code) (f : Thread → Word) : Prop := Computes i (fun _ _ _ t => t.setV (vnum d) (f t)) (fun _ _ _ _ => 0)

/-- The word sets one register pair. -/
def Sets64 (i : Instr) (d : Code) (f : Thread → Dword) : Prop := Computes i (fun _ _ _ t => t.setPair (vnum d) (f t)) (fun _ _ _ _ => 0)

/-- The word sets one predicate; a write of p7 is discarded (02 R37). -/
def SetsPred (i : Instr) (d : Code) (f : Thread → Bool) : Prop := Computes i (fun _ _ _ t => t.setPred (pnum d) (f t)) (fun _ _ _ _ => 0)

/-- A word from its 32 bits. -/
def wordOfBits (f : Nat → Bool) : Word := (BitVec.ofBoolListLE ((List.range 32).map f)).setWidth 32

/-- The word sets one register and raises flags, from the group's rounding state and its thread. -/
def SetsFloat (i : Instr) (d : Code) (f : Group → Nat × Nat → Thread → Word × Flags) (seq : Group → Thread → Nat) : Prop :=
  Computes i (fun _ g l t => ({ t with sq := t.sq + BitVec.ofNat 32 (seq g t) } : Thread).setV (vnum d) (f g l t).1) (fun _ g l t => (f g l t).2)

/-- The rounding mode of the k-th element an instruction rounds for a thread (03 R80, 08 R167): its rounding field, or FPROUND where the field is 0; under RSR with the counter of the thread's place in the kernel and its rounding sequence. -/
def Group.roundMode (g : Group) (tid : Nat) (t : Thread) (field k : Nat) : Mode :=
  match (if field = 0 then g.fpround.toNat else field - 1) with
  | 0 => .rne
  | 1 => .rtz
  | 2 => .rup
  | 3 => .rdn
  | _ => .rsr (gHash g.key (BitVec.ofNat 32 (g.gidx * 1024 + tid) ++ (t.sq + BitVec.ofNat 32 k)))

/-- The rounding field resolves to RSR, which advances the rounding sequence (03 R80). -/
def Group.stochastic (g : Group) (field : Nat) : Bool := decide ((if field = 0 then g.fpround.toNat else field - 1) = 4)

/-- The value of a finite code. -/
def Val.rat : Val → ℚ
  | .fin neg m e => (if neg then -1 else 1) * (m : ℚ) * (2 : ℚ) ^ e
  | _ => 0

/-- The value is finite. -/
def Val.finite : Val → Bool
  | .fin _ _ _ => true
  | _ => false

/-- The active lanes of a cross-lane word (07 R151): lane and thread of each thread of the pack whose guard holds, as they stood before it. -/
def Group.active (g : Group) (iss : Issue) (i : Instr) : List (Nat × Thread) :=
  iss.lanes.filterMap (fun l => (g.threads[l.2]?).bind (fun t => if t.takes i then some (l.1, t) else none))

/-- In every state that issues a cross-lane word to a row, its source registers live, it completes: each active thread becomes what `put` makes of the active lanes, its own lane and itself. -/
def Crosses (i : Instr) (put : Group → List (Nat × Thread) → Nat → Thread → Thread) (flags : Group → List (Nat × Thread) → Nat → Flags) : Prop :=
  ∀ (s : State) (iss : Issue) (g : Group), s.Issues iss g i → (iss.lanes.map (fun l => l.1)).Nodup → (∀ l ∈ iss.lanes, l.1 < 32) →
    (∀ l ∈ iss.lanes, ∀ t, g.threads[l.2]? = some t → t.takes i = true → t.reads i) →
    ∃ s', exec i s = .next s' ∧ Gives s s' iss g i (fun l t => (put g (g.active iss i) l.1 t).after i true (dstRegs i) iss.pc) (fun l _ => flags g (g.active iss i) l.1)

/-- A reduction tree over 2^n leaves (03 R87, 08 R184): a node of one absent child passes the other, and one of none is absent. -/
def reduceTree (f : Word → Word → Word × Flags) (leaf : Nat → Option Word) : Nat → Nat → Option Word × Flags
  | 0, i => (leaf i, 0)
  | n + 1, i =>
    let a := reduceTree f leaf n (2 * i)
    let b := reduceTree f leaf n (2 * i + 1)
    match a.1, b.1 with
    | some p, some q => (some (f p q).1, a.2 ||| b.2 ||| (f p q).2)
    | some p, none => (some p, a.2 ||| b.2)
    | none, q => (q, a.2 ||| b.2)

/-- The end of a word that no fault follows: `s'` is the state `e` of its effect but for the flags its threads pass to their group, the group's block table, the dispatch, and the bookkeeping of the issue (03 R82; 07 R140, R146, R147). -/
structure Ends (e s' : State) (iss : Issue) : Prop where
  device : ∃ G C, s' = { e with groups := G, cores := C, issue := none, choiceCtr := e.choiceCtr + 1 }
  others : ∀ k, k ≠ iss.grp → s'.group? k = e.group? k
  group : ∀ x, e.group? iss.grp = some x → ∃ ths pd fs tab ovl y jn, s'.group? iss.grp = some { x with threads := ths, fpflags := x.fpflags ||| orFlags (iss.lanes.map (fun l => ((x.threads[l.2]?).map (fun t => t.raised.foldl (fun a f => a ||| f.1) 0)).getD 0)), fpPending := pd, fpStream := fs, table := tab, overflow := ovl, yielded := y, joinAt := jn }
  threads : ∀ n, s'.thread? iss.grp n = if n ∈ iss.lanes.map (fun l => l.2) then (e.thread? iss.grp n).map (fun t => { t with raised := [] }) else e.thread? iss.grp n
  cores : ∀ c, c ≠ iss.core → s'.core c = e.core c
  core : ∃ st, s'.core iss.core = { e.core iss.core with streams := st }

/-- A word is issued to a pack of one thread, `l`, whose guard holds and whose source registers are live. -/
structure State.IssuesOne (s : State) (iss : Issue) (g : Group) (i : Instr) (l : Nat × Nat) (t : Thread) : Prop extends s.Issues iss g i where
  one : iss.lanes = [l]
  thread : g.threads[l.2]? = some t
  takes : t.takes i = true
  live : t.reads i

/-- In every state that issues the word to a pack, its source registers live and `ok` true of the threads whose guard holds, it completes and changes its threads alone: `go` makes each of what it was, of what it is once retired, and of the core cycle. -/
def Leaves (i : Instr) (ok : State → Issue → Nat × Nat → Thread → Prop) (go : Issue → Nat → Thread → Thread → Thread) : Prop :=
  ∀ (s : State) (iss : Issue) (g : Group), s.Issues iss g i → (∀ l ∈ iss.lanes, ∀ t, g.threads[l.2]? = some t → t.takes i = true → t.reads i ∧ ok s iss l t) →
    ∃ s', exec i s = .next s' ∧ Gives s s' iss g i (fun _ t => go iss (s.clock iss.core) t (t.after i true [] iss.pc)) (fun _ _ => 0)

/-- The record of a fault of some lanes of a pack (16 R354), field by field: `route` is its party, and IDX is the fault's number on the page path. -/
def recordOf (s : State) (iss : Issue) (g : Group) (lanes : List (Nat × Nat)) (route : Nat) (f : TFault) : FaultRec :=
  let low := (lanes.headD (0, 0)).2
  { kseq := ((s.kern? g.kern).map (fun k => k.kseq)).getD 0
    route := route
    ctx := g.ctx
    cls := if route = 1 then 0xFF else causeClass f.cause
    cause := f.cause
    noThread := false
    count := lanes.length
    first := low
    gidx := g.gidx
    instAddr := iss.pc
    addr := f.addr
    retry := ((g.threads[low]?).map (fun t => if t.retryAt = iss.pc then t.retry else 0)).getD 0
    queue := ((s.kern? g.kern).map (fun k => k.slot)).getD 0
    laneMask := lanes.foldl (fun m l => m ||| ((1 : Word) <<< l.1)) 0
    extra := f.extra (s.faultSeq g.ctx f)
    time := BitVec.ofNat 64 s.ns
    idx := if route = 1 then BitVec.ofNat 32 (s.faultSeq g.ctx f) else 0
    regTop := ((g.threads[low]?).map (fun t => t.regtop)).getD 0 }

/-- The event of a fault of one thread of the word being issued, on its way to the triggers (16 R369). -/
def faultEvent (s : State) (iss : Issue) (g : Group) (l : Nat × Nat) (f : TFault) : TrigEvent :=
  { ctx := g.ctx, core := iss.core, grp := iss.grp, gidx := g.gidx, kseq := ((s.kern? g.kern).map (fun k => k.kseq)).getD 0, count := iss.on.length, low := l.2,
    top := ((g.threads[l.2]?).map (fun t => t.regtop)).getD 0, kind := 5, id := f.cause, waits := false, hit := [l.2] }

/-- A fault of one thread has changed nothing but what its party is told, its event, and the thread itself: the rest of its group, every other group, core and memory, and the other contexts are as before. -/
structure FaultFrame (s s' : State) (iss : Issue) (g : Group) (l : Nat × Nat) (t' : Thread) (f : TFault) : Prop where
  device : ∃ G C X P F, s' = { s with groups := G, cores := C, ctxs := X, pend := P, fseq := F, evbuf := s.evbuf ++ [faultEvent s iss g l f], issue := none, choiceCtr := s.choiceCtr + 1 }
  others : ∀ k, k ≠ iss.grp → s'.group? k = s.group? k
  group : ∃ tab ovl y jn, s'.group? iss.grp = some { g with threads := g.threads.set l.2 t', table := tab, overflow := ovl, yielded := y, joinAt := jn }
  ctxs : ∀ k, k ≠ g.ctx → s'.ctx k = s.ctx k
  cores : ∀ c, c ≠ iss.core → s'.core c = s.core c
  core : ∃ st, s'.core iss.core = { s.core iss.core with streams := st }

/-- A fault of one thread has been taken by containment, or, with route 3, stopped it for the debugger (07 R147; 16 R354 to R357; 04 R102): it waits at the instruction, and one record is the newest of its context's. -/
structure FaultTaken (s s' : State) (iss : Issue) (g : Group) (l : Nat × Nat) (t : Thread) (route : Nat) (f : TFault) : Prop where
  frame : FaultFrame s s' iss g l (if route = 3 then { t.blockAt .debug iss.pc (s.clock iss.core) with stop := f.stopKind } else t.blockAt .contain iss.pc (s.clock iss.core)) f
  record : ∃ pols qkey dead, s'.ctx g.ctx = { s.ctx g.ctx with faults := (s.ctx g.ctx).faults ++ [{ record := recordOf s iss g [l] route f, grp := some iss.grp, kern := some g.kern, tids := [l.2], after := false, level := 0, engine := false, pols := pols, qkey := qkey, dead := dead }] }
  pend : s'.pend = s.pend ∧ s'.fseq = s.fseq

/-- In every state that issues the word to a pack of one thread, outside a handler, where `ok` holds, the thread meets the fault of `f`, no fault of the page path, and it is taken. -/
def Faults (i : Instr) (ok : State → Issue → Group → Nat × Nat → Thread → Prop) (f : State → Issue → Group → Nat × Nat → Thread → TFault) : Prop :=
  ∀ (s : State) (iss : Issue) (g : Group) (l : Nat × Nat) (t : Thread), s.IssuesOne iss g i l t → s.handling iss = false → t.inHandler = false → ok s iss g l t → (f s iss g l t).cause ≠ 0x16 →
    ∃ s', exec i s = .next s' ∧ FaultTaken s s' iss g l t (if debugCause (f s iss g l t).cause = true ∧ (s.ctx g.ctx).debug = true then 3 else 0) (f s iss g l t)

/-- A fault of the page path has been taken (14 R325; 16 R357): the thread waits at the instruction for the Registrar, in the pending fault of its context, page and cause, which is new unless one was there. -/
structure PageFaultTaken (s s' : State) (iss : Issue) (g : Group) (l : Nat × Nat) (t : Thread) (va access : Nat) (f : PgFault) : Prop where
  frame : FaultFrame s s' iss g l (t.blockAt .page iss.pc (s.clock iss.core)) (.page va access f)
  ctx : s'.ctx g.ctx = s.ctx g.ctx
  joins : ∀ p, s.pend.find? (fun p => p.ctx == g.ctx && p.page == va / 65536 && p.cause == f.cause) = some p →
    s'.fseq = s.fseq ∧ s'.pend = s.pend.map (fun x => if x.fseq == p.fseq then { x with packs := x.packs ++ [{ grp := iss.grp, tids := [l.2], record := recordOf s iss g [l] 1 (.page va access f) }] } else x)
  starts : s.pend.find? (fun p => p.ctx == g.ctx && p.page == va / 65536 && p.cause == f.cause) = none →
    s'.fseq = s.fseq + 1 ∧ s'.pend = s.pend ++ [{ fseq := s.fseq, ctx := g.ctx, page := va / 65536, cause := f.cause, access := access, record := recordOf s iss g [l] 1 (.page va access f), packs := [{ grp := iss.grp, tids := [l.2], record := recordOf s iss g [l] 1 (.page va access f) }], at_ := s.ns, queued := decide (s.pend.length < 4096), asked := false }]

/-- What the one thread a word is issued to reads beside itself. -/
def State.env (s : State) (iss : Issue) (g : Group) (l : Nat × Nat) : Env := { s := s, iss := iss, grp := g, tid := l.2 }

/-- The word completes with the effect `e` on the state, and its thread retires. -/
def Retires (s : State) (iss : Issue) (i : Instr) (l : Nat × Nat) (e : State) : Prop :=
  ∃ s', exec i s = .next s' ∧ Ends (e.modThread iss.grp l.2 (fun t => t.after i true (dstRegs i) iss.pc)) s' iss

/-- The word completes with the effect `e`, and its thread retires with a result of `count` registers, now or held (02 R46). -/
def RetiresWith (s : State) (iss : Issue) (i : Instr) (l : Nat × Nat) (e : State) (reg count : Nat) (value : Qword) : Prop :=
  ∃ s', exec i s = .next s' ∧ Ends (e.modThread iss.grp l.2 (fun t => t.later i iss.pc reg count value 0)) s' iss

/-- The word completes with the effect `e`, and its thread, retired, leaves the dispatch as `go` makes it. -/
def RetiresTo (s : State) (iss : Issue) (i : Instr) (l : Nat × Nat) (e : State) (go : Thread → Thread) : Prop :=
  ∃ s', exec i s = .next s' ∧ Ends (e.modThread iss.grp l.2 (fun t => go (t.after i true (dstRegs i) iss.pc))) s' iss

/-- The stream holds the thread at the word, and nothing has happened (07 R146). -/
def Waits (s : State) (iss : Issue) (i : Instr) : Prop := ∃ s', exec i s = .next s' ∧ Ends s s' iss

/-- The pages of global places marked DIRTY (14 R310). -/
def State.marked (e : State) (g : Group) (ls : List Loc) : State :=
  ls.foldl (fun a l => match l with
    | .mem va _ => a.markDirty g.ctx va
    | _ => a) e

/-- What an atomic action leaves (09 R217, R218; 12 R263; 14 R310): its pages marked DIRTY, its bytes written, the L1 lines of the places it touched and of the acquired ranges dropped, ORDERREQ where `order` says so; the directory, the host filter, the access counters and the stores still performed at a narrow scope as `D`, `H`, `F` and `U`. A touched place comes with its address and size. -/
def atomDone (e : State) (iss : Issue) (g : Group) (marks : List Loc) (touched : List (Loc × Nat × Nat)) (puts : List (Loc × List Byte)) (rs : List Bound) (order : Bool) (D : Tab DirLine) (H : List Nat) (F : Tab Nat) (U : List Unseen) : State :=
  let m := puts.foldl (fun (a : State) x => match x.1 with
    | .mem _ pa => { a with hbm := a.hbm.write pa x.2 }
    | .cell k off _ => a.modGroup k (fun y => { y with scratch := y.scratch.write off x.2 })
    | .frame _ => a) (e.marked g marks)
  let gone (x : L1Line) : Bool := x.ctx == g.ctx && (touched.any (fun y => match y.1 with
    | .mem va _ => x.line == va / 128
    | .cell _ _ true => decide (y.2.1 / 128 ≤ x.line) && decide (x.line * 128 < y.2.1 + y.2.2)
    | _ => false) || rs.any (fun r => decide (r.base / 128 ≤ x.line) && decide (x.line * 128 < r.base + r.len)))
  ({ m.setCore iss.core { m.core iss.core with l1 := (m.core iss.core).l1.filter (fun x => !gone x) } with dir := D, hostFilter := H, counters := F, unseen := U }).modGroup iss.grp (fun x => { x with orderReq := x.orderReq || order })

/-- The word ends, as `k` says, with what an atomic action leaves; no store at a narrow scope is new, and none lies where the action wrote. -/
def AtomLeaves (e : State) (iss : Issue) (g : Group) (marks : List Loc) (touched : List (Loc × Nat × Nat)) (puts : List (Loc × List Byte)) (rs : List Bound) (order : Bool) (k : State → Prop) : Prop :=
  ∃ D H F U, U.Sublist e.unseen ∧ (∀ u ∈ U, ∀ x ∈ puts, ∀ va pa, x.1 = .mem va pa → u.phys + u.old.length ≤ pa ∨ pa + x.2.length ≤ u.phys)
    ∧ k (atomDone e iss g marks touched puts rs order D H F U)

/-- A place some bytes further on. -/
def Loc.shift (l : Loc) (n : Nat) : Loc :=
  match l with
  | .mem va pa => .mem (va + n) (pa + n)
  | .cell k off r => .cell k (off + n) r
  | .frame off => .frame (off + n)

/-- A fault that follows its word has been taken (03 R84, 11 R248): the thread has retired the word and waits after it for containment, and one record, whose instruction address is the word's, is the newest of its context's; `e` is the state of the word's other effects. -/
structure FaultAfter (e s' : State) (iss : Issue) (g : Group) (i : Instr) (l : Nat × Nat) (t : Thread) (f : TFault) : Prop where
  device : ∃ G C X, s' = { e with groups := G, cores := C, ctxs := X, evbuf := e.evbuf ++ [faultEvent e iss g l f], issue := none, choiceCtr := e.choiceCtr + 1 }
  others : ∀ k, k ≠ iss.grp → s'.group? k = e.group? k
  thread : s'.thread? iss.grp l.2 = some ((t.after i true (dstRegs i) iss.pc).blockAt .contain (iss.pc + 8) (e.clock iss.core))
  group : ∀ x, e.group? iss.grp = some x → ∃ ths tab ovl y jn, s'.group? iss.grp = some { x with threads := ths, table := tab, overflow := ovl, yielded := y, joinAt := jn }
  ctxs : ∀ k, k ≠ g.ctx → s'.ctx k = e.ctx k
  record : ∃ pols qkey dead, s'.ctx g.ctx = { e.ctx g.ctx with faults := (e.ctx g.ctx).faults ++ [{ record := { recordOf e iss g [l] 0 f with retry := 0 }, grp := some iss.grp, kern := some g.kern, tids := [l.2], after := true, level := 0, engine := false, pols := pols, qkey := qkey, dead := dead }] }
  cores : ∀ c, c ≠ iss.core → s'.core c = e.core c
  core : ∃ st, s'.core iss.core = { e.core iss.core with streams := st }

/-- The word's effect is `e`, and the fault of `f` follows it. -/
def FaultsAfter (s : State) (iss : Issue) (g : Group) (i : Instr) (l : Nat × Nat) (t : Thread) (e : State) (f : TFault) : Prop := ∃ s', exec i s = .next s' ∧ FaultAfter e s' iss g i l t f

/-- A word is issued to a pack of one thread, which is in the region `r` and has no write held. -/
structure State.IssuesIn (s : State) (iss : Issue) (g : Group) (i : Instr) (l : Nat × Nat) (t : Thread) (r : Region) : Prop where
  issue : s.issue = some iss
  group : s.group? iss.grp = some g
  legal : wordFault i g.frame g.accs (s.corOf g) (s.handling iss) = none
  rows : crossLane i = true → ((s.issuing iss).map (fun d => d.rowblk)).getD false = true
  goesOn : s.handling iss = true → handlerEnds i = false
  fresh : ((s.issuing iss).map (fun d => d.acted)).getD [] = []
  whole : s.laneLimit = none
  one : iss.lanes = [l]
  thread : g.threads[l.2]? = some t
  runs : t.cond = .running
  region : t.region = some r
  landed : t.held = []
  unraised : t.raised = []
  onTime : t.late = none
  takes : t.takes i = true
  live : t.reads i

/-- What an abort leaves of a thread with nothing held (10 R233, R234): the checkpoint, ACAUSE, and the thread waiting at the handler; AREPAIRS and the rounding sequence as they were. -/
structure Thread.Aborted (t u : Thread) (r : Region) (cause detail code clock : Nat) : Prop where
  region : u.region = none ∧ u.held = []
  registers : ∀ n, u.v.get n = ((r.chkV.find? (fun e => e.1 == n)).map (fun e => e.2)).getD (t.v.get n)
  predicates : u.p = r.chkP
  waits : u.cond = .waiting ∧ u.addr = r.handler ∧ u.since = clock
  acause : u.acause = BitVec.ofNat 32 (code % 65536 * 65536 + detail * 256 + (if r.excl then 128 else 0)
    + (if cause = 2 ∨ (cause = 1 ∧ detail = 0) then min (t.acause.toNat / 8 % 16 + 1) 8 else if cause = 1 then t.acause.toNat / 8 % 16 else 0) * 8 + cause)
  kept : u.arepairs = t.arepairs ∧ u.sq = t.sq ∧ u.lastAbegin = t.lastAbegin ∧ u.depth = t.depth ∧ u.stack = t.stack ∧ u.ret = t.ret ∧ u.spill = t.spill

/-- The state of an abort: no byte of memory has changed, the thread is `u`, its lock is released and its core's L1 lines of the tracked lines are gone. -/
def abortEffect (s : State) (iss : Issue) (g : Group) (l : Nat × Nat) (r : Region) (u : Thread) : State :=
  ((s.setThread iss.grp l.2 u).unlock iss.grp l.2 false).l1Drop g.core (fun x => x.ctx == g.ctx && r.vaLines.contains x.line)

/-- A group but for the lines that its threads' regions track (10 R221). -/
def Group.untracked (x : Group) : Group := { x with threads := x.threads.map (fun t => { t with region := t.region.map (fun r => { r with lines := [] }) }) }

/-- The groups of two states are alike but for the lines that regions track: what a page's move between frames leaves of them. -/
def sameGroups (l m : Tab Group) : Prop := l.map (fun e => (e.1, e.2.untracked)) = m.map (fun e => (e.1, e.2.untracked))

/-- Memory once the 2 MiB group of a page with the entry `p` is one no longer (14 R311): where GROUP is set there, it is cleared in the group's 32 entries. -/
def State.groupGone (s : State) (c page : Nat) (p : Dword) : Mem :=
  if p.getLsbD 57 then (List.range 32).foldl (fun m k => match s.walkCtx c ((page / 32 * 32 + k) * 65536) with
    | .leaf a e => m.write a (bytesOfNat (e &&& ~~~(1 <<< 57 : Dword)).toNat 8)
    | .invalid _ => m) s.hbm
  else s.hbm

/-- Where a page's entry has GROUP set, memory is canonical and its context's tables are aligned, as CREATE sees to (04 R95): its group's entries are apart. -/
def State.grouped (s : State) (c : Nat) (p : Dword) : Prop := p.getLsbD 57 = true → Mem.wf s.hbm = true ∧ (s.ctx c).ptroot.toNat % 8 = 0

end Sys2Proof.Machine
end

