-- ==== Sys2Proof/WellFormed.lean ====
section
/-! DEFINITION. Well-formed instructions: a word whose own bits raise no decode fault (spec/02 R43, the table of Machine/Forms.lean), an event whose operands name what the device has. -/

namespace Sys2Proof

/-- The operands of an event name what the device has (01 R9, R11, 04 R91, 05 R106, 14 R321, 15 R338). -/
def eventOk : Instr → Bool
  | .dispatch c s => c < 384 && s < 2
  | .handlerActivation c s => c < 384 && s < 2
  | .trialDelay c s => c < 384 && s < 2
  | .speculativeLoad c _ _ => c < 384
  | .storeDrain c _ => c < 384
  | .mmaComplete c => c < 384
  | .mzeroComplete c => c < 384
  | .mldbComplete c _ => c < 384
  | .mdrainComplete c _ => c < 384
  | .sample c => c < 384
  | .copyStart q c => q < 96 && c < 4
  | .copyComplete q c => q < 96 && c < 4
  | .followOnMma q c => q < 96 && c < 4
  | .placementReport d => d < 8
  | .placeGang _ _ q cs => q < 96 && cs.all (· < 4)
  | .containmentDecision c => c < 256
  | .teardownComplete c => c < 256
  | .qnotify s => s < 256
  | .idleUnmap s => s < 256
  | .nopPacket s => s < 256
  | .launchPacket s => s < 256
  | .waitmem s => s < 256
  | .waitcmd s => s < 256
  | .signal s => s < 256
  | .invalidPacket s => s < 256
  | .leaseExpiring l => l < 4096
  | .leaseExpiry l => l < 4096
  | .revocationDeadline l => l < 4096
  | .nodeFailureTimeout l => l < 4096
  | .leaseRelease l => l < 4096
  | .reqrenewRepeat l => l < 4096
  | .completionTimeout l => l < 4096
  | .bisnp p _ => 1 ≤ p && p ≤ 7
  | .trainingComplete p r w => p < 8 && r < 3 && 1 ≤ w && w ≤ 3
  | .trainingRetry p => p < 8
  | .linkLoss p => p < 8
  | .integrityFailure p => p < 8
  | .linkstatRead p => p < 8
  | .linkErrorRecovered p => p < 8
  | .hbmRetrain s c => s < 8 && c < 512
  | .readRequest d _ => d < 8
  | .ownershipRequest d _ => d < 8
  | .dieEviction d _ => d < 8
  | .trip c d => 1 ≤ c && c ≤ 3 && (d < 8 || d == 0xFF)
  | .refillComplete _ _ f => f < 8388608
  | .uncorrectableError l => l < 4294967296
  | _ => true

/-- A well-formed instruction: no decode fault of its own word, or an event whose operands name what the device has. -/
def WellFormed (i : Instr) : Bool := staticFault i == none && eventOk i

end Sys2Proof
end

