-- ==== Sys2Proof/Certificates/Slice0/Obligations.lean ====
section
/-! DEFINITION. The statements about the model, each from the spec's numbered rules. -/

open Sys2Proof Sys2Proof.Machine

/-- 08 R170: the integer arithmetic words, 32 and 64 bits, registers and immediates: what each writes, ADDSAT's SAT flag, and that no other raises a flag. 02 R34, 08 R185: a pair word reads every operand before it writes; each half acts as the instruction of its name, the low half of a stochastic pair first. What the rules leave open here is as the assumption log says: log 36 for the order of a pair word's halves, log 88 for the rounding sequence that every rounded element advances (R80). -/
def Obligations.IntegerArithmetic : Prop :=
  ((∀ w, Sets32 (.add w) w.d (fun t => t.sourceA w + t.sourceB w))
   ∧ (∀ w, Sets32 (.addImm w) w.d (fun t => t.source w.a 0 + immWide w))
   ∧ (∀ w, Sets32 (.sub w) w.d (fun t => t.sourceA w - t.sourceB w))
   ∧ (∀ w, Sets32 (.subImm w) w.d (fun t => t.source w.a 0 - immWide w))
   ∧ (∀ w, Computes (.addsat w)
       (fun _ _ _ t =>
         let z := if w.x.getLsbD 0 then ival w.ty (t.sourceA w) - ival w.ty (t.sourceB w) else ival w.ty (t.sourceA w) + ival w.ty (t.sourceB w)
         t.setV (vnum w.d) (BitVec.ofInt 32 (max (intLo w.ty) (min z (intHi w.ty)))))
       (fun _ _ _ t =>
         let z := if w.x.getLsbD 0 then ival w.ty (t.sourceA w) - ival w.ty (t.sourceB w) else ival w.ty (t.sourceA w) + ival w.ty (t.sourceB w)
         if z < intLo w.ty ∨ intHi w.ty < z then flSat else 0))
   ∧ (∀ w, Sets32 (.mul w) w.d (fun t => t.sourceA w * t.sourceB w))
   ∧ (∀ w, Sets32 (.mulImm w) w.d (fun t => t.source w.a 0 * immWide w))
   ∧ (∀ w, Sets32 (.mulhi w) w.d (fun t => (BitVec.ofInt 64 (ival w.ty (t.sourceA w) * ival w.ty (t.sourceB w))).extractLsb' 32 32))
   ∧ (∀ w, Sets32 (.mad w) w.d (fun t => t.sourceA w * t.sourceB w + t.v.get (vnum w.d)))
   ∧ (∀ w, Sets64 (.madw w) w.d (fun t => BitVec.ofInt 64 (ival w.ty (t.sourceA w) * ival w.ty (t.sourceB w)) + t.sourcePair w.d))
   ∧ (∀ w, w.ty.wide = false → Sets32 (.min w) w.d (fun t => if ival w.ty (t.sourceA w) ≤ ival w.ty (t.sourceB w) then t.sourceA w else t.sourceB w))
   ∧ (∀ w, w.ty.wide = true → Sets64 (.min w) w.d (fun t => if ival w.ty (t.sourcePair w.a) ≤ ival w.ty (t.sourcePair w.b) then t.sourcePair w.a else t.sourcePair w.b))
   ∧ (∀ w, Sets32 (.minImm w) w.d (fun t => if ival (immTy w) (t.source w.a 0) ≤ ival (immTy w) (immWide w) then t.source w.a 0 else immWide w))
   ∧ (∀ w, w.ty.wide = false → Sets32 (.max w) w.d (fun t => if ival w.ty (t.sourceA w) ≤ ival w.ty (t.sourceB w) then t.sourceB w else t.sourceA w))
   ∧ (∀ w, w.ty.wide = true → Sets64 (.max w) w.d (fun t => if ival w.ty (t.sourcePair w.a) ≤ ival w.ty (t.sourcePair w.b) then t.sourcePair w.b else t.sourcePair w.a))
   ∧ (∀ w, Sets32 (.maxImm w) w.d (fun t => if ival (immTy w) (t.source w.a 0) ≤ ival (immTy w) (immWide w) then immWide w else t.source w.a 0))
   ∧ (∀ w, Sets32 (.abs w) w.d (fun t => BitVec.ofNat 32 (t.sourceA w).toInt.natAbs))
   ∧ (∀ w, Sets32 (.neg w) w.d (fun t => 0 - t.sourceA w))
   ∧ (∀ w, Sets32 (.dot4 w) w.d (fun t => t.v.get (vnum w.d) + BitVec.ofInt 32 (((List.range 4).map (fun k => ival w.ty ((t.sourceA w).extractLsb' (8 * k) 8) * ival w.ty ((t.sourceB w).extractLsb' (8 * k) 8))).sum)))
   ∧ (∀ w, Sets64 (.add64 w) w.d (fun t => t.sourcePair w.a + t.sourcePair w.b))
   ∧ (∀ w, Sets64 (.sub64 w) w.d (fun t => t.sourcePair w.a - t.sourcePair w.b)))
  ∧
  (∀ h0 h1 : Half,
     let a (t : Thread) (h : Half) : Word := t.v.get h.dst.toNat
     let b (t : Thread) (h : Half) : Word := if h.isImm then h.src.signExtend 32 else t.v.get h.src.toNat
     let out (g : Group) (tid : Nat) (t : Thread) (k : Nat) (h : Half) : Word × Flags :=
       if h.isFloat then perElem (halfTy h) (fun j => halfFloat h.op7.toNat (arithFmt (halfTy h)) (g.roundMode tid t 0 (k + j)) (elemOf (halfTy h) (a t h) j) (elemOf (halfTy h) (b t h) j))
       else (halfInt h.op7.toNat (halfTy h) (a t h) (b t h), 0)
     Computes (.pair h0 h1)
       (fun _ g l t => (({ t with sq := t.sq + BitVec.ofNat 32 (if g.stochastic 0 then halfSeqs h0 + halfSeqs h1 else 0) } : Thread).setV h0.dst.toNat (out g l.2 t (halfSeqs h1) h0).1).setV h1.dst.toNat (out g l.2 t 0 h1).1)
       (fun _ g l t => (out g l.2 t (halfSeqs h1) h0).2 ||| (out g l.2 t 0 h1).2))

/-- 08 R171: the bit words, bit by bit where the rule says so: logic, shifts and rotates, fields, counts, byte permutation. 08 R172, R173: comparisons, predicates, selections, moves, address sums and immediate moves. -/
def Obligations.BitsAndPredicates : Prop :=
  ((∀ w, Sets32 (.and w) w.d (fun t => t.sourceA w &&& t.sourceB w))
   ∧ (∀ w, Sets32 (.andImm w) w.d (fun t => t.source w.a 0 &&& immWide w))
   ∧ (∀ w, Sets32 (.or w) w.d (fun t => t.sourceA w ||| t.sourceB w))
   ∧ (∀ w, Sets32 (.orImm w) w.d (fun t => t.source w.a 0 ||| immWide w))
   ∧ (∀ w, Sets32 (.xor w) w.d (fun t => t.sourceA w ^^^ t.sourceB w))
   ∧ (∀ w, Sets32 (.xorImm w) w.d (fun t => t.source w.a 0 ^^^ immWide w))
   ∧ (∀ w, Sets32 (.andn w) w.d (fun t => t.sourceA w &&& ~~~(t.sourceB w)))
   ∧ (∀ w, Sets32 (.not w) w.d (fun t => ~~~(t.sourceA w)))
   ∧ (∀ w, Sets32 (.shl w) w.d (fun t => wordOfBits (fun j => decide ((t.sourceB w).toNat ≤ j) && (t.sourceA w).getLsbD (j - (t.sourceB w).toNat))))
   ∧ (∀ w, Sets32 (.shlImm w) w.d (fun t => wordOfBits (fun j => decide ((immWide w).toNat ≤ j) && (t.source w.a 0).getLsbD (j - (immWide w).toNat))))
   ∧ (∀ w, Sets32 (.shr w) w.d (fun t => wordOfBits (fun j => (t.sourceA w).getLsbD (j + (t.sourceB w).toNat))))
   ∧ (∀ w, Sets32 (.shrImm w) w.d (fun t => wordOfBits (fun j => (t.source w.a 0).getLsbD (j + (immWide w).toNat))))
   ∧ (∀ w, Sets32 (.sar w) w.d (fun t => wordOfBits (fun j => (t.sourceA w).getLsbD (min (j + (t.sourceB w).toNat) 31))))
   ∧ (∀ w, Sets32 (.sarImm w) w.d (fun t => wordOfBits (fun j => (t.source w.a 0).getLsbD (min (j + (immWide w).toNat) 31))))
   ∧ (∀ w, Sets32 (.rol w) w.d (fun t => wordOfBits (fun j => (t.sourceA w).getLsbD ((j + 32 - (t.sourceB w).toNat % 32) % 32))))
   ∧ (∀ w, Sets32 (.bfx w) w.d (fun t =>
       let pos := ((t.sourceB w).extractLsb' 0 8).toNat
       let len := ((t.sourceB w).extractLsb' 8 8).toNat
       let ext (k : Nat) : Bool := if k < 32 then (t.sourceA w).getLsbD k else decide (w.ty = .i32) && (t.sourceA w).getLsbD 31
       if len = 0 then 0
       else if w.ty = .i32 then wordOfBits (fun j => ext (pos + min j (min len 32 - 1)))
       else wordOfBits (fun j => decide (j < len) && ext (pos + j))))
   ∧ (∀ w, Sets32 (.bfi w) w.d (fun t =>
       let pos := ((t.sourceB w).extractLsb' 0 8).toNat
       let len := ((t.sourceB w).extractLsb' 8 8).toNat
       wordOfBits (fun j => if pos ≤ j ∧ j < pos + min len 32 then (t.sourceA w).getLsbD (j - pos) else (t.v.get (vnum w.d)).getLsbD j)))
   ∧ (∀ w, Sets32 (.popc w) w.d (fun t => BitVec.ofNat 32 ((List.range 32).countP (fun k => (t.sourceA w).getLsbD k))))
   ∧ (∀ w, Sets32 (.clz w) w.d (fun t => BitVec.ofNat 32 ((List.range 32).takeWhile (fun k => !(t.sourceA w).getLsbD (31 - k))).length))
   ∧ (∀ w, Sets32 (.brev w) w.d (fun t => wordOfBits (fun j => (t.sourceA w).getLsbD (31 - j))))
   ∧ (∀ w, Sets32 (.prmt w) w.d (fun t => wordOfBits (fun j =>
       let sel := ((t.v.get (vnum w.d)).extractLsb' (4 * (j / 8)) 4)
       let from_ (k : Nat) : Bool := (t.sourceB w ++ t.sourceA w).getLsbD (8 * (sel.extractLsb' 0 3).toNat + k)
       if sel.getLsbD 3 then from_ 7 else from_ (j % 8))))
   ∧ (∀ w, Sets64 (.shl64 w) w.d (fun t => if (t.sourceB w).toNat < 64 then t.sourcePair w.a <<< (t.sourceB w).toNat else 0))
   ∧ (∀ w, w.ty = .i64 → Sets64 (.shr64 w) w.d (fun t => (t.sourcePair w.a).sshiftRight (min (t.sourceB w).toNat 63)))
   ∧ (∀ w, w.ty = .n64 → Sets64 (.shr64 w) w.d (fun t => if (t.sourceB w).toNat < 64 then t.sourcePair w.a >>> (t.sourceB w).toNat else 0)))
  ∧
  ((∀ w, w.ty.wide = false → SetsPred (.setp w) w.d (fun t => condHolds (lo3 w.x) (ival w.ty (t.sourceA w)) (ival w.ty (t.sourceB w))))
   ∧ (∀ w, w.ty.wide = true → SetsPred (.setp w) w.d (fun t => condHolds (lo3 w.x) (ival w.ty (t.sourcePair w.a)) (ival w.ty (t.sourcePair w.b))))
   ∧ (∀ w, SetsPred (.setpImm w) w.d (fun t => condHolds (lo3 w.x) (ival (immTy w) (t.source w.a 0)) (ival (immTy w) (immWide w))))
   ∧ (∀ w, SetsPred (.plop w) w.d (fun t =>
       let a := t.pred (pnum w.a)
       let b := t.pred (pnum w.b)
       match lo3 w.x with
       | 0 => a && b
       | 1 => a || b
       | 2 => a != b
       | 3 => a && !b
       | 4 => !a
       | _ => a))
   ∧ (∀ w, w.ty.wide = false → Sets32 (.sel w) w.d (fun t => if xor (t.pred (lo3 w.x)) (w.x.getLsbD 3) then t.sourceA w else t.sourceB w))
   ∧ (∀ w, w.ty.wide = true → Sets64 (.sel w) w.d (fun t => if xor (t.pred (lo3 w.x)) (w.x.getLsbD 3) then t.sourcePair w.a else t.sourcePair w.b))
   ∧ (∀ w, w.ty.wide = false → Sets32 (.mov w) w.d (fun t => t.sourceA w))
   ∧ (∀ w, w.ty.wide = true → Sets64 (.mov w) w.d (fun t => t.sourcePair w.a))
   ∧ (∀ w, Sets32 (.ptov w) w.d (fun t => wordOfBits (fun j => decide (j < 8) && t.pred j)))
   ∧ (∀ w, Computes (.vtop w) (fun _ _ _ t => { t with p := (t.sourceA w).extractLsb' 0 7 }) (fun _ _ _ _ => 0))
   ∧ (∀ w, Sets64 (.lea w) w.d (fun t => t.sourcePair w.a + ((if w.ty = .i32 then (t.sourceB w).signExtend 64 else (t.sourceB w).setWidth 64) <<< lo3 w.x)))
   ∧ (∀ w, Sets64 (.leaImm w) w.d (fun t => t.sourcePair w.a + ((if immTy w = .i32 then (immWide w).signExtend 64 else (immWide w).setWidth 64) <<< lo3 w.x)))
   ∧ (∀ w, Sets32 (.movi w) w.d (fun _ => w.imm))
   ∧ (∀ w, Sets64 (.moviW w) w.d (fun _ => w.imm.signExtend 64)))

/-- 08 R167, R169, R174, 03 R80: the rounded arithmetic words, element by element under the resolved rounding mode, the rounding sequence advanced by each element; FDIV and FSQRT give their result and flags when it lands. 08 R175 to R177: the words that select, compare, round to integral values, classify and split, each element by its function; none of them advances the rounding sequence. 08 R178: the special-function words give their result, and its flags, when it lands, whatever FPROUND holds. 08 R179 to R182: the conversion words: one value of any two types, a stochastic rounding from an explicit counter, packing and unpacking of elements, and QN4. What the rules leave open here is as the assumption log says: log 20; log 45 for a result whose lookahead is 0; log 88 for the elements that advance the rounding sequence. -/
def Obligations.FloatWords : Prop :=
  (let each (w : F0) (g : Group) (tid : Nat) (t : Thread) (f : Fmt → Mode → Nat → Nat → Nat → FRes) : Word × Flags :=
     perElem w.ty (fun k => f (arithFmt w.ty) (g.roundMode tid t (lo3 w.x) k) (elemOf w.ty (t.sourceA w) k) (elemOf w.ty (t.sourceB w) k) (elemOf w.ty (t.v.get (vnum w.d)) k))
   let seq (w : F0) (n : Nat) (g : Group) (_ : Thread) : Nat := if g.stochastic (lo3 w.x) then n else 0
   (∀ w, SetsFloat (.fadd w) w.d (fun g l t => each w g l.2 t (fun f m a b _ => fadd f m a b)) (seq w (elems w.ty)))
   ∧ (∀ w, SetsFloat (.fsub w) w.d (fun g l t => each w g l.2 t (fun f m a b _ => fsub f m a b)) (seq w (elems w.ty)))
   ∧ (∀ w, SetsFloat (.fmul w) w.d (fun g l t => each w g l.2 t (fun f m a b _ => fmul f m a b)) (seq w (elems w.ty)))
   ∧ (∀ w, SetsFloat (.ffma w) w.d (fun g l t => each w g l.2 t ffma) (seq w (elems w.ty)))
   ∧ (∀ w, SetsFloat (.fscale w) w.d (fun g l t => each w g l.2 t (fun f m a _ _ => fscale f m a (t.sourceB w).toInt)) (seq w (elems w.ty)))
   ∧ (∀ w, SetsFloat (.fdot2 w) w.d (fun g l t =>
       let r := fdot2 (arithFmt w.ty) (g.roundMode l.2 t (lo3 w.x) 0) (t.sourceA w).toNat (t.sourceB w).toNat (t.v.get (vnum w.d)).toNat
       (BitVec.ofNat 32 r.code, r.flags)) (seq w 1))
   ∧ (∀ w, ComputesLater (.fdiv w) (vnum w.d) 1
       (fun _ g l t => BitVec.ofNat 128 (fdiv .f32 (g.roundMode l.2 t (lo3 w.x) 0).near (t.sourceA w).toNat (t.sourceB w).toNat).code)
       (fun _ g l t => (fdiv .f32 (g.roundMode l.2 t (lo3 w.x) 0).near (t.sourceA w).toNat (t.sourceB w).toNat).flags))
   ∧ (∀ w, ComputesLater (.fsqrt w) (vnum w.d) 1
       (fun _ g l t => BitVec.ofNat 128 (fsqrt .f32 (g.roundMode l.2 t (lo3 w.x) 0).near (t.sourceA w).toNat).code)
       (fun _ g l t => (fsqrt .f32 (g.roundMode l.2 t (lo3 w.x) 0).near (t.sourceA w).toNat).flags)))
  ∧
  (let each (w : F0) (t : Thread) (f : Fmt → Nat → Nat → FRes) : Word × Flags :=
     perElem w.ty (fun k => f (arithFmt w.ty) (elemOf w.ty (t.sourceA w) k) (elemOf w.ty (t.sourceB w) k))
   (∀ w, SetsFloat (.fmin w) w.d (fun _ _ t => each w t (fun f a b => fminmax f false a b)) (fun _ _ => 0))
   ∧ (∀ w, SetsFloat (.fmax w) w.d (fun _ _ t => each w t (fun f a b => fminmax f true a b)) (fun _ _ => 0))
   ∧ (∀ w, SetsFloat (.famax w) w.d (fun _ _ t => each w t famax) (fun _ _ => 0))
   ∧ (∀ w, Computes (.fsetp w) (fun _ _ _ t => t.setPred (pnum w.d) (fcompare (lo3 w.x) (t.sourceA w).toNat (t.sourceB w).toNat).1) (fun _ _ _ t => (fcompare (lo3 w.x) (t.sourceA w).toNat (t.sourceB w).toNat).2))
   ∧ (∀ w, SetsFloat (.frnd w) w.d (fun g l t => perElem w.ty (fun k => frnd (arithFmt w.ty) (g.roundMode l.2 t (lo3 w.x) k).near (elemOf w.ty (t.sourceA w) k))) (fun _ _ => 0))
   ∧ (∀ w, Sets32 (.fclass w) w.d (fun t => (each w t (fun f a _ => { code := fclass f a, flags := 0 })).1))
   ∧ (∀ w, SetsFloat (.ffrexp w) w.d (fun _ _ t => each w t (fun _ a _ => ffrexp a (w.x.getLsbD 0))) (fun _ _ => 0)))
  ∧
  (let gives (i : F0 → Instr) (f : Word → FRes) : Prop :=
     ∀ w, ComputesLater (i w) (vnum w.d) 1 (fun _ _ _ t => BitVec.ofNat 128 (f (t.sourceA w)).code) (fun _ _ _ t => (f (t.sourceA w)).flags)
   gives .frcp sfuRcp ∧ gives .frsq sfuRsq ∧ gives .fexp2 sfuExp2 ∧ gives .flog2 sfuLog2 ∧ gives .fsin sfuSin ∧ gives .fcos sfuCos ∧ gives .ftanh sfuTanh ∧ gives .fsigm sfuSigm)
  ∧
  ((∀ w, w.ty.wide = false → SetsFloat (.cvt w) w.d
       (fun g l t => let r := cvt w.ty (cvtSrc w) (g.roundMode l.2 t (lo3 w.x) 0) (if (cvtSrc w).wide then (t.sourcePair w.a).toNat else (t.sourceA w).toNat);
         (lowWord r.1, r.2))
       (fun g _ => if (Fmt.ofTy w.ty).isSome && g.stochastic (lo3 w.x) then 1 else 0))
   ∧ (∀ w, w.ty.wide = true → Computes (.cvt w)
       (fun _ g l t => t.setPair (vnum w.d) (cvt w.ty (cvtSrc w) (g.roundMode l.2 t (lo3 w.x) 0) (if (cvtSrc w).wide then (t.sourcePair w.a).toNat else (t.sourceA w).toNat)).1)
       (fun _ g l t => (cvt w.ty (cvtSrc w) (g.roundMode l.2 t (lo3 w.x) 0) (if (cvtSrc w).wide then (t.sourcePair w.a).toNat else (t.sourceA w).toNat)).2))
   ∧ (∀ w, SetsFloat (.cvtsr w) w.d
       (fun g _ t => let r := roundVal ((Fmt.ofTy w.ty).getD .bf16) (.rsr (gHash g.key (t.sourcePair w.b))) (Fmt.f32.decode (t.sourceA w).toNat);
         (BitVec.ofNat 32 r.code, r.flags)) (fun _ _ => 0))
   ∧ (∀ w, SetsFloat (.pack w) w.d
       (fun g l t =>
         let j := (w.x.extractLsb' 3 2).toNat
         let x := packElem w.ty (g.roundMode l.2 t (lo3 w.x) 0) (t.sourceA w)
         let y := packElem w.ty (g.roundMode l.2 t (lo3 w.x) 1) (t.sourceB w)
         (BitVec.ofNat 32 (putElem w.ty (putElem w.ty (t.v.get (vnum w.d)).toNat (2 * j) x.1) (2 * j + 1) y.1), x.2 ||| y.2))
       (fun g _ => if packInt w.ty = false ∧ g.stochastic (lo3 w.x) = true then 2 else 0))
   ∧ (∀ w, SetsFloat (.unpack w) w.d (fun _ _ t =>
       let x := ((t.sourceA w) >>> (packBits w.ty * lo3 w.x)).toNat % 2 ^ packBits w.ty
       match Fmt.ofTy w.ty with
       | some f => (BitVec.ofNat 32 (roundVal .f32 .rne (f.decode x)).code, if (f.decode x).signals then flInvalid else 0)
       | none => (BitVec.ofInt 32 (intOf w.ty x), 0)) (fun _ _ => 0))
   ∧ (∀ w, SetsFloat (.qscale w) w.d (fun _ _ t => let r := qnScale (Fmt.f32.decode (t.sourceA w).toNat) (t.sourceB w).toNat; (BitVec.ofNat 32 r.code, r.flags)) (fun _ _ => 0))
   ∧ (∀ w, SetsFloat (.qenc w) w.d (fun _ _ t =>
       let r := qnEncode (Fmt.f32.decode (t.sourceA w).toNat) ((t.v.get (vnum w.b)).toNat % 256) (t.v.get (vnum w.b + 1)).toNat
       (BitVec.ofNat 32 (putElem .e2m1 (t.v.get (vnum w.d)).toNat (lo3 w.x) r.code), r.flags)) (fun _ _ => 0))
   ∧ (∀ w, SetsFloat (.qdec w) w.d (fun _ _ t =>
       let r := qnDecode ((t.sourceA w).toNat >>> (4 * lo3 w.x) % 16) ((t.v.get (vnum w.b)).toNat % 256) (t.v.get (vnum w.b + 1)).toNat
       (BitVec.ofNat 32 r.code, r.flags)) (fun _ _ => 0)))

/-- 08 R174, 03 R78: on finite operands with a non-zero exact result, each arithmetic function rounds that exact result once: sum, difference, product, quotient, fused multiply-add, scaling by a power of two, the two-product dot product into f32, and the square root, which is stated by the squares of the results' neighbours and, to nearest, by its distance from every code. -/
def Obligations.ExactThenRoundedOnce : Prop :=
  let once (f : Fmt) (m : Mode) (q : ℚ) (r : FRes) : Prop := ∃ n d : Nat, 0 < n ∧ 0 < d ∧ (n : ℚ) / d = |q| ∧ r = roundQ f m (decide (q < 0)) n d
  (∀ (f : Fmt) (m : Mode) (a b : Nat), (f.decode a).finite = true → (f.decode b).finite = true →
    ((f.decode a).rat + (f.decode b).rat ≠ 0 → once f m ((f.decode a).rat + (f.decode b).rat) (fadd f m a b))
    ∧ ((f.decode a).rat - (f.decode b).rat ≠ 0 → once f m ((f.decode a).rat - (f.decode b).rat) (fsub f m a b))
    ∧ ((f.decode a).rat * (f.decode b).rat ≠ 0 → once f m ((f.decode a).rat * (f.decode b).rat) (fmul f m a b))
    ∧ ((f.decode a).rat ≠ 0 → (f.decode b).rat ≠ 0 → once f m ((f.decode a).rat / (f.decode b).rat) (fdiv f m a b))
    ∧ ∀ c, (f.decode c).finite = true → (f.decode a).rat * (f.decode b).rat + (f.decode c).rat ≠ 0 →
        once f m ((f.decode a).rat * (f.decode b).rat + (f.decode c).rat) (ffma f m a b c))
  ∧ (∀ (f : Fmt) (m : Mode) (a : Nat) (k : Int), (f.decode a).finite = true → (f.decode a).rat ≠ 0 → once f m ((f.decode a).rat * (2 : ℚ) ^ k) (fscale f m a k))
  ∧ (∀ (f : Fmt) (m : Mode) (a b c : Nat),
      let lo (x : Nat) : Val := f.decode (x % 65536)
      let hi (x : Nat) : Val := f.decode (x / 65536 % 65536)
      let sum := (lo a).rat * (lo b).rat + (hi a).rat * (hi b).rat + (Fmt.f32.decode c).rat
      (lo a).finite = true → (lo b).finite = true → (hi a).finite = true → (hi b).finite = true → (Fmt.f32.decode c).finite = true → sum ≠ 0 → once .f32 m sum (fdot2 f m a b c))
  ∧ (∀ (m : Mode) (a : Nat), (Fmt.f32.decode a).finite = true → 0 < (Fmt.f32.decode a).rat →
      let val (c : Nat) : ℚ := (Fmt.f32.decode c).rat
      let x := val a
      let r := fsqrt .f32 m a
      0 < r.code ∧ r.code < Fmt.f32.maxMag ∧ (m = .rtz ∨ m = .rdn → val r.code ^ 2 ≤ x ∧ x < val (r.code + 1) ^ 2) ∧ (m = .rup → val (r.code - 1) ^ 2 < x ∧ x ≤ val r.code ^ 2)
      ∧ (m = .rne → ∀ c, c ≤ Fmt.f32.maxMag → |(val r.code : ℝ) - Real.sqrt x| ≤ |(val c : ℝ) - Real.sqrt x|)
      ∧ ((∀ h, m ≠ .rsr h) → r.flags = if val r.code ^ 2 = x then 0 else flInexact))

/-- 03 R77 to R79, R81: rounding of an exact value of magnitude n/d. Towards zero, the result's magnitude is at most the value and the next magnitude code is above it; to nearest, no finite code of the format lies nearer; and INEXACT is raised exactly where the result differs from the value. In every mode: of the multiples of the format's spacing u at the value, the lower is taken or, where the mode says so (to nearest with ties to even, up, down, or by the hash of the rounding counter), the upper; one above the largest finite magnitude overflows to it or, in an IEEE format under a mode that does not round it towards zero, to infinity, with OVERFLOW and INEXACT; an inexact result below the least normal magnitude raises UNDERFLOW as well. -/
def Obligations.RoundingIsCorrect : Prop :=
  ∀ (f : Fmt) (n d : Nat), 0 < n → 0 < d →
    let val (c : Nat) : ℚ := (f.decode c).rat
    let q : ℚ := (n : ℚ) / d
    (let r := roundQ f .rtz false n d;
      r.flags &&& flOverflow = 0 → val r.code ≤ q ∧ (r.code < f.maxMag → q < val (r.code + 1)) ∧ (r.flags &&& flInexact = 0 ↔ val r.code = q))
    ∧ (let r := roundQ f .rne false n d;
      r.flags &&& flOverflow = 0 → (∀ c, c ≤ f.maxMag → |val r.code - q| ≤ |val c - q|) ∧ (r.flags &&& flInexact = 0 ↔ val r.code = q))
    ∧ (∀ (m : Mode) (neg : Bool) (e : Int) (K : Nat), (∀ h, m = .rsr h → h < 2 ^ 32) → f.emin ≤ e → q < (2 : ℚ) ^ (e + 1) → (e = f.emin ∨ (2 : ℚ) ^ e ≤ q) →
        let u : ℚ := (2 : ℚ) ^ (e - f.mbits)
        let k : Nat := ⌊q / u⌋₊
        let rest : ℚ := q / u - k
        let up : Prop := match m with
          | .rne => 1 / 2 < rest ∨ (rest = 1 / 2 ∧ k % 2 = 1)
          | .rtz => False
          | .rup => neg = false ∧ rest ≠ 0
          | .rdn => neg = true ∧ rest ≠ 0
          | .rsr h => 2 ^ 32 ≤ ⌊rest * 2 ^ 32⌋₊ + h
        let toInf : Prop := f.ieee = true ∧ match m with
          | .rtz => False
          | .rup => neg = false
          | .rdn => neg = true
          | _ => True
        let v : ℚ := K * u
        let r := roundQ f m neg n d
        (up → K = k + 1) → (¬up → K = k) →
        (val f.maxMag < v → r.flags = flOverflow ||| flInexact ∧ (toInf → r.code = f.maxMag + 1 + if neg then f.signBit else 0) ∧ (¬toInf → r.code = f.maxMag + if neg then f.signBit else 0))
        ∧ (v ≤ val f.maxMag → val r.code = (if neg then -v else v) ∧ r.flags = if v = q then 0 else if v < (2 : ℚ) ^ f.emin then flInexact ||| flUnderflow else flInexact))

/-- 08 R175 to R177, 03 R66: what those functions give, by the values of their operands: the lesser and the greater, the greater magnitude, the comparisons, the classes, the integral value of FRND in each of its modes, and the fraction and exponent of FFREXP. 08 R178, the table of special values: what each function gives for the infinities, the zeros, a NaN and, where it is NaN, a negative operand. -/
def Obligations.FloatValues : Prop :=
  ((∀ (f : Fmt) (up : Bool) (a b : Nat), (f.decode a).finite = true → (f.decode b).finite = true →
     (fminmax f up a b).flags = 0 ∧ ((fminmax f up a b).code = a ∨ (fminmax f up a b).code = b)
     ∧ (f.decode (fminmax f up a b).code).rat = if up then max (f.decode a).rat (f.decode b).rat else min (f.decode a).rat (f.decode b).rat)
   ∧ (∀ (f : Fmt) (up : Bool) (a b : Nat) (s : Bool), f.decode a = .nan s → (f.decode b).isNan = false →
     fminmax f up a b = { code := b, flags := if s then flInvalid else 0 } ∧ fminmax f up b a = { code := b, flags := if s then flInvalid else 0 }
     ∧ famax f a b = { code := f.nan, flags := if s then flInvalid else 0 })
   ∧ (∀ (f : Fmt) (a b : Nat), (f.decode a).finite = true → (f.decode b).finite = true →
     (famax f a b).flags = 0 ∧ (f.decode (famax f a b).code).finite = true ∧ (f.decode (famax f a b).code).rat = max |(f.decode a).rat| |(f.decode b).rat|)
   ∧ (∀ (f : Fmt) (a b : Nat) (n : Bool), f.decode a = .inf n → (f.decode b).isNan = false → famax f a b = { code := f.inf false, flags := 0 } ∧ famax f b a = { code := f.inf false, flags := 0 })
   ∧ (∀ (f : Fmt) (m : Mode) (a : Nat), f.ieee = true →
     let r := frnd f m a
     let x := (f.decode a).rat
     let v := (f.decode r.code).rat
     (∀ s, f.decode a = .nan s → r = { code := f.nan, flags := if s then flInvalid else 0 })
     ∧ (∀ n, f.decode a = .inf n → f.decode r.code = .inf n ∧ r.flags = 0)
     ∧ ((f.decode a).finite = true → (∀ h, m ≠ .rsr h) →
         r.flags = 0 ∧ (f.decode r.code).finite = true ∧ (f.decode r.code).neg = (f.decode a).neg ∧ (m = .rdn → v = ⌊x⌋) ∧ (m = .rup → v = ⌈x⌉) ∧ (m = .rtz → v = if x < 0 then (⌈x⌉ : ℚ) else (⌊x⌋ : ℚ))
         ∧ (m = .rne → ∃ z : Int, v = z ∧ |v - x| ≤ 1 / 2 ∧ (|v - x| = 1 / 2 → z % 2 = 0))))
   ∧ (∀ (a : Nat),
     let x := Fmt.f32.decode a
     let fr := ffrexp a false
     let ex := ffrexp a true
     (x.finite = true → x.rat ≠ 0 → fr.flags = 0 ∧ ex.flags = 0 ∧ 1 / 2 ≤ |(Fmt.f32.decode fr.code).rat| ∧ |(Fmt.f32.decode fr.code).rat| < 1 ∧ x.rat = (Fmt.f32.decode fr.code).rat * (2 : ℚ) ^ (BitVec.ofNat 32 ex.code).toInt)
     ∧ ((x.isZero || x.isInf) = true → fr = { code := a, flags := 0 } ∧ ex = { code := 0, flags := 0 })
     ∧ (∀ s, x = .nan s → fr = { code := Fmt.f32.nan, flags := if s then flInvalid else 0 } ∧ ex = { code := 0, flags := if s then flInvalid else 0 }))
   ∧ (∀ (f : Fmt) (up : Bool) (a b : Nat) (s u : Bool), f.decode a = .nan s → f.decode b = .nan u → fminmax f up a b = { code := f.nan, flags := if s || u then flInvalid else 0 })
   ∧ (∀ (a b : Nat), (Fmt.f32.decode a).finite = true → (Fmt.f32.decode b).finite = true →
     let x := (Fmt.f32.decode a).rat
     let y := (Fmt.f32.decode b).rat
     (List.range 8).map (fun c => fcompare c a b) = [(decide (x = y), 0), (decide (x ≠ y), 0), (decide (x < y), 0), (decide (x ≤ y), 0), (decide (y < x), 0), (decide (y ≤ x), 0), (false, 0), (true, 0)])
   ∧ (∀ (a b : Nat) (c : Nat), c < 8 → (Fmt.f32.decode a).isNan = true →
     (fcompare c a b).1 = decide (c = 1 ∨ c = 6) ∧ (2 ≤ c ∧ c ≤ 5 → (fcompare c a b).2 = flInvalid) ∧ (¬(2 ≤ c ∧ c ≤ 5) → (fcompare c a b).2 = if (Fmt.f32.decode a).signals || (Fmt.f32.decode b).signals then flInvalid else 0))
   ∧ (∀ (f : Fmt) (a : Nat), f.ieee = true →
     (fclass f a = 0x001 ↔ f.decode a = .inf true) ∧ (fclass f a = 0x080 ↔ f.decode a = .inf false) ∧ (fclass f a = 0x100 ↔ f.decode a = .nan true) ∧ (fclass f a = 0x200 ↔ f.decode a = .nan false)
     ∧ ((fclass f a = 0x002 ∨ fclass f a = 0x004) ↔ (f.decode a).finite = true ∧ (f.decode a).rat < 0) ∧ ((fclass f a = 0x020 ∨ fclass f a = 0x040) ↔ (f.decode a).finite = true ∧ 0 < (f.decode a).rat)
     ∧ ((fclass f a = 0x004 ∨ fclass f a = 0x020) ↔ (f.decode a).finite = true ∧ (f.decode a).rat ≠ 0 ∧ |(f.decode a).rat| < (2 : ℚ) ^ f.emin)))
  ∧
  (let nanInv : FRes := { code := 0x7FC00000, flags := flInvalid }
   let fs : List (Word → FRes) := [sfuRcp, sfuRsq, sfuExp2, sfuLog2, sfuSin, sfuCos, sfuTanh, sfuSigm]
   (fs.map (fun f => f 0xFF800000) = [{ code := 0x80000000, flags := 0 }, nanInv, { code := 0, flags := 0 }, nanInv, nanInv, nanInv, { code := 0xBF800000, flags := 0 }, { code := 0, flags := 0 }])
   ∧ (fs.map (fun f => f 0x80000000) = [{ code := 0xFF800000, flags := flDivzero }, { code := 0xFF800000, flags := flDivzero }, { code := 0x3F800000, flags := 0 }, { code := 0xFF800000, flags := flDivzero }, { code := 0x80000000, flags := 0 }, { code := 0x3F800000, flags := 0 }, { code := 0x80000000, flags := 0 }, { code := 0x3F000000, flags := 0 }])
   ∧ (fs.map (fun f => f 0) = [{ code := 0x7F800000, flags := flDivzero }, { code := 0x7F800000, flags := flDivzero }, { code := 0x3F800000, flags := 0 }, { code := 0xFF800000, flags := flDivzero }, { code := 0, flags := 0 }, { code := 0x3F800000, flags := 0 }, { code := 0, flags := 0 }, { code := 0x3F000000, flags := 0 }])
   ∧ (fs.map (fun f => f 0x7F800000) = [{ code := 0, flags := 0 }, { code := 0, flags := 0 }, { code := 0x7F800000, flags := 0 }, { code := 0x7F800000, flags := 0 }, nanInv, nanInv, { code := 0x3F800000, flags := 0 }, { code := 0x3F800000, flags := 0 }])
   ∧ (∀ (a : Word) (s : Bool), Fmt.f32.decode a.toNat = .nan s → ∀ f ∈ fs, f a = { code := 0x7FC00000, flags := if s then flInvalid else 0 })
   ∧ (∀ (a : Word) (m : Nat) (e : Int), Fmt.f32.decode a.toNat = .fin true m e → m ≠ 0 → sfuRsq a = nanInv ∧ sfuLog2 a = nanInv))

/-- 07 R151, 08 R183, R184, 03 R87: the cross-lane words over the active lanes of a row, each active thread taking its result, every other lane keeping its registers. -/
def Obligations.CrossLaneWords : Prop :=
  let value (wide : Bool) (n : Nat) (t : Thread) : Dword := if wide then joinWords (t.v.get n) (t.v.get (n + 1)) else (t.v.get n).setWidth 64
  let at_ (act : List (Nat × Thread)) (k : Nat) : Option Thread := (act.find? (fun a => a.1 == k)).map (fun a => a.2)
  (∀ w, Crosses (.vote w) (fun _ act _ t => t.setPred (pnum w.d)
      (match lo2 w.x with
      | 0 => act.any (fun a => a.2.pred (pnum w.a))
      | 1 => act.all (fun a => a.2.pred (pnum w.a))
      | _ => act.all (fun a => a.2.pred (pnum w.a)) || act.all (fun a => !a.2.pred (pnum w.a)))) (fun _ _ _ => 0))
  ∧ (∀ w, Crosses (.ballot w) (fun _ act _ t => t.setV (vnum w.d) (wordOfBits (fun k => act.any (fun a => a.1 == k && a.2.pred (pnum w.a))))) (fun _ _ _ => 0))
  ∧ (∀ w, Crosses (.matchLanes w) (fun _ act _ t => t.setV (vnum w.d) (wordOfBits (fun k => act.any (fun a => a.1 == k && value w.ty.wide (vnum w.a) a.2 == value w.ty.wide (vnum w.a) t)))) (fun _ _ _ => 0))
  ∧ (∀ w, Crosses (.shfl w) (fun _ act j t =>
      let n := (t.v.get (vnum w.b)).toNat
      let src : Option Nat := match lo2 w.x with
        | 0 => some (n % 32)
        | 1 => if n ≤ j then some (j - n) else none
        | 2 => some (j + n)
        | _ => some (j ^^^ (n % 32))
      let x := value w.ty.wide (vnum w.a) (((src.bind (at_ act)).getD t))
      if w.ty.wide then t.setPair (vnum w.d) x else t.setV (vnum w.d) (lowWord x)) (fun _ _ _ => 0))
  ∧ (∀ w, Crosses (.redl w)
      (fun g act _ t => t.setV (vnum w.d) (((reduceTree (laneOp (lo3 w.x) w.ty (laneMode g))
        (fun k => match at_ act k with
          | some a => some (a.v.get (vnum w.a))
          | none => if w.ty = .f32 ∧ lo3 w.x = 0 then some 0 else none) 5 0).1).getD 0))
      (fun g act _ => (reduceTree (laneOp (lo3 w.x) w.ty (laneMode g))
        (fun k => match at_ act k with
          | some a => some (a.v.get (vnum w.a))
          | none => if w.ty = .f32 ∧ lo3 w.x = 0 then some 0 else none) 5 0).2))
  ∧ (∀ w, Crosses (.scanl w)
      (fun g act j t => t.setV (vnum w.d) (scanl (lo3 w.x) w.ty (laneMode g) (w.x.getLsbD 3)
        ((List.range (if w.x.getLsbD 3 then j else j + 1)).filterMap (fun k => (at_ act k).map (fun a => a.v.get (vnum w.a))))).1)
      (fun g act j => (scanl (lo3 w.x) w.ty (laneMode g) (w.x.getLsbD 3)
        ((List.range (if w.x.getLsbD 3 then j else j + 1)).filterMap (fun k => (at_ act k).map (fun a => a.v.get (vnum w.a))))).2))

/-- 07 R158 to R160, R163, 02 R42: NOP, the transfers of control, RET and NAP, over every pack: where each thread whose guard holds waits, and what its return stack becomes. 07 R154: with 8 held entries CALL and CALLI store the oldest in the thread's stack area, and RET with none loads the newest spilled one, each for a pack of one thread whose access finds its place, once the stream need not wait for it; a poisoned entry is loaded as its bytes stand (log 99). 07 R160: EXIT: each thread whose guard holds has exited, its queue entries and held return entries discarded, and it holds no place among the refused threads of a lock (10 R236); the others go on. 07 R161: ROWBLK as the first word of a dispatch has no further effect; elsewhere it ends the dispatch before itself. 07 R144, R162: YIELD: the threads wait at the following address, whose entry becomes yielded once the dispatch has ended; one of a single pack has. -/
def Obligations.ControlWords : Prop :=
  (
    let to_ (pc : Dword) (w : F2) : Dword := pc + w.imm.signExtend 64 * 8
    (∀ w, Computes (.nop w) (fun _ _ _ t => t) (fun _ _ _ _ => 0))
    ∧ (∀ w, Leaves (.bra w) (fun _ _ _ _ => True) (fun iss c _ u => u.waitAt (to_ iss.pc w) c))
    ∧ (∀ w, Leaves (.jmp w) (fun _ _ _ t => (t.sourcePair w.a).toNat % 8 = 0) (fun _ c t u => u.waitAt (t.sourcePair w.a) c))
    ∧ (∀ w, Leaves (.call w) (fun _ _ _ t => t.ret.length < 8) (fun iss c t u => { u.waitAt (to_ iss.pc w) c with ret := (iss.pc + 8) :: t.ret }))
    ∧ (∀ w, Leaves (.calli w) (fun _ _ _ t => t.ret.length < 8 ∧ (t.sourcePair w.a).toNat % 8 = 0) (fun iss c t u => { u.waitAt (t.sourcePair w.a) c with ret := (iss.pc + 8) :: t.ret }))
    ∧ (∀ w, Leaves (.ret w) (fun _ _ _ t => t.ret ≠ []) (fun _ c t u => { u.waitAt (t.ret.headD 0) c with ret := t.ret.drop 1 }))
    ∧ (∀ w, Leaves (.nap w) (fun _ _ _ _ => True) (fun iss c _ u => if w.imm = 0 then u.waitAt (iss.pc + 8) c else { u.blockAt .nap (iss.pc + 8) c with napLeft := w.imm.toNat })))
  ∧ (
    let spills (i : Instr) (target : Dword → Thread → Dword) : Prop := ∀ (s : State) (iss : Issue) (g : Group) (l : Nat × Nat) (t : Thread), s.IssuesOne iss g i l t →
      let e := s.env iss g l
      let slot := e.stackArea + BitVec.ofNat 64 (8 * t.spill)
      ∀ p old, t.ret.length = 8 → t.ret.getLast? = some old → (target iss.pc t).toNat % 8 = 0 → 8 * (t.spill + 1) ≤ e.stackSize → s.route g.ctx slot.toNat .store = .ok p →
        let e1 := e.store p slot.toNat (bytesOfNat old.toNat 8) none
        (e1.drainThread iss.core iss.grp l.2 = none → Waits s iss i)
        ∧ ∀ e2, e1.drainThread iss.core iss.grp l.2 = some e2 →
            RetiresTo s iss i l e2 (fun u => { u.waitAt (target iss.pc t) (e2.clock iss.core) with ret := (iss.pc + 8) :: u.ret.dropLast, spill := u.spill + 1 })
    (∀ w : F2, spills (.call w) (fun pc _ => pc + w.imm.signExtend 64 * 8))
    ∧ (∀ w : F0, spills (.calli w) (fun _ t => t.sourcePair w.a))
    ∧ (∀ (w : F0) (s : State) (iss : Issue) (g : Group) (l : Nat × Nat) (t : Thread), s.IssuesOne iss g (.ret w) l t →
        let e := s.env iss g l
        let slot := e.stackArea + BitVec.ofNat 64 (8 * (t.spill - 1))
        ∀ p, t.ret = [] → 0 < t.spill → s.route g.ctx slot.toNat .load = .ok p →
          (e.read p slot.toNat 8 = none → Waits s iss (.ret w))
          ∧ ∀ e1 bs, e.read p slot.toNat 8 = some (e1, bs) →
              RetiresTo s iss (.ret w) l e1 (fun u => { u.waitAt (BitVec.ofNat 64 (natOfBytes bs)) (e1.clock iss.core) with spill := u.spill - 1 })))
  ∧ (
    (∀ (w : F0) (s : State) (iss : Issue) (g : Group), s.Issues iss g (.exit w) →
       ∃ s' : State, exec (.exit w) s = .next s'
         ∧ Gives { s with locks := s'.locks } s' iss g (.exit w) (fun _ t => { (t.after (.exit w) true [] iss.pc).waitAt (iss.pc + 8) (s.clock iss.core) with cond := .exited, q := List.replicate 8 [], ret := [] }) (fun _ _ => 0)
         ∧ ((∀ l ∈ iss.lanes, s.unlock iss.grp l.2 true = s) → s'.locks = s.locks)
         ∧ ∀ l ∈ iss.lanes, ∀ t, g.threads[l.2]? = some t → t.takes (.exit w) = true → ∀ k ∈ s'.locks, k.holder ≠ some (iss.grp, l.2) ∧ (iss.grp, l.2) ∉ k.refused)
    ∧
    (∀ (w : F1) (s : State) (iss : Issue) (g : Group) (d : Dispatch), s.Issues iss g (.rowblk w) → s.issuing iss = some d →
       ∃ s' : State, exec (.rowblk w) s = .next s' ∧ Gives s s' iss g (.rowblk w) (fun _ t => if d.index = 0 then t.after (.rowblk w) true [] iss.pc else t.waitAt iss.pc (s.clock iss.core)) (fun _ _ => 0))
    ∧
    (∀ (w : F0) (s : State) (iss : Issue) (g : Group), s.Issues iss g (.yield w) →
       ∃ s' : State, exec (.yield w) s = .next s' ∧ Gives s s' iss g (.yield w) (fun _ t => (t.after (.yield w) true [] iss.pc).waitAt (iss.pc + 8) (s.clock iss.core)) (fun _ _ => 0)
         ∧ ((s'.stream iss.core iss.stream).dispatch = none → ∃ x, s'.group? iss.grp = some x ∧ iss.pc + 8 ∈ x.yielded)
         ∧ (∀ d, s.issuing iss = some d → d.grp = iss.grp → d.packs = [iss.lanes] → (s'.stream iss.core iss.stream).dispatch = none)))

/-- 07 R159, R164, R154, 16 R354 to R357, for a pack of one thread: TRAP and BRK raise their faults, taken by containment or, for BRK under DEBUG, halted for the debugger; JMP and CALLI to an address that is no multiple of 8, CALL and CALLI with a full stack area, and RET with nothing to pop fault in place. -/
def Obligations.ControlFaults : Prop :=
  (∀ w, Faults (.trap w) (fun _ _ _ _ _ => True) (fun _ _ _ _ _ => .plain 0x31 0 (w.imm.setWidth 64)))
  ∧ (∀ w, Faults (.brk w) (fun _ _ _ _ _ => True) (fun _ iss _ _ _ => .plain 0x32 iss.pc 0))
  ∧ (∀ w, Faults (.jmp w) (fun _ _ _ _ t => (t.sourcePair w.a).toNat % 8 ≠ 0) (fun _ iss _ _ t => .plain 0x05 (t.sourcePair w.a) iss.word))
  ∧ (∀ w, Faults (.calli w) (fun _ _ _ _ t => (t.sourcePair w.a).toNat % 8 ≠ 0) (fun _ iss _ _ t => .plain 0x05 (t.sourcePair w.a) iss.word))
  ∧ (∀ w, Faults (.call w) (fun s iss g l t => t.ret.length = 8 ∧ (s.env iss g l).stackSize < 8 * (t.spill + 1)) (fun s iss g l t => .plain 0x22 ((s.env iss g l).stackArea + BitVec.ofNat 64 (8 * t.spill)) 0))
  ∧ (∀ w, Faults (.calli w) (fun s iss g l t => (t.sourcePair w.a).toNat % 8 = 0 ∧ t.ret.length = 8 ∧ (s.env iss g l).stackSize < 8 * (t.spill + 1)) (fun s iss g l t => .plain 0x22 ((s.env iss g l).stackArea + BitVec.ofNat 64 (8 * t.spill)) 0))
  ∧ (∀ w, Faults (.ret w) (fun _ _ _ _ t => t.ret = [] ∧ t.spill = 0) (fun s iss g l _ => .plain 0x22 (s.env iss g l).stackArea 1))

/-- 09 R187: the effective location of an access, its checks in the order written, for an address whose registers are live. -/
def Obligations.EffectiveAddress : Prop :=
  ∀ (e : Env) (t : Thread) (n : Nat) (off : Dword) (size pg acc : Nat) (w : Want), n ∉ t.released → n + 1 ∉ t.released →
    (let ea := joinWords (t.v.get n) (t.v.get (n + 1)) + off;
      (ea.toNat % size ≠ 0 → e.effective t 0 n off size w pg acc = .error (.plain 0x05 ea e.iss.word))
      ∧ (ea.toNat % size = 0 → 2 ^ 57 ≤ ea.toNat → e.effective t 0 n off size w pg acc = .error (.plain 0x06 ea e.iss.word))
      ∧ (ea.toNat % size = 0 → ea.toNat < 2 ^ 57 → (∀ f, e.s.route e.grp.ctx ea.toNat w = .error f → e.effective t 0 n off size w pg acc = .error (.page ea.toNat pg f))
        ∧ (∀ loc, e.s.route e.grp.ctx ea.toNat w = .ok loc → e.watchHit t ea.toNat size acc = none → e.effective t 0 n off size w pg acc = .ok (loc, ea.toNat))))
    ∧ (let ea := (t.v.get n + lowWord off).toNat;
      let bad (space cause : Nat) : Prop := e.effective t space n off size w pg acc = .error (.plain cause (BitVec.ofNat 64 ea) e.iss.word)
      let good (space : Nat) (loc : Loc) : Prop := e.effective t space n off size w pg acc = .ok (loc, ea)
      (ea % size ≠ 0 → bad 1 0x05 ∧ bad 2 0x05 ∧ bad 3 0x05)
      ∧ (ea % size = 0 → (4096 * e.grp.scratchUnits < ea + size → bad 1 0x06) ∧ (ea + size ≤ 4096 * e.grp.scratchUnits → good 1 (.cell e.iss.grp ea false)))
      ∧ (ea % size = 0 →
        let m := ea / 2 ^ 24 % 4
        let o := ea % 2 ^ 24
        (2 ^ 26 ≤ ea ∨ e.s.gangSize e.grp ≤ m ∨ e.s.member e.grp m = none ∨ 4096 * e.grp.scratchUnits < o + size → bad 2 0x06)
        ∧ (ea < 2 ^ 26 → m < e.s.gangSize e.grp → o + size ≤ 4096 * e.grp.scratchUnits → ∀ k, e.s.member e.grp m = some k → good 2 (.cell k o false)))
      ∧ (ea % size = 0 →
        let limit := e.grp.frame * ((e.grp.threads.length + 31) / 32) * 128
        (limit < ea + size → bad 3 0x06) ∧ (ea + size ≤ limit → good 3 (.frame ea))))

/-- 09 R188 to R190, R192: LD at an address that passes its checks: the bytes it gets, from the scratchpad of a member, or an L1 line kept from before a window took the address over (09 R210), the frame, the thread's latest queued store where that holds every byte, the L1 line, or the line filled into the L1 from memory as the core's threads read it (12 R259); the register write, now or held; nothing else changes. Where queued stores of its own overlap but the latest does not hold every byte they are performed first. What the rules leave open here is as the assumption log says: logs 10, 12, 45. -/
def Obligations.LoadWord : Prop :=
  ∀ (w : F1) (s : State) (iss : Issue) (g : Group) (l : Nat × Nat) (t : Thread) (loc : Loc) (va : Nat), s.IssuesOne iss g (.ld w) l t →
    let c := lo3 w.x
    let n := sizeBytes c
    (s.env iss g l).effective t (memSpace w.x) (vnum w.a) (w.imm.signExtend 64) n .load 0 0 = .ok (loc, va) →
    let gets (e : State) (bs : List Byte) : Prop := RetiresWith s iss (.ld w) l e (vnum w.d) (sizeRegs c) (extendTo c bs)
    match loc with
    | .cell k off r => (r = false ∨ (s.core iss.core).l1Find g.ctx (va / 128) = none → gets s (s.scratchRead k off n))
      ∧ (∀ line, r = true → (s.core iss.core).l1Find g.ctx (va / 128) = some line → gets s (line.bytes.read (va % 128) n))
    | .frame off => gets s ((s.env iss g l).frameRead off n)
    | .mem a pa =>
      let mine (x : WqEntry) : Bool := x.grp == iss.grp && x.tid == l.2 && x.overlaps pa n
      let cached (e : State) : Option L1Line := (e.core iss.core).l1Find g.ctx (a / 128)
      let clean : Prop := s.poisoned pa = false ∨ cached s ≠ none
      let covers (x : WqEntry) : Prop := x.phys ≤ pa ∧ pa + n ≤ x.phys + x.bytes.length ∧ x.nibble = none
      (∀ x, ((s.core iss.core).wq.filter mine).getLast? = some x → covers x → gets s ((x.bytes.drop (pa - x.phys)).take n))
      ∧ (clean → (s.core iss.core).wq.filter mine = [] →
        (∀ line, cached s = some line → gets s (line.bytes.read (a % 128) n)) ∧ (cached s = none → gets (s.l1Fill iss.core g.ctx a pa n) ((s.seen iss.core).read pa n)))
      ∧ (∀ x, clean → ((s.core iss.core).wq.filter mine).getLast? = some x → ¬covers x →
        (s.drainWhere iss.core mine = none → Waits s iss (.ld w))
        ∧ ∀ e, s.drainWhere iss.core mine = some e → (∀ line, cached e = some line → gets e (line.bytes.read (a % 128) n)) ∧ (cached e = none → gets (e.l1Fill iss.core g.ctx a pa n) ((e.seen iss.core).read pa n)))

/-- 09 R192: ST at an address that passes its checks: the low bytes of its register, pair or four registers go to the scratchpad of a member, with the L1 line of an address that a window took over dropped (12 R260), to the frame, or, for global memory, into the core's write queue, the page marked dirty; no other byte of any memory changes, and no register outside the frame bytes written. 09 R192, R193: LDQ with fewer than 4 entries at an address that passes its checks reserves an entry, whose value waits for its data and the window; with 4 it faults. What the rules leave open here is as the assumption log says: log 13. -/
def Obligations.StoreAndQueueLoad : Prop :=
  (∀ (w : F1) (s : State) (iss : Issue) (g : Group) (l : Nat × Nat) (t : Thread) (loc : Loc) (va : Nat), s.IssuesOne iss g (.st w) l t →
     let n := sizeBytes (lo3 w.x)
     (s.env iss g l).effective t (memSpace w.x) (vnum w.a) (w.imm.signExtend 64) n .store 1 1 = .ok (loc, va) →
     let v (k : Nat) : Nat := (t.v.get (vnum w.d + k)).toNat
     let data := bytesOfNat (if n ≤ 4 then v 0 else if n = 8 then v 0 + 2 ^ 32 * v 1 else v 0 + 2 ^ 32 * v 1 + 2 ^ 64 * v 2 + 2 ^ 96 * v 3) n
     match loc with
     | .cell k off r =>
       let m := s.modGroup k (fun x => { x with scratch := x.scratch.write off data })
       Retires s iss (.st w) l (if r then m.setCore iss.core { m.core iss.core with l1 := (m.core iss.core).l1.filter (fun x => !(x.ctx == g.ctx && decide (va / 128 ≤ x.line) && decide (x.line * 128 < va + n))) } else m)
     | .frame off => Retires s iss (.st w) l (s.frameWrite iss.grp off data)
     | .mem a pa => Retires s iss (.st w) l ((s.markDirty g.ctx a).setCore iss.core { s.core iss.core with wq := (s.core iss.core).wq ++ [{ grp := iss.grp, tid := l.2, ctx := g.ctx, va := a, phys := pa, bytes := data, nibble := none }] }))
  ∧
  ((∀ (w : F1) (q : Nat) (s : State) (iss : Issue) (g : Group) (l : Nat × Nat) (t : Thread) (loc : Loc) (va : Nat) (e : State) (bs : List Byte), s.IssuesOne iss g (.ldq w) l t → Operand.ofCode w.d = .q q → (t.queue q).length < 4 →
     let n := sizeBytes (lo3 w.x)
     (s.env iss g l).effective t (memSpace w.x) (vnum w.a) (w.imm.signExtend 64) n .load 0 0 = .ok (loc, va) → (s.env iss g l).meetsPoison loc va n = false →
     (s.env iss g l).read loc va n = some (e, bs) →
     Retires s iss (.ldq w) l (e.modThread iss.grp l.2 (fun x => { x with q := modifyAt x.q q (fun es => es ++ [{ value := (extendTo (lo3 w.x) bs).setWidth 32, arrived := false, left := w.la.toNat + 1 }]) })))
   ∧ (∀ w q, Operand.ofCode w.d = .q q → Faults (.ldq w) (fun _ _ _ _ t => 4 ≤ (t.queue q).length) (fun _ iss _ _ _ => .plain 0x03 0 iss.word)))

/-- 09 R187, R192, 14 R325: LD, ST and LDQ at an address that does not pass its checks have no effect: the fault of R187 is taken by containment, that of a translation by the Registrar. -/
def Obligations.MemoryFaults : Prop :=
  let plain (i : Instr) (eff : State → Issue → Group → Nat × Nat → Thread → Except TFault (Loc × Nat)) : Prop :=
    Faults i (fun s iss g l t => ∃ c a x, eff s iss g l t = .error (.plain c a x) ∧ (c = 0x05 ∨ c = 0x06)) (fun s iss g l t => match eff s iss g l t with
      | .error f => f
      | .ok _ => .plain 0 0 0)
  let page (i : Instr) (eff : State → Issue → Group → Nat × Nat → Thread → Except TFault (Loc × Nat)) : Prop :=
    ∀ (s : State) (iss : Issue) (g : Group) (l : Nat × Nat) (t : Thread) (va acc : Nat) (f : PgFault), s.IssuesOne iss g i l t → s.handling iss = false → t.inHandler = false →
      eff s iss g l t = .error (.page va acc f) → pagePath f.cause = true → ∃ s' : State, exec i s = .next s' ∧ PageFaultTaken s s' iss g l t va acc f
  let both (i : Instr) (eff : State → Issue → Group → Nat × Nat → Thread → Except TFault (Loc × Nat)) : Prop := plain i eff ∧ page i eff
  (∀ w, both (.ld w) (fun s iss g l t => (s.env iss g l).effective t (memSpace w.x) (vnum w.a) (w.imm.signExtend 64) (sizeBytes (lo3 w.x)) .load 0 0))
  ∧ (∀ w, both (.st w) (fun s iss g l t => (s.env iss g l).effective t (memSpace w.x) (vnum w.a) (w.imm.signExtend 64) (sizeBytes (lo3 w.x)) .store 1 1))
  ∧ (∀ w q, Operand.ofCode w.d = .q q → both (.ldq w) (fun s iss g l t => if 4 ≤ (t.queue q).length then .ok (.frame 0, 0) else (s.env iss g l).effective t (memSpace w.x) (vnum w.a) (w.imm.signExtend 64) (sizeBytes (lo3 w.x)) .load 0 0))

/-- 09 R192, R194, 14 R332: PREF never faults: past the address space, where its translation fails, at a window, or in poison it has no effect; level 0 fills the L1 line and takes no state in the directory (07 R155), levels 1 and 2 change nothing the model holds, level 3 asks for the page to be staged unless 256 requests are waiting. 09 R203, 14 R332: TPREF submits one request for the pages that cover its window, unless that is empty or 256 are waiting; it holds no thread and writes no register. 09 R207, R208, 12 R263: FENCE performs the thread's stores at its scope and invalidates the core's L1; CINV performs its stores to a range and invalidates the lines of the range; CWB performs them, and where the translation passes it leaves the lines of the range clean, their stores performed everywhere, and writes the pooled ones to the pool, once every pooled page's extent can be reached: until then the stream holds it and its request is pending (15 R345, R352). While an exclusive attempt holds a line of such a store the word waits. What the rules leave open here is as the assumption log says: logs 10, 44. -/
def Obligations.PrefetchAndCacheWords : Prop :=
  (
    (∀ (w : F1) (s : State) (iss : Issue) (g : Group) (l : Nat × Nat) (t : Thread), s.IssuesOne iss g (.pref w) l t →
       let ea := t.sourcePair w.a + w.imm.signExtend 64
       let to_ (e : State) : Prop := Retires s iss (.pref w) l e
       (2 ^ 57 ≤ ea.toNat → to_ s)
       ∧ (ea.toNat < 2 ^ 57 → lo2 w.x = 3 → to_ { s with prefetch := if 256 ≤ s.prefetch.length then s.prefetch else s.prefetch ++ [{ ctx := g.ctx, pages := [ea.toNat / 65536], llc := false }] })
       ∧ (ea.toNat < 2 ^ 57 → lo2 w.x < 3 →
         (∀ f, s.route g.ctx ea.toNat .load = .error f → to_ s)
         ∧ (∀ k o r, s.route g.ctx ea.toNat .load = .ok (.cell k o r) → to_ s)
         ∧ ∀ a pa, s.route g.ctx ea.toNat .load = .ok (.mem a pa) →
           (s.poisoned pa = true ∨ lo2 w.x ≠ 0 → to_ s)
           ∧ (s.poisoned pa = false → lo2 w.x = 0 → to_ (if ((s.core iss.core).l1Find g.ctx (a / 128)).isSome then s else s.l1Install iss.core g.ctx a pa))))
    ∧
    ((∀ (w : F0) (s : State) (iss : Issue) (g : Group) (l : Nat × Nat) (t : Thread) (x : BitVec 512), s.IssuesOne iss g (.tpref w) l t → s.layout g.ctx (ltnum w.a) = .ok x → (Lay.ofBits x).valid = true → vnum w.b + 5 + (Lay.ofBits x).rank ≤ g.frame →
       let r (k : Nat) : List Nat := (List.range (Lay.ofBits x).rank).map (fun i => (t.v.get (vnum w.b + k + i)).toNat)
       let pages := (Lay.ofBits x).coverPages (r 0) (r 5)
       (∀ n, n < 10 → vnum w.b + n ∉ t.released) →
       Retires s iss (.tpref w) l (if 256 ≤ s.prefetch.length ∨ pages = [] then s else { s with prefetch := s.prefetch ++ [{ ctx := g.ctx, pages := pages, llc := w.x.getLsbD 0 }] }))
     ∧ (∀ w, Faults (.tpref w) (fun s _ g _ _ => ∃ x, s.layout g.ctx (ltnum w.a) = .ok x ∧ (Lay.ofBits x).rank = 0) (fun _ iss _ _ _ => .plain 0x07 (BitVec.ofNat 64 (ltnum w.a)) iss.word))))
  ∧ (
    (∀ (w : F0) (s : State) (iss : Issue) (g : Group) (l : Nat × Nat) (t : Thread), s.IssuesOne iss g (.fence w) l t → s.pendingAt iss = none →
      (s.drainThread iss.core iss.grp l.2 (lo3 w.x) = none → Waits s iss (.fence w))
      ∧ ∀ e, s.drainThread iss.core iss.grp l.2 (lo3 w.x) = some e → Retires s iss (.fence w) l (e.setCore iss.core { e.core iss.core with l1 := [] }))
    ∧ (∀ (w : F0) (s : State) (iss : Issue) (g : Group) (l : Nat × Nat) (t : Thread),
      let len := (t.v.get (vnum w.b)).toNat
      let lo := (t.sourcePair w.a).toNat / 128 * 128
      let n := ((t.sourcePair w.a).toNat + len + 127) / 128 * 128 - lo
      let own (x : WqEntry) : Bool := x.grp == iss.grp && x.tid == l.2 && decide (x.va < lo + n) && decide (lo < x.va + x.bytes.length)
      (s.IssuesOne iss g (.cinv w) l t →
        (len = 0 → Retires s iss (.cinv w) l s)
        ∧ (0 < len → s.drainWhere iss.core own = none → Waits s iss (.cinv w))
        ∧ ∀ e, 0 < len → s.drainWhere iss.core own = some e → Retires s iss (.cinv w) l (e.setCore iss.core { e.core iss.core with l1 := (e.core iss.core).l1.filter (fun x => !(x.ctx == g.ctx && decide (lo / 128 ≤ x.line) && decide (x.line * 128 < lo + n))) }))
      ∧ (s.IssuesOne iss g (.cwb w) l t →
        (len = 0 → Retires s iss (.cwb w) l s)
        ∧ (0 < len → s.drainWhere iss.core own = none → Waits s iss (.cwb w))
        ∧ ∀ e, 0 < len → s.drainWhere iss.core own = some e → (∀ x ∈ s.windows, x.ctx ≠ g.ctx ∨ x.base + x.len ≤ lo ∨ lo + n ≤ x.base) →
          let far := (pageParts lo n).filter (fun p => e.unreached g.ctx (p.1 / 65536))
          (far = [] → Retires s iss (.cwb w) l ((pageParts lo n).foldl (fun a p => a.cleanPart g.ctx p.1 p.2) e))
          ∧ (far ≠ [] → ∃ s' : State, exec (.cwb w) s = .next s' ∧ Ends (far.foldl (fun a p => a.cleanWait g.ctx (p.1 / 65536)) e) s' iss)))
    ∧ (∀ (s : State) (c page : Nat),
        (s.unreached c page = true ↔ ∃ pa at_ p, s.translate c (page * 65536) .load = .ok pa ∧ s.walkCtx c (page * 65536) = .leaf at_ p ∧ pteKind p = 1 ∧ s.leaseReach (s.leaseFor c p) = false)
        ∧ (∃ j ∈ (s.cleanWait c page).jobs, j.cleans = true ∧ j.ctx = c ∧ j.page = page) ∧ s.cleanWait c page = { s with jobs := (s.cleanWait c page).jobs })
    ∧ ∀ (s : State) (c va n : Nat), (∀ f, s.translate c va .load = .error f → s.cleanPart c va n = s)
      ∧ ∀ (pa at_ : Nat) (p : Dword), s.translate c va .load = .ok pa → s.walkCtx c va = .leaf at_ p →
        s.cleanPart c va n = { s with
          pool := if pteKind p = 1 ∧ (s.leaseFor c p).state ≠ 0 then s.pool.paste ((s.leaseFor c p).pooladdr.toNat + va % 2 ^ 30) n (s.hbm.slice pa n) else s.pool
          ports := if pteKind p = 0 then s.ports else (s.wakePort (s.leaseFor c p).port).ports
          jobs := s.jobs.filter (fun j => !(j.cleans && j.ctx == c && j.page == va / 65536))
          unseen := s.unseen.filter (fun u => !(decide (u.phys < pa + n) && decide (pa < u.phys + u.old.length)))
          dir := (s.dir.map (fun (x : Nat × DirLine) => if pa / 128 ≤ x.1 && decide (x.1 * 128 < pa + n) then (x.1, { x.2 with dirty := false }) else x)).filter (fun x => decide (x.2 ≠ DirLine.home)) })

/-- 09 R209: PIN's four outcomes and the pin recorded, with its lapse 1 ms of device time later; UNPIN releases the group's pins that lie in the range, none where the length is 0; PIN_LAPSE releases a pin at its lapse time and sets PINLAPSE. 09 R210, R211: SPMAP's checks, statuses and registration, its page translated for writing, marked dirty, and its cached lines recalled; SPUNMAP writes the window's scratchpad bytes to the page and removes it, once no exclusive attempt holds a line of the page that it writes (10 R237), and does nothing where the group has no window there. -/
def Obligations.PinAndWindowWords : Prop :=
  ((∀ (w : F0) (s : State) (iss : Issue) (g : Group) (l : Nat × Nat) (t : Thread), s.IssuesOne iss g (.pin w) l t →
     let base := (t.sourcePair w.a).toNat
     let len := (t.v.get (vnum w.b)).toNat
     let lo := base / 128 * 128
     let n := (base + len + 127) / 128 * 128 - lo
     let gives (e : State) (v : Word) : Prop := Retires s iss (.pin w) l (e.modThread iss.grp l.2 (fun x => x.setV (vnum w.d) v))
     let size := len = 0 ∨ 2 ^ 20 < n
     let own := 16 ≤ (s.pins.filter (fun p => p.grp == iss.grp)).length
     let all := 2 ^ 25 < (s.pins.map (fun p => p.len)).sum + n
     (size → gives s 3) ∧ (¬size → own → gives s 2) ∧ (¬size → ¬own → all → gives s 1)
     ∧ (¬size → ¬own → ¬all → base < 2 ^ 57 → s.rangeFault g.ctx lo n .load = none →
       gives { s with pins := s.pins ++ [{ grp := iss.grp, ctx := g.ctx, base := lo, len := n, lapse := s.ns + 1000000 }] } 0))
   ∧ (∀ (w : F0) (s : State) (iss : Issue) (g : Group) (l : Nat × Nat) (t : Thread), s.IssuesOne iss g (.unpin w) l t →
     let base := (t.sourcePair w.a).toNat
     let lo := base / 128 * 128
     let hi := (base + (t.v.get (vnum w.b)).toNat + 127) / 128 * 128
     Retires s iss (.unpin w) l (if t.v.get (vnum w.b) = 0 then s else { s with pins := s.pins.filter (fun p => !(p.grp == iss.grp && decide (lo ≤ p.base) && decide (p.base + p.len ≤ hi))) }))
   ∧ (∀ (s : State) (k : Nat) (p : Pin) (g : Group), s.pins[k]? = some p → s.group? p.grp = some g → p.lapse ≤ s.ns →
     exec (.pinLapse k) s = .next ({ s with pins := s.pins.eraseIdx k }.setGroup p.grp { g with pinLapse := true })))
  ∧
  ((∀ (w : F0) (s : State) (iss : Issue) (g : Group) (l : Nat × Nat) (t : Thread), s.IssuesOne iss g (.spmap w) l t →
     let base := (t.sourcePair w.a).toNat
     let off := (t.v.get (vnum w.b)).toNat
     let len := (t.v.get (vnum w.b + 1)).toNat
     let gives (e : State) (v : Word) : Prop := Retires s iss (.spmap w) l (e.modThread iss.grp l.2 (fun x => x.setV (vnum w.d) v))
     ∀ pa, base % 4096 = 0 → off % 4096 = 0 → len % 4096 = 0 → 0 < len → len ≤ 65536 → base / 65536 = (base + len - 1) / 65536 → off + len ≤ 4096 * g.scratchUnits → base < 2 ^ 57 → s.translate g.ctx base .store = .ok pa →
       let many := 4 ≤ (s.windows.filter (fun x => x.grp == iss.grp)).length
       let meets := ∃ x ∈ s.windows, x.ctx = g.ctx ∧ x.base < base + len ∧ base < x.base + x.len
       (many → gives (s.markDirty g.ctx base) 1) ∧ (¬many → meets → gives (s.markDirty g.ctx base) 2)
       ∧ (¬many → ¬meets → (s.markDirty g.ctx base).drainAll g.ctx base len = none → Waits s iss (.spmap w))
       ∧ (∀ e, ¬many → ¬meets → (s.markDirty g.ctx base).drainAll g.ctx base len = some e →
         gives { ((e.dirRecallRange pa len).setCore iss.core { e.core iss.core with l1 := (e.core iss.core).l1.filter (fun x => !(x.ctx == g.ctx && decide (base / 128 ≤ x.line) && decide (x.line * 128 < base + len))) }) with windows := e.windows ++ [{ grp := iss.grp, ctx := g.ctx, base := base, len := len, off := off, valid := true, gone := false }] } 0))
   ∧ (∀ (s e : State) (c base len : Nat), s.drainAll c base len = some e →
       let mine (x : WqEntry) : Prop := x.ctx = c ∧ x.va < base + len ∧ base < x.va + x.bytes.length
       (∀ k, ∀ x ∈ (e.core k).wq, ¬mine x) ∧ e.windows = s.windows ∧ e.groups = s.groups)
   ∧ (∀ w, Faults (.spmap w)
       (fun _ _ _ _ t => let base := (t.sourcePair w.a).toNat; let len := (t.v.get (vnum w.b + 1)).toNat;
         base % 4096 ≠ 0 ∨ (t.v.get (vnum w.b)).toNat % 4096 ≠ 0 ∨ len % 4096 ≠ 0 ∨ len = 0 ∨ 65536 < len)
       (fun _ iss _ _ t => .plain 0x05 (t.sourcePair w.a) iss.word))
   ∧ (∀ w, Faults (.spmap w)
       (fun _ _ g _ t => let base := (t.sourcePair w.a).toNat; let off := (t.v.get (vnum w.b)).toNat; let len := (t.v.get (vnum w.b + 1)).toNat;
         (base % 4096 = 0 ∧ off % 4096 = 0 ∧ len % 4096 = 0 ∧ 0 < len ∧ len ≤ 65536) ∧ (base / 65536 ≠ (base + len - 1) / 65536 ∨ 4096 * g.scratchUnits < off + len ∨ 2 ^ 57 ≤ base))
       (fun _ iss _ _ t => .plain 0x06 (t.sourcePair w.a) iss.word))
   ∧ (∀ (w : F0) (s : State) (iss : Issue) (g : Group) (l : Nat × Nat) (t : Thread), s.IssuesOne iss g (.spunmap w) l t →
     let own := s.windows.find? (fun x => x.grp == iss.grp && x.base == (t.sourcePair w.a).toNat)
     (own = none → Retires s iss (.spunmap w) l s)
     ∧ (∀ x pa p, own = some x → x.valid = true → s.walkCtx x.ctx x.base = .leaf pa p → pteState p ∈ [2, 3, 4, 5] →
       let held : Prop := ∃ k, k < x.len / 128 ∧ s.lineHeld iss.core (pteFrame p * 512 + x.base % 65536 / 128 + k) (some (iss.grp, l.2)) = true
       let at_ := pteFrame p * 65536 + x.base % 65536
       let m := s.markDirty x.ctx x.base
       (held → Waits s iss (.spunmap w)) ∧ (¬held → Retires s iss (.spunmap w) l { (m.dirRecallRange at_ x.len) with hbm := m.hbm.paste at_ x.len (g.scratch.slice x.off x.len), windows := s.windows.filter (fun y => decide (y ≠ x)) }))
     ∧ (∀ x, own = some x → x.valid = true → (∀ pa p, s.walkCtx x.ctx x.base = .leaf pa p → pteState p ∉ [2, 3, 4, 5]) →
       Retires s iss (.spunmap w) l { s with windows := s.windows.filter (fun y => decide (y ≠ x)) })
     ∧ (∀ x, own = some x → x.valid = false → Retires s iss (.spunmap w) l { s with windows := s.windows.filter (fun y => decide (y ≠ x)) })))
  ∧ ∀ (i : Instr) (s : State), ((∃ w, i = .pin w ∨ i = .unpin w ∨ i = .spmap w ∨ i = .spunmap w) ∨ ∃ k, i = .pinLapse k) → ∃ t, exec i s = .next t

/-- 09 R188, R192, 12 R259, 10 R237: STORE_DRAIN performs a queued store: its bytes at their place in device memory and in the core's own L1 line, no other byte of memory changed, and it leaves the queue; it waits behind an earlier store of its core to a common byte and for an exclusive attempt that holds its line. 09 R188, 14 R310, 12 R263: a first store to a page sets DIRTY in its entry and nothing else; a fill puts the line's 128 bytes into the core's L1, in place of its oldest lines as far as the partition has no room, and writes no memory; performing queued stores takes them from the queue, and every byte outside them stays as it was. A store performed at group, quad or die scope is read by the cores of the storing core's scope instance, and what was there before by every other. What the rules leave open here is as the assumption log says: logs 10, 12. -/
def Obligations.MemoryPaths : Prop :=
  (∀ (s : State) (core idx : Nat) (x : WqEntry), (s.core core).wq[idx]? = some x →
     let held := ((s.core core).wq.take idx).any (fun y => y.clash x) || s.lineHeld core (x.phys / 128) (some (x.grp, x.tid))
     (held = true → exec (.storeDrain core idx) s = .next s)
     ∧ (held = false →
       let bytes := match x.nibble, x.bytes with
         | some hi, [b] => [if hi then (b &&& 0xF0) ||| (s.hbm.get x.phys &&& 0x0F) else (b &&& 0x0F) ||| (s.hbm.get x.phys &&& 0xF0)]
         | _, bs => bs
       ∃ (s' : State) (D : Tab DirLine) (H : List Nat) (F : Tab Nat), exec (.storeDrain core idx) s = .next s'
         ∧ s' = { (s.setCore core { s.core core with wq := (s.core core).wq.eraseIdx idx, l1 := (s.core core).l1.map (fun y => if y.ctx = x.ctx ∧ y.line = x.va / 128 then { y with bytes := y.bytes.write (x.va % 128) bytes } else y) }) with hbm := s.hbm.write x.phys bytes, dir := D, hostFilter := H, counters := F, unseen := s.unseen.filter (fun u => !(decide (u.phys < x.phys + bytes.length) && decide (x.phys < u.phys + u.old.length))) }
         ∧ ∀ a, s'.hbm.get a = if x.phys ≤ a ∧ a < x.phys + bytes.length then bytes.getD (a - x.phys) 0 else s.hbm.get a))
  ∧ (∀ (s : State) (core scope : Nat) (x : WqEntry) (a c : Nat), x.nibble = none → x.phys ≤ a → a < x.phys + x.bytes.length →
     ((s.drainEntry core x scope).seen c).get a = if scope ≤ 2 ∧ scopeInst scope c ≠ scopeInst scope core then s.hbm.get a else x.bytes.getD (a - x.phys) 0)
  ∧
  ((∀ (s : State) (c va pa : Nat) (p : Dword), s.walkCtx c va = .leaf pa p →
     s.markDirty c va = if p.getLsbD 54 then s else { s with hbm := s.hbm.write pa (bytesOfNat (p ||| (1 <<< 54 : Dword)).toNat 8) })
   ∧ (∀ (s : State) (core ctx va pa n : Nat), ∃ D H F line, line.ctx = ctx ∧ line.line = va / 128 ∧ (∀ i, i < 128 → line.bytes.get i = (s.seen core).get (pa / 128 * 128 + i))
       ∧ s.l1Fill core ctx va pa n = { (s.setCore core { s.core core with l1 := (s.core core).l1.drop ((s.core core).l1.length + 1 - s.l1Lines core) ++ [line] }) with dir := D, hostFilter := H, counters := F })
   ∧ (∀ (s e : State) (core : Nat) (f : WqEntry → Bool), s.drainWhere core f = some e →
       (∃ C D H F U, e = { s with hbm := e.hbm, cores := C, dir := D, hostFilter := H, counters := F, unseen := U })
       ∧ (e.core core).wq.Sublist (s.core core).wq ∧ (∀ x ∈ (e.core core).wq, f x = false)
       ∧ (∀ c, c ≠ core → e.core c = s.core c)
       ∧ (∀ a, (∀ x ∈ (s.core core).wq, a < x.phys ∨ x.phys + x.bytes.length ≤ a) → e.hbm.get a = s.hbm.get a)
       ∧ ((s.core core).wq.Pairwise (fun a b => f b = true → a.clash b = true → f a = true) →
         (e.core core).wq = (s.core core).wq.filter (fun x => !f x)
         ∧ (∀ a, (∀ x ∈ (s.core core).wq, f x = true → a < x.phys ∨ x.phys + x.bytes.length ≤ a) → e.hbm.get a = s.hbm.get a)
         ∧ (∀ x, (s.core core).wq.filter f = [x] → x.nibble = none → e.hbm = s.hbm.write x.phys x.bytes)))
   ∧ (∀ (s : State) (core : Nat) (f : WqEntry → Bool), (∃ x ∈ (s.core core).wq, f x = true ∧ s.lineHeld core (x.phys / 128) (some (x.grp, x.tid)) = true) → s.drainWhere core f = none))

/-- 14 R308 to R310: a translation succeeds exactly where the three table entries are valid and the page entry passes every test, and gives FRAME and the page offset; a page entry that fails gives the cause of its first failing test; a page held for UNMAP or MIGRATE gives PAGE_MOVED (14 R320). An entry that names a frame the Registrar gave to another context, or for the other use, leads nowhere, and a lease of another context is none: that is the model's choice of what a breach of R309 does, log 75. -/
def Obligations.Translation : Prop :=
  let field (x : Dword) (lo n : Nat) : Nat := x.toNat / 2 ^ lo % 2 ^ n
  let table (x : Dword) : Prop := field x 60 4 = 1 ∧ field x 39 21 = 0 ∧ field x 0 12 = 0
  let next (x : Dword) : Nat := field x 12 27 * 4096
  let walks (s : State) (c va : Nat) (p : Dword) : Prop :=
    let own (x : Dword) : Prop := table x ∧ ∀ f, lookKey (next x / 65536) s.frames = some f → f.ctx = c ∧ f.table = true
    let e3 := s.hbm.dword ((s.ctx c).ptroot.toNat + 8 * (va / 2 ^ 43))
    let e2 := s.hbm.dword (next e3 + 8 * (va / 2 ^ 34 % 512))
    let e1 := s.hbm.dword (next e2 + 8 * (va / 2 ^ 25 % 512))
    own e3 ∧ own e2 ∧ own e1 ∧ p = s.hbm.dword (next e1 + 8 * (va / 2 ^ 16 % 512))
    ∧ (field p 60 4 ∈ [2, 3, 4, 5] → ∀ f, lookKey (field p 16 23) s.frames = some f → f.ctx = c ∧ f.table = false)
  let cause (s : State) (c va : Nat) (p : Dword) (w : Want) : Nat :=
    let st := field p 60 4
    let lease := if field p 58 2 ≠ 0 ∧ st ∉ [0, 6, 7] then (let l := s.lease (field p 0 12); if l.ctx = c then l.state else 0) else 1
    if s.pageHeld c (va / 65536) = true then 0x12
    else if field p 39 13 ≠ 0 ∨ field p 12 4 ≠ 0 ∨ 7 < st ∨ field p 58 2 = 3 then 0x10
    else if lease = 0 ∨ lease = 3 then 0x13
    else if lease = 4 then 0x14
    else if lease = 5 then 0x15
    else if st = 0 ∨ st = 1 ∨ st = 6 then 0x10
    else if st = 5 then 0x12
    else if st = 7 then 0x17
    else if w = .store ∧ (field p 56 1 = 0 ∨ st = 3) ∨ w = .fetch ∧ field p 55 1 = 0 then 0x11
    else 0
  ∀ (s : State) (c va : Nat) (w : Want), va < 2 ^ 57 →
    (∀ pa, s.translate c va w = .ok pa ↔ ∃ p, walks s c va p ∧ cause s c va p w = 0 ∧ pa = field p 16 23 * 65536 + va % 65536)
    ∧ (∀ p, walks s c va p → cause s c va p w ≠ 0 → ∃ f, s.translate c va w = .error f ∧ f.cause = cause s c va p w)
    ∧ ((∀ p, ¬walks s c va p) → ∃ f, s.translate c va w = .error f ∧ f.cause = 0x10)

/-- 09 R213, R214: what the operation codes give, on 32 and on 64 bits; the floating-point ones element by element, nearest-even, FMIN and FMAX of R175. -/
def Obligations.AtomicOperations : Prop :=
  (∀ (ty : Ty) (a b : Word), ty.wide = false →
    [0, 1, 2, 3, 4, 5, 6].map (fun op => atomNew op ty a.toNat b.toNat) =
      [(a + b).toNat, (a &&& b).toNat, (a ||| b).toNat, (a ^^^ b).toNat, b.toNat, (if ival ty a ≤ ival ty b then a else b).toNat, (if ival ty a ≤ ival ty b then b else a).toNat])
  ∧ (∀ (ty : Ty) (a b : Dword), ty.wide = true →
    [0, 1, 2, 3, 4, 5, 6].map (fun op => atomNew op ty a.toNat b.toNat) =
      [(a + b).toNat, (a &&& b).toNat, (a ||| b).toNat, (a ^^^ b).toNat, b.toNat, (if ival ty a ≤ ival ty b then a else b).toNat, (if ival ty a ≤ ival ty b then b else a).toNat])
  ∧ (∀ (a b : Word), [7, 8, 9].map (fun op => atomNew op .f32 a.toNat b.toNat) =
      [(fadd .f32 .rne a.toNat b.toNat).code, (fminmax .f32 false a.toNat b.toNat).code, (fminmax .f32 true a.toNat b.toNat).code].map (fun x => x % 2 ^ 32))
  ∧ (∀ (ty : Ty) (f : Fmt) (a b : Word), (ty = .bf16x2 ∧ f = .bf16) ∨ (ty = .f16x2 ∧ f = .f16) →
      let two (h : Nat → Nat → FRes) : Nat := (h (a.toNat % 65536) (b.toNat % 65536)).code % 65536 + 65536 * ((h (a.toNat / 65536) (b.toNat / 65536)).code % 65536)
      [7, 8, 9].map (fun op => atomNew op ty a.toNat b.toNat) = [two (fadd f .rne), two (fminmax f false), two (fminmax f true)])

/-- 09 R212 to R215, R217, R218, 14 R310: ATOM, CAS and RED at a place that passes its checks, once the stores they wait for are performed: the old value is the result, now or held; the new one is written, by CAS only where the old one is the expected; the page is marked DIRTY either way, and the core's L1 line of the place goes; ORDERREQ is set in service mode by an order field other than 0. While an exclusive attempt holds a line the word waits. -/
def Obligations.AtomicWords : Prop :=
  ∀ (w : F0) (s : State) (iss : Issue) (g : Group) (l : Nat × Nat) (t : Thread) (loc : Loc) (va : Nat) (rs : List Bound),
    let v (n : Nat) : Nat := if w.ty.wide then (t.sourcePair (BitVec.ofNat 11 n)).toNat else (t.v.get n).toNat
    let size := if w.ty.wide then 8 else 4
    let count := if w.ty.wide then 2 else 1
    let maint := (s.ctx g.ctx).maint || decide (Config.cores ≤ iss.core)
    let got := if !maint || atomOrder w ∈ [0, 2, 4] then rs else []
    let order := !maint && atomOrder w != 0
    let ready (red : Bool) : Prop := (s.env iss g l).effective t (lo2 w.x) (vnum w.a) 0 size .store 2 2 = .ok (loc, va) ∧ (s.env iss g l).lockRanges w red (lo2 w.x) va = .ok rs ∧ s.locPoisoned loc = false
    let starts (red : Bool) : Option State := (s.env iss g l).atomStart w red rs [(loc, size)]
    let old (e : State) : Nat := natOfBytes ((e.marked g [loc]).currentBytes loc size)
    let leaves (e : State) (new : Option Nat) (acq : List Bound) (ord : Bool) (k : State → Prop) : Prop :=
      AtomLeaves e iss g [loc] [(loc, va, size)] (new.toList.map (fun x => (loc, bytesOfNat x size))) acq ord k
    (s.IssuesOne iss g (.atom w) l t → ready false → (starts false = none → Waits s iss (.atom w)) ∧ ∀ e, starts false = some e →
      leaves e (some (atomNew (atomOp w) w.ty (old e) (v (vnum w.a + 2)))) got order (fun m => RetiresWith s iss (.atom w) l m (vnum w.d) count (BitVec.ofNat 128 (old e))))
    ∧ (s.IssuesOne iss g (.cas w) l t → ready false → (starts false = none → Waits s iss (.cas w)) ∧ ∀ e, starts false = some e →
      leaves e (if old e = v (vnum w.a + 2) then some (v (vnum w.d)) else none) got order (fun m => RetiresWith s iss (.cas w) l m (vnum w.d) count (BitVec.ofNat 128 (old e))))
    ∧ (s.IssuesOne iss g (.red w) l t → ready true → (starts true = none → Waits s iss (.red w)) ∧ ∀ e, starts true = some e →
      leaves e (some (atomNew (atomOp w) w.ty (old e) (v (vnum w.a + 2)))) [] false (fun m => Retires s iss (.red w) l m))

/-- 09 R216, R217, 14 R310: ENQ and DEQ on a control block that passes its checks: a full ring and an empty one change no memory but DIRTY and give status 1; otherwise the entry and the count move together. What the rules leave open here is as the assumption log says: log 61. -/
def Obligations.RingWords : Prop :=
  ∀ (w : F0) (s : State) (iss : Issue) (g : Group) (l : Nat × Nat) (t : Thread) (loc : Loc) (rs : List Bound) (e : State) (tail head base log : Nat),
    let maint := (s.ctx g.ctx).maint || decide (Config.cores ≤ iss.core)
    let got := if !maint || atomOrder w ∈ [0, 2, 4] then rs else []
    let order := !maint && atomOrder w != 0
    let env := s.env iss g l
    let at_ (e : State) : Env := { env with s := e }
    let rcb := (t.sourcePair w.a).toNat
    env.global t (t.sourcePair w.a) 64 .store 2 2 = .ok loc → env.lockRanges w false 0 rcb = .ok rs → s.locPoisoned loc = false → env.atomStart w false rs [(loc, 64)] = some e →
    e.currentBytes loc 64 = bytesOfNat tail 8 ++ bytesOfNat head 8 ++ bytesOfNat base 8 ++ bytesOfNat log 8 ++ List.replicate 32 0 →
    tail < 2 ^ 64 → head < 2 ^ 64 → base < 2 ^ 57 → base % 8 = 0 → 1 ≤ log → log ≤ 24 →
    (s.IssuesOne iss g (.enq w) l t →
      ((tail + 2 ^ 64 - head) % 2 ^ 64 = 2 ^ log → AtomLeaves e iss g [loc] [(loc, rcb, 64)] [] got order (fun m => RetiresWith s iss (.enq w) l m (vnum w.d) 1 1))
      ∧ ∀ x e2, let at8 := base + 8 * (tail % 2 ^ log)
        (tail + 2 ^ 64 - head) % 2 ^ 64 ≠ 2 ^ log → at8 < 2 ^ 57 → e.route g.ctx at8 .store = .ok x → env.watch t at8 8 2 = none → (at_ e).atomStart w false [] [(x, 8)] = some e2 →
        AtomLeaves e2 iss g [x, loc] [(loc, rcb, 64), (x, at8, 8)] [(x, bytesOfNat (t.sourcePair (BitVec.ofNat 11 (vnum w.a + 2))).toNat 8), (loc, bytesOfNat (tail + 1) 8)] got order
          (fun m => RetiresWith s iss (.enq w) l m (vnum w.d) 1 0))
    ∧ (s.IssuesOne iss g (.deq w) l t →
      (tail = head → AtomLeaves e iss g [loc] [(loc, rcb, 64)] [] got order (fun m => RetiresWith s iss (.deq w) l m (vnum w.d) 3 (2 ^ 64)))
      ∧ ∀ x e2, let at8 := base + 8 * (head % 2 ^ log)
        tail ≠ head → at8 < 2 ^ 57 → e.route g.ctx at8 .load = .ok x → env.watch t at8 8 2 = none → e.locPoisoned x = false → (at_ e).atomStart w false [] [(x, 8)] = some e2 →
        AtomLeaves e2 iss g [loc] [(loc, rcb, 64), (x, at8, 8)] [(loc.shift 8, bytesOfNat (head + 1) 8)] got order
          (fun m => RetiresWith s iss (.deq w) l m (vnum w.d) 3 (BitVec.ofNat 128 (natOfBytes ((e2.marked g [loc]).currentBytes x 8)))))

/-- 11 R245 to R248: what an arrival and a completion's bytes do to a barrier: the refusals in their order, the count set by the first arrival, the totals, and the flip, with and without overflow. 11 R246, R248, R251, R255, 12 R265, 07 R139: a flip without overflow, in a resident group with no FP exception pending, makes every thread blocked on the flipped phase runnable where it waits, the acquire made on the group's core over the ranges its waits bring and those bound now; in a group that is not resident its waits become runnable and keep the flip; nothing else of the group changes. What the rules leave open here is as the assumption log says: log 69. -/
def Obligations.BarrierPhases : Prop :=
  (∀ (b : Barrier),
     (∀ n : Word, b.refusal n =
       if n.toNat = 0 ∨ b.members < n.toNat then some 2 else if 0 < b.arrivals.toNat ∧ b.arrivals = b.count then some 3 else if 0 < b.arrivals.toNat ∧ n ≠ b.count then some 1 else none)
     ∧ (∀ n : Word, b.refusal n = none → b.arrivals.toNat + 1 < 2 ^ 32 →
       let full := b.arrivals + 1 = n
       (¬full ∨ b.arrBytes < b.expBytes → b.arrive n = ({ b with count := n, arrivals := b.arrivals + 1 }, none))
       ∧ (full → b.expBytes ≤ b.arrBytes → b.arrive n =
         ({ b with phase := b.phase + 1, count := 0, arrivals := 0, expBytes := 0, arrBytes := 0, lastOvf := decide (b.expBytes < b.arrBytes), pastGlobal := b.pastGlobal || b.openGlobal, openGlobal := false }, some (decide (b.expBytes < b.arrBytes)))))
     ∧ (∀ (k : Nat) (glob : Bool),
       let total := b.arrBytes.toNat + k
       let full := 0 < b.arrivals.toNat ∧ b.arrivals = b.count
       (¬full ∨ total < b.expBytes.toNat → b.addBytes k glob = ({ b with arrBytes := BitVec.ofNat 32 (min total 0xFFFFFFFF), openGlobal := b.openGlobal || glob }, none))
       ∧ (full → b.expBytes.toNat ≤ total → b.addBytes k glob =
         ({ b with phase := b.phase + 1, count := 0, arrivals := 0, expBytes := 0, arrBytes := 0, lastOvf := decide (b.expBytes.toNat < total), pastGlobal := b.pastGlobal || (b.openGlobal || glob), openGlobal := false }, some (decide (b.expBytes.toNat < total))))))
  ∧
  (∀ (s : State) (gid : Nat) (g : Group) (tok : Word) (ovf glob : Bool) (extra : Dword) (own : Option (Nat × Dword)), s.group? gid = some g → g.resident = false →
     let on (t : Thread) : Bool := decide (t.cond = .blocked .barrier ∧ t.token = some tok)
     let s' := s.wakeGroup gid tok ovf glob extra own
     s'.group? gid = some { g with threads := g.threads.map (fun t => if on t then { t.waitAt t.addr (s.clock g.core) with wake := some (ovf, glob, extra) } else t) }
     ∧ (∀ k, k ≠ gid → s'.group? k = s.group? k) ∧ (∃ G, s' = { s with groups := G }))
  ∧
  (∀ (s : State) (gid : Nat) (g : Group) (tok : Word) (glob : Bool) (extra : Dword) (own : Option (Nat × Dword)), s.group? gid = some g → g.resident = true → g.fpPending = none → (∀ iss, s.issue = some iss → s.pendingAt iss = none) →
     let on (t : Thread) : Bool := decide (t.cond = .blocked .barrier ∧ t.token = some tok)
     let rs := (g.threads.filter on).flatMap (fun t => t.acq) ++ s.barRanges g.ctx (tok.toNat % 2 ^ 11)
     let s' := s.wakeGroup gid tok false glob extra own
     s'.group? gid = some { g with threads := g.threads.map (fun t => if on t then t.waitAt t.addr (s.clock g.core) else t) }
     ∧ (∀ k, k ≠ gid → s'.group? k = s.group? k) ∧ (∀ c, c ≠ g.core → s'.core c = s.core c)
     ∧ (∃ G C, s' = { s with groups := G, cores := C })
     ∧ (s'.core g.core).l1 = (s.core g.core).l1.filter (fun x => !(g.threads.any on && (glob || rs.any (fun r => x.ctx == g.ctx && decide (r.base / 128 ≤ x.line) && decide (x.line * 128 < r.base + r.len))))))

/-- 11 R249, R250, R253: BARRIVE joins the open phase and returns its token; a refused arrival faults and changes nothing; BEXPECT adds its bytes, or faults past 2^32 - 1; BTEST.cur gives the open phase's token. -/
def Obligations.BarrierArrivals : Prop :=
  let tok (b : Barrier) (code : Nat) : Word := BitVec.ofNat 32 (b.phase.toNat % 65536 * 65536 + code)
  let extra (b : Barrier) (reason code : Nat) : Dword := BitVec.ofNat 64 (b.phase.toNat * 2 ^ 32 + reason * 2 ^ 24 + code)
  (∀ (w : F0) (s : State) (iss : Issue) (g : Group) (l : Nat × Nat) (t : Thread) (b : Barrier) (rs : List Bound), s.IssuesOne iss g (.barrive w) l t →
    s.bar? (g.owner iss.grp) w.a.toNat = some b → (s.env iss g l).barRanges w.a.toNat = .ok rs →
    (s.release iss.core iss.grp l.2 rs = none → Waits s iss (.barrive w))
    ∧ ∀ e, s.release iss.core iss.grp l.2 rs = some e → b.refusal (t.v.get (vnum w.b)) = none →
      Retires s iss (.barrive w) l ((e.barEvent (g.owner iss.grp) w.a.toNat b (b.arrive (t.v.get (vnum w.b))) none).modThread iss.grp l.2 (fun x => x.setV (vnum w.d) (tok b w.a.toNat))))
  ∧ (∀ w : F0, Faults (.barrive w)
      (fun s iss g l t => ∃ b rs, s.bar? (g.owner iss.grp) w.a.toNat = some b ∧ (s.env iss g l).barRanges w.a.toNat = .ok rs ∧ (s.release iss.core iss.grp l.2 rs).isSome ∧ (b.refusal (t.v.get (vnum w.b))).isSome)
      (fun s iss g _ t => .plain 0x20 0 (((s.bar? (g.owner iss.grp) w.a.toNat).map (fun b => extra b ((b.refusal (t.v.get (vnum w.b))).getD 0) w.a.toNat)).getD 0)))
  ∧ (∀ (w : F0) (s : State) (iss : Issue) (g : Group) (l : Nat × Nat) (t : Thread) (b : Barrier), s.IssuesOne iss g (.bexpect w) l t → s.bar? (g.owner iss.grp) w.a.toNat = some b →
    b.expBytes.toNat + (t.v.get (vnum w.b)).toNat < 2 ^ 32 → Retires s iss (.bexpect w) l (s.setBar (g.owner iss.grp) w.a.toNat { b with expBytes := b.expBytes + t.v.get (vnum w.b) }))
  ∧ (∀ w : F0, Faults (.bexpect w)
      (fun s iss g _ t => ∃ b, s.bar? (g.owner iss.grp) w.a.toNat = some b ∧ 2 ^ 32 ≤ b.expBytes.toNat + (t.v.get (vnum w.b)).toNat)
      (fun s iss g _ _ => .plain 0x21 0 (((s.bar? (g.owner iss.grp) w.a.toNat).map (fun b => extra b 2 w.a.toNat)).getD 0)))
  ∧ (∀ (w : F0) (s : State) (iss : Issue) (g : Group) (l : Nat × Nat) (t : Thread) (b : Barrier), s.IssuesOne iss g (.btestCur w) l t → s.bar? (g.owner iss.grp) w.a.toNat = some b →
    Retires s iss (.btestCur w) l (s.modThread iss.grp l.2 (fun x => x.setV (vnum w.d) (tok b w.a.toNat))))

/-- 11 R250, R251, R253, 07 R139: BSYNC blocks after itself on the phase its arrival joined, or, where that arrival flips it, completes with the acquire, followed by its fault where the phase overflowed; BWAIT completes on a token that has passed and blocks on one that is open; BTEST tells which, with the acquire when it has passed; a token that is ahead, malformed or names no barrier the thread may name faults in place. A completed wait of a phase that overflowed is followed by its fault. What the rules leave open here is as the assumption log says: logs 29, 44. -/
def Obligations.BarrierWaits : Prop :=
  let tok (b : Barrier) (code : Nat) : Word := BitVec.ofNat 32 (b.phase.toNat % 65536 * 65536 + code)
  let spilt (b : Barrier) (code : Nat) : TFault := .plain 0x21 0 (BitVec.ofNat 64 (b.phase.toNat * 2 ^ 32 + 2 ^ 24 + code))
  let sleep (s : State) (iss : Issue) (l : Nat × Nat) (k : Word) (rs : List Bound) (x : Thread) : Thread :=
    { x.blockAt .barrier (iss.pc + 8) (s.clock iss.core) with token := some k, acq := rs, place := (((s.issuing iss).map (fun d => d.uid)).getD 0, iss.pack, l.1) }
  let wake (s : State) (iss : Issue) (x : Thread) : Thread := x.waitAt (iss.pc + 8) (s.clock iss.core)
  let acquired (e : State) (iss : Issue) (g : Group) (rs : List Bound) (all : Bool) : State :=
    e.setCore iss.core { e.core iss.core with l1 := (e.core iss.core).l1.filter (fun x => !all && !(rs.any (fun r => x.ctx == g.ctx && decide (r.base / 128 ≤ x.line) && decide (x.line * 128 < r.base + r.len)))) }
  let names (s : State) (iss : Issue) (g : Group) (k : Word) (b : Barrier) (d : Nat) : Prop :=
    k.toNat / 2 ^ 11 % 2 ^ 5 = 0 ∧ s.bar? (g.owner iss.grp) (k.toNat % 2 ^ 11) = some b ∧ d < 32768 ∧ (b.phase.toNat % 65536 + 65536 - k.toNat / 65536) % 65536 = d
    ∧ (k.toNat % 2 ^ 11 ∈ (List.range 24).map (fun n => 0x620 + n) ∨ k.toNat % 2 ^ 11 ∈ (List.range 8).map (fun n => 0x638 + n) ∧ s.corOf g = true)
  let bad (s : State) (iss : Issue) (g : Group) (k : Word) : Prop :=
    k.toNat / 2 ^ 11 % 2 ^ 5 ≠ 0 ∨ ¬(k.toNat % 2 ^ 11 ∈ (List.range 24).map (fun n => 0x620 + n) ∨ k.toNat % 2 ^ 11 ∈ (List.range 8).map (fun n => 0x638 + n) ∧ s.corOf g = true)
    ∨ ∀ b, s.bar? (g.owner iss.grp) (k.toNat % 2 ^ 11) = some b → 32768 ≤ (b.phase.toNat % 65536 + 65536 - k.toNat / 65536) % 65536
  (∀ w, Faults (.bwait w) (fun s iss g _ t => bad s iss g (t.v.get (vnum w.a))) (fun _ iss _ _ _ => .plain 0x03 0 iss.word))
  ∧ (∀ w, Faults (.btest w) (fun s iss g _ t => bad s iss g (t.v.get (vnum w.a))) (fun _ iss _ _ _ => .plain 0x03 0 iss.word))
  ∧
  ∀ (w : F0) (s : State) (iss : Issue) (g : Group) (l : Nat × Nat) (t : Thread) (b : Barrier) (rs : List Bound), s.pendingAt iss = none →
    (s.IssuesOne iss g (.bsync w) l t → s.bar? (g.owner iss.grp) w.a.toNat = some b → (s.env iss g l).barRanges w.a.toNat = .ok rs → b.refusal (t.v.get (vnum w.b)) = none →
      ∀ e, s.release iss.core iss.grp l.2 rs = some e →
        let r := b.arrive (t.v.get (vnum w.b))
        let e1 := e.barEvent (g.owner iss.grp) w.a.toNat b r (some (iss.grp, iss.pc))
        (r.2 = none → RetiresTo s iss (.bsync w) l e1 (sleep s iss l (tok b w.a.toNat) rs))
        ∧ (r.2 = some false → RetiresTo s iss (.bsync w) l (acquired e1 iss g rs r.1.pastGlobal) (wake s iss))
        ∧ (r.2 = some true → s.handling iss = false → t.inHandler = false → FaultsAfter s iss g (.bsync w) l t (acquired e1 iss g rs r.1.pastGlobal) (spilt r.1 w.a.toNat)))
    ∧ (s.IssuesOne iss g (.bwait w) l t → ∀ d, names s iss g (t.v.get (vnum w.a)) b d → (s.env iss g l).barRanges ((t.v.get (vnum w.a)).toNat % 2 ^ 11) = .ok rs →
      (d = 0 → RetiresTo s iss (.bwait w) l s (sleep s iss l (t.v.get (vnum w.a)) rs))
      ∧ (0 < d → ¬(d = 1 ∧ b.lastOvf = true) → RetiresTo s iss (.bwait w) l (acquired s iss g rs b.pastGlobal) (wake s iss))
      ∧ (d = 1 → b.lastOvf = true → s.handling iss = false → t.inHandler = false → FaultsAfter s iss g (.bwait w) l t (acquired s iss g rs b.pastGlobal) (spilt b ((t.v.get (vnum w.a)).toNat % 2 ^ 11))))
    ∧ (s.IssuesOne iss g (.btest w) l t → ∀ d, names s iss g (t.v.get (vnum w.a)) b d → (s.env iss g l).barRanges ((t.v.get (vnum w.a)).toNat % 2 ^ 11) = .ok rs →
      Retires s iss (.btest w) l ((if d = 0 then s else acquired s iss g rs b.pastGlobal).modThread iss.grp l.2 (fun x => x.setPred (pnum w.d) (decide (0 < d)))))

/-- 03 R82 to R84, 16 R356: a flag that FPTRAPEN enables makes an FP exception pending from that core cycle on, with the address of its first instruction, whichever word, landing result or engine completion raises it; of two of one cycle that of the lower stream is first, and one already pending is kept. FADD over a whole pack is stated here; the words of the other statements say it of themselves. A FENCE delivers it once its own effect is made, as do a BWAIT that completes without overflow and a BSYNC whose arrival flips without overflow: the thread has retired the word and waits after it, the record carries the instruction's address and the group's flags, and the exception is no longer pending; a thread blocked at a barrier is delivered it when the phase flips. What the rules leave open here is as the assumption log says: log 94 for the order of the flags that one thread raises in one cycle, log 70 for a flip. -/
def Obligations.FpExceptions : Prop :=
  (∀ (w : F0) (s : State) (iss : Issue) (g : Group), s.Issues iss g (.fadd w) → (∀ l ∈ iss.lanes, ∀ t, g.threads[l.2]? = some t → t.takes (.fadd w) = true → t.reads (.fadd w)) →
    let fl := g.raisedOver iss (.fadd w) (fun l t => (perElem w.ty (fun k => fadd (arithFmt w.ty) (g.roundMode l.2 t (lo3 w.x) k) (elemOf w.ty (t.sourceA w) k) (elemOf w.ty (t.sourceB w) k))).2)
    ∃ s' : State, exec (.fadd w) s = .next s'
      ∧ (s'.group? iss.grp).map (fun x => (x.fpflags, x.fpPending)) = some (g.fpflags ||| fl,
          if fl &&& g.trapEn ≠ 0 ∧ (g.fpPending = none ∨ ∃ a, g.fpPending = some (a, s.clock g.core) ∧ iss.stream < g.fpStream) then some (iss.pc, s.clock g.core) else g.fpPending))
  ∧ (∀ (g : Group) (th : Thread) (clock n stream : Nat), g.threads[n]? = some th →
    let first := (th.raised.find? (fun e => decide (e.1 &&& g.trapEn ≠ 0))).map (fun e => (e.2, clock))
    (g.gather clock n stream).fpflags = g.fpflags ||| orFlags (th.raised.map (fun e => e.1))
    ∧ (g.gather clock n stream).fpPending = if g.fpPending = none ∨ ∃ a, g.fpPending = some (a, clock) ∧ stream < g.fpStream then first.or g.fpPending else g.fpPending)
  ∧ (∀ (s : State) (grp tid : Nat) (g : Group) (t : Thread) (h : HeldWrite), s.group? grp = some g → g.threads[tid]? = some t → t.held = [h] → t.region = none → t.raised = [] → h.tag = none → h.more = [] → h.count ≤ 4 → h.left = 0 →
    ∃ s' : State, exec (.longLatencyComplete grp tid 0) s = .next s'
      ∧ (s'.group? grp).map (fun x => (x.fpflags, x.fpPending, x.fpStream)) = some (g.fpflags ||| h.flags, g.pendingWith h.flags h.at_ (s.clock g.core) (s.streamOf grp tid)))
  ∧ (∀ (s : State) (c : EngCmd) (fl : Flags) (g : Group) (n : Nat) (glob : Bool), s.group? c.grp = some g → c.bar = 0 →
    ((s.engDone c fl n glob).group? c.grp).map (fun x => (x.fpflags, x.fpPending, x.fpStream)) = some (g.fpflags ||| fl, g.pendingWith fl c.pc (s.clock g.core) 2))
  ∧ (∀ (w : F0) (s : State) (iss : Issue) (g : Group) (l : Nat × Nat) (t : Thread) (a : Dword) (e : State), s.handling iss = false → t.inHandler = false → s.pendingAt iss = some a →
    let delivered (e : State) : State := e.modGroup iss.grp (fun x => { x with fpPending := if x.fpPending.map (fun p => p.1) = some a then none else x.fpPending })
    (s.IssuesOne iss g (.fence w) l t → s.drainThread iss.core iss.grp l.2 (lo3 w.x) = some e →
      FaultsAfter s iss g (.fence w) l t (delivered (e.setCore iss.core { e.core iss.core with l1 := [] })) (.plain 0x30 a (g.fpflags.setWidth 64)))
    ∧ (s.IssuesOne iss g (.bwait w) l t → ∀ b d, (s.env iss g l).readToken (t.v.get (vnum w.a)) = some (b, d) → 0 < d → ¬(d = 1 ∧ b.lastOvf = true) → ∀ rs, (s.env iss g l).barRanges ((t.v.get (vnum w.a)).toNat % 2 ^ 11) = .ok rs →
      FaultsAfter s iss g (.bwait w) l t (delivered (s.barAcquire iss.core g.ctx rs b.pastGlobal)) (.plain 0x30 a (g.fpflags.setWidth 64)))
    ∧ (s.IssuesOne iss g (.bsync w) l t → ∀ b rs, s.bar? (g.owner iss.grp) w.a.toNat = some b → (s.env iss g l).barRanges w.a.toNat = .ok rs → b.refusal (t.v.get (vnum w.b)) = none → s.release iss.core iss.grp l.2 rs = some e →
      let r := b.arrive (t.v.get (vnum w.b))
      r.2 = some false → FaultsAfter s iss g (.bsync w) l t (delivered ((e.barEvent (g.owner iss.grp) w.a.toNat b r (some (iss.grp, iss.pc))).barAcquire iss.core g.ctx rs r.1.pastGlobal)) (.plain 0x30 a (g.fpflags.setWidth 64))))
  ∧ (∀ (s : State) (gid n : Nat) (g : Group) (t : Thread) (tok : Word) (glob : Bool) (extra a : Dword), s.group? gid = some g → g.resident = true → s.issue = none → g.pendingFp (s.clock g.core) = some a →
    g.threads[n]? = some t → t.cond = .blocked .barrier → t.token = some tok → t.region = none → t.inHandler = false → (∀ m u, m ≠ n → g.threads[m]? = some u → ¬(u.cond = .blocked .barrier ∧ u.token = some tok)) →
    let s' := s.wakeGroup gid tok false glob extra none
    s'.thread? gid n = some (t.blockAt .contain t.addr (s.clock g.core)) ∧ (s'.group? gid).map (fun x => x.fpPending) = some none
    ∧ ∃ f, (s'.ctx g.ctx).faults = (s.ctx g.ctx).faults ++ [f] ∧ f.record.cause = 0x30 ∧ f.record.addr = a ∧ f.record.instAddr = t.addr - 8 ∧ f.record.extra = g.fpflags.setWidth 64 ∧ f.record.first = n ∧ f.tids = [n] ∧ f.after = true)

/-- 10 R222, R230, R235, R236: outside a region: ABEGIN begins one, its handler, scope and checkpoint, COUNT cleared at a new ABEGIN; at COUNT 8 it asks for its scope instance's lock, and a refused thread waits at the ABEGIN, with a place behind those refused before it that have not exited; ACOMMIT gives 0x80000000; AABORT has no effect. 10 R223, R224, R233 to R235: inside a region, a word of an instruction that a region forbids, the 257th instruction, a seventeenth checkpointed register, and AABORT end the region before they have any effect: the checkpoint restored, ACAUSE written, the thread at the handler, its lock released, memory as it was. What the rules leave open here is as the assumption log says: log 45. -/
def Obligations.RegionBeginsAndAborts : Prop :=
  ((∀ (w : F1) (s : State) (iss : Issue) (g : Group) (l : Nat × Nat) (t : Thread), s.IssuesOne iss g (.abegin w) l t →
     let new := t.lastAbegin ≠ some iss.pc
     let t1 : Thread := { t with q := t.q.map (fun es => es.map (fun e => { e with left := 0 })), lastAbegin := some iss.pc, acause := if new then t.acause &&& ~~~(0x78 : Word) else t.acause }
     let excl : Bool := decide (¬new) && decide (t.acause.toNat / 8 % 16 = 8)
     let grant := s.lockGrant (lo3 w.x) (scopeInst (lo3 w.x) iss.core) (iss.grp, l.2)
     let begun (e : State) : Prop := ∃ s' : State, exec (.abegin w) s = .next s' ∧ Ends (e.setThread iss.grp l.2 { t1.later (.abegin w) iss.pc (vnum w.d) 1 (if excl then 1 else 0) 0 with
       region := some { Region.start (iss.pc + w.imm.signExtend 64 * 8) (lo3 w.x) excl t.p with count := 1 } }) s' iss
     (excl = false → begun s) ∧ (excl = true → grant.2 = true → begun grant.1)
     ∧ (excl = true → grant.2 = false → ∃ s' : State, exec (.abegin w) s = .next s' ∧ Ends (grant.1.setThread iss.grp l.2 (t1.waitAt iss.pc (s.clock iss.core))) s' iss))
   ∧ (∀ (s : State) (scope inst : Nat) (who : Nat × Nat),
     (s.locks.find? (fun k => k.scope == scope && k.inst == inst) = none → s.lockGrant scope inst who = ({ s with locks := s.locks ++ [{ scope := scope, inst := inst, holder := some who, refused := [] }] }, true))
     ∧ ∀ k, s.locks.find? (fun k => k.scope == scope && k.inst == inst) = some k →
       let places := k.refused.filter s.keepsPlace
       (s.lockGrant scope inst who).2 = decide (k.holder = none ∧ (places = [] ∨ places.head? = some who))
       ∧ ∀ x, (s.lockGrant scope inst who).1.locks.find? (fun k => k.scope == scope && k.inst == inst) = some x →
         if (s.lockGrant scope inst who).2 then x.holder = some who ∧ x.refused = places.filter (fun y => decide (y ≠ who)) else x.holder = k.holder ∧ x.refused = if who ∈ places then places else places ++ [who])
   ∧ (∀ (s : State) (who : Nat × Nat), s.keepsPlace who = true ↔ ∃ t, s.thread? who.1 who.2 = some t ∧ t.cond ≠ .exited)
   ∧ (∀ (w : F0) (s : State) (iss : Issue) (g : Group) (l : Nat × Nat) (t : Thread), s.IssuesOne iss g (.acommit w) l t →
     RetiresWith s iss (.acommit w) l (s.modThread iss.grp l.2 (fun x => { x with q := x.q.map (fun es => es.map (fun e => { e with left := 0 })) })) (vnum w.d) 1 0x80000000)
   ∧ (∀ (w : F0) (s : State) (iss : Issue) (g : Group) (l : Nat × Nat) (t : Thread), s.IssuesOne iss g (.aabort w) l t → Retires s iss (.aabort w) l s))
  ∧
  (let aborts (s : State) (iss : Issue) (g : Group) (i : Instr) (l : Nat × Nat) (t : Thread) (r : Region) (cause detail code : Nat) : Prop :=
     ∃ (s' : State) (u : Thread), exec i s = .next s' ∧ t.Aborted u r cause detail code (s.clock g.core) ∧ Ends (abortEffect s iss g l r u) s' iss
   ∀ (i : Instr) (s : State) (iss : Issue) (g : Group) (l : Nat × Nat) (t : Thread) (r : Region), encode i ≠ none → (r.chkV.map (fun e => e.1)).Nodup → g.core = iss.core →
     s.IssuesIn iss g i l t r → r.decided = none →
       (regionForbids i = true → aborts s iss g i l t r 4 0x80 (iss.word.toNat / 2 ^ 52 % 1024))
       ∧ (regionForbids i = false → srcQueues i = [] → 256 < r.count → aborts s iss g i l t r 3 4 0)
       ∧ (regionForbids i = false → srcQueues i = [] → r.count ≤ 256 → r.room (dstRegs i) = false → (∀ w, i = .acommit w → r.depth ≠ 1) → aborts s iss g i l t r 3 3 0)
       ∧ (∀ w, i = .aabort w → r.count ≤ 256 → r.chkV.length ≤ 16 → t.tag (vnum w.a) = none → aborts s iss g i l t r 5 0 (if w.x.getLsbD 0 then (t.v.get (vnum w.a)).toNat % 65536 else 0)))

/-- 10 R225, R226, R228: inside a region: a 32-bit load of a word not yet read records it SYMBOLIC and tags its register; a sum of a tagged register and an untagged one is tagged; a store writes no memory, its page marked DIRTY apart (14 R310), and leaves a store record, symbolic where its register is tagged. What the rules leave open here is as the assumption log says: log 50. -/
def Obligations.RegionTracking : Prop :=
  let tracked (r : Region) (line : Nat) : List Nat := if line ∈ r.lines then r.lines else r.lines ++ [line]
  (∀ (w : F1) (s : State) (iss : Issue) (g : Group) (l : Nat × Nat) (t : Thread) (r : Region) (va a pa : Nat), s.IssuesIn iss g (.ld w) l t r → r.count ≤ 256 → r.room (dstRegs (.ld w)) = true → memSpace w.x = 0 → lo3 w.x = 4 → w.la = 0 →
    (s.env iss g l).effective t 0 (vnum w.a) (w.imm.signExtend 64) 4 .load 5 0 = .ok (.mem a pa, va) → s.poisoned pa = false → (s.core iss.core).wq = [] →
    t.tag (vnum w.a) = none → t.tag (vnum w.a + 1) = none → (∀ st ∈ r.stores, st.overlaps va 4 = false) → (∀ x ∈ r.words, x.addr ≠ va) → (pa / 128 ∈ r.lines ∨ r.lines.length < 8) → r.tags.length < 16 →
    ∃ (s' : State) (u : Thread) (q : Region), exec (.ld w) s = .next s' ∧ s'.thread? iss.grp l.2 = some u ∧ u.region = some q ∧ s'.hbm = s.hbm
      ∧ u.v.get (vnum w.d) = BitVec.ofNat 32 (natOfBytes ((s.seen iss.core).read pa 4)) ∧ u.tag (vnum w.d) = some (va, 0)
      ∧ q.words = r.words ++ [{ addr := va, value := BitVec.ofNat 32 (natOfBytes ((s.seen iss.core).read pa 4)), symbolic := true }] ∧ q.lines = tracked r (pa / 128) ∧ q.stores = r.stores ∧ q.cons = r.cons ∧ q.count = r.count + 1)
  ∧ (∀ (w : F0) (s : State) (iss : Issue) (g : Group) (l : Nat × Nat) (t : Thread) (r : Region) (x : Nat) (c : Word), s.IssuesIn iss g (.add w) l t r → r.count ≤ 256 → r.room (dstRegs (.add w)) = true →
    t.tag (vnum w.a) = some (x, c) → t.tag (vnum w.b) = none → (∃ k ∈ r.words, k.addr = x ∧ k.symbolic = true) → r.tags.length < 16 → Operand.ofCode w.a = .v (vnum w.a) → Operand.ofCode w.b = .v (vnum w.b) →
    ∃ (s' : State) (u : Thread) (q : Region), exec (.add w) s = .next s' ∧ s'.thread? iss.grp l.2 = some u ∧ u.region = some q
      ∧ u.v.get (vnum w.d) = t.v.get (vnum w.a) + t.v.get (vnum w.b) ∧ u.tag (vnum w.d) = some (x, c + t.v.get (vnum w.b)) ∧ q.words = r.words ∧ q.stores = r.stores)
  ∧ (∀ (w : F1) (s : State) (iss : Issue) (g : Group) (l : Nat × Nat) (t : Thread) (r : Region) (va a pa : Nat), s.IssuesIn iss g (.st w) l t r → r.count ≤ 256 → r.chkV.length ≤ 16 → memSpace w.x = 0 → lo3 w.x = 4 →
    t.tag (vnum w.a) = none → t.tag (vnum w.a + 1) = none → (s.env iss g l).effective t 0 (vnum w.a) (w.imm.signExtend 64) 4 .store 1 1 = .ok (.mem a pa, va) →
    (∀ st ∈ r.stores, st.overlaps va 4 = false) → r.stores.length < 8 → (pa / 128 ∈ r.lines ∨ r.lines.length < 8) →
    ∃ (s' : State) (u : Thread) (q : Region), exec (.st w) s = .next s' ∧ s'.thread? iss.grp l.2 = some u ∧ u.region = some q ∧ s'.hbm = (s.markDirty g.ctx va).hbm ∧ (s'.core iss.core).wq = (s.core iss.core).wq
      ∧ q.stores = r.stores ++ [{ addr := va, size := 4, data := (t.v.get (vnum w.d)).setWidth 128, sym := t.tag (vnum w.d) }] ∧ q.lines = tracked r (pa / 128) ∧ q.words = r.words)

/-- 10 R230 to R232, R234, R237: the outermost ACOMMIT asks the conservator and the stream holds the thread; the conservator, in one action, aborts for an EXACT word that has changed, else for a constraint whose outcome has, else performs the store records, symbols replaced by the words' present values, clears COUNT and releases the lock; it waits while a line it writes is held by an exclusive attempt, and for the commits of the pack's lower threads. Decided, the ACOMMIT retires: tagged registers take their repaired values and the result says whether there was a repair. What the rules leave open here is as the assumption log says: log 47. -/
def Obligations.RegionCommits : Prop :=
  (∀ (w : F0) (s : State) (iss : Issue) (g : Group) (l : Nat × Nat) (t : Thread) (r : Region), s.IssuesIn iss g (.acommit w) l t r → r.count ≤ 256 → r.chkV.length ≤ 16 →
    (r.depth = 1 → r.decided = none → (∃ p q, s.regionPlaces g.ctx r = .ok p ∧ s.regionRanges g.ctx r = .ok q) →
      ∃ (s' : State) (u : Thread), exec (.acommit w) s = .next s' ∧ s'.thread? iss.grp l.2 = some u ∧ u.region = some { r with commit := some (vnum w.d, w.la.toNat) } ∧ u.cond = .running ∧ u.addr = t.addr ∧ u.v = t.v ∧ s'.hbm = s.hbm)
    ∧ (∀ rep, r.depth = 1 → r.decided = some rep → w.la = 0 → (r.tags.map (fun e => e.1)).Nodup →
      ∃ (s' : State) (u : Thread), exec (.acommit w) s = .next s' ∧ s'.thread? iss.grp l.2 = some u ∧ u.region = none ∧ u.held = [] ∧ u.addr = iss.pc + 8 ∧ s'.hbm = s.hbm
        ∧ ∀ n, u.v.get n = if n = vnum w.d then (if rep then 1 else 0) else match r.tags.find? (fun e => e.1 == n) with
          | some e => r.wordValue e.2.1 + e.2.2
          | none => t.v.get n))
  ∧ ∀ (s s0 : State) (grp tid : Nat) (g : Group) (t : Thread) (r : Region) (ws : List (ReadWord × Loc)) (ss : List (StoreRec × Loc)) (rs : List Bound),
    s.group? grp = some g → s.thread? grp tid = some t → t.region = some r → t.held = [] → r.commit.isSome = true → r.decided = none → (r.chkV.map (fun e => e.1)).Nodup →
    s.regionPlaces g.ctx r = .ok (ws, ss) → s.regionRanges g.ctx r = .ok rs → (∀ x ∈ ws.map (fun x => x.2) ++ ss.map (fun x => x.2), ∃ a pa, x = .mem a pa) →
    ((∃ x ∈ ss, s.locHeld g.core x.2 (some (grp, tid)) = true) → exec (.conservatorCommit grp tid) s = .next s)
    ∧ (s.commitsLater g tid = true → exec (.conservatorCommit grp tid) s = .next s)
    ∧ (let performed := (s.widenBound grp tid rs).drainAt g.core (fun x => if x.grp == grp && x.tid == tid then (if r.lines.contains (x.phys / 128) then some 4 else x.boundScope rs) else none)
      (performed = none → exec (.conservatorCommit grp tid) s = .next s)
      ∧ ((∀ x ∈ ss, s.locHeld g.core x.2 (some (grp, tid)) = false) → s.commitsLater g tid = false → performed = some s0 →
      let now (a : Nat) : Word := ((ws.find? (fun x => x.1.addr == a)).map (fun x => BitVec.ofNat 32 (natOfBytes (s0.currentBytes x.2 4)))).getD 0
      let conflict := ∃ x ∈ r.words, x.symbolic = false ∧ now x.addr ≠ x.value
      let value (v : SymVal) : Word := match v with
        | .conc x => x
        | .sym a c => now a + c
      let broken := ∃ k ∈ r.cons, condHolds k.cond (ival (if k.signed then .i32 else .n32) (value k.a)) (ival (if k.signed then .i32 else .n32) (value k.b)) ≠ k.outcome
      let put (a : State) (x : StoreRec × Loc) : State := match x.2 with
        | .mem va pa => { a.markDirty g.ctx va with hbm := (a.markDirty g.ctx va).hbm.write pa (bytesOfNat (match x.1.sym with
            | some (b, c) => (now b + c).toNat
            | none => x.1.data.toNat) x.1.size) }
        | _ => a
      let rep := r.words.any (fun x => x.symbolic && now x.addr != x.value)
      ∃ (s' : State) (u : Thread), exec (.conservatorCommit grp tid) s = .next s' ∧ s'.thread? grp tid = some u
        ∧ (∃ C D H G L F U, s' = { s0 with hbm := s'.hbm, cores := C, dir := D, hostFilter := H, groups := G, locks := L, counters := F, unseen := U })
        ∧ (∀ k ∈ s'.locks, k.holder ≠ some (grp, tid))
        ∧ (∀ k n, (k, n) ≠ (grp, tid) → s'.thread? k n = s.thread? k n)
        ∧ (conflict → t.Aborted u r 1 0 0 (s.clock g.core) ∧ s'.hbm = s0.hbm)
        ∧ (¬conflict → broken → t.Aborted u r 2 0 0 (s.clock g.core) ∧ s'.hbm = s0.hbm)
        ∧ (¬conflict → ¬broken → s'.hbm = (ss.foldl put s0).hbm
          ∧ u = { t with acause := t.acause &&& ~~~(0x78 : Word), arepairs := if rep then t.arepairs + 1 else t.arepairs, region := some { r with words := r.words.map (fun x => { x with value := now x.addr }), cons := [], stores := [], decided := some rep } })))

/-- 09 R197, R198: an entry is valid exactly where none of R197's faults holds; an element of a valid entry is OUT exactly where an unwrapped coordinate reaches its extent, and otherwise lies at BASE plus its steps plus its bits, swizzled on the 16-byte chunk where SWZBITS says so, in the quad-scratchpad space on the offset bits alone. -/
def Obligations.LayoutEntries : Prop :=
  (∀ e : Lay, e.ext.length = 5 → e.stride.length = 5 →
    (e.valid = true ↔ 1 ≤ e.rank ∧ e.rank ≤ 5
      ∧ ¬(e.space = 3 ∨ e.fmt = 15 ∨ e.split = true ∧ e.fmt2 ∈ [15, 11, 12])
      ∧ ¬(e.scale = 1 ∧ e.fmt ≠ 11 ∨ e.scale = 2 ∧ e.fmt ≠ 12 ∨ e.scale = 3 ∧ (e.split = false ∨ e.fmt ∉ [9, 10]) ∨ e.fmt = 12 ∧ e.scale ≠ 2)
      ∧ ¬(e.split = true ∧ (e.splitDim = 0 ∨ e.rank ≤ e.splitDim))
      ∧ ¬(3 < e.swzBits ∨ e.swzBits ≠ 0 ∧ e.space = 0)
      ∧ (∀ i, i < e.rank → e.ext.getD i 0 ≠ 0) ∧ (∀ i, e.rank ≤ i → i < 5 → e.ext.getD i 0 = 0 ∧ e.stride.getD i 0 = 0)
      ∧ ¬(2 ≤ e.rank ∧ e.stride.getD 1 0 * 128 < e.ext.getD 0 0 * max (elemBits e.fmt) (if e.split then elemBits e.fmt2 else 0))
      ∧ ¬(e.scale = 0 ∧ e.scaleBase ≠ 0)
      ∧ e.base % (if e.swzBits = 0 then 16 else 128) = 0 ∧ e.scaleBase % 64 = 0 ∧ e.reserved = 0))
  ∧ (∀ (e : Lay) (c : List Nat) (j : Nat), e.valid = true → e.ext.length = 5 → e.stride.length = 5 →
    let raw (i : Nat) : Nat := if i = 0 then c.getD 0 0 + j else c.getD i 0
    let xx (i : Nat) : Nat := if e.wrap.testBit i then raw i % e.ext.getD i 0 else raw i
    let out := ∃ i, i < e.rank ∧ e.wrap.testBit i = false ∧ e.ext.getD i 0 ≤ raw i
    let w := elemBits (if e.split && decide (e.splitAt ≤ xx e.splitDim) then e.fmt2 else e.fmt)
    let bit := 128 * (((List.range (e.rank - 1)).map (fun i => xx (i + 1) * e.stride.getD (i + 1) 0)).sum) + xx 0 * w
    (out → e.elemLoc c j = none)
    ∧ (¬out → e.elemLoc c j = some { addr := e.swz (e.base + bit / 8), bit := bit % 8, width := w }))
  ∧ (∀ (e : Lay) (a : Nat),
    let chunk (o : Nat) : Nat := o ^^^ ((o / 128 / 2 ^ e.swzShift % 2 ^ e.swzBits) * 16)
    (e.swzBits = 0 → e.swz a = a) ∧ (e.swzBits ≠ 0 → e.space ≠ 2 → e.swz a = chunk a) ∧ (e.swzBits ≠ 0 → e.space = 2 → e.swz a = a / 2 ^ 24 * 2 ^ 24 + chunk (a % 2 ^ 24)))

/-- 09 R200: LTSET writes its sixteen registers' bytes to the entry, where they are zero or valid, every L1 line that holds it dropped, and faults otherwise; LTGET gives the sixteen words of the entry. 09 R204 to R206: BIND writes the lowest unused entry and gives its index, or 0x80000001 where there is none; UNBIND clears KIND of an entry in use and does nothing else; both update the entry's cached copies, and like LTSET wait while an exclusive attempt holds its line (10 R237); BIND of a misaligned range faults with the range's address, and BIND of a lock word not aligned to its width with the word's. -/
def Obligations.TableWords : Prop :=
  let held (s : State) (iss : Issue) (l : Nat × Nat) (pa : Nat) : Bool := s.lineHeld iss.core (pa / 128) (some (iss.grp, l.2))
  let put (s : State) (g : Group) (va pa : Nat) (bs : List Byte) (copy : L1Line → Option L1Line) (D : Tab DirLine) (H : List Nat) (F : Tab Nat) : State :=
    { s.markDirty g.ctx va with hbm := (s.markDirty g.ctx va).hbm.write pa bs, dir := D, hostFilter := H, counters := F, unseen := s.unseen.filter (fun u => !(decide (u.phys < pa + bs.length) && decide (pa < u.phys + u.old.length))), cores := s.cores.map (fun (c : Nat × CoreSt) => (c.1, { c.2 with l1 := c.2.l1.filterMap (fun x => if x.ctx = g.ctx ∧ x.line = va / 128 then copy x else some x) })) }
  (let image (t : Thread) (n : Nat) : List Byte := (List.range 16).flatMap (fun k => bytesOfNat (t.v.get (n + k)).toNat 4)
   let entry (t : Thread) (n : Nat) : BitVec 512 := BitVec.ofNat 512 (natOfBytes (image t n))
   let at_ (s : State) (g : Group) (n : Nat) : Dword := (s.ctx g.ctx).ltBase + BitVec.ofNat 64 (64 * n)
   (∀ (w : F0) (n : Nat) (s : State) (iss : Issue) (g : Group) (l : Nat × Nat) (t : Thread) (va pa : Nat), s.IssuesOne iss g (.ltset w) l t → Operand.ofCode w.d = .lt n →
     (entry t (vnum w.a) = 0 ∨ (Lay.ofBits (entry t (vnum w.a))).valid = true) → s.route g.ctx (at_ s g n).toNat .store = .ok (.mem va pa) →
     (held s iss l pa = true → Waits s iss (.ltset w))
     ∧ (held s iss l pa = false → ∃ D H F, Retires s iss (.ltset w) l (put s g va pa (image t (vnum w.a)) (fun _ => none) D H F)))
   ∧ (∀ w n, Operand.ofCode w.d = .lt n → Faults (.ltset w) (fun _ _ _ _ t => entry t (vnum w.a) ≠ 0 ∧ (Lay.ofBits (entry t (vnum w.a))).valid = false) (fun _ iss _ _ _ => .plain 0x07 (BitVec.ofNat 64 n) iss.word))
   ∧ (∀ (w : F0) (n : Nat) (s : State) (iss : Issue) (g : Group) (l : Nat × Nat) (t : Thread) (va pa : Nat), s.IssuesOne iss g (.ltget w) l t → Operand.ofCode w.a = .lt n → s.route g.ctx (at_ s g n).toNat .load = .ok (.mem va pa) →
     Retires s iss (.ltget w) l (s.modThread iss.grp l.2 (fun x => (List.range 16).foldl (fun a k => a.setV (vnum w.d + k) (BitVec.ofNat 32 (natOfBytes (s.hbm.read (pa + 4 * k) 4)))) x))))
  ∧
  (let obj (t : Thread) (w : F0) : Dword := if (Operand.ofCode w.b).isBar then w.b.setWidth 64 else t.sourcePair w.b
   let kind (w : F0) : Nat := if (Operand.ofCode w.b).isBar then 1 else if w.x.getLsbD 3 then 3 else 2
   let table (s : State) (ctx pa : Nat) : Prop := ∃ va, s.route ctx (s.ctx ctx).bindBase.toNat .load = .ok (.mem va pa) ∧ s.route ctx (s.ctx ctx).bindBase.toNat .store = .ok (.mem va pa)
   let kindAt (s : State) (pa k : Nat) : Nat := (s.hbm.get (pa + 32 * k + 0x18)).toNat % 4
   (∀ (w : F0) (s : State) (iss : Issue) (g : Group) (l : Nat × Nat) (t : Thread) (pa : Nat), s.IssuesOne iss g (.bind w) l t → table s g.ctx pa →
     let len := (t.v.get (vnum w.a + 2)).toNat
     (t.sourcePair w.a).toNat % 128 = 0 → len ≠ 0 → len % 128 = 0 → (kind w = 1 ∨ (obj t w).toNat % (if kind w = 3 then 8 else 4) = 0) →
     let gives (e : State) (v : Word) : Prop := Retires s iss (.bind w) l (e.modThread iss.grp l.2 (fun x => x.setV (vnum w.d) v))
     ((∀ k, k < 256 → kindAt s pa k ≠ 0) → gives s 0x80000001)
     ∧ ∀ k a b, k < 256 → kindAt s pa k = 0 → (∀ j, j < k → kindAt s pa j ≠ 0) → s.route g.ctx ((s.ctx g.ctx).bindBase + BitVec.ofNat 64 (32 * k)).toNat .store = .ok (.mem a b) →
       let bs := bytesOfNat ((t.sourcePair w.a).toNat % 2 ^ 57) 8 ++ bytesOfNat (len / 128) 8 ++ bytesOfNat (obj t w).toNat 8 ++ bytesOfNat (4 * lo3 w.x + kind w) 8
       (held s iss l b = true → Waits s iss (.bind w))
       ∧ (held s iss l b = false → ∃ D H F, gives (put s g a b bs (fun x => some { x with bytes := x.bytes.write (a % 128) bs }) D H F) (BitVec.ofNat 32 k)))
   ∧ (∀ w, Faults (.bind w) (fun _ _ _ _ t => (t.sourcePair w.a).toNat % 128 ≠ 0 ∨ t.v.get (vnum w.a + 2) = 0 ∨ (t.v.get (vnum w.a + 2)).toNat % 128 ≠ 0) (fun _ iss _ _ t => .plain 0x05 (t.sourcePair w.a) iss.word))
   ∧ (∀ w, Faults (.bind w) (fun _ _ _ _ t => (t.sourcePair w.a).toNat % 128 = 0 ∧ t.v.get (vnum w.a + 2) ≠ 0 ∧ (t.v.get (vnum w.a + 2)).toNat % 128 = 0 ∧ ((kind w = 2 ∧ (obj t w).toNat % 4 ≠ 0) ∨ (kind w = 3 ∧ (obj t w).toNat % 8 ≠ 0))) (fun _ iss _ _ t => .plain 0x05 (obj t w) iss.word))
   ∧ (∀ (w : F0) (s : State) (iss : Issue) (g : Group) (l : Nat × Nat) (t : Thread) (pa : Nat), s.IssuesOne iss g (.unbind w) l t → table s g.ctx pa →
     let k := (t.v.get (vnum w.a)).toNat
     (256 ≤ k ∨ kindAt s pa k = 0 → Retires s iss (.unbind w) l s)
     ∧ ∀ a b, k < 256 → kindAt s pa k ≠ 0 → s.route g.ctx ((s.ctx g.ctx).bindBase + BitVec.ofNat 64 (32 * k + 0x18)).toNat .store = .ok (.mem a b) →
       let bs : List Byte := [BitVec.ofNat 8 ((s.hbm.get (pa + 32 * k + 0x18)).toNat - kindAt s pa k)]
       (held s iss l b = true → Waits s iss (.unbind w))
       ∧ (held s iss l b = false → ∃ D H F, Retires s iss (.unbind w) l (put s g a b bs (fun x => some { x with bytes := x.bytes.write (a % 128) bs }) D H F))))

/-- 09 R201, R202: LDT and STT whose tests pass move the units of the view, those OUT read as zero and not written: from scratchpad the result's unit j is the bits at the place of unit j; to scratchpad each unit that is not OUT is written in its place, a 4-bit unit its nibble alone. A failing test faults and nothing is moved. What the rules leave open here is as the assumption log says: logs 37, 56. -/
def Obligations.TensorWords : Prop :=
  let inFrame (s : State) (g : Group) (w : F0) (span : Nat) : Prop := ∀ x, s.layout g.ctx (ltnum w.a) = .ok x → vnum w.b + span + (Lay.ofBits x).rank ≤ g.frame
  (∀ (w : F0) (s : State) (iss : Issue) (g : Group) (l : Nat × Nat) (t : Thread) (lay : Lay) (u : Nat) (locs : List (Option (UnitLoc × Loc))), s.IssuesOne iss g (.ldt w) l t → inFrame s g w 0 →
    (s.env iss g l).tensor t w .load 0 = .ok (lay, u, locs) → (∀ z ∈ locs, ∀ x, z = some x → s.locPoisoned x.2 = false) →
    ((s.env iss g l).loadUnits u locs 0 s 0 = none → Waits s iss (.ldt w))
    ∧ ∀ e v, (s.env iss g l).loadUnits u locs 0 s 0 = some (e, v) →
      RetiresWith s iss (.ldt w) l e (vnum w.d) (tensorWidth w.x / 4) (BitVec.ofNat 128 v)
      ∧ (lay.space = 1 → ∀ j z, locs[j]? = some z →
        v / 2 ^ (u * j) % 2 ^ u = match z with
          | some (p, .cell k off _) => natOfBytes (s.scratchRead k off (max 1 (u / 8))) / 2 ^ p.bit % 2 ^ u
          | _ => 0))
  ∧ (∀ (w : F0) (s : State) (iss : Issue) (g : Group) (l : Nat × Nat) (t : Thread) (lay : Lay) (u : Nat) (locs : List (Option (UnitLoc × Loc))), s.IssuesOne iss g (.stt w) l t → inFrame s g w 0 →
    (s.env iss g l).tensor t w .store 1 = .ok (lay, u, locs) → (∀ z ∈ locs, z = none ∨ ∃ p k off, z = some (p, .cell k off false)) →
    let n := tensorWidth w.x
    let v (k : Nat) : Nat := (t.v.get (vnum w.d + k)).toNat
    let data := if n ≤ 4 then v 0 else if n = 8 then v 0 + 2 ^ 32 * v 1 else v 0 + 2 ^ 32 * v 1 + 2 ^ 64 * v 2 + 2 ^ 96 * v 3
    Retires s iss (.stt w) l (locs.zipIdx.foldl (fun a z => match z.1 with
      | some (p, .cell k off _) =>
        let x := data / 2 ^ (u * z.2) % 2 ^ u
        if u = 4 then a.modGroup k (fun y => { y with scratch := y.scratch.write off [if p.bit = 4 then (y.scratch.get off &&& 0x0F) ||| BitVec.ofNat 8 (16 * x) else (y.scratch.get off &&& 0xF0) ||| BitVec.ofNat 8 x] })
        else a.modGroup k (fun y => { y with scratch := y.scratch.write off (bytesOfNat x (u / 8)) })
      | _ => a) s))
  ∧ (∀ w, ∀ (i : Instr) (want : Want) (pg : Nat), (i = .ldt w ∧ want = .load ∧ pg = 0) ∨ (i = .stt w ∧ want = .store ∧ pg = 1) →
    Faults i (fun s iss g l t => inFrame s g w 0 ∧ ∃ c a x, (s.env iss g l).tensor t w want pg = .error (.plain c a x) ∧ c ∈ [0x05, 0x06, 0x07])
      (fun s iss g l t => match (s.env iss g l).tensor t w want pg with
        | .error f => f
        | .ok _ => .plain 0 0 0))

/-- 13 R282, R283, R287, R289, R290, R292, R294: a matrix command that passes its submission checks takes the next place of its queue, carrying what it read of its registers and layout entries, and the thread goes on; a full array queue, or a follow-on MMA of the quad that waits, holds the thread with nothing done. A drain with no command before it reads its accumulator at once, and zeroes it where CTL[17] says so. MRNG sets the group's key. -/
def Obligations.MatrixSubmission : Prop :=
  let fld {n : Nat} (x : BitVec n) (hi lo : Nat) : Nat := x.toNat / 2 ^ lo % 2 ^ (hi + 1 - lo)
  let coords (t : Thread) (n : Nat) : List Nat := (List.range 5).map (fun k => (t.v.get (n + k)).toNat)
  let words (c : List Nat) : List Word := c.map (fun x => BitVec.ofNat 32 x)
  let append (s : State) (iss : Issue) (c : EngCmd) : State :=
    let k := s.core iss.core;
    s.setCore iss.core { k with arrayQ := k.arrayQ ++ [{ c with num := k.engNum }], engNum := k.engNum + 1 }
  let free (s : State) (iss : Issue) : Prop := s.followWaits iss.core = false ∧ (s.core iss.core).arrayQ.length < 16
  (∀ (w : F0) (s : State) (iss : Issue) (g : Group) (l : Nat × Nat) (t : Thread) (x : BitVec 512), s.IssuesOne iss g (.mma w) l t → s.layout g.ctx (ltnum w.a) = .ok x → (∀ c, (s.core iss.core).arrayQ.head? = some c → c.kind ≠ .mdrain) →
    let c := coords t (vnum w.b)
    let m : Dword := joinWords (t.v.get (vnum w.b + 6)) (t.v.get (vnum w.b + 7))
    (s.env iss g l).mmaCheck (ltnum w.a) (Lay.ofBits x) c m = none →
    (¬free s iss → Waits s iss (.mma w))
    ∧ (free s iss → Retires s iss (.mma w) l (append s iss { (s.env iss g l).engCmd .mma 0 with acc := accNum w.d, slot := fld m 16 8, entry := x, coords := words c, mcw := m, bar := fld m 27 17 })))
  ∧ (∀ (w : F0) (s : State) (iss : Issue) (g : Group) (l : Nat × Nat) (t : Thread), s.IssuesOne iss g (.mzero w) l t → (∀ c, (s.core iss.core).arrayQ.head? = some c → c.kind ≠ .mdrain) →
    (¬free s iss → Waits s iss (.mzero w)) ∧ (free s iss → Retires s iss (.mzero w) l (append s iss { (s.env iss g l).engCmd .mzero 0 with acc := accNum w.d })))
  ∧ (∀ (w : F0) (s : State) (iss : Issue) (g : Group) (l : Nat × Nat) (t : Thread), s.IssuesOne iss g (.mrng w) l t → Retires s iss (.mrng w) l (s.modGroup iss.grp (fun x => { x with key := t.sourcePair w.a })))
  ∧ (∀ (w : F0) (s : State) (iss : Issue) (g : Group) (l : Nat × Nat) (t : Thread) (x : BitVec 512), s.IssuesOne iss g (.mldb w) l t → s.layout g.ctx (ltnum w.a) = .ok x →
    let lay := Lay.ofBits x
    let c := coords t (vnum w.b)
    let slot := (t.v.get (vnum w.b + 5)).toNat
    let ctl := t.v.get (vnum w.b + 6)
    let bar := (t.v.get (vnum w.b + 7)).toNat
    let f := fld ctl 3 0
    let tr := ctl.getLsbD 4
    let rows := if tr then slotK f else 64
    let cols := if tr then 64 else slotK f
    let row (i : Nat) : List Nat := c.set 1 (c.getD 1 0 + i)
    let scales : List (Option UnitLoc) :=
      if f = 12 then (List.range 64).flatMap (fun i => [lay.scaleLoc (row i) 1 (c.getD 0 0 / 64), lay.scaleLoc (row i) 2 (c.getD 0 0 / 16384)])
      else if f = 7 ∧ lay.scale = 3 then (List.range rows).flatMap (fun i => if (lay.rowFmt? (row i)).any (fun r => r != 7) then (List.range cols).map (fun j => lay.scaleLoc (row i) 1 (c.getD 0 0 + j)) else [])
      else []
    lay.rank ≠ 0 → lay.valid = true → (f ∈ [0, 1] ∨ 7 ≤ f ∧ f ≤ 14) → ¬(tr = true ∧ f ∈ [11, 12, 13, 14]) → fld ctl 31 5 = 0 → slot < g.vslots → (s.env iss g l).barNameable bar = true →
    (∀ i, i < rows → ∀ r, lay.rowFmt? (row i) = some r → r = f ∨ f = 7 ∧ r ∈ [9, 10]) → (f = 12 → c.getD 0 0 % 64 = 0) → (f = 11 → c.getD 0 0 % 32 = 0) → (f ∈ [13, 14] → c.getD 0 0 % 2 = 0) →
    (s.env iss g l).checkUnits lay (lay.tileUnits c rows cols ++ scales) .load 0 = none →
    let k := s.core iss.core
    Retires s iss (.mldb w) l (s.setCore iss.core { k with loads := k.loads ++ [{ (s.env iss g l).engCmd .mldb k.engNum with slot := slot, entry := x, coords := words c, ctl := ctl, bar := bar, transpose := tr }], engNum := k.engNum + 1 }))
  ∧ (∀ (w : F0) (s : State) (iss : Issue) (g : Group) (l : Nat × Nat) (t : Thread) (x rx bx : BitVec 512), s.IssuesOne iss g (.mdrain w) l t →
    let c := coords t (vnum w.b)
    let ctl := t.v.get (vnum w.b + 5)
    let two := t.v.get (vnum w.b + 6)
    let keep := t.v.get (vnum w.b + 7)
    let bar := (t.v.get (vnum w.b + 8)).toNat
    let lay := Lay.ofBits x
    let mode := fld ctl 5 4
    let row (i : Nat) : List Nat := c.set 1 (c.getD 1 0 + i)
    let blocks := if lay.scale = 1 then (List.range 64).flatMap (fun i => [lay.scaleLoc (row i) 1 (c.getD 0 0 / 32), lay.scaleLoc (row i) 1 (c.getD 0 0 / 32 + 1)]) else if lay.scale = 2 then (List.range 64).map (fun i => lay.scaleLoc (row i) 1 (c.getD 0 0 / 64)) else []
    let chans := if lay.scale = 3 then (List.range 64).flatMap (fun i => (List.range 64).map (fun j => lay.scaleLoc (row i) 1 (c.getD 0 0 + j))) else []
    let supers := if lay.scale = 2 then (List.range 64).map (fun i => lay.scaleLoc (row i) 2 (c.getD 0 0 / 16384)) else []
    let e := s.env iss g l
    s.layout g.ctx (ltnum w.a) = .ok x → lay.rank ≠ 0 → lay.valid = true →
    (ctl.getLsbD 0 = true → s.layout g.ctx (fld two 7 0) = .ok rx ∧ (Lay.ofBits rx).rank ≠ 0 ∧ (Lay.ofBits rx).valid = true ∧ (∀ i, i < 64 → ∀ r, (Lay.ofBits rx).rowFmt? (row i) = some r → r ∈ [6, 7, 8]) ∧ e.checkUnits (Lay.ofBits rx) ((Lay.ofBits rx).tileUnits c 64 64) .load 0 = none) →
    (ctl.getLsbD 1 = true → s.layout g.ctx (fld two 15 8) = .ok bx ∧ (Lay.ofBits bx).rank ≠ 0 ∧ (Lay.ofBits bx).valid = true ∧ (∀ r, (Lay.ofBits bx).rowFmt? [0, 0, 0, 0, 0] = some r → r ∈ [6, 7]) ∧ e.checkUnits (Lay.ofBits bx) ((List.range 64).map (fun j => (Lay.ofBits bx).elemLoc [0, 0, 0, 0, 0] j)) .load 0 = none) →
    (ctl.getLsbD 0 = false → rx = 0) → (ctl.getLsbD 1 = false → bx = 0) →
    fld ctl 31 18 = 0 → ctl.getLsbD 15 = false → mode ≠ 3 → fld two 31 16 = 0 → fld keep 31 16 = 0 → e.barNameable bar = true → (mode = 2 → 1 ≤ fld ctl 14 10 ∧ fld ctl 14 10 ≤ 16 ∧ fld ctl 9 6 < fld ctl 14 10 ∧ lay.space = 0) →
    (∀ i, i < 64 → ∀ r, lay.rowFmt? (row i) = some r → (if mode = 0 then 6 ≤ r ∧ r ≤ 12 else r = 6) ∧ (r = 11 → c.getD 0 0 % 32 = 0) ∧ (r = 12 → c.getD 0 0 % 64 = 0)) →
    e.checkUnits lay (lay.tileUnits c 64 64 ++ blocks) .store 1 = none → e.checkUnits lay (chans ++ supers) .load 0 = none →
    let cmd := { e.engCmd .mdrain 0 with acc := accNum w.d, entry := x, coords := words c, ctl := ctl, keep := keep, bar := bar, scope := lo3 w.x, transpose := w.x.getLsbD 3, resEntry := rx, biasEntry := bx, key := g.key }
    (¬free s iss → Waits s iss (.mdrain w))
    ∧ (∀ c1 rest, free s iss → (s.core iss.core).arrayQ = c1 :: rest → c1.kind ≠ .mdrain → Retires s iss (.mdrain w) l (append s iss cmd))
    ∧ (free s iss → (s.core iss.core).arrayQ = [] → g.killed = none →
      let k := s.core iss.core
      let e1 := s.setCore iss.core { k with drains := k.drains ++ [{ cmd with num := k.engNum, vals := g.accRead (accNum w.d) }], engNum := k.engNum + 1 }
      Retires s iss (.mdrain w) l (if ctl.getLsbD 17 then e1.modGroup iss.grp (fun x => x.accWrite (accNum w.d) []) else e1)))

/-- 13 R288; 03 R85, R86: the array adds to each accumulator element the exact sum of a row's products by a column, scaled, rounded once to FP32 and added with one more rounding; the operands are the rows of the layout and the columns of the slot. -/
def Obligations.MatrixProduct : Prop :=
  (∀ (a b : List Val) (c : Word), a.length = b.length → (∀ x ∈ a ++ b, x.finite = true) →
    let sum := (List.zipWith (fun x y => x.rat * y.rat) a b).sum
    (∃ v : Val, v.finite = true ∧ v.rat = sum ∧ (mmaStep a b none c).1 = BitVec.ofNat 32 (fadd .f32 .rne c.toNat (roundVal .f32 .rne v).code).code)
    ∧ ∀ p q : Val, p.finite = true → q.finite = true → ∃ v : Val, v.finite = true ∧ v.rat = sum * p.rat * q.rat ∧ (mmaStep a b (some (p, q)) c).1 = BitVec.ofNat 32 (fadd .f32 .rne c.toNat (roundVal .f32 .rne v).code).code)
  ∧ (∀ (rows : List (List Val)) (bs : List (List Val × Option (Val × Val))) (acc : Words) (i j : Nat), bs.length = 64 → i < rows.length → j < 64 →
    (mmaTile rows bs acc).1.get (64 * i + j) = (mmaStep (rows.getD i []) (bs.getD j ([], none)).1 (bs.getD j ([], none)).2 (acc.get (64 * i + j))).1)
  ∧ ∀ (s : State) (c : EngCmd) (g : Group) (fa fb k : Nat) (w : Words) (fl : Flags), pairOf (mcwPair c.mcw) = some (fa, fb, k) → fa ≠ 11 → fb ≠ 12 → s.mmaRun c g = .ok (w, fl) →
    let lay := Lay.ofBits c.entry
    ∃ raw : Nat → Nat → Nat, (∀ i j, i < 64 → j < k → s.engUnit c.grp g lay.space (lay.elemLoc (rowCoords c.at_ i) j) 0 = .ok (raw i j))
      ∧ ∀ i j, i < 64 → j < 64 →
        let col := natOfBytes (g.vitrine.read (4096 * c.slot + 64 * j) 64)
        w.get (64 * i + j) = (mmaStep ((List.range k).map (fun q => arrayVal fa (raw i q))) ((List.range k).map (fun q => arrayVal fb (col / 2 ^ (elemBits fb * q) % 2 ^ elemBits fb))) none (g.acc.get (4096 * c.acc + 64 * i + j))).1

/-- 13 R283, R288, R290, R292, R299, R303: the head of the array queue writes its accumulator and ends, an MMA once no earlier load of its slot is left; a load writes its slot with what the core's scope instance sees once no earlier MMA of that slot is left; each raises its flags and counts on the barrier it names. A waiting follow-on MMA takes a freed entry. What the rules leave open here is as the assumption log says: log 46. -/
def Obligations.MatrixCompletes : Prop :=
  (∀ (s : State) (core : Nat) (c : EngCmd) (rest : List EngCmd) (g : Group), (s.core core).arrayQ = c :: rest → (∀ d, rest.head? = some d → d.kind ≠ .mdrain) → s.group? c.grp = some g → g.killed = none →
    let popped := s.setCore core { s.core core with arrayQ := rest }
    (c.kind = .mzero → exec (.mzeroComplete core) s = .next (popped.modGroup c.grp (fun x => x.accWrite c.acc [])))
    ∧ (c.kind = .mma → c.wait = none → c.lost = false →
      let earlier := ∃ m ∈ (s.core core).loads, m.grp = c.grp ∧ m.slot = c.slot ∧ m.num < c.num
      (earlier → exec (.mmaComplete core) s = .next s)
      ∧ ∀ w fl, ¬earlier → s.mmaRun c g = .ok (w, fl) → exec (.mmaComplete core) s = .next ((popped.modGroup c.grp (fun x => x.accWrite c.acc w)).engDone c fl (if mcwPair c.mcw = 10 then 8192 else 4096) false)))
  ∧ (∀ (s : State) (core idx : Nat) (c : EngCmd) (g : Group), (s.core core).loads[idx]? = some c → c.wait = none → c.lost = false → s.group? c.grp = some g → g.killed = none →
    let earlier := ∃ m ∈ (s.core core).arrayQ, m.kind = .mma ∧ m.grp = c.grp ∧ m.slot = c.slot ∧ m.num < c.num
    (earlier → exec (.mldbComplete core idx) s = .next s)
    ∧ ∀ bs fl, ¬earlier → (s.viewOf core false).mldbRun c g = .ok (bs, fl) →
      ∃ D H F, exec (.mldbComplete core idx) s = .next (({ (s.setCore core { s.core core with loads := (s.core core).loads.eraseIdx idx }) with dir := D, hostFilter := H, counters := F }.modGroup c.grp (fun x => x.slotWrite c.slot bs)).engDone c fl 4096 false)
        ∧ ((Lay.ofBits c.entry).space ≠ 0 → D = s.dir ∧ H = s.hostFilter ∧ F = s.counters))
  ∧ (∀ (s : State) (c : EngCmd) (g : Group) (bs : List Byte) (fl : Flags), s.mldbRun c g = .ok (bs, fl) →
    let lay := Lay.ofBits c.entry
    let f := c.ctl.toNat % 16
    f ∈ [0, 1, 7, 8, 9, 10, 11, 13, 14] → (∀ i, i < 128 → ∀ r, lay.rowFmt? (rowCoords c.at_ i) = some r → r = f) →
    bs.length = 4096 ∧ ∀ i j, i < slotK f → j < 64 → s.engUnit c.grp g lay.space (if c.transpose then lay.elemLoc (rowCoords c.at_ i) j else lay.elemLoc (rowCoords c.at_ j) i) 0 = .ok (natOfBytes ((bs.drop (64 * j)).take 64) / 2 ^ (elemBits f * i) % 2 ^ elemBits f))
  ∧ (∀ (g : Group) (slot : Nat) (bs : List Byte), bs.length = 4096 → ∀ a, (g.slotWrite slot bs).vitrine.get a = if 4096 * slot ≤ a ∧ a < 4096 * slot + 4096 then bs.getD (a - 4096 * slot) 0 else g.vitrine.get a)
  ∧ (∀ (g : Group) (a : Nat) (w : Words), ∀ n, (g.accWrite a w).acc.get n = if 4096 * a ≤ n ∧ n < 4096 * a + 4096 then w.get (n - 4096 * a) else g.acc.get n)
  ∧ ∀ (s : State) (quad ch : Nat) (f : EngCmd) (g : Group), (s.chain quad ch).follow = some f → s.group? f.grp = some g → (∀ c, (s.core g.core).arrayQ.head? = some c → c.kind ≠ .mdrain) → f.kind = .mma →
    let k := s.core g.core
    (16 ≤ k.arrayQ.length → exec (.followOnMma quad ch) s = .next s)
    ∧ (k.arrayQ.length < 16 → exec (.followOnMma quad ch) s = .next ((s.setCore g.core { k with arrayQ := k.arrayQ ++ [{ f with num := k.engNum }], engNum := k.engNum + 1 }).setChain quad ch { s.chain quad ch with follow := none }))

/-- 13 R294 to R299; 03 R88: a drain in MODE 0 or 1 writes its tile and counts on its barrier; a MODE 0 drain to FP32 with no option on writes the accumulator's elements, turned over where `.transpose` says so. In MODE 2 the contribution takes its rank's place in the ordered slot of its tile, a new one while fewer than 32 are open; with all ranks in, the slot adds to each element the root of the tree over its ranks and ends every contribution. An add-on-store to a tile that a copy under way reads waits (12 R272). What the rules leave open here is as the assumption log says: logs 46, 71. -/
def Obligations.DrainCompletes : Prop :=
  (∀ (s : State) (core idx : Nat) (c : EngCmd) (g : Group), (s.core core).drains[idx]? = some c → c.wait = none → c.lost = false → s.group? c.grp = some g →
    let lay := Lay.ofBits c.entry
    let mode := c.ctl.toNat / 16 % 4
    let dropped := s.setCore core { s.core core with drains := (s.core core).drains.eraseIdx idx }
    (∀ ws fl, mode ≠ 2 → s.drainRun (s.viewOf core false) c g = .ok (ws, fl) →
      (s.engCanPut core c.grp g lay.space (ws.map (fun w => w.1)) = .ok false → exec (.mdrainComplete core idx) s = .next s)
      ∧ (s.engCanPut core c.grp g lay.space (ws.map (fun w => w.1)) = .ok true →
        let copied := mode = 1 ∧ s.midCopy (s.places c.grp g lay.space (lay.tileUnits c.at_ 64 64)) = true
        (copied → exec (.mdrainComplete core idx) s = .next s)
        ∧ (¬copied → ∃ D H F, exec (.mdrainComplete core idx) s = .next ((ws.foldl (fun (a : State) w => a.engPut core c.grp g lay.space w) { dropped with dir := D, hostFilter := H, counters := F }).engDone c fl c.drainCount (decide (lay.space = 0))))))
    ∧ (∀ y, mode = 2 → (s.viewOf core false).drainVals c g = .ok y →
      let vals := wordsOfList (y.flatten.map (fun v => BitVec.ofNat 32 v.1) ++ [(y.flatten.foldl (fun (a : Flags) v => a ||| v.2) 0).setWidth 32])
      let rank := c.ctl.toNat / 64 % 16
      let same (o : OSlot) : Prop := o.ctx = g.ctx ∧ o.addr = c.tileAddr ∧ o.transpose = c.transpose
      ((∀ o ∈ s.oslots, ¬same o) → 32 ≤ s.oslots.length → exec (.mdrainComplete core idx) s = .next s)
      ∧ ((∀ o ∈ s.oslots, ¬same o) → s.oslots.length < 32 → ∃ D H F, exec (.mdrainComplete core idx) s = .next { dropped with dir := D, hostFilter := H, counters := F, oslots := s.oslots ++ [{ ctx := g.ctx, addr := c.tileAddr, transpose := c.transpose, nrank := c.ctl.toNat / 1024 % 32, kern := g.kern, kseq := ((s.kern? g.kern).map (fun k => k.kseq)).getD 0, parts := [(rank, { c with vals := vals })] }] })
      ∧ ∀ pre o post, s.oslots = pre ++ o :: post → same o → (∀ x ∈ pre ++ post, ¬same x) → o.nrank = c.ctl.toNat / 1024 % 32 → (∀ p ∈ o.parts, p.1 ≠ rank) →
        ∃ D H F, exec (.mdrainComplete core idx) s = .next { dropped with dir := D, hostFilter := H, counters := F, oslots := pre ++ { o with parts := o.parts ++ [(rank, { c with vals := vals })] } :: post }))
  ∧ (∀ (s v : State) (c : EngCmd) (g : Group) (ws : List EngWrite) (fl : Flags), c.ctl = 0 → (∀ i, i < 64 → ∀ r, (Lay.ofBits c.entry).rowFmt? (rowCoords c.at_ i) = some r → r = 6) → s.drainRun v c g = .ok (ws, fl) →
    ws = (List.range 64).flatMap (fun r => (List.range 64).filterMap (fun n => ((Lay.ofBits c.entry).elemLoc (rowCoords c.at_ r) n).map (fun u => (u, (c.vals.get (if c.transpose then 64 * n + r else 64 * r + n)).toNat)))))
  ∧ (∀ l : List (Option Word), l.length = 16 →
    let t := reduceTree (fun a b => let r := fadd .f32 .rne a.toNat b.toNat; (BitVec.ofNat 32 r.code, r.flags)) (fun k => (l[k]?).bind (fun x => x)) 4 0
    rankTree (l.map (fun x => x.map (fun v => v.toNat))) = ((t.1.map (fun v => v.toNat)).getD 0, t.2))
  ∧ ∀ (s : State) (idx : Nat) (o : OSlot) (r : Nat) (c : EngCmd) (rest : List (Nat × EngCmd)) (old : List (Option (Loc × Nat))), s.oslots[idx]? = some o → o.parts = (r, c) :: rest → c.wait = none → c.lost = false →
    let lay := Lay.ofBits c.entry
    let core := ((s.group? c.grp).map (fun g => g.core)).getD (48 * c.die)
    let place (p : Loc) : Option (Nat × Nat) := match p with
      | .mem _ pa => some (0, pa)
      | .cell n a _ => some (n + 1, a)
      | .frame _ => none
    let copied := s.midCopy (old.filterMap (fun x => x.bind (fun z => place z.1)))
    (o.parts.length < o.nrank → exec (.orderedSlotComplete idx) s = .next s)
    ∧ (copied = false → o.nrank ≤ o.parts.length → old.length = 4096 →
      (∀ k, k < 4096 → match lay.elemLoc (rowCoords c.at_ (k / 64)) (k % 64) with
        | none => old[k]? = some none
        | some u => ∃ p, s.route o.ctx u.addr .store = .ok p ∧ s.locPoisoned p = false ∧ s.engFree core p = true ∧ old[k]? = some (some (p, natOfBytes (s.currentBytes p 4)))) →
      let sums := List.zipWith (fun (x : Option (Loc × Nat)) (y : Nat × Flags) => (x.map (fun z => (z.1, fadd .f32 .rne z.2 y.1)), y.2)) old o.roots
      let fl := sums.foldl (fun a x => a ||| x.2 ||| ((x.1.map (fun z => z.2.flags)).getD 0)) (0 : Flags)
      let e := sums.foldl (fun a x => match x.1 with
        | none => a
        | some (p, z) => a.devPut (dieOf core) o.ctx p (bytesOfNat z.code 4)) s
      exec (.orderedSlotComplete idx) s = .next (o.parts.foldl (fun a p => a.engDone p.2 (fl ||| (p.2.vals.get 4096).setWidth 7) 16384 true true) { e with oslots := s.oslots.filter (fun x => decide (x ≠ o)) }))

/-- 13 R302, R303, R305: a copy that passes its submission checks performs its thread's stores, takes the last place of its channel and gives its sequence number; a full channel of 64, or an exclusive attempt on a line of those stores, holds the thread. CPYWP gives the write pointer with an acquire, CPYSEQ the count of ended copies, CPYSEQ.stat the four status words, which it clears, and CPYCAN cancels the gang's copies that have not started, which end at once, or, where one of the gang's copies is running on the channel, with it. What the rules leave open here is as the assumption log says: log 38. -/
def Obligations.CopyWords : Prop :=
  let chanOf (s : State) (g : Group) (w : F0) : ChanState := s.chan g.kern g.gang (w.x.toNat % 4)
  (∀ (w : F0) (i : Instr) (convert : Bool) (s : State) (iss : Issue) (g : Group) (l : Nat × Nat) (t : Thread) (sx dx : BitVec 512), (i = .cpy w ∧ convert = false) ∨ (i = .cpyx w ∧ convert = true) → s.IssuesOne iss g i l t →
    let raw : BitVec 512 := BitVec.ofNat 512 (natOfBytes ((List.range 16).flatMap (fun k => bytesOfNat (t.v.get (vnum w.a + k)).toNat 4)))
    let b := Blk.ofBits raw
    let mcw : Dword := if b.follow then joinWords (t.v.get (vnum w.b)) (t.v.get (vnum w.b + 1)) else 0
    (b.follow = true → vnum w.b ∉ t.released ∧ vnum w.b + 1 ∉ t.released) →
    s.layout g.ctx b.srcLt = .ok sx → s.layout g.ctx b.dstLt = .ok dx → (s.env iss g l).copyCheck b convert mcw (Lay.ofBits sx) (Lay.ofBits dx) = none →
    let quad := quadOf iss.core
    let ch := w.x.toNat % 4
    (s.drainThread iss.core iss.grp l.2 = none → Waits s iss i)
    ∧ ∀ e, s.drainThread iss.core iss.grp l.2 = some e →
      (64 ≤ (s.chain quad ch).cmds.length → ∃ s' : State, exec i s = .next s' ∧ Ends e s' iss)
      ∧ ((s.chain quad ch).cmds.length < 64 →
        let seq := (s.chan g.kern g.gang ch).seq
        let cmd : CopyCmd := { grp := iss.grp, kern := g.kern, gang := g.gang, tid := l.2, pc := iss.pc, seq := seq, block := raw, src := sx, dst := dx, mcw := mcw, convert := convert, started := false, written := 0, wait := none, lost := false, flags := 0 }
        RetiresWith s iss i l ((e.setChain quad ch { s.chain quad ch with cmds := (s.chain quad ch).cmds ++ [cmd] }).modChan g.kern g.gang ch (fun c => { c with seq := c.seq + 1 })) (vnum w.d) 1 (seq.setWidth 128)))
  ∧ (∀ (w : F0) (i : Instr) (convert : Bool), (i = .cpy w ∧ convert = false) ∨ (i = .cpyx w ∧ convert = true) →
    let blk (t : Thread) : Blk := Blk.ofBits (BitVec.ofNat 512 (natOfBytes ((List.range 16).flatMap (fun k => bytesOfNat (t.v.get (vnum w.a + k)).toNat 4))))
    Faults i (fun s _ g _ t => (blk t).follow = false ∧ (∃ sx dx, s.layout g.ctx (blk t).srcLt = .ok sx ∧ s.layout g.ctx (blk t).dstLt = .ok dx) ∧ ((blk t).rank = 0 ∨ 5 < (blk t).rank ∨ (convert = false ∧ (blk t).xform ≠ 0) ∨ (convert = true ∧ (blk t).xform ∉ [1, 2]))) (fun _ iss _ _ _ => .plain 0x03 0 iss.word))
  ∧ (∀ (w : F0) (s : State) (iss : Issue) (g : Group) (l : Nat × Nat) (t : Thread),
    (s.IssuesOne iss g (.cpywp w) l t → RetiresWith s iss (.cpywp w) l (s.setCore iss.core { s.core iss.core with l1 := [] }) (vnum w.d) 2 ((chanOf s g w).wp.setWidth 128))
    ∧ (s.IssuesOne iss g (.cpyseq w) l t → RetiresWith s iss (.cpyseq w) l s (vnum w.d) 1 ((chanOf s g w).done.setWidth 128))
    ∧ (s.IssuesOne iss g (.cpyseqStat w) l t → let c := chanOf s g w; RetiresWith s iss (.cpyseqStat w) l (s.modChan g.kern g.gang (w.x.toNat % 4) (fun x => { x with canFirst := 0xFFFFFFFF, canLast := 0xFFFFFFFF, failFirst := 0xFFFFFFFF, failCount := 0 })) (vnum w.d) 4 (c.failCount ++ c.failFirst ++ c.canLast ++ c.canFirst))
    ∧ (s.IssuesOne iss g (.cpycan w) l t →
      let ch := w.x.toNat % 4
      let k := s.chain (quadOf iss.core) ch
      let mine (c : CopyCmd) : Bool := c.kern == g.kern && c.gang == g.gang && !c.started
      Retires s iss (.cpycan w) l ((((k.cmds.filter mine).foldl (fun a c => a.modChan g.kern g.gang ch (fun x => x.cancel c.seq (k.cmds.any (fun c => c.started && c.kern == g.kern && c.gang == g.gang)))) (s.setChain (quadOf iss.core) ch { k with cmds := k.cmds.filter (fun c => !mine c) }))).modThread iss.grp l.2 (fun x => x.setV (vnum w.d) (BitVec.ofNat 32 (k.cmds.filter mine).length)))))
  ∧ ∀ (c : ChanState) (n : Word) (late : Bool), let x := c.cancel n late
    x.done = (if late then c.done else c.done + 1) ∧ x.ended = (if late then c.ended + 1 else c.ended) ∧ x.seq = c.seq ∧ x.wp = c.wp ∧ x.failCount = c.failCount ∧ x.failFirst = c.failFirst
    ∧ (c.canFirst = 0xFFFFFFFF → x.canFirst = n ∧ x.canLast = n) ∧ (c.canFirst ≠ 0xFFFFFFFF → x.canFirst.toNat = min c.canFirst.toNat n.toNat ∧ x.canLast.toNat = max c.canLast.toNat n.toNat)

/-- 13 R301, R303, R305, R306: a channel starts its next command, or fails it where its group has been killed; a command that reaches its count moves the gang's write pointer by the bytes just written, raises its flags, adds its whole count to its barrier, counts as ended with those cancelled behind it and leaves the channel; its follow-on MMA, unless its group has been killed, enters the array queue of its core, or waits in the channel for an entry, in which time no command of the channel starts. What the rules leave open here is as the assumption log says: log 46. -/
def Obligations.CopyProgress : Prop :=
  (∀ (s : State) (quad ch : Nat) (c : CopyCmd) (rest : List CopyCmd) (g : Group), ch < 4 → (s.chain quad ch).cmds = c :: rest → c.started = false → (s.chain quad ch).follow = none → s.group? c.grp = some g →
    (g.killed = none → exec (.copyStart quad ch) s = .next (s.setChain quad ch { s.chain quad ch with cmds := { c with started := true } :: rest }))
    ∧ (g.killed ≠ none → c.written = 0 → c.ahead = [] → (Blk.ofBits c.block).bar = 0 →
      ∃ (s' : State) (x : ContFault), exec (.copyStart quad ch) s = .next s' ∧ s'.hbm = s.hbm ∧ (s'.chain quad ch).cmds = rest ∧ (s'.ctx g.ctx).faults = (s.ctx g.ctx).faults ++ [x]
        ∧ x.record.cause = 0x24 ∧ x.record.extra.toNat = 2 ^ 32 * c.seq.toNat + 2 ^ 24 * 6 + 2 ^ 20 * 3 + 2 ^ 18 * ch ∧ x.engine = true ∧ (∀ k, s'.group? k = s.group? k)))
  ∧ (∀ (s : State) (quad ch : Nat) (c : CopyCmd) (rest : List CopyCmd) (f : EngCmd), (s.chain quad ch).cmds = c :: rest → c.started = false → (s.chain quad ch).follow = some f → exec (.copyStart quad ch) s = .next s)
  ∧ (∀ (s : State) (quad ch : Nat) (c : CopyCmd) (rest : List CopyCmd) (g : Group), (s.chain quad ch).cmds = c :: rest → c.started = true → c.wait = none → c.lost = false → s.group? c.grp = some g → c.written ≤ c.count → c.count ≤ 2 ^ 24 →
    let r := s.copyRun (4 * quad) c g c.count
    let b := Blk.ofBits c.block
    r.err = none → r.held = false → r.pos = c.count →
    (b.follow = false → b.bar = 0 → r.flags = 0 →
     ∃ s' : State, exec (.copyComplete quad ch) s = .next s' ∧ (s'.chain quad ch).cmds = rest
      ∧ s'.chan c.kern c.gang ch = (let x := s.chan c.kern c.gang ch; if (s.gang? c.kern c.gang).any (fun y => decide (ch < y.chans.length)) then { x with wp := x.wp + BitVec.ofNat 64 (c.count - c.written), done := x.done + 1 + BitVec.ofNat 32 x.ended, ended := 0 } else x)
      ∧ s'.hbm = r.s.hbm ∧ (∀ k, s'.group? k = r.s.group? k))
    ∧ (let who : Owner := { grp := c.grp, kern := c.kern, gang := c.gang, die := quad / 12 }
       let glob : Bool := decide ((Lay.ofBits c.dst).space = 0)
       let written := (r.s.setChain quad ch { r.s.chain quad ch with cmds := rest }).modChan c.kern c.gang ch (fun x => { x with wp := x.wp + BitVec.ofNat 64 (c.count - c.written) })
       let flagged := if r.flags = 0 then written else written.modGroup c.grp (fun y => { y with fpflags := y.fpflags ||| r.flags, fpPending := (y.pendingWith r.flags c.pc (s.clock y.core) 2).1, fpStream := (y.pendingWith r.flags c.pc (s.clock y.core) 2).2 })
       let counted := if b.bar = 0 then flagged else match flagged.bar? who b.bar with
         | some k => flagged.barEvent who b.bar { k with openGlobal := k.openGlobal || glob } (k.addBytes c.count glob) none
         | none => flagged
       let ended := counted.modChan c.kern c.gang ch (fun x => { x with done := x.done + 1 + BitVec.ofNat 32 x.ended, ended := 0 })
       (b.follow = false ∨ (∀ y, ended.group? c.grp = some y → y.killed ≠ none) → exec (.copyComplete quad ch) s = .next ended)
       ∧ ∀ y, b.follow = true → ended.group? c.grp = some y → y.killed = none → (∀ h, (ended.core y.core).arrayQ.head? = some h → h.kind ≠ .mdrain) →
         ∃ f : EngCmd, f.kind = .mma ∧ f.grp = c.grp ∧ f.kern = c.kern ∧ f.gang = c.gang ∧ f.tid = c.tid ∧ f.pc = c.pc ∧ f.entry = c.dst ∧ f.coords = b.dst.map (fun n => (BitVec.ofNat 32 n : Word)) ∧ f.mcw = c.mcw
           ∧ f.acc = mcwAcc c.mcw ∧ f.slot = mcwSlot c.mcw ∧ f.bar = mcwBar c.mcw ∧ f.follow = some (c.seq, ch) ∧ f.wait = none ∧ f.lost = false ∧
           let k := ended.core y.core
           exec (.copyComplete quad ch) s = .next (if k.arrayQ.length < 16 then ended.setCore y.core { k with arrayQ := k.arrayQ ++ [{ f with num := k.engNum }], engNum := k.engNum + 1 } else ended.setChain quad ch { ended.chain quad ch with follow := some f })))
  ∧ ∀ (s : State) (quad ch : Nat), (∃ t, exec (.copyStart quad ch) s = .next t) ∧ ∃ t, exec (.copyComplete quad ch) s = .next t

/-- 14 R334 to R336: PGSTAT gives the fields of a page's entry, the state of its lease, FREE for one of another context (14 R309), and its pins; LEASEQ the state, LID and expiry of a lease of the context, found by index or by the region of an address, and FREE for any other; PGHINT sets HINT of the mapped pages that lie within its range; an address past 2^57 faults. -/
def Obligations.PageWords : Prop :=
  let line (c : Nat) (l : Lease) : Qword := if l.ctx = c ∧ l.state ≠ 0 then BitVec.ofNat 128 (l.state + 2 ^ 32 * l.lid.toNat + 2 ^ 64 * l.expiry) else BitVec.ofNat 128 (2 ^ 32 * 0xFFFFFFFF)
  (∀ (w : F0) (s : State) (iss : Issue) (g : Group) (l : Nat × Nat) (t : Thread), s.IssuesOne iss g (.pgstat w) l t → (t.sourcePair w.a).toNat < 2 ^ 57 →
    let va := (t.sourcePair w.a).toNat
    ∀ p : Dword, ((∃ pa, s.walkCtx g.ctx va = .leaf pa p) ∨ ((∃ n, s.walkCtx g.ctx va = .invalid n) ∧ p = 0)) →
    let state := p.toNat / 2 ^ 60
    let leased : Bool := decide (p.toNat / 2 ^ 58 % 4 ≠ 0 ∧ state ≠ 0)
    let lease := p.toNat % 2 ^ 12
    let counter := if state ∈ [2, 3, 4, 5] then sparseGet 0 s.counters (p.toNat / 2 ^ 16 % 2 ^ 23) else 0
    let known := let x := s.lease lease; if x.ctx = g.ctx then x.state else 0
    let pins := min 4095 (s.pins.filter (fun x => x.ctx == g.ctx && decide (x.base < (va / 65536 + 1) * 65536) && decide (va / 65536 * 65536 < x.base + x.len))).length
    counter < 256 → known < 8 →
    RetiresWith s iss (.pgstat w) l s (vnum w.d) 2 (BitVec.ofNat 128 (counter + (if leased then 2 ^ 8 * lease else 0) + 2 ^ 20 * (p.toNat / 2 ^ 52) + (if leased then 2 ^ 32 * (8 + known) else 0) + 2 ^ 36 * pins)))
  ∧ (∀ (w : F0) (s : State) (iss : Issue) (g : Group) (l : Nat × Nat) (t : Thread), s.IssuesOne iss g (.leaseq w) l t →
    let n := (t.v.get (vnum w.a)).toNat
    (s.lease n).state < 2 ^ 32 → RetiresWith s iss (.leaseq w) l s (vnum w.d) 4 (if n < 4096 then line g.ctx (s.lease n) else BitVec.ofNat 128 (2 ^ 32 * 0xFFFFFFFF)))
  ∧ (∀ (w : F0) (s : State) (iss : Issue) (g : Group) (l : Nat × Nat) (t : Thread), s.IssuesOne iss g (.leaseqVa w) l t → (t.sourcePair w.a).toNat < 2 ^ 57 →
    let covers (x : Lease) : Bool := x.ctx == g.ctx && x.vabase == (t.sourcePair w.a).toNat / 2 ^ 30 && x.state != 0
    (s.leases.all (fun x => !covers x.2) = true → RetiresWith s iss (.leaseqVa w) l s (vnum w.d) 4 (BitVec.ofNat 128 (2 ^ 32 * 0xFFFFFFFF)))
    ∧ ∀ pre n x post, s.leases = pre ++ (n, x) :: post → pre.all (fun y => !covers y.2) = true → covers x = true → x.state < 2 ^ 32 → RetiresWith s iss (.leaseqVa w) l s (vnum w.d) 4 (line g.ctx x))
  ∧ (∀ (w : F0) (i : Instr), i = .pgstat w ∨ i = .leaseqVa w → Faults i (fun _ _ _ _ t => 2 ^ 57 ≤ (t.sourcePair w.a).toNat) (fun _ iss _ _ t => .plain 0x06 (t.sourcePair w.a) iss.word))
  ∧ (∀ (w : F0) (s : State) (iss : Issue) (g : Group) (l : Nat × Nat) (t : Thread), s.IssuesOne iss g (.pghint w) l t →
    let base := (t.sourcePair w.a).toNat
    let len := (t.v.get (vnum w.b)).toNat
    ((base + len) / 65536 ≤ (base + 65535) / 65536 → Retires s iss (.pghint w) l s)
    ∧ ∀ pa p, base % 65536 = 0 → base < 2 ^ 57 → 65536 ≤ len → len < 131072 → s.walkCtx g.ctx base = .leaf pa p →
      let takes : Bool := decide (p.toNat / 2 ^ 58 % 4 ∈ [1, 2] ∧ p.toNat / 2 ^ 60 ∈ [1, 2, 3])
      let p' : Dword := (p &&& ~~~(3 <<< 52 : Dword)) ||| ((w.x.setWidth 64 &&& 3) <<< 52)
      Retires s iss (.pghint w) l (if takes then { s with hbm := s.hbm.write pa (bytesOfNat p'.toNat 8) } else s))

/-- 02 R53 to R57: what each status register reads as, RELOC cleared by its reader alone; what each write does; a write of a reserved FPROUND mode faults and changes nothing. -/
def Obligations.StatusRegisters : Prop :=
  let value (s : State) (g : Group) (l : Nat × Nat) (t : Thread) (n : Nat) : Nat :=
    let core := (s.issue.map (fun x => x.core)).getD 0
    let k := s.kern? g.kern
    let of (f : Kernel → Nat) (d : Nat) : Nat := (k.map f).getD d
    (lookKey n [(0x000, l.2), (0x001, l.2 / 32), (0x002, l.2 % 32), (0x003, g.gidx), (0x004, of (fun x => x.desc.ngroups) 0), (0x005, g.gang), (0x006, g.member), (0x007, of (fun x => x.desc.gangSize) 1), (0x008, g.threads.length), (0x010, core), (0x011, core / 4 % 12), (0x012, core / 48), (0x013, if t.reloc then 1 else 0), (0x020, s.clock core), (0x021, s.ns), (0x030, g.fpflags.toNat), (0x031, g.trapEn.toNat + (if g.orderReq then 2 ^ 16 else 0) + (if g.pinLapse then 2 ^ 17 else 0)), (0x032, g.fpround.toNat), (0x040, t.acause.toNat), (0x041, t.arepairs.toNat), (0x050, t.regtop.toNat), (0x051, t.depth.toNat), (0x052, (s.ctx g.ctx).progress.toNat), (0x060, of (fun x => x.kseq.toNat) 0), (0x061, g.ctx), (0x070, if (s.ctx g.ctx).maint ∨ Config.cores ≤ core then 1 else 0)]).getD 0
  (∀ w : F1, Computes (.csrr w) (fun s g l t =>
      let x : Dword := BitVec.ofNat 64 (value s g l t w.imm.toNat)
      let u := if w.imm = 0x020 ∨ w.imm = 0x021 then t.setPair (vnum w.d) x else t.setV (vnum w.d) (lowWord x)
      if w.imm = 0x013 then { u with reloc := false } else u) (fun _ _ _ _ => 0))
  ∧ (∀ (w : F1) (s : State) (iss : Issue) (g : Group) (l : Nat × Nat) (t : Thread), s.IssuesOne iss g (.csrw w) l t →
    let x := t.v.get (vnum w.a)
    let group (f : Group → Group) : Prop := Retires s iss (.csrw w) l (s.modGroup iss.grp f)
    (w.imm = 0x030 → group (fun y => { y with fpflags := x.setWidth 7 }))
    ∧ (w.imm = 0x031 → group (fun y => { y with trapEn := x.setWidth 7, orderReq := y.orderReq && !x.getLsbD 16, pinLapse := y.pinLapse && !x.getLsbD 17 }))
    ∧ (w.imm = 0x032 → x.toNat % 8 ≤ 4 → group (fun y => { y with fpround := x.setWidth 3 }))
    ∧ (w.imm = 0x041 → Retires s iss (.csrw w) l (s.modThread iss.grp l.2 (fun y => { y with arepairs := x })))
    ∧ (w.imm = 0x052 → Retires s iss (.csrw w) l (s.setCtx g.ctx { s.ctx g.ctx with progress := (s.ctx g.ctx).progress + 1 })))
  ∧ ∀ w : F1, Faults (.csrw w) (fun _ _ _ _ t => w.imm = 0x032 ∧ 4 < (t.v.get (vnum w.a)).toNat % 8) (fun _ iss _ _ _ => .plain 0x03 0 iss.word)

/-- 16 R362, R366 to R369, 04 R97: ENTER pushes its identifier, the depth counting on beyond the 8 levels held, and LEAVE pops; each of ENTER, LEAVE, MARK and, under TRACE, TRIG sends its pack's event to the triggers. Where the event may open a window whose trigger halts, the pack waits before the word for what the triggers make of it, and then goes on or halts with the trigger's number. TRIG without TRACE does nothing. A thread halted precisely stops before ENTER and LEAVE. Conditions are evaluated when a plinth cycle has passed, over its events: a closed trigger opens at a start condition, an open one closes at a stop condition, and start and stop in one cycle count an empty window; a trigger with the trace action writes OPEN and CLOSE, and while it is open the events write their own records. What the rules leave open here is as the assumption log says: log 27. -/
def Obligations.TraceWords : Prop :=
  let enter_ (t : Thread) (id : BitVec 16) : Thread := { t with preciseHalt := false, stack := if t.stack.length < 8 then t.stack ++ [id] else t.stack, depth := BitVec.ofNat 32 (min (t.depth.toNat + 1) 0xFFFFFFFF) }
  let leave_ (t : Thread) (_ : BitVec 16) : Thread := { t with preciseHalt := false, stack := t.stack.take (t.depth.toNat - 1), depth := BitVec.ofNat 32 (t.depth.toNat - 1) }
  let meets (cfg : Dword) (at_ : Nat) (e : TrigEvent) : Prop := cfg.toNat / 2 ^ at_ % 16 = e.kind ∧ (if e.kind = 5 then cfg.toNat / 2 ^ (at_ + 4) % 256 = e.id else cfg.toNat / 2 ^ (at_ + 4) % 65536 = e.id)
  let start (t : Trigger) (e : TrigEvent) : Prop := meets t.cfg 12 e
  let stop (t : Trigger) (e : TrigEvent) : Prop := meets t.cfg 44 e
  let event (s : State) (iss : Issue) (g : Group) (l : Nat × Nat) (kind : Nat) (id : BitVec 16) (after : Thread) (waits : Bool) : TrigEvent :=
    { ctx := g.ctx, core := iss.core, grp := iss.grp, gidx := g.gidx, kseq := ((s.kern? g.kern).map (fun k => k.kseq)).getD 0, count := 1, low := l.2, top := after.regtop, kind := kind, id := id.toNat, waits := waits, hit := [l.2] }
  let told (s : State) (e : TrigEvent) : State := { s with evbuf := s.evbuf ++ [e] }
  let answered (s : State) (iss : Issue) (x : Option EventAnswer) : Prop := ∀ d, s.issuing iss = some d → d.sent = x
  let word (i : Instr) (kind : Nat) (id : BitVec 16) (ok : State → Group → Thread → Prop) (f : Thread → Thread) : Prop :=
    (∀ (s : State) (iss : Issue) (g : Group) (l : Nat × Nat) (t : Thread) (d : Dispatch), s.IssuesOne iss g i l t → s.issuing iss = some d → ok s g t →
      let mayHalt := ∃ tr ∈ (s.ctx g.ctx).trigs, tr.isOpen = false ∧ tr.action.getLsbD 2 = true ∧ start tr (event s iss g l kind id (f t) false)
      let done := s.modThread iss.grp l.2 f
      (d.sent = none → ¬mayHalt → Retires s iss i l (told done (event s iss g l kind id (f t) false)))
      ∧ (d.sent = none → mayHalt → ∃ s' : State, exec i s = .next s' ∧ Ends (told s (event s iss g l kind id (f t) true)) s' iss
        ∧ (d.grp = iss.grp → d.packs = [iss.lanes] → iss.pack = 0 → d.todo = [0] → ∃ d2, (s'.stream iss.core iss.stream).dispatch = some d2 ∧ d2.sent = some .pending ∧ d2.pc = d.pc))
      ∧ (d.sent = some .pending → Waits s iss i)
      ∧ (d.sent = some .go → Retires s iss i l done))
    ∧ ∀ k, Faults i (fun s iss g _ t => s.issuing iss ≠ none ∧ answered s iss (some (.halt k)) ∧ ok s g t) (fun _ _ _ _ _ => .plain 0x42 0 (BitVec.ofNat 64 (2 * k + 1)))
  let stacked (_ : State) (_ : Group) (t : Thread) : Prop := t.stack.length = min t.depth.toNat 8 ∧ (t.preciseHalt = false ∨ t.stepOver = true)
  (∀ w : F1, word (.enter w) 3 w.imm stacked (fun t => enter_ t w.imm))
  ∧ (∀ w : F1, word (.leave w) 4 w.imm stacked (fun t => leave_ t w.imm))
  ∧ (∀ w : F1, word (.mark w) 2 w.imm (fun _ _ _ => True) (fun t => t))
  ∧ (∀ w : F1, word (.trig w) 1 w.imm (fun s g _ => (s.ctx g.ctx).trace = true) (fun t => t))
  ∧ (∀ (w : F1) (s : State) (iss : Issue) (g : Group) (l : Nat × Nat) (t : Thread), s.IssuesOne iss g (.trig w) l t → (s.ctx g.ctx).trace = false → Retires s iss (.trig w) l s)
  ∧ (∀ (w : F1) (i : Instr), i = .enter w ∨ i = .leave w → Faults i (fun s iss _ _ t => (∀ d, s.issuing iss = some d → d.sent ≠ some .pending) ∧ t.preciseHalt = true ∧ t.stepOver = false) (fun _ _ _ _ _ => .plain 0x42 0 0))
  ∧ (∀ (t : Trigger) (es : List TrigEvent), (∀ e ∈ es, 1 ≤ e.kind ∧ e.kind ≤ 5) →
    let starts := ∃ e ∈ es, start t e
    let stops := ∃ e ∈ es, stop t e
    (t.isOpen = true → stops → (t.cycle es).1 = { t with isOpen := false } ∧ (t.cycle es).2.1 = none ∧ ∃ i e, es[i]? = some e ∧ stop t e ∧ (∀ j x, j < i → es[j]? = some x → ¬stop t x) ∧ (t.cycle es).2.2 = some i)
    ∧ (t.isOpen = true → ¬stops → t.cycle es = (t, none, none))
    ∧ (t.isOpen = false → starts → stops → t.cycle es = ({ t with emptyWin := t.emptyWin + 1 }, none, none))
    ∧ (t.isOpen = false → starts → ¬stops → (t.cycle es).1 = { t with isOpen := true, windows := t.windows + 1 } ∧ (t.cycle es).2.2 = none ∧ ∃ i e, es[i]? = some e ∧ start t e ∧ (∀ j x, j < i → es[j]? = some x → ¬start t x) ∧ (t.cycle es).2.1 = some i)
    ∧ (t.isOpen = false → ¬starts → t.cycle es = (t, none, none)))
  ∧ (∀ s : State, s.flushEvents.evbuf = [] ∧ ∀ c, (lookKey c s.ctxs).isSome = true →
    s.flushEvents.ctx c = { s.ctx c with trigs := (s.ctx c).trigs.map (fun t => (t.cycle (s.evbuf.filter (fun e => e.ctx == c))).1) })
  ∧ (∀ (s : State) (n : Nat), (s.advance n).evbuf = if (s.tick + n) / Config.plinthTicks = s.tick / Config.plinthTicks then s.evbuf else [])
  ∧ ∀ (s : State) (e : TrigEvent), s.evbuf = [e] → 1 ≤ e.kind → e.kind ≤ 5 → (lookKey e.ctx s.ctxs).isSome = true →
    let trigs := (s.ctx e.ctx).trigs
    let traces (i : Nat) (tr : Trigger) : Prop := trigs[i]? = some tr ∧ tr.action.getLsbD 0 = true ∧ ∀ j x, j ≠ i → trigs[j]? = some x → x.action.getLsbD 0 = false
    let own (a : State) : State := if e.kind = 5 then a else a.traceRecord e.core (if e.kind = 1 then 4 else if e.kind = 2 then 3 else if e.kind = 3 then 1 else 2) e.id e.ctx e.gidx e.count 0 e.kseq e.top
    ((s.ctx e.ctx).trace = false ∨ (∀ tr ∈ trigs, tr.action.getLsbD 0 = true → tr.isOpen = false ∧ (¬start tr e ∨ stop tr e)) → s.flushEvents.hbm = s.hbm)
    ∧ ((s.ctx e.ctx).trace = true → ∀ i tr, traces i tr →
      (tr.isOpen = true → ¬stop tr e → s.flushEvents.hbm = (own s).hbm)
      ∧ (tr.isOpen = false → start tr e → ¬stop tr e → s.flushEvents.hbm = (own (s.traceRecord e.core 5 (tr.cfg.toNat / 2 ^ 16 % 65536) e.ctx e.gidx e.count i e.kseq e.top)).hbm)
      ∧ (tr.isOpen = true → stop tr e → s.flushEvents.hbm = (s.traceRecord e.core 6 (tr.cfg.toNat / 2 ^ 48) e.ctx e.gidx e.count i e.kseq e.top).hbm))
    ∧ (e.waits = true → (s.ctx e.ctx).trace = false → ∀ k d, k < 2 → (s.core e.core).streams.length = 2 → (s.stream e.core k).dispatch = some d → d.grp = e.grp → d.sent = some .pending → (d.packs.flatten.any (fun l => l.2 == e.low)) = true →
      let halts (tr : Trigger) : Prop := tr.isOpen = false ∧ start tr e ∧ ¬stop tr e ∧ tr.action.getLsbD 2 = true
      ((∀ tr ∈ trigs, ¬halts tr) → (s.flushEvents.stream e.core k).dispatch = some { d with sent := some .go })
      ∧ ∀ i tr, trigs[i]? = some tr → halts tr → (∀ j x, j < i → trigs[j]? = some x → ¬halts x) → (s.flushEvents.stream e.core k).dispatch = some { d with sent := some (.halt i) })

/-- 16 R358 to R360: in handler mode FRET restores p0 to p6 and the suspended windows and leaves the activation: with `.retry` the thread waits at the instruction again, with a value the instruction's result is that value and the thread waits after it, and with `.fail` one containment fault of class MEMORY is raised for the threads that chose it; a marked value is released. FREAD reads the record and the data, and zeros outside handler mode. What the rules leave open here is as the assumption log says: log 45. -/
def Obligations.HandlerWords : Prop :=
  (∀ (w : F0) (s : State) (iss : Issue) (g : Group) (l : Nat × Nat) (t : Thread) (h : HandlerCtx), s.IssuesOne iss g (.fret w) l t → t.handler = some h → h.active = true →
    let back (x : Thread) : Thread := { x with p := h.savedP, held := h.savedHeld, handler := none }
    let mode := w.x.toNat % 4
    let n := if h.width = 2 then 4 else if h.width = 1 then 2 else 1
    let dead := if (wordMarks (.fret w)).any (fun x => x.1) then (List.range n).map (fun k => vnum w.a + k) else []
    (mode = 2 → ∃ s' : State, exec (.fret w) s = .next s' ∧ Ends (s.modThread iss.grp l.2 (fun x => (back x).waitAt h.record.instAddr (s.clock iss.core))) s' iss)
    ∧ (mode = 0 → vnum w.a % n = 0 → h.savedHeld = [] → h.la = 0 → h.sizeCode < 7 → (∃ v, Operand.ofCode h.dest = .v v) →
      ∃ (s' : State) (u : Thread), exec (.fret w) s = .next s' ∧ s'.thread? iss.grp l.2 = some u ∧ u.p = h.savedP ∧ u.handler = none ∧ u.cond = .waiting ∧ u.addr = h.record.instAddr + 8
        ∧ u.v = (t.setMany (vnum h.dest) n ((t.v.get (vnum w.a)).setWidth 128 + (t.v.get (vnum w.a + 1)).setWidth 128 <<< 32 + (t.v.get (vnum w.a + 2)).setWidth 128 <<< 64 + (t.v.get (vnum w.a + 3)).setWidth 128 <<< 96)).v
        ∧ s'.hbm = s.hbm)
    ∧ (mode = 1 ∨ mode = 0 ∧ vnum w.a % n ≠ 0 → g.core = iss.core →
      ∃ (s' : State) (x : ContFault), exec (.fret w) s = .next s' ∧ s'.thread? iss.grp l.2 = some ((back { t with released := dead ++ t.released.filter (fun r => decide (r ∉ dead)) }).blockAt .contain h.record.instAddr (s.clock iss.core)) ∧ (s'.ctx g.ctx).faults = (s.ctx g.ctx).faults ++ [x]
        ∧ x.record.cause = h.record.cause ∧ x.record.cls = 1 ∧ x.record.route = 0 ∧ x.record.instAddr = h.record.instAddr ∧ x.tids = [l.2] ∧ x.level = 0 ∧ s'.hbm = s.hbm))
  ∧ ∀ w : F0, Computes (.fread w) (fun _ _ _ t =>
      let n := w.x.toNat % 16
      let word (x : FaultRec) : Dword := BitVec.ofNat 64 (x.toNat / 2 ^ (64 * n))
      match t.handler with
      | some h => if n = 8 then t.setMany (vnum w.d) 4 (if h.active then h.data else 0) else t.setPair (vnum w.d) (if h.active then word h.record else 0)
      | none => if n = 8 then t.setMany (vnum w.d) 4 0 else t.setPair (vnum w.d) 0) (fun _ _ _ _ => 0)

/-- 05 R120 to R122, R113: LAUNCH refuses a control block that is not an own device queue's, is in ERROR, or is full, with bit 63 of its result set; else it takes the next entry of the ring, performs the thread's stores, writes the packet and PROD, and notifies, PENDNOTIFY being set where no slot holds the queue; it waits while an earlier reservation has not been filled, and like NOTIFY while an exclusive attempt holds a line that it writes (10 R237). NOTIFY performs the thread's stores, adds to NOTEBITS, and raises the vector of the issuing queue. Misaligned addresses fault. What the rules leave open here is as the assumption log says: logs 44, 55. -/
def Obligations.QueueWords : Prop :=
  let at_ (e : State) (p : Loc) (off : Nat) : Nat := natOfBytes (e.currentBytes (p.add off) 8)
  (∀ (w : F0) (s : State) (iss : Issue) (g : Group) (l : Nat × Nat) (t : Thread) (ql pl : Loc), s.IssuesOne iss g (.launch w) l t →
    let qa := t.sourcePair w.a
    let pa := t.sourcePair w.b
    pa.toNat % 64 = 0 → (s.env iss g l).global t qa 128 .store 2 2 = .ok ql → (s.env iss g l).global t pa 64 .load 0 0 = .ok pl →
    (s.drainThread iss.core iss.grp l.2 = none → Waits s iss (.launch w))
    ∧ ∀ e, s.drainThread iss.core iss.grp l.2 = some e →
      let h := at_ e ql 0
      let rlog := h / 2 ^ 16 % 32
      let own := h % 256 = 1 ∧ h / 2 ^ 32 % 256 = g.ctx ∧ h / 2 ^ 8 % 2 = 1
      let bad := at_ e ql 0x40 / 8 % 8 = 6
      let full := (at_ e ql 0x20 + 2 ^ 64 - at_ e ql 0x18) % 2 ^ 64 = 2 ^ rlog
      let refused (c : Nat) : Prop := RetiresWith s iss (.launch w) l e (vnum w.d) 2 (BitVec.ofNat 128 (2 ^ 63 + c))
      let i := at_ e ql 0x20
      let entry := (at_ e ql 0x08 + i % 2 ^ rlog * 64) % 2 ^ 64
      (¬own → refused 2) ∧ (own → bad → refused 3) ∧ (own → ¬bad → full → refused 1)
      ∧ ∀ rl, own → ¬bad → ¬full → entry < 2 ^ 57 → e.route g.ctx entry .store = .ok rl →
        let held := e.locHeld iss.core ql (some (iss.grp, l.2)) = true ∨ e.locHeld iss.core rl (some (iss.grp, l.2)) = true
        (at_ e ql 0x10 ≠ i ∨ held → Waits s iss (.launch w))
        ∧ (at_ e ql 0x10 = i → ¬held →
          let e3 := e.plinthPut g.ctx (ql.add 0x20) (bytesOfNat (i + 1) 8)
          let e4 := e3.plinthPut g.ctx rl (e3.currentBytes pl 64)
          let e5 := e4.plinthPut g.ctx (ql.add 0x10) (bytesOfNat (i + 1) 8)
          let f := at_ e5 ql 0x40
          let n := f / 2 ^ 8 % 256
          let slot := e5.slot? n
          let holds := ∃ q, slot = some q ∧ f / 2 ^ 7 % 2 = 1 ∧ q.ctx = g.ctx ∧ q.qcb = qa
          (holds → RetiresWith s iss (.launch w) l (e5.notifySlot n) (vnum w.d) 2 (BitVec.ofNat 128 i))
          ∧ (¬holds → RetiresWith s iss (.launch w) l (e5.plinthPut g.ctx (ql.add 0x40) (bytesOfNat (f ||| 0x40) 8)) (vnum w.d) 2 (BitVec.ofNat 128 i))))
  ∧ (∀ w, Faults (.launch w) (fun _ _ _ _ t => (t.sourcePair w.b).toNat % 64 ≠ 0 ∧ (t.sourcePair w.a).toNat % 128 = 0) (fun _ iss _ _ t => .plain 0x05 (t.sourcePair w.b) iss.word))
  ∧ (∀ w, Faults (.launch w) (fun _ _ _ _ t => (t.sourcePair w.a).toNat % 128 ≠ 0) (fun _ iss _ _ t => .plain 0x05 (t.sourcePair w.a) iss.word))
  ∧ (∀ (w : F0) (s : State) (iss : Issue) (g : Group) (l : Nat × Nat) (t : Thread) (k : Kernel) (p : Loc), s.IssuesOne iss g (.notify w) l t → s.kern? g.kern = some k → s.route g.ctx k.qcb.toNat .store = .ok p →
    let held := s.locHeld iss.core p (some (iss.grp, l.2))
    (held = true ∨ s.drainThread iss.core iss.grp l.2 = none → Waits s iss (.notify w))
    ∧ ∀ e, held = false → s.drainThread iss.core iss.grp l.2 = some e →
      let e1 := e.plinthPut g.ctx (p.add 0x38) (bytesOfNat (at_ e p 0x38 / 2 ^ 32 * 2 ^ 32 + (at_ e p 0x38 % 2 ^ 32 ||| (t.v.get (vnum w.a)).toNat)) 8)
      let v := at_ e1 p 0x30 % 65536
      (2048 ≤ v → Retires s iss (.notify w) l e1)
      ∧ (v < 2048 → e1.linkUp 0 = true → Retires s iss (.notify w) l { (e1.wakePort 0) with msi := e1.msi ++ [v] })
      ∧ (v < 2048 → e1.linkUp 0 = false → Retires s iss (.notify w) l (if v ∈ e1.msiHeld then e1 else { e1 with msiHeld := e1.msiHeld ++ [v] })))
  ∧ ∀ (s : State) (c va pa : Nat) (bs : List Byte), ∃ D H U, U.Sublist s.unseen ∧ s.plinthPut c (.mem va pa) bs = { s.markDirty c va with hbm := (s.markDirty c va).hbm.write pa bs, dir := D, hostFilter := H, unseen := U }

/-- 07 R140, R143, R144: the entry a stream chooses is held by no other stream (the overflow list is one entry, whichever of its addresses a stream took), is passed over while yielded and younger than 2,048 cycles if another can be taken, and no entry that could be taken stands before it: aged entries first by age, then the greater population, the lower group slot, the lower address. -/
def Obligations.SelectorOrder : Prop :=
  ∀ (s : State) (core stream : Nat) (e : Entry), s.choose core stream = some e →
    let live (x : Nat × Group) : Prop := x ∈ s.residents core ∧ x.2.killed = none ∧ s.gangHalted x.2 = false
    let held (x : Entry) : Prop := ∃ k d, k < 2 ∧ k ≠ stream ∧ (s.stream core k).dispatch = some d ∧ d.grp = x.grp ∧ (d.entry = x.addr ∨ d.list = true ∧ x.list = true)
    let offered (x : Entry) : Prop := (∃ y, live y ∧ x ∈ s.groupEntries y.1 y.2 (s.clock core)) ∧ ¬held x
    let fresh (x : Entry) : Prop := x.yielded = false ∨ 2048 ≤ x.age
    let aged (x : Entry) : Nat := if 2048 ≤ x.age then x.age else 0
    offered e ∧ ((∃ x, offered x ∧ fresh x) → fresh e)
    ∧ ∀ x, offered x → (fresh x ∨ ¬fresh e) →
      ¬(aged e < aged x ∨ aged e = aged x ∧ (e.pop < x.pop ∨ e.pop = x.pop ∧ (x.slot < e.slot ∨ x.slot = e.slot ∧ x.addr < e.addr)))

/-- 07 R143, R145, R149, R155, R163; 16 R358; 02 R46; 09 R193: DISPATCH takes a snapshot of the chosen entry's runnable threads, in ascending packs of 32, or, at a ROWBLK, in one pack for each row with each thread in its own lane, and they run; HANDLER_ACTIVATION starts the oldest activation at EHADDR with p0 to p6 and the windows set aside; a speculative load fills an L1 line and nothing else; a long-latency value lands once its window is closed; the data of a queue entry wakes a thread that waits for its queues; a nap ends. A dispatch whose first word cannot be fetched faults and leaves its stream free, and an activation whose group is halted lets the next one go first. What the rules leave open here is as the assumption log says: logs 2, 12 (which line a full cache loses), 17, 45, 74 (when an early load comes). -/
def Obligations.CoreEvents : Prop :=
  let stopped (s : State) (a : Activation) : Prop := ∃ y, s.group? a.grp = some y ∧ (s.gangHalted y = true ∨ ∃ l ∈ a.lanes, ∃ t, y.threads[l.2]? = some t ∧ t.haltReq = some 4)
  (∀ (s : State) (core stream : Nat) (e : Entry) (g : Group),
    let s0 := (s.residents core).foldl (fun (a : State) x => ((a.modGroup x.1 (fun y => { y with threads := y.threads.map (fun t => t.considered (s.clock core)) })).haltAsked x.1).retable x.1) s
    stream < 2 → (s.core core).streams.length = 2 → (s0.stream core stream).dispatch = none → (∀ a ∈ (s0.core core).activations, stopped s0 a) → (stream = 1 → (s0.stream core 0).dispatch = none → s0.choose core 0 = none) → s0.choose core stream = some e → s0.group? e.grp = some g →
    let ts := s0.runnable g e.addr
    (∀ f, s0.fetch g.ctx e.addr = .error f → ∃ s' : State, exec (.dispatch core stream) s = .next s' ∧ (s'.stream core stream).dispatch = none ∧ s'.hbm = s0.hbm)
    ∧ ∀ w, s0.fetch g.ctx e.addr = .ok w → ∃ (s' : State) (d : Dispatch), exec (.dispatch core stream) s = .next s' ∧ (s'.stream core stream).dispatch = some d ∧ d.word = some w ∧ d.grp = e.grp ∧ d.entry = e.addr ∧ d.pc = e.addr ∧ d.index = 0 ∧ d.handler = false
      ∧ d.rowblk = (s0.rowblkAt g.ctx e.addr).isSome ∧ (d.packs.flatten).map (fun l => l.2) = ts
      ∧ (∀ p ∈ d.packs, p.length ≤ 32 ∧ (d.rowblk = true → ∀ l ∈ p, l.1 = l.2 % 32 ∧ ∀ m ∈ p, m.2 / 32 = l.2 / 32) ∧ (d.rowblk = false → p.map (fun l => l.1) = List.range p.length))
      ∧ (∀ n t, g.threads[n]? = some t → s'.thread? e.grp n = some (if n ∈ ts then { t with cond := .running } else t))
      ∧ (∀ k n, k ≠ e.grp → s'.thread? k n = s0.thread? k n) ∧ s'.hbm = s0.hbm)
  ∧ (∀ (s : State) (core stream : Nat) (a : Activation) (behind rest : List Activation) (g : Group), stream < 2 → (s.core core).streams.length = 2 → (s.stream core stream).dispatch = none → (stream = 1 → (s.stream core 0).dispatch ≠ none) → (s.core core).activations = behind ++ a :: rest → (∀ x ∈ behind, stopped s x) → ¬stopped s a →
    s.group? a.grp = some g → (a.lanes.map (fun l => l.2)).Nodup → a.lanes ≠ [] → (∀ l ∈ a.lanes, ∃ t h, g.threads[l.2]? = some t ∧ t.cond = .blocked .handler ∧ t.handler = some h ∧ h.active = false) →
    let eh := (s.ctx g.ctx).ehAddr
    ∃ (s' : State) (d : Dispatch), exec (.handlerActivation core stream) s = .next s' ∧ (s'.stream core stream).dispatch = some d ∧ d.grp = a.grp ∧ d.pc = eh ∧ d.entry = eh ∧ d.handler = true ∧ d.packs = [a.lanes] ∧ (s'.core core).activations = behind ++ rest
      ∧ (∀ n t h, g.threads[n]? = some t → t.handler = some h → n ∈ a.lanes.map (fun l => l.2) → s'.thread? a.grp n = some { t with cond := .running, addr := eh, held := [], handler := some { h with active := true, savedP := t.p, savedHeld := t.held } })
      ∧ (∀ n, n ∉ a.lanes.map (fun l => l.2) → s'.thread? a.grp n = s.thread? a.grp n) ∧ s'.hbm = s.hbm)
  ∧ (∀ (s : State) (core grp : Nat) (va : Dword) (g : Group) (a pa : Nat), s.group? grp = some g → g.resident = true → g.core = core → va.toNat < 2 ^ 57 → s.speculates g va = true → s.route g.ctx va.toNat .load = .ok (.mem a pa) → s.poisoned pa = false →
    let c := s.core core
    ((∃ x, c.l1Find g.ctx (a / 128) = some x) → exec (.speculativeLoad core grp va) s = .next s)
    ∧ (c.l1Find g.ctx (a / 128) = none → ∃ x, x.ctx = g.ctx ∧ x.line = a / 128 ∧ (∀ i, i < 128 → x.bytes.get i = (s.seen core).get (pa / 128 * 128 + i))
      ∧ exec (.speculativeLoad core grp va) s = .next ({ s with hostFilter := s.hostFilter.filter (fun n => n ≠ pa / 128) }.setCore core { c with l1 := c.l1.drop (c.l1.length + 1 - s.l1Lines core) ++ [x] })))
  ∧ (∀ (s : State) (grp tid : Nat) (g : Group) (t : Thread) (h : HeldWrite), s.group? grp = some g → g.threads[tid]? = some t → t.held = [h] → t.region = none → t.raised = [] → h.tag = none → h.count ≤ 4 →
    (0 < h.left → ∃ s' : State, exec (.longLatencyComplete grp tid 0) s = .next s' ∧ s'.thread? grp tid = some { t with held := [{ h with ready := true }] })
    ∧ (h.left = 0 → ∃ s' : State, exec (.longLatencyComplete grp tid 0) s = .next s' ∧ s'.thread? grp tid = some { (h.more.foldl (fun a e => a.setV e.1 e.2) t).setMany h.reg h.count h.value with held := [] }
      ∧ (s'.group? grp).map (fun x => x.fpflags) = some (g.fpflags ||| h.flags) ∧ s'.hbm = s.hbm))
  ∧ (∀ (s : State) (grp tid q idx : Nat) (g : Group) (t : Thread), s.group? grp = some g → g.threads[tid]? = some t →
    let u : Thread := { t with q := modifyAt t.q q (fun l => modifyAt l idx (fun e => { e with arrived := true })) }
    ∃ s' : State, exec (.ldqDataArrive grp tid q idx) s = .next s' ∧ s'.thread? grp tid = some (if t.cond = .blocked .queue ∧ q ∈ t.queues ∧ (∀ n ∈ t.queues, 0 < poppable (u.queue n)) ∧ (∃ n ∈ t.queues, poppable (t.queue n) < poppable (u.queue n)) then u.waitAt t.addr (s.clock g.core) else u) ∧ s'.hbm = s.hbm)
  ∧ ∀ (s : State) (grp tid : Nat) (g : Group) (t : Thread), s.group? grp = some g → g.resident = true → g.threads[tid]? = some t →
    ∃ s' : State, exec (.napExpire grp tid) s = .next s' ∧ s'.thread? grp tid = some (if t.cond = .blocked .nap ∧ t.since + t.napLeft ≤ s.clock g.core then t.waitAt t.addr (s.clock g.core) else t) ∧ s'.hbm = s.hbm

/-- 06 R127 to R133, R135 to R137: a placement report gives what the cores of each quad in placement have free; a placed gang stands on the cores named, its groups with their parameters at the entry; a dependence holds once every producer's record of the launch says so, and not before; a pre-emption takes the lowest free save slot and halts the gang; a halted gang has no running thread, and a saved one leaves its cores; a saved gang stands again on the cores named, its save slot free, cancelled copies counted, threads held for a page at their instruction again, and RELOC set where a member has moved; a group whose threads have exited retires with its pins, and its event record, KSEQ, GIDX and STATUS, is written. What the rules leave open here is as the assumption log says: logs 2, 7, 21, 26, 40, 49, 98 (the waiting time begins again at a resumption). -/
def Obligations.GangEvents : Prop :=
  (∀ (s : State) (die : Nat), die < 8 → ∃ s' : State, exec (.placementReport die) s = .next s' ∧ s'.hbm = s.hbm ∧ (∀ k, s'.group? k = s.group? k)
    ∧ ∀ q, lookKey q s'.reports = if q / 12 = die then (if s.bar.qout.getLsbD q || s.bar.qgate.getLsbD q then none else some ((List.range 4).map (fun c => s.coreFree (4 * q + c)))) else lookKey q s.reports)
  ∧ (∀ (s : State) (kern gang quad : Nat) (cores : List Nat) (k : Kernel) (g : Gang) (me : Cand),
    let s1 := s.markFirst
    s1.kern? kern = some k → s1.gang? kern gang = some g → g.state = .waiting → k.desc.cor = false → me ∈ s1.cands → (∀ c ∈ s1.cands, c.kn = kern ∧ c.gi = gang → c = me) → me.kn = kern ∧ me.gi = gang →
    let long (c : Cand) : Prop := ∃ x n, s1.gang? c.kn c.gi = some x ∧ x.firstSince = some n ∧ n + 100000 ≤ s1.ns
    cores.length = k.desc.gangSize → distinct cores = cores → (∀ c ∈ cores, c ∈ s1.roomy kern k quad) → (∀ c ∈ s1.cands, long c → c = me) → (long me ∨ ∀ c ∈ s1.cands, c.before me = true → s1.fitsSome c.kn c.gi = false) →
    ∃ (s' : State) (x : Gang), exec (.placeGang kern gang quad cores) s = .next s' ∧ s'.gang? kern gang = some x ∧ x.state = .resident ∧ x.quad = quad ∧ x.members = (List.range k.desc.gangSize).map (fun m => s.nextUid + m)
      ∧ ∀ m, m < k.desc.gangSize → ∃ y, s'.group? (s.nextUid + m) = some y ∧ y.core = 4 * quad + cores.getD m 0 ∧ y.resident = true ∧ y.gidx = gang * k.desc.gangSize + m ∧ y.member = m ∧ y.frame = k.desc.frame
        ∧ y.threads = List.replicate k.desc.threads (Thread.start k.desc.entry k.params (s.clock (4 * quad + cores.getD m 0))))
  ∧ (∀ (d : LaunchDesc) (g p : Nat), p ∈ d.producers g ↔ (d.depKind = 1 ∧ p < d.prodNg) ∨ (d.depKind = 2 ∧ p < d.prodNg ∧ (g : Int) + d.depLo ≤ p ∧ (p : Int) ≤ g + d.depHi))
  ∧ (∀ (s : State) (kern : Nat) (k : Kernel) (g : Gang), s.kern? kern = some k → k.gangs = [g] → g.state = .waiting → g.depOk = false → k.desc.depKind ≠ 0 → k.gathering = false →
    let needs (p : Nat) : Prop := ∃ m, m < k.desc.gangSize ∧ p ∈ k.desc.producers m
    let record (p w : Nat) : Prop := ∃ bs, s.devRead k.ctx (k.desc.prodEvt.toNat + 8 * p) 8 = .ok bs ∧ natOfBytes bs = w
    ((∀ p, needs p → ∃ w, record p w ∧ w / 2 ^ 32 = k.desc.prodKseq.toNat ∧ w % 256 = 0) → ∃ (s' : State) (x : Gang), exec (.dependenceCheck kern) s = .next s' ∧ s'.gang? kern 0 = some x ∧ x.depOk = true ∧ s'.hbm = s.hbm)
    ∧ ((∀ p, needs p → ∃ w, record p w ∧ (w / 2 ^ 32 = k.desc.prodKseq.toNat → w % 256 = 0)) → (∃ p w, needs p ∧ record p w ∧ w / 2 ^ 32 ≠ k.desc.prodKseq.toNat) → ∃ (s' : State) (x : Gang), exec (.dependenceCheck kern) s = .next s' ∧ s'.gang? kern 0 = some x ∧ x.depOk = false ∧ s'.hbm = s.hbm))
  ∧ (∀ (s : State) (kern gang : Nat) (k : Kernel) (g : Gang) (n : Nat), s.kern? kern = some k → s.gang? kern gang = some g → (s.ctx k.ctx).state = .quiescing → g.state = .resident → (∃ m ∈ g.members, ∃ x, s.group? m = some x ∧ x.killed = none) →
    n < (s.ctx k.ctx).nslots → n ∉ (s.ctx k.ctx).slotsUsed → (∀ m, m < n → m ∈ (s.ctx k.ctx).slotsUsed) →
    ∃ (s' : State) (x : Gang), exec (.preemptDecision kern gang) s = .next s' ∧ s'.gang? kern gang = some x ∧ x.state = .halting ∧ x.saveSlot = some n ∧ x.halted = false ∧ (s'.ctx k.ctx).slotsUsed = (s.ctx k.ctx).slotsUsed ++ [n] ∧ s'.hbm = s.hbm)
  ∧ (∀ (s : State) (kern gang : Nat) (g : Gang), s.gang? kern gang = some g → g.state = .halting → g.halted = false → (∀ n ∈ g.members, ∀ x, s.group? n = some x → ∀ t ∈ x.threads, t.committing = false) →
    ∃ (s' : State) (x : Gang), exec (.gangHalted kern gang) s = .next s' ∧ s'.gang? kern gang = some x ∧ x.halted = true ∧ s'.hbm = s.hbm ∧ (∀ n ∈ g.members, ∀ y, s'.group? n = some y → ∀ t ∈ y.threads, t.cond ≠ .running ∧ t.region = none))
  ∧ (∀ (s : State) (kern gang : Nat) (k : Kernel) (g : Gang), s.kern? kern = some k → s.gang? kern gang = some g → (g.state = .saving ∨ g.state = .halting) → g.halted = true → s.gangBusy kern gang g = false → g.saveWait = none → (∀ n ∈ g.members, ∀ x, s.group? n = some x → ∀ e ∈ (s.core x.core).wq, e.grp ≠ n) →
    (s.saveFault k.ctx g .store = none → ∃ (s' : State) (x : Gang), exec (.gangSaved kern gang) s = .next s' ∧ s'.gang? kern gang = some x ∧ x.state = .saved ∧ ∀ n ∈ g.members, ∀ y, s'.group? n = some y → y.resident = false)
    ∧ ((s.saveFault k.ctx g .store).isSome = true → ∃ (s' : State) (x : Gang), exec (.gangSaved kern gang) s = .next s' ∧ s'.gang? kern gang = some x ∧ x.state = g.state ∧ x.saveWait.isSome = true ∧ s'.hbm = s.hbm))
  ∧ (∀ (s : State) (ctx off n i va pa : Nat) (g : Gang) (b : Byte), Mem.wf s.hbm = true → s.route ctx ((s.ctx ctx).saveBase.toNat + g.saveSlot.getD 0 * (s.ctx ctx).slotSize + off) .store = .ok (.mem va pa) → i < n → s.gangByte g (off + i) = some b →
    (s.savePut ctx g off n).hbm.get (pa + i) = b)
  ∧ (∀ (s : State) (kern gang quad : Nat) (cores : List Nat) (k : Kernel) (g : Gang) (me : Cand),
    let s1 := s.markFirst
    let live := g.members.filter (fun n => (s.group? n).isSome)
    s1.kern? kern = some k → s1.gang? kern gang = some g → g.state = .saved → me ∈ s1.cands → (∀ c ∈ s1.cands, c.kn = kern ∧ c.gi = gang → c = me) → me.kn = kern ∧ me.gi = gang →
    let long (c : Cand) : Prop := ∃ x n, s1.gang? c.kn c.gi = some x ∧ x.firstSince = some n ∧ n + 100000 ≤ s1.ns
    let moved : Bool := (live.zip cores).any (fun e => decide ((s.group? e.1).map (fun x => x.core) ≠ some (4 * quad + e.2)))
    cores.length = live.length → live.Nodup → distinct cores = cores → (∀ c ∈ cores, c ∈ s1.roomy kern k quad) → (k.desc.cor = true → quad / 12 = g.quad / 12) → (∀ c ∈ s1.cands, long c → c = me) → (long me ∨ ∀ c ∈ s1.cands, c.before me = true → s1.fitsSome c.kn c.gi = false) →
    s.saveFault k.ctx g .load = none → g.heldCounts = [] → (∀ n ∈ live, ∀ x, s.group? n = some x → ∀ t ∈ x.threads, t.wake = none) → (∀ e ∈ g.cancelled, e.2 ≠ 0xFFFFFFFF) →
    ∃ (s' : State) (x : Gang), exec (.placeGang kern gang quad cores) s = .next s' ∧ s'.gang? kern gang = some x ∧ x.state = .resident ∧ x.quad = quad ∧ x.saveSlot = none ∧ x.cancelled = [] ∧ (∀ n, g.saveSlot = some n → n ∉ (s'.ctx k.ctx).slotsUsed)
      ∧ (∀ ch c, g.chans[ch]? = some c → ∃ c', x.chans[ch]? = some c' ∧ c'.done = c.done + BitVec.ofNat 32 (c.ended + (g.cancelled.filter (fun e => e.1 = ch)).length) ∧ ∀ seq, (ch, seq) ∈ g.cancelled → c'.canFirst ≤ seq ∧ seq ≤ c'.canLast)
      ∧ ∀ m n y, live[m]? = some n → s.group? n = some y → let core := 4 * quad + cores.getD m 0
        (s'.core core).l1 = [] ∧ ∃ y', s'.group? n = some y' ∧ y'.core = core ∧ y'.resident = true ∧ y'.scratch = y.scratch ∧ y'.acc = y.acc ∧ y'.vitrine = y.vitrine ∧ y'.gb = y.gb ∧ y'.fpflags = y.fpflags
          ∧ ∀ i t, y.threads[i]? = some t → let u : Thread := { t with since := s.clock core, reloc := t.reloc || moved }
            s'.thread? n i = some (if t.cond = .blocked .page then u.waitAt t.addr (s.clock core) else u))
  ∧ (∀ (s : State) (grp : Nat) (g : Group) (k : Kernel) (v pa : Nat), s.group? grp = some g → (∀ t ∈ g.threads, t.cond = .exited) → s.groupBusy grp g = false → s.undecided grp g = false → (∀ e ∈ (s.core g.core).wq, e.grp ≠ grp) → (∀ e ∈ s.kernels, e.2.desc.depKind = 0) →
    s.kern? g.kern = some k → k.ctx = g.ctx → k.desc.evAddr ≠ 0 → k.desc.evb = false → k.ended.length + 1 < k.desc.ngroups → g.gidx < 2 ^ 24 → (s.ctx g.ctx).state ≠ .quiescing → (∀ w ∈ s.windows, w.grp ≠ grp) → s.devWrites = [] → Mem.wf s.hbm = true →
    s.route g.ctx (k.desc.evAddr.toNat + 8 * g.gidx) .store = .ok (.mem v pa) →
    let e := s.eventRecord g.kern g.gidx (g.killed.getD 0)
    (∀ j v2 pa2, e.route g.ctx ((s.ctx g.ctx).jaddr j) .store = .ok (.mem v2 pa2) → pa2 + 64 ≤ pa ∨ pa + 8 ≤ pa2) → (∀ j a p, e.walkCtx g.ctx ((s.ctx g.ctx).jaddr j) = .leaf a p → a + 8 ≤ pa ∨ pa + 8 ≤ a) →
    ∃ s' : State, exec (.groupRetire grp) s = .next s' ∧ ∀ i, i < 8 → s'.hbm.get (pa + i) = (bytesOfNat (k.kseq.toNat * 2 ^ 32 + g.gidx * 2 ^ 8 + g.killed.getD 0 % 256) 8).getD i 0)
  ∧ ∀ (s : State) (grp : Nat) (g : Group), s.group? grp = some g → (∀ t ∈ g.threads, t.cond = .exited) → s.groupBusy grp g = false → s.undecided grp g = false → (∀ e ∈ (s.core g.core).wq, e.grp ≠ grp) → (∀ e ∈ s.kernels, e.2.desc.depKind = 0) →
    ∃ s' : State, exec (.groupRetire grp) s = .next s' ∧ s'.group? grp = none ∧ (∀ p ∈ s'.pins, p.grp ≠ grp) ∧ (∀ w ∈ s'.windows, w.grp ≠ grp)

/-- 04 R91 to R98: a context command that reaches the device through CTXCMD once bring-up is over: its errors in order, the state it leads to, and CTXSTAT, BUSY while a RESUME waits for a queue's control block; CREATE takes the fields of the descriptor, SETRIGHTS the rights, with breakpoints and watchpoints gone where DEBUG goes, and the end of a teardown frees the number with all the context held. What the rules leave open here is as the assumption log says: logs 2, 23, 24, 35, 52, 82 (CTXSTAT after a discarded write), 83 (ERR 3 before ERR 4). -/
def Obligations.ContextEvents : Prop :=
  let up (s : State) : Prop := s.powered = true ∧ s.linkUp 0 = true ∧ s.tripped = false ∧ s.boot ≠ 1
  let ready (s : State) (w : Dword) (op : Nat) : Prop := up s ∧ 6 ≤ s.boot ∧ s.bar.ctxBusy = [] ∧ w.toNat / 2 ^ 20 = 0 ∧ w.toNat / 2 ^ 12 % 16 = 0 ∧ w.toNat / 2 ^ 8 % 16 = op
  let err (s : State) (e : Nat) (w : Dword) : State := { (s.wakePort 0) with bar := { s.bar with ctxErr := e, ctxLast := w.toNat % 256, ctxAt := putKey (w.toNat % 256) s.plinth s.bar.ctxAt } }
  let word (s : State) (k : Nat) : Nat := (s.hostDword (s.bar.ctxdesc.toNat + 8 * k)).toNat
  (∀ (s : State) (w : Dword) (i : Instr), i ∈ [.create w, .activate w, .quiesce w, .resume w, .destroy w] ∨ i = .setrights w → up s →
    (s.boot < 6 ∨ s.bar.ctxBusy ≠ [] → exec i s = .next { (s.wakePort 0) with bar := { s.bar with ctxErr := 2 } })
    ∧ (6 ≤ s.boot → s.bar.ctxBusy = [] → (w.toNat / 2 ^ 20 ≠ 0 ∨ w.toNat / 2 ^ 12 % 16 ≠ 0 ∨ w.toNat / 2 ^ 8 % 16 = 0 ∨ 6 < w.toNat / 2 ^ 8 % 16) → exec i s = .next { (s.wakePort 0) with bar := { s.bar with ctxErr := 5 } }))
  ∧ (∀ (s : State) (w : Dword), let c := w.toNat % 256; let x := s.ctx c;
    (ready s w 1 → x.state ≠ .empty → exec (.create w) s = .next (err s 1 w))
    ∧ (ready s w 1 → x.state = .empty → descriptorOk (word (s.wakePort 0)) = false → exec (.create w) s = .next (err s 3 w))
    ∧ (ready s w 1 → x.state = .empty → descriptorOk (word (s.wakePort 0)) = true → (word (s.wakePort 0) 0).testBit 8 = true → (word (s.wakePort 0) 0).testBit 19 = false → exec (.create w) s = .next (err s 4 w))
    ∧ (ready s w 1 → x.state = .empty → descriptorOk (word (s.wakePort 0)) = true → ((word (s.wakePort 0) 0).testBit 8 = true → (word (s.wakePort 0) 0).testBit 19 = true) →
      let d := word (s.wakePort 0)
      ∃ (s' : State) (y : Ctx), exec (.create w) s = .next s' ∧ s'.ctx c = y ∧ s'.bar.ctxErr = 0 ∧ s'.bar.ctxLast = c ∧ y.state = .created ∧ y.desc = s.bar.ctxdesc ∧ y.rights.toNat = d 0 / 2 ^ 16 % 16 ∧ y.maint = (d 0).testBit 8
        ∧ y.prioCap = d 0 / 2 ^ 24 ∧ y.ptroot.toNat = d 1 ∧ y.saveBase.toNat = d 2 ∧ y.slotSize = d 3 % 2 ^ 32 ∧ y.nslots = d 3 / 2 ^ 32 ∧ y.ltBase.toNat = d 4 ∧ y.bindBase.toNat = d 5 ∧ y.jbase.toNat = d 6 ∧ y.jlog = d 7 / 2 ^ 32
        ∧ y.fbase.toNat = d 10 ∧ y.flog = d 11 / 2 ^ 32 ∧ y.ehAddr.toNat = d 14 ∧ y.cpolicy.toNat = d 15 ∧ y.jprod = 0 ∧ y.fprod = 0 ∧ y.fdrop = 0 ∧ y.progress = 0 ∧ y.kseqNext = 1 ∧ y.journal = [] ∧ y.faults = [])
    ∧ (ready s w 2 → x.state = .created → exec (.activate w) s = .next ((err s 0 w).setCtx c { x with state := .active }))
    ∧ (ready s w 2 → x.state ≠ .created → exec (.activate w) s = .next (err s 1 w))
    ∧ (ready s w 3 → x.state ≠ .active → exec (.quiesce w) s = .next (err s 1 w))
    ∧ (ready s w 3 → x.state = .active → ∃ s' : State, exec (.quiesce w) s = .next s' ∧ s'.bar.ctxErr = 0 ∧ s'.bar.ctxLast = c ∧ ((s'.ctx c).state = .quiescing ∨ (s'.ctx c).state = .suspended) ∧ ((∀ e ∈ s.kernels, e.2.ctx ≠ c) → (s'.ctx c).state = .suspended))
    ∧ (ready s w 4 → x.state ≠ .suspended → exec (.resume w) s = .next (err s 1 w))
    ∧ (ready s w 4 → x.state = .suspended → ∃ s' : State, exec (.resume w) s = .next s' ∧ s'.bar.ctxErr = 0 ∧ s'.bar.ctxLast = c ∧ (s'.ctx c).state = .active
      ∧ ∀ k, k ∈ s'.bar.ctxBusy ↔ k < 256 ∧ (∃ q, (k, q) ∈ s.slots ∧ q.ctx = c ∧ q.state = .suspended) ∧ ∃ q, s'.slot? k = some q ∧ q.wait.isSome = true)
    ∧ (ready s w 5 → x.state ∉ [.created, .suspended, .faulted] → exec (.destroy w) s = .next (err s 1 w))
    ∧ (ready s w 5 → x.state ∈ [.created, .suspended, .faulted] → ∃ s' : State, exec (.destroy w) s = .next s' ∧ s'.bar.ctxErr = 0 ∧ s'.bar.ctxLast = c ∧ (s'.ctx c).state = .destroying)
    ∧ (∀ r : BitVec 4, up s → 6 ≤ s.boot → s.bar.ctxBusy = [] → w.toNat = r.toNat * 2 ^ 16 + 6 * 2 ^ 8 + c →
      (x.state ∈ [.empty, .destroying] → exec (.setrights w) s = .next (err s 1 w))
      ∧ (x.state ∉ [.empty, .destroying] → x.maint = true → r.getLsbD 3 = false → exec (.setrights w) s = .next (err s 4 w))
      ∧ (x.state ∉ [.empty, .destroying] → (x.maint = true → r.getLsbD 3 = true) → (x.debug = false ∨ r.getLsbD 0 = true) → exec (.setrights w) s = .next ((err s 0 w).setCtx c { x with rights := r }))
      ∧ (x.state ∉ [.empty, .destroying] → (x.maint = true → r.getLsbD 3 = true) → x.debug = true → r.getLsbD 0 = false →
        ∃ s' : State, exec (.setrights w) s = .next s' ∧ s'.bar.ctxErr = 0 ∧ (s'.ctx c).rights = r ∧ (s'.ctx c).bps = List.replicate 8 none ∧ (s'.ctx c).wps = List.replicate 4 none)))
  ∧ ∀ (s : State) (c : Nat),
    let busy := (∃ g ∈ s.groups, g.2.ctx = c) ∨ (∃ k ∈ s.kernels, k.2.ctx = c) ∨ (∃ q ∈ s.slots, q.2.ctx = c) ∨ (∃ w ∈ s.devWrites, w.ctx = c) ∨ (s.ctx c).faults ≠ [] ∨ (∃ j ∈ s.jobs, j.ctx = c ∧ j.op ≠ .hold) ∨ ∃ k n a, s.bar.mapWait = some (k, c, n, a)
    ((s.ctx c).state ≠ .destroying ∨ busy → exec (.teardownComplete c) s = .next s)
    ∧ ((s.ctx c).state = .destroying → ¬busy → ∃ s' : State, exec (.teardownComplete c) s = .next s' ∧ (s'.ctx c).state = .empty ∧ (∀ w ∈ s'.windows, w.ctx ≠ c) ∧ (∀ p ∈ s'.pins, p.ctx ≠ c) ∧ (∀ p ∈ s'.pend, p.ctx ≠ c) ∧ (∀ j ∈ s'.jobs, j.ctx ≠ c) ∧ (∀ u ∈ s'.unseen, u.ctx ≠ c) ∧ (∀ f ∈ s'.frames, f.2.ctx ≠ c) ∧ (∀ k ∈ s'.cores, ∀ x ∈ k.2.l1, x.ctx ≠ c))

/-- 04 R100 to R102; 16 R357: the policies are consulted from the fault's level upwards, an unset one and a spent RETRY passing to the level above, and the context's kill standing at the end; a decided fault leaves its context's list, IGNORE lets its thread go on at the next address, RETRY replays the instruction with the count raised, and a kill at group level ends the group with the cause as its status. A record with ROUTE 3 is not decided, and none is in a plinth cycle in which a host command to the context was applied: it would have come first (R94); nor in one in which a group of the context has retired: of the two the kill would have stood (06 R133). What the rules leave open here is as the assumption log says: logs 2, 30, 51, 59, 95. -/
def Obligations.Containment : Prop :=
  (∀ (field : Nat → Nat) (spent engine : Bool) (level : Nat), level ≤ 4 →
    let passes (j : Nat) : Prop := field j = 0 ∨ (field j = 2 ∧ engine = false ∧ spent = true)
    let v := verdict field spent engine (5 - level) level
    ((∀ j, level ≤ j → j ≤ 4 → passes j) → v = .kill 4)
    ∧ ∀ m, level ≤ m → m ≤ 4 → (∀ j, level ≤ j → j < m → passes j) →
      (field m = 1 ∨ field m = 2 ∧ engine = true → v = .ignore) ∧ (field m = 2 → engine = false → spent = false → v = .retry) ∧ (field m = 3 → v = .kill m) ∧ (field m = 4 → v = .kill (min (m + 1) 4)))
  ∧ ∀ (s : State) (c : Nat) (f : ContFault) (rest : List ContFault), (s.ctx c).faults = f :: rest → s.hostReach ((s.ctx c).desc.toNat + 0x68) = true →
    let later := lookKey c s.bar.ctxAt = some s.plinth ∨ ∃ k ∈ s.kernels, k.2.ctx = c ∧ ∃ g ∈ k.2.gangs, g.retiredAt = some s.plinth
    (later → exec (.containmentDecision c) s = .next s)
    ∧ (¬later → f.record.route = 3 → ∃ s' : State, exec (.containmentDecision c) s = .next s' ∧ (s'.ctx c).faults = rest ∧ ∀ k n, s'.thread? k n = s.thread? k n)
    ∧ ∀ (gid n : Nat) (g : Group) (t : Thread), ¬later → f.record.route ≠ 3 → f.dead = false → f.grp = some gid → s.group? gid = some g → g.killed = none → f.tids = [n] → f.record.first = n → g.threads[n]? = some t → t.cond = .blocked .contain →
      let count := if t.retryAt = f.record.instAddr then t.retry else 0
      let v := verdict (s.policyField c f) (decide (3 ≤ count)) f.engine (5 - f.level) f.level
      let now := s.clock g.core
      (v = .ignore → ∃ s' : State, exec (.containmentDecision c) s = .next s' ∧ (s'.ctx c).faults = rest ∧ s'.thread? gid n = some (t.waitAt (if f.after then t.addr else f.record.instAddr + 8) now))
      ∧ (v = .retry → ∃ s' : State, exec (.containmentDecision c) s = .next s' ∧ (s'.ctx c).faults = rest ∧ s'.thread? gid n = some ({ t with retry := count + 1, retryAt := f.record.instAddr }.waitAt t.addr now))
      ∧ (v = .kill 0 → ∃ (s' : State) (x : Group), exec (.containmentDecision c) s = .next s' ∧ (s'.ctx c).faults = rest ∧ s'.group? gid = some x ∧ x.killed = some f.record.cause ∧ ∀ u ∈ x.threads, u.cond = .exited ∧ u.region = none)

/-- 05 R106 to R115: a slot command's errors in order and its effect; MAP binds the queue of a control block that passes its tests, UNMAP unmaps or drains, RESET leaves ERROR; a notify of a mapped queue reads PROD again, one of a SUSPENDED or ERROR queue evaluates its running waits alone, one of a free slot is discarded; with PROD equal to CONS a queue is MAPPED, else STALLED under a stall condition of R111, else ACTIVE, after MAP, RESET and a notify too; an unmap signals NVEC exactly where PENDNOTIFY is set, a notify came in its plinth cycle, or PROD, read again, is not CONS (R113, R114), and an UNMAP in the plinth cycle of an acceptance begins in the next; an idle queue is unmapped. What the rules leave open here is as the assumption log says: logs 2, 35, 39, 52, 82 (QSLOTSTAT after a discarded write), 84 (the checks of MAP), 90, 91 (idle time). -/
def Obligations.SlotEvents : Prop :=
  let up (s : State) : Prop := s.powered = true ∧ s.linkUp 0 = true ∧ s.tripped = false ∧ s.boot ≠ 1
  let ready (s : State) (w : Dword) (op : Nat) : Prop := up s ∧ 6 ≤ s.boot ∧ s.slotBusy = false ∧ w.toNat / 2 ^ 24 = 0 ∧ w.toNat / 2 ^ 12 % 16 = 0 ∧ w.toNat / 2 ^ 8 % 16 = op
  let err (s : State) (e : Nat) (w : Dword) : State := { (s.wakePort 0) with bar := { s.bar with qErr := e, qLast := w.toNat % 256 } }
  let noted (s : State) (q : QSlot) : QSlot := { q with notedAt := some s.plinth }
  (∀ (s : State) (w : Dword) (i : Instr), i ∈ [.qslotMap w, .qslotUnmap w, .qslotReset w] → up s →
    (s.boot < 6 ∨ s.slotBusy = true → exec i s = .next { (s.wakePort 0) with bar := { s.bar with qErr := 2 } })
    ∧ (6 ≤ s.boot → s.slotBusy = false → (w.toNat / 2 ^ 24 ≠ 0 ∨ w.toNat / 2 ^ 12 % 16 ≠ 0 ∨ w.toNat / 2 ^ 8 % 16 = 0 ∨ 3 < w.toNat / 2 ^ 8 % 16) → exec i s = .next { (s.wakePort 0) with bar := { s.bar with qErr := 5 } }))
  ∧ (∀ (s : State) (w : Dword), ready s w 1 →
    let k := w.toNat % 256
    let c := w.toNat / 2 ^ 16 % 256
    let a := s.bar.qslotaddr
    ((∃ q, s.slot? k = some q) → exec (.qslotMap w) s = .next (err s 1 w))
    ∧ (s.slot? k = none → (s.ctx c).state ∉ [.active, .suspended] → exec (.qslotMap w) s = .next (err s 4 w))
    ∧ ∀ l, s.slot? k = none → (s.ctx c).state ∈ [.active, .suspended] → s.route c a.toNat .store = .ok l →
      let d (i : Nat) : Nat := natOfBytes (s.currentBytes (l.add (8 * i)) 8)
      let held := (d 8).testBit 7 = true ∨ ∃ e ∈ s.slots, e.1 < 256 ∧ e.2.ctx = c ∧ e.2.qcb = a
      (qcbOk d c (s.ctx c).prioCap = false ∨ held → exec (.qslotMap w) s = .next (err s 3 w))
      ∧ (qcbOk d c (s.ctx c).prioCap = true → ¬held → ∃ (s' : State) (q : QSlot), exec (.qslotMap w) s = .next s' ∧ s'.slot? k = some q ∧ s'.bar.qErr = 0 ∧ s'.bar.qLast = k ∧ q.ctx = c ∧ q.qcb = a ∧ q.rbase.toNat = d 1 ∧ q.rlog = d 0 / 2 ^ 16 % 32 ∧ q.prio = d 0 / 2 ^ 24 % 32
        ∧ q.prod.toNat = d 2 ∧ q.cons.toNat = d 3 ∧ q.errcode = 0 ∧ ((s.ctx c).state = .suspended → q.state = .suspended) ∧ ((s.ctx c).state = .active → q.state ∈ [.mapped, .active, .stalled] ∧ ∃ (e : State) (q0 : QSlot), e.slot? k = some q0 ∧ q0.state = .mapped ∧ q0.prod.toNat = d 2 ∧ q0.cons.toNat = d 3 ∧ s'.slot? k = (e.settle k).slot? k)))
  ∧ (∀ (s : State) (w : Dword) (q : QSlot), ready s w 2 → s.slot? (w.toNat % 256) = some q →
    (q.acceptedAt = some s.plinth → ∃ s' : State, exec (.qslotUnmap w) s = .next s' ∧ s'.plinth = s.plinth + 1)
    ∧ (q.acceptedAt ≠ some s.plinth → q.state ∈ [.mapped, .active, .stalled, .suspended, .error] → q.cmds = [] → (q.gone = true ∨ q.wait = none ∧ ∃ l, s.qcbLoc q = .ok l) → ∃ s' : State, exec (.qslotUnmap w) s = .next s' ∧ s'.slot? (w.toNat % 256) = none ∧ s'.bar.qErr = 0)
    ∧ (q.acceptedAt ≠ some s.plinth → q.state ∈ [.mapped, .active, .stalled] → q.cmds ≠ [] → ∃ (s' : State) (q' : QSlot), exec (.qslotUnmap w) s = .next s' ∧ s'.slot? (w.toNat % 256) = some q' ∧ q'.state = .draining ∧ q'.cmds = q.cmds ∧ s'.bar.qErr = 0)
    ∧ (q.acceptedAt ≠ some s.plinth → q.state = .draining ∨ q.state = .suspended ∧ q.cmds ≠ [] → exec (.qslotUnmap w) s = .next (err s 1 w)))
  ∧ (∀ (s : State) (w : Dword) (q : QSlot), ready s w 3 → s.slot? (w.toNat % 256) = some q →
    (q.state ≠ .error ∨ (s.ctx q.ctx).state ≠ .active → exec (.qslotReset w) s = .next (err s 1 w))
    ∧ (q.state = .error → (s.ctx q.ctx).state = .active → ∃ (s' : State) (q' : QSlot), exec (.qslotReset w) s = .next s' ∧ s'.slot? (w.toNat % 256) = some q' ∧ q'.state ∈ [.mapped, .active, .stalled] ∧ q'.errcode = 0 ∧ q'.cmds = q.cmds ∧ s'.bar.qErr = 0
      ∧ ∀ bs, q.wait = none → s.devRead q.ctx (q.qcb.toNat + 0x10) 8 = .ok bs → ∃ (e : State) (q0 : QSlot), e.slot? (w.toNat % 256) = some q0 ∧ q0.state = .mapped ∧ q0.prod.toNat = natOfBytes bs ∧ q0.cons = q.cons ∧ s'.slot? (w.toNat % 256) = (e.settle (w.toNat % 256)).slot? (w.toNat % 256)))
  ∧ (∀ (s : State) (w : Dword) (i : Instr), (i = .qslotUnmap w ∧ ready s w 2) ∨ (i = .qslotReset w ∧ ready s w 3) → s.slot? (w.toNat % 256) = none → exec i s = .next (err s 1 w))
  ∧ (∀ (s : State) (k : Nat) (q : QSlot), up s → k < 256 → s.slot? k = some q →
    (q.state = .suspended ∨ q.state = .error → exec (.qnotify k) s = .next (((s.wakePort 0).setSlot k (noted s q)).waitsEval k))
    ∧ (∀ bs, q.state ∈ [.mapped, .active, .stalled] → q.cmds = [] → q.gone = false → q.wait = none → s.devRead q.ctx (q.qcb.toNat + 0x10) 8 = .ok bs → ∃ (s' : State) (q' : QSlot), exec (.qnotify k) s = .next s' ∧ s'.slot? k = some q' ∧ q'.prod.toNat = natOfBytes bs ∧ q'.cons = q.cons
      ∧ s' = (((s.wakePort 0).setSlot k (noted s q)).setSlot k { noted s q with prod := BitVec.ofNat 64 (natOfBytes bs), reread := false }).settle k))
  ∧ (∀ (s : State) (k : Nat) (q : QSlot), s.slot? k = some q → q.wait = none → q.state ∈ [.mapped, .active, .stalled] →
    let at_ := (s.ctx q.ctx).desc.toNat + 0x48
    let head := (s.wakeHost at_).devRead q.ctx (q.rbase.toNat + q.cons.toNat % 2 ^ q.rlog * 64) 64
    let full := ((s.ctx q.ctx).jprod - s.jcons q.ctx).toNat = 2 ^ (s.ctx q.ctx).jlog
    (q.prod = q.cons → ∃ q', (s.settle k).slot? k = some q' ∧ q'.state = .mapped)
    ∧ (q.prod ≠ q.cons → s.hostReach at_ = false → s.settle k = s)
    ∧ ∀ bs, q.prod ≠ q.cons → s.hostReach at_ = true → head = .ok bs →
      let w := natOfBytes (bs.take 8)
      let stall := full ∨ 64 ≤ q.cmds.length ∨ (w / 2 ^ 8 % 2 = 1 ∨ w % 256 = 4) ∧ q.cmds ≠ [] ∨ (∃ c ∈ q.cmds, c.running = true ∧ (c.type = 2 ∨ c.type = 3)) ∨ q.hwait.isSome = true
      ∃ q', (s.settle k).slot? k = some q' ∧ (stall → q'.state = .stalled) ∧ (¬stall → q'.state = .active))
  ∧ (∀ (s : State) (k : Nat), up s → k < 256 → s.slot? k = none → (∀ u ∈ s.unmaps, u.cycle = s.plinth → u.slot ≠ k) → exec (.qnotify k) s = .next (s.wakePort 0))
  ∧ (∀ (s : State) (k : Nat) (q : QSlot) (l : Loc), k < 256 → s.slot? k = some q → q.errcode < 8 → q.gone = false → q.wait = none → s.qcbLoc q = .ok l →
    let at_ (n : Nat) : Nat := natOfBytes (s.currentBytes (l.add n) 8)
    (s.unmap k).slot? k = none ∧ ∃ u ∈ (s.unmap k).unmaps, u.slot = k ∧ u.cycle = s.plinth ∧ (u.told = true ↔ q.nvec ≠ 0xFFFF ∧ (q.pendNotify = true ∨ q.unmapping = false ∧ q.notedAt = some s.plinth ∨ (at_ 0x40).testBit 6 = true ∨ at_ 0x10 ≠ q.cons.toNat)))
  ∧ ∀ (s : State) (k : Nat) (q : QSlot), k < 256 → s.slot? k = some q → q.state = .mapped → q.cmds = [] → q.wait = none →
    (q.idleUnmap = 0 ∨ s.ns < q.idleSince + 1000 * q.idleUnmap → exec (.idleUnmap k) s = .next s)
    ∧ (q.idleUnmap ≠ 0 → q.idleSince + 1000 * q.idleUnmap ≤ s.ns → q.gone = true ∨ (∃ l, s.qcbLoc q = .ok l) → ∃ s' : State, exec (.idleUnmap k) s = .next s' ∧ s'.slot? k = none)

/-- 05 R110, R111, R116 to R119; 06 R123 to R125: the queue that arbitration chooses accepts its head packet: CONS passes it and the command is outstanding, or, for a NOP, an invalid packet or a rejected descriptor, ended; an accepted LAUNCH makes a kernel with the next KSEQ; a wait ends when its test holds, or FAILED at its time limit; a SIGNAL writes its word by its operation and ends; what is left of a queue unmapped in ERROR runs on. A LAUNCH is rejected where its descriptor breaks one of the conditions 1 to 8 of R125, and read with its parameters otherwise; while a page of either is away it waits. What the rules leave open here is as the assumption log says: logs 2, 28, 39, 80 (CONS passes an invalid packet). -/
def Obligations.PacketEvents : Prop :=
  let head (s : State) (k : Nat) (s1 : State) (q : QSlot) (p : BitVec 512) (type : Nat) : Prop :=
    s1 = s.settle k ∧ s1.winner = some k ∧ s1.slot? k = some q ∧ s1.headPacket q = .ok p ∧ (∀ c ∈ q.cmds, c.seq ≠ q.cons) ∧ p.toNat % 256 = type
  let bad (p : BitVec 512) : Prop := packetOk p = false
  (∀ (s s1 : State) (k : Nat) (q : QSlot) (p : BitVec 512), head s k s1 q p 0 → ¬bad p → ∃ (s' : State) (q' : QSlot), exec (.nopPacket k) s = .next s' ∧ s'.slot? k = some q' ∧ q'.cons = q.cons + 1 ∧ q'.cmds = q.cmds ∧ lookKey q.prio s'.lastAccept = some k)
  ∧ (∀ (s s1 : State) (k : Nat) (q : QSlot) (p : BitVec 512), head s k s1 q p (p.toNat % 256) → bad p → (∀ c ∈ q.cmds, c.running = true) → ∃ (s' : State) (q' : QSlot), exec (.invalidPacket k) s = .next s' ∧ s'.slot? k = some q' ∧ q'.cons = q.cons + 1 ∧ q'.state = .error ∧ q'.errcode = 1)
  ∧ (∀ (s s1 : State) (k : Nat) (q : QSlot) (p : BitVec 512), head s k s1 q p 4 → ¬bad p → q.state = .active →
    ∃ (s' : State) (q' : QSlot) (c : Cmd), exec (.signal k) s = .next s' ∧ s'.slot? k = some q' ∧ q'.cons = q.cons + 1 ∧ q'.cmds = q.cmds ++ [c] ∧ c.seq = q.cons ∧ c.type = 4 ∧ c.running = true ∧ c.packet = p ∧ c.onfail = p.getLsbD 9)
  ∧ (∀ (s s1 : State) (k : Nat) (q : QSlot) (p : BitVec 512) (i : Instr), (i = .waitmem k ∧ head s k s1 q p 2) ∨ (i = .waitcmd k ∧ head s k s1 q p 3 ∧ ∃ bs, s1.devRead q.ctx (p.toNat / 2 ^ 64 % 2 ^ 64) 8 = .ok bs ∧ natOfBytes bs / 2 ^ 32 % 256 = q.ctx) → ¬bad p → q.state = .active →
    ∃ (s' : State) (q' : QSlot), exec i s = .next s' ∧ s'.slot? k = some q' ∧ q'.cons = q.cons + 1 ∧ (q'.cmds = q.cmds ∨ ∃ c, q'.cmds = q.cmds ++ [c] ∧ c.seq = q.cons ∧ c.type = p.toNat % 256 ∧ c.running = true ∧ c.packet = p
      ∧ (let us := p.toNat / 2 ^ (if p.toNat % 256 = 2 then 64 * 4 + 32 else 64 * 3 + 32) % 2 ^ 32; c.deadline = if us = 0 then none else some (s1.ns + 1000 * us))))
  ∧ (∀ (s s1 : State) (k : Nat) (q : QSlot) (p : BitVec 512), head s k s1 q p 1 → ¬bad p → q.state = .active →
    (∀ d params, s1.launchRead q p = .pass d params → d.depKind = 0 →
      ∃ (s' : State) (q' : QSlot) (x : Kernel) (c : Cmd), exec (.launchPacket k) s = .next s' ∧ s'.kern? s1.nextUid = some x ∧ x.desc = d ∧ x.params = params ∧ x.ctx = q.ctx ∧ x.prio = q.prio ∧ x.kseq = (s1.ctx q.ctx).kseqNext ∧ x.state = .accepted ∧ x.gangs.length = d.ngroups / d.gangSize
        ∧ s'.slot? k = some q' ∧ q'.cons = q.cons + 1 ∧ q'.cmds = q.cmds ++ [c] ∧ c.seq = q.cons ∧ c.type = 1 ∧ c.running = false ∧ c.kern = some s1.nextUid
        ∧ (s'.ctx q.ctx).kseqNext = (if (s1.ctx q.ctx).kseqNext = 0xFFFFFFFF then 1 else (s1.ctx q.ctx).kseqNext + 1))
    ∧ (s1.launchRead q p = .reject → p.getLsbD 9 = false → ∃ (s' : State) (q' : QSlot), exec (.launchPacket k) s = .next s' ∧ s'.slot? k = some q' ∧ q'.cons = q.cons + 1 ∧ q'.cmds = q.cmds ∧ (s'.ctx q.ctx).kseqNext = (s1.ctx q.ctx).kseqNext))
  ∧ (∀ (s : State) (q : QSlot) (p : BitVec 512),
    let reads (va n : Nat) := s.devReadAll q.ctx va n
    (∀ va f, reads (p.toNat / 2 ^ 64 % 2 ^ 64) 128 = .error (va, f) → s.launchRead q p = if q.lost then .reject else .wait va f)
    ∧ ∀ bs, reads (p.toNat / 2 ^ 64 % 2 ^ 64) 128 = .ok bs →
      let raw (k : Nat) : Nat := natOfBytes ((bs.drop (8 * k)).take 8)
      let fld (k hi lo : Nat) : Nat := raw k / 2 ^ lo % 2 ^ (hi - lo + 1)
      let frame := 32 * fld 0 53 48 * ((fld 2 42 32 + 31) / 32) * 128
      let scratch := 4096 * fld 2 55 48
      let up (n m : Nat) : Nat := (n + m - 1) / m * m
      let image := up (4096 + fld 0 18 16 * up (4096 + frame + scratch + 16384 * fld 0 22 20 + 4096 * fld 0 41 32 + 1024 * fld 2 42 32) 4096) 65536
      let fits (n : Nat) : Prop := n ≤ 8 ∧ n * fld 2 42 32 ≤ 2048 ∧ n * (frame + scratch) ≤ 720896 ∧ n * scratch ≤ 524288 ∧ n * fld 0 22 20 ≤ 16 ∧ n * fld 0 41 32 ≤ 512
      let quads := ((List.range Config.quads).filter (fun x => s.inPlacement x)).length
      let reserved := fld 0 63 54 ≠ 0 ∨ fld 0 47 42 ≠ 0 ∨ fld 0 31 30 ≠ 0 ∨ fld 0 23 23 ≠ 0 ∨ fld 0 19 19 ≠ 0 ∨ fld 0 15 14 ≠ 0 ∨ fld 2 63 56 ≠ 0 ∨ fld 2 47 43 ≠ 0 ∨ fld 2 31 24 ≠ 0 ∨ fld 7 63 60 ≠ 0 ∨ fld 7 31 28 ≠ 0 ∨ fld 8 63 28 ≠ 0 ∨ fld 10 63 56 ≠ 0 ∨ raw 12 ≠ 0 ∨ raw 13 ≠ 0 ∨ raw 14 ≠ 0 ∨ raw 15 ≠ 0
      let range := fld 0 7 0 ≠ 1 ∨ fld 0 53 48 = 0 ∨ 48 < fld 0 53 48 ∨ 512 < fld 0 41 32 ∨ 32 < fld 0 29 24 ∨ 4 < fld 0 22 20 ∨ fld 0 18 16 = 0 ∨ 4 < fld 0 18 16 ∨ fld 0 13 12 = 3 ∨ 128 < fld 2 55 48 ∨ fld 2 42 32 = 0 ∨ 1024 < fld 2 42 32 ∨ fld 2 23 0 = 0 ∨ fld 5 31 0 % 64 ≠ 0 ∨ fld 0 13 12 ≠ 0 ∧ fld 10 55 32 = 0
      let misaligned := fld 2 23 0 % fld 0 18 16 ≠ 0 ∨ raw 1 % 8 ≠ 0 ∨ raw 3 % 4 ≠ 0 ∨ raw 4 % 64 ≠ 0 ∨ raw 6 % 8 ≠ 0
      let dependence := fld 0 13 12 ≠ 0 ∧ (let n := ((s.ctx q.ctx).kseqNext - BitVec.ofNat 32 (raw 10)).toNat; n = 0 ∨ 2 ^ 31 ≤ n) ∨ fld 0 13 12 = 2 ∧ (BitVec.ofNat 32 (raw 11 / 2 ^ 32)).toInt < (BitVec.ofNat 32 (raw 11)).toInt
      let crowded := fld 0 8 8 = 1 ∧ ∀ n, fits n → quads * (4 * n / fld 0 18 16) < fld 2 23 0 / fld 0 18 16
      let broken := reserved ∨ range ∨ misaligned ∨ 720896 < frame + scratch ∨ (s.ctx q.ctx).slotSize < image ∨ (fld 0 9 9 = 1 ∧ fld 0 8 8 = 0) ∨ dependence ∨ crowded
      (broken → s.launchRead q p = .reject)
      ∧ (¬broken → (fld 0 29 24 = 0 → s.launchRead q p = .pass (LaunchDesc.ofDwords raw) [])
        ∧ ∀ r, fld 0 29 24 ≠ 0 → reads (raw 3) (4 * fld 0 29 24) = r → match r with
          | .ok ps => s.launchRead q p = .pass (LaunchDesc.ofDwords raw) ((List.range (fld 0 29 24)).map (fun i => BitVec.ofNat 32 (natOfBytes ((ps.drop (4 * i)).take 4))))
          | .error (va, f) => s.launchRead q p = if q.lost then .reject else .wait va f))
  ∧ (∀ (s : State) (k : Nat) (q : QSlot) (c : Cmd), s.slot? k = some q → 256 ≤ k → q.state = .unmapped → q.cmds = [c] → c.running = true → c.type = 2 ∨ c.type = 3 →
    ∀ n, c.deadline = some n → n ≤ s.ns → ∃ s' : State, exec (.waitTimeout k) s = .next s' ∧ ∀ q', s'.slot? k = some q' → q'.cmds = [])
  ∧ (∀ (s : State) (k : Nat) (q : QSlot) (c : Cmd) (bs : List Byte), s.slot? k = some q → (k < 256 ∧ q.state ∈ [.mapped, .active, .stalled]) ∨ (256 ≤ k ∧ q.state = .unmapped) → q.cmds = [c] → c.running = true → c.type = 2 ∨ c.type = 3 → c.wait = none → c.lost = false →
    let fld (n : Nat) : Nat := c.packet.toNat / 2 ^ (64 * n) % 2 ^ 64
    s.devRead q.ctx (if c.type = 2 then fld 1 else fld 1 + 0x48) 8 = .ok bs →
    let x := natOfBytes bs
    let y := x &&& fld 3
    let holds := if c.type = 2 then (if fld 4 % 4 = 0 then fld 2 ≤ y else if fld 4 % 4 = 1 then y = fld 2 else y ≠ fld 2) else fld 2 < x
    (¬holds → exec (.waitEvaluate k) s = .next s) ∧ (holds → ∃ s' : State, exec (.waitEvaluate k) s = .next s' ∧ (k < 256 → s'.slot? k ≠ none) ∧ ∀ q', s'.slot? k = some q' → q'.cmds = []))
  ∧ (∀ (s : State) (k : Nat) (q : QSlot) (c : Cmd), s.slot? k = some q → k < 256 → q.state ∈ [.mapped, .active, .stalled] → q.cmds = [c] → c.running = true → c.type = 2 ∨ c.type = 3 →
    (∀ n, c.deadline = some n → s.ns < n) → exec (.waitTimeout k) s = .next s)
  ∧ (∀ (s : State) (k n : Nat) (q : QSlot) (c : Cmd), s.slot? k = some q → k < 256 → q.state ∈ [.mapped, .active, .stalled] → q.cmds = [c] → c.running = true → c.type = 2 ∨ c.type = 3 → q.unmapping = false → c.deadline = some n → n ≤ s.ns →
    ∃ (s' : State) (q' : QSlot), exec (.waitTimeout k) s = .next s' ∧ s'.slot? k = some q' ∧ q'.cmds = [] ∧ (c.onfail = true → q'.state = .error ∧ q'.errcode = 3) ∧ (c.onfail = false → q'.state ≠ .error))
  ∧ ∀ (s : State) (k : Nat) (q : QSlot) (c : Cmd) (l : Loc), s.slot? k = some q → k < 256 → q.state ∈ [.mapped, .active, .stalled] → q.cmds = [c] → c.running = true → c.type = 4 → c.wait = none → c.lost = false →
    let fld (n : Nat) : Nat := c.packet.toNat / 2 ^ (64 * n) % 2 ^ 64
    s.route q.ctx (fld 1) .store = .ok l →
    let old := natOfBytes (s.currentBytes l 8)
    let new := if fld 3 % 4 = 0 then fld 2 else if fld 3 % 4 = 1 then (old + fld 2) % 2 ^ 64 else max old (fld 2)
    let e := (s.plinthPut q.ctx l (bytesOfNat new 8)).cmdFinal k c.seq 2 false (fun r => r)
    exec (.signalDone k) s = .next (if fld 3 / 4 % 2 = 1 ∧ q.nvec ≠ 0xFFFF then e.msix q.nvec else e) ∧ ∃ q', e.slot? k = some q' ∧ q'.cmds = []

/-- 14 R311 to R317, R325 to R332: a walk that passes fills translation caches and nothing else; a refill puts the pool's bytes in its frame and makes the page RESIDENT or SHARED; a dirty victim is written back and a clean one unloaded; a write-back copies the frame to the pool; a migrated page's bytes stand in a new frame; counters are halved; a prefetch request starts a refill of a page in POOL under a GRANTED lease of its context; a write-back waits while its port is retrained; every uncorrectable error poisons its line and sends a record with its page, whatever records are pending; a page that leaves residence ends its 2 MiB group. An error past the end of memory stops the machine by a named fault. What the rules leave open here is as the assumption log says: logs 1 (that stop), 2, 22, 54, 57, 72 (the fill of the TLBs), 75. -/
def Obligations.PageEvents : Prop :=
  let entry (p : Dword) (st frame : Nat) (dirty : Bool) : Dword := (p &&& ~~~((0xF <<< 60 : Dword) ||| (0x7FFFFF <<< 16 : Dword) ||| (1 <<< 54 : Dword))) ||| BitVec.ofNat 64 (st * 2 ^ 60 + frame * 2 ^ 16 + (if dirty then 2 ^ 54 else 0))
  let field (p : Dword) (lo n : Nat) : Nat := p.toNat / 2 ^ lo % 2 ^ n
  let leaf (s : State) (c page pa : Nat) (p : Dword) : Prop := s.walkCtx c (page * 65536) = .leaf pa p
  (∀ (s : State) (c : Nat) (va : Dword), va.toNat < 2 ^ 57 →
    (∀ f, s.translate c va.toNat .load = .error f → exec (.tlbWalk c va) s = .next s)
    ∧ ∀ pa, s.translate c va.toNat .load = .ok pa → ∃ C D, exec (.tlbWalk c va) s = .next { s with cores := C, dies := D } ∧ C.length = s.cores.length
      ∧ ∀ (k n : Nat) (x : CoreSt), s.cores[k]? = some (n, x) → ∃ y, C[k]? = some (n, { x with tlb := y }) ∧ ((∃ g ∈ s.groups, g.2.ctx = c ∧ g.2.resident = true ∧ g.2.core = n) → ∃ e ∈ y, e.1 = c ∧ e.2.1 ≤ va.toNat / 65536 ∧ va.toNat / 65536 < e.2.1 + e.2.2))
  ∧ (∀ (s : State) (c frame pa : Nat) (va p : Dword) (j : PageJob) (llc : Bool), let page := va.toNat / 65536
    s.jobOn c page = some j → j.op = .refill false llc → j.snooped = false → leaf s c page pa p → field p 60 4 = 1 → s.frameFree frame = true →
    let l := s.lease (field p 0 12)
    l.ctx = c → l.state ∈ [1, 2] → l.port ≠ 0 → s.linkUp l.port = true →
    ∃ D H P U G, sameGroups G s.groups ∧ exec (.refillComplete c va frame) s = .next { s with ports := P, groups := G, dir := D, hostFilter := H, unseen := U, counters := dropKey frame s.counters, poison := s.poison.filter (fun x => decide (x / 512 ≠ frame)), jobs := s.jobs.filter (fun x => decide (x ≠ j)), frames := putKey frame { ctx := c, page := page, table := false } s.frames, hbm := (s.hbm.paste (frame * 65536) 65536 (s.pool.slice (l.pooladdr.toNat + page * 65536 % 2 ^ 30) 65536)).write pa (bytesOfNat (entry p (if field p 58 2 = 2 then 3 else 2) frame false).toNat 8) })
  ∧ (∀ (s : State) (c pa : Nat) (va p : Dword) (f : Nat × FrameSt) (key : Nat × Nat × Nat), let page := va.toNat / 65536
    s.frames.find? (fun f => f.2.ctx == c && f.2.page == page && !f.2.table) = some f → s.evictKey f = some key → s.registrarUp = true → (∀ x ∈ s.frames, ∀ y, s.evictKey x = some y → victimBefore y key = false) → leaf s c page pa p →
    (p.getLsbD 54 = true → field p 58 2 = 1 → (∀ k ∈ s.cores, k.2.wq = []) → ∃ C U P, exec (.pageEviction c va) s = .next { s with cores := C, unseen := U, ports := P, hbm := s.hbm.write pa (bytesOfNat (p &&& ~~~(1 <<< 54 : Dword)).toNat 8), jobs := s.jobs ++ [{ ctx := c, page := page, op := .writeBack true, since := s.ns }] })
    ∧ (p.getLsbD 54 = false → (∀ k ∈ s.cores, k.2.wq = []) → s.grouped c p → ∃ D H C I U G, sameGroups G s.groups ∧ exec (.pageEviction c va) s = .next { s with cores := C, dies := I, groups := G, dir := D, hostFilter := H, unseen := U, poison := s.poison.filter (fun x => decide (x / 512 ≠ field p 16 23)), frames := dropKey (field p 16 23) s.frames, hbm := (s.groupGone c page p).write pa (bytesOfNat ((entry p 1 0 false) &&& ~~~(1 <<< 57 : Dword)).toNat 8) }))
  ∧ (∀ (s : State) (c pa : Nat) (va p : Dword) (j : PageJob), let page := va.toNat / 65536
    s.jobOn c page = some j → j.op = .writeBack false → leaf s c page pa p → field p 60 4 ∈ [2, 3, 4, 5] → field p 58 2 = 1 →
    let l := s.lease (field p 0 12)
    l.ctx = c → ((s.port l.port).state = 1 → exec (.pageWritebackComplete c va) s = .next s)
    ∧ (l.state = 1 → l.port ≠ 0 → s.linkUp l.port = true → ∃ P, exec (.pageWritebackComplete c va) s = .next { s with ports := P, jobs := s.jobs.filter (fun x => decide (x ≠ j)), pool := s.pool.paste (l.pooladdr.toNat + page * 65536 % 2 ^ 30) 65536 (s.hbm.slice (field p 16 23 * 65536) 65536) }))
  ∧ (∀ (s : State) (c pa f back : Nat) (va p : Dword) (j : PageJob), let page := va.toNat / 65536
    s.jobOn c page = some j → j.op = .migrate back true → j.snooped = false → back < 16 → leaf s c page pa p → s.freeFrame = some f → s.hostReach s.reqHead.at_ = true →
    ∃ e, (exec (.migrationComplete c va) s = .next e ∨ exec (.migrationComplete c va) s = .next (e.reqDone e.reqHead 1)) ∧ (∀ x ∈ e.jobs, x ≠ j)
      ∧ e.hbm = (s.hbm.paste (f * 65536) 65536 (s.hbm.slice (field p 16 23 * 65536) 65536)).write pa (bytesOfNat (entry p back f (p.getLsbD 54)).toNat 8)
      ∧ lookKey f e.frames = (if f = field p 16 23 then none else some { ctx := c, page := page, table := false }) ∧ lookKey (field p 16 23) e.frames = none)
  ∧ (∀ (s : State) (c : Nat) (va : Dword) (j : PageJob) (back : Nat), s.jobOn c (va.toNat / 65536) = some j → j.op = .migrate back false → exec (.migrationComplete c va) s = .next s)
  ∧ (∀ s : State, let due := s.halvedAt + max 1 s.bar.age * 1000000 ≤ s.ns; (¬due → exec .counterHalving s = .next s) ∧ (due → exec .counterHalving s = .next { s with halvedAt := s.ns, counters := (s.counters.map (fun f => (f.1, f.2 / 2))).filter (fun f => f.2 != 0) }))
  ∧ (∀ (s : State) (r : PrefReq) (rest : List PrefReq) (page pa : Nat) (p : Dword), s.prefetch = r :: rest → r.pages = [page] → leaf s r.ctx page pa p → s.jobOn r.ctx page = none → field p 39 13 = 0 → field p 12 4 = 0 → field p 58 2 ∈ [1, 2] →
    let l := s.lease (field p 0 12)
    (field p 60 4 = 1 → l.ctx = r.ctx → l.state = 1 → ∃ P, exec .prefetchRequest s = .next { s with prefetch := rest, ports := P, jobs := s.jobs ++ [{ ctx := r.ctx, page := page, op := .refill true r.llc, since := s.ns }] })
    ∧ (field p 60 4 ≠ 1 ∨ l.ctx ≠ r.ctx ∨ l.state ≠ 1 → exec .prefetchRequest s = .next { s with prefetch := rest }))
  ∧ ∀ (s : State) (line : Nat), (2 ^ 39 ≤ line * 128 → exec (.uncorrectableError line) s = .fault (.physicalHole (line * 128)))
    ∧ (line * 128 < 2 ^ 39 → ∃ s' : State, exec (.uncorrectableError line) s = .next s' ∧ line ∈ s'.poison ∧ (∀ x ∈ s.poison, x ∈ s'.poison) ∧ s'.hbm = s.hbm ∧ s'.groups = s.groups ∧ ((∀ k ∈ s.ctxs, s.pageIn k (line / 512) = none) → s'.pend = s.pend)
      ∧ ∀ k q, s.ctxs.findSome? (fun k => s.pageIn k (line / 512)) = some (k, q) → ∃ x, s'.pend = s.pend ++ [x] ∧ x.ctx = k ∧ x.page = q ∧ x.cause = 0x16)

/-- 14 R325 to R329, R314, R319, R320: a pending fault whose access would now pass lets its threads replay; one of a page in POOL starts the page's refill; one that cannot be served is converted into a record of class MEMORY for containment, and so is one of an EXPIRED lease at the end of its wait. A request of the ring is checked whole and completes with its status; a PINNED page, a protected one and a mapped one have the entry the request asks for, and an unmapping or a migration holds new accesses to its pages from its first step on, and waits for pins (R320); an unmapped page's entry is UNMAPPED and its frame free; a change of an entry ends the page's 2 MiB group; a migration for which frames run short ends with status 3 before its first step (R319). What the rules leave open here is as the assumption log says: logs 2, 22, 48, 57, 75. -/
def Obligations.RegistrarRequests : Prop :=
  let field (p : Dword) (lo n : Nat) : Nat := p.toNat / 2 ^ lo % 2 ^ n
  (∀ (s : State) (n : Nat) (p : PendFault), s.pendReady n = some p → p.cause ≠ 0x16 →
    let late (x : PendFault) : Prop := x.cause = 0x13 ∧ x.asked = true ∧ x.at_ + s.bar.renewwait * 1000000 ≤ s.ns
    (∀ loc k g tid t, ¬late p → s.route p.ctx p.record.addr.toNat p.want = .ok loc → p.packs = [k] → s.group? k.grp = some g → g.resident = true → k.tids = [tid] → g.threads[tid]? = some t → t.cond = .blocked .page →
      ∃ s' : State, exec (.faultResolve n) s = .next s' ∧ s'.thread? k.grp tid = some (t.waitAt t.addr (s.clock g.core)))
    ∧ (∀ f, s.pageView p = .fault f → f.cause = 0x10 → f.pstate = 1 → f.lv = true → (s.lease f.lease).ctx = p.ctx → (s.lease f.lease).state ∈ [1, 2] → s.jobOn p.ctx p.page = none → ¬late p →
      ∃ P, exec (.faultResolve n) s = .next { s with ports := P, jobs := s.jobs ++ [{ ctx := p.ctx, page := p.page, op := .refill false false, since := s.ns }] })
    ∧ (∀ f i k g tid t l, (i = .faultResolve n ∧ late p) ∨ s.pageView p = .fault f ∧ ((i = .faultResolve n ∧ f.cause ∉ [0x10, 0x12, 0x13, 0x15]) ∨ (i = .renewwaitExpiry n ∧ f.cause = 0x13 ∧ (s.lease f.lease).state = 3 ∧ p.at_ + s.bar.renewwait * 1000000 ≤ s.ns)) →
      p.packs = [k] → s.group? k.grp = some g → g.resident = true → g.killed = none → k.tids = [tid] → g.threads[tid]? = some t → t.cond = .blocked .page → t.region = none → (∀ x, k.record.laneMask.getLsbD x = true ↔ x = l) → l < 32 →
      ∃ (s' : State) (x : ContFault), exec i s = .next s' ∧ s'.thread? k.grp tid = some { t with cond := .blocked .contain } ∧ x ∈ (s'.ctx g.ctx).faults ∧ x.tids = [tid] ∧ x.grp = some k.grp
        ∧ (k.record.extra.toNat / 2 ^ 55 % 8 ≠ 4 → x.record.cause = k.record.cause ∧ x.record.cls = 1) ∧ (k.record.extra.toNat / 2 ^ 55 % 8 = 4 → x.record.cause = 0x22 ∧ x.record.cls = 2)))
  ∧ (∀ (s : State) (c va pa : Nat) (p : Dword), Mem.wf s.hbm = true → (s.ctx c).ptroot.toNat % 8 = 0 → s.walkCtx c va = .leaf pa p → field p 60 4 ≠ 0 → (∀ w ∈ s.windows, w.ctx = c → w.base / 65536 ≠ va / 65536) → (∀ k ∈ s.cores, k.2.wq = []) →
    ∃ e, s.unmapPage c va = some e ∧ e.pageState c va = 0 ∧ (field p 60 4 ∈ [2, 3, 4, 5] → lookKey (field p 16 23) e.frames = none))
  ∧ ∀ (s : State) (r : Req), r = s.reqHead → s.registrarUp = true → s.migrating = false → 4 ≤ s.bar.rqlog → s.bar.rqlog ≤ 12 → s.bar.rqprod ≠ s.bar.rqcons → s.hostReach r.at_ = true →
    let op (i : Instr) : Nat := match i with
      | .reqMap => 1
      | .reqUnmap => 2
      | .migrate => 3
      | .pinpage => 4
      | .unpinpage => 5
      | _ => 6
    let live := (s.ctx r.ctx).state ∉ [.empty, .destroying]
    let t := s.wakeHost r.at_
    let idle := ∀ va ∈ r.vas, s.jobOn r.ctx (va / 65536) = none
    let pinned := ∃ x ∈ s.pins, x.ctx = r.ctx ∧ x.base < r.va + 65536 ∧ r.va < x.base + x.len
    (∀ i, i ∈ [.reqMap, .reqUnmap, .migrate, .pinpage, .unpinpage, .protect] → r.op = op i →
      (r.ok = false → exec i s = .next (t.reqDone r 2)) ∧ (r.ok = true → ¬live → exec i s = .next (t.reqDone r 5)))
    ∧ (r.ok = true → live →
      (r.op = 1 → (∃ va ∈ r.vas, s.pageState r.ctx va ≠ 0) → exec .reqMap s = .next (t.reqDone r 6))
      ∧ (r.op = 1 → (∀ va ∈ r.vas, s.pageState r.ctx va = 0) → r.kind ≠ 0 → (∃ va ∈ r.vas, s.leaseOf r.ctx va = none) → exec .reqMap s = .next (t.reqDone r 4))
      ∧ (∀ pa p f, r.op = 1 → r.pages = 1 → r.kind = 0 → s.walkCtx r.ctx r.va = .leaf pa p → field p 60 4 = 0 → s.freeFrame = some f →
        ∃ D H U G, sameGroups G s.groups ∧ exec .reqMap s = .next (({ t with groups := G, dir := D, hostFilter := H, unseen := U, counters := dropKey f s.counters, poison := s.poison.filter (fun x => decide (x / 512 ≠ f)), frames := putKey f { ctx := r.ctx, page := r.va / 65536, table := false } s.frames, hbm := (s.hbm.paste (f * 65536) 65536 []).write pa (bytesOfNat (2 ^ 61 + (if r.w then 2 ^ 56 else 0) + (if r.x then 2 ^ 55 else 0) + f * 65536) 8) } : State).reqDone r 1))
      ∧ (¬idle → (r.op = 2 → exec .reqUnmap s = .next t) ∧ (r.op = 3 → exec .migrate s = .next t))
      ∧ (r.op = 2 → r.pages = 1 → idle → pinned → s.pageState r.ctx r.va ≠ 0 → s.pageHeld r.ctx (r.va / 65536) = false → exec .reqUnmap s = .next { t with jobs := s.jobs ++ [{ ctx := r.ctx, page := r.va / 65536, op := .hold, since := s.ns }] })
      ∧ (∀ e, r.op = 2 → r.pages = 1 → ¬pinned → idle → t.unhold.unmapPage r.ctx r.va = some e → exec .reqUnmap s = .next (e.reqDone r 1))
      ∧ (r.op = 3 → idle → (∃ va ∈ r.vas, s.pageState r.ctx va ∉ [2, 3, 4]) → exec .migrate s = .next (t.reqDone r 6))
      ∧ (r.op = 3 → idle → (∀ va ∈ r.vas, s.pageState r.ctx va ∈ [2, 3, 4]) → s.freeFrames (s.framesWanted r) s.firstFrame < s.framesWanted r → exec .migrate s = .next (t.reqDone r 3))
      ∧ (∀ pa p, r.op = 3 → r.pages = 1 → s.walkCtx r.ctx r.va = .leaf pa p → field p 60 4 ∈ [2, 3, 4] → (∃ f, s.freeFrame = some f) → idle → s.grouped r.ctx p →
        let job (shot : Bool) : List PageJob := s.jobs ++ [{ ctx := r.ctx, page := r.va / 65536, op := .migrate (field p 60 4) shot, since := s.ns }]
        let moving : State := { t with hbm := (s.groupGone r.ctx (r.va / 65536) p).write pa (bytesOfNat ((p &&& ~~~((0xF <<< 60 : Dword) ||| (1 <<< 57 : Dword))) ||| (5 <<< 60 : Dword)).toNat 8) }
        (pinned → exec .migrate s = .next { moving with jobs := job false })
        ∧ (¬pinned → s.pageWindows r.ctx (r.va / 65536) = [] → (∀ k ∈ s.cores, k.2.wq = []) → ∃ W C I U, exec .migrate s = .next { moving with windows := W, cores := C, dies := I, unseen := U, jobs := job true }))
      ∧ (∀ pa p, r.pages = 1 → s.walkCtx r.ctx r.va = .leaf pa p → s.grouped r.ctx p →
        let now := s.groupGone r.ctx (r.va / 65536) p
        let put (st : Nat) : State := { t with hbm := now.write pa (bytesOfNat ((p &&& ~~~((0xF <<< 60 : Dword) ||| (1 <<< 57 : Dword))) ||| BitVec.ofNat 64 (st * 2 ^ 60)).toNat 8) }
        (r.op = 4 → field p 60 4 = 2 → exec .pinpage s = .next ((put 4).reqDone r 1)) ∧ (r.op = 4 → field p 60 4 ≠ 2 → exec .pinpage s = .next (t.reqDone r 6))
        ∧ (r.op = 5 → field p 60 4 = 4 → exec .unpinpage s = .next ((put 2).reqDone r 1)) ∧ (r.op = 5 → field p 60 4 ≠ 4 → exec .unpinpage s = .next (t.reqDone r 6))
        ∧ (r.op = 6 → field p 60 4 = 0 → ¬(r.w = true ∧ field p 58 2 = 2) → exec .protect s = .next (t.reqDone r 6)) ∧ (r.op = 6 → r.w = true → field p 58 2 = 2 → exec .protect s = .next (t.reqDone r 2))
        ∧ (r.op = 6 → field p 60 4 ≠ 0 → ¬(r.w = true ∧ field p 58 2 = 2) → (∀ k ∈ s.cores, k.2.wq = []) →
          ∃ C I U, exec .protect s = .next (({ t with cores := C, dies := I, unseen := U, hbm := now.write pa (bytesOfNat ((p &&& ~~~(7 <<< 55 : Dword)) ||| BitVec.ofNat 64 ((if r.w then 2 ^ 56 else 0) + (if r.x then 2 ^ 55 else 0))).toNat 8) } : State).reqDone r 1))))

/-- 14 R321 to R324, R330; 15 R345 to R349: a lease moves between its states by its expiry, its renewal, its revocation and its node's failure (checks fail from the expiry on, whatever is still to be performed; while the mailbox is served, the expiry is settled once its plinth cycle is over, so that a renewal taken in that cycle wins); pages of a lease that ends are dropped, a dirty one becoming LOST; mailbox records are sent, refused or handled, and consumed after their effect; a back-invalidation snoop drops the copy of a SHARED page, and one of a page being refilled is kept for the refill's end. What the rules leave open here is as the assumption log says: logs 2, 32, 41, 42 (that snoop), 92 (the expiry's plinth cycle). -/
def Obligations.LeaseEvents : Prop :=
  let field (p : Dword) (lo n : Nat) : Nat := p.toNat / 2 ^ lo % 2 ^ n
  let entry (p : Dword) (st : Nat) : Dword := (p &&& ~~~((0xF <<< 60 : Dword) ||| (0x7FFFFF <<< 16 : Dword) ||| (1 <<< 57 : Dword) ||| (1 <<< 54 : Dword))) ||| BitVec.ofNat 64 (st * 2 ^ 60)
  let clean (p : Dword) : Dword := p &&& ~~~(1 <<< 54 : Dword)
  let wait (s : State) : Nat := s.bar.renewwait * 1000000
  let lead (s : State) : Nat := s.bar.lead * 1000000
  let one (s : State) (l : Lease) (f : Nat) (page pa : Nat) (p : Dword) : Prop := (∃ x : FrameSt, s.leasePages l = [(f, x)] ∧ x.page = page) ∧ page / 16384 = l.vabase ∧ s.walkCtx l.ctx (page * 65536) = .leaf pa p ∧ field p 60 4 ∈ [2, 4] ∧ field p 58 2 = 1 ∧ field p 16 23 = f
    ∧ (∀ j ∈ s.jobs, j.ctx = l.ctx → j.page = page → j.holds = true) ∧ s.grouped l.ctx p ∧ (∀ k ∈ s.cores, k.2.wq = []) ∧ ∀ w ∈ s.windows, w.ctx = l.ctx → w.base / 2 ^ 30 ≠ l.vabase
  let gone (s s' : State) (l : Lease) (f page pa : Nat) (p : Dword) (st : Nat) : Prop := s'.hbm = (s.groupGone l.ctx page p).write pa (bytesOfNat (entry p st).toNat 8) ∧ lookKey f s'.frames = none ∧ s'.pool = s.pool ∧ s'.jobs = s.jobs
    ∧ s'.pins = s.pins.filter (fun x => !(x.ctx == l.ctx && decide (x.base / 2 ^ 30 = l.vabase)))
  let dirty (p : Dword) : Bool := p.getLsbD 54
  let done (e : State) : State := { e with pool := e.pool.write (e.bar.mbxaddr.toNat + 8) (bytesOfNat (e.pool.num (e.bar.mbxaddr.toNat + 8) 8 + 1) 8) }
  let mailbox (s : State) : Prop := s.registrarUp = true ∧ s.bar.mbxen = true ∧ s.bar.mbxport ≠ 0 ∧ s.linkUp s.bar.mbxport = true
  let wins (s : State) (l : Lease) : Prop := mailbox s ∧ s.devTicks - s.tick % Config.plinthTicks ≤ l.expiry * Config.ticksPerNs
  let arrived (s : State) : Prop := s.pool.num s.bar.mbxaddr.toNat 8 ≠ s.pool.num (s.bar.mbxaddr.toNat + 8) 8
  let refused (s : State) (r : InRec) (reason : Nat) : State := { s with outbox := s.outbox ++ [{ type := 0x82, lid := BitVec.ofNat 32 r.lid, node := r.node, shr := r.shr, port := r.port, ctx := r.ctx, arg := reason }] }
  let termBad (r : InRec) : Prop := r.term < 1000 ∨ 3600000 < r.term
  let failed (s s' : State) (node : Nat) : Prop := ∀ m, lookKey m s'.leases = (lookKey m s.leases).map (fun l => if l.node = node ∧ 1 ≤ l.state ∧ l.state ≤ 3 then { l with state := 5, failedAt := s.ns, asking := false } else if l.node = node ∧ l.state = 4 ∧ s.requestsOf l ≠ [] then { l with failedAt := s.ns } else l)
  (∀ (s : State) (n : Nat) (i : Instr), s.registrarUp = false → i ∈ [.leaseExpiring n, .leaseExpiry n, .revocationDeadline n, .nodeFailureTimeout n, .leaseRelease n, .reqrenewRepeat n, .mailboxPoll, .completionTimeout n] → exec i s = .next s)
  ∧ (∀ (s : State) (n : Nat), s.registrarUp = true → let l := s.lease n
    (l.state ≠ 1 ∨ s.ns + lead s < l.expiry → exec (.leaseExpiring n) s = .next s)
    ∧ (l.state = 1 → l.expiry ≤ s.ns + lead s →
      ∃ s' : State, exec (.leaseExpiring n) s = .next s' ∧ s'.leases = putKey n { l with state := 2, asking := true, askedAt := s.ns } s.leases ∧ s'.outbox = s.outbox ++ [l.out 0x81 l.gen.toNat] ∧ (s.leasePages l = [] → s'.hbm = s.hbm ∧ s'.jobs = s.jobs)
        ∧ ∀ f page pa p, one s l f page pa p → (dirty p = false → s'.hbm = s.hbm ∧ s'.jobs = s.jobs) ∧ (dirty p = true → s'.hbm = s.hbm.write pa (bytesOfNat (clean p).toNat 8) ∧ s'.jobs = s.jobs ++ [{ ctx := l.ctx, page := page, op := .writeBack false, since := s.ns }])))
  ∧ (∀ (s : State) (n f page pa : Nat) (p : Dword), s.registrarUp = true → let l := s.lease n
    one s l f page pa p →
    (l.state = 2 → l.expiry ≤ s.ns → ¬wins s l → ∃ s' : State, exec (.leaseExpiry n) s = .next s' ∧ s'.leases = putKey n { l with state := 3 } s.leases ∧ s'.outbox = s.outbox ∧ gone s s' l f page pa p (if dirty p then 6 else 1))
    ∧ (l.state = 4 → l.acked = false → (l.deadline ≤ s.ns ∨ dirty p = false) → ∃ s' : State, exec (.revocationDeadline n) s = .next s' ∧ s'.leases = putKey n { l with acked := true } s.leases ∧ s'.outbox = s.outbox ++ [l.out 0x84 (if dirty p then 0 else 1)] ∧ gone s s' l f page pa p (if dirty p then 6 else 1))
    ∧ (l.state = 4 → l.acked = false → s.ns < l.deadline → dirty p = true → exec (.revocationDeadline n) s = .next s)
    ∧ (l.state = 5 → l.failedAt + wait s ≤ s.ns → ∃ s' : State, exec (.nodeFailureTimeout n) s = .next s' ∧ s'.leases = s.leases ∧ s'.outbox = s.outbox ∧ gone s s' l f page pa p 6))
  ∧ (∀ (s : State) (n : Nat), s.registrarUp = true → let l := s.lease n
    (l.state = 2 ∧ (s.ns < l.expiry ∨ wins s l) ∨ l.state ≠ 2 ∧ (l.state ≠ 3 ∨ s.leasePages l = []) → exec (.leaseExpiry n) s = .next s)
    ∧ (l.state = 2 → l.expiry ≤ s.ns → ¬wins s l → ∃ s' : State, exec (.leaseExpiry n) s = .next s' ∧ s'.leases = putKey n { l with state := 3 } s.leases ∧ s'.outbox = s.outbox) ∧ (l.state ≠ 4 ∨ l.acked = true → exec (.revocationDeadline n) s = .next s) ∧ (l.state ≠ 5 ∨ s.ns < l.failedAt + wait s → exec (.nodeFailureTimeout n) s = .next s)
    ∧ (let due := (l.state = 3 ∧ l.expiry + wait s ≤ s.ns ∧ (l.lastFault = 0 ∨ l.lastFault + wait s ≤ s.ns)) ∨ (l.state = 4 ∧ l.acked = true) ∨ (l.state = 5 ∧ l.failedAt + wait s ≤ s.ns ∧ s.leasePages l = [])
      let held := (∃ x ∈ s.pend, x.ctx = l.ctx ∧ x.record.extra.getLsbD 54 = true ∧ x.record.extra.toNat / 2 ^ 42 % 4096 = n) ∨ ∃ r ∈ s.outbox, r.lid = l.lid ∧ r.type ≠ 0x85
      (due → ¬held → exec (.leaseRelease n) s = .next { s with leases := dropKey n s.leases, outbox := s.outbox ++ [l.out 0x83 0] }) ∧ (¬due ∨ held → exec (.leaseRelease n) s = .next s))
    ∧ (let due := l.asking = true ∧ (l.state = 2 ∨ l.state = 3) ∧ l.askedAt + 100000000 ≤ s.ns
      (due → exec (.reqrenewRepeat n) s = .next { s with leases := putKey n { l with asking := true, askedAt := s.ns } s.leases, outbox := s.outbox ++ [l.out 0x81 l.gen.toNat] }) ∧ (¬due → exec (.reqrenewRepeat n) s = .next s)))
  ∧ (∀ s : State, mailbox s → let a := s.bar.mbxaddr.toNat; let prod := s.pool.num (a + 0x40) 8; let cons := s.pool.num (a + 0x48) 8
    (¬arrived s → s.outbox = [] ∨ (prod + 2 ^ 64 - cons) % 2 ^ 64 = 256 → exec .mailboxPoll s = .next (s.wakePort s.bar.mbxport))
    ∧ (∀ r, ¬arrived s → s.outbox = [r] → (prod + 2 ^ 64 - cons) % 2 ^ 64 < 256 → r.type < 256 → r.ctx < 256 → r.port < 8 → r.node < 4096 → r.arg < 2 ^ 64 →
      let rec_ := bytesOfNat (r.lid.toNat * 2 ^ 32 + r.node * 2 ^ 20 + (if r.shr then 2 ^ 19 else 0) + r.port * 2 ^ 16 + r.ctx * 2 ^ 8 + r.type) 8 ++ bytesOfNat r.arg 8 ++ List.replicate 48 0
      exec .mailboxPoll s = .next { s.wakePort s.bar.mbxport with pool := (s.pool.write (a + 0x5000 + 64 * (prod % 256)) rec_).write (a + 0x40) (bytesOfNat (prod + 1) 8), outbox := [] })
    ∧ (arrived s → s.outbox = [] → s.inRec.sound = false → exec .mailboxPoll s = .next (done (refused (s.wakePort s.bar.mbxport) s.inRec 5)))
    ∧ ∀ i, i ∈ [.grant, .renew, .revoke, .nodefail, .replace] → ¬arrived s ∨ s.inRec.sound = false → exec i s = .next s)
  ∧ (∀ (s t : State) (r : InRec), mailbox s → arrived s → r = s.inRec → r.sound = true → t = s.wakePort s.bar.mbxport →
    (r.type = 1 → let noCtx := (s.ctx r.ctx).state = .empty; let taken := ∃ x ∈ s.leases, x.2.ctx = r.ctx ∧ x.2.vabase = r.vabase ∧ x.2.state ≠ 0
      (noCtx → exec .grant s = .next (done (refused t r 1))) ∧ (¬noCtx → taken → exec .grant s = .next (done (refused t r 2))) ∧ (¬noCtx → ¬taken → termBad r → exec .grant s = .next (done (refused t r 3)))
      ∧ (¬noCtx → ¬taken → ¬termBad r → (∀ n < 4096, lookKey n s.leases ≠ none) → exec .grant s = .next (done (refused t r 4)))
      ∧ ∀ n, ¬noCtx → ¬taken → ¬termBad r → n < 4096 → lookKey n s.leases = none → (∀ m < n, lookKey m s.leases ≠ none) → exec .grant s = .next (done { t with leases := putKey n { Lease.free with state := 1, ctx := r.ctx, port := r.port, shr := r.shr, lid := BitVec.ofNat 32 r.lid, vabase := r.vabase, pooladdr := BitVec.ofNat 64 r.pooladdr, expiry := s.ns + r.term * 1000000, gen := 0, node := r.node } s.leases }))
    ∧ (∀ i, (i = .renew ∧ r.type = 2) ∨ (i = .revoke ∧ r.type = 3) → s.leaseById r.lid = none → exec i s = .next (done (refused t r 6)))
    ∧ (r.type = 5 → s.leaseById r.oldlid = none → exec .replace s = .next (done (refused t r 6)))
    ∧ (∀ n l, s.leaseById r.lid = some (n, l) →
      (r.type = 2 → l.state = 0 ∨ 3 < l.state → exec .renew s = .next (done (refused t r 6))) ∧ (r.type = 2 → 1 ≤ l.state → l.state ≤ 3 → termBad r → exec .renew s = .next (done (refused t r 3)))
      ∧ (r.type = 2 → 1 ≤ l.state → l.state ≤ 3 → ¬termBad r → (l.state = 3 → s.leasePages l = []) → let x := { l with state := 1, expiry := s.ns + r.term * 1000000, gen := l.gen + 1, asking := false }
        let pend := s.pend.map (fun (p : PendFault) => if p.ctx = l.ctx ∧ p.record.extra.getLsbD 54 = true ∧ p.record.extra.toNat / 2 ^ 42 % 4096 = n ∧ p.cause = 0x13 ∧ s.ns < p.at_ + wait s then { p with asked := false } else p)
        (lead s < r.term * 1000000 → exec .renew s = .next (done { t with pend := pend, leases := putKey n x s.leases })) ∧ (r.term * 1000000 ≤ lead s → l.state = 2 → exec .renew s = .next (done { t with pend := pend, leases := putKey n { x with state := 2 } s.leases }))
        ∧ (r.term * 1000000 ≤ lead s → l.state ≠ 2 → s.leasePages l = [] → exec .renew s = .next (done { t with pend := pend, leases := putKey n { x with state := 2, asking := true, askedAt := s.ns } s.leases, outbox := s.outbox ++ [x.out 0x81 x.gen.toNat] })))
      ∧ (r.type = 3 → l.state ≠ 1 → l.state ≠ 2 → exec .revoke s = .next (done (refused t r 6)))
      ∧ (r.type = 3 → l.state = 1 ∨ l.state = 2 → ∀ f page pa p, one s l f page pa p → ∃ C D U P, exec .revoke s = .next (done { t with cores := C, dies := D, unseen := U, ports := P, leases := putKey n { l with state := 4, deadline := s.ns + r.term * 1000000, acked := false, asking := false } s.leases, hbm := if dirty p then s.hbm.write pa (bytesOfNat (clean p).toNat 8) else s.hbm, jobs := s.jobs ++ if dirty p then [{ ctx := l.ctx, page := page, op := .writeBack false, since := s.ns }] else [] })))
    ∧ (r.type = 4 → (s.leases.map (fun x => x.1)).Nodup → ∃ s' : State, exec .nodefail s = .next s' ∧ failed s s' r.node ∧ s'.outbox = s.outbox)
    ∧ (∀ n l, r.type = 5 → s.leaseById r.oldlid = some (n, l) → let late := l.state ≠ 5 ∨ l.failedAt + wait s < s.ns; let other := l.ctx ≠ r.ctx ∨ l.vabase ≠ r.vabase
      (late → exec .replace s = .next (done (refused t r 6))) ∧ (¬late → other → exec .replace s = .next (done (refused t r 5))) ∧ (¬late → ¬other → termBad r → exec .replace s = .next (done (refused t r 3)))
      ∧ (¬late → ¬other → ¬termBad r → s.linkUp r.port = true → (∀ k ∈ s.cores, k.2.wq = []) → let x := { l with state := 1, lid := BitVec.ofNat 32 r.lid, port := r.port, pooladdr := BitVec.ofNat 64 r.pooladdr, expiry := s.ns + r.term * 1000000, node := r.node, lastFault := 0 }
        ∃ C U, let u : State := { t.wakePort r.port with cores := C, unseen := U, leases := putKey n x s.leases }
        (s.regionPages l.ctx l.vabase = [] → exec .replace s = .next (done u))
        ∧ ∀ page pa p, s.regionPages l.ctx l.vabase = [page] → s.walkCtx l.ctx (page * 65536) = .leaf pa p → field p 58 2 ≠ 0 →
          (field p 60 4 ∈ [2, 3, 4, 5] → exec .replace s = .next (done { u with pool := s.pool.paste (x.pooladdr.toNat + page * 65536 % 2 ^ 30) 65536 (s.hbm.slice (field p 16 23 * 65536) 65536), hbm := s.hbm.write pa (bytesOfNat (clean p).toNat 8) }))
          ∧ (field p 60 4 = 1 → exec .replace s = .next (done { u with hbm := s.hbm.write pa (bytesOfNat ((p &&& ~~~(0xF <<< 60 : Dword)) ||| (6 <<< 60 : Dword)).toNat 8) })))))
  ∧ (∀ (s : State) (n : Nat) (l : Lease), s.registrarUp = true → lookKey n s.leases = some l → (s.leases.map (fun x => x.1)).Nodup →
    let due := 1 ≤ l.state ∧ l.state ≤ 4 ∧ ∃ j ∈ s.jobs, j.ctx = l.ctx ∧ j.page / 16384 = l.vabase ∧ j.pool = true ∧ j.since + 20000000 ≤ s.ns
    let told := ∃ x ∈ s.leases, x.2.node = l.node ∧ (x.2.state = 5 ∨ x.2.state = 4 ∧ x.2.failedAt ≠ 0)
    (¬due → exec (.completionTimeout n) s = .next s)
    ∧ (due → ∃ (s' : State) (port : Nat), exec (.completionTimeout n) s = .next s' ∧ failed s s' l.node ∧ (told → s'.outbox = s.outbox) ∧ (¬told → s'.outbox = s.outbox ++ [{ type := 0x85, lid := 0, node := l.node, shr := false, port := port, ctx := 0, arg := 1 }])))
  ∧ ∀ (s : State) (port : Nat) (addr : Dword), let hit (x : Nat × Lease) : Bool := x.2.shr && x.2.port == port && decide (x.2.pooladdr.toNat ≤ addr.toNat ∧ addr.toNat < x.2.pooladdr.toNat + 2 ^ 30)
    (s.registrarUp = false ∨ port = 0 ∨ 8 ≤ port ∨ s.linkUp port = false → exec (.bisnp port addr) s = .next s)
    ∧ (s.registrarUp = true → port ≠ 0 → port < 8 → s.linkUp port = true →
      (s.leases.filter hit = [] → exec (.bisnp port addr) s = .next (s.wakePort port))
      ∧ ∀ n l, s.leases.filter hit = [(n, l)] → let va := l.vabase * 2 ^ 30 + (addr.toNat - l.pooladdr.toNat) / 65536 * 65536
        ∀ pa p, s.walkCtx l.ctx va = .leaf pa p →
          (field p 58 2 = 2 → field p 60 4 = 3 → (∀ k ∈ s.cores, k.2.wq = []) → s.grouped l.ctx p → ∃ C D I H P U G, sameGroups G s.groups ∧ exec (.bisnp port addr) s = .next { s.wakePort port with groups := G, cores := C, dies := I, dir := D, hostFilter := H, poison := P, unseen := U, frames := dropKey (field p 16 23) s.frames, jobs := s.jobs.filter (fun j => j.holds || !(j.ctx == l.ctx && j.page == va / 65536)), hbm := (s.groupGone l.ctx (va / 65536) p).write pa (bytesOfNat (entry p 1).toNat 8) })
          ∧ (field p 58 2 ≠ 2 ∨ field p 60 4 ≠ 3 → exec (.bisnp port addr) s = .next { s.wakePort port with jobs := s.jobs.map (fun j => if j.ctx == l.ctx && j.page == va / 65536 then { j with snooped := true } else j) }))

/-- 15 R341 to R343: a host request below HOSTLIM to a powered stack is served, any other answered poisoned or discarded and counted in ERRCNT; a write recalls its lines. 12 R275 to R279: the directory's moves of a line; requests of one plinth cycle are served in ascending die number. Requests of a line past memory, and bytes past it, stop the machine. 15 R344, R345, R350 to R353: an exchange sets device time by a step or a slew; a port moves between its link states by training, its commands and its failures, and a fabric port that is lost fails the nodes reached through it; an SPDM request is answered with the measurements; recovered errors are counted. After a failed step 2 of bring-up only SPDM is answered (19 R399). What the rules leave open here is as the assumption log says: logs 1, 2, 9 and 64 (the measurements and the form of their answer), 19, 42, 85 (a late request of a lower die). -/
def Obligations.FabricEvents : Prop :=
  (
    let powered (s : State) : Prop := s.powered = true ∧ s.tripped = false ∧ s.linkUp 0 = true ∧ s.boot ≠ 1
    let stackDown (s : State) (pa : Nat) : Bool := s.bar.hbmDown.getLsbD (pa / 2 ^ 36 % 8)
    let served (s : State) (pa n : Nat) : Prop := pa + n ≤ s.bar.hostlim * 2 ^ 30 ∧ stackDown s pa = false ∧ stackDown s (pa + n - 1) = false
    let counted (s : State) : State := { s with ports := s.ports.set 0 { s.port 0 with errcnt := min ((s.port 0).errcnt + 1) 65535 } }
    let covers (pa n x : Nat) : Prop := pa < (x + 1) * 128 ∧ x * 128 < pa + n
    (∀ (s : State) (pa n : Nat),
      (2 ^ 39 < pa + n → exec (.hdmRead pa n) s = .fault (.physicalHole (pa + n)))
      ∧ (pa + n ≤ 2 ^ 39 → ¬powered s ∨ n = 0 → exec (.hdmRead pa n) s = .next s)
      ∧ (pa + n ≤ 2 ^ 39 → 0 < n → powered s → ¬served s pa n → exec (.hdmRead pa n) s = .next { counted (s.wakePort 0) with reply := (List.replicate n 0, true) })
      ∧ (pa + n ≤ 2 ^ 39 → 0 < n → powered s → served s pa n → ∃ F b U, exec (.hdmRead pa n) s = .next { s.wakePort 0 with reply := (s.hbm.read pa n, b), hostFilter := F, unseen := U } ∧ U.Sublist s.unseen ∧ (∀ u ∈ U, u.phys + u.old.length ≤ pa ∨ pa + n ≤ u.phys) ∧ (b = true ↔ ∃ x ∈ s.poison, covers pa n x)
        ∧ (s.hostFilter.length + (n + 254) / 128 ≤ 1048576 → ∀ x, x ∈ F ↔ x ∈ s.hostFilter ∨ covers pa n x)))
    ∧ (∀ (s : State) (pa : Nat) (bs : List Byte),
      (2 ^ 39 < pa + bs.length → exec (.hdmWrite pa bs) s = .fault (.physicalHole (pa + bs.length)))
      ∧ (pa + bs.length ≤ 2 ^ 39 → ¬powered s ∨ bs = [] → exec (.hdmWrite pa bs) s = .next s)
      ∧ (pa + bs.length ≤ 2 ^ 39 → bs ≠ [] → powered s → ¬served s pa bs.length → exec (.hdmWrite pa bs) s = .next (counted (s.wakePort 0)))
      ∧ (pa + bs.length ≤ 2 ^ 39 → bs ≠ [] → powered s → served s pa bs.length → ∃ D U, exec (.hdmWrite pa bs) s = .next { s.wakePort 0 with dir := D, unseen := U, hbm := s.hbm.write pa bs } ∧ U.Sublist s.unseen ∧ (∀ e ∈ D, covers pa bs.length e.1 → e.2.state = .home) ∧ (∀ e, ¬covers pa bs.length e.1 → e ∈ D → e ∈ s.dir)))
    ∧ (∀ (s : State) (a : Dword), let up := s.powered = true ∧ s.linkUp 0 = true ∧ s.boot ≠ 1
      (up → exec (.hostSnoop a) s = .next { s.wakePort 0 with reply := ([], false) }) ∧ (¬up → exec (.hostSnoop a) s = .next s))
    ∧ (∀ (s : State) (die line : Nat) (i : Instr), i ∈ [.readRequest die line, .ownershipRequest die line, .handoff line, .dieEviction die line, .writebackGrant line, .mergeComplete line] → 2 ^ 39 ≤ line * 128 → exec i s = .fault (.physicalHole (line * 128)))
    ∧ ∀ (s : State) (die line : Nat) (l : DirLine), line * 128 < 2 ^ 39 → l = s.dirLine line →
      let to_ (i : Instr) (x : DirLine) : Prop := ∃ V F, exec i s = .next { s.setDir line x with served := V, counters := F }
      let asks (i : Instr) : Prop := i ∈ [.readRequest die line, .ownershipRequest die line]
      let last : Prop := ∃ x ∈ s.served, x.1 = s.plinth ∧ x.2.1 = line ∧ die < x.2.2
      let hold (d : Nat) : DirLine := { l with state := .held d, wrote := 0, dirty := false }
      (∀ i, asks i → (last → exec i s = .next s) ∧ (¬last → ∀ s', exec i s = .next s' → (s.plinth, line, die) ∈ s'.served))
      ∧ (∀ i, asks i → ¬last → (l.state = .home → to_ i (hold die)) ∧ (∀ a b, l.state ∈ [.handoff a b, .merge (some a), .merge none, .wb a] → to_ i l) ∧ (l.state = .held die → to_ i l) ∧ (l.state = .priv → die ∈ l.copies → to_ i l))
      ∧ (∀ d, ¬last → l.state = .held d → d ≠ die → to_ (.readRequest die line) l ∧ to_ (.ownershipRequest die line) { l with state := .handoff d die })
      ∧ (¬last → l.state = .priv → die ∉ l.copies → to_ (.ownershipRequest die line) { l with state := .merge (some die), copies := [] } ∧ ((l.masks.map (fun x => x.1)).Nodup →
        ((∀ f, f ≠ die → l.mask f = 0) → to_ (.readRequest die line) l) ∧ ((∃ f, f ≠ die ∧ l.mask f ≠ 0) → to_ (.readRequest die line) { l with state := .merge (some die), copies := [] })))
      ∧ (∀ d e, l.state = .handoff d e → (l.masks.map (fun x => x.1)).Nodup → (∀ x ∈ l.masks, x.2 ≠ 0) → let own := l.mask d ||| l.wrote; let clash := ∃ f, f ≠ d ∧ own &&& l.mask f ≠ 0
        ∃ x, to_ (.handoff line) x ∧ (clash → x.cnt = 0 ∧ ∀ f, x.mask f = 0) ∧ (¬clash → x.cnt = min (l.cnt + 1) 4 ∧ ∀ f, x.mask f = if f = d then own else l.mask f)
          ∧ (¬(x.cnt = 4 ∧ s.privLines < 65536) → x.state = .held e) ∧ (x.cnt = 4 → s.privLines < 65536 → x.state = .priv ∧ ∀ f, f ∈ x.copies ↔ f = e ∨ x.mask f ≠ 0))
      ∧ ((∀ d e, l.state ≠ .handoff d e) → to_ (.handoff line) l)
      ∧ (l.state = .held die → to_ (.dieEviction die line) { l with state := .wb die }) ∧ (l.state = .priv → l.copies = [die] → to_ (.dieEviction die line) DirLine.home)
      ∧ (l.state = .priv → die ∈ l.copies → (∃ f ∈ l.copies, f ≠ die) → ∃ x, to_ (.dieEviction die line) x ∧ x.state = .priv ∧ (∀ f, f ∈ x.copies ↔ f ∈ l.copies ∧ f ≠ die) ∧ ∀ f, x.mask f = if f = die then 0 else l.mask f)
      ∧ (l.state ≠ .held die → ¬(l.state = .priv ∧ die ∈ l.copies) → to_ (.dieEviction die line) l)
      ∧ (∀ d, l.state = .wb d → ∃ x, to_ (.writebackGrant line) x ∧ x.state = .home ∧ x.cnt = l.cnt ∧ ∀ f, x.mask f = if f = d then l.mask d ||| l.wrote else l.mask f) ∧ ((∀ d, l.state ≠ .wb d) → to_ (.writebackGrant line) l)
      ∧ (∀ d, l.state = .merge (some d) → ∃ x, to_ (.mergeComplete line) x ∧ x.state = .held d ∧ x.cnt = 0 ∧ ∀ f, x.mask f = 0) ∧ (l.state = .merge none → to_ (.mergeComplete line) DirLine.home) ∧ ((∀ d, l.state ≠ .merge d) → to_ (.mergeComplete line) l))
  ∧ (
    let alive (s : State) : Prop := s.powered = true ∧ s.tripped = false
    let ready (s : State) (w : Dword) (op : Nat) : Prop := alive s ∧ s.linkUp 0 = true ∧ 2 ≤ s.boot ∧ w.toNat / 2 ^ 8 % 16 = op
    let st (s : State) (p n : Nat) : State := { s with ports := s.ports.set p { s.port p with state := n } }
    let lost (s s' : State) (p n : Nat) (all : Bool) : Prop := (s.leases.map (fun x => (x.2.ctx, x.2.vabase))).Nodup → ∃ R, (∀ q, s'.port q = (st s p n).port q) ∧ s'.outbox = s.outbox ++ R
      ∧ (let asked (l : Lease) : Prop := ∃ j ∈ s.jobs, j.ctx = l.ctx ∧ j.page / 16384 = l.vabase ∧ j.pool = true
        let fails (node : Nat) : Prop := p ≠ 0 ∧ ∃ x ∈ s.leases, x.2.node = node ∧ x.2.port = p ∧ (1 ≤ x.2.state ∧ x.2.state ≤ 3 ∨ x.2.state = 4 ∧ asked x.2) ∧ (all = true ∨ asked x.2)
        let told (node : Nat) : Prop := ∃ x ∈ s.leases, x.2.node = node ∧ (x.2.state = 5 ∨ x.2.state = 4 ∧ x.2.failedAt ≠ 0)
        (∀ node, fails node ∧ ¬told node ↔ ∃ r ∈ R, r.node = node) ∧ (∀ r ∈ R, r.type = 0x85 ∧ r.arg = 2) ∧ ∀ m l, lookKey m s.leases = some l → (fails l.node → 1 ≤ l.state → l.state ≤ 3 → lookKey m s'.leases = some { l with state := 5, failedAt := s.ns, asking := false }) ∧ (fails l.node → l.state = 4 → asked l → lookKey m s'.leases = some { l with failedAt := s.ns }) ∧ (¬fails l.node ∨ l.state = 0 ∨ 4 < l.state ∨ l.state = 4 ∧ ¬asked l → lookKey m s'.leases = some l))
    (∀ (s : State) (offset : Int), let due := s.bar.ptmAt = none ∨ ∃ t, s.bar.ptmAt = some t ∧ t + 10000000 ≤ s.ns
      (¬alive s ∨ (s.port 0).state ≠ 2 ∨ ¬due → exec (.ptmExchange offset) s = .next s)
      ∧ (alive s → (s.port 0).state = 2 → due → ∃ s' : State, exec (.ptmExchange offset) s = .next s' ∧ s'.bar.ptmLocked = true ∧ s'.bar.ptmAt = some s'.ns ∧ (-(2 ^ 31 : Int) ≤ offset → offset < 2 ^ 31 → s'.bar.ptmOffset.toInt = offset)
        ∧ (1000 ≤ offset → (s'.ns : Int) = s.ns + offset ∧ s'.slew = 0) ∧ (offset < 1000 → s'.ns = s.ns ∧ s'.slew = offset * 504)))
    ∧ (∀ (s : State) (p r w : Nat), let ok := alive s ∧ p < 8 ∧ (s.port p).state = 1 ∧ r ≤ 2 ∧ 1 ≤ w ∧ w ≤ 3 ∧ s.boot ≠ 0
      (¬ok → exec (.trainingComplete p r w) s = .next s)
      ∧ (ok → let t : State := { s with ports := s.ports.set p { s.port p with state := 2, rate := r, width := w } }
        let there (j : PageJob) : Prop := ∃ pa e, s.walkCtx j.ctx (j.page * 65536) = .leaf pa e ∧ (s.lease (e.toNat % 4096)).ctx = j.ctx ∧ (s.lease (e.toNat % 4096)).port = p
        ∃ J, J.Sublist s.jobs ∧ (∀ j ∈ s.jobs, j.op ≠ .clean → j ∈ J) ∧ (∀ j ∈ J, j.op = .clean → ¬there j)
          ∧ (p ≠ 0 → exec (.trainingComplete p r w) s = .next { t with jobs := J }) ∧ (p = 0 → ∃ s' : State, exec (.trainingComplete p r w) s = .next s' ∧ s'.ports = t.ports ∧ s'.jobs = J ∧ s'.msi = s.msi ++ s.msiHeld ∧ s'.msiHeld = [] ∧ (s.ctxs = [] → s' = { t with jobs := J, msi := s.msi ++ s.msiHeld, msiHeld := [] }))))
    ∧ (∀ (s : State) (p : Nat), exec (.trainingRetry p) s = .next s)
    ∧ (∀ (s : State) (p : Nat), (s.leases.map (fun x => x.1)).Nodup → p < s.ports.length →
      (alive s → p < 8 → s.linkUp p = true → ∃ s' : State, exec (.linkLoss p) s = .next s' ∧ lost s s' p 4 false)
      ∧ (¬alive s ∨ 8 ≤ p ∨ s.linkUp p = false → exec (.linkLoss p) s = .next s ∧ exec (.integrityFailure p) s = .next s)
      ∧ (alive s → p < 8 → s.linkUp p = true → (s.port p).ide = true → ∃ s' : State, exec (.integrityFailure p) s = .next s' ∧ lost s s' p 4 true) ∧ ((s.port p).ide = false → exec (.integrityFailure p) s = .next s))
    ∧ (∀ (s : State) (k : Bool) (p : Nat), let ok := alive s ∧ s.linkUp 0 = true ∧ s.boot ≠ 0
      let t : State := { s.wakePort 0 with reply := (s.measured.flatMap (fun v => bytesOfNat v.toNat 32) ++ bytesOfNat s.measuredVersion.toNat 4, false) }
      (¬ok → exec (.spdmRequest k p) s = .next s) ∧ (ok → k = false ∨ 8 ≤ p → exec (.spdmRequest k p) s = .next t) ∧ (ok → k = true → p < 8 → exec (.spdmRequest k p) s = .next { t with ports := t.ports.set p { t.port p with ide := true } }))
    ∧ (∀ (s : State) (w : Dword) (i : Instr) (op : Nat), (i, op) ∈ [(.retrain w, 1), (.lowpower w, 2), (.wake w, 3), (.linkDisable w, 4), (.linkEnable w, 5)] → ¬ready s w op → exec i s = .next s)
    ∧ (∀ (s : State) (w : Dword), let p := w.toNat % 8; let t := s.wakePort 0
      let busy := (∃ x ∈ s.leases, x.2.port = p ∧ ∃ j ∈ s.jobs, j.ctx = x.2.ctx ∧ j.page / 16384 = x.2.vabase ∧ j.pool = true) ∨ (s.bar.mbxen = true ∧ s.bar.mbxport = p ∧ s.outbox ≠ [])
      (ready s w 1 → ((t.port p).state = 2 ∨ (t.port p).state = 4 → exec (.retrain w) s = .next (st t p 1)) ∧ ((t.port p).state ≠ 2 → (t.port p).state ≠ 4 → exec (.retrain w) s = .next t))
      ∧ (ready s w 2 → ((t.port p).state = 2 → ¬busy → exec (.lowpower w) s = .next (st t p 3)) ∧ ((t.port p).state ≠ 2 ∨ busy → exec (.lowpower w) s = .next t))
      ∧ (ready s w 3 → exec (.wake w) s = .next (t.wakePort p))
      ∧ (ready s w 4 → ((t.port p).state = 0 → exec (.linkDisable w) s = .next t) ∧ ((t.port p).state ≠ 0 → (s.leases.map (fun x => x.1)).Nodup → p < s.ports.length → ∃ s' : State, exec (.linkDisable w) s = .next s' ∧ lost t s' p 0 false))
      ∧ (ready s w 5 → ((t.port p).state = 0 ∨ (t.port p).state = 4 → exec (.linkEnable w) s = .next (st t p 1)) ∧ ((t.port p).state ≠ 0 → (t.port p).state ≠ 4 → exec (.linkEnable w) s = .next t)))
    ∧ ∀ (s : State) (p : Nat), let ok := p < 8 ∧ (s.port p).state ≠ 0 ∧ (s.port p).state ≠ 4
      (ok → exec (.linkErrorRecovered p) s = .next { s with ports := s.ports.set p { s.port p with errcnt := min ((s.port p).errcnt + 1) 65535 } }) ∧ (¬ok → exec (.linkErrorRecovered p) s = .next s))

/-- 19 R394 to R401: a power command's errors in order and its effect; bring-up's steps; a trip, a reset and a loss of power leave the machine as at reset but for what lies outside it, with the report of a trip. 04 R91, 05 R106, 14 R318, 15 R339, R340, 16 R363, R370, 19 R394: a write of a register keeps its writable bits and changes no other register, a register with a condition while it holds; a reading of TRIP or of a port's LINKSTAT clears what it returns. An image is taken where its signature verifies, each digest of its header is its part's, and its version is no lower than the fused minimum; the signature, the header and the digest function are opaque. What the rules leave open here is as the assumption log says: logs 2, 9 (firmware), 33, 34, 35, 58, 89 (a die's clock at its change). -/
def Obligations.PowerAndRegisterEvents : Prop :=
  (
    let up (s : State) : Prop := s.powered = true ∧ s.linkUp 0 = true ∧ s.tripped = false ∧ s.boot ≠ 1
    let o (w : Dword) : Nat := w.toNat % 256
    let target (w : Dword) : Nat := w.toNat / 2 ^ 8 % 256
    let arg (w : Dword) : Nat := w.toNat / 2 ^ 16 % 256
    let err (s : State) (e : Nat) : State := let t := s.wakePort 0; { t with bar := { t.bar with pwrErr := e } }
    let all (w : Dword) : List (Instr × Nat × Nat) := [(.dieclk w, 1, 8), (.quadout w, 2, 96), (.quadin w, 3, 96), (.quadgate w, 4, 96), (.quadungate w, 5, 96), (.hbmdown w, 6, 8), (.hbmup w, 7, 8), (.fwload w, 8, 256)]
    let wordOk (w : Dword) : Prop := w.toNat / 2 ^ 24 = 0 ∧ 1 ≤ o w ∧ o w ≤ 8
    let argOk (w : Dword) : Prop := if o w = 1 then arg w ≤ 3 else arg w = 0
    let ready (s : State) (w : Dword) (op : Nat) : Prop := up s ∧ 4 ≤ s.boot ∧ wordOk w ∧ o w = op ∧ argOk w
    let bit {n : Nat} (x y : BitVec n) (k : Nat) (b : Bool) : Prop := ∀ j < n, y.getLsbD j = if j = k then b else x.getLsbD j
    let busy (s : State) (q : Nat) : Prop := (∃ g ∈ s.groups, g.2.resident = true ∧ g.2.core / 4 = q) ∨ ∃ k ∈ s.kernels, ∃ g ∈ k.2.gangs, g.quad = q ∧ (g.state = .halting ∨ g.state = .saving)
    let blank (s s' : State) (q : Nat) : Prop := (∀ c ∈ s'.cores, c.1 / 4 = q → c.2.streams = CoreSt.empty.streams ∧ c.2.l1 = [] ∧ c.2.wq = [] ∧ c.2.tlb = [] ∧ c.2.arrayQ = [] ∧ c.2.loads = [] ∧ c.2.drains = [] ∧ c.2.activations = []) ∧ (∀ c, c / 4 ≠ q → s'.core c = s.core c) ∧ ∀ c ∈ s'.chains, c.1 / 4 ≠ q
    (∀ (s : State) (w : Dword) (i : Instr) (op limit : Nat), (i, op, limit) ∈ all w →
      (¬up s → exec i s = .next s) ∧ (up s → s.boot < 4 → exec i s = .next (err s 4)) ∧ (up s → 4 ≤ s.boot → ¬wordOk w → exec i s = .next (err s 5)) ∧ (up s → 4 ≤ s.boot → wordOk w → o w = op → ¬argOk w → exec i s = .next (err s 5))
      ∧ (ready s w op → limit ≤ target w → ¬(op = 3 ∧ target w = 255) → exec i s = .next (err s 2)))
    ∧ (∀ (s : State) (w : Dword), let q := target w; let t := err s 0
      (ready s w 1 → q < 8 → ∃ D, exec (.dieclk w) s = .next { t with dies := D } ∧ D.length = s.dies.length ∧ ∀ d, D[d]? = (s.dies[d]?).map (fun x => if d = q ∧ x.level ≠ BitVec.ofNat 2 (arg w) then { x with level := BitVec.ofNat 2 (arg w), frac := 0 } else x))
      ∧ (ready s w 2 → q < 96 → (s.bar.qgate.getLsbD q = true → exec (.quadout w) s = .next t) ∧ (s.bar.qgate.getLsbD q = false → ∃ x, exec (.quadout w) s = .next { t with bar := { t.bar with qout := x } } ∧ bit s.bar.qout x q true))
      ∧ (ready s w 3 → q < 96 →
        (s.bar.qout.getLsbD q = false → exec (.quadin w) s = .next t) ∧ (s.bar.qout.getLsbD q = true → s.bar.qgate.getLsbD q = true ∨ s.bar.stfail.getLsbD q = true → exec (.quadin w) s = .next (err s 3))
        ∧ (s.bar.qout.getLsbD q = true → s.bar.qgate.getLsbD q = false → s.bar.stfail.getLsbD q = false → ∃ x, exec (.quadin w) s = .next { t with bar := { t.bar with qout := x } } ∧ bit s.bar.qout x q false))
      ∧ (ready s w 3 → q = 255 → ∃ x, exec (.quadin w) s = .next { t with bar := { t.bar with qout := x } } ∧ ∀ j < 96, x.getLsbD j = (s.bar.qout.getLsbD j && (s.bar.qgate.getLsbD j || s.bar.stfail.getLsbD j)))
      ∧ (ready s w 4 → q < 96 →
        (s.bar.qgate.getLsbD q = true → exec (.quadgate w) s = .next t) ∧ (s.bar.qgate.getLsbD q = false → s.bar.qout.getLsbD q = false ∨ busy s q → exec (.quadgate w) s = .next (err s 3))
        ∧ (s.bar.qgate.getLsbD q = false → s.bar.qout.getLsbD q = true → ¬busy s q → ∃ C H x, exec (.quadgate w) s = .next { t with cores := C, chains := H, bar := { t.bar with qgate := x } } ∧ bit s.bar.qgate x q true ∧ blank s { t with cores := C, chains := H } q))
      ∧ (ready s w 5 → q < 96 → (s.bar.qgate.getLsbD q = false → exec (.quadungate w) s = .next t)
        ∧ (s.bar.qgate.getLsbD q = true → ∃ C H x, exec (.quadungate w) s = .next { t with cores := C, chains := H, bar := { t.bar with qgate := x } } ∧ bit s.bar.qgate x q false ∧ blank s { t with cores := C, chains := H } q))
      ∧ (ready s w 6 → q < 8 → let held := ∃ f ∈ s.frames, f.1 * 65536 / 2 ^ 36 % 8 = q
        (held → exec (.hbmdown w) s = .next (err s 3)) ∧ (¬held → ∃ x, exec (.hbmdown w) s = .next { t with bar := { t.bar with hbmDown := x } } ∧ bit s.bar.hbmDown x q true))
      ∧ (ready s w 7 → q < 8 → ∃ x, exec (.hbmup w) s = .next { t with bar := { t.bar with hbmDown := x } } ∧ bit s.bar.hbmDown x q false)
      ∧ (ready s w 8 → (6 ≤ s.boot → exec (.fwload w) s = .next (err s 3))
        ∧ (s.boot < 6 → let v := Config.fwVersion s.hostMem s.bar.fwaddr; let digest (k : Nat) := Config.sha256 (Config.fwPart s.hostMem s.bar.fwaddr k)
          let ok := Config.fwSigned s.hostMem s.bar.fwaddr = true ∧ (∀ k < 3, Config.fwHeader s.hostMem s.bar.fwaddr k = digest k) ∧ Config.fusedMinimum ≤ v.toNat ∧ s.fwVersion ≤ v.toNat
          (¬ok → exec (.fwload w) s = .next (err s 6)) ∧ (ok → exec (.fwload w) s = .next { t with boot := 6, fwVersion := v.toNat, measured := [digest 0, digest 1, digest 2], measuredVersion := v }))))
    ∧ (∀ (s : State) (k c : Nat), exec (.hbmRetrain k c) s = .next s)
    ∧ (∀ s : State,
      let outside (s' : State) : Prop := s'.hostMem = s.hostMem ∧ s'.pool = s.pool ∧ s'.fwVersion = s.fwVersion
      let lost (s' : State) : Prop := s'.groups = [] ∧ s'.kernels = [] ∧ s'.ctxs = [] ∧ s'.slots = [] ∧ s'.cores = [] ∧ s'.leases = [] ∧ s'.frames = [] ∧ s'.counters = [] ∧ s'.unseen = [] ∧ s'.bar2 = [] ∧ s'.pend = [] ∧ s'.windows = [] ∧ s'.pins = [] ∧ s'.dies = State.reset.dies ∧ s'.measured = []
      let begun (s' : State) : Prop := s'.powered = true ∧ s'.tripped = false ∧ s'.boot = (if Config.bootVerifies s.choiceCtr then 2 else 1) ∧ s'.devTicks = 0 ∧ (s'.port 0).state = 1 ∧ (∀ p, 1 ≤ p → p < 8 → (s'.port p).state = 0) ∧ s'.bar.qout = BitVec.allOnes 96
      (∀ cause die, s.powered = false ∨ s.tripped = true ∨ cause = 0 ∨ 3 < cause ∨ (8 ≤ die ∧ die ≠ 255) → exec (.trip cause die) s = .next s)
      ∧ (∀ cause die, s.powered = true → s.tripped = false → 1 ≤ cause → cause ≤ 3 → die < 8 ∨ die = 255 → ∃ s' : State, exec (.trip cause die) s = .next s' ∧ lost s' ∧ outside s' ∧ s'.tripped = true ∧ s'.bar = { Bar0.reset with trip := BitVec.ofNat 64 (cause * 2 ^ 56 + die * 2 ^ 48 + s.ns % 2 ^ 48) }
        ∧ (s.linkUp 0 = true → s'.linkUp 0 = true ∧ s'.msi = s.msi ++ [0]) ∧ (s.linkUp 0 = false → 0 ∈ s'.msiHeld) ∧ ∀ p, 1 ≤ p → p < 8 → (s'.port p).state = 0)
      ∧ (s.powered = false → ∃ s' : State, exec .powerGood s = .next s' ∧ lost s' ∧ outside s' ∧ begun s' ∧ s'.bar.trip = 0)
      ∧ (s.powered = true → s.boot = 0 → s.tripped = false → exec .powerGood s = .next { s with boot := if Config.bootVerifies s.choiceCtr then 2 else 1, choiceCtr := s.choiceCtr + 1 })
      ∧ (s.powered = true → s.boot ≠ 0 ∨ s.tripped = true → exec .powerGood s = .next s)
      ∧ (s.powered = true → s.linkUp 0 = true → ∃ s' : State, exec .warmReset s = .next s' ∧ lost s' ∧ outside s' ∧ begun s' ∧ s'.bar.trip = s.bar.trip) ∧ (s.powered = false ∨ s.linkUp 0 = false → exec .warmReset s = .next s)
      ∧ (∃ s' : State, exec .powerOff s = .next s' ∧ lost s' ∧ outside s' ∧ s'.powered = false ∧ s'.bar.trip = 0 ∧ ∀ p < 8, (s'.port p).state = 0)
      ∧ (∀ f, let due := s.powered = true ∧ s.tripped = false ∧ s.boot = 2; (due → exec (.hbmTraining f) s = .next { s with boot := 3, bar := { s.bar with hbmDown := f } }) ∧ (¬due → exec (.hbmTraining f) s = .next s))
      ∧ ∀ f, let due := s.powered = true ∧ s.tripped = false ∧ s.boot = 3; (due → exec (.selfTest f) s = .next { s with boot := 4, bar := { s.bar with stfail := f } }) ∧ (¬due → exec (.selfTest f) s = .next s)))
  ∧ (
    let up (s : State) : Prop := s.powered = true ∧ s.linkUp 0 = true ∧ s.boot ≠ 1
    let regs : List Nat := [0x1000, 0x1010, 0x2000, 0x2010, 0x3000, 0x3008, 0x3010, 0x3018, 0x3020, 0x4000, 0x4008, 0x5008, 0x5010, 0x5018, 0x5020, 0x5028, 0x5030, 0x5038, 0x5040, 0x5048, 0x5050, 0x5058, 0x8000, 0x8008, 0x8018, 0x8020, 0x8028, 0x8030, 0x8100, 0x8108, 0x8110, 0x8118, 0x8120, 0x8128, 0x8130, 0x8138, 0x4018, 0x4020, 0x4028, 0x4030, 0x4038, 0x4040, 0x4048]
    let writable : List (Nat × Nat) := [(0x1000, 2 ^ 57 - 2 ^ 7), (0x2000, 2 ^ 57 - 2 ^ 7), (0x3000, 2 ^ 57 - 2 ^ 6), (0x3008, 2 ^ 5 - 1), (0x3010, 2 ^ 64 - 1), (0x3020, 2 ^ 64 - 2 ^ 40 + (2 ^ 32 - 1)), (0x5038, 2 ^ 41 - 2 ^ 32), (0x5048, 2 ^ 64 - 1), (0x8000, 2 ^ 64 - 1), (0x8008, 2 ^ 64 - 1), (0x8020, 2 ^ 64 - 1), (0x8030, 2 ^ 64 - 1),
      (0x8100, 2 ^ 64 - 1), (0x8108, 2 ^ 64 - 1), (0x8110, 2 ^ 64 - 1), (0x8118, 2 ^ 64 - 1), (0x8120, 2 ^ 64 - 1), (0x8128, 2 ^ 64 - 1), (0x8130, 2 ^ 64 - 1), (0x8138, 2 ^ 64 - 1), (0x4018, 2 ^ 12 - 1), (0x4020, 2 ^ 12 - 1), (0x4028, 2 ^ 12 - 1), (0x4030, 2 ^ 12 - 1), (0x4038, 2 ^ 12 - 1), (0x4040, 2 ^ 12 - 1), (0x4048, 2 ^ 12 - 1)]
    (∀ (s : State) (off size : Nat) (v : Dword) (i : Instr), i ∈ [.registerWrite off size v, .sampcfgWrite v, .mbxcfgWrite v, .tripRead, .linkstatRead off] → ¬up s → exec i s = .next s)
    ∧ (∀ (s : State) (off size : Nat) (v : Dword), up s → s.tripped = true → exec (.registerWrite off size v) s = .next s ∧ exec (.sampcfgWrite v) s = .next s ∧ exec (.mbxcfgWrite v) s = .next s)
    ∧ (∀ (s : State) (off size : Nat) (v : Dword), up s → s.tripped = false → size ≠ 8 ∨ off ∉ writable.map (fun e => e.1) ∨ ((off = 0x3000 ∨ off = 0x3008) ∧ s.bar.rqprod ≠ s.bar.rqcons) ∨ (0x4018 ≤ off ∧ off < 0x4050 ∧ ((s.wakePort 0).port ((off - 0x4010) / 8)).state = 2) → exec (.registerWrite off size v) s = .next (s.wakePort 0))
    ∧ (∀ (s : State) (off mask : Nat) (v : Dword), up s → s.tripped = false → s.ports.length = 8 → (off, mask) ∈ writable → ((off = 0x3000 ∨ off = 0x3008) → s.bar.rqprod = s.bar.rqcons) → (off = 0x3020 → ∀ c ∈ s.ctxs, c.2.state = .empty) → (0x4018 ≤ off → off < 0x4050 → (s.port ((off - 0x4010) / 8)).state ≠ 2) →
      ∃ B P, exec (.registerWrite off 8 v) s = .next { s with bar := B, ports := P } ∧ (off ≠ 0x5038 → ({ s with bar := B, ports := P } : State).barRead off = v &&& BitVec.ofNat 64 mask) ∧ (off = 0x5038 → ({ s with bar := B, ports := P } : State).barRead off = BitVec.ofNat 64 ((if v.toNat / 2 ^ 32 % 512 < 4 then 64 else v.toNat / 2 ^ 32 % 512) * 2 ^ 32) ||| (s.bar.hbmDown.setWidth 64))
        ∧ ∀ k ∈ regs, k ≠ off → ({ s with bar := B, ports := P } : State).barRead k = s.barRead k)
    ∧ (∀ (s : State) (v : Dword), up s → s.tripped = false → (∃ c ∈ s.ctxs, c.2.state ≠ .empty) → exec (.registerWrite 0x3020 8 v) s = .next { s.wakePort 0 with bar := { s.bar with age := v.toNat / 2 ^ 40 % 256, renewwait := v.toNat / 2 ^ 16 % 65536, lead := v.toNat % 65536 } })
    ∧ (∀ (s : State) (v : Dword), up s → s.tripped = false →
      ∃ C, exec (.sampcfgWrite v) s = .next { s.wakePort 0 with bar := { s.bar with gated := v.getLsbD 16, period := (if v.toNat % 65536 = 0 then 0 else max 16 (v.toNat % 65536)), sampStart := s.dies.map (fun d => d.clock) }, cores := C } ∧ C.map (fun c => c.1) = s.cores.map (fun c => c.1)
        ∧ ∀ (k n : Nat) (c : CoreSt), s.cores[k]? = some (n, c) → C[k]? = some (n, { c with sampleSlot := none, sampleNext := 0 }))
    ∧ (∀ (s : State) (v : Dword), up s → s.tripped = false → (s.bar.mbxen = true → v.getLsbD 3 = true → exec (.mbxcfgWrite v) s = .next s)
      ∧ (s.bar.mbxen = false ∨ v.getLsbD 3 = false → exec (.mbxcfgWrite v) s = .next { s.wakePort 0 with bar := { s.bar with mbxaddr := v &&& ~~~(0xFFFF : Dword), mbxen := v.getLsbD 3, mbxport := v.toNat % 8 } }))
    ∧ (∀ s : State, up s → exec .tripRead s = .next { s.wakePort 0 with reply := (bytesOfNat s.bar.trip.toNat 8, false), bar := { s.bar with trip := 0 } })
    ∧ ∀ (s : State) (p : Nat), up s → (8 ≤ p → exec (.linkstatRead p) s = .next s)
      ∧ (p < 8 → let t := s.wakePort 0; let x := t.port p; x.width < 4 → x.rate < 4 → x.state < 8 → exec (.linkstatRead p) s = .next { t with ports := t.ports.set p { x with errcnt := 0 }, reply := (bytesOfNat (x.errcnt * 2 ^ 32 + x.width * 2 ^ 8 + x.rate * 2 ^ 6 + x.state) 8, false) }))

/-- 16 R362 to R365, R369, R373: a debug operation's errors in order; a halt and a resumption of a gang, what each object of READ shows and WRITE sets, breakpoints and watchpoints, a trigger's configuration, a trial and its delays. 16 R370, R371: a sample is due each PERIOD, and takes the group of the next slot, wrapping to the lowest; a gated quad gives none (19 R395). A HALT that meets a decided commit waits, BUSY (10 R240). What the rules leave open here is as the assumption log says: logs 2, 14, 25, 26 (an image written), 31, 43, 60. -/
def Obligations.DebugEvents : Prop :=
  let up (s : State) : Prop := s.powered = true ∧ s.linkUp 0 = true ∧ s.tripped = false ∧ s.boot ≠ 1
  let op (w : Dword) : Nat := w.toNat % 256
  let cn (w : Dword) : Nat := w.toNat / 2 ^ 8 % 256
  let wordOk (w : Dword) : Prop := w.toNat / 2 ^ 16 = 0 ∧ 1 ≤ op w ∧ op w ≤ 10
  let err (s : State) (e : Nat) : State := let t := s.wakePort 0; { t with bar := { t.bar with dbgErr := e } }
  let obj (s : State) : Nat := s.bar.dbgarg1.toNat / 2 ^ 60
  let index (s : State) : Nat := s.bar.dbgarg0.toNat / 2 ^ 32
  let all (s : State) (w : Dword) : List (Instr × Nat × Bool) := let r := (s.ctx (cn w)).rights
    [(.hostHalt w, 1, r.getLsbD 0), (.debugResume w, 2, r.getLsbD 0), (.debugRead w, 3, r.getLsbD 0 || (decide (obj s = 5 ∨ obj s = 6) && r.getLsbD 1)), (.debugWrite w, 4, r.getLsbD 0), (.setbp w, 5, r.getLsbD 0), (.clrbp w, 6, r.getLsbD 0), (.setwp w, 7, r.getLsbD 0), (.clrwp w, 8, r.getLsbD 0), (.trigcfg w, 9, r.getLsbD 2), (.trial w, 10, r.getLsbD 1)]
  let ready (s : State) (w : Dword) (i : Instr) : Prop := up s ∧ 6 ≤ s.boot ∧ s.bar.dbgHalt = [] ∧ wordOk w ∧ (i, op w, true) ∈ all s w
  let hit (s : State) (c : Nat) (x : Nat × Group) : Bool := x.2.ctx == c && x.2.gidx == s.bar.dbgarg1.toNat / 2 ^ 24 % 2 ^ 24 && decide ((s.kern? x.2.kern).map (fun k => k.kseq) = some (s.bar.dbgarg0.setWidth 32))
  let named (s : State) (c gid tid : Nat) (g : Group) : Prop := s.groups.find? (hit s c) = some (gid, g) ∧ s.group? gid = some g ∧ s.bar.dbgarg1.toNat / 2 ^ 14 % 2 ^ 10 = tid
  let alone (s : State) (gid : Nat) (g : Group) : Prop := ∃ x, s.gang? g.kern g.gang = some x ∧ x.members = [gid]
  let word (x : BitVec 512) (k : Nat) : Nat := x.toNat / 2 ^ (64 * k) % 2 ^ 64
  let reads (s : State) (w : Dword) (ok : BitVec 512 → Prop) : Prop := ∃ x, exec (.debugRead w) s = .next { err s 0 with choiceCtr := s.choiceCtr + 1, bar := { s.bar with dbgErr := 0, dbgdata := x } } ∧ ok x
  let words (x : BitVec 512) (l : List Nat) : Prop := ∀ k < 8, word x k = l.getD k 0
  (∀ (s : State) (w : Dword) (i : Instr) (n : Nat) (right : Bool), (i, n, right) ∈ all s w →
    (¬up s → exec i s = .next s) ∧ (up s → s.boot < 6 ∨ s.bar.dbgHalt ≠ [] → exec i s = .next (err s 4)) ∧ (up s → 6 ≤ s.boot → s.bar.dbgHalt = [] → ¬wordOk w → exec i s = .next (err s 5)) ∧ (up s → 6 ≤ s.boot → s.bar.dbgHalt = [] → wordOk w → op w = n → right = false → exec i s = .next (err s 1))
    ∧ (ready s w i → n ≤ 4 → ¬(n = 3 ∧ 5 ≤ obj s) → ¬(n = 4 ∧ (obj s = 2 ∨ 5 ≤ obj s)) → s.groups.find? (hit s (cn w)) = none → exec i s = .next (err s 3)))
  ∧ (∀ (s : State) (w : Dword) (gid tid : Nat) (g : Group), named s (cn w) gid tid g → alone s gid g →
    (ready s w (.hostHalt w) → s.bar.dbgarg1.getLsbD 0 = true → ∃ s' : State, exec (.hostHalt w) s = .next s' ∧ s'.bar.dbgErr = 0 ∧ s'.group? gid = some { g with threads := g.threads.map (fun t => if t.cond = .exited then t else { t with preciseHalt := true }) })
    ∧ (ready s w (.hostHalt w) → s.bar.dbgarg1.getLsbD 0 = false → ∀ t, g.threads = [t] → t.region = none → t.handler = none → t.held = [] → t.newWait = none → g.resident = true →
      (t.cond = .running ∨ t.cond = .waiting → ∃ (s' : State) (u : Thread) (x : ContFault), exec (.hostHalt w) s = .next s' ∧ s'.bar.dbgErr = 0 ∧ s'.thread? gid 0 = some u ∧ u.cond = .blocked .debug ∧ u.addr = t.addr ∧ u.stop = 4 ∧ u.v = t.v ∧ u.p = t.p
        ∧ (s'.ctx (cn w)).faults = (s.ctx (cn w)).faults ++ [x] ∧ x.record.cause = 0x42 ∧ x.record.route = 3 ∧ x.record.instAddr = t.addr ∧ x.record.laneMask = 1 ∧ x.tids = [0] ∧ x.grp = some gid)
      ∧ (∀ r, t.cond = .blocked r → r ≠ .queue → ∃ (s' : State) (u : Thread), exec (.hostHalt w) s = .next s' ∧ s'.thread? gid 0 = some u ∧ u.cond = .blocked r ∧ u.addr = t.addr ∧ (r ≠ .debug → u.haltReq = some 4) ∧ (s'.ctx (cn w)).faults = (s.ctx (cn w)).faults))
    ∧ (ready s w (.hostHalt w) → s.bar.dbgarg1.getLsbD 0 = false → (∃ t ∈ g.threads, t.committing = true) → exec (.hostHalt w) s = .next { err s 0 with bar := { s.bar with dbgErr := 0, dbgHalt := [gid] } } ∧ ({ err s 0 with bar := { s.bar with dbgErr := 0, dbgHalt := [gid] } } : State).barRead 0x8018 = 0x80)
    ∧ (ready s w (.debugResume w) → ∃ s' : State, exec (.debugResume w) s = .next s' ∧ s'.bar.dbgErr = 0 ∧ ∀ (n : Nat) (t : Thread), g.threads[n]? = some t → (t.cond ≠ .blocked .debug → s'.thread? gid n = some { t with haltReq := none })
      ∧ (t.cond = .blocked .debug → s'.thread? gid n = some { t.waitAt (if t.stop = 1 then t.addr + 8 else t.addr) (s.clock g.core) with stepOver := t.stepOver || t.stop == 2, preciseHalt := t.preciseHalt && t.stop != 3, stop := 0, haltReq := none })))
  ∧ (∀ (s : State) (w : Dword) (gid tid : Nat) (g : Group) (t : Thread), ready s w (.debugRead w) → named s (cn w) gid tid g → g.threads[tid]? = some t →
    (obj s = 0 → reads s w (fun x => ∀ k < 16, x.extractLsb' (32 * k) 32 = if index s + k < g.frame then t.v.get (index s + k) else 0))
    ∧ (obj s = 1 → reads s w (fun x => words x [t.waitWord.toNat, t.retry % 256 * 2 ^ 32 + t.held.length % 256 * 2 ^ 16 + 0x80 + t.p.toNat, t.sq.toNat * 2 ^ 32 + t.spill % 2 ^ 32, t.depth.toNat]))
    ∧ (obj s = 2 → (∀ b, s.bar? (g.owner gid) (index s) = some b → b.members < 2 ^ 64 → reads s w (fun x => words x [b.phase.toNat * 2 ^ 32 + b.count.toNat, b.expBytes.toNat * 2 ^ 32 + b.arrivals.toNat, b.arrBytes.toNat * 2 ^ 32 + (if b.lastOvf then 1 else 0), b.members]))
      ∧ (s.bar? (g.owner gid) (index s) = none → exec (.debugRead w) s = .next (err s 2)))
    ∧ (obj s = 3 → (g.resident = true → exec (.debugRead w) s = .next (err s 3)) ∧ (g.resident = false → reads s w (fun x => ∀ y, s.gang? g.kern g.gang = some y → ∀ k < 64, ∀ b, s.gangByte y (64 * index s + k) = some b → x.extractLsb' (8 * k) 8 = b)))
    ∧ (obj s = 4 → reads s w (fun x => words x [g.fptrapen.toNat * 2 ^ 32 + g.fpflags.toNat, t.acause.toNat * 2 ^ 32 + g.fpround.toNat, (if t.reloc then 2 ^ 32 else 0) + t.arepairs.toNat, t.depth.toNat * 2 ^ 32 + t.regtop.toNat, g.key.toNat, (if g.fpPending.isSome then 1 else 0), ((g.fpPending.map (fun (y : Dword × Nat) => y.1)).getD 0).toNat])))
  ∧ (∀ (s : State) (w : Dword), ready s w (.debugRead w) → let x := s.ctx (cn w)
    (obj s = 5 → (∀ t, x.trigs[index s]? = some t → reads s w (fun d => words d [(if t.isOpen then 1 else 0), t.windows.toNat, t.emptyWin.toNat, t.cfg.toNat, t.action.toNat * 16])) ∧ (x.trigs[index s]? = none → exec (.debugRead w) s = .next (err s 2)))
    ∧ (obj s = 6 → reads s w (fun d => words d [x.trial.dsum.toNat, x.trial.streamCyc.toNat, x.trial.cfg.toNat, (if x.trial.en then 1 else 0)])) ∧ (6 < obj s → exec (.debugRead w) s = .next (err s 2)))
  ∧ (∀ (s : State) (w : Dword), ready s w (.debugWrite w) → (obj s = 2 ∨ 4 < obj s → exec (.debugWrite w) s = .next (err s 2)) ∧ ∀ (gid tid : Nat) (g : Group) (t : Thread), named s (cn w) gid tid g → g.threads[tid]? = some t →
    let d (k : Nat) : Nat := word s.bar.dbgdata k
    let writes (ok : Group → Thread → Prop) : Prop := ∃ (s' : State) (h : Group) (u : Thread), exec (.debugWrite w) s = .next s' ∧ s'.bar.dbgErr = 0 ∧ s'.group? gid = some h ∧ h.threads = g.threads.set tid u ∧ ok h u ∧ s'.hbm = s.hbm ∧ s'.ctxs = s.ctxs
    (obj s = 0 → (g.frame < index s + 16 → exec (.debugWrite w) s = .next (err s 2)) ∧ (index s + 16 ≤ g.frame → writes (fun h u => h.fpflags = g.fpflags ∧ u = { t with v := u.v, released := u.released } ∧ ∀ n, u.v.get n = if index s ≤ n ∧ n < index s + 16 then s.bar.dbgdata.extractLsb' (32 * (n - index s)) 32 else t.v.get n)))
    ∧ (obj s = 1 → let code := d 0 / 2 ^ 59; let a : Dword := BitVec.ofNat 64 (d 0 / 8 % 2 ^ 54 * 8)
      (code ∈ [8, 24, 25, 26, 27, 28, 29, 30, 31] ∨ code ∈ [1, 2, 3, 4, 5, 6, 7] ∨ code ∈ [17, 18, 19, 20, 21, 22, 23] → exec (.debugWrite w) s = .next (err s 2))
      ∧ (code = 0 ∨ (9 ≤ code ∧ code ≤ 16) → writes (fun _ u => u.p = BitVec.ofNat 7 (d 1) ∧ u.sq = BitVec.ofNat 32 (d 2 / 2 ^ 32) ∧ u.v = t.v ∧ u.held = t.held
        ∧ (t.cond = .running ∨ (code = t.waitWord.toNat / 2 ^ 59 ∧ d 0 / 8 % 2 ^ 54 = t.waitWord.toNat / 8 % 2 ^ 54) → u.cond = t.cond ∧ u.addr = t.addr)
        ∧ (t.cond = .running → code ≠ t.waitWord.toNat / 2 ^ 59 ∨ d 0 / 8 % 2 ^ 54 ≠ t.waitWord.toNat / 8 % 2 ^ 54 → u.newWait = some (BitVec.ofNat 64 (d 0)))
        ∧ (t.cond ≠ .running → code ≠ t.waitWord.toNat / 2 ^ 59 ∨ d 0 / 8 % 2 ^ 54 ≠ t.waitWord.toNat / 8 % 2 ^ 54 → u.addr = a ∧ (code = 0 → u.cond = .waiting) ∧ (code = 16 → u.cond = .exited) ∧ ∀ r, (code, r) ∈ [(9, Reason.barrier), (10, .queue), (11, .nap), (12, .page), (13, .contain), (14, .handler), (15, .debug)] → u.cond = .blocked r))))
    ∧ (obj s = 3 → (g.resident = true → exec (.debugWrite w) s = .next (err s 3)) ∧ (g.resident = false → ∀ x, s.gang? g.kern g.gang = some x → let bytes : List Byte := (List.range 64).map (fun k => s.bar.dbgdata.extractLsb' (8 * k) 8); let put (a : State) (y : Gang) : State := let b := a.savePut g.ctx y (64 * index s) 64; { b with bar := { b.bar with dbgErr := 0 } }
      (64 * index s < 4096 → (x.ofArea (areaWrite x.area (64 * index s) bytes) = none → exec (.debugWrite w) s = .next (err s 2)) ∧ ∀ y, x.ofArea (areaWrite x.area (64 * index s) bytes) = some y → exec (.debugWrite w) s = .next (put ((s.wakePort 0).modGang g.kern g.gang (fun _ => y)) y))
      ∧ ∀ n o h, s.imageGroup x (64 * index s) = some (n, o) → s.group? n = some h → (h.imageWrite o bytes (s.clock g.core) = none → exec (.debugWrite w) s = .next (err s 2)) ∧ ∀ z, h.imageWrite o bytes (s.clock g.core) = some z → exec (.debugWrite w) s = .next (put { s.wakePort 0 with groups := putKey n z.retable s.groups } x)))
    ∧ (obj s = 4 → (4 < d 1 % 8 → exec (.debugWrite w) s = .next (err s 2)) ∧ (d 1 % 8 ≤ 4 → writes (fun h u => h.fpflags = BitVec.ofNat 7 (d 0) ∧ h.fpround = BitVec.ofNat 3 (d 1) ∧ h.key = BitVec.ofNat 64 (d 4) ∧ h.trapEn = BitVec.ofNat 7 (d 0 / 2 ^ 32) ∧ h.orderReq = (g.orderReq && !(d 0).testBit 48) ∧ h.pinLapse = (g.pinLapse && !(d 0).testBit 49) ∧ h.fpPending = g.fpPending
      ∧ u = { t with arepairs := BitVec.ofNat 32 (d 2) }))))
  ∧ (∀ (s : State) (w : Dword), let x := s.ctx (cn w); let a := s.bar.dbgarg0; let b := s.bar.dbgarg1; let put (y : Ctx) : State := { err s 0 with ctxs := putKey (cn w) y s.ctxs }
    (ready s w (.setbp w) → (a.toNat % 8 ≠ 0 → exec (.setbp w) s = .next (err s 2)) ∧ (a.toNat % 8 = 0 → exec (.setbp w) s = .next (put { x with bps := x.bps.set (b.toNat % 8) (some a) })))
    ∧ (ready s w (.clrbp w) → exec (.clrbp w) s = .next (put { x with bps := x.bps.set (b.toNat % 8) none }))
    ∧ (ready s w (.setwp w) → let len := b.toNat / 2 ^ 32; (len = 0 ∨ 65536 < len → exec (.setwp w) s = .next (err s 2))
      ∧ (1 ≤ len → len ≤ 65536 → exec (.setwp w) s = .next (put { x with wps := x.wps.set (b.toNat % 4) (some { base := a, len := len, load := b.getLsbD 4, store := b.getLsbD 5, atomic := b.getLsbD 6 }) })))
    ∧ (ready s w (.clrwp w) → exec (.clrwp w) s = .next (put { x with wps := x.wps.set (b.toNat % 4) none }))
    ∧ (ready s w (.trigcfg w) → (5 < a.toNat / 2 ^ 44 % 16 ∨ 5 < a.toNat / 2 ^ 12 % 16 → exec (.trigcfg w) s = .next (err s 2))
      ∧ (a.toNat / 2 ^ 44 % 16 ≤ 5 → a.toNat / 2 ^ 12 % 16 ≤ 5 → ∃ T, exec (.trigcfg w) s = .next (put { x with trigs := T }) ∧ ∀ k, T[k]? = (x.trigs[k]?).map (fun t => if k = b.toNat % 4 then { t with isOpen := false, cfg := a, action := b.extractLsb' 4 3 } else t)))
    ∧ (ready s w (.trial w) → (a.toNat / 2 ^ 16 % 65536 = 0 → exec (.trial w) s = .next (err s 2))
      ∧ (a.toNat / 2 ^ 16 % 65536 ≠ 0 → b.getLsbD 0 = false → exec (.trial w) s = .next (put { x with trial := { x.trial with en := false, cfg := a } }))
      ∧ (a.toNat / 2 ^ 16 % 65536 ≠ 0 → b.getLsbD 0 = true → ∃ C, exec (.trial w) s = .next { put { x with trial := { en := true, cfg := a, dsum := 0, streamCyc := 0 } } with cores := C } ∧ ∀ (k n : Nat) (c : CoreSt), s.cores[k]? = some (n, c) → C[k]? = some (n, { c with streams := c.streams.map (fun y => { y with trialCount := 0, trialCtx := none }) }))))
  ∧ (∀ (s : State) (core k : Nat), let st := s.stream core k
    (st.trialCtx = none → exec (.trialDelay core k) s = .next s) ∧ ∀ ctx, st.trialCtx = some ctx → let c := s.ctx ctx; let n := c.trial.cfg.toNat / 2 ^ 16 % 65536; let d := c.trial.cfg.toNat / 2 ^ 32 % 65536
      let due := c.trial.en = true ∧ c.rights.getLsbD 1 = true ∧ n ≠ 0 ∧ n ≤ st.trialCount ∧ k < 2
      (¬due → exec (.trialDelay core k) s = .next s) ∧ (due → exec (.trialDelay core k) s = .next ((s.setCtx ctx { c with trial := { c.trial with dsum := c.trial.dsum + BitVec.ofNat 64 d } }).setStream core k { st with trialCount := 0, trialDelay := s.clock core + d, trialCtx := none })))
  ∧ ∀ (s : State) (core : Nat), let c := s.core core
    let due := s.registrarUp = true ∧ core < 384 ∧ s.bar.period ≠ 0 ∧ (s.bar.sampStart.getD (core / 48) 0) + s.bar.period * (c.sampleNext + 1) ≤ s.clock core
    let shown := s.bar.qgate.getLsbD (core / 4) = false
    let t := s.setCore core { c with sampleNext := c.sampleNext + 1 }
    let next (gid : Nat) (g : Group) : Prop := let after (n : Nat) : Bool := decide (∀ k, c.sampleSlot = some k → k < n)
      (∀ e ∈ s.residents core, e ≠ (gid, g) → e.2.slot ≠ g.slot) ∧ ((after g.slot = true ∧ ∀ e ∈ s.residents core, after e.2.slot = true → g.slot ≤ e.2.slot) ∨ ((∀ e ∈ s.residents core, after e.2.slot = false) ∧ ∀ e ∈ s.residents core, g.slot ≤ e.2.slot))
    (¬due → exec (.sample core) s = .next s)
    ∧ (due → ¬shown → exec (.sample core) s = .next t)
    ∧ (due → shown → (∀ g ∈ s.groups, ¬(g.2.resident = true ∧ g.2.core = core)) → (s.bar.gated = true → exec (.sample core) s = .next t)
      ∧ (s.bar.gated = false → exec (.sample core) s = .next (t.ringWrite (s.bar.sampbase.toNat + 32 * core) 32 (s.ns % 2 ^ 64 + (core * 2 ^ 35 + 7 * 2 ^ 24) * 2 ^ 128))))
    ∧ ∀ (gid : Nat) (g : Group), due → shown → (gid, g) ∈ s.residents core → next gid g → let u := s.setCore core { c with sampleNext := c.sampleNext + 1, sampleSlot := some g.slot }; let x := s.ctx g.ctx
      ((x.rights.getLsbD 1 = false ∨ (s.bar.gated = true ∧ ∀ y ∈ x.trigs, ¬(y.isOpen = true ∧ y.action.getLsbD 1 = true))) → exec (.sample core) s = .next u)
      ∧ (x.rights.getLsbD 1 = true → s.bar.gated = false → g.ctx < 256 → g.slot < 8 → g.gidx < 2 ^ 24 → ∃ (r : SampleOf) (top : Nat), exec (.sample core) s = .next (u.ringWrite (s.bar.sampbase.toNat + 32 * core) 32 (s.ns % 2 ^ 64 + r.addr.toNat % 2 ^ 57 * 2 ^ 64 + (g.ctx * 2 ^ 44 + core * 2 ^ 35 + g.slot * 2 ^ 32 + r.cls * 2 ^ 24 + r.pop % 256 * 2 ^ 16 + r.index % 65536) * 2 ^ 128 + (g.gidx * 2 ^ 32 + top) * 2 ^ 192))
        ∧ r = s.classify core gid g ∧ r.cls < 8 ∧ top = (((r.low.bind (fun n => g.threads[n]?)).map (fun y => y.regtop.toNat)).getD 0)
        ∧ (∀ y, (s.stream core 0).last = some y → y.grp = gid → y.clock = s.clock core → r.cls = 0 ∧ r.addr = y.entry ∧ r.index = y.index ∧ r.pop = y.pop ∧ r.low = some y.low)
        ∧ (g.threads = [] → (s.stream core 0).last = none → (s.stream core 1).last = none → (s.stream core 0).dispatch = none → (s.stream core 1).dispatch = none → s.groupEntries gid g (s.clock core) = [] → r.cls = 7 ∧ r.addr = 0))

/-- 02 R43, 07 R149, 16 R355 to R357, R359: a word with a decode fault of its own, with a register past its group's launch parameters, or that crosses lanes outside a row-block dispatch, has no effect: its thread waits at it for containment, in one record with the fault's cause. The grounds: a lookahead on any but the instructions R44 lists; a last-read mark on what is no vector register (R49); a non-zero unused field, a reserved operand code, a code of another class, or a register past the frame (R36, R37), said in full for NOP and ADD; the eight of R35 for a pair, and a frame too small for it; FRET outside a handler activation (R359); a scope FENCE does not accept (R23). -/
def Obligations.DecodeFaults : Prop :=
  let short0 : List (F0 → Instr) := [.nop, .jmp, .calli, .ret, .exit, .yield, .brk, .add, .sub, .addsat, .mul, .mulhi, .mad, .madw, .min, .max, .abs, .neg, .dot4, .add64, .sub64, .and, .or, .xor, .andn, .not, .shl, .shr, .sar, .rol, .bfx, .bfi, .popc, .clz, .brev, .prmt, .shl64, .shr64, .setp, .plop, .sel, .mov, .ptov, .vtop, .lea, .fadd, .fsub, .fmul, .ffma, .fscale, .fdot2, .fmin, .fmax, .famax, .fsetp, .frnd, .fclass, .ffrexp, .cvt, .cvtsr, .pack, .unpack, .qscale, .qenc, .qdec, .vote, .ballot, .matchLanes, .shfl, .redl, .scanl, .ltset, .ltget, .stt, .tpref, .bind, .unbind, .fence, .cinv, .cwb, .pin, .unpin, .spmap, .spunmap, .barrive, .bsync, .bwait, .bexpect, .btest, .btestCur, .mma, .mzero, .mrng, .mldb, .mdrain, .cpycan, .pghint, .fret, .fread, .notify]
  let long0 : List (F0 → Instr) := [.fdiv, .fsqrt, .frcp, .frsq, .fexp2, .flog2, .fsin, .fcos, .ftanh, .fsigm, .ldt, .atom, .cas, .red, .enq, .deq, .acommit, .aabort, .cpy, .cpyx, .cpywp, .cpyseq, .cpyseqStat, .launch, .pgstat, .leaseq, .leaseqVa]
  let short1 : List (F1 → Instr) := [.rowblk, .nap, .trap, .addImm, .subImm, .mulImm, .minImm, .maxImm, .andImm, .orImm, .xorImm, .shlImm, .shrImm, .sarImm, .setpImm, .leaImm, .st, .pref, .csrr, .csrw, .enter, .leave, .mark, .trig]
  let long1 : List (F1 → Instr) := [.ld, .ldq, .abegin]
  let vec (fr : Nat) (c : Code) : Prop := c.toNat < 0x600 ∧ c.toNat < fr
  let src (fr : Nat) (c : Code) : Prop := vec fr c ∨ (0x608 ≤ c.toNat ∧ c.toNat < 0x610)
  let marks (w : F0) : Prop := (w.ma = true → w.a.toNat < 0x600) ∧ (w.mb = true → w.b.toNat < 0x600)
  let immediate (h : Half) : Prop := 0x40 ≤ h.op7.toNat ∧ h.op7.toNat ≤ 0x4A
  let floating (h : Half) : Prop := (0x10 ≤ h.op7.toNat ∧ h.op7.toNat ≤ 0x14) ∨ h.op7.toNat = 0x16
  let integer (h : Half) : Prop := h.op7.toNat ≤ 0x0B ∨ immediate h
  let reads (h : Half) (n : Nat) : Prop := (n = h.src.toNat ∧ ¬immediate h) ∨ (n = h.dst.toNat ∧ h.op7.toNat ≠ 0x0B)
  let badHalf (h : Half) : Prop := ¬(integer h ∨ floating h) ∨ (integer h ∧ 1 < h.ty.toNat) ∨ (floating h ∧ (h.ty.toNat < 2 ∨ 4 < h.ty.toNat)) ∨ h.low ≠ 0 ∨ (immediate h ∧ h.m = true)
  let multiplies (h : Half) : Prop := h.op7.toNat ∈ [0x02, 0x42, 0x12]
  let badPair (h k : Half) : Prop := badHalf h ∨ badHalf k ∨ h.dst.toNat % 8 = k.dst.toNat % 8 ∨ (∃ m n, reads h m ∧ reads k n ∧ m ≠ n ∧ m % 8 = n % 8) ∨ (multiplies h ∧ multiplies k)
  let out (fr : Nat) (h : Half) : Prop := fr ≤ h.dst.toNat ∨ (¬immediate h ∧ fr ≤ h.src.toNat)
  (∀ (i : Instr) (s : State) (iss : Issue) (g : Group) (l : Nat × Nat) (t : Thread) (c : Nat), encode i ≠ none → s.issue = some iss → s.group? iss.grp = some g → s.handling iss = false → iss.lanes = [l] → g.threads[l.2]? = some t → t.cond = .running → t.region = none → t.inHandler = false → t.raised = [] → t.late = none →
    wordFault i g.frame g.accs (s.corOf g) false = some c ∨ (c = 4 ∧ wordFault i g.frame g.accs (s.corOf g) false = none ∧ crossLane i = true ∧ ((s.issuing iss).map (fun d => d.rowblk)).getD false = false) →
    ∃ s' : State, exec i s = .next s' ∧ FaultTaken s s' iss g l t 0 (.plain c 0 iss.word))
  ∧ ∀ (fr acc : Nat) (cor h : Bool), let wf (i : Instr) : Option Nat := wordFault i fr acc cor h
    (∀ w : F0, (∀ f ∈ short0, w.la ≠ 0 → wf (f w) = some 1) ∧ (∀ f ∈ long0, wf (f w) = wf (f { w with la := 0 })))
    ∧ (∀ w : F1, (∀ f ∈ short1, w.la ≠ 0 → wf (f w) = some 1) ∧ (∀ f ∈ long1, wf (f w) = wf (f { w with la := 0 })))
    ∧ (∀ w : F0, ¬marks w → ∀ f ∈ short0 ++ long0, wf (f w) = some 1) ∧ (∀ w : F1, w.ma = true → 0x600 ≤ w.a.toNat → ∀ f ∈ short1 ++ long1, wf (f w) = some 1)
    ∧ (∀ w : F0, (0x640 ≤ w.d.toNat ∧ w.d.toNat < 0x700) ∨ (0x640 ≤ w.a.toNat ∧ w.a.toNat < 0x700) → ∀ f ∈ short0 ++ long0, wf (f w) = some 1 ∨ wf (f w) = some 3)
    ∧ (∀ w : F0, let ok := w.d = 0 ∧ w.a = 0 ∧ w.b = 0 ∧ w.la = 0 ∧ w.ma = false ∧ w.mb = false ∧ w.ty = .i32 ∧ w.x = 0
      (¬ok → wf (.nop w) = some 1) ∧ (ok → wf (.nop w) = none))
    ∧ (∀ w : F0, let ok := w.la = 0 ∧ marks w ∧ (w.ty = .i32 ∨ w.ty = .n32) ∧ w.x = 0; let regs := vec fr w.d ∧ src fr w.a ∧ src fr w.b
      (¬ok → wf (.add w) = some 1) ∧ (ok → ¬regs → wf (.add w) = some 3) ∧ (ok → regs → wf (.add w) = none))
    ∧ (∀ a b : Half, (badPair a b → wf (.pair a b) = some 2) ∧ (¬badPair a b → out fr a ∨ out fr b → wf (.pair a b) = some 3) ∧ (¬badPair a b → ¬(out fr a ∨ out fr b) → wf (.pair a b) = none))
    ∧ (∀ w : F0, h = false → wf (.fret w) = some 1)
    ∧ ∀ (w : F0) (n : Nat), 4 < n → n < 8 → wf (.fence { w with d := 0, a := 0, b := 0, la := 0, ma := false, mb := false, ty := .i32, x := BitVec.ofNat 5 n }) = some 8

/-- 02 R29 to R36, R51, R52: words as the spec writes them out, and what they decode to; a word of an opcode that the map does not assign, or in a format that the opcode does not accept, decodes to nothing. -/
def Obligations.DecodedWords : Prop :=
  let al : Guard := { p := 7, neg := false }
  let f0 (d a b : Nat) (ty : Ty) (x : Nat) : F0 := { d := BitVec.ofNat 11 d, a := BitVec.ofNat 11 a, b := BitVec.ofNat 11 b, g := al, la := 0, ma := false, mb := false, ty := ty, x := BitVec.ofNat 5 x }
  let f1 (d a imm la x : Nat) : F1 := { d := BitVec.ofNat 11 d, a := BitVec.ofNat 11 a, imm := BitVec.ofNat 16 imm, g := al, la := BitVec.ofNat 4 la, ma := false, x := BitVec.ofNat 5 x }
  let f2 (imm : Nat) : F2 := { d := 0, g := al, x := 0, imm := BitVec.ofNat 32 imm }
  let half (op dst src ty : Nat) : Half := { op7 := BitVec.ofNat 7 op, dst := BitVec.ofNat 8 dst, src := BitVec.ofNat 8 src, m := false, ty := BitVec.ofNat 3 ty, low := 0 }
  let compute : List (Nat × Instr) := [(0x08001200C0270000, .add (f0 9 3 4 .i32 0)), (0x08001402402F0400, .add { f0 10 9 5 .i32 0 with ma := true }), (0xC004008012120320, .pair (half 0 8 1 0) (half 0x12 18 3 2)), (0x10301801002F00C1, .ffma (f0 12 4 5 .f32 1)),
    (0x49BC0200C002B802, .setpImm (f1 0x601 3 10 0 2)), (0x1800040040370140, .cvt (f0 2 1 6 .e4m3n 0)), (0x1C300E01800700C0, .redl (f0 7 6 0 .f32 0)), (0x09D03C0780FF00C1, .sel (f0 30 30 31 .f32 1))]
  let control : List (Nat × Instr) := [(0x70000, .nop (f0 0 0 0 .i32 0)), (0x801001C0FFFFFFFD, .bra (f2 0xFFFFFFFD)), (0x0020000180070000, .jmp (f0 0 6 0 .i32 0)), (0x803001C00000000C, .call (f2 12)), (0x0050000000070000, .ret (f0 0 0 0 .i32 0)), (0x0060000000070000, .exit (f0 0 0 0 .i32 0)),
    (0x4070000000007800, .rowblk (f1 0 0 1 0 0)), (0x0080000000070000, .yield (f0 0 0 0 .i32 0)), (0x4090000000193800, .nap (f1 0 0 100 0 0)), (0x40A00000000AB800, .trap (f1 0 0 0x2A 0 0)), (0x00B0000000070000, .brk (f0 0 0 0 .i32 0))]
  let memory : List (Nat × Instr) := [(0x6000100080103884, .ld (f1 8 2 0x40 2 4)), (0x60100A018002380C, .st (f1 5 6 8 0 0xC)), (0x602C140100003804, .ldq (f1 0x60A 4 0 0 4)), (0x203029CA00670002, .ldt (f0 20 0x728 12 .i32 2)), (0x2070000000070003, .fence (f0 0 0 0 .i32 3)), (0x28001401001F0020, .atom (f0 10 4 3 .n32 0)),
    (0x28103804001F0020, .cas (f0 28 16 3 .n32 0)), (0x28403003001F0060, .deq (f0 24 12 3 .n64 0)), (0x28303603001F0060, .enq (f0 27 12 3 .n64 0)), (0x685002000002B803, .abegin (f1 1 0 10 0 3)), (0x2860040000070000, .acommit (f0 2 0 0 .i32 0)), (0x2870000140070001, .aabort (f0 0 5 0 .i32 1))]
  let engines : List (Nat × Instr) := [(0x2C001588401F0000, .barrive (f0 10 0x621 3 .i32 0)), (0x2C4C040280070000, .btest (f0 0x602 10 0 .i32 0)), (0x2C40178880070001, .btestCur (f0 11 0x622 0 .i32 1)), (0x300C23C0C0870000, .mma (f0 0x611 0x703 16 .i32 0)), (0x301C220000070000, .mzero (f0 0x611 0 0 .i32 0)), (0x303C23C1C1070003, .mdrain (f0 0x611 0x707 32 .i32 3)),
    (0x3050040801472001, .cpy { f0 2 32 40 .i32 1 with la := 4 }), (0x3080080000070005, .cpyseqStat (f0 4 0 0 .i32 5)), (0x3400100080070000, .pgstat (f0 8 2 0 .i32 0)), (0x3410180100070001, .leaseqVa (f0 12 4 0 .i32 1)), (0x7820000000017800, .enter (f1 0 0 5 0 0)), (0x78900000000AB800, .trig (f1 0 0 42 0 0)), (0x3880780000070005, .fread (f0 60 0 0 .i32 5))]
  (∀ p ∈ compute ++ control ++ memory ++ engines, decodeTableWord 64 p.1 = some p.2)
  ∧ decodeTableWord 64 0x00C0000000070000 = none ∧ decodeTableWord 64 0x4000000000003800 = none ∧ decodeTableWord 64 0x800001C000000000 = none ∧ decodeTableWord 64 0x3FF0000000070000 = none

/-- 02 R29 to R36, R51, R52: the word of a well-formed instruction decodes to that instruction, and every word that decodes is the word of what it decodes to, no bit of it dropped; so a word decodes to nothing exactly where it is the word of no instruction. Eight bytes of memory give what their little-endian word gives. -/
def Obligations.EncodeThenDecode : Prop :=
  (∀ i w, WellFormed i = true → encode i = some w → decode w = .ok i)
  ∧ (∀ i w, decode w = .ok i → encode i = some w)
  ∧ (∀ w, decode w = .error .illegalInstruction ↔ ∀ i, encode i ≠ some w)
  ∧ (∀ w rest i, decodeBytes (bytesOfDword w ++ rest) = .ok (i, rest) ↔ decode w = .ok i)
  ∧ ∀ i w, WellFormed i = true → encode i = some w → decodeTableWord 64 w.toNat = some i

/-- 02 R29, 07 R146, R148: a step whose agenda names a stream executes the instruction that the bytes at its dispatch's address decode to, for the lowest pack that has it to do and can, the word being fetched once, before the first pack (R148); a word that acts on shared state goes to the packs in ascending order (log 68); the array instructions are illegal on the Registrar's cores (01 R10, log 86); with an empty agenda the stream in focus does, after one cycle of its core. A turn of some threads of the pack is the same issue with the threads limited to their number (09 R217). An event of the agenda is executed, and bytes that decode to nothing fault the running threads of the pack. The agenda and the focus are the model's own (log 3). -/
def Obligations.StepRunsDecoded : Prop :=
  let next (s : State) (c k : Nat) (d : Dispatch) (g : Group) (p : Nat) (bytes : List Byte) : Prop := (s.stream c k).dispatch = some d ∧ s.group? d.grp = some g ∧ s.trialHolds c (s.stream c k) = false ∧ s.issuedNow c k = false ∧ d.acted = [] ∧ d.todo.find? (fun n => s.packReady d n) = some p
    ∧ (d.word = some (dwordOfBytes bytes) ∨ d.word = none ∧ d.pc.toNat < 2 ^ 57 ∧ ∃ l, s.route g.ctx d.pc.toNat .fetch = .ok l ∧ s.currentBytes l 8 = bytes ∧ ∀ va pa, l = .mem va pa → s.poisoned pa = false)
  let issue (c k : Nat) (d : Dispatch) (p : Nat) (bytes : List Byte) : Issue := { core := c, stream := k, grp := d.grp, pc := d.pc, pack := p, lanes := d.packs.getD p [], word := dwordOfBytes bytes }
  let kept (s : State) (g : Group) (d : Dispatch) (iss : Issue) : State := s.keepWord iss.core iss.stream g.ctx d iss.word
  (∀ (s : State) (i : Instr) (rest : List Turn), s.agenda = .event i :: rest → step s = exec i { s with agenda := rest })
  ∧ ∀ (s s0 : State) (c k p : Nat) (d : Dispatch) (g : Group) (bytes : List Byte) (lim : Option Nat),
    (lim = none ∧ ∃ rest, s.agenda = .issue c k :: rest ∧ s0 = { s with agenda := rest }) ∨ (∃ n rest, lim = some n ∧ s.agenda = .issueLanes c k n :: rest ∧ s0 = { s with agenda := rest, laneLimit := some n }) ∨ (lim = none ∧ s.agenda = [] ∧ s.focus = (c, k) ∧ s0 = s.passTime (s.cycle c) ∧ d.stuck = false) → next s0 c k d g p bytes →
    let iss := issue c k d p bytes
    let done (o : Host.Outcome State Fault Refusal) : Prop := match lim, o with
      | some _, .next t => step s = .next { t with laneLimit := none }
      | _, _ => step s = o
    (∀ i, decodeBytes bytes = .ok (i, []) → (384 ≤ c → arrayWord i = false) → (ordersPacks i = true → d.todo.head? = some p) → d.checked = true ∨ s0.breakpointAt g.ctx d.pc = none → done (exec i ((kept s0 g d iss).issueNow iss i)))
    ∧ (decode (dwordOfBytes bytes) = .error .illegalInstruction ∨ (384 ≤ c ∧ ∃ i, decode (dwordOfBytes bytes) = .ok i ∧ arrayWord i = true) → done (.next (faultPack iss 0x01 { ((kept s0 g d iss).countTrial iss).noteIssue iss with issue := some iss })))

/-- 19 R394, R396, R399, R400; 04 R91; 15 R350, R352: what reset leaves: no context, no queue mapped, no group, device time 0, every quad out of placement and none gated, every die at its first clock level, port 0 in training and the others disabled, the registers with a reset value at it, the four command blocks BUSY; the model's own choice, every byte of memory blank (log 6); and the invariant of `InvariantKept`. What the rules leave open here is as the assumption log says: logs 5, 18. -/
def Obligations.ResetState : Prop :=
  let s := State.reset
  (∀ c, (s.ctx c).state = .empty) ∧ (∀ k, s.slot? k = none) ∧ (∀ g, s.group? g = none) ∧ (∀ n, (s.lease n).state = 0) ∧ s.ns = 0 ∧ s.bar.qout = BitVec.allOnes 96 ∧ s.bar.qgate = 0 ∧ s.bar.stfail = 0 ∧ s.bar.hbmDown = 0 ∧ s.bar.trip = 0 ∧ s.boot = 0
  ∧ (∀ d < 8, (s.die d).level = 0) ∧ (∀ p < 8, (s.port p).state = if p = 0 then 1 else 0) ∧ s.barRead 0x5018 = BitVec.allOnes 64 ∧ s.barRead 0x5020 = 0xFFFFFFFF ∧ s.barRead 0x5038 = (64 : Dword) <<< 32
  ∧ (∀ off, off ∈ [0x1000, 0x2000, 0x3000, 0x3008, 0x3010, 0x3018, 0x4000, 0x5010, 0x5028, 0x5030, 0x5040, 0x5048, 0x5050, 0x5058, 0x8000, 0x8008, 0x8020, 0x8028, 0x8030] → s.barRead off = 0)
  ∧ (∀ off, off ∈ [0x1010, 0x2010, 0x5008, 0x8018] → s.barRead off = 0x80)
  ∧ s.bar.age = 10 ∧ s.bar.renewwait = 500 ∧ s.bar.lead = 50 ∧ (∀ a, s.hbm.get a = Config.blankByte) ∧ s.wf = true

/-- Every step keeps the invariant: each byte memory in its canonical form, two streams to each core (01 R12), eight ports (15 R338), the lease table in order. -/
def Obligations.InvariantKept : Prop :=
 ∀ s s', s.wf = true → step s = .next s' → s'.wf = true
end

