-- ==== Sys2Proof/Laws/Table.lean ====
section
/-! SUPPORT. Laws of the plain tables and of memory: what a read after a write gives, and that every operation keeps the canonical form. -/

namespace Sys2Proof.Laws

open Sys2Proof.Machine

variable {α : Type}

@[simp] theorem lookKey_nil (k : Nat) : lookKey k ([] : List (Nat × α)) = none := rfl

theorem lookKey_cons (k : Nat) (e : Nat × α) (t : List (Nat × α)) :
    lookKey k (e :: t) = if e.1 = k then some e.2 else lookKey k t := by
  by_cases h : e.1 = k <;> simp [lookKey, h]

@[simp] theorem lookKey_dropKey_same (k : Nat) (t : List (Nat × α)) : lookKey k (dropKey k t) = none := by
  induction t with
  | nil => rfl
  | cons e t ih => by_cases h : e.1 = k <;> simp_all [dropKey, lookKey_cons]

theorem lookKey_dropKey_ne {k j : Nat} (h : k ≠ j) (t : List (Nat × α)) : lookKey j (dropKey k t) = lookKey j t := by
  induction t with
  | nil => rfl
  | cons e t ih =>
    by_cases h1 : e.1 = k
    · have : e.1 ≠ j := fun h2 => h (h1 ▸ h2)
      simp_all [dropKey, lookKey_cons]
    · simp_all [dropKey, lookKey_cons]

theorem lookKey_insertKey_same (k : Nat) (a : α) (t : List (Nat × α)) (h : lookKey k t = none) : lookKey k (insertKey k a t) = some a := by
  induction t with
  | nil => simp [insertKey, lookKey_cons]
  | cons e t ih =>
    by_cases h1 : e.1 = k
    · simp [lookKey_cons, h1] at h
    · simp only [lookKey_cons, h1, if_false] at h
      by_cases h2 : k < e.1 <;> simp [insertKey, h2, lookKey_cons, h1, ih h]

theorem lookKey_insertKey_ne {k j : Nat} (h : k ≠ j) (a : α) (t : List (Nat × α)) : lookKey j (insertKey k a t) = lookKey j t := by
  induction t with
  | nil => simp [insertKey, lookKey_cons, h]
  | cons e t ih => by_cases h2 : k < e.1 <;> simp [insertKey, h2, lookKey_cons, ih, h]

@[simp] theorem lookKey_putKey_same (k : Nat) (a : α) (t : List (Nat × α)) : lookKey k (putKey k a t) = some a :=
  lookKey_insertKey_same k a _ (lookKey_dropKey_same k t)

theorem lookKey_putKey_ne {k j : Nat} (h : k ≠ j) (a : α) (t : List (Nat × α)) : lookKey j (putKey k a t) = lookKey j t := by
  rw [putKey, lookKey_insertKey_ne h, lookKey_dropKey_ne h]

theorem lookKey_putKey (k j : Nat) (a : α) (t : List (Nat × α)) : lookKey j (putKey k a t) = if k = j then some a else lookKey j t := by
  by_cases h : k = j
  · subst h; simp
  · simp [lookKey_putKey_ne h, h]

theorem dropKey_insertKey (k : Nat) (a : α) (t : List (Nat × α)) : dropKey k (insertKey k a t) = dropKey k t := by
  induction t with
  | nil => simp [insertKey, dropKey]
  | cons e t ih =>
    unfold insertKey
    split
    · simp [dropKey]
    · unfold dropKey at ih ⊢
      simp [List.filter_cons, ih]

/-- A key put twice is put once. -/
theorem putKey_putKey (k : Nat) (a b : α) (t : List (Nat × α)) : putKey k b (putKey k a t) = putKey k b t := by
  unfold putKey
  rw [dropKey_insertKey]
  unfold dropKey
  simp

theorem mem_insertKey {k : Nat} {a : α} {t : List (Nat × α)} {e : Nat × α} : e ∈ insertKey k a t ↔ e = (k, a) ∨ e ∈ t := by
  induction t with
  | nil => simp [insertKey]
  | cons f t ih => by_cases h : k < f.1 <;> simp [insertKey, h, ih, or_left_comm]

theorem mem_dropKey {k : Nat} {t : List (Nat × α)} {e : Nat × α} : e ∈ dropKey k t ↔ e ∈ t ∧ e.1 ≠ k := by simp [dropKey]

theorem mem_putKey {k : Nat} {a : α} {t : List (Nat × α)} {e : Nat × α} : e ∈ putKey k a t ↔ e = (k, a) ∨ (e ∈ t ∧ e.1 ≠ k) := by
  simp [putKey, mem_insertKey, mem_dropKey]

theorem keysRise_cons (e : Nat × α) (t : List (Nat × α)) : keysRise (e :: t) = true ↔ (∀ f ∈ t, e.1 < f.1) ∧ keysRise t = true := by
  induction t generalizing e with
  | nil => simp [keysRise]
  | cons f t ih =>
    simp only [keysRise, Bool.and_eq_true, decide_eq_true_eq, List.mem_cons, forall_eq_or_imp]
    constructor
    · rintro ⟨h1, h2⟩
      exact ⟨⟨h1, fun g hg => Nat.lt_trans h1 (((ih f).1 h2).1 g hg)⟩, h2⟩
    · rintro ⟨⟨h1, _⟩, h2⟩
      exact ⟨h1, h2⟩

theorem keysRise_filter (p : Nat × α → Bool) (t : List (Nat × α)) (h : keysRise t = true) : keysRise (t.filter p) = true := by
  induction t with
  | nil => rfl
  | cons e t ih =>
    obtain ⟨h1, h2⟩ := (keysRise_cons e t).1 h
    by_cases hp : p e
    · rw [List.filter_cons_of_pos hp, keysRise_cons]
      exact ⟨fun f hf => h1 f (List.mem_of_mem_filter hf), ih h2⟩
    · rw [List.filter_cons_of_neg hp]; exact ih h2

theorem keysRise_dropKey (k : Nat) (t : List (Nat × α)) (h : keysRise t = true) : keysRise (dropKey k t) = true := keysRise_filter _ t h

theorem keysRise_insertKey (k : Nat) (a : α) (t : List (Nat × α)) (h : keysRise t = true) (hk : ∀ e ∈ t, e.1 ≠ k) : keysRise (insertKey k a t) = true := by
  induction t with
  | nil => rfl
  | cons e t ih =>
    obtain ⟨h1, h2⟩ := (keysRise_cons e t).1 h
    by_cases h3 : k < e.1
    · rw [insertKey, if_pos h3, keysRise_cons]
      refine ⟨?_, h⟩
      simp only [List.mem_cons, forall_eq_or_imp]
      exact ⟨h3, fun f hf => Nat.lt_trans h3 (h1 f hf)⟩
    · rw [insertKey, if_neg h3, keysRise_cons]
      have hne : e.1 ≠ k := hk e (by simp)
      refine ⟨fun f hf => ?_, ih h2 (fun f hf => hk f (by simp [hf]))⟩
      rcases mem_insertKey.1 hf with rfl | hf
      · show e.1 < k
        omega
      · exact h1 f hf

theorem keysRise_putKey (k : Nat) (a : α) (t : List (Nat × α)) (h : keysRise t = true) : keysRise (putKey k a t) = true :=
  keysRise_insertKey k a _ (keysRise_dropKey k t h) (fun _ he => (mem_dropKey.1 he).2)

section sparse

variable [DecidableEq α] {d : α}

omit [DecidableEq α] in
@[simp] theorem sparseGet_nil (k : Nat) : sparseGet d [] k = d := rfl

theorem sparseGet_set (t : List (Nat × α)) (k j : Nat) (a : α) : sparseGet d (sparseSet d t k a) j = if k = j then a else sparseGet d t j := by
  unfold sparseGet sparseSet
  by_cases ha : a = d <;> by_cases h : k = j <;> simp_all [lookKey_putKey, lookKey_dropKey_ne]

@[simp] theorem sparseGet_set_same (t : List (Nat × α)) (k : Nat) (a : α) : sparseGet d (sparseSet d t k a) k = a := by simp [sparseGet_set]

theorem sparseGet_set_ne (t : List (Nat × α)) {k j : Nat} (a : α) (h : k ≠ j) : sparseGet d (sparseSet d t k a) j = sparseGet d t j := by simp [sparseGet_set, h]

theorem sparseWf_iff (t : List (Nat × α)) : sparseWf d t = true ↔ keysRise t = true ∧ ∀ e ∈ t, e.2 ≠ d := by simp [sparseWf, List.all_eq_true]

theorem sparseWf_set (t : List (Nat × α)) (k : Nat) (a : α) (h : sparseWf d t = true) : sparseWf d (sparseSet d t k a) = true := by
  obtain ⟨h1, h2⟩ := (sparseWf_iff t).1 h
  rw [sparseWf_iff]
  unfold sparseSet
  split
  · exact ⟨keysRise_dropKey k t h1, fun e he => h2 e (mem_dropKey.1 he).1⟩
  · next ha =>
    refine ⟨keysRise_putKey k a t h1, fun e he => ?_⟩
    rcases mem_putKey.1 he with rfl | he
    · exact ha
    · exact h2 e he.1

theorem sparseWf_filter (p : Nat × α → Bool) (t : List (Nat × α)) (h : sparseWf d t = true) : sparseWf d (t.filter p) = true := by
  obtain ⟨h1, h2⟩ := (sparseWf_iff t).1 h
  exact (sparseWf_iff _).2 ⟨keysRise_filter p t h1, fun e he => h2 e (List.mem_of_mem_filter he)⟩

end sparse

theorem keysRise_append (a b : List (Nat × α)) (ha : keysRise a = true) (hb : keysRise b = true) (h : ∀ e ∈ a, ∀ f ∈ b, e.1 < f.1) : keysRise (a ++ b) = true := by
  induction a with
  | nil => exact hb
  | cons e a ih =>
    obtain ⟨h1, h2⟩ := (keysRise_cons e a).1 ha
    rw [List.cons_append, keysRise_cons]
    refine ⟨fun f hf => ?_, ih h2 (fun x hx => h x (by simp [hx]))⟩
    rcases List.mem_append.1 hf with hf | hf
    · exact h1 f hf
    · exact h e (by simp) f hf

theorem keysRise_mono (f : Nat → Nat) (t : List (Nat × α)) (h : keysRise t = true) (hf : ∀ x ∈ t, ∀ y ∈ t, x.1 < y.1 → f x.1 < f y.1) : keysRise (t.map (fun e => (f e.1, e.2))) = true := by
  induction t with
  | nil => rfl
  | cons e t ih =>
    obtain ⟨h1, h2⟩ := (keysRise_cons e t).1 h
    rw [List.map_cons, keysRise_cons]
    refine ⟨?_, ih h2 (fun x hx y hy => hf x (by simp [hx]) y (by simp [hy]))⟩
    intro g hg
    obtain ⟨x, hx, rfl⟩ := List.mem_map.1 hg
    exact hf e (by simp) x (by simp [hx]) (h1 x hx)

/-! Memory. -/

@[simp] theorem Mem_get_set_same (m : Mem) (a : Nat) (b : Byte) : (m.set a b).get a = b := sparseGet_set_same m a b

theorem Mem_get_set_ne (m : Mem) {a c : Nat} (b : Byte) (h : a ≠ c) : (m.set a b).get c = m.get c := sparseGet_set_ne m b h

theorem Mem_wf_nil : Mem.wf [] = true := rfl

theorem Mem_wf_set (m : Mem) (a : Nat) (b : Byte) (h : m.wf = true) : (m.set a b).wf = true := sparseWf_set m a b h

theorem Mem_wf_write (m : Mem) (a : Nat) (bs : List Byte) (h : m.wf = true) : (m.write a bs).wf = true := by
  induction bs generalizing m a with
  | nil => exact h
  | cons b bs ih => exact ih _ _ (Mem_wf_set m a b h)

theorem Mem_get_write_out (m : Mem) (a : Nat) (bs : List Byte) (c : Nat) (h : c < a ∨ a + bs.length ≤ c) : (m.write a bs).get c = m.get c := by
  induction bs generalizing m a with
  | nil => rfl
  | cons b bs ih =>
    simp only [List.length_cons] at h
    rw [Mem.write, ih _ _ (by omega), Mem_get_set_ne _ _ (by omega)]

theorem Mem_get_write_in (m : Mem) (a : Nat) (bs : List Byte) (i : Nat) (h : i < bs.length) : (m.write a bs).get (a + i) = bs[i] := by
  induction bs generalizing m a i with
  | nil => simp at h
  | cons b bs ih =>
    cases i with
    | zero => simp [Mem.write, Mem_get_write_out]
    | succ i =>
      have := ih (m.set a b) (a + 1) i (by simpa using h)
      simpa [Mem.write, Nat.add_assoc, Nat.add_comm 1 i] using this

theorem Mem_read_write_same (m : Mem) (a : Nat) (bs : List Byte) : (m.write a bs).read a bs.length = bs := by
  apply List.ext_getElem
  · simp [Mem.read]
  · intro i h1 h2
    simp [Mem.read, Mem_get_write_in m a bs i h2]

theorem Mem_read_write_out (m : Mem) (a : Nat) (bs : List Byte) (c n : Nat) (h : c + n ≤ a ∨ a + bs.length ≤ c) : (m.write a bs).read c n = m.read c n := by
  apply List.map_congr_left
  intro i hi
  rw [List.mem_range] at hi
  exact Mem_get_write_out m a bs _ (by omega)

theorem Mem_wf_slice (m : Mem) (a n : Nat) (h : m.wf = true) : (m.slice a n).wf = true := by
  have h1 := sparseWf_filter (fun e => a ≤ e.1 && e.1 < a + n) m h
  obtain ⟨h2, h3⟩ := (sparseWf_iff _).1 h1
  refine (sparseWf_iff _).2 ⟨keysRise_mono (fun x => x - a) _ h2 ?_, ?_⟩
  · intro x hx y hy hxy
    simp only [List.mem_filter, Bool.and_eq_true, decide_eq_true_eq] at hx hy
    show x.1 - a < y.1 - a
    omega
  · intro e he
    obtain ⟨x, hx, rfl⟩ := List.mem_map.1 he
    exact h3 x hx

theorem Mem_wf_clear (m : Mem) (a n : Nat) (h : m.wf = true) : (m.clear a n).wf = true := sparseWf_filter _ m h

theorem Mem_wf_paste (m : Mem) (a n : Nat) (part : Mem) (h : m.wf = true) (hp : part.wf = true) : (m.paste a n part).wf = true := by
  obtain ⟨h1, h2⟩ := (sparseWf_iff _).1 h
  obtain ⟨p1, p2⟩ := (sparseWf_iff _).1 hp
  refine (sparseWf_iff _).2 ⟨?_, ?_⟩
  · unfold Mem.paste
    refine keysRise_append _ _ (keysRise_append _ _ (keysRise_filter _ m h1) (keysRise_mono (fun x => x + a) _ (keysRise_filter _ part p1) (fun x _ y _ hxy => by show x.1 + a < y.1 + a; omega)) ?_) (keysRise_filter _ m h1) ?_
    · intro e he f hf
      obtain ⟨x, _, rfl⟩ := List.mem_map.1 hf
      simp only [List.mem_filter, decide_eq_true_eq] at he
      show e.1 < x.1 + a
      omega
    · intro e he f hf
      simp only [List.mem_filter, decide_eq_true_eq] at hf
      rcases List.mem_append.1 he with he | he
      · simp only [List.mem_filter, decide_eq_true_eq] at he
        omega
      · obtain ⟨x, hx, rfl⟩ := List.mem_map.1 he
        simp only [List.mem_filter, decide_eq_true_eq] at hx
        show x.1 + a < f.1
        omega
  · intro e he
    unfold Mem.paste at he
    simp only [List.mem_append, List.mem_filter, List.mem_map] at he
    rcases he with (⟨he, _⟩ | ⟨x, ⟨hx, _⟩, rfl⟩) | ⟨he, _⟩
    · exact h2 e he
    · exact p2 x hx
    · exact h2 e he

/-! Registers. -/

@[simp] theorem Words_get_set_same (w : Words) (n : Nat) (x : Word) : (w.set n x).get n = x := sparseGet_set_same w n x

theorem Words_get_set_ne (w : Words) {n k : Nat} (x : Word) (h : n ≠ k) : (w.set n x).get k = w.get k := sparseGet_set_ne w x h

theorem Words_get_set (w : Words) (n k : Nat) (x : Word) : (w.set n x).get k = if n = k then x else w.get k := sparseGet_set w n k x

theorem Words_wf_set (w : Words) (n : Nat) (x : Word) (h : w.wf = true) : (w.set n x).wf = true := sparseWf_set w n x h

/-! Lists. -/

@[simp] theorem length_modifyAt (l : List α) (k : Nat) (f : α → α) : (modifyAt l k f).length = l.length := by
  induction l generalizing k with
  | nil => cases k <;> rfl
  | cons a l ih => cases k <;> simp [modifyAt, ih]

theorem getElem?_modifyAt (l : List α) (k j : Nat) (f : α → α) : (modifyAt l k f)[j]? = if k = j then l[j]?.map f else l[j]? := by
  induction l generalizing k j with
  | nil => cases k <;> cases j <;> simp [modifyAt]
  | cons a l ih =>
    cases k with
    | zero => cases j <;> simp [modifyAt]
    | succ k => cases j <;> simp [modifyAt, ih]

end Sys2Proof.Laws
end

