-- ==== Sys2Proof/Laws/State.lean ====
section
/-! SUPPORT. One lemma for each field and each update of State, true by rfl, and what a read of a table gives after a write to it. -/

namespace Sys2Proof.Laws

open Sys2Proof.Machine

variable (s : State)

@[simp] theorem setCore_agenda (c : Nat) (x : CoreSt) : (s.setCore c x).agenda = s.agenda := rfl
@[simp] theorem setCore_focus (c : Nat) (x : CoreSt) : (s.setCore c x).focus = s.focus := rfl
@[simp] theorem setCore_issue (c : Nat) (x : CoreSt) : (s.setCore c x).issue = s.issue := rfl
@[simp] theorem setCore_choiceCtr (c : Nat) (x : CoreSt) : (s.setCore c x).choiceCtr = s.choiceCtr := rfl
@[simp] theorem setCore_nextUid (c : Nat) (x : CoreSt) : (s.setCore c x).nextUid = s.nextUid := rfl
@[simp] theorem setCore_tick (c : Nat) (x : CoreSt) : (s.setCore c x).tick = s.tick := rfl
@[simp] theorem setCore_devTicks (c : Nat) (x : CoreSt) : (s.setCore c x).devTicks = s.devTicks := rfl
@[simp] theorem setCore_slew (c : Nat) (x : CoreSt) : (s.setCore c x).slew = s.slew := rfl
@[simp] theorem setCore_halvedAt (c : Nat) (x : CoreSt) : (s.setCore c x).halvedAt = s.halvedAt := rfl
@[simp] theorem setCore_boot (c : Nat) (x : CoreSt) : (s.setCore c x).boot = s.boot := rfl
@[simp] theorem setCore_powered (c : Nat) (x : CoreSt) : (s.setCore c x).powered = s.powered := rfl
@[simp] theorem setCore_tripped (c : Nat) (x : CoreSt) : (s.setCore c x).tripped = s.tripped := rfl
@[simp] theorem setCore_fwVersion (c : Nat) (x : CoreSt) : (s.setCore c x).fwVersion = s.fwVersion := rfl
@[simp] theorem setCore_measured (c : Nat) (x : CoreSt) : (s.setCore c x).measured = s.measured := rfl
@[simp] theorem setCore_measuredVersion (c : Nat) (x : CoreSt) : (s.setCore c x).measuredVersion = s.measuredVersion := rfl
@[simp] theorem setCore_bar (c : Nat) (x : CoreSt) : (s.setCore c x).bar = s.bar := rfl
@[simp] theorem setCore_bar2 (c : Nat) (x : CoreSt) : (s.setCore c x).bar2 = s.bar2 := rfl
@[simp] theorem setCore_dies (c : Nat) (x : CoreSt) : (s.setCore c x).dies = s.dies := rfl
@[simp] theorem setCore_ports (c : Nat) (x : CoreSt) : (s.setCore c x).ports = s.ports := rfl
@[simp] theorem setCore_hdmBase (c : Nat) (x : CoreSt) : (s.setCore c x).hdmBase = s.hdmBase := rfl
@[simp] theorem setCore_hbm (c : Nat) (x : CoreSt) : (s.setCore c x).hbm = s.hbm := rfl
@[simp] theorem setCore_hostMem (c : Nat) (x : CoreSt) : (s.setCore c x).hostMem = s.hostMem := rfl
@[simp] theorem setCore_pool (c : Nat) (x : CoreSt) : (s.setCore c x).pool = s.pool := rfl
@[simp] theorem setCore_unseen (c : Nat) (x : CoreSt) : (s.setCore c x).unseen = s.unseen := rfl
@[simp] theorem setCore_poison (c : Nat) (x : CoreSt) : (s.setCore c x).poison = s.poison := rfl
@[simp] theorem setCore_dir (c : Nat) (x : CoreSt) : (s.setCore c x).dir = s.dir := rfl
@[simp] theorem setCore_served (c : Nat) (x : CoreSt) : (s.setCore c x).served = s.served := rfl
@[simp] theorem setCore_hostFilter (c : Nat) (x : CoreSt) : (s.setCore c x).hostFilter = s.hostFilter := rfl
@[simp] theorem setCore_chains (c : Nat) (x : CoreSt) : (s.setCore c x).chains = s.chains := rfl
@[simp] theorem setCore_groups (c : Nat) (x : CoreSt) : (s.setCore c x).groups = s.groups := rfl
@[simp] theorem setCore_kernels (c : Nat) (x : CoreSt) : (s.setCore c x).kernels = s.kernels := rfl
@[simp] theorem setCore_kernOrder (c : Nat) (x : CoreSt) : (s.setCore c x).kernOrder = s.kernOrder := rfl
@[simp] theorem setCore_reports (c : Nat) (x : CoreSt) : (s.setCore c x).reports = s.reports := rfl
@[simp] theorem setCore_ctxs (c : Nat) (x : CoreSt) : (s.setCore c x).ctxs = s.ctxs := rfl
@[simp] theorem setCore_slots (c : Nat) (x : CoreSt) : (s.setCore c x).slots = s.slots := rfl
@[simp] theorem setCore_lastAccept (c : Nat) (x : CoreSt) : (s.setCore c x).lastAccept = s.lastAccept := rfl
@[simp] theorem setCore_unmaps (c : Nat) (x : CoreSt) : (s.setCore c x).unmaps = s.unmaps := rfl
@[simp] theorem setCore_locks (c : Nat) (x : CoreSt) : (s.setCore c x).locks = s.locks := rfl
@[simp] theorem setCore_windows (c : Nat) (x : CoreSt) : (s.setCore c x).windows = s.windows := rfl
@[simp] theorem setCore_pins (c : Nat) (x : CoreSt) : (s.setCore c x).pins = s.pins := rfl
@[simp] theorem setCore_oslots (c : Nat) (x : CoreSt) : (s.setCore c x).oslots = s.oslots := rfl
@[simp] theorem setCore_pend (c : Nat) (x : CoreSt) : (s.setCore c x).pend = s.pend := rfl
@[simp] theorem setCore_fseq (c : Nat) (x : CoreSt) : (s.setCore c x).fseq = s.fseq := rfl
@[simp] theorem setCore_jobs (c : Nat) (x : CoreSt) : (s.setCore c x).jobs = s.jobs := rfl
@[simp] theorem setCore_frames (c : Nat) (x : CoreSt) : (s.setCore c x).frames = s.frames := rfl
@[simp] theorem setCore_counters (c : Nat) (x : CoreSt) : (s.setCore c x).counters = s.counters := rfl
@[simp] theorem setCore_leases (c : Nat) (x : CoreSt) : (s.setCore c x).leases = s.leases := rfl
@[simp] theorem setCore_outbox (c : Nat) (x : CoreSt) : (s.setCore c x).outbox = s.outbox := rfl
@[simp] theorem setCore_prefetch (c : Nat) (x : CoreSt) : (s.setCore c x).prefetch = s.prefetch := rfl
@[simp] theorem setCore_devWrites (c : Nat) (x : CoreSt) : (s.setCore c x).devWrites = s.devWrites := rfl
@[simp] theorem setCore_msi (c : Nat) (x : CoreSt) : (s.setCore c x).msi = s.msi := rfl
@[simp] theorem setCore_msiHeld (c : Nat) (x : CoreSt) : (s.setCore c x).msiHeld = s.msiHeld := rfl
@[simp] theorem setCore_reply (c : Nat) (x : CoreSt) : (s.setCore c x).reply = s.reply := rfl
@[simp] theorem setCore_evbuf (c : Nat) (x : CoreSt) : (s.setCore c x).evbuf = s.evbuf := rfl
@[simp] theorem setCore_laneLimit (c : Nat) (x : CoreSt) : (s.setCore c x).laneLimit = s.laneLimit := rfl

@[simp] theorem setGroup_agenda (g : Nat) (x : Group) : (s.setGroup g x).agenda = s.agenda := rfl
@[simp] theorem setGroup_focus (g : Nat) (x : Group) : (s.setGroup g x).focus = s.focus := rfl
@[simp] theorem setGroup_issue (g : Nat) (x : Group) : (s.setGroup g x).issue = s.issue := rfl
@[simp] theorem setGroup_choiceCtr (g : Nat) (x : Group) : (s.setGroup g x).choiceCtr = s.choiceCtr := rfl
@[simp] theorem setGroup_nextUid (g : Nat) (x : Group) : (s.setGroup g x).nextUid = s.nextUid := rfl
@[simp] theorem setGroup_tick (g : Nat) (x : Group) : (s.setGroup g x).tick = s.tick := rfl
@[simp] theorem setGroup_devTicks (g : Nat) (x : Group) : (s.setGroup g x).devTicks = s.devTicks := rfl
@[simp] theorem setGroup_slew (g : Nat) (x : Group) : (s.setGroup g x).slew = s.slew := rfl
@[simp] theorem setGroup_halvedAt (g : Nat) (x : Group) : (s.setGroup g x).halvedAt = s.halvedAt := rfl
@[simp] theorem setGroup_boot (g : Nat) (x : Group) : (s.setGroup g x).boot = s.boot := rfl
@[simp] theorem setGroup_powered (g : Nat) (x : Group) : (s.setGroup g x).powered = s.powered := rfl
@[simp] theorem setGroup_tripped (g : Nat) (x : Group) : (s.setGroup g x).tripped = s.tripped := rfl
@[simp] theorem setGroup_fwVersion (g : Nat) (x : Group) : (s.setGroup g x).fwVersion = s.fwVersion := rfl
@[simp] theorem setGroup_measured (g : Nat) (x : Group) : (s.setGroup g x).measured = s.measured := rfl
@[simp] theorem setGroup_measuredVersion (g : Nat) (x : Group) : (s.setGroup g x).measuredVersion = s.measuredVersion := rfl
@[simp] theorem setGroup_bar (g : Nat) (x : Group) : (s.setGroup g x).bar = s.bar := rfl
@[simp] theorem setGroup_bar2 (g : Nat) (x : Group) : (s.setGroup g x).bar2 = s.bar2 := rfl
@[simp] theorem setGroup_dies (g : Nat) (x : Group) : (s.setGroup g x).dies = s.dies := rfl
@[simp] theorem setGroup_ports (g : Nat) (x : Group) : (s.setGroup g x).ports = s.ports := rfl
@[simp] theorem setGroup_hdmBase (g : Nat) (x : Group) : (s.setGroup g x).hdmBase = s.hdmBase := rfl
@[simp] theorem setGroup_hbm (g : Nat) (x : Group) : (s.setGroup g x).hbm = s.hbm := rfl
@[simp] theorem setGroup_hostMem (g : Nat) (x : Group) : (s.setGroup g x).hostMem = s.hostMem := rfl
@[simp] theorem setGroup_pool (g : Nat) (x : Group) : (s.setGroup g x).pool = s.pool := rfl
@[simp] theorem setGroup_unseen (g : Nat) (x : Group) : (s.setGroup g x).unseen = s.unseen := rfl
@[simp] theorem setGroup_poison (g : Nat) (x : Group) : (s.setGroup g x).poison = s.poison := rfl
@[simp] theorem setGroup_dir (g : Nat) (x : Group) : (s.setGroup g x).dir = s.dir := rfl
@[simp] theorem setGroup_served (g : Nat) (x : Group) : (s.setGroup g x).served = s.served := rfl
@[simp] theorem setGroup_hostFilter (g : Nat) (x : Group) : (s.setGroup g x).hostFilter = s.hostFilter := rfl
@[simp] theorem setGroup_cores (g : Nat) (x : Group) : (s.setGroup g x).cores = s.cores := rfl
@[simp] theorem setGroup_chains (g : Nat) (x : Group) : (s.setGroup g x).chains = s.chains := rfl
@[simp] theorem setGroup_kernels (g : Nat) (x : Group) : (s.setGroup g x).kernels = s.kernels := rfl
@[simp] theorem setGroup_kernOrder (g : Nat) (x : Group) : (s.setGroup g x).kernOrder = s.kernOrder := rfl
@[simp] theorem setGroup_reports (g : Nat) (x : Group) : (s.setGroup g x).reports = s.reports := rfl
@[simp] theorem setGroup_ctxs (g : Nat) (x : Group) : (s.setGroup g x).ctxs = s.ctxs := rfl
@[simp] theorem setGroup_slots (g : Nat) (x : Group) : (s.setGroup g x).slots = s.slots := rfl
@[simp] theorem setGroup_lastAccept (g : Nat) (x : Group) : (s.setGroup g x).lastAccept = s.lastAccept := rfl
@[simp] theorem setGroup_unmaps (g : Nat) (x : Group) : (s.setGroup g x).unmaps = s.unmaps := rfl
@[simp] theorem setGroup_locks (g : Nat) (x : Group) : (s.setGroup g x).locks = s.locks := rfl
@[simp] theorem setGroup_windows (g : Nat) (x : Group) : (s.setGroup g x).windows = s.windows := rfl
@[simp] theorem setGroup_pins (g : Nat) (x : Group) : (s.setGroup g x).pins = s.pins := rfl
@[simp] theorem setGroup_oslots (g : Nat) (x : Group) : (s.setGroup g x).oslots = s.oslots := rfl
@[simp] theorem setGroup_pend (g : Nat) (x : Group) : (s.setGroup g x).pend = s.pend := rfl
@[simp] theorem setGroup_fseq (g : Nat) (x : Group) : (s.setGroup g x).fseq = s.fseq := rfl
@[simp] theorem setGroup_jobs (g : Nat) (x : Group) : (s.setGroup g x).jobs = s.jobs := rfl
@[simp] theorem setGroup_frames (g : Nat) (x : Group) : (s.setGroup g x).frames = s.frames := rfl
@[simp] theorem setGroup_counters (g : Nat) (x : Group) : (s.setGroup g x).counters = s.counters := rfl
@[simp] theorem setGroup_leases (g : Nat) (x : Group) : (s.setGroup g x).leases = s.leases := rfl
@[simp] theorem setGroup_outbox (g : Nat) (x : Group) : (s.setGroup g x).outbox = s.outbox := rfl
@[simp] theorem setGroup_prefetch (g : Nat) (x : Group) : (s.setGroup g x).prefetch = s.prefetch := rfl
@[simp] theorem setGroup_devWrites (g : Nat) (x : Group) : (s.setGroup g x).devWrites = s.devWrites := rfl
@[simp] theorem setGroup_msi (g : Nat) (x : Group) : (s.setGroup g x).msi = s.msi := rfl
@[simp] theorem setGroup_msiHeld (g : Nat) (x : Group) : (s.setGroup g x).msiHeld = s.msiHeld := rfl
@[simp] theorem setGroup_reply (g : Nat) (x : Group) : (s.setGroup g x).reply = s.reply := rfl
@[simp] theorem setGroup_evbuf (g : Nat) (x : Group) : (s.setGroup g x).evbuf = s.evbuf := rfl
@[simp] theorem setGroup_laneLimit (g : Nat) (x : Group) : (s.setGroup g x).laneLimit = s.laneLimit := rfl

@[simp] theorem setCtx_agenda (c : Nat) (x : Ctx) : (s.setCtx c x).agenda = s.agenda := rfl
@[simp] theorem setCtx_focus (c : Nat) (x : Ctx) : (s.setCtx c x).focus = s.focus := rfl
@[simp] theorem setCtx_issue (c : Nat) (x : Ctx) : (s.setCtx c x).issue = s.issue := rfl
@[simp] theorem setCtx_choiceCtr (c : Nat) (x : Ctx) : (s.setCtx c x).choiceCtr = s.choiceCtr := rfl
@[simp] theorem setCtx_nextUid (c : Nat) (x : Ctx) : (s.setCtx c x).nextUid = s.nextUid := rfl
@[simp] theorem setCtx_tick (c : Nat) (x : Ctx) : (s.setCtx c x).tick = s.tick := rfl
@[simp] theorem setCtx_devTicks (c : Nat) (x : Ctx) : (s.setCtx c x).devTicks = s.devTicks := rfl
@[simp] theorem setCtx_slew (c : Nat) (x : Ctx) : (s.setCtx c x).slew = s.slew := rfl
@[simp] theorem setCtx_halvedAt (c : Nat) (x : Ctx) : (s.setCtx c x).halvedAt = s.halvedAt := rfl
@[simp] theorem setCtx_boot (c : Nat) (x : Ctx) : (s.setCtx c x).boot = s.boot := rfl
@[simp] theorem setCtx_powered (c : Nat) (x : Ctx) : (s.setCtx c x).powered = s.powered := rfl
@[simp] theorem setCtx_tripped (c : Nat) (x : Ctx) : (s.setCtx c x).tripped = s.tripped := rfl
@[simp] theorem setCtx_fwVersion (c : Nat) (x : Ctx) : (s.setCtx c x).fwVersion = s.fwVersion := rfl
@[simp] theorem setCtx_measured (c : Nat) (x : Ctx) : (s.setCtx c x).measured = s.measured := rfl
@[simp] theorem setCtx_measuredVersion (c : Nat) (x : Ctx) : (s.setCtx c x).measuredVersion = s.measuredVersion := rfl
@[simp] theorem setCtx_bar (c : Nat) (x : Ctx) : (s.setCtx c x).bar = s.bar := rfl
@[simp] theorem setCtx_bar2 (c : Nat) (x : Ctx) : (s.setCtx c x).bar2 = s.bar2 := rfl
@[simp] theorem setCtx_dies (c : Nat) (x : Ctx) : (s.setCtx c x).dies = s.dies := rfl
@[simp] theorem setCtx_ports (c : Nat) (x : Ctx) : (s.setCtx c x).ports = s.ports := rfl
@[simp] theorem setCtx_hdmBase (c : Nat) (x : Ctx) : (s.setCtx c x).hdmBase = s.hdmBase := rfl
@[simp] theorem setCtx_hbm (c : Nat) (x : Ctx) : (s.setCtx c x).hbm = s.hbm := rfl
@[simp] theorem setCtx_hostMem (c : Nat) (x : Ctx) : (s.setCtx c x).hostMem = s.hostMem := rfl
@[simp] theorem setCtx_pool (c : Nat) (x : Ctx) : (s.setCtx c x).pool = s.pool := rfl
@[simp] theorem setCtx_unseen (c : Nat) (x : Ctx) : (s.setCtx c x).unseen = s.unseen := rfl
@[simp] theorem setCtx_poison (c : Nat) (x : Ctx) : (s.setCtx c x).poison = s.poison := rfl
@[simp] theorem setCtx_dir (c : Nat) (x : Ctx) : (s.setCtx c x).dir = s.dir := rfl
@[simp] theorem setCtx_served (c : Nat) (x : Ctx) : (s.setCtx c x).served = s.served := rfl
@[simp] theorem setCtx_hostFilter (c : Nat) (x : Ctx) : (s.setCtx c x).hostFilter = s.hostFilter := rfl
@[simp] theorem setCtx_cores (c : Nat) (x : Ctx) : (s.setCtx c x).cores = s.cores := rfl
@[simp] theorem setCtx_chains (c : Nat) (x : Ctx) : (s.setCtx c x).chains = s.chains := rfl
@[simp] theorem setCtx_groups (c : Nat) (x : Ctx) : (s.setCtx c x).groups = s.groups := rfl
@[simp] theorem setCtx_kernels (c : Nat) (x : Ctx) : (s.setCtx c x).kernels = s.kernels := rfl
@[simp] theorem setCtx_kernOrder (c : Nat) (x : Ctx) : (s.setCtx c x).kernOrder = s.kernOrder := rfl
@[simp] theorem setCtx_reports (c : Nat) (x : Ctx) : (s.setCtx c x).reports = s.reports := rfl
@[simp] theorem setCtx_slots (c : Nat) (x : Ctx) : (s.setCtx c x).slots = s.slots := rfl
@[simp] theorem setCtx_lastAccept (c : Nat) (x : Ctx) : (s.setCtx c x).lastAccept = s.lastAccept := rfl
@[simp] theorem setCtx_unmaps (c : Nat) (x : Ctx) : (s.setCtx c x).unmaps = s.unmaps := rfl
@[simp] theorem setCtx_locks (c : Nat) (x : Ctx) : (s.setCtx c x).locks = s.locks := rfl
@[simp] theorem setCtx_windows (c : Nat) (x : Ctx) : (s.setCtx c x).windows = s.windows := rfl
@[simp] theorem setCtx_pins (c : Nat) (x : Ctx) : (s.setCtx c x).pins = s.pins := rfl
@[simp] theorem setCtx_oslots (c : Nat) (x : Ctx) : (s.setCtx c x).oslots = s.oslots := rfl
@[simp] theorem setCtx_pend (c : Nat) (x : Ctx) : (s.setCtx c x).pend = s.pend := rfl
@[simp] theorem setCtx_fseq (c : Nat) (x : Ctx) : (s.setCtx c x).fseq = s.fseq := rfl
@[simp] theorem setCtx_jobs (c : Nat) (x : Ctx) : (s.setCtx c x).jobs = s.jobs := rfl
@[simp] theorem setCtx_frames (c : Nat) (x : Ctx) : (s.setCtx c x).frames = s.frames := rfl
@[simp] theorem setCtx_counters (c : Nat) (x : Ctx) : (s.setCtx c x).counters = s.counters := rfl
@[simp] theorem setCtx_leases (c : Nat) (x : Ctx) : (s.setCtx c x).leases = s.leases := rfl
@[simp] theorem setCtx_outbox (c : Nat) (x : Ctx) : (s.setCtx c x).outbox = s.outbox := rfl
@[simp] theorem setCtx_prefetch (c : Nat) (x : Ctx) : (s.setCtx c x).prefetch = s.prefetch := rfl
@[simp] theorem setCtx_devWrites (c : Nat) (x : Ctx) : (s.setCtx c x).devWrites = s.devWrites := rfl
@[simp] theorem setCtx_msi (c : Nat) (x : Ctx) : (s.setCtx c x).msi = s.msi := rfl
@[simp] theorem setCtx_msiHeld (c : Nat) (x : Ctx) : (s.setCtx c x).msiHeld = s.msiHeld := rfl
@[simp] theorem setCtx_reply (c : Nat) (x : Ctx) : (s.setCtx c x).reply = s.reply := rfl
@[simp] theorem setCtx_evbuf (c : Nat) (x : Ctx) : (s.setCtx c x).evbuf = s.evbuf := rfl
@[simp] theorem setCtx_laneLimit (c : Nat) (x : Ctx) : (s.setCtx c x).laneLimit = s.laneLimit := rfl

@[simp] theorem setKern_agenda (k : Nat) (x : Kernel) : (s.setKern k x).agenda = s.agenda := rfl
@[simp] theorem setKern_focus (k : Nat) (x : Kernel) : (s.setKern k x).focus = s.focus := rfl
@[simp] theorem setKern_issue (k : Nat) (x : Kernel) : (s.setKern k x).issue = s.issue := rfl
@[simp] theorem setKern_choiceCtr (k : Nat) (x : Kernel) : (s.setKern k x).choiceCtr = s.choiceCtr := rfl
@[simp] theorem setKern_nextUid (k : Nat) (x : Kernel) : (s.setKern k x).nextUid = s.nextUid := rfl
@[simp] theorem setKern_tick (k : Nat) (x : Kernel) : (s.setKern k x).tick = s.tick := rfl
@[simp] theorem setKern_devTicks (k : Nat) (x : Kernel) : (s.setKern k x).devTicks = s.devTicks := rfl
@[simp] theorem setKern_slew (k : Nat) (x : Kernel) : (s.setKern k x).slew = s.slew := rfl
@[simp] theorem setKern_halvedAt (k : Nat) (x : Kernel) : (s.setKern k x).halvedAt = s.halvedAt := rfl
@[simp] theorem setKern_boot (k : Nat) (x : Kernel) : (s.setKern k x).boot = s.boot := rfl
@[simp] theorem setKern_powered (k : Nat) (x : Kernel) : (s.setKern k x).powered = s.powered := rfl
@[simp] theorem setKern_tripped (k : Nat) (x : Kernel) : (s.setKern k x).tripped = s.tripped := rfl
@[simp] theorem setKern_fwVersion (k : Nat) (x : Kernel) : (s.setKern k x).fwVersion = s.fwVersion := rfl
@[simp] theorem setKern_measured (k : Nat) (x : Kernel) : (s.setKern k x).measured = s.measured := rfl
@[simp] theorem setKern_measuredVersion (k : Nat) (x : Kernel) : (s.setKern k x).measuredVersion = s.measuredVersion := rfl
@[simp] theorem setKern_bar (k : Nat) (x : Kernel) : (s.setKern k x).bar = s.bar := rfl
@[simp] theorem setKern_bar2 (k : Nat) (x : Kernel) : (s.setKern k x).bar2 = s.bar2 := rfl
@[simp] theorem setKern_dies (k : Nat) (x : Kernel) : (s.setKern k x).dies = s.dies := rfl
@[simp] theorem setKern_ports (k : Nat) (x : Kernel) : (s.setKern k x).ports = s.ports := rfl
@[simp] theorem setKern_hdmBase (k : Nat) (x : Kernel) : (s.setKern k x).hdmBase = s.hdmBase := rfl
@[simp] theorem setKern_hbm (k : Nat) (x : Kernel) : (s.setKern k x).hbm = s.hbm := rfl
@[simp] theorem setKern_hostMem (k : Nat) (x : Kernel) : (s.setKern k x).hostMem = s.hostMem := rfl
@[simp] theorem setKern_pool (k : Nat) (x : Kernel) : (s.setKern k x).pool = s.pool := rfl
@[simp] theorem setKern_unseen (k : Nat) (x : Kernel) : (s.setKern k x).unseen = s.unseen := rfl
@[simp] theorem setKern_poison (k : Nat) (x : Kernel) : (s.setKern k x).poison = s.poison := rfl
@[simp] theorem setKern_dir (k : Nat) (x : Kernel) : (s.setKern k x).dir = s.dir := rfl
@[simp] theorem setKern_served (k : Nat) (x : Kernel) : (s.setKern k x).served = s.served := rfl
@[simp] theorem setKern_hostFilter (k : Nat) (x : Kernel) : (s.setKern k x).hostFilter = s.hostFilter := rfl
@[simp] theorem setKern_cores (k : Nat) (x : Kernel) : (s.setKern k x).cores = s.cores := rfl
@[simp] theorem setKern_chains (k : Nat) (x : Kernel) : (s.setKern k x).chains = s.chains := rfl
@[simp] theorem setKern_groups (k : Nat) (x : Kernel) : (s.setKern k x).groups = s.groups := rfl
@[simp] theorem setKern_kernOrder (k : Nat) (x : Kernel) : (s.setKern k x).kernOrder = s.kernOrder := rfl
@[simp] theorem setKern_reports (k : Nat) (x : Kernel) : (s.setKern k x).reports = s.reports := rfl
@[simp] theorem setKern_ctxs (k : Nat) (x : Kernel) : (s.setKern k x).ctxs = s.ctxs := rfl
@[simp] theorem setKern_slots (k : Nat) (x : Kernel) : (s.setKern k x).slots = s.slots := rfl
@[simp] theorem setKern_lastAccept (k : Nat) (x : Kernel) : (s.setKern k x).lastAccept = s.lastAccept := rfl
@[simp] theorem setKern_unmaps (k : Nat) (x : Kernel) : (s.setKern k x).unmaps = s.unmaps := rfl
@[simp] theorem setKern_locks (k : Nat) (x : Kernel) : (s.setKern k x).locks = s.locks := rfl
@[simp] theorem setKern_windows (k : Nat) (x : Kernel) : (s.setKern k x).windows = s.windows := rfl
@[simp] theorem setKern_pins (k : Nat) (x : Kernel) : (s.setKern k x).pins = s.pins := rfl
@[simp] theorem setKern_oslots (k : Nat) (x : Kernel) : (s.setKern k x).oslots = s.oslots := rfl
@[simp] theorem setKern_pend (k : Nat) (x : Kernel) : (s.setKern k x).pend = s.pend := rfl
@[simp] theorem setKern_fseq (k : Nat) (x : Kernel) : (s.setKern k x).fseq = s.fseq := rfl
@[simp] theorem setKern_jobs (k : Nat) (x : Kernel) : (s.setKern k x).jobs = s.jobs := rfl
@[simp] theorem setKern_frames (k : Nat) (x : Kernel) : (s.setKern k x).frames = s.frames := rfl
@[simp] theorem setKern_counters (k : Nat) (x : Kernel) : (s.setKern k x).counters = s.counters := rfl
@[simp] theorem setKern_leases (k : Nat) (x : Kernel) : (s.setKern k x).leases = s.leases := rfl
@[simp] theorem setKern_outbox (k : Nat) (x : Kernel) : (s.setKern k x).outbox = s.outbox := rfl
@[simp] theorem setKern_prefetch (k : Nat) (x : Kernel) : (s.setKern k x).prefetch = s.prefetch := rfl
@[simp] theorem setKern_devWrites (k : Nat) (x : Kernel) : (s.setKern k x).devWrites = s.devWrites := rfl
@[simp] theorem setKern_msi (k : Nat) (x : Kernel) : (s.setKern k x).msi = s.msi := rfl
@[simp] theorem setKern_msiHeld (k : Nat) (x : Kernel) : (s.setKern k x).msiHeld = s.msiHeld := rfl
@[simp] theorem setKern_reply (k : Nat) (x : Kernel) : (s.setKern k x).reply = s.reply := rfl
@[simp] theorem setKern_evbuf (k : Nat) (x : Kernel) : (s.setKern k x).evbuf = s.evbuf := rfl
@[simp] theorem setKern_laneLimit (k : Nat) (x : Kernel) : (s.setKern k x).laneLimit = s.laneLimit := rfl

@[simp] theorem setLease_agenda (l : Nat) (x : Lease) : (s.setLease l x).agenda = s.agenda := rfl
@[simp] theorem setLease_focus (l : Nat) (x : Lease) : (s.setLease l x).focus = s.focus := rfl
@[simp] theorem setLease_issue (l : Nat) (x : Lease) : (s.setLease l x).issue = s.issue := rfl
@[simp] theorem setLease_choiceCtr (l : Nat) (x : Lease) : (s.setLease l x).choiceCtr = s.choiceCtr := rfl
@[simp] theorem setLease_nextUid (l : Nat) (x : Lease) : (s.setLease l x).nextUid = s.nextUid := rfl
@[simp] theorem setLease_tick (l : Nat) (x : Lease) : (s.setLease l x).tick = s.tick := rfl
@[simp] theorem setLease_devTicks (l : Nat) (x : Lease) : (s.setLease l x).devTicks = s.devTicks := rfl
@[simp] theorem setLease_slew (l : Nat) (x : Lease) : (s.setLease l x).slew = s.slew := rfl
@[simp] theorem setLease_halvedAt (l : Nat) (x : Lease) : (s.setLease l x).halvedAt = s.halvedAt := rfl
@[simp] theorem setLease_boot (l : Nat) (x : Lease) : (s.setLease l x).boot = s.boot := rfl
@[simp] theorem setLease_powered (l : Nat) (x : Lease) : (s.setLease l x).powered = s.powered := rfl
@[simp] theorem setLease_tripped (l : Nat) (x : Lease) : (s.setLease l x).tripped = s.tripped := rfl
@[simp] theorem setLease_fwVersion (l : Nat) (x : Lease) : (s.setLease l x).fwVersion = s.fwVersion := rfl
@[simp] theorem setLease_measured (l : Nat) (x : Lease) : (s.setLease l x).measured = s.measured := rfl
@[simp] theorem setLease_measuredVersion (l : Nat) (x : Lease) : (s.setLease l x).measuredVersion = s.measuredVersion := rfl
@[simp] theorem setLease_bar (l : Nat) (x : Lease) : (s.setLease l x).bar = s.bar := rfl
@[simp] theorem setLease_bar2 (l : Nat) (x : Lease) : (s.setLease l x).bar2 = s.bar2 := rfl
@[simp] theorem setLease_dies (l : Nat) (x : Lease) : (s.setLease l x).dies = s.dies := rfl
@[simp] theorem setLease_ports (l : Nat) (x : Lease) : (s.setLease l x).ports = s.ports := rfl
@[simp] theorem setLease_hdmBase (l : Nat) (x : Lease) : (s.setLease l x).hdmBase = s.hdmBase := rfl
@[simp] theorem setLease_hbm (l : Nat) (x : Lease) : (s.setLease l x).hbm = s.hbm := rfl
@[simp] theorem setLease_hostMem (l : Nat) (x : Lease) : (s.setLease l x).hostMem = s.hostMem := rfl
@[simp] theorem setLease_pool (l : Nat) (x : Lease) : (s.setLease l x).pool = s.pool := rfl
@[simp] theorem setLease_unseen (l : Nat) (x : Lease) : (s.setLease l x).unseen = s.unseen := rfl
@[simp] theorem setLease_poison (l : Nat) (x : Lease) : (s.setLease l x).poison = s.poison := rfl
@[simp] theorem setLease_dir (l : Nat) (x : Lease) : (s.setLease l x).dir = s.dir := rfl
@[simp] theorem setLease_served (l : Nat) (x : Lease) : (s.setLease l x).served = s.served := rfl
@[simp] theorem setLease_hostFilter (l : Nat) (x : Lease) : (s.setLease l x).hostFilter = s.hostFilter := rfl
@[simp] theorem setLease_cores (l : Nat) (x : Lease) : (s.setLease l x).cores = s.cores := rfl
@[simp] theorem setLease_chains (l : Nat) (x : Lease) : (s.setLease l x).chains = s.chains := rfl
@[simp] theorem setLease_groups (l : Nat) (x : Lease) : (s.setLease l x).groups = s.groups := rfl
@[simp] theorem setLease_kernels (l : Nat) (x : Lease) : (s.setLease l x).kernels = s.kernels := rfl
@[simp] theorem setLease_kernOrder (l : Nat) (x : Lease) : (s.setLease l x).kernOrder = s.kernOrder := rfl
@[simp] theorem setLease_reports (l : Nat) (x : Lease) : (s.setLease l x).reports = s.reports := rfl
@[simp] theorem setLease_ctxs (l : Nat) (x : Lease) : (s.setLease l x).ctxs = s.ctxs := rfl
@[simp] theorem setLease_slots (l : Nat) (x : Lease) : (s.setLease l x).slots = s.slots := rfl
@[simp] theorem setLease_lastAccept (l : Nat) (x : Lease) : (s.setLease l x).lastAccept = s.lastAccept := rfl
@[simp] theorem setLease_unmaps (l : Nat) (x : Lease) : (s.setLease l x).unmaps = s.unmaps := rfl
@[simp] theorem setLease_locks (l : Nat) (x : Lease) : (s.setLease l x).locks = s.locks := rfl
@[simp] theorem setLease_windows (l : Nat) (x : Lease) : (s.setLease l x).windows = s.windows := rfl
@[simp] theorem setLease_pins (l : Nat) (x : Lease) : (s.setLease l x).pins = s.pins := rfl
@[simp] theorem setLease_oslots (l : Nat) (x : Lease) : (s.setLease l x).oslots = s.oslots := rfl
@[simp] theorem setLease_pend (l : Nat) (x : Lease) : (s.setLease l x).pend = s.pend := rfl
@[simp] theorem setLease_fseq (l : Nat) (x : Lease) : (s.setLease l x).fseq = s.fseq := rfl
@[simp] theorem setLease_jobs (l : Nat) (x : Lease) : (s.setLease l x).jobs = s.jobs := rfl
@[simp] theorem setLease_frames (l : Nat) (x : Lease) : (s.setLease l x).frames = s.frames := rfl
@[simp] theorem setLease_counters (l : Nat) (x : Lease) : (s.setLease l x).counters = s.counters := rfl
@[simp] theorem setLease_outbox (l : Nat) (x : Lease) : (s.setLease l x).outbox = s.outbox := rfl
@[simp] theorem setLease_prefetch (l : Nat) (x : Lease) : (s.setLease l x).prefetch = s.prefetch := rfl
@[simp] theorem setLease_devWrites (l : Nat) (x : Lease) : (s.setLease l x).devWrites = s.devWrites := rfl
@[simp] theorem setLease_msi (l : Nat) (x : Lease) : (s.setLease l x).msi = s.msi := rfl
@[simp] theorem setLease_msiHeld (l : Nat) (x : Lease) : (s.setLease l x).msiHeld = s.msiHeld := rfl
@[simp] theorem setLease_reply (l : Nat) (x : Lease) : (s.setLease l x).reply = s.reply := rfl
@[simp] theorem setLease_evbuf (l : Nat) (x : Lease) : (s.setLease l x).evbuf = s.evbuf := rfl
@[simp] theorem setLease_laneLimit (l : Nat) (x : Lease) : (s.setLease l x).laneLimit = s.laneLimit := rfl

@[simp] theorem setStream_agenda (c k : Nat) (x : Stream) : (s.setStream c k x).agenda = s.agenda := rfl
@[simp] theorem setStream_focus (c k : Nat) (x : Stream) : (s.setStream c k x).focus = s.focus := rfl
@[simp] theorem setStream_issue (c k : Nat) (x : Stream) : (s.setStream c k x).issue = s.issue := rfl
@[simp] theorem setStream_choiceCtr (c k : Nat) (x : Stream) : (s.setStream c k x).choiceCtr = s.choiceCtr := rfl
@[simp] theorem setStream_nextUid (c k : Nat) (x : Stream) : (s.setStream c k x).nextUid = s.nextUid := rfl
@[simp] theorem setStream_tick (c k : Nat) (x : Stream) : (s.setStream c k x).tick = s.tick := rfl
@[simp] theorem setStream_devTicks (c k : Nat) (x : Stream) : (s.setStream c k x).devTicks = s.devTicks := rfl
@[simp] theorem setStream_slew (c k : Nat) (x : Stream) : (s.setStream c k x).slew = s.slew := rfl
@[simp] theorem setStream_halvedAt (c k : Nat) (x : Stream) : (s.setStream c k x).halvedAt = s.halvedAt := rfl
@[simp] theorem setStream_boot (c k : Nat) (x : Stream) : (s.setStream c k x).boot = s.boot := rfl
@[simp] theorem setStream_powered (c k : Nat) (x : Stream) : (s.setStream c k x).powered = s.powered := rfl
@[simp] theorem setStream_tripped (c k : Nat) (x : Stream) : (s.setStream c k x).tripped = s.tripped := rfl
@[simp] theorem setStream_fwVersion (c k : Nat) (x : Stream) : (s.setStream c k x).fwVersion = s.fwVersion := rfl
@[simp] theorem setStream_measured (c k : Nat) (x : Stream) : (s.setStream c k x).measured = s.measured := rfl
@[simp] theorem setStream_measuredVersion (c k : Nat) (x : Stream) : (s.setStream c k x).measuredVersion = s.measuredVersion := rfl
@[simp] theorem setStream_bar (c k : Nat) (x : Stream) : (s.setStream c k x).bar = s.bar := rfl
@[simp] theorem setStream_bar2 (c k : Nat) (x : Stream) : (s.setStream c k x).bar2 = s.bar2 := rfl
@[simp] theorem setStream_dies (c k : Nat) (x : Stream) : (s.setStream c k x).dies = s.dies := rfl
@[simp] theorem setStream_ports (c k : Nat) (x : Stream) : (s.setStream c k x).ports = s.ports := rfl
@[simp] theorem setStream_hdmBase (c k : Nat) (x : Stream) : (s.setStream c k x).hdmBase = s.hdmBase := rfl
@[simp] theorem setStream_hbm (c k : Nat) (x : Stream) : (s.setStream c k x).hbm = s.hbm := rfl
@[simp] theorem setStream_hostMem (c k : Nat) (x : Stream) : (s.setStream c k x).hostMem = s.hostMem := rfl
@[simp] theorem setStream_pool (c k : Nat) (x : Stream) : (s.setStream c k x).pool = s.pool := rfl
@[simp] theorem setStream_unseen (c k : Nat) (x : Stream) : (s.setStream c k x).unseen = s.unseen := rfl
@[simp] theorem setStream_poison (c k : Nat) (x : Stream) : (s.setStream c k x).poison = s.poison := rfl
@[simp] theorem setStream_dir (c k : Nat) (x : Stream) : (s.setStream c k x).dir = s.dir := rfl
@[simp] theorem setStream_served (c k : Nat) (x : Stream) : (s.setStream c k x).served = s.served := rfl
@[simp] theorem setStream_hostFilter (c k : Nat) (x : Stream) : (s.setStream c k x).hostFilter = s.hostFilter := rfl
@[simp] theorem setStream_chains (c k : Nat) (x : Stream) : (s.setStream c k x).chains = s.chains := rfl
@[simp] theorem setStream_groups (c k : Nat) (x : Stream) : (s.setStream c k x).groups = s.groups := rfl
@[simp] theorem setStream_kernels (c k : Nat) (x : Stream) : (s.setStream c k x).kernels = s.kernels := rfl
@[simp] theorem setStream_kernOrder (c k : Nat) (x : Stream) : (s.setStream c k x).kernOrder = s.kernOrder := rfl
@[simp] theorem setStream_reports (c k : Nat) (x : Stream) : (s.setStream c k x).reports = s.reports := rfl
@[simp] theorem setStream_ctxs (c k : Nat) (x : Stream) : (s.setStream c k x).ctxs = s.ctxs := rfl
@[simp] theorem setStream_slots (c k : Nat) (x : Stream) : (s.setStream c k x).slots = s.slots := rfl
@[simp] theorem setStream_lastAccept (c k : Nat) (x : Stream) : (s.setStream c k x).lastAccept = s.lastAccept := rfl
@[simp] theorem setStream_unmaps (c k : Nat) (x : Stream) : (s.setStream c k x).unmaps = s.unmaps := rfl
@[simp] theorem setStream_locks (c k : Nat) (x : Stream) : (s.setStream c k x).locks = s.locks := rfl
@[simp] theorem setStream_windows (c k : Nat) (x : Stream) : (s.setStream c k x).windows = s.windows := rfl
@[simp] theorem setStream_pins (c k : Nat) (x : Stream) : (s.setStream c k x).pins = s.pins := rfl
@[simp] theorem setStream_oslots (c k : Nat) (x : Stream) : (s.setStream c k x).oslots = s.oslots := rfl
@[simp] theorem setStream_pend (c k : Nat) (x : Stream) : (s.setStream c k x).pend = s.pend := rfl
@[simp] theorem setStream_fseq (c k : Nat) (x : Stream) : (s.setStream c k x).fseq = s.fseq := rfl
@[simp] theorem setStream_jobs (c k : Nat) (x : Stream) : (s.setStream c k x).jobs = s.jobs := rfl
@[simp] theorem setStream_frames (c k : Nat) (x : Stream) : (s.setStream c k x).frames = s.frames := rfl
@[simp] theorem setStream_counters (c k : Nat) (x : Stream) : (s.setStream c k x).counters = s.counters := rfl
@[simp] theorem setStream_leases (c k : Nat) (x : Stream) : (s.setStream c k x).leases = s.leases := rfl
@[simp] theorem setStream_outbox (c k : Nat) (x : Stream) : (s.setStream c k x).outbox = s.outbox := rfl
@[simp] theorem setStream_prefetch (c k : Nat) (x : Stream) : (s.setStream c k x).prefetch = s.prefetch := rfl
@[simp] theorem setStream_devWrites (c k : Nat) (x : Stream) : (s.setStream c k x).devWrites = s.devWrites := rfl
@[simp] theorem setStream_msi (c k : Nat) (x : Stream) : (s.setStream c k x).msi = s.msi := rfl
@[simp] theorem setStream_msiHeld (c k : Nat) (x : Stream) : (s.setStream c k x).msiHeld = s.msiHeld := rfl
@[simp] theorem setStream_reply (c k : Nat) (x : Stream) : (s.setStream c k x).reply = s.reply := rfl
@[simp] theorem setStream_evbuf (c k : Nat) (x : Stream) : (s.setStream c k x).evbuf = s.evbuf := rfl
@[simp] theorem setStream_laneLimit (c k : Nat) (x : Stream) : (s.setStream c k x).laneLimit = s.laneLimit := rfl

@[simp] theorem setPort_agenda (p : Nat) (x : Port) : (s.setPort p x).agenda = s.agenda := rfl
@[simp] theorem setPort_focus (p : Nat) (x : Port) : (s.setPort p x).focus = s.focus := rfl
@[simp] theorem setPort_issue (p : Nat) (x : Port) : (s.setPort p x).issue = s.issue := rfl
@[simp] theorem setPort_choiceCtr (p : Nat) (x : Port) : (s.setPort p x).choiceCtr = s.choiceCtr := rfl
@[simp] theorem setPort_nextUid (p : Nat) (x : Port) : (s.setPort p x).nextUid = s.nextUid := rfl
@[simp] theorem setPort_tick (p : Nat) (x : Port) : (s.setPort p x).tick = s.tick := rfl
@[simp] theorem setPort_devTicks (p : Nat) (x : Port) : (s.setPort p x).devTicks = s.devTicks := rfl
@[simp] theorem setPort_slew (p : Nat) (x : Port) : (s.setPort p x).slew = s.slew := rfl
@[simp] theorem setPort_halvedAt (p : Nat) (x : Port) : (s.setPort p x).halvedAt = s.halvedAt := rfl
@[simp] theorem setPort_boot (p : Nat) (x : Port) : (s.setPort p x).boot = s.boot := rfl
@[simp] theorem setPort_powered (p : Nat) (x : Port) : (s.setPort p x).powered = s.powered := rfl
@[simp] theorem setPort_tripped (p : Nat) (x : Port) : (s.setPort p x).tripped = s.tripped := rfl
@[simp] theorem setPort_fwVersion (p : Nat) (x : Port) : (s.setPort p x).fwVersion = s.fwVersion := rfl
@[simp] theorem setPort_measured (p : Nat) (x : Port) : (s.setPort p x).measured = s.measured := rfl
@[simp] theorem setPort_measuredVersion (p : Nat) (x : Port) : (s.setPort p x).measuredVersion = s.measuredVersion := rfl
@[simp] theorem setPort_bar (p : Nat) (x : Port) : (s.setPort p x).bar = s.bar := rfl
@[simp] theorem setPort_bar2 (p : Nat) (x : Port) : (s.setPort p x).bar2 = s.bar2 := rfl
@[simp] theorem setPort_dies (p : Nat) (x : Port) : (s.setPort p x).dies = s.dies := rfl
@[simp] theorem setPort_hdmBase (p : Nat) (x : Port) : (s.setPort p x).hdmBase = s.hdmBase := rfl
@[simp] theorem setPort_hbm (p : Nat) (x : Port) : (s.setPort p x).hbm = s.hbm := rfl
@[simp] theorem setPort_hostMem (p : Nat) (x : Port) : (s.setPort p x).hostMem = s.hostMem := rfl
@[simp] theorem setPort_pool (p : Nat) (x : Port) : (s.setPort p x).pool = s.pool := rfl
@[simp] theorem setPort_unseen (p : Nat) (x : Port) : (s.setPort p x).unseen = s.unseen := rfl
@[simp] theorem setPort_poison (p : Nat) (x : Port) : (s.setPort p x).poison = s.poison := rfl
@[simp] theorem setPort_dir (p : Nat) (x : Port) : (s.setPort p x).dir = s.dir := rfl
@[simp] theorem setPort_served (p : Nat) (x : Port) : (s.setPort p x).served = s.served := rfl
@[simp] theorem setPort_hostFilter (p : Nat) (x : Port) : (s.setPort p x).hostFilter = s.hostFilter := rfl
@[simp] theorem setPort_cores (p : Nat) (x : Port) : (s.setPort p x).cores = s.cores := rfl
@[simp] theorem setPort_chains (p : Nat) (x : Port) : (s.setPort p x).chains = s.chains := rfl
@[simp] theorem setPort_groups (p : Nat) (x : Port) : (s.setPort p x).groups = s.groups := rfl
@[simp] theorem setPort_kernels (p : Nat) (x : Port) : (s.setPort p x).kernels = s.kernels := rfl
@[simp] theorem setPort_kernOrder (p : Nat) (x : Port) : (s.setPort p x).kernOrder = s.kernOrder := rfl
@[simp] theorem setPort_reports (p : Nat) (x : Port) : (s.setPort p x).reports = s.reports := rfl
@[simp] theorem setPort_ctxs (p : Nat) (x : Port) : (s.setPort p x).ctxs = s.ctxs := rfl
@[simp] theorem setPort_slots (p : Nat) (x : Port) : (s.setPort p x).slots = s.slots := rfl
@[simp] theorem setPort_lastAccept (p : Nat) (x : Port) : (s.setPort p x).lastAccept = s.lastAccept := rfl
@[simp] theorem setPort_unmaps (p : Nat) (x : Port) : (s.setPort p x).unmaps = s.unmaps := rfl
@[simp] theorem setPort_locks (p : Nat) (x : Port) : (s.setPort p x).locks = s.locks := rfl
@[simp] theorem setPort_windows (p : Nat) (x : Port) : (s.setPort p x).windows = s.windows := rfl
@[simp] theorem setPort_pins (p : Nat) (x : Port) : (s.setPort p x).pins = s.pins := rfl
@[simp] theorem setPort_oslots (p : Nat) (x : Port) : (s.setPort p x).oslots = s.oslots := rfl
@[simp] theorem setPort_pend (p : Nat) (x : Port) : (s.setPort p x).pend = s.pend := rfl
@[simp] theorem setPort_fseq (p : Nat) (x : Port) : (s.setPort p x).fseq = s.fseq := rfl
@[simp] theorem setPort_jobs (p : Nat) (x : Port) : (s.setPort p x).jobs = s.jobs := rfl
@[simp] theorem setPort_frames (p : Nat) (x : Port) : (s.setPort p x).frames = s.frames := rfl
@[simp] theorem setPort_counters (p : Nat) (x : Port) : (s.setPort p x).counters = s.counters := rfl
@[simp] theorem setPort_leases (p : Nat) (x : Port) : (s.setPort p x).leases = s.leases := rfl
@[simp] theorem setPort_outbox (p : Nat) (x : Port) : (s.setPort p x).outbox = s.outbox := rfl
@[simp] theorem setPort_prefetch (p : Nat) (x : Port) : (s.setPort p x).prefetch = s.prefetch := rfl
@[simp] theorem setPort_devWrites (p : Nat) (x : Port) : (s.setPort p x).devWrites = s.devWrites := rfl
@[simp] theorem setPort_msi (p : Nat) (x : Port) : (s.setPort p x).msi = s.msi := rfl
@[simp] theorem setPort_msiHeld (p : Nat) (x : Port) : (s.setPort p x).msiHeld = s.msiHeld := rfl
@[simp] theorem setPort_reply (p : Nat) (x : Port) : (s.setPort p x).reply = s.reply := rfl
@[simp] theorem setPort_evbuf (p : Nat) (x : Port) : (s.setPort p x).evbuf = s.evbuf := rfl
@[simp] theorem setPort_laneLimit (p : Nat) (x : Port) : (s.setPort p x).laneLimit = s.laneLimit := rfl

@[simp] theorem setSlot_agenda (k : Nat) (q : QSlot) : (s.setSlot k q).agenda = s.agenda := rfl
@[simp] theorem setSlot_focus (k : Nat) (q : QSlot) : (s.setSlot k q).focus = s.focus := rfl
@[simp] theorem setSlot_issue (k : Nat) (q : QSlot) : (s.setSlot k q).issue = s.issue := rfl
@[simp] theorem setSlot_choiceCtr (k : Nat) (q : QSlot) : (s.setSlot k q).choiceCtr = s.choiceCtr := rfl
@[simp] theorem setSlot_nextUid (k : Nat) (q : QSlot) : (s.setSlot k q).nextUid = s.nextUid := rfl
@[simp] theorem setSlot_tick (k : Nat) (q : QSlot) : (s.setSlot k q).tick = s.tick := rfl
@[simp] theorem setSlot_devTicks (k : Nat) (q : QSlot) : (s.setSlot k q).devTicks = s.devTicks := rfl
@[simp] theorem setSlot_slew (k : Nat) (q : QSlot) : (s.setSlot k q).slew = s.slew := rfl
@[simp] theorem setSlot_halvedAt (k : Nat) (q : QSlot) : (s.setSlot k q).halvedAt = s.halvedAt := rfl
@[simp] theorem setSlot_boot (k : Nat) (q : QSlot) : (s.setSlot k q).boot = s.boot := rfl
@[simp] theorem setSlot_powered (k : Nat) (q : QSlot) : (s.setSlot k q).powered = s.powered := rfl
@[simp] theorem setSlot_tripped (k : Nat) (q : QSlot) : (s.setSlot k q).tripped = s.tripped := rfl
@[simp] theorem setSlot_fwVersion (k : Nat) (q : QSlot) : (s.setSlot k q).fwVersion = s.fwVersion := rfl
@[simp] theorem setSlot_measured (k : Nat) (q : QSlot) : (s.setSlot k q).measured = s.measured := rfl
@[simp] theorem setSlot_measuredVersion (k : Nat) (q : QSlot) : (s.setSlot k q).measuredVersion = s.measuredVersion := rfl
@[simp] theorem setSlot_bar (k : Nat) (q : QSlot) : (s.setSlot k q).bar = s.bar := rfl
@[simp] theorem setSlot_bar2 (k : Nat) (q : QSlot) : (s.setSlot k q).bar2 = s.bar2 := rfl
@[simp] theorem setSlot_dies (k : Nat) (q : QSlot) : (s.setSlot k q).dies = s.dies := rfl
@[simp] theorem setSlot_ports (k : Nat) (q : QSlot) : (s.setSlot k q).ports = s.ports := rfl
@[simp] theorem setSlot_hdmBase (k : Nat) (q : QSlot) : (s.setSlot k q).hdmBase = s.hdmBase := rfl
@[simp] theorem setSlot_hbm (k : Nat) (q : QSlot) : (s.setSlot k q).hbm = s.hbm := rfl
@[simp] theorem setSlot_hostMem (k : Nat) (q : QSlot) : (s.setSlot k q).hostMem = s.hostMem := rfl
@[simp] theorem setSlot_pool (k : Nat) (q : QSlot) : (s.setSlot k q).pool = s.pool := rfl
@[simp] theorem setSlot_unseen (k : Nat) (q : QSlot) : (s.setSlot k q).unseen = s.unseen := rfl
@[simp] theorem setSlot_poison (k : Nat) (q : QSlot) : (s.setSlot k q).poison = s.poison := rfl
@[simp] theorem setSlot_dir (k : Nat) (q : QSlot) : (s.setSlot k q).dir = s.dir := rfl
@[simp] theorem setSlot_served (k : Nat) (q : QSlot) : (s.setSlot k q).served = s.served := rfl
@[simp] theorem setSlot_hostFilter (k : Nat) (q : QSlot) : (s.setSlot k q).hostFilter = s.hostFilter := rfl
@[simp] theorem setSlot_cores (k : Nat) (q : QSlot) : (s.setSlot k q).cores = s.cores := rfl
@[simp] theorem setSlot_chains (k : Nat) (q : QSlot) : (s.setSlot k q).chains = s.chains := rfl
@[simp] theorem setSlot_groups (k : Nat) (q : QSlot) : (s.setSlot k q).groups = s.groups := rfl
@[simp] theorem setSlot_kernels (k : Nat) (q : QSlot) : (s.setSlot k q).kernels = s.kernels := rfl
@[simp] theorem setSlot_kernOrder (k : Nat) (q : QSlot) : (s.setSlot k q).kernOrder = s.kernOrder := rfl
@[simp] theorem setSlot_reports (k : Nat) (q : QSlot) : (s.setSlot k q).reports = s.reports := rfl
@[simp] theorem setSlot_ctxs (k : Nat) (q : QSlot) : (s.setSlot k q).ctxs = s.ctxs := rfl
@[simp] theorem setSlot_lastAccept (k : Nat) (q : QSlot) : (s.setSlot k q).lastAccept = s.lastAccept := rfl
@[simp] theorem setSlot_unmaps (k : Nat) (q : QSlot) : (s.setSlot k q).unmaps = s.unmaps := rfl
@[simp] theorem setSlot_locks (k : Nat) (q : QSlot) : (s.setSlot k q).locks = s.locks := rfl
@[simp] theorem setSlot_windows (k : Nat) (q : QSlot) : (s.setSlot k q).windows = s.windows := rfl
@[simp] theorem setSlot_pins (k : Nat) (q : QSlot) : (s.setSlot k q).pins = s.pins := rfl
@[simp] theorem setSlot_oslots (k : Nat) (q : QSlot) : (s.setSlot k q).oslots = s.oslots := rfl
@[simp] theorem setSlot_pend (k : Nat) (q : QSlot) : (s.setSlot k q).pend = s.pend := rfl
@[simp] theorem setSlot_fseq (k : Nat) (q : QSlot) : (s.setSlot k q).fseq = s.fseq := rfl
@[simp] theorem setSlot_jobs (k : Nat) (q : QSlot) : (s.setSlot k q).jobs = s.jobs := rfl
@[simp] theorem setSlot_frames (k : Nat) (q : QSlot) : (s.setSlot k q).frames = s.frames := rfl
@[simp] theorem setSlot_counters (k : Nat) (q : QSlot) : (s.setSlot k q).counters = s.counters := rfl
@[simp] theorem setSlot_leases (k : Nat) (q : QSlot) : (s.setSlot k q).leases = s.leases := rfl
@[simp] theorem setSlot_outbox (k : Nat) (q : QSlot) : (s.setSlot k q).outbox = s.outbox := rfl
@[simp] theorem setSlot_prefetch (k : Nat) (q : QSlot) : (s.setSlot k q).prefetch = s.prefetch := rfl
@[simp] theorem setSlot_devWrites (k : Nat) (q : QSlot) : (s.setSlot k q).devWrites = s.devWrites := rfl
@[simp] theorem setSlot_msi (k : Nat) (q : QSlot) : (s.setSlot k q).msi = s.msi := rfl
@[simp] theorem setSlot_msiHeld (k : Nat) (q : QSlot) : (s.setSlot k q).msiHeld = s.msiHeld := rfl
@[simp] theorem setSlot_reply (k : Nat) (q : QSlot) : (s.setSlot k q).reply = s.reply := rfl
@[simp] theorem setSlot_evbuf (k : Nat) (q : QSlot) : (s.setSlot k q).evbuf = s.evbuf := rfl
@[simp] theorem setSlot_laneLimit (k : Nat) (q : QSlot) : (s.setSlot k q).laneLimit = s.laneLimit := rfl

@[simp] theorem setChain_agenda (q ch : Nat) (x : Chain) : (s.setChain q ch x).agenda = s.agenda := rfl
@[simp] theorem setChain_focus (q ch : Nat) (x : Chain) : (s.setChain q ch x).focus = s.focus := rfl
@[simp] theorem setChain_issue (q ch : Nat) (x : Chain) : (s.setChain q ch x).issue = s.issue := rfl
@[simp] theorem setChain_choiceCtr (q ch : Nat) (x : Chain) : (s.setChain q ch x).choiceCtr = s.choiceCtr := rfl
@[simp] theorem setChain_nextUid (q ch : Nat) (x : Chain) : (s.setChain q ch x).nextUid = s.nextUid := rfl
@[simp] theorem setChain_tick (q ch : Nat) (x : Chain) : (s.setChain q ch x).tick = s.tick := rfl
@[simp] theorem setChain_devTicks (q ch : Nat) (x : Chain) : (s.setChain q ch x).devTicks = s.devTicks := rfl
@[simp] theorem setChain_slew (q ch : Nat) (x : Chain) : (s.setChain q ch x).slew = s.slew := rfl
@[simp] theorem setChain_halvedAt (q ch : Nat) (x : Chain) : (s.setChain q ch x).halvedAt = s.halvedAt := rfl
@[simp] theorem setChain_boot (q ch : Nat) (x : Chain) : (s.setChain q ch x).boot = s.boot := rfl
@[simp] theorem setChain_powered (q ch : Nat) (x : Chain) : (s.setChain q ch x).powered = s.powered := rfl
@[simp] theorem setChain_tripped (q ch : Nat) (x : Chain) : (s.setChain q ch x).tripped = s.tripped := rfl
@[simp] theorem setChain_fwVersion (q ch : Nat) (x : Chain) : (s.setChain q ch x).fwVersion = s.fwVersion := rfl
@[simp] theorem setChain_measured (q ch : Nat) (x : Chain) : (s.setChain q ch x).measured = s.measured := rfl
@[simp] theorem setChain_measuredVersion (q ch : Nat) (x : Chain) : (s.setChain q ch x).measuredVersion = s.measuredVersion := rfl
@[simp] theorem setChain_bar (q ch : Nat) (x : Chain) : (s.setChain q ch x).bar = s.bar := rfl
@[simp] theorem setChain_bar2 (q ch : Nat) (x : Chain) : (s.setChain q ch x).bar2 = s.bar2 := rfl
@[simp] theorem setChain_dies (q ch : Nat) (x : Chain) : (s.setChain q ch x).dies = s.dies := rfl
@[simp] theorem setChain_ports (q ch : Nat) (x : Chain) : (s.setChain q ch x).ports = s.ports := rfl
@[simp] theorem setChain_hdmBase (q ch : Nat) (x : Chain) : (s.setChain q ch x).hdmBase = s.hdmBase := rfl
@[simp] theorem setChain_hbm (q ch : Nat) (x : Chain) : (s.setChain q ch x).hbm = s.hbm := rfl
@[simp] theorem setChain_hostMem (q ch : Nat) (x : Chain) : (s.setChain q ch x).hostMem = s.hostMem := rfl
@[simp] theorem setChain_pool (q ch : Nat) (x : Chain) : (s.setChain q ch x).pool = s.pool := rfl
@[simp] theorem setChain_unseen (q ch : Nat) (x : Chain) : (s.setChain q ch x).unseen = s.unseen := rfl
@[simp] theorem setChain_poison (q ch : Nat) (x : Chain) : (s.setChain q ch x).poison = s.poison := rfl
@[simp] theorem setChain_dir (q ch : Nat) (x : Chain) : (s.setChain q ch x).dir = s.dir := rfl
@[simp] theorem setChain_served (q ch : Nat) (x : Chain) : (s.setChain q ch x).served = s.served := rfl
@[simp] theorem setChain_hostFilter (q ch : Nat) (x : Chain) : (s.setChain q ch x).hostFilter = s.hostFilter := rfl
@[simp] theorem setChain_cores (q ch : Nat) (x : Chain) : (s.setChain q ch x).cores = s.cores := rfl
@[simp] theorem setChain_groups (q ch : Nat) (x : Chain) : (s.setChain q ch x).groups = s.groups := rfl
@[simp] theorem setChain_kernels (q ch : Nat) (x : Chain) : (s.setChain q ch x).kernels = s.kernels := rfl
@[simp] theorem setChain_kernOrder (q ch : Nat) (x : Chain) : (s.setChain q ch x).kernOrder = s.kernOrder := rfl
@[simp] theorem setChain_reports (q ch : Nat) (x : Chain) : (s.setChain q ch x).reports = s.reports := rfl
@[simp] theorem setChain_ctxs (q ch : Nat) (x : Chain) : (s.setChain q ch x).ctxs = s.ctxs := rfl
@[simp] theorem setChain_slots (q ch : Nat) (x : Chain) : (s.setChain q ch x).slots = s.slots := rfl
@[simp] theorem setChain_lastAccept (q ch : Nat) (x : Chain) : (s.setChain q ch x).lastAccept = s.lastAccept := rfl
@[simp] theorem setChain_unmaps (q ch : Nat) (x : Chain) : (s.setChain q ch x).unmaps = s.unmaps := rfl
@[simp] theorem setChain_locks (q ch : Nat) (x : Chain) : (s.setChain q ch x).locks = s.locks := rfl
@[simp] theorem setChain_windows (q ch : Nat) (x : Chain) : (s.setChain q ch x).windows = s.windows := rfl
@[simp] theorem setChain_pins (q ch : Nat) (x : Chain) : (s.setChain q ch x).pins = s.pins := rfl
@[simp] theorem setChain_oslots (q ch : Nat) (x : Chain) : (s.setChain q ch x).oslots = s.oslots := rfl
@[simp] theorem setChain_pend (q ch : Nat) (x : Chain) : (s.setChain q ch x).pend = s.pend := rfl
@[simp] theorem setChain_fseq (q ch : Nat) (x : Chain) : (s.setChain q ch x).fseq = s.fseq := rfl
@[simp] theorem setChain_jobs (q ch : Nat) (x : Chain) : (s.setChain q ch x).jobs = s.jobs := rfl
@[simp] theorem setChain_frames (q ch : Nat) (x : Chain) : (s.setChain q ch x).frames = s.frames := rfl
@[simp] theorem setChain_counters (q ch : Nat) (x : Chain) : (s.setChain q ch x).counters = s.counters := rfl
@[simp] theorem setChain_leases (q ch : Nat) (x : Chain) : (s.setChain q ch x).leases = s.leases := rfl
@[simp] theorem setChain_outbox (q ch : Nat) (x : Chain) : (s.setChain q ch x).outbox = s.outbox := rfl
@[simp] theorem setChain_prefetch (q ch : Nat) (x : Chain) : (s.setChain q ch x).prefetch = s.prefetch := rfl
@[simp] theorem setChain_devWrites (q ch : Nat) (x : Chain) : (s.setChain q ch x).devWrites = s.devWrites := rfl
@[simp] theorem setChain_msi (q ch : Nat) (x : Chain) : (s.setChain q ch x).msi = s.msi := rfl
@[simp] theorem setChain_msiHeld (q ch : Nat) (x : Chain) : (s.setChain q ch x).msiHeld = s.msiHeld := rfl
@[simp] theorem setChain_reply (q ch : Nat) (x : Chain) : (s.setChain q ch x).reply = s.reply := rfl
@[simp] theorem setChain_evbuf (q ch : Nat) (x : Chain) : (s.setChain q ch x).evbuf = s.evbuf := rfl
@[simp] theorem setChain_laneLimit (q ch : Nat) (x : Chain) : (s.setChain q ch x).laneLimit = s.laneLimit := rfl

@[simp] theorem setDir_agenda (n : Nat) (x : DirLine) : (s.setDir n x).agenda = s.agenda := rfl
@[simp] theorem setDir_focus (n : Nat) (x : DirLine) : (s.setDir n x).focus = s.focus := rfl
@[simp] theorem setDir_issue (n : Nat) (x : DirLine) : (s.setDir n x).issue = s.issue := rfl
@[simp] theorem setDir_choiceCtr (n : Nat) (x : DirLine) : (s.setDir n x).choiceCtr = s.choiceCtr := rfl
@[simp] theorem setDir_nextUid (n : Nat) (x : DirLine) : (s.setDir n x).nextUid = s.nextUid := rfl
@[simp] theorem setDir_tick (n : Nat) (x : DirLine) : (s.setDir n x).tick = s.tick := rfl
@[simp] theorem setDir_devTicks (n : Nat) (x : DirLine) : (s.setDir n x).devTicks = s.devTicks := rfl
@[simp] theorem setDir_slew (n : Nat) (x : DirLine) : (s.setDir n x).slew = s.slew := rfl
@[simp] theorem setDir_halvedAt (n : Nat) (x : DirLine) : (s.setDir n x).halvedAt = s.halvedAt := rfl
@[simp] theorem setDir_boot (n : Nat) (x : DirLine) : (s.setDir n x).boot = s.boot := rfl
@[simp] theorem setDir_powered (n : Nat) (x : DirLine) : (s.setDir n x).powered = s.powered := rfl
@[simp] theorem setDir_tripped (n : Nat) (x : DirLine) : (s.setDir n x).tripped = s.tripped := rfl
@[simp] theorem setDir_fwVersion (n : Nat) (x : DirLine) : (s.setDir n x).fwVersion = s.fwVersion := rfl
@[simp] theorem setDir_measured (n : Nat) (x : DirLine) : (s.setDir n x).measured = s.measured := rfl
@[simp] theorem setDir_measuredVersion (n : Nat) (x : DirLine) : (s.setDir n x).measuredVersion = s.measuredVersion := rfl
@[simp] theorem setDir_bar (n : Nat) (x : DirLine) : (s.setDir n x).bar = s.bar := rfl
@[simp] theorem setDir_bar2 (n : Nat) (x : DirLine) : (s.setDir n x).bar2 = s.bar2 := rfl
@[simp] theorem setDir_dies (n : Nat) (x : DirLine) : (s.setDir n x).dies = s.dies := rfl
@[simp] theorem setDir_ports (n : Nat) (x : DirLine) : (s.setDir n x).ports = s.ports := rfl
@[simp] theorem setDir_hdmBase (n : Nat) (x : DirLine) : (s.setDir n x).hdmBase = s.hdmBase := rfl
@[simp] theorem setDir_hbm (n : Nat) (x : DirLine) : (s.setDir n x).hbm = s.hbm := rfl
@[simp] theorem setDir_hostMem (n : Nat) (x : DirLine) : (s.setDir n x).hostMem = s.hostMem := rfl
@[simp] theorem setDir_pool (n : Nat) (x : DirLine) : (s.setDir n x).pool = s.pool := rfl
@[simp] theorem setDir_unseen (n : Nat) (x : DirLine) : (s.setDir n x).unseen = s.unseen := rfl
@[simp] theorem setDir_poison (n : Nat) (x : DirLine) : (s.setDir n x).poison = s.poison := rfl
@[simp] theorem setDir_served (n : Nat) (x : DirLine) : (s.setDir n x).served = s.served := rfl
@[simp] theorem setDir_cores (n : Nat) (x : DirLine) : (s.setDir n x).cores = s.cores := rfl
@[simp] theorem setDir_chains (n : Nat) (x : DirLine) : (s.setDir n x).chains = s.chains := rfl
@[simp] theorem setDir_groups (n : Nat) (x : DirLine) : (s.setDir n x).groups = s.groups := rfl
@[simp] theorem setDir_kernels (n : Nat) (x : DirLine) : (s.setDir n x).kernels = s.kernels := rfl
@[simp] theorem setDir_kernOrder (n : Nat) (x : DirLine) : (s.setDir n x).kernOrder = s.kernOrder := rfl
@[simp] theorem setDir_reports (n : Nat) (x : DirLine) : (s.setDir n x).reports = s.reports := rfl
@[simp] theorem setDir_ctxs (n : Nat) (x : DirLine) : (s.setDir n x).ctxs = s.ctxs := rfl
@[simp] theorem setDir_slots (n : Nat) (x : DirLine) : (s.setDir n x).slots = s.slots := rfl
@[simp] theorem setDir_lastAccept (n : Nat) (x : DirLine) : (s.setDir n x).lastAccept = s.lastAccept := rfl
@[simp] theorem setDir_unmaps (n : Nat) (x : DirLine) : (s.setDir n x).unmaps = s.unmaps := rfl
@[simp] theorem setDir_locks (n : Nat) (x : DirLine) : (s.setDir n x).locks = s.locks := rfl
@[simp] theorem setDir_windows (n : Nat) (x : DirLine) : (s.setDir n x).windows = s.windows := rfl
@[simp] theorem setDir_pins (n : Nat) (x : DirLine) : (s.setDir n x).pins = s.pins := rfl
@[simp] theorem setDir_oslots (n : Nat) (x : DirLine) : (s.setDir n x).oslots = s.oslots := rfl
@[simp] theorem setDir_pend (n : Nat) (x : DirLine) : (s.setDir n x).pend = s.pend := rfl
@[simp] theorem setDir_fseq (n : Nat) (x : DirLine) : (s.setDir n x).fseq = s.fseq := rfl
@[simp] theorem setDir_jobs (n : Nat) (x : DirLine) : (s.setDir n x).jobs = s.jobs := rfl
@[simp] theorem setDir_frames (n : Nat) (x : DirLine) : (s.setDir n x).frames = s.frames := rfl
@[simp] theorem setDir_counters (n : Nat) (x : DirLine) : (s.setDir n x).counters = s.counters := rfl
@[simp] theorem setDir_leases (n : Nat) (x : DirLine) : (s.setDir n x).leases = s.leases := rfl
@[simp] theorem setDir_outbox (n : Nat) (x : DirLine) : (s.setDir n x).outbox = s.outbox := rfl
@[simp] theorem setDir_prefetch (n : Nat) (x : DirLine) : (s.setDir n x).prefetch = s.prefetch := rfl
@[simp] theorem setDir_devWrites (n : Nat) (x : DirLine) : (s.setDir n x).devWrites = s.devWrites := rfl
@[simp] theorem setDir_msi (n : Nat) (x : DirLine) : (s.setDir n x).msi = s.msi := rfl
@[simp] theorem setDir_msiHeld (n : Nat) (x : DirLine) : (s.setDir n x).msiHeld = s.msiHeld := rfl
@[simp] theorem setDir_reply (n : Nat) (x : DirLine) : (s.setDir n x).reply = s.reply := rfl
@[simp] theorem setDir_evbuf (n : Nat) (x : DirLine) : (s.setDir n x).evbuf = s.evbuf := rfl
@[simp] theorem setDir_laneLimit (n : Nat) (x : DirLine) : (s.setDir n x).laneLimit = s.laneLimit := rfl

@[simp] theorem setPte_agenda (a : Nat) (p : Dword) : (s.setPte a p).agenda = s.agenda := rfl
@[simp] theorem setPte_focus (a : Nat) (p : Dword) : (s.setPte a p).focus = s.focus := rfl
@[simp] theorem setPte_issue (a : Nat) (p : Dword) : (s.setPte a p).issue = s.issue := rfl
@[simp] theorem setPte_choiceCtr (a : Nat) (p : Dword) : (s.setPte a p).choiceCtr = s.choiceCtr := rfl
@[simp] theorem setPte_nextUid (a : Nat) (p : Dword) : (s.setPte a p).nextUid = s.nextUid := rfl
@[simp] theorem setPte_tick (a : Nat) (p : Dword) : (s.setPte a p).tick = s.tick := rfl
@[simp] theorem setPte_devTicks (a : Nat) (p : Dword) : (s.setPte a p).devTicks = s.devTicks := rfl
@[simp] theorem setPte_slew (a : Nat) (p : Dword) : (s.setPte a p).slew = s.slew := rfl
@[simp] theorem setPte_halvedAt (a : Nat) (p : Dword) : (s.setPte a p).halvedAt = s.halvedAt := rfl
@[simp] theorem setPte_boot (a : Nat) (p : Dword) : (s.setPte a p).boot = s.boot := rfl
@[simp] theorem setPte_powered (a : Nat) (p : Dword) : (s.setPte a p).powered = s.powered := rfl
@[simp] theorem setPte_tripped (a : Nat) (p : Dword) : (s.setPte a p).tripped = s.tripped := rfl
@[simp] theorem setPte_fwVersion (a : Nat) (p : Dword) : (s.setPte a p).fwVersion = s.fwVersion := rfl
@[simp] theorem setPte_measured (a : Nat) (p : Dword) : (s.setPte a p).measured = s.measured := rfl
@[simp] theorem setPte_measuredVersion (a : Nat) (p : Dword) : (s.setPte a p).measuredVersion = s.measuredVersion := rfl
@[simp] theorem setPte_bar (a : Nat) (p : Dword) : (s.setPte a p).bar = s.bar := rfl
@[simp] theorem setPte_bar2 (a : Nat) (p : Dword) : (s.setPte a p).bar2 = s.bar2 := rfl
@[simp] theorem setPte_dies (a : Nat) (p : Dword) : (s.setPte a p).dies = s.dies := rfl
@[simp] theorem setPte_ports (a : Nat) (p : Dword) : (s.setPte a p).ports = s.ports := rfl
@[simp] theorem setPte_hdmBase (a : Nat) (p : Dword) : (s.setPte a p).hdmBase = s.hdmBase := rfl
@[simp] theorem setPte_hostMem (a : Nat) (p : Dword) : (s.setPte a p).hostMem = s.hostMem := rfl
@[simp] theorem setPte_pool (a : Nat) (p : Dword) : (s.setPte a p).pool = s.pool := rfl
@[simp] theorem setPte_unseen (a : Nat) (p : Dword) : (s.setPte a p).unseen = s.unseen := rfl
@[simp] theorem setPte_poison (a : Nat) (p : Dword) : (s.setPte a p).poison = s.poison := rfl
@[simp] theorem setPte_dir (a : Nat) (p : Dword) : (s.setPte a p).dir = s.dir := rfl
@[simp] theorem setPte_served (a : Nat) (p : Dword) : (s.setPte a p).served = s.served := rfl
@[simp] theorem setPte_hostFilter (a : Nat) (p : Dword) : (s.setPte a p).hostFilter = s.hostFilter := rfl
@[simp] theorem setPte_cores (a : Nat) (p : Dword) : (s.setPte a p).cores = s.cores := rfl
@[simp] theorem setPte_chains (a : Nat) (p : Dword) : (s.setPte a p).chains = s.chains := rfl
@[simp] theorem setPte_groups (a : Nat) (p : Dword) : (s.setPte a p).groups = s.groups := rfl
@[simp] theorem setPte_kernels (a : Nat) (p : Dword) : (s.setPte a p).kernels = s.kernels := rfl
@[simp] theorem setPte_kernOrder (a : Nat) (p : Dword) : (s.setPte a p).kernOrder = s.kernOrder := rfl
@[simp] theorem setPte_reports (a : Nat) (p : Dword) : (s.setPte a p).reports = s.reports := rfl
@[simp] theorem setPte_ctxs (a : Nat) (p : Dword) : (s.setPte a p).ctxs = s.ctxs := rfl
@[simp] theorem setPte_slots (a : Nat) (p : Dword) : (s.setPte a p).slots = s.slots := rfl
@[simp] theorem setPte_lastAccept (a : Nat) (p : Dword) : (s.setPte a p).lastAccept = s.lastAccept := rfl
@[simp] theorem setPte_unmaps (a : Nat) (p : Dword) : (s.setPte a p).unmaps = s.unmaps := rfl
@[simp] theorem setPte_locks (a : Nat) (p : Dword) : (s.setPte a p).locks = s.locks := rfl
@[simp] theorem setPte_windows (a : Nat) (p : Dword) : (s.setPte a p).windows = s.windows := rfl
@[simp] theorem setPte_pins (a : Nat) (p : Dword) : (s.setPte a p).pins = s.pins := rfl
@[simp] theorem setPte_oslots (a : Nat) (p : Dword) : (s.setPte a p).oslots = s.oslots := rfl
@[simp] theorem setPte_pend (a : Nat) (p : Dword) : (s.setPte a p).pend = s.pend := rfl
@[simp] theorem setPte_fseq (a : Nat) (p : Dword) : (s.setPte a p).fseq = s.fseq := rfl
@[simp] theorem setPte_jobs (a : Nat) (p : Dword) : (s.setPte a p).jobs = s.jobs := rfl
@[simp] theorem setPte_frames (a : Nat) (p : Dword) : (s.setPte a p).frames = s.frames := rfl
@[simp] theorem setPte_counters (a : Nat) (p : Dword) : (s.setPte a p).counters = s.counters := rfl
@[simp] theorem setPte_leases (a : Nat) (p : Dword) : (s.setPte a p).leases = s.leases := rfl
@[simp] theorem setPte_outbox (a : Nat) (p : Dword) : (s.setPte a p).outbox = s.outbox := rfl
@[simp] theorem setPte_prefetch (a : Nat) (p : Dword) : (s.setPte a p).prefetch = s.prefetch := rfl
@[simp] theorem setPte_devWrites (a : Nat) (p : Dword) : (s.setPte a p).devWrites = s.devWrites := rfl
@[simp] theorem setPte_msi (a : Nat) (p : Dword) : (s.setPte a p).msi = s.msi := rfl
@[simp] theorem setPte_msiHeld (a : Nat) (p : Dword) : (s.setPte a p).msiHeld = s.msiHeld := rfl
@[simp] theorem setPte_reply (a : Nat) (p : Dword) : (s.setPte a p).reply = s.reply := rfl
@[simp] theorem setPte_evbuf (a : Nat) (p : Dword) : (s.setPte a p).evbuf = s.evbuf := rfl
@[simp] theorem setPte_laneLimit (a : Nat) (p : Dword) : (s.setPte a p).laneLimit = s.laneLimit := rfl

@[simp] theorem modGroup_agenda (g : Nat) (f : Group → Group) : (s.modGroup g f).agenda = s.agenda := by unfold State.modGroup; split <;> rfl
@[simp] theorem modGroup_focus (g : Nat) (f : Group → Group) : (s.modGroup g f).focus = s.focus := by unfold State.modGroup; split <;> rfl
@[simp] theorem modGroup_issue (g : Nat) (f : Group → Group) : (s.modGroup g f).issue = s.issue := by unfold State.modGroup; split <;> rfl
@[simp] theorem modGroup_choiceCtr (g : Nat) (f : Group → Group) : (s.modGroup g f).choiceCtr = s.choiceCtr := by unfold State.modGroup; split <;> rfl
@[simp] theorem modGroup_nextUid (g : Nat) (f : Group → Group) : (s.modGroup g f).nextUid = s.nextUid := by unfold State.modGroup; split <;> rfl
@[simp] theorem modGroup_tick (g : Nat) (f : Group → Group) : (s.modGroup g f).tick = s.tick := by unfold State.modGroup; split <;> rfl
@[simp] theorem modGroup_devTicks (g : Nat) (f : Group → Group) : (s.modGroup g f).devTicks = s.devTicks := by unfold State.modGroup; split <;> rfl
@[simp] theorem modGroup_slew (g : Nat) (f : Group → Group) : (s.modGroup g f).slew = s.slew := by unfold State.modGroup; split <;> rfl
@[simp] theorem modGroup_halvedAt (g : Nat) (f : Group → Group) : (s.modGroup g f).halvedAt = s.halvedAt := by unfold State.modGroup; split <;> rfl
@[simp] theorem modGroup_boot (g : Nat) (f : Group → Group) : (s.modGroup g f).boot = s.boot := by unfold State.modGroup; split <;> rfl
@[simp] theorem modGroup_powered (g : Nat) (f : Group → Group) : (s.modGroup g f).powered = s.powered := by unfold State.modGroup; split <;> rfl
@[simp] theorem modGroup_tripped (g : Nat) (f : Group → Group) : (s.modGroup g f).tripped = s.tripped := by unfold State.modGroup; split <;> rfl
@[simp] theorem modGroup_fwVersion (g : Nat) (f : Group → Group) : (s.modGroup g f).fwVersion = s.fwVersion := by unfold State.modGroup; split <;> rfl
@[simp] theorem modGroup_measured (g : Nat) (f : Group → Group) : (s.modGroup g f).measured = s.measured := by unfold State.modGroup; split <;> rfl
@[simp] theorem modGroup_measuredVersion (g : Nat) (f : Group → Group) : (s.modGroup g f).measuredVersion = s.measuredVersion := by unfold State.modGroup; split <;> rfl
@[simp] theorem modGroup_bar (g : Nat) (f : Group → Group) : (s.modGroup g f).bar = s.bar := by unfold State.modGroup; split <;> rfl
@[simp] theorem modGroup_bar2 (g : Nat) (f : Group → Group) : (s.modGroup g f).bar2 = s.bar2 := by unfold State.modGroup; split <;> rfl
@[simp] theorem modGroup_dies (g : Nat) (f : Group → Group) : (s.modGroup g f).dies = s.dies := by unfold State.modGroup; split <;> rfl
@[simp] theorem modGroup_ports (g : Nat) (f : Group → Group) : (s.modGroup g f).ports = s.ports := by unfold State.modGroup; split <;> rfl
@[simp] theorem modGroup_hdmBase (g : Nat) (f : Group → Group) : (s.modGroup g f).hdmBase = s.hdmBase := by unfold State.modGroup; split <;> rfl
@[simp] theorem modGroup_hbm (g : Nat) (f : Group → Group) : (s.modGroup g f).hbm = s.hbm := by unfold State.modGroup; split <;> rfl
@[simp] theorem modGroup_hostMem (g : Nat) (f : Group → Group) : (s.modGroup g f).hostMem = s.hostMem := by unfold State.modGroup; split <;> rfl
@[simp] theorem modGroup_pool (g : Nat) (f : Group → Group) : (s.modGroup g f).pool = s.pool := by unfold State.modGroup; split <;> rfl
@[simp] theorem modGroup_unseen (g : Nat) (f : Group → Group) : (s.modGroup g f).unseen = s.unseen := by unfold State.modGroup; split <;> rfl
@[simp] theorem modGroup_poison (g : Nat) (f : Group → Group) : (s.modGroup g f).poison = s.poison := by unfold State.modGroup; split <;> rfl
@[simp] theorem modGroup_dir (g : Nat) (f : Group → Group) : (s.modGroup g f).dir = s.dir := by unfold State.modGroup; split <;> rfl
@[simp] theorem modGroup_served (g : Nat) (f : Group → Group) : (s.modGroup g f).served = s.served := by unfold State.modGroup; split <;> rfl
@[simp] theorem modGroup_hostFilter (g : Nat) (f : Group → Group) : (s.modGroup g f).hostFilter = s.hostFilter := by unfold State.modGroup; split <;> rfl
@[simp] theorem modGroup_cores (g : Nat) (f : Group → Group) : (s.modGroup g f).cores = s.cores := by unfold State.modGroup; split <;> rfl
@[simp] theorem modGroup_chains (g : Nat) (f : Group → Group) : (s.modGroup g f).chains = s.chains := by unfold State.modGroup; split <;> rfl
@[simp] theorem modGroup_kernels (g : Nat) (f : Group → Group) : (s.modGroup g f).kernels = s.kernels := by unfold State.modGroup; split <;> rfl
@[simp] theorem modGroup_kernOrder (g : Nat) (f : Group → Group) : (s.modGroup g f).kernOrder = s.kernOrder := by unfold State.modGroup; split <;> rfl
@[simp] theorem modGroup_reports (g : Nat) (f : Group → Group) : (s.modGroup g f).reports = s.reports := by unfold State.modGroup; split <;> rfl
@[simp] theorem modGroup_ctxs (g : Nat) (f : Group → Group) : (s.modGroup g f).ctxs = s.ctxs := by unfold State.modGroup; split <;> rfl
@[simp] theorem modGroup_slots (g : Nat) (f : Group → Group) : (s.modGroup g f).slots = s.slots := by unfold State.modGroup; split <;> rfl
@[simp] theorem modGroup_lastAccept (g : Nat) (f : Group → Group) : (s.modGroup g f).lastAccept = s.lastAccept := by unfold State.modGroup; split <;> rfl
@[simp] theorem modGroup_unmaps (g : Nat) (f : Group → Group) : (s.modGroup g f).unmaps = s.unmaps := by unfold State.modGroup; split <;> rfl
@[simp] theorem modGroup_locks (g : Nat) (f : Group → Group) : (s.modGroup g f).locks = s.locks := by unfold State.modGroup; split <;> rfl
@[simp] theorem modGroup_windows (g : Nat) (f : Group → Group) : (s.modGroup g f).windows = s.windows := by unfold State.modGroup; split <;> rfl
@[simp] theorem modGroup_pins (g : Nat) (f : Group → Group) : (s.modGroup g f).pins = s.pins := by unfold State.modGroup; split <;> rfl
@[simp] theorem modGroup_oslots (g : Nat) (f : Group → Group) : (s.modGroup g f).oslots = s.oslots := by unfold State.modGroup; split <;> rfl
@[simp] theorem modGroup_pend (g : Nat) (f : Group → Group) : (s.modGroup g f).pend = s.pend := by unfold State.modGroup; split <;> rfl
@[simp] theorem modGroup_fseq (g : Nat) (f : Group → Group) : (s.modGroup g f).fseq = s.fseq := by unfold State.modGroup; split <;> rfl
@[simp] theorem modGroup_jobs (g : Nat) (f : Group → Group) : (s.modGroup g f).jobs = s.jobs := by unfold State.modGroup; split <;> rfl
@[simp] theorem modGroup_frames (g : Nat) (f : Group → Group) : (s.modGroup g f).frames = s.frames := by unfold State.modGroup; split <;> rfl
@[simp] theorem modGroup_counters (g : Nat) (f : Group → Group) : (s.modGroup g f).counters = s.counters := by unfold State.modGroup; split <;> rfl
@[simp] theorem modGroup_leases (g : Nat) (f : Group → Group) : (s.modGroup g f).leases = s.leases := by unfold State.modGroup; split <;> rfl
@[simp] theorem modGroup_outbox (g : Nat) (f : Group → Group) : (s.modGroup g f).outbox = s.outbox := by unfold State.modGroup; split <;> rfl
@[simp] theorem modGroup_prefetch (g : Nat) (f : Group → Group) : (s.modGroup g f).prefetch = s.prefetch := by unfold State.modGroup; split <;> rfl
@[simp] theorem modGroup_devWrites (g : Nat) (f : Group → Group) : (s.modGroup g f).devWrites = s.devWrites := by unfold State.modGroup; split <;> rfl
@[simp] theorem modGroup_msi (g : Nat) (f : Group → Group) : (s.modGroup g f).msi = s.msi := by unfold State.modGroup; split <;> rfl
@[simp] theorem modGroup_msiHeld (g : Nat) (f : Group → Group) : (s.modGroup g f).msiHeld = s.msiHeld := by unfold State.modGroup; split <;> rfl
@[simp] theorem modGroup_reply (g : Nat) (f : Group → Group) : (s.modGroup g f).reply = s.reply := by unfold State.modGroup; split <;> rfl
@[simp] theorem modGroup_evbuf (g : Nat) (f : Group → Group) : (s.modGroup g f).evbuf = s.evbuf := by unfold State.modGroup; split <;> rfl
@[simp] theorem modGroup_laneLimit (g : Nat) (f : Group → Group) : (s.modGroup g f).laneLimit = s.laneLimit := by unfold State.modGroup; split <;> rfl

@[simp] theorem setThread_agenda (g t : Nat) (x : Thread) : (s.setThread g t x).agenda = s.agenda := by unfold State.setThread State.modGroup; split <;> rfl
@[simp] theorem setThread_focus (g t : Nat) (x : Thread) : (s.setThread g t x).focus = s.focus := by unfold State.setThread State.modGroup; split <;> rfl
@[simp] theorem setThread_issue (g t : Nat) (x : Thread) : (s.setThread g t x).issue = s.issue := by unfold State.setThread State.modGroup; split <;> rfl
@[simp] theorem setThread_choiceCtr (g t : Nat) (x : Thread) : (s.setThread g t x).choiceCtr = s.choiceCtr := by unfold State.setThread State.modGroup; split <;> rfl
@[simp] theorem setThread_nextUid (g t : Nat) (x : Thread) : (s.setThread g t x).nextUid = s.nextUid := by unfold State.setThread State.modGroup; split <;> rfl
@[simp] theorem setThread_tick (g t : Nat) (x : Thread) : (s.setThread g t x).tick = s.tick := by unfold State.setThread State.modGroup; split <;> rfl
@[simp] theorem setThread_devTicks (g t : Nat) (x : Thread) : (s.setThread g t x).devTicks = s.devTicks := by unfold State.setThread State.modGroup; split <;> rfl
@[simp] theorem setThread_slew (g t : Nat) (x : Thread) : (s.setThread g t x).slew = s.slew := by unfold State.setThread State.modGroup; split <;> rfl
@[simp] theorem setThread_halvedAt (g t : Nat) (x : Thread) : (s.setThread g t x).halvedAt = s.halvedAt := by unfold State.setThread State.modGroup; split <;> rfl
@[simp] theorem setThread_boot (g t : Nat) (x : Thread) : (s.setThread g t x).boot = s.boot := by unfold State.setThread State.modGroup; split <;> rfl
@[simp] theorem setThread_powered (g t : Nat) (x : Thread) : (s.setThread g t x).powered = s.powered := by unfold State.setThread State.modGroup; split <;> rfl
@[simp] theorem setThread_tripped (g t : Nat) (x : Thread) : (s.setThread g t x).tripped = s.tripped := by unfold State.setThread State.modGroup; split <;> rfl
@[simp] theorem setThread_fwVersion (g t : Nat) (x : Thread) : (s.setThread g t x).fwVersion = s.fwVersion := by unfold State.setThread State.modGroup; split <;> rfl
@[simp] theorem setThread_measured (g t : Nat) (x : Thread) : (s.setThread g t x).measured = s.measured := by unfold State.setThread State.modGroup; split <;> rfl
@[simp] theorem setThread_measuredVersion (g t : Nat) (x : Thread) : (s.setThread g t x).measuredVersion = s.measuredVersion := by unfold State.setThread State.modGroup; split <;> rfl
@[simp] theorem setThread_bar (g t : Nat) (x : Thread) : (s.setThread g t x).bar = s.bar := by unfold State.setThread State.modGroup; split <;> rfl
@[simp] theorem setThread_bar2 (g t : Nat) (x : Thread) : (s.setThread g t x).bar2 = s.bar2 := by unfold State.setThread State.modGroup; split <;> rfl
@[simp] theorem setThread_dies (g t : Nat) (x : Thread) : (s.setThread g t x).dies = s.dies := by unfold State.setThread State.modGroup; split <;> rfl
@[simp] theorem setThread_ports (g t : Nat) (x : Thread) : (s.setThread g t x).ports = s.ports := by unfold State.setThread State.modGroup; split <;> rfl
@[simp] theorem setThread_hdmBase (g t : Nat) (x : Thread) : (s.setThread g t x).hdmBase = s.hdmBase := by unfold State.setThread State.modGroup; split <;> rfl
@[simp] theorem setThread_hbm (g t : Nat) (x : Thread) : (s.setThread g t x).hbm = s.hbm := by unfold State.setThread State.modGroup; split <;> rfl
@[simp] theorem setThread_hostMem (g t : Nat) (x : Thread) : (s.setThread g t x).hostMem = s.hostMem := by unfold State.setThread State.modGroup; split <;> rfl
@[simp] theorem setThread_pool (g t : Nat) (x : Thread) : (s.setThread g t x).pool = s.pool := by unfold State.setThread State.modGroup; split <;> rfl
@[simp] theorem setThread_unseen (g t : Nat) (x : Thread) : (s.setThread g t x).unseen = s.unseen := by unfold State.setThread State.modGroup; split <;> rfl
@[simp] theorem setThread_poison (g t : Nat) (x : Thread) : (s.setThread g t x).poison = s.poison := by unfold State.setThread State.modGroup; split <;> rfl
@[simp] theorem setThread_dir (g t : Nat) (x : Thread) : (s.setThread g t x).dir = s.dir := by unfold State.setThread State.modGroup; split <;> rfl
@[simp] theorem setThread_served (g t : Nat) (x : Thread) : (s.setThread g t x).served = s.served := by unfold State.setThread State.modGroup; split <;> rfl
@[simp] theorem setThread_hostFilter (g t : Nat) (x : Thread) : (s.setThread g t x).hostFilter = s.hostFilter := by unfold State.setThread State.modGroup; split <;> rfl
@[simp] theorem setThread_cores (g t : Nat) (x : Thread) : (s.setThread g t x).cores = s.cores := by unfold State.setThread State.modGroup; split <;> rfl
@[simp] theorem setThread_chains (g t : Nat) (x : Thread) : (s.setThread g t x).chains = s.chains := by unfold State.setThread State.modGroup; split <;> rfl
@[simp] theorem setThread_kernels (g t : Nat) (x : Thread) : (s.setThread g t x).kernels = s.kernels := by unfold State.setThread State.modGroup; split <;> rfl
@[simp] theorem setThread_kernOrder (g t : Nat) (x : Thread) : (s.setThread g t x).kernOrder = s.kernOrder := by unfold State.setThread State.modGroup; split <;> rfl
@[simp] theorem setThread_reports (g t : Nat) (x : Thread) : (s.setThread g t x).reports = s.reports := by unfold State.setThread State.modGroup; split <;> rfl
@[simp] theorem setThread_ctxs (g t : Nat) (x : Thread) : (s.setThread g t x).ctxs = s.ctxs := by unfold State.setThread State.modGroup; split <;> rfl
@[simp] theorem setThread_slots (g t : Nat) (x : Thread) : (s.setThread g t x).slots = s.slots := by unfold State.setThread State.modGroup; split <;> rfl
@[simp] theorem setThread_lastAccept (g t : Nat) (x : Thread) : (s.setThread g t x).lastAccept = s.lastAccept := by unfold State.setThread State.modGroup; split <;> rfl
@[simp] theorem setThread_unmaps (g t : Nat) (x : Thread) : (s.setThread g t x).unmaps = s.unmaps := by unfold State.setThread State.modGroup; split <;> rfl
@[simp] theorem setThread_locks (g t : Nat) (x : Thread) : (s.setThread g t x).locks = s.locks := by unfold State.setThread State.modGroup; split <;> rfl
@[simp] theorem setThread_windows (g t : Nat) (x : Thread) : (s.setThread g t x).windows = s.windows := by unfold State.setThread State.modGroup; split <;> rfl
@[simp] theorem setThread_pins (g t : Nat) (x : Thread) : (s.setThread g t x).pins = s.pins := by unfold State.setThread State.modGroup; split <;> rfl
@[simp] theorem setThread_oslots (g t : Nat) (x : Thread) : (s.setThread g t x).oslots = s.oslots := by unfold State.setThread State.modGroup; split <;> rfl
@[simp] theorem setThread_pend (g t : Nat) (x : Thread) : (s.setThread g t x).pend = s.pend := by unfold State.setThread State.modGroup; split <;> rfl
@[simp] theorem setThread_fseq (g t : Nat) (x : Thread) : (s.setThread g t x).fseq = s.fseq := by unfold State.setThread State.modGroup; split <;> rfl
@[simp] theorem setThread_jobs (g t : Nat) (x : Thread) : (s.setThread g t x).jobs = s.jobs := by unfold State.setThread State.modGroup; split <;> rfl
@[simp] theorem setThread_frames (g t : Nat) (x : Thread) : (s.setThread g t x).frames = s.frames := by unfold State.setThread State.modGroup; split <;> rfl
@[simp] theorem setThread_counters (g t : Nat) (x : Thread) : (s.setThread g t x).counters = s.counters := by unfold State.setThread State.modGroup; split <;> rfl
@[simp] theorem setThread_leases (g t : Nat) (x : Thread) : (s.setThread g t x).leases = s.leases := by unfold State.setThread State.modGroup; split <;> rfl
@[simp] theorem setThread_outbox (g t : Nat) (x : Thread) : (s.setThread g t x).outbox = s.outbox := by unfold State.setThread State.modGroup; split <;> rfl
@[simp] theorem setThread_prefetch (g t : Nat) (x : Thread) : (s.setThread g t x).prefetch = s.prefetch := by unfold State.setThread State.modGroup; split <;> rfl
@[simp] theorem setThread_devWrites (g t : Nat) (x : Thread) : (s.setThread g t x).devWrites = s.devWrites := by unfold State.setThread State.modGroup; split <;> rfl
@[simp] theorem setThread_msi (g t : Nat) (x : Thread) : (s.setThread g t x).msi = s.msi := by unfold State.setThread State.modGroup; split <;> rfl
@[simp] theorem setThread_msiHeld (g t : Nat) (x : Thread) : (s.setThread g t x).msiHeld = s.msiHeld := by unfold State.setThread State.modGroup; split <;> rfl
@[simp] theorem setThread_reply (g t : Nat) (x : Thread) : (s.setThread g t x).reply = s.reply := by unfold State.setThread State.modGroup; split <;> rfl
@[simp] theorem setThread_evbuf (g t : Nat) (x : Thread) : (s.setThread g t x).evbuf = s.evbuf := by unfold State.setThread State.modGroup; split <;> rfl
@[simp] theorem setThread_laneLimit (g t : Nat) (x : Thread) : (s.setThread g t x).laneLimit = s.laneLimit := by unfold State.setThread State.modGroup; split <;> rfl

@[simp] theorem modThread_agenda (g t : Nat) (f : Thread → Thread) : (s.modThread g t f).agenda = s.agenda := by unfold State.modThread State.modGroup; split <;> rfl
@[simp] theorem modThread_focus (g t : Nat) (f : Thread → Thread) : (s.modThread g t f).focus = s.focus := by unfold State.modThread State.modGroup; split <;> rfl
@[simp] theorem modThread_issue (g t : Nat) (f : Thread → Thread) : (s.modThread g t f).issue = s.issue := by unfold State.modThread State.modGroup; split <;> rfl
@[simp] theorem modThread_choiceCtr (g t : Nat) (f : Thread → Thread) : (s.modThread g t f).choiceCtr = s.choiceCtr := by unfold State.modThread State.modGroup; split <;> rfl
@[simp] theorem modThread_nextUid (g t : Nat) (f : Thread → Thread) : (s.modThread g t f).nextUid = s.nextUid := by unfold State.modThread State.modGroup; split <;> rfl
@[simp] theorem modThread_tick (g t : Nat) (f : Thread → Thread) : (s.modThread g t f).tick = s.tick := by unfold State.modThread State.modGroup; split <;> rfl
@[simp] theorem modThread_devTicks (g t : Nat) (f : Thread → Thread) : (s.modThread g t f).devTicks = s.devTicks := by unfold State.modThread State.modGroup; split <;> rfl
@[simp] theorem modThread_slew (g t : Nat) (f : Thread → Thread) : (s.modThread g t f).slew = s.slew := by unfold State.modThread State.modGroup; split <;> rfl
@[simp] theorem modThread_halvedAt (g t : Nat) (f : Thread → Thread) : (s.modThread g t f).halvedAt = s.halvedAt := by unfold State.modThread State.modGroup; split <;> rfl
@[simp] theorem modThread_boot (g t : Nat) (f : Thread → Thread) : (s.modThread g t f).boot = s.boot := by unfold State.modThread State.modGroup; split <;> rfl
@[simp] theorem modThread_powered (g t : Nat) (f : Thread → Thread) : (s.modThread g t f).powered = s.powered := by unfold State.modThread State.modGroup; split <;> rfl
@[simp] theorem modThread_tripped (g t : Nat) (f : Thread → Thread) : (s.modThread g t f).tripped = s.tripped := by unfold State.modThread State.modGroup; split <;> rfl
@[simp] theorem modThread_fwVersion (g t : Nat) (f : Thread → Thread) : (s.modThread g t f).fwVersion = s.fwVersion := by unfold State.modThread State.modGroup; split <;> rfl
@[simp] theorem modThread_measured (g t : Nat) (f : Thread → Thread) : (s.modThread g t f).measured = s.measured := by unfold State.modThread State.modGroup; split <;> rfl
@[simp] theorem modThread_measuredVersion (g t : Nat) (f : Thread → Thread) : (s.modThread g t f).measuredVersion = s.measuredVersion := by unfold State.modThread State.modGroup; split <;> rfl
@[simp] theorem modThread_bar (g t : Nat) (f : Thread → Thread) : (s.modThread g t f).bar = s.bar := by unfold State.modThread State.modGroup; split <;> rfl
@[simp] theorem modThread_bar2 (g t : Nat) (f : Thread → Thread) : (s.modThread g t f).bar2 = s.bar2 := by unfold State.modThread State.modGroup; split <;> rfl
@[simp] theorem modThread_dies (g t : Nat) (f : Thread → Thread) : (s.modThread g t f).dies = s.dies := by unfold State.modThread State.modGroup; split <;> rfl
@[simp] theorem modThread_ports (g t : Nat) (f : Thread → Thread) : (s.modThread g t f).ports = s.ports := by unfold State.modThread State.modGroup; split <;> rfl
@[simp] theorem modThread_hdmBase (g t : Nat) (f : Thread → Thread) : (s.modThread g t f).hdmBase = s.hdmBase := by unfold State.modThread State.modGroup; split <;> rfl
@[simp] theorem modThread_hbm (g t : Nat) (f : Thread → Thread) : (s.modThread g t f).hbm = s.hbm := by unfold State.modThread State.modGroup; split <;> rfl
@[simp] theorem modThread_hostMem (g t : Nat) (f : Thread → Thread) : (s.modThread g t f).hostMem = s.hostMem := by unfold State.modThread State.modGroup; split <;> rfl
@[simp] theorem modThread_pool (g t : Nat) (f : Thread → Thread) : (s.modThread g t f).pool = s.pool := by unfold State.modThread State.modGroup; split <;> rfl
@[simp] theorem modThread_unseen (g t : Nat) (f : Thread → Thread) : (s.modThread g t f).unseen = s.unseen := by unfold State.modThread State.modGroup; split <;> rfl
@[simp] theorem modThread_poison (g t : Nat) (f : Thread → Thread) : (s.modThread g t f).poison = s.poison := by unfold State.modThread State.modGroup; split <;> rfl
@[simp] theorem modThread_dir (g t : Nat) (f : Thread → Thread) : (s.modThread g t f).dir = s.dir := by unfold State.modThread State.modGroup; split <;> rfl
@[simp] theorem modThread_served (g t : Nat) (f : Thread → Thread) : (s.modThread g t f).served = s.served := by unfold State.modThread State.modGroup; split <;> rfl
@[simp] theorem modThread_hostFilter (g t : Nat) (f : Thread → Thread) : (s.modThread g t f).hostFilter = s.hostFilter := by unfold State.modThread State.modGroup; split <;> rfl
@[simp] theorem modThread_cores (g t : Nat) (f : Thread → Thread) : (s.modThread g t f).cores = s.cores := by unfold State.modThread State.modGroup; split <;> rfl
@[simp] theorem modThread_chains (g t : Nat) (f : Thread → Thread) : (s.modThread g t f).chains = s.chains := by unfold State.modThread State.modGroup; split <;> rfl
@[simp] theorem modThread_kernels (g t : Nat) (f : Thread → Thread) : (s.modThread g t f).kernels = s.kernels := by unfold State.modThread State.modGroup; split <;> rfl
@[simp] theorem modThread_kernOrder (g t : Nat) (f : Thread → Thread) : (s.modThread g t f).kernOrder = s.kernOrder := by unfold State.modThread State.modGroup; split <;> rfl
@[simp] theorem modThread_reports (g t : Nat) (f : Thread → Thread) : (s.modThread g t f).reports = s.reports := by unfold State.modThread State.modGroup; split <;> rfl
@[simp] theorem modThread_ctxs (g t : Nat) (f : Thread → Thread) : (s.modThread g t f).ctxs = s.ctxs := by unfold State.modThread State.modGroup; split <;> rfl
@[simp] theorem modThread_slots (g t : Nat) (f : Thread → Thread) : (s.modThread g t f).slots = s.slots := by unfold State.modThread State.modGroup; split <;> rfl
@[simp] theorem modThread_lastAccept (g t : Nat) (f : Thread → Thread) : (s.modThread g t f).lastAccept = s.lastAccept := by unfold State.modThread State.modGroup; split <;> rfl
@[simp] theorem modThread_unmaps (g t : Nat) (f : Thread → Thread) : (s.modThread g t f).unmaps = s.unmaps := by unfold State.modThread State.modGroup; split <;> rfl
@[simp] theorem modThread_locks (g t : Nat) (f : Thread → Thread) : (s.modThread g t f).locks = s.locks := by unfold State.modThread State.modGroup; split <;> rfl
@[simp] theorem modThread_windows (g t : Nat) (f : Thread → Thread) : (s.modThread g t f).windows = s.windows := by unfold State.modThread State.modGroup; split <;> rfl
@[simp] theorem modThread_pins (g t : Nat) (f : Thread → Thread) : (s.modThread g t f).pins = s.pins := by unfold State.modThread State.modGroup; split <;> rfl
@[simp] theorem modThread_oslots (g t : Nat) (f : Thread → Thread) : (s.modThread g t f).oslots = s.oslots := by unfold State.modThread State.modGroup; split <;> rfl
@[simp] theorem modThread_pend (g t : Nat) (f : Thread → Thread) : (s.modThread g t f).pend = s.pend := by unfold State.modThread State.modGroup; split <;> rfl
@[simp] theorem modThread_fseq (g t : Nat) (f : Thread → Thread) : (s.modThread g t f).fseq = s.fseq := by unfold State.modThread State.modGroup; split <;> rfl
@[simp] theorem modThread_jobs (g t : Nat) (f : Thread → Thread) : (s.modThread g t f).jobs = s.jobs := by unfold State.modThread State.modGroup; split <;> rfl
@[simp] theorem modThread_frames (g t : Nat) (f : Thread → Thread) : (s.modThread g t f).frames = s.frames := by unfold State.modThread State.modGroup; split <;> rfl
@[simp] theorem modThread_counters (g t : Nat) (f : Thread → Thread) : (s.modThread g t f).counters = s.counters := by unfold State.modThread State.modGroup; split <;> rfl
@[simp] theorem modThread_leases (g t : Nat) (f : Thread → Thread) : (s.modThread g t f).leases = s.leases := by unfold State.modThread State.modGroup; split <;> rfl
@[simp] theorem modThread_outbox (g t : Nat) (f : Thread → Thread) : (s.modThread g t f).outbox = s.outbox := by unfold State.modThread State.modGroup; split <;> rfl
@[simp] theorem modThread_prefetch (g t : Nat) (f : Thread → Thread) : (s.modThread g t f).prefetch = s.prefetch := by unfold State.modThread State.modGroup; split <;> rfl
@[simp] theorem modThread_devWrites (g t : Nat) (f : Thread → Thread) : (s.modThread g t f).devWrites = s.devWrites := by unfold State.modThread State.modGroup; split <;> rfl
@[simp] theorem modThread_msi (g t : Nat) (f : Thread → Thread) : (s.modThread g t f).msi = s.msi := by unfold State.modThread State.modGroup; split <;> rfl
@[simp] theorem modThread_msiHeld (g t : Nat) (f : Thread → Thread) : (s.modThread g t f).msiHeld = s.msiHeld := by unfold State.modThread State.modGroup; split <;> rfl
@[simp] theorem modThread_reply (g t : Nat) (f : Thread → Thread) : (s.modThread g t f).reply = s.reply := by unfold State.modThread State.modGroup; split <;> rfl
@[simp] theorem modThread_evbuf (g t : Nat) (f : Thread → Thread) : (s.modThread g t f).evbuf = s.evbuf := by unfold State.modThread State.modGroup; split <;> rfl
@[simp] theorem modThread_laneLimit (g t : Nat) (f : Thread → Thread) : (s.modThread g t f).laneLimit = s.laneLimit := by unfold State.modThread State.modGroup; split <;> rfl

@[simp] theorem modKern_agenda (k : Nat) (f : Kernel → Kernel) : (s.modKern k f).agenda = s.agenda := by unfold State.modKern; split <;> rfl
@[simp] theorem modKern_focus (k : Nat) (f : Kernel → Kernel) : (s.modKern k f).focus = s.focus := by unfold State.modKern; split <;> rfl
@[simp] theorem modKern_issue (k : Nat) (f : Kernel → Kernel) : (s.modKern k f).issue = s.issue := by unfold State.modKern; split <;> rfl
@[simp] theorem modKern_choiceCtr (k : Nat) (f : Kernel → Kernel) : (s.modKern k f).choiceCtr = s.choiceCtr := by unfold State.modKern; split <;> rfl
@[simp] theorem modKern_nextUid (k : Nat) (f : Kernel → Kernel) : (s.modKern k f).nextUid = s.nextUid := by unfold State.modKern; split <;> rfl
@[simp] theorem modKern_tick (k : Nat) (f : Kernel → Kernel) : (s.modKern k f).tick = s.tick := by unfold State.modKern; split <;> rfl
@[simp] theorem modKern_devTicks (k : Nat) (f : Kernel → Kernel) : (s.modKern k f).devTicks = s.devTicks := by unfold State.modKern; split <;> rfl
@[simp] theorem modKern_slew (k : Nat) (f : Kernel → Kernel) : (s.modKern k f).slew = s.slew := by unfold State.modKern; split <;> rfl
@[simp] theorem modKern_halvedAt (k : Nat) (f : Kernel → Kernel) : (s.modKern k f).halvedAt = s.halvedAt := by unfold State.modKern; split <;> rfl
@[simp] theorem modKern_boot (k : Nat) (f : Kernel → Kernel) : (s.modKern k f).boot = s.boot := by unfold State.modKern; split <;> rfl
@[simp] theorem modKern_powered (k : Nat) (f : Kernel → Kernel) : (s.modKern k f).powered = s.powered := by unfold State.modKern; split <;> rfl
@[simp] theorem modKern_tripped (k : Nat) (f : Kernel → Kernel) : (s.modKern k f).tripped = s.tripped := by unfold State.modKern; split <;> rfl
@[simp] theorem modKern_fwVersion (k : Nat) (f : Kernel → Kernel) : (s.modKern k f).fwVersion = s.fwVersion := by unfold State.modKern; split <;> rfl
@[simp] theorem modKern_measured (k : Nat) (f : Kernel → Kernel) : (s.modKern k f).measured = s.measured := by unfold State.modKern; split <;> rfl
@[simp] theorem modKern_measuredVersion (k : Nat) (f : Kernel → Kernel) : (s.modKern k f).measuredVersion = s.measuredVersion := by unfold State.modKern; split <;> rfl
@[simp] theorem modKern_bar (k : Nat) (f : Kernel → Kernel) : (s.modKern k f).bar = s.bar := by unfold State.modKern; split <;> rfl
@[simp] theorem modKern_bar2 (k : Nat) (f : Kernel → Kernel) : (s.modKern k f).bar2 = s.bar2 := by unfold State.modKern; split <;> rfl
@[simp] theorem modKern_dies (k : Nat) (f : Kernel → Kernel) : (s.modKern k f).dies = s.dies := by unfold State.modKern; split <;> rfl
@[simp] theorem modKern_ports (k : Nat) (f : Kernel → Kernel) : (s.modKern k f).ports = s.ports := by unfold State.modKern; split <;> rfl
@[simp] theorem modKern_hdmBase (k : Nat) (f : Kernel → Kernel) : (s.modKern k f).hdmBase = s.hdmBase := by unfold State.modKern; split <;> rfl
@[simp] theorem modKern_hbm (k : Nat) (f : Kernel → Kernel) : (s.modKern k f).hbm = s.hbm := by unfold State.modKern; split <;> rfl
@[simp] theorem modKern_hostMem (k : Nat) (f : Kernel → Kernel) : (s.modKern k f).hostMem = s.hostMem := by unfold State.modKern; split <;> rfl
@[simp] theorem modKern_pool (k : Nat) (f : Kernel → Kernel) : (s.modKern k f).pool = s.pool := by unfold State.modKern; split <;> rfl
@[simp] theorem modKern_unseen (k : Nat) (f : Kernel → Kernel) : (s.modKern k f).unseen = s.unseen := by unfold State.modKern; split <;> rfl
@[simp] theorem modKern_poison (k : Nat) (f : Kernel → Kernel) : (s.modKern k f).poison = s.poison := by unfold State.modKern; split <;> rfl
@[simp] theorem modKern_dir (k : Nat) (f : Kernel → Kernel) : (s.modKern k f).dir = s.dir := by unfold State.modKern; split <;> rfl
@[simp] theorem modKern_served (k : Nat) (f : Kernel → Kernel) : (s.modKern k f).served = s.served := by unfold State.modKern; split <;> rfl
@[simp] theorem modKern_hostFilter (k : Nat) (f : Kernel → Kernel) : (s.modKern k f).hostFilter = s.hostFilter := by unfold State.modKern; split <;> rfl
@[simp] theorem modKern_cores (k : Nat) (f : Kernel → Kernel) : (s.modKern k f).cores = s.cores := by unfold State.modKern; split <;> rfl
@[simp] theorem modKern_chains (k : Nat) (f : Kernel → Kernel) : (s.modKern k f).chains = s.chains := by unfold State.modKern; split <;> rfl
@[simp] theorem modKern_groups (k : Nat) (f : Kernel → Kernel) : (s.modKern k f).groups = s.groups := by unfold State.modKern; split <;> rfl
@[simp] theorem modKern_kernOrder (k : Nat) (f : Kernel → Kernel) : (s.modKern k f).kernOrder = s.kernOrder := by unfold State.modKern; split <;> rfl
@[simp] theorem modKern_reports (k : Nat) (f : Kernel → Kernel) : (s.modKern k f).reports = s.reports := by unfold State.modKern; split <;> rfl
@[simp] theorem modKern_ctxs (k : Nat) (f : Kernel → Kernel) : (s.modKern k f).ctxs = s.ctxs := by unfold State.modKern; split <;> rfl
@[simp] theorem modKern_slots (k : Nat) (f : Kernel → Kernel) : (s.modKern k f).slots = s.slots := by unfold State.modKern; split <;> rfl
@[simp] theorem modKern_lastAccept (k : Nat) (f : Kernel → Kernel) : (s.modKern k f).lastAccept = s.lastAccept := by unfold State.modKern; split <;> rfl
@[simp] theorem modKern_unmaps (k : Nat) (f : Kernel → Kernel) : (s.modKern k f).unmaps = s.unmaps := by unfold State.modKern; split <;> rfl
@[simp] theorem modKern_locks (k : Nat) (f : Kernel → Kernel) : (s.modKern k f).locks = s.locks := by unfold State.modKern; split <;> rfl
@[simp] theorem modKern_windows (k : Nat) (f : Kernel → Kernel) : (s.modKern k f).windows = s.windows := by unfold State.modKern; split <;> rfl
@[simp] theorem modKern_pins (k : Nat) (f : Kernel → Kernel) : (s.modKern k f).pins = s.pins := by unfold State.modKern; split <;> rfl
@[simp] theorem modKern_oslots (k : Nat) (f : Kernel → Kernel) : (s.modKern k f).oslots = s.oslots := by unfold State.modKern; split <;> rfl
@[simp] theorem modKern_pend (k : Nat) (f : Kernel → Kernel) : (s.modKern k f).pend = s.pend := by unfold State.modKern; split <;> rfl
@[simp] theorem modKern_fseq (k : Nat) (f : Kernel → Kernel) : (s.modKern k f).fseq = s.fseq := by unfold State.modKern; split <;> rfl
@[simp] theorem modKern_jobs (k : Nat) (f : Kernel → Kernel) : (s.modKern k f).jobs = s.jobs := by unfold State.modKern; split <;> rfl
@[simp] theorem modKern_frames (k : Nat) (f : Kernel → Kernel) : (s.modKern k f).frames = s.frames := by unfold State.modKern; split <;> rfl
@[simp] theorem modKern_counters (k : Nat) (f : Kernel → Kernel) : (s.modKern k f).counters = s.counters := by unfold State.modKern; split <;> rfl
@[simp] theorem modKern_leases (k : Nat) (f : Kernel → Kernel) : (s.modKern k f).leases = s.leases := by unfold State.modKern; split <;> rfl
@[simp] theorem modKern_outbox (k : Nat) (f : Kernel → Kernel) : (s.modKern k f).outbox = s.outbox := by unfold State.modKern; split <;> rfl
@[simp] theorem modKern_prefetch (k : Nat) (f : Kernel → Kernel) : (s.modKern k f).prefetch = s.prefetch := by unfold State.modKern; split <;> rfl
@[simp] theorem modKern_devWrites (k : Nat) (f : Kernel → Kernel) : (s.modKern k f).devWrites = s.devWrites := by unfold State.modKern; split <;> rfl
@[simp] theorem modKern_msi (k : Nat) (f : Kernel → Kernel) : (s.modKern k f).msi = s.msi := by unfold State.modKern; split <;> rfl
@[simp] theorem modKern_msiHeld (k : Nat) (f : Kernel → Kernel) : (s.modKern k f).msiHeld = s.msiHeld := by unfold State.modKern; split <;> rfl
@[simp] theorem modKern_reply (k : Nat) (f : Kernel → Kernel) : (s.modKern k f).reply = s.reply := by unfold State.modKern; split <;> rfl
@[simp] theorem modKern_evbuf (k : Nat) (f : Kernel → Kernel) : (s.modKern k f).evbuf = s.evbuf := by unfold State.modKern; split <;> rfl
@[simp] theorem modKern_laneLimit (k : Nat) (f : Kernel → Kernel) : (s.modKern k f).laneLimit = s.laneLimit := by unfold State.modKern; split <;> rfl

@[simp] theorem modGang_agenda (k g : Nat) (f : Gang → Gang) : (s.modGang k g f).agenda = s.agenda := by unfold State.modGang State.modKern; split <;> rfl
@[simp] theorem modGang_focus (k g : Nat) (f : Gang → Gang) : (s.modGang k g f).focus = s.focus := by unfold State.modGang State.modKern; split <;> rfl
@[simp] theorem modGang_issue (k g : Nat) (f : Gang → Gang) : (s.modGang k g f).issue = s.issue := by unfold State.modGang State.modKern; split <;> rfl
@[simp] theorem modGang_choiceCtr (k g : Nat) (f : Gang → Gang) : (s.modGang k g f).choiceCtr = s.choiceCtr := by unfold State.modGang State.modKern; split <;> rfl
@[simp] theorem modGang_nextUid (k g : Nat) (f : Gang → Gang) : (s.modGang k g f).nextUid = s.nextUid := by unfold State.modGang State.modKern; split <;> rfl
@[simp] theorem modGang_tick (k g : Nat) (f : Gang → Gang) : (s.modGang k g f).tick = s.tick := by unfold State.modGang State.modKern; split <;> rfl
@[simp] theorem modGang_devTicks (k g : Nat) (f : Gang → Gang) : (s.modGang k g f).devTicks = s.devTicks := by unfold State.modGang State.modKern; split <;> rfl
@[simp] theorem modGang_slew (k g : Nat) (f : Gang → Gang) : (s.modGang k g f).slew = s.slew := by unfold State.modGang State.modKern; split <;> rfl
@[simp] theorem modGang_halvedAt (k g : Nat) (f : Gang → Gang) : (s.modGang k g f).halvedAt = s.halvedAt := by unfold State.modGang State.modKern; split <;> rfl
@[simp] theorem modGang_boot (k g : Nat) (f : Gang → Gang) : (s.modGang k g f).boot = s.boot := by unfold State.modGang State.modKern; split <;> rfl
@[simp] theorem modGang_powered (k g : Nat) (f : Gang → Gang) : (s.modGang k g f).powered = s.powered := by unfold State.modGang State.modKern; split <;> rfl
@[simp] theorem modGang_tripped (k g : Nat) (f : Gang → Gang) : (s.modGang k g f).tripped = s.tripped := by unfold State.modGang State.modKern; split <;> rfl
@[simp] theorem modGang_fwVersion (k g : Nat) (f : Gang → Gang) : (s.modGang k g f).fwVersion = s.fwVersion := by unfold State.modGang State.modKern; split <;> rfl
@[simp] theorem modGang_measured (k g : Nat) (f : Gang → Gang) : (s.modGang k g f).measured = s.measured := by unfold State.modGang State.modKern; split <;> rfl
@[simp] theorem modGang_measuredVersion (k g : Nat) (f : Gang → Gang) : (s.modGang k g f).measuredVersion = s.measuredVersion := by unfold State.modGang State.modKern; split <;> rfl
@[simp] theorem modGang_bar (k g : Nat) (f : Gang → Gang) : (s.modGang k g f).bar = s.bar := by unfold State.modGang State.modKern; split <;> rfl
@[simp] theorem modGang_bar2 (k g : Nat) (f : Gang → Gang) : (s.modGang k g f).bar2 = s.bar2 := by unfold State.modGang State.modKern; split <;> rfl
@[simp] theorem modGang_dies (k g : Nat) (f : Gang → Gang) : (s.modGang k g f).dies = s.dies := by unfold State.modGang State.modKern; split <;> rfl
@[simp] theorem modGang_ports (k g : Nat) (f : Gang → Gang) : (s.modGang k g f).ports = s.ports := by unfold State.modGang State.modKern; split <;> rfl
@[simp] theorem modGang_hdmBase (k g : Nat) (f : Gang → Gang) : (s.modGang k g f).hdmBase = s.hdmBase := by unfold State.modGang State.modKern; split <;> rfl
@[simp] theorem modGang_hbm (k g : Nat) (f : Gang → Gang) : (s.modGang k g f).hbm = s.hbm := by unfold State.modGang State.modKern; split <;> rfl
@[simp] theorem modGang_hostMem (k g : Nat) (f : Gang → Gang) : (s.modGang k g f).hostMem = s.hostMem := by unfold State.modGang State.modKern; split <;> rfl
@[simp] theorem modGang_pool (k g : Nat) (f : Gang → Gang) : (s.modGang k g f).pool = s.pool := by unfold State.modGang State.modKern; split <;> rfl
@[simp] theorem modGang_unseen (k g : Nat) (f : Gang → Gang) : (s.modGang k g f).unseen = s.unseen := by unfold State.modGang State.modKern; split <;> rfl
@[simp] theorem modGang_poison (k g : Nat) (f : Gang → Gang) : (s.modGang k g f).poison = s.poison := by unfold State.modGang State.modKern; split <;> rfl
@[simp] theorem modGang_dir (k g : Nat) (f : Gang → Gang) : (s.modGang k g f).dir = s.dir := by unfold State.modGang State.modKern; split <;> rfl
@[simp] theorem modGang_served (k g : Nat) (f : Gang → Gang) : (s.modGang k g f).served = s.served := by unfold State.modGang State.modKern; split <;> rfl
@[simp] theorem modGang_hostFilter (k g : Nat) (f : Gang → Gang) : (s.modGang k g f).hostFilter = s.hostFilter := by unfold State.modGang State.modKern; split <;> rfl
@[simp] theorem modGang_cores (k g : Nat) (f : Gang → Gang) : (s.modGang k g f).cores = s.cores := by unfold State.modGang State.modKern; split <;> rfl
@[simp] theorem modGang_chains (k g : Nat) (f : Gang → Gang) : (s.modGang k g f).chains = s.chains := by unfold State.modGang State.modKern; split <;> rfl
@[simp] theorem modGang_groups (k g : Nat) (f : Gang → Gang) : (s.modGang k g f).groups = s.groups := by unfold State.modGang State.modKern; split <;> rfl
@[simp] theorem modGang_kernOrder (k g : Nat) (f : Gang → Gang) : (s.modGang k g f).kernOrder = s.kernOrder := by unfold State.modGang State.modKern; split <;> rfl
@[simp] theorem modGang_reports (k g : Nat) (f : Gang → Gang) : (s.modGang k g f).reports = s.reports := by unfold State.modGang State.modKern; split <;> rfl
@[simp] theorem modGang_ctxs (k g : Nat) (f : Gang → Gang) : (s.modGang k g f).ctxs = s.ctxs := by unfold State.modGang State.modKern; split <;> rfl
@[simp] theorem modGang_slots (k g : Nat) (f : Gang → Gang) : (s.modGang k g f).slots = s.slots := by unfold State.modGang State.modKern; split <;> rfl
@[simp] theorem modGang_lastAccept (k g : Nat) (f : Gang → Gang) : (s.modGang k g f).lastAccept = s.lastAccept := by unfold State.modGang State.modKern; split <;> rfl
@[simp] theorem modGang_unmaps (k g : Nat) (f : Gang → Gang) : (s.modGang k g f).unmaps = s.unmaps := by unfold State.modGang State.modKern; split <;> rfl
@[simp] theorem modGang_locks (k g : Nat) (f : Gang → Gang) : (s.modGang k g f).locks = s.locks := by unfold State.modGang State.modKern; split <;> rfl
@[simp] theorem modGang_windows (k g : Nat) (f : Gang → Gang) : (s.modGang k g f).windows = s.windows := by unfold State.modGang State.modKern; split <;> rfl
@[simp] theorem modGang_pins (k g : Nat) (f : Gang → Gang) : (s.modGang k g f).pins = s.pins := by unfold State.modGang State.modKern; split <;> rfl
@[simp] theorem modGang_oslots (k g : Nat) (f : Gang → Gang) : (s.modGang k g f).oslots = s.oslots := by unfold State.modGang State.modKern; split <;> rfl
@[simp] theorem modGang_pend (k g : Nat) (f : Gang → Gang) : (s.modGang k g f).pend = s.pend := by unfold State.modGang State.modKern; split <;> rfl
@[simp] theorem modGang_fseq (k g : Nat) (f : Gang → Gang) : (s.modGang k g f).fseq = s.fseq := by unfold State.modGang State.modKern; split <;> rfl
@[simp] theorem modGang_jobs (k g : Nat) (f : Gang → Gang) : (s.modGang k g f).jobs = s.jobs := by unfold State.modGang State.modKern; split <;> rfl
@[simp] theorem modGang_frames (k g : Nat) (f : Gang → Gang) : (s.modGang k g f).frames = s.frames := by unfold State.modGang State.modKern; split <;> rfl
@[simp] theorem modGang_counters (k g : Nat) (f : Gang → Gang) : (s.modGang k g f).counters = s.counters := by unfold State.modGang State.modKern; split <;> rfl
@[simp] theorem modGang_leases (k g : Nat) (f : Gang → Gang) : (s.modGang k g f).leases = s.leases := by unfold State.modGang State.modKern; split <;> rfl
@[simp] theorem modGang_outbox (k g : Nat) (f : Gang → Gang) : (s.modGang k g f).outbox = s.outbox := by unfold State.modGang State.modKern; split <;> rfl
@[simp] theorem modGang_prefetch (k g : Nat) (f : Gang → Gang) : (s.modGang k g f).prefetch = s.prefetch := by unfold State.modGang State.modKern; split <;> rfl
@[simp] theorem modGang_devWrites (k g : Nat) (f : Gang → Gang) : (s.modGang k g f).devWrites = s.devWrites := by unfold State.modGang State.modKern; split <;> rfl
@[simp] theorem modGang_msi (k g : Nat) (f : Gang → Gang) : (s.modGang k g f).msi = s.msi := by unfold State.modGang State.modKern; split <;> rfl
@[simp] theorem modGang_msiHeld (k g : Nat) (f : Gang → Gang) : (s.modGang k g f).msiHeld = s.msiHeld := by unfold State.modGang State.modKern; split <;> rfl
@[simp] theorem modGang_reply (k g : Nat) (f : Gang → Gang) : (s.modGang k g f).reply = s.reply := by unfold State.modGang State.modKern; split <;> rfl
@[simp] theorem modGang_evbuf (k g : Nat) (f : Gang → Gang) : (s.modGang k g f).evbuf = s.evbuf := by unfold State.modGang State.modKern; split <;> rfl
@[simp] theorem modGang_laneLimit (k g : Nat) (f : Gang → Gang) : (s.modGang k g f).laneLimit = s.laneLimit := by unfold State.modGang State.modKern; split <;> rfl

@[simp] theorem modSlot_agenda (k : Nat) (f : QSlot → QSlot) : (s.modSlot k f).agenda = s.agenda := by unfold State.modSlot; split <;> rfl
@[simp] theorem modSlot_focus (k : Nat) (f : QSlot → QSlot) : (s.modSlot k f).focus = s.focus := by unfold State.modSlot; split <;> rfl
@[simp] theorem modSlot_issue (k : Nat) (f : QSlot → QSlot) : (s.modSlot k f).issue = s.issue := by unfold State.modSlot; split <;> rfl
@[simp] theorem modSlot_choiceCtr (k : Nat) (f : QSlot → QSlot) : (s.modSlot k f).choiceCtr = s.choiceCtr := by unfold State.modSlot; split <;> rfl
@[simp] theorem modSlot_nextUid (k : Nat) (f : QSlot → QSlot) : (s.modSlot k f).nextUid = s.nextUid := by unfold State.modSlot; split <;> rfl
@[simp] theorem modSlot_tick (k : Nat) (f : QSlot → QSlot) : (s.modSlot k f).tick = s.tick := by unfold State.modSlot; split <;> rfl
@[simp] theorem modSlot_devTicks (k : Nat) (f : QSlot → QSlot) : (s.modSlot k f).devTicks = s.devTicks := by unfold State.modSlot; split <;> rfl
@[simp] theorem modSlot_slew (k : Nat) (f : QSlot → QSlot) : (s.modSlot k f).slew = s.slew := by unfold State.modSlot; split <;> rfl
@[simp] theorem modSlot_halvedAt (k : Nat) (f : QSlot → QSlot) : (s.modSlot k f).halvedAt = s.halvedAt := by unfold State.modSlot; split <;> rfl
@[simp] theorem modSlot_boot (k : Nat) (f : QSlot → QSlot) : (s.modSlot k f).boot = s.boot := by unfold State.modSlot; split <;> rfl
@[simp] theorem modSlot_powered (k : Nat) (f : QSlot → QSlot) : (s.modSlot k f).powered = s.powered := by unfold State.modSlot; split <;> rfl
@[simp] theorem modSlot_tripped (k : Nat) (f : QSlot → QSlot) : (s.modSlot k f).tripped = s.tripped := by unfold State.modSlot; split <;> rfl
@[simp] theorem modSlot_fwVersion (k : Nat) (f : QSlot → QSlot) : (s.modSlot k f).fwVersion = s.fwVersion := by unfold State.modSlot; split <;> rfl
@[simp] theorem modSlot_measured (k : Nat) (f : QSlot → QSlot) : (s.modSlot k f).measured = s.measured := by unfold State.modSlot; split <;> rfl
@[simp] theorem modSlot_measuredVersion (k : Nat) (f : QSlot → QSlot) : (s.modSlot k f).measuredVersion = s.measuredVersion := by unfold State.modSlot; split <;> rfl
@[simp] theorem modSlot_bar (k : Nat) (f : QSlot → QSlot) : (s.modSlot k f).bar = s.bar := by unfold State.modSlot; split <;> rfl
@[simp] theorem modSlot_bar2 (k : Nat) (f : QSlot → QSlot) : (s.modSlot k f).bar2 = s.bar2 := by unfold State.modSlot; split <;> rfl
@[simp] theorem modSlot_dies (k : Nat) (f : QSlot → QSlot) : (s.modSlot k f).dies = s.dies := by unfold State.modSlot; split <;> rfl
@[simp] theorem modSlot_ports (k : Nat) (f : QSlot → QSlot) : (s.modSlot k f).ports = s.ports := by unfold State.modSlot; split <;> rfl
@[simp] theorem modSlot_hdmBase (k : Nat) (f : QSlot → QSlot) : (s.modSlot k f).hdmBase = s.hdmBase := by unfold State.modSlot; split <;> rfl
@[simp] theorem modSlot_hbm (k : Nat) (f : QSlot → QSlot) : (s.modSlot k f).hbm = s.hbm := by unfold State.modSlot; split <;> rfl
@[simp] theorem modSlot_hostMem (k : Nat) (f : QSlot → QSlot) : (s.modSlot k f).hostMem = s.hostMem := by unfold State.modSlot; split <;> rfl
@[simp] theorem modSlot_pool (k : Nat) (f : QSlot → QSlot) : (s.modSlot k f).pool = s.pool := by unfold State.modSlot; split <;> rfl
@[simp] theorem modSlot_unseen (k : Nat) (f : QSlot → QSlot) : (s.modSlot k f).unseen = s.unseen := by unfold State.modSlot; split <;> rfl
@[simp] theorem modSlot_poison (k : Nat) (f : QSlot → QSlot) : (s.modSlot k f).poison = s.poison := by unfold State.modSlot; split <;> rfl
@[simp] theorem modSlot_dir (k : Nat) (f : QSlot → QSlot) : (s.modSlot k f).dir = s.dir := by unfold State.modSlot; split <;> rfl
@[simp] theorem modSlot_served (k : Nat) (f : QSlot → QSlot) : (s.modSlot k f).served = s.served := by unfold State.modSlot; split <;> rfl
@[simp] theorem modSlot_hostFilter (k : Nat) (f : QSlot → QSlot) : (s.modSlot k f).hostFilter = s.hostFilter := by unfold State.modSlot; split <;> rfl
@[simp] theorem modSlot_cores (k : Nat) (f : QSlot → QSlot) : (s.modSlot k f).cores = s.cores := by unfold State.modSlot; split <;> rfl
@[simp] theorem modSlot_chains (k : Nat) (f : QSlot → QSlot) : (s.modSlot k f).chains = s.chains := by unfold State.modSlot; split <;> rfl
@[simp] theorem modSlot_groups (k : Nat) (f : QSlot → QSlot) : (s.modSlot k f).groups = s.groups := by unfold State.modSlot; split <;> rfl
@[simp] theorem modSlot_kernels (k : Nat) (f : QSlot → QSlot) : (s.modSlot k f).kernels = s.kernels := by unfold State.modSlot; split <;> rfl
@[simp] theorem modSlot_kernOrder (k : Nat) (f : QSlot → QSlot) : (s.modSlot k f).kernOrder = s.kernOrder := by unfold State.modSlot; split <;> rfl
@[simp] theorem modSlot_reports (k : Nat) (f : QSlot → QSlot) : (s.modSlot k f).reports = s.reports := by unfold State.modSlot; split <;> rfl
@[simp] theorem modSlot_ctxs (k : Nat) (f : QSlot → QSlot) : (s.modSlot k f).ctxs = s.ctxs := by unfold State.modSlot; split <;> rfl
@[simp] theorem modSlot_lastAccept (k : Nat) (f : QSlot → QSlot) : (s.modSlot k f).lastAccept = s.lastAccept := by unfold State.modSlot; split <;> rfl
@[simp] theorem modSlot_unmaps (k : Nat) (f : QSlot → QSlot) : (s.modSlot k f).unmaps = s.unmaps := by unfold State.modSlot; split <;> rfl
@[simp] theorem modSlot_locks (k : Nat) (f : QSlot → QSlot) : (s.modSlot k f).locks = s.locks := by unfold State.modSlot; split <;> rfl
@[simp] theorem modSlot_windows (k : Nat) (f : QSlot → QSlot) : (s.modSlot k f).windows = s.windows := by unfold State.modSlot; split <;> rfl
@[simp] theorem modSlot_pins (k : Nat) (f : QSlot → QSlot) : (s.modSlot k f).pins = s.pins := by unfold State.modSlot; split <;> rfl
@[simp] theorem modSlot_oslots (k : Nat) (f : QSlot → QSlot) : (s.modSlot k f).oslots = s.oslots := by unfold State.modSlot; split <;> rfl
@[simp] theorem modSlot_pend (k : Nat) (f : QSlot → QSlot) : (s.modSlot k f).pend = s.pend := by unfold State.modSlot; split <;> rfl
@[simp] theorem modSlot_fseq (k : Nat) (f : QSlot → QSlot) : (s.modSlot k f).fseq = s.fseq := by unfold State.modSlot; split <;> rfl
@[simp] theorem modSlot_jobs (k : Nat) (f : QSlot → QSlot) : (s.modSlot k f).jobs = s.jobs := by unfold State.modSlot; split <;> rfl
@[simp] theorem modSlot_frames (k : Nat) (f : QSlot → QSlot) : (s.modSlot k f).frames = s.frames := by unfold State.modSlot; split <;> rfl
@[simp] theorem modSlot_counters (k : Nat) (f : QSlot → QSlot) : (s.modSlot k f).counters = s.counters := by unfold State.modSlot; split <;> rfl
@[simp] theorem modSlot_leases (k : Nat) (f : QSlot → QSlot) : (s.modSlot k f).leases = s.leases := by unfold State.modSlot; split <;> rfl
@[simp] theorem modSlot_outbox (k : Nat) (f : QSlot → QSlot) : (s.modSlot k f).outbox = s.outbox := by unfold State.modSlot; split <;> rfl
@[simp] theorem modSlot_prefetch (k : Nat) (f : QSlot → QSlot) : (s.modSlot k f).prefetch = s.prefetch := by unfold State.modSlot; split <;> rfl
@[simp] theorem modSlot_devWrites (k : Nat) (f : QSlot → QSlot) : (s.modSlot k f).devWrites = s.devWrites := by unfold State.modSlot; split <;> rfl
@[simp] theorem modSlot_msi (k : Nat) (f : QSlot → QSlot) : (s.modSlot k f).msi = s.msi := by unfold State.modSlot; split <;> rfl
@[simp] theorem modSlot_msiHeld (k : Nat) (f : QSlot → QSlot) : (s.modSlot k f).msiHeld = s.msiHeld := by unfold State.modSlot; split <;> rfl
@[simp] theorem modSlot_reply (k : Nat) (f : QSlot → QSlot) : (s.modSlot k f).reply = s.reply := by unfold State.modSlot; split <;> rfl
@[simp] theorem modSlot_evbuf (k : Nat) (f : QSlot → QSlot) : (s.modSlot k f).evbuf = s.evbuf := by unfold State.modSlot; split <;> rfl
@[simp] theorem modSlot_laneLimit (k : Nat) (f : QSlot → QSlot) : (s.modSlot k f).laneLimit = s.laneLimit := by unfold State.modSlot; split <;> rfl

@[simp] theorem group?_setGroup_same (g : Nat) (x : Group) : (s.setGroup g x).group? g = some x := lookKey_putKey_same g x s.groups

theorem group?_setGroup_ne {g h : Nat} (x : Group) (hne : g ≠ h) : (s.setGroup g x).group? h = s.group? h := lookKey_putKey_ne hne x s.groups

theorem group?_setGroup (g h : Nat) (x : Group) : (s.setGroup g x).group? h = if g = h then some x else s.group? h := lookKey_putKey g h x s.groups

@[simp] theorem core_setCore_same (c : Nat) (x : CoreSt) : (s.setCore c x).core c = x := by simp [State.core, State.setCore]

theorem core_setCore_ne {c d : Nat} (x : CoreSt) (h : c ≠ d) : (s.setCore c x).core d = s.core d := by simp [State.core, State.setCore, lookKey_putKey_ne h]

@[simp] theorem ctx_setCtx_same (c : Nat) (x : Ctx) : (s.setCtx c x).ctx c = x := by simp [State.ctx, State.setCtx]

theorem ctx_setCtx_ne {c d : Nat} (x : Ctx) (h : c ≠ d) : (s.setCtx c x).ctx d = s.ctx d := by simp [State.ctx, State.setCtx, lookKey_putKey_ne h]

@[simp] theorem kern?_setKern_same (k : Nat) (x : Kernel) : (s.setKern k x).kern? k = some x := lookKey_putKey_same k x s.kernels

theorem kern?_setKern_ne {k j : Nat} (x : Kernel) (h : k ≠ j) : (s.setKern k x).kern? j = s.kern? j := lookKey_putKey_ne h x s.kernels

@[simp] theorem slot?_setSlot_same (k : Nat) (x : QSlot) : (s.setSlot k x).slot? k = some x := lookKey_putKey_same k x s.slots

theorem slot?_setSlot_ne {k j : Nat} (x : QSlot) (h : k ≠ j) : (s.setSlot k x).slot? j = s.slot? j := lookKey_putKey_ne h x s.slots

@[simp] theorem lease_setLease_same (l : Nat) (x : Lease) (h : x.state ≠ 0) : (s.setLease l x).lease l = x := by simp [State.lease, State.setLease, h]

@[simp] theorem lease_setLease_free (l : Nat) : (s.setLease l Lease.free).lease l = Lease.free := by simp [State.lease, State.setLease, Lease.free]

theorem lease_setLease_ne {l m : Nat} (x : Lease) (h : l ≠ m) : (s.setLease l x).lease m = s.lease m := by
  unfold State.lease State.setLease
  split <;> simp [lookKey_putKey_ne h, lookKey_dropKey_ne h]

theorem group?_modGroup (g h : Nat) (f : Group → Group) : (s.modGroup g f).group? h = if g = h then (s.group? h).map f else s.group? h := by
  unfold State.modGroup
  by_cases e : g = h
  · subst e
    cases hg : s.group? g <;> simp [hg]
  · cases hg : s.group? g <;> simp [group?_setGroup_ne _ _ e, e]

theorem thread?_modThread (g h t u : Nat) (f : Thread → Thread) :
    (s.modThread g t f).thread? h u = if g = h ∧ t = u then (s.thread? h u).map f else s.thread? h u := by
  unfold State.thread? State.modThread
  rw [group?_modGroup]
  by_cases e : g = h
  · subst e
    cases s.group? g <;> simp [getElem?_modifyAt]
  · simp [e]

theorem thread?_setThread_ne {g h t u : Nat} (x : Thread) (e : ¬(g = h ∧ t = u)) : (s.setThread g t x).thread? h u = s.thread? h u := by
  unfold State.thread? State.setThread
  rw [group?_modGroup]
  by_cases e1 : g = h
  · subst e1
    have e2 : t ≠ u := fun h => e ⟨rfl, h⟩
    cases s.group? g <;> simp [e2]
  · simp [e1]

theorem thread?_setThread_same {g t : Nat} {y : Thread} (x : Thread) (h : s.thread? g t = some y) : (s.setThread g t x).thread? g t = some x := by
  unfold State.thread? State.setThread at *
  rw [group?_modGroup]
  cases hg : s.group? g with
  | none => simp [hg] at h
  | some z =>
    simp only [hg, Option.bind_some] at h
    have : t < z.threads.length := (List.getElem?_eq_some_iff.1 h).1
    simp [this]

end Sys2Proof.Laws
end

