-- ==== Sys2Proof/Laws/Thread.lean ====
section
/-! SUPPORT. Laws of one thread: what a register write, a landing and a retirement change. -/

namespace Sys2Proof.Laws

open Sys2Proof.Machine

variable (t : Thread)

/-- The flags a thread has raised, together. -/
def raisedBy (t : Thread) : Flags := t.raised.foldl (fun a e => a ||| e.1) 0

/-! Fields a change leaves alone. -/

@[simp] theorem setV_cond (n : Nat) (x : Word) : (t.setV n x).cond = t.cond := rfl
@[simp] theorem setV_late (n : Nat) (x : Word) : (t.setV n x).late = t.late := rfl
@[simp] theorem setV_held (n : Nat) (x : Word) : (t.setV n x).held = t.held := rfl
@[simp] theorem setV_raised (n : Nat) (x : Word) : (t.setV n x).raised = t.raised := rfl
@[simp] theorem setV_region (n : Nat) (x : Word) : (t.setV n x).region = t.region := rfl
@[simp] theorem setV_p (n : Nat) (x : Word) : (t.setV n x).p = t.p := rfl
@[simp] theorem setV_v (n : Nat) (x : Word) : (t.setV n x).v = t.v.set n x := rfl
@[simp] theorem write_cond (n : Nat) (x : Word) : (t.write n x).cond = t.cond := rfl
@[simp] theorem write_late (n : Nat) (x : Word) : (t.write n x).late = t.late := rfl
@[simp] theorem write_held (n : Nat) (x : Word) : (t.write n x).held = t.held := rfl
@[simp] theorem write_raised (n : Nat) (x : Word) : (t.write n x).raised = t.raised := rfl
@[simp] theorem write_p (n : Nat) (x : Word) : (t.write n x).p = t.p := rfl
@[simp] theorem write_q (n : Nat) (x : Word) : (t.write n x).q = t.q := rfl
@[simp] theorem write_handler (n : Nat) (x : Word) : (t.write n x).handler = t.handler := rfl
@[simp] theorem write_v (n : Nat) (x : Word) : (t.write n x).v = t.v.set n x := rfl

/-- Outside a region a write is a plain one. -/
theorem write_eq (n : Nat) (x : Word) (h : t.region = none) : t.write n x = t.setV n x := by
  unfold Thread.write
  rw [h]
  cases t
  simp_all [Thread.setV]

theorem writePair_eq (n : Nat) (x : Dword) (h : t.region = none) : t.writePair n x = (t.setV n (lowWord x)).setV (n + 1) (highWord x) := by
  rw [Thread.writePair, write_eq _ _ _ (by rw [write_eq _ _ _ h]; exact h), write_eq _ _ _ h]

theorem concretise_rest (w : Nat) : ∃ r hs, t.concretise w = { t with region := r, held := hs } := ⟨_, _, rfl⟩

theorem writeTagged_rest (n : Nat) (x : Word) (g : Nat × Word) : ∃ v rel r hs, t.writeTagged n x g = { t with v := v, released := rel, region := r, held := hs } := by
  unfold Thread.writeTagged
  dsimp only
  split
  · exact ⟨_, _, _, _, rfl⟩
  · split
    · exact ⟨_, _, _, _, rfl⟩
    · split
      · exact ⟨_, _, _, _, rfl⟩
      · exact ⟨_, _, _, _, rfl⟩

theorem writeMany_rest (n c : Nat) (x : Qword) : ∃ v rel r, t.writeMany n c x = { t with v := v, released := rel, region := r } := by
  unfold Thread.writeMany
  split
  · exact ⟨_, _, _, rfl⟩
  · split
    · exact ⟨_, _, _, rfl⟩
    · split
      · exact ⟨_, _, _, rfl⟩
      · split
        · exact ⟨_, _, _, rfl⟩
        · exact ⟨_, _, _, rfl⟩

theorem landBegin_rest (h : HeldWrite) : ∃ v rel r, t.landBegin h = { t with v := v, released := rel, region := r } := ⟨_, _, _, rfl⟩

theorem writeEach_rest (l : List (Nat × Word)) (t : Thread) : ∃ v rel r, t.writeEach l = { t with v := v, released := rel, region := r } := by
  unfold Thread.writeEach
  induction l generalizing t with
  | nil => exact ⟨_, _, _, rfl⟩
  | cons e l ih =>
    obtain ⟨v, rel, r, h⟩ := ih (t.write e.1 e.2)
    exact ⟨v, rel, r, h⟩

/-- One held write landing changes registers, their release, the region's bookkeeping and held writes' tags. -/
theorem landOne_rest (h : HeldWrite) : ∃ v rel r xs, t.landOne h = { t with v := v, released := rel, region := r, held := xs } := by
  unfold Thread.landOne
  split
  · exact writeTagged_rest t h.reg (h.value.setWidth 32) _
  · split
    · exact ⟨_, _, _, _, rfl⟩
    · obtain ⟨v, rel, r, e⟩ := writeEach_rest h.more t
      obtain ⟨v2, rel2, r2, e2⟩ := writeMany_rest (t.writeEach h.more) h.reg h.count h.value
      exact ⟨v2, rel2, r2, t.held, by rw [e2, e]⟩

theorem landList_rest (hs : List HeldWrite) (t : Thread) : ∃ v rel r xs ra, (landList hs t).1 = { t with v := v, released := rel, region := r, held := xs, raised := ra } := by
  induction hs generalizing t with
  | nil => exact ⟨_, _, _, _, _, rfl⟩
  | cons h hs ih =>
    unfold landList
    split
    · exact ih t
    · split
      · obtain ⟨v, rel, r, xs, e⟩ := landOne_rest t h
        dsimp only
        rw [e]
        have step : ∀ ra, ∃ v2 rel2 r2 xs2 ra2, (landList hs { t with v := v, released := rel, region := r, held := xs, raised := ra }).1 = { t with v := v2, released := rel2, region := r2, held := xs2, raised := ra2 } := by
          intro ra
          obtain ⟨v2, rel2, r2, xs2, ra2, h2⟩ := ih { t with v := v, released := rel, region := r, held := xs, raised := ra }
          exact ⟨v2, rel2, r2, xs2, ra2, h2⟩
        split
        · exact step t.raised
        · exact step _
      · exact ⟨_, _, _, _, _, rfl⟩

theorem land_rest : ∃ v rel r xs ra, t.land = { t with v := v, released := rel, region := r, held := xs, raised := ra } := by
  obtain ⟨v, rel, r, xs, ra, h⟩ := landList_rest t.held t
  refine ⟨v, rel, r, (landList t.held t).2, ra, ?_⟩
  unfold Thread.land
  show { (landList t.held t).1 with held := (landList t.held t).2 } = _
  rw [h]

theorem land_nil (h : t.held = []) : t.land = t := by
  unfold Thread.land
  rw [h]
  cases t
  simp_all [landList]

/-! Queues. -/

theorem pops_rest (qs : List Nat) (t : Thread) : ∃ q, t.pops qs = { t with q := q } := by
  unfold Thread.pops
  induction qs generalizing t with
  | nil => exact ⟨t.q, rfl⟩
  | cons n qs ih =>
    rw [List.foldl_cons]
    obtain ⟨q, h⟩ := ih { t with q := modifyAt t.q n (fun l => l.drop 1) }
    exact ⟨q, h⟩

@[simp] theorem pops_nil : t.pops [] = t := rfl

/-! Retirement. -/

theorem countWindows_rest : ∃ hs q, t.countWindows = { t with held := hs, q := q } := ⟨_, _, rfl⟩

theorem retire_rest (marks : List Nat) (la : Nat) (res : Option LongRes) (next : Dword) :
    ∃ v rel r xs ra q, t.retire marks la res next = { t with v := v, released := rel, region := r, held := xs, raised := ra, q := q, retry := 0, addr := next, stepOver := false } := by
  unfold Thread.retire
  obtain ⟨v, rel, r, xs, ra, h⟩ := land_rest ({ t.countWindows with
    held := t.countWindows.held ++ (match res with
      | some r => [{ reg := r.reg, count := r.count, value := r.value, left := la, ready := la == 0, tag := r.tag, flags := r.flags, at_ := next - 8, more := r.more }]
      | none => [])
    released := marks ++ t.countWindows.released.filter (fun r => !marks.contains r)
    retry := 0
    addr := next
    stepOver := false
    region := t.countWindows.region.map (fun r => { r with count := r.count + 1 }) } : Thread)
  exact ⟨v, rel, r, xs, ra, _, h⟩

/-- Retirement changes registers that land, windows, release marks, the region's count and the address, nothing else. -/
theorem retireWord_rest (i : Instr) (go : Bool) (res : Option LongRes) (pc : Dword) :
    ∃ v rel r xs ra q, t.retireWord i go res pc = { t with v := v, released := rel, region := r, held := xs, raised := ra, q := q, retry := 0, addr := pc + 8, stepOver := false } := by
  have h1 : ∃ q, (if go then t.pops (srcQueues i) else t) = { t with q := q } := by
    split
    · exact pops_rest _ t
    · exact ⟨t.q, rfl⟩
  obtain ⟨q, h1⟩ := h1
  unfold Thread.retireWord
  rw [h1]
  obtain ⟨v, rel, r, xs, ra, q2, h2⟩ := retire_rest { t with q := q } (marksOf (wordMarks i) (if (go && res.isNone) = true then dstRegs i else [])) (if go then laOf i else 0) res (pc + 8)
  simp only [h2]
  split
  · obtain ⟨v3, rel3, r3, xs3, ra3, h3⟩ := land_rest (Thread.closeWindows { t with v := v, released := rel, region := r, held := xs, raised := ra, q := q2, retry := 0, addr := pc + 8, stepOver := false })
    exact ⟨v3, rel3, r3, xs3, ra3, _, h3⟩
  · exact ⟨v, rel, r, xs, ra, q2, rfl⟩

/-- With nothing held, outside regions, a retirement with no later result marks registers, counts windows and moves on. -/
theorem retire_plain (marks : List Nat) (la : Nat) (next : Dword) (h : t.held = []) (hr : t.region = none) :
    t.retire marks la none next = { t with
      released := marks ++ t.released.filter (fun r => !marks.contains r)
      q := if t.inHandler then t.q else t.q.map (fun l => l.map (fun e => { e with left := e.left - 1 }))
      retry := 0, addr := next, stepOver := false } := by
  unfold Thread.retire
  rw [land_nil]
  · cases t
    simp_all [Thread.countWindows]
  · simp [Thread.countWindows, h]

/-- With nothing held, outside regions, a word with no later result retires as `Thread.after` says. -/
theorem retireWord_plain (i : Instr) (go : Bool) (pc : Dword) (h : t.held = []) (hr : t.region = none) :
    { t.retireWord i go none pc with raised := [] } = t.after i go (if go then dstRegs i else []) pc ∧ (t.retireWord i go none pc).raised = t.raised := by
  have hp : ∃ q, (if go then t.pops (srcQueues i) else t) = { t with q := q } := by
    split
    · exact pops_rest _ t
    · exact ⟨t.q, rfl⟩
  obtain ⟨q, hp⟩ := hp
  have hi : ∀ q, Thread.inHandler { t with q := q } = t.inHandler := fun _ => rfl
  unfold Thread.retireWord Thread.after
  rw [hp]
  dsimp only
  rw [retire_plain _ _ _ _ (by exact h) (by exact hr), hi]
  cases he : endsDispatch i
  · cases hh : t.inHandler <;> simp
  · rw [if_pos rfl, land_nil]
    · cases hh : t.inHandler <;> simp [Thread.closeWindows, Function.comp_def, h]
    · simp [Thread.closeWindows, h]

/-- Outside a region several registers are written plainly. -/
theorem writeMany_eq (n c : Nat) (x : Qword) (h : t.region = none) (hc : c ≤ 4) : t.writeMany n c x = t.setMany n c x := by
  have hs : ∀ (u : Thread) (n : Nat) (x : Word), u.region = none → u.write n x = u.setV n x := fun u n x hu => write_eq u n x hu
  have e0 : (x.setWidth 64).setWidth 32 = x.extractLsb' 0 32 := by ext k hk; simp
  have e1 : lowWord (x.setWidth 64) = x.extractLsb' 0 32 := by ext k hk; simp [lowWord]
  have e2 : highWord (x.setWidth 64) = x.extractLsb' 32 32 := by ext k hk; simp [highWord]; omega
  have e3 : x.setWidth 32 = x.extractLsb' 0 32 := by ext k hk; simp
  unfold Thread.writeMany Thread.setMany Thread.writeQuad
  match c, hc with
  | 0, _ => rfl
  | 1, _ => simp [List.range_succ, hs, h, e3]
  | 2, _ => simp [List.range_succ, writePair_eq, h, e1, e2]
  | 3, _ => simp [List.range_succ, hs, h]
  | 4, _ => simp [List.range_succ, hs, h]

theorem retire_after (i : Instr) (go : Bool) (written : List Nat) (la : Nat) (pc : Dword) (h : t.held = []) (hr : t.region = none) (he : endsDispatch i = false) :
    { (if go then t.pops (srcQueues i) else t).retire (marksOf (wordMarks i) written) la none (pc + 8) with raised := [] } = t.after i go written pc := by
  have hp : ∃ q, (if go then t.pops (srcQueues i) else t) = { t with q := q } := by
    split
    · exact pops_rest _ t
    · exact ⟨t.q, rfl⟩
  obtain ⟨q, hp⟩ := hp
  have hi : ∀ q, Thread.inHandler { t with q := q } = t.inHandler := fun _ => rfl
  unfold Thread.after
  rw [hp, retire_plain _ _ _ _ (by exact h) (by exact hr), hi]
  cases hh : t.inHandler <;> simp [he]

/-- A retirement with a result is one without, with the result held, then landing. -/
theorem retire_some (marks : List Nat) (la : Nat) (r : LongRes) (next : Dword) (h : t.held = []) (hr : t.region = none) :
    t.retire marks la (some r) next = ({ t.retire marks la none next with held := [{ reg := r.reg, count := r.count, value := r.value, left := la, ready := la == 0, tag := r.tag, flags := r.flags, at_ := next - 8, more := r.more }] } : Thread).land := by
  rw [retire_plain _ _ _ _ h hr]
  unfold Thread.retire
  simp [Thread.countWindows, h, hr]

theorem setMany_fields (n c : Nat) (x : Qword) (t : Thread) :
    (∀ l, ({ t with raised := l } : Thread).setMany n c x = { t.setMany n c x with raised := l }) ∧ (t.setMany n c x).raised = t.raised ∧ (t.setMany n c x).held = t.held ∧ (t.setMany n c x).region = t.region ∧ (t.setMany n c x).late = t.late := by
  unfold Thread.setMany
  induction List.range c generalizing t with
  | nil => exact ⟨fun _ => rfl, rfl, rfl, rfl, rfl⟩
  | cons k ks ih =>
    obtain ⟨h1, h2, h3, h4, h5⟩ := ih (t.setV (n + k) (x.extractLsb' (32 * k) 32))
    exact ⟨fun l => h1 l, h2, h3, h4, h5⟩

theorem beginWrite_none (x : Thread) (hx : x.region = none) (y : HeldWrite) : x.beginWrite y = false := by simp [Thread.beginWrite, hx]

theorem landOne_plain (x : Thread) (hx : x.region = none) (y : HeldWrite) (hy : y.tag = none) (hm : y.more = []) (hc : y.count ≤ 4) : x.landOne y = x.setMany y.reg y.count y.value := by
  unfold Thread.landOne
  rw [hy]
  simp [beginWrite_none x hx y, hm, Thread.writeEach, writeMany_eq x _ _ _ hx hc]

/-- One held write outside a region: it lands where its window has closed and its value is there, else it stays. -/
theorem land_one (x : Thread) (hx : x.region = none) (y : HeldWrite) (hy : y.tag = none) (hm : y.more = []) (hc : y.count ≤ 4) :
    ({ x with held := [y] } : Thread).land =
      if y.left = 0 ∧ y.ready = true then
        { (if y.flags = 0 then x.setMany y.reg y.count y.value else { x.setMany y.reg y.count y.value with raised := x.raised ++ [(y.flags, y.at_)] }) with held := [] }
      else { x with held := [y] } := by
  have hs : ({ x with held := [y] } : Thread).setMany y.reg y.count y.value = { x.setMany y.reg y.count y.value with held := [y] } := by
    unfold Thread.setMany
    induction List.range y.count generalizing x with
    | nil => rfl
    | cons k ks ih => exact ih (x.setV (y.reg + k) (y.value.extractLsb' (32 * k) 32)) hx
  unfold Thread.land
  show (let (t1, rest) := landList [y] { x with held := [y] }; ({ t1 with held := rest } : Thread)) = _
  unfold landList
  by_cases h1 : y.left > 0
  · have : ¬(y.left = 0 ∧ y.ready = true) := fun h => by omega
    simp [h1, this, landList]
  · have h0 : y.left = 0 := by omega
    cases h2 : y.ready
    · simp [h0]
    · simp only [h0, Nat.lt_irrefl, if_false, if_true, true_and]
      rw [landOne_plain _ (by exact hx) y hy hm hc, hs]
      split
      · simp [landList]
      · simp [landList, (setMany_fields y.reg y.count y.value x).2.1]

/-- With nothing held, outside regions, a word with a result retires as `Thread.later` says. -/
theorem retireWord_later (i : Instr) (pc : Dword) (r : LongRes) (h : t.held = []) (hr : t.region = none) (hz : t.raised = []) (ht : r.tag = none) (hm : r.more = []) (hc : r.count ≤ 4) (he : endsDispatch i = false) :
    { t.retireWord i true (some r) pc with raised := [] } = t.later i pc r.reg r.count r.value r.flags
    ∧ raisedBy (t.retireWord i true (some r) pc) = (if laOf i = 0 then r.flags else 0)
    ∧ (∀ e ∈ (t.retireWord i true (some r) pc).raised, e.2 = pc)
    ∧ (t.retireWord i true (some r) pc).late = t.late := by
  have hu := retire_after t i true [] (laOf i) pc h hr he
  obtain ⟨q, hp⟩ := pops_rest (srcQueues i) t
  have hq : (t.pops (srcQueues i)).held = [] ∧ (t.pops (srcQueues i)).region = none ∧ (t.pops (srcQueues i)).raised = [] ∧ (t.pops (srcQueues i)).late = t.late := by rw [hp]; exact ⟨h, hr, hz, rfl⟩
  have h8 : pc + 8 - 8 = pc := by simp
  have e : t.retireWord i true (some r) pc = (t.pops (srcQueues i)).retire (marksOf (wordMarks i) []) (laOf i) (some r) (pc + 8) := by
    unfold Thread.retireWord
    simp [he]
  rw [e, retire_some _ _ _ _ _ hq.1 hq.2.1, h8]
  simp only [if_true] at hu
  have hr2 := retire_plain (t.pops (srcQueues i)) (marksOf (wordMarks i) []) (laOf i) (pc + 8) hq.1 hq.2.1
  generalize (t.pops (srcQueues i)).retire (marksOf (wordMarks i) []) (laOf i) none (pc + 8) = u at hu hr2
  have u1 : u.region = none := by rw [hr2]; exact hq.2.1
  have u2 : u.raised = [] := by rw [hr2]; exact hq.2.2.1
  have u3 : u.late = t.late := by rw [hr2]; exact hq.2.2.2
  have u4 : u.held = [] := by rw [hr2]; exact hq.1
  have u5 : ({ u with raised := [] } : Thread) = u := by cases u; simp_all
  rw [land_one u u1 _ ht hm hc]
  unfold Thread.later
  rw [← hu, u5]
  obtain ⟨s1, s2, s3, s4, s5⟩ := setMany_fields r.reg r.count r.value u
  have v1 : (u.setMany r.reg r.count r.value).raised = [] := s2.trans u2
  have v2 : (u.setMany r.reg r.count r.value).late = t.late := s5.trans u3
  have v3 : (u.setMany r.reg r.count r.value).held = [] := s3.trans u4
  generalize u.setMany r.reg r.count r.value = v at v1 v2 v3
  have v4 : ({ v with held := [], raised := [] } : Thread) = v := by cases v; simp_all
  by_cases hl : laOf i = 0
  · simp only [hl, if_true, true_and, beq_self_eq_true]
    by_cases hf : r.flags = 0
    · simp only [hf, if_true]
      exact ⟨v4, by simp [raisedBy, v1], by simp [v1], v2⟩
    · simp only [hf, if_false]
      exact ⟨v4, by simp [raisedBy, u2], by simp [u2], v2⟩
  · have hb : (laOf i == 0) = false := by simpa using hl
    have hn : ¬(laOf i = 0 ∧ (false : Bool) = true) := fun x => hl x.1
    simp only [hb, hl, false_and, if_false]
    refine ⟨?_, by simp [raisedBy, u2], by simp [u2], u3⟩
    exact congrArg (fun x : Thread => ({ x with held := [{ reg := r.reg, count := r.count, value := r.value, left := laOf i, ready := false, tag := r.tag, flags := r.flags, at_ := pc, more := r.more }] } : Thread)) u5 |>.trans (by rw [ht, hm])

end Sys2Proof.Laws
end

