-- ==== Sys2Proof/Laws/Issue.lean ====
section
/-! SUPPORT. Laws of issue: what a word issued to a pack does when no thread faults, for thread-local words over a whole pack, and for any word to a pack of one thread. -/

namespace Sys2Proof.Laws

open Sys2Proof.Machine

/-! Flags. -/

theorem raise_fields (g : Group) (fl : Flags) (pc : Dword) (c k : Nat) :
    ∃ pd fs, g.raise fl pc c k = { g with fpflags := g.fpflags ||| fl, fpPending := pd, fpStream := fs } := ⟨_, _, rfl⟩

theorem raises_fields (l : List (Flags × Dword)) (g : Group) (c k : Nat) :
    ∃ pd fs, l.foldl (fun a e => a.raise e.1 e.2 c k) g = { g with fpflags := l.foldl (fun a e => a ||| e.1) g.fpflags, fpPending := pd, fpStream := fs } := by
  induction l generalizing g with
  | nil => exact ⟨g.fpPending, g.fpStream, rfl⟩
  | cons e l ih =>
    obtain ⟨pd, fs, h⟩ := ih (g.raise e.1 e.2 c k)
    exact ⟨pd, fs, by rw [List.foldl_cons, h]; rfl⟩

theorem foldl_or (l : List (Flags × Dword)) (f : Flags) : l.foldl (fun a e => a ||| e.1) f = f ||| l.foldl (fun a e => a ||| e.1) 0 := by
  induction l generalizing f with
  | nil => simp
  | cons e l ih => rw [List.foldl_cons, List.foldl_cons, ih, ih (0 ||| e.1)]; simp [BitVec.or_assoc]

theorem foldl_orFlags (l : List Flags) (f : Flags) : l.foldl (fun a b => a ||| b) f = f ||| orFlags l := by
  unfold orFlags
  induction l generalizing f with
  | nil => simp
  | cons e l ih => rw [List.foldl_cons, List.foldl_cons, ih, ih (0 ||| e)]; simp [BitVec.or_assoc]

theorem orFlags_cons (a : Flags) (l : List Flags) : orFlags (a :: l) = a ||| orFlags l := by
  have := foldl_orFlags l (0 ||| a)
  simpa [orFlags] using this

theorem gather_fields (g : Group) (c t k : Nat) :
    ∃ pd fs, g.gather c t k = { g with
      threads := modifyAt g.threads t (fun x => { x with raised := [] })
      fpflags := g.fpflags ||| ((g.threads[t]?).map raisedBy).getD 0
      fpPending := pd, fpStream := fs } := by
  have hmod : ∀ x, g.threads[t]? = some x → g.threads.set t { x with raised := [] } = modifyAt g.threads t (fun x => { x with raised := [] }) := by
    intro x hx
    apply List.ext_getElem?
    intro j
    obtain ⟨hlt, _⟩ := List.getElem?_eq_some_iff.1 hx
    by_cases h : t = j
    · subst h
      rw [getElem?_modifyAt, List.getElem?_set]
      simp [hlt, List.getElem?_eq_some_iff.1 hx |>.2]
    · rw [getElem?_modifyAt, List.getElem?_set]
      simp [h]
  unfold Group.gather
  cases hx : g.threads[t]? with
  | none =>
    refine ⟨g.fpPending, g.fpStream, ?_⟩
    have : modifyAt g.threads t (fun x => { x with raised := [] }) = g.threads := by
      apply List.ext_getElem?
      intro j
      rw [getElem?_modifyAt]
      by_cases h : t = j
      · subst h; simp [hx]
      · simp [h]
    simp [this]
  | some x =>
    by_cases he : x.raised = []
    · refine ⟨g.fpPending, g.fpStream, ?_⟩
      have hx2 : { x with raised := [] } = x := by cases x; simp_all
      have h2 : g.threads.set t x = g.threads := by
        apply List.ext_getElem?
        intro j
        rw [List.getElem?_set]
        by_cases h : t = j
        · subst h; rw [hx]; simp [List.getElem?_eq_some_iff.1 hx |>.1]
        · simp [h]
      rw [← hmod x hx, hx2, h2]
      simp [he, raisedBy]
    · simp only [List.isEmpty_iff, he, if_false]
      obtain ⟨pd, fs, h⟩ := raises_fields x.raised { g with threads := g.threads.set t { x with raised := [] } } c k
      refine ⟨pd, fs, ?_⟩
      rw [h, hmod x hx]
      simp [raisedBy, foldl_or x.raised g.fpflags]

theorem gathers_fields (c k : Nat) (ts : List Nat) (hn : ts.Nodup) (g : Group) :
    ∃ ths pd fs, ts.foldl (fun a t => a.gather c t k) g = { g with
      threads := ths
      fpflags := g.fpflags ||| orFlags (ts.map (fun t => ((g.threads[t]?).map raisedBy).getD 0))
      fpPending := pd, fpStream := fs }
      ∧ ths.length = g.threads.length
      ∧ ∀ n, ths[n]? = if n ∈ ts then (g.threads[n]?).map (fun x => { x with raised := [] }) else g.threads[n]? := by
  induction ts generalizing g with
  | nil => exact ⟨g.threads, g.fpPending, g.fpStream, by simp [orFlags], rfl, by simp⟩
  | cons t ts ih =>
    obtain ⟨hnt, hn2⟩ := List.nodup_cons.1 hn
    obtain ⟨pd, fs, h1⟩ := gather_fields g c t k
    obtain ⟨ths, pd2, fs2, h2, h3, h4⟩ := ih hn2 (g.gather c t k)
    refine ⟨ths, pd2, fs2, ?_, ?_, ?_⟩
    · rw [List.foldl_cons, h2, h1]
      have : ts.map (fun u => (((modifyAt g.threads t (fun x => { x with raised := [] }))[u]?).map raisedBy).getD 0) = ts.map (fun u => ((g.threads[u]?).map raisedBy).getD 0) := by
        apply List.map_congr_left
        intro u hu
        rw [getElem?_modifyAt]
        have : t ≠ u := fun e => hnt (e ▸ hu)
        simp [this]
      simp only [this]
      simp [orFlags_cons, BitVec.or_assoc]
    · rw [h3, h1]; simp
    · intro n
      rw [h4 n, h1]
      simp only [getElem?_modifyAt, List.mem_cons]
      by_cases e1 : t = n
      · subst e1; simp [hnt]
      · have : n ≠ t := fun e => e1 e.symm
        simp [e1, this]

theorem raise_eq (g : Group) (fl : Flags) (pc : Dword) (c k : Nat) :
    g.raise fl pc c k = { g with fpflags := g.fpflags ||| fl, fpPending := (g.pendingWith fl pc c k).1, fpStream := (g.pendingWith fl pc c k).2 } := by
  unfold Group.raise Group.pendingWith
  cases h : g.fpPending with
  | none => by_cases h1 : fl &&& g.trapEn = 0#7 <;> simp [h1]
  | some p => by_cases h1 : fl &&& g.trapEn = 0#7 <;> by_cases h2 : p.2 = c ∧ k < g.fpStream <;> simp [h1, h2]

theorem pendingWith_zero (g : Group) (pc : Dword) (c k : Nat) : g.pendingWith 0#7 pc c k = (g.fpPending, g.fpStream) := by
  simp [Group.pendingWith]

/-- Flags raised one after the other at one address, in one cycle and from one stream, are those raised at once. -/
theorem raise_raise (g : Group) (a b : Flags) (pc : Dword) (c k : Nat) : (g.raise a pc c k).raise b pc c k = g.raise (a ||| b) pc c k := by
  have hor : (a ||| b) &&& g.trapEn = 0 ↔ a &&& g.trapEn = 0 ∧ b &&& g.trapEn = 0 := by
    rw [show (a ||| b) &&& g.trapEn = (a &&& g.trapEn) ||| (b &&& g.trapEn) by ext j hj; simp [Bool.and_or_distrib_right]]
    exact BitVec.or_eq_zero_iff
  simp only [raise_eq, BitVec.or_assoc]
  have hp : ∀ (p : Option (Dword × Nat)) (n : Nat) (f : Flags), ({ g with fpflags := f, fpPending := p, fpStream := n } : Group).pendingWith b pc c k =
      if b &&& g.trapEn ≠ 0 ∧ (p = none ∨ (p.map (fun p => p.2) = some c ∧ k < n)) then (some (pc, c), k) else (p, n) := fun _ _ _ => rfl
  simp only [hp]
  unfold Group.pendingWith
  simp only [ne_eq, hor]
  by_cases h1 : a &&& g.trapEn = 0 <;> by_cases h2 : b &&& g.trapEn = 0 <;>
    by_cases h3 : g.fpPending = none ∨ (g.fpPending.map (fun p => p.2) = some c ∧ k < g.fpStream) <;>
    simp only [h1, h2, h3, not_true_eq_false, not_false_eq_true, and_true, and_false, and_self, if_true, if_false, reduceCtorEq, Option.map_some, lt_irrefl, or_self]

theorem raises_eq (l : List (Flags × Dword)) (g : Group) (pc : Dword) (c k : Nat) (h : ∀ e ∈ l, e.2 = pc) :
    l.foldl (fun a e => a.raise e.1 e.2 c k) g = g.raise (l.foldl (fun a e => a ||| e.1) 0) pc c k := by
  induction l generalizing g with
  | nil => rw [raise_eq]; simp [pendingWith_zero]
  | cons e l ih =>
    rw [List.foldl_cons, ih _ (fun x hx => h x (by simp [hx])), h e (by simp), raise_raise, List.foldl_cons, foldl_or l (0 ||| e.1)]
    simp

/-- A thread's flags, all raised at one address, pass to its group: the pending exception. -/
theorem gather_pending (g : Group) (c t k : Nat) (pc : Dword) (h : ∀ x, g.threads[t]? = some x → ∀ e ∈ x.raised, e.2 = pc) :
    ((g.gather c t k).fpPending, (g.gather c t k).fpStream) = g.pendingWith (((g.threads[t]?).map raisedBy).getD 0) pc c k := by
  unfold Group.gather
  cases hx : g.threads[t]? with
  | none => simp [pendingWith_zero]
  | some x =>
    by_cases he : x.raised = []
    · simp [he, raisedBy, pendingWith_zero]
    · simp only [List.isEmpty_iff, he, if_false]
      rw [raises_eq _ _ pc _ _ (h x hx), raise_eq]
      rfl

theorem pendingWith_congr {g h : Group} (ht : g.trapEn = h.trapEn) (hp : (g.fpPending, g.fpStream) = (h.fpPending, h.fpStream)) (fl : Flags) (pc : Dword) (c k : Nat) :
    g.pendingWith fl pc c k = h.pendingWith fl pc c k := by
  obtain ⟨h1, h2⟩ := Prod.mk.inj hp
  unfold Group.pendingWith
  rw [ht, h1, h2]

theorem pendingWith_or (g : Group) (a b : Flags) (pc : Dword) (c k : Nat) : g.pendingWith (a ||| b) pc c k = (g.raise a pc c k).pendingWith b pc c k := by
  have h := congrArg (fun x : Group => (x.fpPending, x.fpStream)) (raise_raise g a b pc c k)
  simpa only [raise_eq] using h.symm

/-- The flags of several threads, all raised at one address, pass to their group: the pending exception. -/
theorem gathers_pending (c k : Nat) (pc : Dword) (ts : List Nat) (hn : ts.Nodup) (g : Group) (h : ∀ t ∈ ts, ∀ x, g.threads[t]? = some x → ∀ e ∈ x.raised, e.2 = pc) :
    ((ts.foldl (fun a t => a.gather c t k) g).fpPending, (ts.foldl (fun a t => a.gather c t k) g).fpStream) =
      g.pendingWith (orFlags (ts.map (fun t => ((g.threads[t]?).map raisedBy).getD 0))) pc c k := by
  induction ts generalizing g with
  | nil => exact (pendingWith_zero g pc c k).symm
  | cons t ts ih =>
    obtain ⟨hnt, hn2⟩ := List.nodup_cons.1 hn
    obtain ⟨pd, fs, h1⟩ := gather_fields g c t k
    have hp := gather_pending g c t k pc (h t (by simp))
    have hsame : ∀ u, u ∈ ts → (g.gather c t k).threads[u]? = g.threads[u]? := by
      intro u hu
      rw [h1]
      show (modifyAt g.threads t _)[u]? = _
      rw [getElem?_modifyAt]
      have : t ≠ u := fun e => hnt (e ▸ hu)
      simp [this]
    rw [List.foldl_cons, ih hn2 (g.gather c t k) (fun u hu x hx => h u (by simp [hu]) x (by rw [← hsame u hu]; exact hx)), List.map_cons, orFlags_cons, pendingWith_or]
    have : ts.map (fun u => (((g.gather c t k).threads[u]?).map raisedBy).getD 0) = ts.map (fun u => ((g.threads[u]?).map raisedBy).getD 0) :=
      List.map_congr_left (fun u hu => by rw [hsame u hu])
    rw [this]
    refine pendingWith_congr (by rw [h1, raise_eq]) ?_ _ _ _ _
    rw [hp, raise_eq]

/-! The end of an issue. -/

@[simp] theorem takeFaults_nil (s : State) (c g : Nat) (pc : Dword) (b : Bool) : s.takeFaults c g pc b [] = s := rfl

theorem clearLate_none (s : State) (gid : Nat) (lanes : List (Nat × Nat)) (h : ∀ l ∈ lanes, ((s.thread? gid l.2).bind (fun t => t.late)) = none) : s.clearLate gid lanes = s := by
  unfold State.clearLate
  induction lanes with
  | nil => rfl
  | cons l ls ih =>
    rw [List.foldl_cons, h l (by simp)]
    simpa using ih (fun x hx => h x (by simp [hx]))

theorem lateOf_none (a : LaneAcc) (iss : Issue) (lanes : List (Nat × Nat)) (h0 : a.late = []) (h : ∀ l ∈ lanes, ((a.s.thread? iss.grp l.2).bind (fun t => t.late)) = none) : lanes.filterMap (a.lateOf iss) = [] := by
  rw [List.filterMap_eq_nil_iff]
  intro l hl
  simp [LaneAcc.lateOf, h0, h l hl]

theorem retable_fields (g : Group) : ∃ tab ovl y, g.retable = { g with table := tab, overflow := ovl, yielded := y } := ⟨_, _, _, rfl⟩

/-- A block table brought up to date changes the group's table, overflow list, yielded entries and joining addresses alone. -/
theorem retable_group (s : State) (gid : Nat) (g : Group) (h : s.group? gid = some g) :
    ∃ tab ovl y jn, s.retable gid = s.setGroup gid { g with table := tab, overflow := ovl, yielded := y, joinAt := jn } := by
  unfold State.retable State.modGroup
  rw [h]
  exact ⟨_, _, _, _, rfl⟩

/-- What the end of an issue does when no thread faults: flags pass to the group, the dispatch is brought up to date, and nothing else changes. -/
theorem finishIssue_quiet (iss : Issue) (a : LaneAcc) (g : Group) (hf : a.faults = []) (hl : a.late = [])
    (hg : a.s.group? iss.grp = some g) (hn : (iss.lanes.map (fun l => l.2)).Nodup)
    (ht : ∀ l ∈ iss.lanes, ((g.threads[l.2]?).bind (fun t => t.late)) = none) :
    ∃ G C, finishIssue iss a = { a.s with groups := G, cores := C, issue := none, choiceCtr := a.s.choiceCtr + 1 }
      ∧ (∀ k, k ≠ iss.grp → lookKey k G = a.s.group? k)
      ∧ (∃ ths pd fs tab ovl y jn, lookKey iss.grp G = some { g with threads := ths, fpflags := g.fpflags ||| orFlags (iss.lanes.map (fun l => ((g.threads[l.2]?).map raisedBy).getD 0)), fpPending := pd, fpStream := fs, table := tab, overflow := ovl, yielded := y, joinAt := jn }
        ∧ ths.length = g.threads.length
        ∧ (∀ n, ths[n]? = if n ∈ iss.lanes.map (fun l => l.2) then (g.threads[n]?).map (fun x => { x with raised := [] }) else g.threads[n]?)
        ∧ ((∀ l ∈ iss.lanes, ∀ x, g.threads[l.2]? = some x → ∀ e ∈ x.raised, e.2 = iss.pc) → (pd, fs) = g.pendingWith (orFlags (iss.lanes.map (fun l => ((g.threads[l.2]?).map raisedBy).getD 0))) iss.pc (a.s.clock g.core) iss.stream))
      ∧ (∀ c, c ≠ iss.core → (lookKey c C).getD CoreSt.empty = a.s.core c)
      ∧ ∃ st, (lookKey iss.core C).getD CoreSt.empty = { a.s.core iss.core with streams := st } := by
  have ht2 : ∀ l ∈ iss.lanes, ((a.s.thread? iss.grp l.2).bind (fun t => t.late)) = none := by
    intro l hl; simpa [State.thread?, hg] using ht l hl
  obtain ⟨ths, pd, fs, h1, h2, h3⟩ := gathers_fields (a.s.clock g.core) iss.stream (iss.lanes.map (fun l => l.2)) hn g
  have hpd : (∀ l ∈ iss.lanes, ∀ x, g.threads[l.2]? = some x → ∀ e ∈ x.raised, e.2 = iss.pc) → (pd, fs) = g.pendingWith (orFlags (iss.lanes.map (fun l => ((g.threads[l.2]?).map raisedBy).getD 0))) iss.pc (a.s.clock g.core) iss.stream := by
    intro hpc
    have := gathers_pending (a.s.clock g.core) iss.stream iss.pc (iss.lanes.map (fun l => l.2)) hn g (fun t hm => by
      obtain ⟨l, hl, rfl⟩ := List.mem_map.1 hm
      exact hpc l hl)
    rw [h1] at this
    simpa [List.map_map, Function.comp_def] using this
  have hgf : a.s.gatherFlags iss.grp (iss.lanes.map (fun l => l.2)) iss.stream = a.s.setGroup iss.grp { g with threads := ths, fpflags := g.fpflags ||| orFlags (iss.lanes.map (fun l => ((g.threads[l.2]?).map raisedBy).getD 0)), fpPending := pd, fpStream := fs } := by
    unfold State.gatherFlags State.modGroup
    rw [hg]
    show a.s.setGroup iss.grp ((iss.lanes.map (fun l => l.2)).foldl (fun b t => b.gather (a.s.clock g.core) t iss.stream) g) = _
    rw [h1]
    simp [List.map_map, Function.comp_def]
  have hend : ∀ s2 : State, s2.group? iss.grp = some { g with threads := ths, fpflags := g.fpflags ||| orFlags (iss.lanes.map (fun l => ((g.threads[l.2]?).map raisedBy).getD 0)), fpPending := pd, fpStream := fs } →
      ∃ x : Group, s2.retable iss.grp = s2.setGroup iss.grp x ∧ ∃ tab ovl y jn, x = { g with threads := ths, fpflags := g.fpflags ||| orFlags (iss.lanes.map (fun l => ((g.threads[l.2]?).map raisedBy).getD 0)), fpPending := pd, fpStream := fs, table := tab, overflow := ovl, yielded := y, joinAt := jn } := by
    intro s2 h
    obtain ⟨tab, ovl, y, jn, e⟩ := retable_group s2 iss.grp _ h
    exact ⟨_, e, tab, ovl, y, jn, rfl⟩
  unfold finishIssue
  simp only [hf, takeFaults_nil, lateOf_none a iss iss.lanes hl ht2, clearLate_none a.s iss.grp iss.lanes ht2, hgf]
  have key : ∀ s2 : State, (∃ C, s2 = { a.s.setGroup iss.grp { g with threads := ths, fpflags := g.fpflags ||| orFlags (iss.lanes.map (fun l => ((g.threads[l.2]?).map raisedBy).getD 0)), fpPending := pd, fpStream := fs } with cores := C }
        ∧ (∀ c, c ≠ iss.core → (lookKey c C).getD CoreSt.empty = a.s.core c) ∧ ∃ st, (lookKey iss.core C).getD CoreSt.empty = { a.s.core iss.core with streams := st }) →
      ∃ G C, ({ s2.retable iss.grp with issue := none, choiceCtr := s2.choiceCtr + 1 } : State) = { a.s with groups := G, cores := C, issue := none, choiceCtr := a.s.choiceCtr + 1 }
      ∧ (∀ k, k ≠ iss.grp → lookKey k G = a.s.group? k)
      ∧ (∃ ths pd fs tab ovl y jn, lookKey iss.grp G = some { g with threads := ths, fpflags := g.fpflags ||| orFlags (iss.lanes.map (fun l => ((g.threads[l.2]?).map raisedBy).getD 0)), fpPending := pd, fpStream := fs, table := tab, overflow := ovl, yielded := y, joinAt := jn }
        ∧ ths.length = g.threads.length
        ∧ (∀ n, ths[n]? = if n ∈ iss.lanes.map (fun l => l.2) then (g.threads[n]?).map (fun x => { x with raised := [] }) else g.threads[n]?)
        ∧ ((∀ l ∈ iss.lanes, ∀ x, g.threads[l.2]? = some x → ∀ e ∈ x.raised, e.2 = iss.pc) → (pd, fs) = g.pendingWith (orFlags (iss.lanes.map (fun l => ((g.threads[l.2]?).map raisedBy).getD 0))) iss.pc (a.s.clock g.core) iss.stream))
      ∧ (∀ c, c ≠ iss.core → (lookKey c C).getD CoreSt.empty = a.s.core c)
      ∧ ∃ st, (lookKey iss.core C).getD CoreSt.empty = { a.s.core iss.core with streams := st } := by
    rintro s2 ⟨C, rfl, hC1, hC2⟩
    obtain ⟨x, hx, tab, ovl, y, jn, rfl⟩ := hend ({ a.s.setGroup iss.grp { g with threads := ths, fpflags := g.fpflags ||| orFlags (iss.lanes.map (fun l => ((g.threads[l.2]?).map raisedBy).getD 0)), fpPending := pd, fpStream := fs } with cores := C }) (by simp [State.group?, State.setGroup])
    rw [hx]
    refine ⟨_, C, rfl, ?_, ⟨ths, pd, fs, tab, ovl, y, jn, by simp [State.setGroup], h2, h3, hpd⟩, hC1, hC2⟩
    intro k hk
    simp [State.setGroup, lookKey_putKey_ne (Ne.symm hk), State.group?]
  apply key
  have triv : ∃ C, a.s.setGroup iss.grp { g with threads := ths, fpflags := g.fpflags ||| orFlags (iss.lanes.map (fun l => ((g.threads[l.2]?).map raisedBy).getD 0)), fpPending := pd, fpStream := fs } = { a.s.setGroup iss.grp { g with threads := ths, fpflags := g.fpflags ||| orFlags (iss.lanes.map (fun l => ((g.threads[l.2]?).map raisedBy).getD 0)), fpPending := pd, fpStream := fs } with cores := C }
      ∧ (∀ c, c ≠ iss.core → (lookKey c C).getD CoreSt.empty = a.s.core c) ∧ ∃ st, (lookKey iss.core C).getD CoreSt.empty = { a.s.core iss.core with streams := st } :=
    ⟨a.s.cores, rfl, fun _ _ => rfl, _, rfl⟩
  split
  · split
    · refine ⟨_, rfl, fun c hc => ?_, ?_⟩
      · simp [lookKey_putKey_ne (Ne.symm hc), State.core]
      · simp only [lookKey_putKey_same, Option.getD_some]
        exact ⟨_, rfl⟩
    · exact triv
  · exact triv

theorem markYielded_cases (s : State) (iss : Issue) :
    s.markYielded iss = s ∨ ∃ g y, s.group? iss.grp = some g ∧ s.markYielded iss = s.setGroup iss.grp { g with yielded := y } := by
  unfold State.markYielded
  split
  · exact .inl rfl
  · unfold State.modGroup
    cases h : s.group? iss.grp with
    | none => exact .inl rfl
    | some g =>
      refine .inr ⟨g, if g.yielded.contains (iss.pc + 8) then g.yielded else g.yielded ++ [iss.pc + 8], rfl, ?_⟩
      simp only
      split <;> rfl

/-- The same with what a YIELD leaves to do. -/
theorem afterWord_quiet (i : Instr) (iss : Issue) (a : LaneAcc) (g : Group) (hf : a.faults = []) (hl : a.late = [])
    (hg : a.s.group? iss.grp = some g) (hn : (iss.lanes.map (fun l => l.2)).Nodup)
    (ht : ∀ l ∈ iss.lanes, ((g.threads[l.2]?).bind (fun t => t.late)) = none) :
    ∃ G C, (finishIssue iss a).afterWord i iss = { a.s with groups := G, cores := C, issue := none, choiceCtr := a.s.choiceCtr + 1 }
      ∧ (∀ k, k ≠ iss.grp → lookKey k G = a.s.group? k)
      ∧ (∃ ths pd fs tab ovl y jn, lookKey iss.grp G = some { g with threads := ths, fpflags := g.fpflags ||| orFlags (iss.lanes.map (fun l => ((g.threads[l.2]?).map raisedBy).getD 0)), fpPending := pd, fpStream := fs, table := tab, overflow := ovl, yielded := y, joinAt := jn }
        ∧ ths.length = g.threads.length
        ∧ (∀ n, ths[n]? = if n ∈ iss.lanes.map (fun l => l.2) then (g.threads[n]?).map (fun x => { x with raised := [] }) else g.threads[n]?)
        ∧ ((∀ l ∈ iss.lanes, ∀ x, g.threads[l.2]? = some x → ∀ e ∈ x.raised, e.2 = iss.pc) → (pd, fs) = g.pendingWith (orFlags (iss.lanes.map (fun l => ((g.threads[l.2]?).map raisedBy).getD 0))) iss.pc (a.s.clock g.core) iss.stream))
      ∧ (∀ c, c ≠ iss.core → (lookKey c C).getD CoreSt.empty = a.s.core c)
      ∧ ∃ st, (lookKey iss.core C).getD CoreSt.empty = { a.s.core iss.core with streams := st } := by
  have h := finishIssue_quiet iss a g hf hl hg hn ht
  have hy : (finishIssue iss a).afterWord i iss = finishIssue iss a ∨ (finishIssue iss a).afterWord i iss = (finishIssue iss a).markYielded iss := by
    cases i <;> first | exact .inl rfl | exact .inr rfl
  rcases hy with e | e
  · rwa [e]
  · rcases markYielded_cases (finishIssue iss a) iss with e2 | ⟨x, yl, hx, e2⟩
    · rwa [e, e2]
    · obtain ⟨G, C, e0, e1, ⟨ths, pd, fs, tab, ovl, y, jn, e3, e4, e5, e8⟩, e6, e7⟩ := h
      rw [e, e2, e0]
      rw [e0] at hx
      have hx2 : lookKey iss.grp G = some x := hx
      rw [e3] at hx2
      obtain rfl := Option.some.inj hx2
      refine ⟨_, C, rfl, ?_, ⟨ths, pd, fs, tab, ovl, yl, jn, ?_, e4, e5, e8⟩, e6, e7⟩
      · intro k hk
        rw [← e1 k hk]
        exact lookKey_putKey_ne (Ne.symm hk) _ _
      · exact lookKey_putKey_same ..

end Sys2Proof.Laws
end

