-- ==== Sys2Proof/Laws/Local.lean ====
section
/-! SUPPORT. The law of words that change their threads alone: issued to a whole pack, each completes, and each thread becomes what its own turn makes of it. -/

namespace Sys2Proof.Laws

open Sys2Proof.Machine

/-- How far a word has gone through its pack: `done` are the lanes whose turn is over, each thread of theirs made by `fin`. -/
structure Gone (s : State) (iss : Issue) (g : Group) (fin : Nat × Nat → Thread → Thread) (done : List (Nat × Nat)) (a : LaneAcc) (ths : List Thread) : Prop where
  state : ∃ G, a.s = { s with groups := G }
  others : ∀ k, k ≠ iss.grp → a.s.group? k = s.group? k
  group : a.s.group? iss.grp = some { g with threads := ths }
  len : ths.length = g.threads.length
  made : ∀ l ∈ done, ths[l.2]? = (g.threads[l.2]?).map (fin l)
  rest : ∀ n, n ∉ done.map (fun l => l.2) → ths[n]? = g.threads[n]?
  quiet : a.faults = [] ∧ a.late = [] ∧ a.held = false
  acted : ∀ n ∈ a.acted, n ∈ done.map (fun l => l.2)

/-- A turn that makes one thread of what it was. -/
def OneTurn (i : Instr) (s : State) (iss : Issue) (g : Group) (fin : Nat × Nat → Thread → Thread) (body : Nat → State → Turnout) : Prop :=
  ∀ done l t a ths, l ∈ iss.lanes → l.2 ∉ done.map (fun x => x.2) → g.threads[l.2]? = some t → Gone s iss g fin done a ths → ths[l.2]? = some t → a.acted.contains l.2 = false →
    laneTurn i iss body a l = { a with s := a.s.setThread iss.grp l.2 (fin l t), acted := l.2 :: a.acted }

theorem gone_step {i : Instr} {s : State} {iss : Issue} {g : Group} {fin : Nat × Nat → Thread → Thread} {body : Nat → State → Turnout}
    (h : OneTurn i s iss g fin body) {done : List (Nat × Nat)} {l : Nat × Nat} {t : Thread} {a : LaneAcc} {ths : List Thread}
    (hl : l ∈ iss.lanes) (hn : l.2 ∉ done.map (fun x => x.2)) (ht : g.threads[l.2]? = some t) (ha : Gone s iss g fin done a ths) :
    ∃ ths2, Gone s iss g fin (done ++ [l]) (laneTurn i iss body a l) ths2 := by
  have htt : ths[l.2]? = some t := by rw [ha.rest _ hn, ht]
  have hac : a.acted.contains l.2 = false := by
    rw [List.contains_eq_mem, decide_eq_false_iff_not]
    exact fun hm => hn (ha.acted _ hm)
  rw [h done l t a ths hl hn ht ha htt hac]
  obtain ⟨G, hG⟩ := ha.state
  have hlt : l.2 < ths.length := (List.getElem?_eq_some_iff.1 htt).1
  refine ⟨ths.set l.2 (fin l t), ?_, ?_, ?_, ?_, ?_, ?_, ha.quiet, ?_⟩
  · refine ⟨(a.s.setThread iss.grp l.2 (fin l t)).groups, ?_⟩
    unfold State.setThread State.modGroup
    rw [ha.group]
    simp [hG, State.setGroup]
  · intro k hk
    rw [← ha.others k hk]
    unfold State.setThread
    rw [group?_modGroup, if_neg (Ne.symm hk)]
  · unfold State.setThread
    rw [group?_modGroup, if_pos rfl, ha.group]
    rfl
  · simp [ha.len]
  · intro m hm
    rw [List.mem_append, List.mem_singleton] at hm
    by_cases e : m.2 = l.2
    · rcases hm with hm | hm
      · exact absurd (List.mem_map.2 ⟨m, hm, e⟩) hn
      · subst hm
        simp [hlt, ht]
    · rcases hm with hm | hm
      · rw [List.getElem?_set, if_neg (Ne.symm e)]
        exact ha.made m hm
      · exact absurd (congrArg Prod.snd hm) e
  · intro n hn2
    simp only [List.map_append, List.map_cons, List.map_nil, List.mem_append, List.mem_singleton, not_or] at hn2
    rw [List.getElem?_set, if_neg (Ne.symm hn2.2)]
    exact ha.rest n hn2.1
  · intro n hn2
    simp only [List.mem_cons] at hn2
    simp only [List.map_append, List.map_cons, List.map_nil, List.mem_append, List.mem_singleton]
    rcases hn2 with rfl | hn2
    · exact Or.inr rfl
    · exact Or.inl (ha.acted n hn2)

theorem gone_fold {i : Instr} {s : State} {iss : Issue} {g : Group} {fin : Nat × Nat → Thread → Thread} {body : Nat → State → Turnout}
    (h : OneTurn i s iss g fin body) (hr : ∀ l ∈ iss.lanes, ∃ t, g.threads[l.2]? = some t) (todo : List (Nat × Nat)) :
    ∀ (done : List (Nat × Nat)) (a : LaneAcc) (ths : List Thread), iss.lanes = done ++ todo → ((done ++ todo).map (fun l => l.2)).Nodup → Gone s iss g fin done a ths →
      ∃ ths2, Gone s iss g fin iss.lanes (todo.foldl (laneTurn i iss body) a) ths2 := by
  induction todo with
  | nil => intro done a ths e _ ha; exact ⟨ths, by simpa [e] using ha⟩
  | cons l todo ih =>
    intro done a ths e hd ha
    have hl : l ∈ iss.lanes := by rw [e]; simp
    obtain ⟨t, ht⟩ := hr l hl
    have hn : l.2 ∉ done.map (fun x => x.2) := by
      intro hm
      rw [List.map_append, List.nodup_append] at hd
      exact hd.2.2 l.2 hm l.2 (by simp) rfl
    obtain ⟨ths2, h2⟩ := gone_step h hl hn ht ha
    rw [List.foldl_cons]
    exact ih (done ++ [l]) _ ths2 (by simp [e]) (by simpa using hd) h2

/-- With no bound on the threads of an issue, all of the pack's have their turns. -/
theorem runLanes_whole (i : Instr) (s : State) (iss : Issue) (body : Nat → State → Turnout) (acted : List Nat) (a : LaneAcc) (h : s.laneLimit = none) :
    runLanes i iss body (s.turnLanes i iss acted) a = iss.lanes.foldl (laneTurn i iss body) a := by
  simp [runLanes, State.turnLanes, h]

/-- A word whose turns make one thread each completes as the turns say. -/
theorem runWord_threads {i : Instr} {s : State} {iss : Issue} {g : Group} (hi : s.Issues iss g i) (fin : Nat × Nat → Thread → Thread) (body : Issue → Nat → State → Turnout)
    (h : OneTurn i s iss g fin (body iss)) (hlate : ∀ l ∈ iss.lanes, ∀ t, g.threads[l.2]? = some t → (fin l t).late = none) :
    OnlyThreads s (runWord i s body) iss g
    ∧ (∀ l ∈ iss.lanes, ∀ t, g.threads[l.2]? = some t → (runWord i s body).thread? iss.grp l.2 = some { fin l t with raised := [] })
    ∧ ((runWord i s body).group? iss.grp).map (fun x => x.fpflags) = some (g.fpflags ||| orFlags (iss.lanes.map (fun l => ((g.threads[l.2]?).map (fun t => raisedBy (fin l t))).getD 0)))
    ∧ ((∀ l ∈ iss.lanes, ∀ t, g.threads[l.2]? = some t → ∀ e ∈ (fin l t).raised, e.2 = iss.pc) → ((runWord i s body).group? iss.grp).map (fun x => (x.fpPending, x.fpStream)) = some (g.pendingWith (orFlags (iss.lanes.map (fun l => ((g.threads[l.2]?).map (fun t => raisedBy (fin l t))).getD 0))) iss.pc (s.clock g.core) iss.stream)) := by
  obtain ⟨hiss, hg, hleg, hrow, hgo, hfr, hwh, hdis, hth⟩ := hi
  have hrow2 : (crossLane i && !(((s.issuing iss).map (fun x => x.rowblk)).getD false)) = false := by
    cases hc : crossLane i
    · rfl
    · simp [hrow hc]
  have hgo2 : (((s.issuing iss).map (fun x => x.handler)).getD false && handlerEnds i) = false := by
    show (s.handling iss && handlerEnds i) = false
    cases hc : s.handling iss
    · rfl
    · simp [hgo hc]
  have hrun : runWord i s body = (finishIssue iss (iss.lanes.foldl (laneTurn i iss (body iss)) { s := s, faults := [], late := [], held := false, acted := [] })).afterWord i iss := by
    unfold runWord
    simp only [hiss, hg]
    rw [show wordFault i g.frame g.accs (s.corOf g) (((s.issuing iss).map (fun x => x.handler)).getD false) = none from hleg]
    simp only [hrow2, hgo2, hfr, runLanes_whole i s iss _ _ _ hwh]
    rfl
  have h0 : Gone s iss g fin [] { s := s, faults := [], late := [], held := false, acted := [] } g.threads :=
    ⟨⟨s.groups, rfl⟩, fun _ _ => rfl, hg, rfl, by simp, by simp, ⟨rfl, rfl, rfl⟩, by simp⟩
  have hr : ∀ l ∈ iss.lanes, ∃ t, g.threads[l.2]? = some t := fun l hl => (hth l hl).imp (fun _ h => h.1)
  obtain ⟨ths, ha⟩ := gone_fold h hr iss.lanes [] _ _ rfl (by simpa using hdis) h0
  rw [hrun]
  generalize iss.lanes.foldl (laneTurn i iss (body iss)) { s := s, faults := [], late := [], held := false, acted := [] } = a at ha
  obtain ⟨G0, hG0⟩ := ha.state
  have hlt : ∀ l ∈ iss.lanes, ((({ g with threads := ths } : Group).threads[l.2]?).bind (fun t => t.late)) = none := by
    intro l hl
    obtain ⟨t, ht⟩ := hr l hl
    show (ths[l.2]?).bind (fun t => t.late) = none
    rw [ha.made l hl, ht]
    exact hlate l hl t ht
  obtain ⟨G, C, e, e1, ⟨ths2, pd, fs, tab, ovl, y, jn, e2, e3, e4, e7⟩, e5, e6⟩ := afterWord_quiet i iss a _ ha.quiet.1 ha.quiet.2.1 ha.group hdis hlt
  have hcore : ∀ c, a.s.core c = s.core c := by intro c; rw [hG0]; rfl
  have hthr : ∀ l ∈ iss.lanes, (({ g with threads := ths } : Group).threads[l.2]?).map raisedBy = (g.threads[l.2]?).map (fun t => raisedBy (fin l t)) := by
    intro l hl
    show (ths[l.2]?).map _ = _
    rw [ha.made l hl]
    cases g.threads[l.2]? <;> rfl
  have hfl : iss.lanes.map (fun l => ((({ g with threads := ths } : Group).threads[l.2]?).map raisedBy).getD 0) = iss.lanes.map (fun l => ((g.threads[l.2]?).map (fun t => raisedBy (fin l t))).getD 0) :=
    List.map_congr_left (fun l hl => by rw [hthr l hl])
  refine ⟨⟨⟨G, C, ?_⟩, ?_, ?_, ?_, ?_, ?_⟩, ?_, ?_, ?_⟩
  · rw [e, hG0]
  · intro k hk
    rw [e, ← ha.others k hk]
    exact e1 k hk
  · rw [e]
    exact ⟨ths2, _, pd, fs, tab, ovl, y, jn, e2⟩
  · intro n hn
    rw [e]
    show (lookKey iss.grp G).bind _ = (s.group? iss.grp).bind _
    rw [e2, hg]
    show ths2[n]? = g.threads[n]?
    rw [e4, if_neg hn]
    exact ha.rest n hn
  · intro c hc
    rw [e, ← hcore c]
    exact e5 c hc
  · obtain ⟨st, h6⟩ := e6
    rw [e]
    exact ⟨st, by rw [← hcore]; exact h6⟩
  · intro l hl t ht
    rw [e]
    show (lookKey iss.grp G).bind _ = _
    rw [e2]
    show ths2[l.2]? = _
    rw [e4, if_pos (List.mem_map.2 ⟨l, hl, rfl⟩)]
    show (ths[l.2]?).map _ = _
    rw [ha.made l hl, ht]
    rfl
  · rw [e]
    show (lookKey iss.grp G).map _ = _
    rw [e2]
    simp only [Option.map_some, Option.some.injEq, hfl]
  · intro hpc
    rw [e]
    show (lookKey iss.grp G).map _ = _
    rw [e2]
    simp only [Option.map_some, Option.some.injEq]
    have hcl : a.s.clock g.core = s.clock g.core := by rw [hG0]; rfl
    have := e7 (fun l hl x hx => by
      have hx2 : ths[l.2]? = some x := hx
      rw [ha.made l hl] at hx2
      obtain ⟨t, ht, rfl⟩ := Option.map_eq_some_iff.1 hx2
      exact hpc l hl t ht)
    rw [this, hfl, hcl]
    rfl

/-! Turns of threads that are ready. -/

/-- The turn of a ready thread: skipped, or what the body makes of it. -/
theorem laneTurn_ready {i : Instr} {iss : Issue} {body : Nat → State → Turnout} {a : LaneAcc} {l : Nat × Nat} {t : Thread}
    (hc : closesFirst i = false) (hh : a.held = false) (ht : a.s.thread? iss.grp l.2 = some t) (hr : t.Ready i) (hac : a.acted.contains l.2 = false) :
    laneTurn i iss body a l = if t.takes i then a.settle i iss l (body l.2 a.s)
    else { a with s := a.s.setThread iss.grp l.2 (if endsDispatch i then (t.retireWord i false none iss.pc).waitAt (iss.pc + 8) (a.s.clock iss.core) else t.retireWord i false none iss.pc), acted := l.2 :: a.acted } := by
  have hat : t.atWord i = t := by unfold Thread.atWord; rw [hc]; rfl
  unfold laneTurn
  rw [ht]
  simp only [Option.map_some, hat, hc, hh, Bool.false_and]
  have hrun : t.isRunning = true := by simp [Thread.isRunning, hr.runs]
  have hac2 : l.2 ∉ a.acted := by simpa [List.contains_eq_mem] using hac
  by_cases hk : t.takes i = true
  · have hgo : ((guardOf i).map (fun g => t.guard g)).getD true = true := hk
    simp [hrun, hac2, hr.noRegion, hgo, hk, hr.sources hk]
  · have hgo : ((guardOf i).map (fun g => t.guard g)).getD true = false := by simpa [Thread.takes] using hk
    simp [hrun, hac2, hr.noRegion, hgo, hk]

theorem setGroup_setGroup (s : State) (g : Nat) (x y : Group) : (s.setGroup g x).setGroup g y = s.setGroup g y := by
  unfold State.setGroup
  rw [putKey_putKey]

theorem modGroup_of {s : State} {g : Nat} {z : Group} (f : Group → Group) (h : s.group? g = some z) : s.modGroup g f = s.setGroup g (f z) := by
  unfold State.modGroup
  rw [h]

/-- A thread set twice is set once. -/
theorem modThread_setThread (s : State) (g n : Nat) (x : Thread) (f : Thread → Thread) (y : Thread) (h : s.thread? g n = some y) :
    (s.setThread g n x).modThread g n f = s.setThread g n (f x) := by
  unfold State.thread? at h
  cases hg : s.group? g with
  | none => simp [hg] at h
  | some z =>
    simp only [hg, Option.bind_some] at h
    have hlt : n < z.threads.length := (List.getElem?_eq_some_iff.1 h).1
    have h3 : modifyAt (z.threads.set n x) n f = z.threads.set n (f x) := by
      apply List.ext_getElem?
      intro j
      rw [getElem?_modifyAt]
      by_cases e : n = j
      · subst e; simp [hlt]
      · simp [e]
    unfold State.setThread State.modThread
    rw [modGroup_of _ hg, modGroup_of _ hg, modGroup_of _ (group?_setGroup_same ..), setGroup_setGroup, h3]

/-- A thread changed is the thread set to what it becomes. -/
theorem modThread_of (s : State) (g n : Nat) (f : Thread → Thread) (y : Thread) (h : s.thread? g n = some y) : s.modThread g n f = s.setThread g n (f y) := by
  unfold State.thread? at h
  cases hg : s.group? g with
  | none => simp [hg] at h
  | some z =>
    simp only [hg, Option.bind_some] at h
    obtain ⟨hlt, hy⟩ := List.getElem?_eq_some_iff.1 h
    have h3 : modifyAt z.threads n f = z.threads.set n (f y) := by
      apply List.ext_getElem?
      intro j
      rw [getElem?_modifyAt]
      by_cases e : n = j
      · subst e; simp [hlt, hy]
      · simp [e]
    unfold State.setThread State.modThread
    rw [modGroup_of _ hg, modGroup_of _ hg, h3]

/-- What a thread-local instruction makes of a ready thread, its flags still on it: it retires it, its flags raised at the word. -/
def flagged (t : Thread) (fl : Flags) (pc : Dword) : Thread := if fl = 0 then t else { t with raised := t.raised ++ [(fl, pc)] }

@[simp] theorem flagged_held (t : Thread) (fl : Flags) (pc : Dword) : (flagged t fl pc).held = t.held := by unfold flagged; split <;> rfl
@[simp] theorem flagged_region (t : Thread) (fl : Flags) (pc : Dword) : (flagged t fl pc).region = t.region := by unfold flagged; split <;> rfl
@[simp] theorem flagged_late (t : Thread) (fl : Flags) (pc : Dword) : (flagged t fl pc).late = t.late := by unfold flagged; split <;> rfl

theorem raisedBy_flagged (t : Thread) (fl : Flags) (pc : Dword) (h : t.raised = []) : raisedBy (flagged t fl pc) = fl := by
  unfold flagged raisedBy
  split <;> simp_all

theorem flagged_at (t : Thread) (fl : Flags) (pc : Dword) (h : t.raised = []) : ∀ e ∈ (flagged t fl pc).raised, e.2 = pc := by
  unfold flagged
  split <;> simp [h]

theorem after_flagged (t : Thread) (fl : Flags) (i : Instr) (go : Bool) (w : List Nat) (pc pc2 : Dword) : (flagged t fl pc2).after i go w pc = t.after i go w pc := by
  unfold flagged
  split
  · rfl
  · have h : ∀ (qs : List Nat) (t : Thread) (r), ({ t with raised := r } : Thread).pops qs = { t.pops qs with raised := r } := by
      intro qs
      induction qs with
      | nil => intros; rfl
      | cons n qs ih => intro t r; exact ih { t with q := modifyAt t.q n (fun l => l.drop 1) } r
    unfold Thread.after
    cases go
    · rfl
    · dsimp only
      rw [if_pos rfl, if_pos rfl, h]
      rfl

theorem after_late (t : Thread) (i : Instr) (go : Bool) (w : List Nat) (pc : Dword) : (t.after i go w pc).late = t.late := rfl

theorem raisedBy_of (t u : Thread) (h : t.raised = u.raised) : raisedBy t = raisedBy u := by unfold raisedBy; rw [h]

/-- A ready thread that skips the word. -/
theorem skips_eq {t : Thread} {i : Instr} (hr : t.Ready i) (pc : Dword) (c : Nat) :
    { (if endsDispatch i then (t.retireWord i false none pc).waitAt (pc + 8) c else t.retireWord i false none pc) with raised := [] } = t.skips i pc c
    ∧ raisedBy (if endsDispatch i then (t.retireWord i false none pc).waitAt (pc + 8) c else t.retireWord i false none pc) = 0
    ∧ (if endsDispatch i then (t.retireWord i false none pc).waitAt (pc + 8) c else t.retireWord i false none pc).late = none := by
  obtain ⟨h1, h2⟩ := retireWord_plain t i false pc hr.landed hr.noRegion
  have hl : (t.retireWord i false none pc).late = none := by
    have := congrArg Thread.late h1
    exact this.trans hr.onTime
  rw [hr.unraised] at h2
  unfold Thread.skips
  cases he : endsDispatch i
  · refine ⟨h1, ?_, hl⟩
    simp [raisedBy, h2]
  · refine ⟨?_, ?_, hl⟩
    · exact congrArg (fun x : Thread => x.waitAt (pc + 8) c) h1
    · simp [raisedBy, Thread.waitAt, h2]

/-- The law of thread-local words: what each thread's turn comes to, its retirement included. -/
theorem runLocal_final {i : Instr} {s : State} {iss : Issue} {g : Group} (hi : s.Issues iss g i) (he : endsDispatch i = false) (hc : closesFirst i = false) (f : Env → Thread → LocalOut)
    (put : Nat × Nat → Thread → Thread) (fl : Nat × Nat → Thread → Flags) (res : Nat × Nat → Thread → Option LongRes) (next : Nat × Nat → Thread → Thread) (raise : Nat × Nat → Thread → Flags)
    (hf : ∀ l ∈ iss.lanes, ∀ t, g.threads[l.2]? = some t → t.takes i = true → ∀ G ths, f { s := { s with groups := G }, iss := iss, grp := { g with threads := ths }, tid := l.2 } t = .ok (put l t) (fl l t) (res l t))
    (hp : ∀ l ∈ iss.lanes, ∀ t, g.threads[l.2]? = some t → t.takes i = true → t.Ready i →
      { (flagged (put l t) (fl l t) iss.pc).retireWord i true (res l t) iss.pc with raised := [] } = next l t
      ∧ raisedBy ((flagged (put l t) (fl l t) iss.pc).retireWord i true (res l t) iss.pc) = raise l t
      ∧ (∀ e ∈ ((flagged (put l t) (fl l t) iss.pc).retireWord i true (res l t) iss.pc).raised, e.2 = iss.pc)
      ∧ ((flagged (put l t) (fl l t) iss.pc).retireWord i true (res l t) iss.pc).late = none) :
    Gives s (runLocal i s f) iss g i next raise := by
  have key := runWord_threads hi
    (fun l t => if t.takes i then (flagged (put l t) (fl l t) iss.pc).retireWord i true (res l t) iss.pc else t.retireWord i false none iss.pc) (localTurn f) ?_ ?_
  · obtain ⟨h1, h2, h3, h4⟩ := key
    have hfl : iss.lanes.map (fun l => ((g.threads[l.2]?).map (fun t => raisedBy (if t.takes i then (flagged (put l t) (fl l t) iss.pc).retireWord i true (res l t) iss.pc else t.retireWord i false none iss.pc))).getD 0) = iss.lanes.map (fun l => ((g.threads[l.2]?).map (fun t => if t.takes i then raise l t else 0)).getD 0) := by
      apply List.map_congr_left
      intro l hl
      obtain ⟨t, ht, hr⟩ := hi.threads l hl
      rw [ht]
      cases hk : t.takes i
      · have := (skips_eq hr iss.pc (s.clock iss.core)).2.1
        simp only [he] at this
        simpa [hk] using this
      · simp only [Option.map_some, Option.getD_some, hk, if_true, (hp l hl t ht hk hr).2.1]
    refine ⟨h1, ?_, ?_, ?_⟩
    · intro l hl t ht
      obtain ⟨t', ht', hr⟩ := hi.threads l hl
      obtain rfl : t = t' := by rw [ht] at ht'; exact Option.some.inj ht'
      rw [show runLocal i s f = runWord i s (localTurn f) from rfl, h2 l hl t ht]
      cases hk : t.takes i
      · have := (skips_eq hr iss.pc (s.clock iss.core)).1
        simp only [he] at this
        simpa using this
      · simp only [if_true, (hp l hl t ht hk hr).1]
    · rw [show runLocal i s f = runWord i s (localTurn f) from rfl, h4 ?_, hfl]
      · rfl
      · intro l hl t ht
        obtain ⟨t', ht', hr⟩ := hi.threads l hl
        obtain rfl : t = t' := by rw [ht] at ht'; exact Option.some.inj ht'
        cases hk : t.takes i
        · simp [(retireWord_plain t i false iss.pc hr.landed hr.noRegion).2, hr.unraised]
        · exact (hp l hl t ht hk hr).2.2.1
    · rw [show runLocal i s f = runWord i s (localTurn f) from rfl, h3, hfl]
      rfl
  · intro done l t a ths hl hn ht hgone htt hac
    obtain ⟨t', ht', hr⟩ := hi.threads l hl
    obtain rfl : t = t' := by rw [ht] at ht'; exact Option.some.inj ht'
    have hat : a.s.thread? iss.grp l.2 = some t := by unfold State.thread?; rw [hgone.group]; exact htt
    rw [laneTurn_ready hc hgone.quiet.2.2 hat hr hac]
    cases hk : t.takes i
    · simp [he, hk]
    · obtain ⟨G, hG⟩ := hgone.state
      have hb : localTurn f iss l.2 a.s = .done (a.s.setThread iss.grp l.2 (flagged (put l t) (fl l t) iss.pc)) (res l t) := by
        unfold localTurn
        rw [hgone.group, hat]
        have := hf l hl t ht hk G ths
        rw [← hG] at this
        simp only [this]
        rfl
      simp only [hk, if_true, hb, LaneAcc.settle]
      rw [modThread_setThread _ _ _ _ _ _ hat]
  · intro l hl t ht
    obtain ⟨t', ht', hr⟩ := hi.threads l hl
    obtain rfl : t = t' := by rw [ht] at ht'; exact Option.some.inj ht'
    cases hk : t.takes i
    · have := (skips_eq hr iss.pc (s.clock iss.core)).2.2
      simp only [he] at this
      simpa [hk] using this
    · simpa [hk] using (hp l hl t ht hk hr).2.2.2

/-- The law of thread-local words that write at once. -/
theorem runLocal_gives {i : Instr} {s : State} {iss : Issue} {g : Group} (hi : s.Issues iss g i) (he : endsDispatch i = false) (hc : closesFirst i = false) (f : Env → Thread → LocalOut)
    (put : Nat × Nat → Thread → Thread) (fl : Nat × Nat → Thread → Flags)
    (hf : ∀ l ∈ iss.lanes, ∀ t, g.threads[l.2]? = some t → t.takes i = true → ∀ G ths, f { s := { s with groups := G }, iss := iss, grp := { g with threads := ths }, tid := l.2 } t = .ok (put l t) (fl l t) none)
    (hp : ∀ l ∈ iss.lanes, ∀ t, g.threads[l.2]? = some t → (put l t).held = t.held ∧ (put l t).region = t.region ∧ (put l t).late = t.late ∧ (put l t).raised = t.raised) :
    Gives s (runLocal i s f) iss g i (fun l t => (put l t).after i true (dstRegs i) iss.pc) fl := by
  refine runLocal_final hi he hc f put fl (fun _ _ => none) _ _ hf ?_
  intro l hl t ht hk hr
  obtain ⟨p1, p2, p3, p4⟩ := hp l hl t ht
  have h := retireWord_plain (flagged (put l t) (fl l t) iss.pc) i true iss.pc (by simp [p1, hr.landed]) (by simp [p2, hr.noRegion])
  simp only [if_true, after_flagged] at h
  refine ⟨h.1, ?_, ?_, ?_⟩
  · rw [raisedBy_of _ _ h.2, raisedBy_flagged _ _ _ (by rw [p4, hr.unraised])]
  · rw [h.2]
    exact flagged_at _ _ _ (by rw [p4, hr.unraised])
  · exact (congrArg Thread.late h.1).trans (by simp [after_late, p3, hr.onTime])

/-- The law of thread-local words whose result may come later. -/
theorem runLocal_later {i : Instr} {s : State} {iss : Issue} {g : Group} (hi : s.Issues iss g i) (he : endsDispatch i = false) (hcl : closesFirst i = false) (f : Env → Thread → LocalOut)
    (reg count : Nat) (hc : count ≤ 4) (value : Nat × Nat → Thread → Qword) (fl : Nat × Nat → Thread → Flags)
    (hf : ∀ l ∈ iss.lanes, ∀ t, g.threads[l.2]? = some t → t.takes i = true → ∀ G ths, f { s := { s with groups := G }, iss := iss, grp := { g with threads := ths }, tid := l.2 } t =
      .ok t 0 (some { reg := reg, count := count, value := value l t, tag := none, flags := fl l t })) :
    Gives s (runLocal i s f) iss g i (fun l t => t.later i iss.pc reg count (value l t) (fl l t)) (fun l t => if laOf i = 0 then fl l t else 0) := by
  refine runLocal_final hi he hcl f (fun _ t => t) (fun _ _ => 0) (fun l t => some { reg := reg, count := count, value := value l t, tag := none, flags := fl l t }) _ _ hf ?_
  intro l hl t ht hk hr
  have h := retireWord_later t i iss.pc { reg := reg, count := count, value := value l t, tag := none, flags := fl l t } hr.landed hr.noRegion hr.unraised rfl rfl hc he
  exact ⟨h.1, h.2.1, h.2.2.1, h.2.2.2.trans hr.onTime⟩

end Sys2Proof.Laws
end

