-- ==== Sys2Proof/Laws/Reads.lean ====
section
/-! SUPPORT. Laws of operands: what a legal word's source fields read when no last-read mark has released them, and the law of the words that compute from registers. -/

namespace Sys2Proof.Laws

open Sys2Proof.Machine

theorem wordFault_none {i : Instr} {f a : Nat} {c h : Bool} (hw : wordFault i f a c h = none) : staticFault i = none := by
  cases hs : staticFault i with
  | none => rfl
  | some d =>
    exfalso
    unfold wordFault at hw
    rw [hs] at hw
    cases d <;> (repeat' split at hw) <;> simp_all

theorem static0 {i : Instr} {w : F0} {sh : Shape} (hs : shape0 i = some (w, sh)) (hf : staticFault i = none) :
    sh.ok = true ∧ sh.d.accepts w.d = true ∧ sh.a.accepts w.a = true ∧ sh.b.accepts w.b = true := by
  unfold staticFault at hf
  rw [hs] at hf
  simp only at hf
  by_cases h1 : illegal0 w sh = true
  · simp [h1] at hf
  · by_cases h2 : (sh.d.accepts w.d && sh.a.accepts w.a && sh.b.accepts w.b) = true
    · simp only [Bool.and_eq_true] at h2
      refine ⟨?_, h2.1.1, h2.1.2, h2.2⟩
      simp [illegal0] at h1
      tauto
    · simp [h1, h2] at hf

theorem static1 {i : Instr} {w : F1} {sh : Shape} (h0 : shape0 i = none) (hs : shape1 i = some (w, sh)) (hf : staticFault i = none) :
    sh.ok = true ∧ sh.d.accepts w.d = true ∧ sh.a.accepts w.a = true := by
  unfold staticFault at hf
  rw [h0, hs] at hf
  simp only at hf
  by_cases h1 : illegal1 w sh = true
  · simp [h1] at hf
  · by_cases h2 : (sh.d.accepts w.d && sh.a.accepts w.a && csrOperandOk i) = true
    · simp only [Bool.and_eq_true] at h2
      refine ⟨?_, h2.1.1, h2.1.2⟩
      simp [illegal1] at h1
      tauto
    · simp [h1, h2] at hf

/-- A code that a vector field accepts names the vector register of its number. -/
theorem ofCode_v {k al : Nat} {c : Code} (h : (Field.vec k al).accepts c = true) : Operand.ofCode c = .v (vnum c) := by
  unfold Field.accepts at h
  unfold vnum
  cases hc : Operand.ofCode c <;> simp [hc] at h
  unfold Operand.ofCode at hc
  simp only at hc
  repeat' split at hc
  all_goals simp_all

theorem srcRegs_0 {i : Instr} {w : F0} {sh : Shape} (hs : shape0 i = some (w, sh)) :
    srcRegs i = ([(sh.a, w.a), (sh.b, w.b)] ++ (if readsDest i then [(sh.d, w.d)] else [])).flatMap (fun e => fieldRegs e.1 e.2) := by
  unfold srcRegs
  split
  · simp [shape0] at hs
  · unfold srcFields
    rw [hs]

theorem srcRegs_1 {i : Instr} {w : F1} {sh : Shape} (h0 : shape0 i = none) (hs : shape1 i = some (w, sh)) :
    srcRegs i = ([(sh.a, w.a)] ++ (if readsDest i then [(sh.d, w.d)] else [])).flatMap (fun e => fieldRegs e.1 e.2) := by
  unfold srcRegs
  split
  · simp [shape1] at hs
  · unfold srcFields
    rw [h0, hs]

variable {t : Thread} {i : Instr} {w : F0} {w1 : F1} {sh : Shape}

theorem reads_a (hs : shape0 i = some (w, sh)) (hr : t.reads i) : ∀ r ∈ fieldRegs sh.a w.a, r ∉ t.released := by
  intro r h; exact hr r (by rw [srcRegs_0 hs]; simp [h])

theorem reads_b (hs : shape0 i = some (w, sh)) (hr : t.reads i) : ∀ r ∈ fieldRegs sh.b w.b, r ∉ t.released := by
  intro r h; exact hr r (by rw [srcRegs_0 hs]; simp [h])

theorem reads_d (hs : shape0 i = some (w, sh)) (hd : readsDest i = true) (hr : t.reads i) : ∀ r ∈ fieldRegs sh.d w.d, r ∉ t.released := by
  intro r h; exact hr r (by rw [srcRegs_0 hs]; simp [h, hd])

theorem reads_a1 (h0 : shape0 i = none) (hs : shape1 i = some (w1, sh)) (hr : t.reads i) : ∀ r ∈ fieldRegs sh.a w1.a, r ∉ t.released := by
  intro r h; exact hr r (by rw [srcRegs_1 h0 hs]; simp [h])

/-- A register that is live reads as the thread holds it. -/
theorem v_live (e : Env) {t : Thread} {n : Nat} (h : n ∉ t.released) : e.v t n = t.v.get n := by
  unfold Env.v
  simp [h]

theorem src_live (e : Env) {t : Thread} {c : Code} (k : Nat) (h : ∀ r ∈ fieldRegs .vecQ c, r ∉ t.released) : e.src t c k = t.source c k := by
  unfold Env.src Thread.source
  cases hc : Operand.ofCode c with
  | v n =>
    have : n ∉ t.released := h n (by simp [fieldRegs, hc])
    simp [v_live e this]
  | _ => rfl

theorem fa_live (e : Env) (hs : shape0 i = some (w, sh)) (ha : sh.a = .vecQ) (hr : t.reads i) : e.fa t w = t.sourceA w :=
  src_live e 0 (by rw [← ha]; exact reads_a hs hr)

theorem fb_live (e : Env) (hs : shape0 i = some (w, sh)) (hb : sh.b = .vecQ) (hr : t.reads i) : e.fb t w = t.sourceB w :=
  src_live e _ (by rw [← hb]; exact reads_b hs hr)

theorem v_field (e : Env) {k al : Nat} {c : Code} (hl : (Field.vec k al).accepts c = true) (hr : ∀ r ∈ fieldRegs (.vec k al) c, r ∉ t.released) (j : Nat) (hj : j < k) :
    e.v t (vnum c + j) = t.v.get (vnum c + j) := by
  apply v_live
  apply hr
  simp only [fieldRegs, ofCode_v hl, List.mem_map, List.mem_range]
  exact ⟨j, hj, rfl⟩

theorem pair_live (e : Env) {k al : Nat} {c : Code} (hk : 2 ≤ k) (hl : (Field.vec k al).accepts c = true) (hr : ∀ r ∈ fieldRegs (.vec k al) c, r ∉ t.released) :
    e.pair t (vnum c) = t.sourcePair c := by
  unfold Env.pair Thread.sourcePair
  rw [v_field e hl hr 1 (by omega), show e.v t (vnum c) = t.v.get (vnum c) from v_field e hl hr 0 (by omega)]

theorem fd_live (e : Env) (hs : shape0 i = some (w, sh)) (hd : sh.d = .v1) (hrd : readsDest i = true) (hl : sh.d.accepts w.d = true) (hr : t.reads i) : e.fd t w = t.v.get (vnum w.d) := by
  have h := reads_d hs hrd hr
  rw [hd] at h hl
  exact v_field e hl h 0 (by omega)

theorem pairA_live (e : Env) (hs : shape0 i = some (w, sh)) (ha : sh.a = .pair) (hl : sh.a.accepts w.a = true) (hr : t.reads i) : e.pair t (vnum w.a) = t.sourcePair w.a := by
  have h := reads_a hs hr
  rw [ha] at h hl
  exact pair_live e (by decide) hl h

theorem pairB_live (e : Env) (hs : shape0 i = some (w, sh)) (hb : sh.b = .pair) (hl : sh.b.accepts w.b = true) (hr : t.reads i) : e.pair t (vnum w.b) = t.sourcePair w.b := by
  have h := reads_b hs hr
  rw [hb] at h hl
  exact pair_live e (by decide) hl h

theorem pairD_live (e : Env) (hs : shape0 i = some (w, sh)) (hd : sh.d = .pair) (hrd : readsDest i = true) (hl : sh.d.accepts w.d = true) (hr : t.reads i) : e.pair t (vnum w.d) = t.sourcePair w.d := by
  have h := reads_d hs hrd hr
  rw [hd] at h hl
  exact pair_live e (by decide) hl h

theorem a32_live1 (e : Env) (h0 : shape0 i = none) (hs : shape1 i = some (w1, sh)) (ha : sh.a = .vecQ) (hr : t.reads i) : e.a32 t w1.a = t.source w1.a 0 :=
  src_live e 0 (by rw [← ha]; exact reads_a1 h0 hs hr)

/-- The law of a word that computes from its own thread: its turn gives the thread and the flags stated, for every live legal thread outside regions. -/
theorem computes_of {i : Instr} {f : Env → Thread → LocalOut} (hx : ∀ s, exec i s = .next (runLocal i s f)) (he : endsDispatch i = false) (hc : closesFirst i = false)
    (put : State → Group → Nat × Nat → Thread → Thread) (fl : State → Group → Nat × Nat → Thread → Flags)
    (hf : ∀ (s : State) (iss : Issue) (g : Group) (l : Nat × Nat) (t : Thread) (G : Tab Group) (ths : List Thread), staticFault i = none → t.region = none → t.reads i →
      f { s := { s with groups := G }, iss := iss, grp := { g with threads := ths }, tid := l.2 } t = .ok (put s g l t) (fl s g l t) none)
    (hp : ∀ s g l (t : Thread), (put s g l t).held = t.held ∧ (put s g l t).region = t.region ∧ (put s g l t).late = t.late ∧ (put s g l t).raised = t.raised) :
    Computes i put fl := by
  intro s iss g hi hr
  refine ⟨_, hx s, runLocal_gives hi he hc f (put s g) (fl s g) ?_ ?_⟩
  · intro l hl t ht hk G ths
    obtain ⟨t', ht', hready⟩ := hi.threads l hl
    obtain rfl : t = t' := by rw [ht] at ht'; exact Option.some.inj ht'
    exact hf s iss g l t G ths (wordFault_none hi.legal) hready.noRegion (hr l hl t ht hk)
  · intro l _ t _
    exact hp s g l t

/-- The same for a word whose result may come later. -/
theorem computesLater_of {i : Instr} {f : Env → Thread → LocalOut} (hx : ∀ s, exec i s = .next (runLocal i s f)) (he : endsDispatch i = false) (hcl : closesFirst i = false) (reg count : Nat) (hc : count ≤ 4)
    (value : State → Group → Nat × Nat → Thread → Qword) (fl : State → Group → Nat × Nat → Thread → Flags)
    (hf : ∀ (s : State) (iss : Issue) (g : Group) (l : Nat × Nat) (t : Thread) (G : Tab Group) (ths : List Thread), staticFault i = none → t.region = none → t.reads i →
      f { s := { s with groups := G }, iss := iss, grp := { g with threads := ths }, tid := l.2 } t = .ok t 0 (some { reg := reg, count := count, value := value s g l t, tag := none, flags := fl s g l t })) :
    ComputesLater i reg count value fl := by
  intro s iss g hi hr
  refine ⟨_, hx s, runLocal_later hi he hcl f reg count hc (value s g) (fl s g) ?_⟩
  intro l hl t ht hk G ths
  obtain ⟨t', ht', hready⟩ := hi.threads l hl
  obtain rfl : t = t' := by rw [ht] at ht'; exact Option.some.inj ht'
  exact hf s iss g l t G ths (wordFault_none hi.legal) hready.noRegion (hr l hl t ht hk)

/-! Words that write one register, one pair. -/

theorem sets32_of (d : Code) (f : Env → Thread → Word) (g : Thread → Word) (hx : ∀ s, exec i s = .next (runWrite i d s f)) (he : endsDispatch i = false) (hc : closesFirst i = false)
   (hv : ∀ (e : Env) (t : Thread), staticFault i = none → t.region = none → t.reads i → f e t = g t) : Sets32 i d g := by
  refine computes_of hx he hc _ _ ?_ (fun _ _ _ _ => ⟨rfl, rfl, rfl, rfl⟩)
  intro s iss gg l t G ths hl hrn hr
  rw [hv _ t hl hrn hr, write_eq _ _ _ hrn]


theorem sets64_of (d : Code) (f : Env → Thread → Dword) (g : Thread → Dword) (hx : ∀ s, exec i s = .next (runWritePair i d s f)) (he : endsDispatch i = false) (hc : closesFirst i = false)
   (hv : ∀ (e : Env) (t : Thread), staticFault i = none → t.region = none → t.reads i → f e t = g t) : Sets64 i d g := by
  refine computes_of hx he hc _ _ ?_ (fun _ _ _ _ => ⟨rfl, rfl, rfl, rfl⟩)
  intro s iss gg l t G ths hl hrn hr
  rw [hv _ t hl hrn hr, writePair_eq _ _ _ hrn]
  rfl


theorem sets32_bin (f g : Word → Word → Word) (hs : shape0 i = some (w, sh)) (ha : sh.a = .vecQ) (hb : sh.b = .vecQ)
   (he : endsDispatch i = false) (hc : closesFirst i = false) (hx : ∀ s, exec i s = .next (bin32 i w s f)) (hfg : staticFault i = none → ∀ a b, f a b = g a b) : Sets32 i w.d (fun t => g (t.sourceA w) (t.sourceB w)) :=
  sets32_of _ _ _ hx he hc (fun e t hl _ hr => by rw [fa_live e hs ha hr, fb_live e hs hb hr]; exact hfg hl _ _)

theorem sets32_un (f g : Word → Word) (hs : shape0 i = some (w, sh)) (ha : sh.a = .vecQ)
   (he : endsDispatch i = false) (hc : closesFirst i = false) (hx : ∀ s, exec i s = .next (un32 i w s f)) (hfg : ∀ a, f a = g a) : Sets32 i w.d (fun t => g (t.sourceA w)) :=
  sets32_of _ _ _ hx he hc (fun e t hl _ hr => by rw [fa_live e hs ha hr]; exact hfg _)

theorem sets32_imm (f g : Word → Word → Word) (h0 : shape0 i = none) (hs : shape1 i = some (w1, sh)) (ha : sh.a = .vecQ)
   (he : endsDispatch i = false) (hc : closesFirst i = false) (hx : ∀ s, exec i s = .next (binImm i w1 s f)) (hfg : ∀ a b, f a b = g a b) : Sets32 i w1.d (fun t => g (t.source w1.a 0) (immWide w1)) :=
  sets32_of _ _ _ hx he hc (fun e t hl _ hr => by rw [a32_live1 e h0 hs ha hr]; exact hfg _ _)

theorem sets32_tri (f g : Word → Word → Word → Word) (hs : shape0 i = some (w, sh)) (ha : sh.a = .vecQ) (hb : sh.b = .vecQ) (hd : sh.d = .v1) (hrd : readsDest i = true)
   (he : endsDispatch i = false) (hc : closesFirst i = false) (hx : ∀ s, exec i s = .next (tri32 i w s f)) (hfg : ∀ a b d, f a b d = g a b d) : Sets32 i w.d (fun t => g (t.sourceA w) (t.sourceB w) (t.v.get (vnum w.d))) :=
  sets32_of _ _ _ hx he hc (fun e t hl _ hr => by rw [fa_live e hs ha hr, fb_live e hs hb hr, fd_live e hs hd hrd (static0 hs hl).2.1 hr]; exact hfg _ _ _)

theorem sets64_bin (f g : Dword → Dword → Dword) (hs : shape0 i = some (w, sh)) (ha : sh.a = .pair) (hb : sh.b = .pair)
   (he : endsDispatch i = false) (hc : closesFirst i = false) (hx : ∀ s, exec i s = .next (bin64 i w s f)) (hfg : ∀ a b, f a b = g a b) : Sets64 i w.d (fun t => g (t.sourcePair w.a) (t.sourcePair w.b)) :=
  sets64_of _ _ _ hx he hc (fun e t hl _ hr => by rw [pairA_live e hs ha (static0 hs hl).2.2.1 hr, pairB_live e hs hb (static0 hs hl).2.2.2 hr]; exact hfg _ _)

/-! Outside a region no source is tagged (10 R226). -/

theorem srcTag_none {t : Thread} (h : t.region = none) (c : Code) : t.srcTag c = none := by unfold Thread.srcTag; split <;> simp [Thread.tag, h]

theorem addSub_plain {t : Thread} (h : t.region = none) (sub : Bool) (d : Nat) (a b : Word) : t.addSub sub d a b none none = t.setV d (if sub then a - b else a + b) := by
  simp [Thread.addSub, sumConcretises, sumTag, Thread.writeMaybe, write_eq _ _ _ h]

end Sys2Proof.Laws
end

