-- ==== Sys2Proof/Laws/One.lean ====
section
/-! SUPPORT. The law of a word issued to a pack of one thread: what its turn comes to, and the end of the issue. -/

namespace Sys2Proof.Laws

open Sys2Proof.Machine

/-- The end of an issue with no fault. -/
theorem afterWord_ends (i : Instr) (iss : Issue) (a : LaneAcc) (g : Group) (hf : a.faults = []) (hl : a.late = [])
    (hg : a.s.group? iss.grp = some g) (hn : (iss.lanes.map (fun l => l.2)).Nodup)
    (ht : ∀ l ∈ iss.lanes, ((g.threads[l.2]?).bind (fun t => t.late)) = none) : Ends a.s ((finishIssue iss a).afterWord i iss) iss := by
  obtain ⟨G, C, e, e1, ⟨ths, pd, fs, tab, ovl, y, jn, e2, e3, e4⟩, e5, e6⟩ := afterWord_quiet i iss a g hf hl hg hn ht
  refine ⟨⟨G, C, e⟩, ?_, ?_, ?_, ?_, ?_⟩
  · intro k hk; rw [e]; exact e1 k hk
  · intro x hx
    obtain rfl : g = x := by rw [hg] at hx; exact Option.some.inj hx
    exact ⟨ths, pd, fs, tab, ovl, y, jn, by rw [e]; exact e2⟩
  · intro n
    rw [e]
    show (lookKey iss.grp G).bind _ = _
    unfold State.thread?
    rw [e2, hg]
    exact e4.1 n
  · intro c hc; rw [e]; exact e5 c hc
  · rw [e]; exact e6

variable {i : Instr} {s : State} {iss : Issue} {g : Group} {l : Nat × Nat} {t : Thread}

theorem IssuesOne_thread? (h : s.IssuesOne iss g i l t) : s.thread? iss.grp l.2 = some t := by
  unfold State.thread?
  rw [h.group]
  exact h.thread

theorem IssuesOne_ready (h : s.IssuesOne iss g i l t) : t.Ready i := by
  obtain ⟨t', h1, h2⟩ := h.threads l (by rw [h.one]; simp)
  rw [h.thread] at h1
  obtain rfl := Option.some.inj h1
  exact h2

/-- A word to one thread is its turn, then the end of the issue. -/
theorem runWord_one (hc : closesFirst i = false) (h : s.IssuesOne iss g i l t) (body : Issue → Nat → State → Turnout) :
    runWord i s body = (finishIssue iss (({ s := s, faults := [], late := [], held := false, acted := [] } : LaneAcc).settle i iss l (body iss l.2 s))).afterWord i iss := by
  have hi := h.toIssues
  have hrow2 : (crossLane i && !(((s.issuing iss).map (fun x => x.rowblk)).getD false)) = false := by
    cases hc : crossLane i
    · rfl
    · simp [hi.rows hc]
  have hgo2 : (((s.issuing iss).map (fun x => x.handler)).getD false && handlerEnds i) = false := by
    show (s.handling iss && handlerEnds i) = false
    cases hc : s.handling iss
    · rfl
    · simp [hi.goesOn hc]
  unfold runWord
  simp only [hi.issue, hi.group]
  rw [show wordFault i g.frame g.accs (s.corOf g) (((s.issuing iss).map (fun x => x.handler)).getD false) = none from hi.legal]
  simp only [hrow2, hgo2, hi.fresh, runLanes_whole i s iss _ _ _ hi.whole, h.one, List.foldl_cons, List.foldl_nil, Bool.false_eq_true, if_false]
  rw [laneTurn_ready (t := t) hc rfl (IssuesOne_thread? h) (IssuesOne_ready h) rfl, h.takes]
  rfl

/-- A turn that retires the word: its effect, the thread's retirement, then the end of the issue. -/
theorem runWord_done (hc : closesFirst i = false) (h : s.IssuesOne iss g i l t) (body : Issue → Nat → State → Turnout) (s1 : State) (g1 : Group) (t1 : Thread)
    (hb : body iss l.2 s = .done s1 none) (hg : s1.group? iss.grp = some g1) (ht : g1.threads[l.2]? = some t1)
    (h1 : t1.held = []) (h2 : t1.region = none) (h3 : t1.late = none) (h4 : t1.raised = []) :
    Ends (s1.setThread iss.grp l.2 (t1.after i true (dstRegs i) iss.pc)) (runWord i s body) iss := by
  obtain ⟨r1, r2⟩ := retireWord_plain t1 i true iss.pc h1 h2
  have r3 : t1.retireWord i true none iss.pc = t1.after i true (dstRegs i) iss.pc := by
    simp only [if_true] at r1
    rw [← r1]
    have : (t1.retireWord i true none iss.pc).raised = [] := r2.trans h4
    generalize t1.retireWord i true none iss.pc = u at this
    cases u; simp_all
  have hth : s1.thread? iss.grp l.2 = some t1 := by unfold State.thread?; rw [hg]; exact ht
  rw [runWord_one hc h body, hb]
  unfold LaneAcc.settle
  simp only
  rw [modThread_of _ _ _ _ _ hth, r3]
  have hlt := (List.getElem?_eq_some_iff.1 ht).1
  refine afterWord_ends i iss { s := s1.setThread iss.grp l.2 (t1.after i true (dstRegs i) iss.pc), faults := [], late := [], held := false, acted := [l.2] } { g1 with threads := g1.threads.set l.2 (t1.after i true (dstRegs i) iss.pc) } rfl rfl ?_ h.distinct ?_
  · show (s1.setThread _ _ _).group? _ = _
    unfold State.setThread
    rw [modGroup_of _ hg, group?_setGroup_same]
  · intro x hx
    rw [h.one, List.mem_singleton] at hx
    subst hx
    simp [hlt, after_late, h3]

/-- The law of words at which threads leave their dispatch. -/
theorem leaves_of {i : Instr} (body : Issue → Nat → State → Turnout) (hx : ∀ s, exec i s = .next (runWord i s body)) (hd : dstRegs i = []) (he : endsDispatch i = true) (hc : closesFirst i = false)
   (ok : State → Issue → Nat × Nat → Thread → Prop) (go : Issue → Nat → Thread → Thread → Thread)
   (hgo : ∀ iss c t u, (go iss c t u).late = u.late ∧ (go iss c t u).raised = u.raised ∧ ∀ r, { go iss c t u with raised := r } = go iss c t { u with raised := r })
   (hb : ∀ s iss g l t G ths, s.Issues iss g i → l ∈ iss.lanes → g.threads[l.2]? = some t → t.takes i = true → t.reads i → ok s iss l t → ({ s with groups := G } : State).group? iss.grp = some { g with threads := ths } → ths[l.2]? = some t →
     body iss l.2 { s with groups := G } = .leave { s with groups := G } (fun u => go iss (s.clock iss.core) t u)) :
   Leaves i ok go := by
  intro s iss g hi hok
  refine ⟨_, hx s, ?_⟩
  have key := runWord_threads hi
    (fun l t => if t.takes i then go iss (s.clock iss.core) t (t.retireWord i true none iss.pc) else (t.retireWord i false none iss.pc).waitAt (iss.pc + 8) (s.clock iss.core)) body ?_ ?_
  · obtain ⟨h1, h2, h3, h4⟩ := key
    have hz : ∀ l ∈ iss.lanes, ∀ t, g.threads[l.2]? = some t → (if t.takes i then go iss (s.clock iss.core) t (t.retireWord i true none iss.pc) else (t.retireWord i false none iss.pc).waitAt (iss.pc + 8) (s.clock iss.core)).raised = [] := by
      intro l hl t ht
      obtain ⟨t', ht', hr⟩ := hi.threads l hl
      obtain rfl : t = t' := by rw [ht] at ht'; exact Option.some.inj ht'
      cases hk : t.takes i
      · simp [Thread.waitAt, (retireWord_plain t i false iss.pc hr.landed hr.noRegion).2, hr.unraised]
      · simp only [if_true]
        rw [(hgo _ _ _ _).2.1, (retireWord_plain t i true iss.pc hr.landed hr.noRegion).2, hr.unraised]
    have hfl : iss.lanes.map (fun l => ((g.threads[l.2]?).map (fun t => raisedBy (if t.takes i then go iss (s.clock iss.core) t (t.retireWord i true none iss.pc) else (t.retireWord i false none iss.pc).waitAt (iss.pc + 8) (s.clock iss.core)))).getD 0) = iss.lanes.map (fun l => ((g.threads[l.2]?).map (fun t => if t.takes i then (0 : Flags) else 0)).getD 0) := by
      apply List.map_congr_left
      intro l hl
      obtain ⟨t, ht, hr⟩ := hi.threads l hl
      rw [ht]
      simp only [Option.map_some, Option.getD_some, raisedBy, hz l hl t ht]
      simp
    refine ⟨h1, ?_, ?_, ?_⟩
    · intro l hl t ht
      obtain ⟨t', ht', hr⟩ := hi.threads l hl
      obtain rfl : t = t' := by rw [ht] at ht'; exact Option.some.inj ht'
      rw [h2 l hl t ht]
      cases hk : t.takes i
      · have := (skips_eq hr iss.pc (s.clock iss.core)).1
        simp only [he] at this
        simpa using this
      · have h := retireWord_plain t i true iss.pc hr.landed hr.noRegion
        simp only [if_true, hd] at h
        simp only [if_true]
        rw [(hgo _ _ _ _).2.2, h.1]
    · rw [h4 (fun l hl t ht => by rw [hz l hl t ht]; simp), hfl]
      rfl
    · rw [h3, hfl]
      rfl
  · intro done l t a ths hl hn ht hgone htt hac
    obtain ⟨t', ht', hr⟩ := hi.threads l hl
    obtain rfl : t = t' := by rw [ht] at ht'; exact Option.some.inj ht'
    have hat : a.s.thread? iss.grp l.2 = some t := by unfold State.thread?; rw [hgone.group]; exact htt
    rw [laneTurn_ready hc hgone.quiet.2.2 hat hr hac]
    cases hk : t.takes i
    · simp [he, hk]
      obtain ⟨G, hG⟩ := hgone.state
      rw [hG]; rfl
    · obtain ⟨G, hG⟩ := hgone.state
      have := hb s iss g l t G ths hi hl ht hk (hok l hl t ht hk).1 (hok l hl t ht hk).2 (by rw [← hG]; exact hgone.group) htt
      rw [← hG] at this
      simp only [hk, if_true, this, LaneAcc.settle]
      rw [modThread_of _ _ _ _ _ hat]
  · intro l hl t ht
    obtain ⟨t', ht', hr⟩ := hi.threads l hl
    obtain rfl : t = t' := by rw [ht] at ht'; exact Option.some.inj ht'
    cases hk : t.takes i
    · have := (skips_eq hr iss.pc (s.clock iss.core)).2.2
      simp only [he] at this
      simpa [hk] using this
    · have h := retireWord_plain t i true iss.pc hr.landed hr.noRegion
      simp only [if_true]
      rw [(hgo _ _ _ _).1]
      exact (congrArg Thread.late h.1).trans hr.onTime

end Sys2Proof.Laws
end

