-- ==== Sys2Proof/Laws/PerInstr.lean ====
section
/-! SUPPORT. One lemma per instruction about its word: the format bits [63:62] of the encoder's word are those of the instruction's format (spec/02 R30). -/

namespace Sys2Proof.Laws

theorem top_or (a b : Dword) : (a ||| b).extractLsb' 62 2 = a.extractLsb' 62 2 ||| b.extractLsb' 62 2 := by
  ext k; simp [BitVec.getElem_extractLsb']

theorem top_low {n : Nat} (x : BitVec n) (k : Nat) (h : n + k ≤ 62) : ((x.setWidth 64 <<< k : Dword)).extractLsb' 62 2 = 0 := by
  ext j hj
  have : n ≤ 62 + j - k := by omega
  simp [this]

theorem top_low0 {n : Nat} (x : BitVec n) (h : n ≤ 62) : ((x.setWidth 64 : Dword)).extractLsb' 62 2 = 0 := by
  ext j hj
  have : n ≤ 62 + j := by omega
  simp [this]

theorem top_bit (b : Bool) (k : Nat) (h : k < 62) : (bitAt b k).extractLsb' 62 2 = 0 := by
  unfold bitAt
  split
  · ext j hj
    have : ¬ (62 + j < k) := by omega
    have h2 : 62 + j - k ≠ 0 := by omega
    simp [BitVec.getLsbD_one, h2]
  · rfl

theorem top_op (op : Nat) (h : op < 1024) : (BitVec.ofNat 64 op <<< 52 : Dword).extractLsb' 62 2 = 0 := by
  ext j hj
  have : op.testBit (62 + j - 52) = false := Nat.testBit_lt_two_pow (Nat.lt_of_lt_of_le h (by
    calc 1024 = 2 ^ 10 := by norm_num
      _ ≤ _ := Nat.pow_le_pow_right (by norm_num) (by omega)))
  simp [BitVec.getLsbD_ofNat, this]

theorem top_f0 (op : Nat) (h : op < 1024) (w : F0) : (w.toWord op).extractLsb' 62 2 = 0 := by
  unfold F0.toWord
  simp only [top_or, top_op op h, top_low _ _ (by decide : 11 + 41 ≤ 62), top_low _ _ (by decide : 11 + 30 ≤ 62), top_low _ _ (by decide : 11 + 19 ≤ 62), top_low _ _ (by decide : 3 + 16 ≤ 62), top_low _ _ (by decide : 4 + 11 ≤ 62), top_low _ _ (by decide : 4 + 5 ≤ 62), top_low0 _ (by decide : 5 ≤ 62), top_bit _ _ (by decide : 15 < 62), top_bit _ _ (by decide : 10 < 62), top_bit _ _ (by decide : 9 < 62)]
  rfl

theorem top_f1 (op : Nat) (h : op < 1024) (w : F1) : (w.toWord op).extractLsb' 62 2 = 1 := by
  unfold F1.toWord
  simp only [top_or, top_op op h, top_low _ _ (by decide : 11 + 41 ≤ 62), top_low _ _ (by decide : 11 + 30 ≤ 62), top_low _ _ (by decide : 16 + 14 ≤ 62), top_low _ _ (by decide : 3 + 11 ≤ 62), top_low _ _ (by decide : 4 + 6 ≤ 62), top_low0 _ (by decide : 5 ≤ 62), top_bit _ _ (by decide : 10 < 62), top_bit _ _ (by decide : 5 < 62)]
  rfl

theorem top_f2 (op : Nat) (h : op < 1024) (w : F2) : (w.toWord op).extractLsb' 62 2 = 2 := by
  unfold F2.toWord
  simp only [top_or, top_op op h, top_low _ _ (by decide : 11 + 41 ≤ 62), top_low _ _ (by decide : 3 + 38 ≤ 62), top_low _ _ (by decide : 5 + 32 ≤ 62), top_low0 _ (by decide : 32 ≤ 62), top_bit _ _ (by decide : 37 < 62)]
  rfl

theorem top_pair (h0 h1 : Half) : (((3 : Dword) <<< 62) ||| (h0.toBits <<< 31) ||| h1.toBits).extractLsb' 62 2 = 3 := by
  rw [top_or, top_or, show ((3 : Dword) <<< 62).extractLsb' 62 2 = BitVec.allOnes 2 from rfl]
  simp only [BitVec.allOnes_or]
  rfl

/-- The format of an instruction's word (02 R30): 0 to 3 for F0 to F3; an event has none. -/
def formatOf (i : Instr) : Option (BitVec 2) :=
  if (shape0 i).isSome then some 0 else if (shape1 i).isSome then some 1 else if (shape2 i).isSome then some 2
  else match i with
    | .pair _ _ => some 3
    | _ => none

/-- The word the encoder gives is of the instruction's format, and an instruction without a format has no word. -/
def Fields.Statement (i : Instr) : Prop := (encode i).map (fun w => w.extractLsb' 62 2) = formatOf i

theorem Fields.nop (w : F0) : Fields.Statement (.nop w) := congrArg some (top_f0 _ (by decide) w)
theorem Fields.bra (w : F2) : Fields.Statement (.bra w) := congrArg some (top_f2 _ (by decide) w)
theorem Fields.jmp (w : F0) : Fields.Statement (.jmp w) := congrArg some (top_f0 _ (by decide) w)
theorem Fields.call (w : F2) : Fields.Statement (.call w) := congrArg some (top_f2 _ (by decide) w)
theorem Fields.calli (w : F0) : Fields.Statement (.calli w) := congrArg some (top_f0 _ (by decide) w)
theorem Fields.ret (w : F0) : Fields.Statement (.ret w) := congrArg some (top_f0 _ (by decide) w)
theorem Fields.exit (w : F0) : Fields.Statement (.exit w) := congrArg some (top_f0 _ (by decide) w)
theorem Fields.rowblk (w : F1) : Fields.Statement (.rowblk w) := congrArg some (top_f1 _ (by decide) w)
theorem Fields.yield (w : F0) : Fields.Statement (.yield w) := congrArg some (top_f0 _ (by decide) w)
theorem Fields.nap (w : F1) : Fields.Statement (.nap w) := congrArg some (top_f1 _ (by decide) w)
theorem Fields.trap (w : F1) : Fields.Statement (.trap w) := congrArg some (top_f1 _ (by decide) w)
theorem Fields.brk (w : F0) : Fields.Statement (.brk w) := congrArg some (top_f0 _ (by decide) w)
theorem Fields.add (w : F0) : Fields.Statement (.add w) := congrArg some (top_f0 _ (by decide) w)
theorem Fields.addImm (w : F1) : Fields.Statement (.addImm w) := congrArg some (top_f1 _ (by decide) w)
theorem Fields.sub (w : F0) : Fields.Statement (.sub w) := congrArg some (top_f0 _ (by decide) w)
theorem Fields.subImm (w : F1) : Fields.Statement (.subImm w) := congrArg some (top_f1 _ (by decide) w)
theorem Fields.addsat (w : F0) : Fields.Statement (.addsat w) := congrArg some (top_f0 _ (by decide) w)
theorem Fields.mul (w : F0) : Fields.Statement (.mul w) := congrArg some (top_f0 _ (by decide) w)
theorem Fields.mulImm (w : F1) : Fields.Statement (.mulImm w) := congrArg some (top_f1 _ (by decide) w)
theorem Fields.mulhi (w : F0) : Fields.Statement (.mulhi w) := congrArg some (top_f0 _ (by decide) w)
theorem Fields.mad (w : F0) : Fields.Statement (.mad w) := congrArg some (top_f0 _ (by decide) w)
theorem Fields.madw (w : F0) : Fields.Statement (.madw w) := congrArg some (top_f0 _ (by decide) w)
theorem Fields.min (w : F0) : Fields.Statement (.min w) := congrArg some (top_f0 _ (by decide) w)
theorem Fields.minImm (w : F1) : Fields.Statement (.minImm w) := congrArg some (top_f1 _ (by decide) w)
theorem Fields.max (w : F0) : Fields.Statement (.max w) := congrArg some (top_f0 _ (by decide) w)
theorem Fields.maxImm (w : F1) : Fields.Statement (.maxImm w) := congrArg some (top_f1 _ (by decide) w)
theorem Fields.abs (w : F0) : Fields.Statement (.abs w) := congrArg some (top_f0 _ (by decide) w)
theorem Fields.neg (w : F0) : Fields.Statement (.neg w) := congrArg some (top_f0 _ (by decide) w)
theorem Fields.dot4 (w : F0) : Fields.Statement (.dot4 w) := congrArg some (top_f0 _ (by decide) w)
theorem Fields.add64 (w : F0) : Fields.Statement (.add64 w) := congrArg some (top_f0 _ (by decide) w)
theorem Fields.sub64 (w : F0) : Fields.Statement (.sub64 w) := congrArg some (top_f0 _ (by decide) w)
theorem Fields.and (w : F0) : Fields.Statement (.and w) := congrArg some (top_f0 _ (by decide) w)
theorem Fields.andImm (w : F1) : Fields.Statement (.andImm w) := congrArg some (top_f1 _ (by decide) w)
theorem Fields.or (w : F0) : Fields.Statement (.or w) := congrArg some (top_f0 _ (by decide) w)
theorem Fields.orImm (w : F1) : Fields.Statement (.orImm w) := congrArg some (top_f1 _ (by decide) w)
theorem Fields.xor (w : F0) : Fields.Statement (.xor w) := congrArg some (top_f0 _ (by decide) w)
theorem Fields.xorImm (w : F1) : Fields.Statement (.xorImm w) := congrArg some (top_f1 _ (by decide) w)
theorem Fields.andn (w : F0) : Fields.Statement (.andn w) := congrArg some (top_f0 _ (by decide) w)
theorem Fields.not (w : F0) : Fields.Statement (.not w) := congrArg some (top_f0 _ (by decide) w)
theorem Fields.shl (w : F0) : Fields.Statement (.shl w) := congrArg some (top_f0 _ (by decide) w)
theorem Fields.shlImm (w : F1) : Fields.Statement (.shlImm w) := congrArg some (top_f1 _ (by decide) w)
theorem Fields.shr (w : F0) : Fields.Statement (.shr w) := congrArg some (top_f0 _ (by decide) w)
theorem Fields.shrImm (w : F1) : Fields.Statement (.shrImm w) := congrArg some (top_f1 _ (by decide) w)
theorem Fields.sar (w : F0) : Fields.Statement (.sar w) := congrArg some (top_f0 _ (by decide) w)
theorem Fields.sarImm (w : F1) : Fields.Statement (.sarImm w) := congrArg some (top_f1 _ (by decide) w)
theorem Fields.rol (w : F0) : Fields.Statement (.rol w) := congrArg some (top_f0 _ (by decide) w)
theorem Fields.bfx (w : F0) : Fields.Statement (.bfx w) := congrArg some (top_f0 _ (by decide) w)
theorem Fields.bfi (w : F0) : Fields.Statement (.bfi w) := congrArg some (top_f0 _ (by decide) w)
theorem Fields.popc (w : F0) : Fields.Statement (.popc w) := congrArg some (top_f0 _ (by decide) w)
theorem Fields.clz (w : F0) : Fields.Statement (.clz w) := congrArg some (top_f0 _ (by decide) w)
theorem Fields.brev (w : F0) : Fields.Statement (.brev w) := congrArg some (top_f0 _ (by decide) w)
theorem Fields.prmt (w : F0) : Fields.Statement (.prmt w) := congrArg some (top_f0 _ (by decide) w)
theorem Fields.shl64 (w : F0) : Fields.Statement (.shl64 w) := congrArg some (top_f0 _ (by decide) w)
theorem Fields.shr64 (w : F0) : Fields.Statement (.shr64 w) := congrArg some (top_f0 _ (by decide) w)
theorem Fields.setp (w : F0) : Fields.Statement (.setp w) := congrArg some (top_f0 _ (by decide) w)
theorem Fields.setpImm (w : F1) : Fields.Statement (.setpImm w) := congrArg some (top_f1 _ (by decide) w)
theorem Fields.plop (w : F0) : Fields.Statement (.plop w) := congrArg some (top_f0 _ (by decide) w)
theorem Fields.sel (w : F0) : Fields.Statement (.sel w) := congrArg some (top_f0 _ (by decide) w)
theorem Fields.mov (w : F0) : Fields.Statement (.mov w) := congrArg some (top_f0 _ (by decide) w)
theorem Fields.ptov (w : F0) : Fields.Statement (.ptov w) := congrArg some (top_f0 _ (by decide) w)
theorem Fields.vtop (w : F0) : Fields.Statement (.vtop w) := congrArg some (top_f0 _ (by decide) w)
theorem Fields.lea (w : F0) : Fields.Statement (.lea w) := congrArg some (top_f0 _ (by decide) w)
theorem Fields.leaImm (w : F1) : Fields.Statement (.leaImm w) := congrArg some (top_f1 _ (by decide) w)
theorem Fields.movi (w : F2) : Fields.Statement (.movi w) := congrArg some (top_f2 _ (by decide) w)
theorem Fields.moviW (w : F2) : Fields.Statement (.moviW w) := congrArg some (top_f2 _ (by decide) w)
theorem Fields.pair (h0 h1 : Half) : Fields.Statement (.pair h0 h1) := congrArg some (top_pair h0 h1)
theorem Fields.fadd (w : F0) : Fields.Statement (.fadd w) := congrArg some (top_f0 _ (by decide) w)
theorem Fields.fsub (w : F0) : Fields.Statement (.fsub w) := congrArg some (top_f0 _ (by decide) w)
theorem Fields.fmul (w : F0) : Fields.Statement (.fmul w) := congrArg some (top_f0 _ (by decide) w)
theorem Fields.ffma (w : F0) : Fields.Statement (.ffma w) := congrArg some (top_f0 _ (by decide) w)
theorem Fields.fscale (w : F0) : Fields.Statement (.fscale w) := congrArg some (top_f0 _ (by decide) w)
theorem Fields.fdot2 (w : F0) : Fields.Statement (.fdot2 w) := congrArg some (top_f0 _ (by decide) w)
theorem Fields.fdiv (w : F0) : Fields.Statement (.fdiv w) := congrArg some (top_f0 _ (by decide) w)
theorem Fields.fsqrt (w : F0) : Fields.Statement (.fsqrt w) := congrArg some (top_f0 _ (by decide) w)
theorem Fields.fmin (w : F0) : Fields.Statement (.fmin w) := congrArg some (top_f0 _ (by decide) w)
theorem Fields.fmax (w : F0) : Fields.Statement (.fmax w) := congrArg some (top_f0 _ (by decide) w)
theorem Fields.famax (w : F0) : Fields.Statement (.famax w) := congrArg some (top_f0 _ (by decide) w)
theorem Fields.fsetp (w : F0) : Fields.Statement (.fsetp w) := congrArg some (top_f0 _ (by decide) w)
theorem Fields.frnd (w : F0) : Fields.Statement (.frnd w) := congrArg some (top_f0 _ (by decide) w)
theorem Fields.fclass (w : F0) : Fields.Statement (.fclass w) := congrArg some (top_f0 _ (by decide) w)
theorem Fields.ffrexp (w : F0) : Fields.Statement (.ffrexp w) := congrArg some (top_f0 _ (by decide) w)
theorem Fields.frcp (w : F0) : Fields.Statement (.frcp w) := congrArg some (top_f0 _ (by decide) w)
theorem Fields.frsq (w : F0) : Fields.Statement (.frsq w) := congrArg some (top_f0 _ (by decide) w)
theorem Fields.fexp2 (w : F0) : Fields.Statement (.fexp2 w) := congrArg some (top_f0 _ (by decide) w)
theorem Fields.flog2 (w : F0) : Fields.Statement (.flog2 w) := congrArg some (top_f0 _ (by decide) w)
theorem Fields.fsin (w : F0) : Fields.Statement (.fsin w) := congrArg some (top_f0 _ (by decide) w)
theorem Fields.fcos (w : F0) : Fields.Statement (.fcos w) := congrArg some (top_f0 _ (by decide) w)
theorem Fields.ftanh (w : F0) : Fields.Statement (.ftanh w) := congrArg some (top_f0 _ (by decide) w)
theorem Fields.fsigm (w : F0) : Fields.Statement (.fsigm w) := congrArg some (top_f0 _ (by decide) w)
theorem Fields.cvt (w : F0) : Fields.Statement (.cvt w) := congrArg some (top_f0 _ (by decide) w)
theorem Fields.cvtsr (w : F0) : Fields.Statement (.cvtsr w) := congrArg some (top_f0 _ (by decide) w)
theorem Fields.pack (w : F0) : Fields.Statement (.pack w) := congrArg some (top_f0 _ (by decide) w)
theorem Fields.unpack (w : F0) : Fields.Statement (.unpack w) := congrArg some (top_f0 _ (by decide) w)
theorem Fields.qscale (w : F0) : Fields.Statement (.qscale w) := congrArg some (top_f0 _ (by decide) w)
theorem Fields.qenc (w : F0) : Fields.Statement (.qenc w) := congrArg some (top_f0 _ (by decide) w)
theorem Fields.qdec (w : F0) : Fields.Statement (.qdec w) := congrArg some (top_f0 _ (by decide) w)
theorem Fields.vote (w : F0) : Fields.Statement (.vote w) := congrArg some (top_f0 _ (by decide) w)
theorem Fields.ballot (w : F0) : Fields.Statement (.ballot w) := congrArg some (top_f0 _ (by decide) w)
theorem Fields.matchLanes (w : F0) : Fields.Statement (.matchLanes w) := congrArg some (top_f0 _ (by decide) w)
theorem Fields.shfl (w : F0) : Fields.Statement (.shfl w) := congrArg some (top_f0 _ (by decide) w)
theorem Fields.redl (w : F0) : Fields.Statement (.redl w) := congrArg some (top_f0 _ (by decide) w)
theorem Fields.scanl (w : F0) : Fields.Statement (.scanl w) := congrArg some (top_f0 _ (by decide) w)
theorem Fields.ld (w : F1) : Fields.Statement (.ld w) := congrArg some (top_f1 _ (by decide) w)
theorem Fields.st (w : F1) : Fields.Statement (.st w) := congrArg some (top_f1 _ (by decide) w)
theorem Fields.ldq (w : F1) : Fields.Statement (.ldq w) := congrArg some (top_f1 _ (by decide) w)
theorem Fields.pref (w : F1) : Fields.Statement (.pref w) := congrArg some (top_f1 _ (by decide) w)
theorem Fields.ltset (w : F0) : Fields.Statement (.ltset w) := congrArg some (top_f0 _ (by decide) w)
theorem Fields.ltget (w : F0) : Fields.Statement (.ltget w) := congrArg some (top_f0 _ (by decide) w)
theorem Fields.ldt (w : F0) : Fields.Statement (.ldt w) := congrArg some (top_f0 _ (by decide) w)
theorem Fields.stt (w : F0) : Fields.Statement (.stt w) := congrArg some (top_f0 _ (by decide) w)
theorem Fields.tpref (w : F0) : Fields.Statement (.tpref w) := congrArg some (top_f0 _ (by decide) w)
theorem Fields.bind (w : F0) : Fields.Statement (.bind w) := congrArg some (top_f0 _ (by decide) w)
theorem Fields.unbind (w : F0) : Fields.Statement (.unbind w) := congrArg some (top_f0 _ (by decide) w)
theorem Fields.fence (w : F0) : Fields.Statement (.fence w) := congrArg some (top_f0 _ (by decide) w)
theorem Fields.cinv (w : F0) : Fields.Statement (.cinv w) := congrArg some (top_f0 _ (by decide) w)
theorem Fields.cwb (w : F0) : Fields.Statement (.cwb w) := congrArg some (top_f0 _ (by decide) w)
theorem Fields.pin (w : F0) : Fields.Statement (.pin w) := congrArg some (top_f0 _ (by decide) w)
theorem Fields.unpin (w : F0) : Fields.Statement (.unpin w) := congrArg some (top_f0 _ (by decide) w)
theorem Fields.spmap (w : F0) : Fields.Statement (.spmap w) := congrArg some (top_f0 _ (by decide) w)
theorem Fields.spunmap (w : F0) : Fields.Statement (.spunmap w) := congrArg some (top_f0 _ (by decide) w)
theorem Fields.atom (w : F0) : Fields.Statement (.atom w) := congrArg some (top_f0 _ (by decide) w)
theorem Fields.cas (w : F0) : Fields.Statement (.cas w) := congrArg some (top_f0 _ (by decide) w)
theorem Fields.red (w : F0) : Fields.Statement (.red w) := congrArg some (top_f0 _ (by decide) w)
theorem Fields.enq (w : F0) : Fields.Statement (.enq w) := congrArg some (top_f0 _ (by decide) w)
theorem Fields.deq (w : F0) : Fields.Statement (.deq w) := congrArg some (top_f0 _ (by decide) w)
theorem Fields.abegin (w : F1) : Fields.Statement (.abegin w) := congrArg some (top_f1 _ (by decide) w)
theorem Fields.acommit (w : F0) : Fields.Statement (.acommit w) := congrArg some (top_f0 _ (by decide) w)
theorem Fields.aabort (w : F0) : Fields.Statement (.aabort w) := congrArg some (top_f0 _ (by decide) w)
theorem Fields.conservatorCommit (grp tid : Nat) : Fields.Statement (.conservatorCommit grp tid) := rfl
theorem Fields.barrive (w : F0) : Fields.Statement (.barrive w) := congrArg some (top_f0 _ (by decide) w)
theorem Fields.bsync (w : F0) : Fields.Statement (.bsync w) := congrArg some (top_f0 _ (by decide) w)
theorem Fields.bwait (w : F0) : Fields.Statement (.bwait w) := congrArg some (top_f0 _ (by decide) w)
theorem Fields.bexpect (w : F0) : Fields.Statement (.bexpect w) := congrArg some (top_f0 _ (by decide) w)
theorem Fields.btest (w : F0) : Fields.Statement (.btest w) := congrArg some (top_f0 _ (by decide) w)
theorem Fields.btestCur (w : F0) : Fields.Statement (.btestCur w) := congrArg some (top_f0 _ (by decide) w)
theorem Fields.mma (w : F0) : Fields.Statement (.mma w) := congrArg some (top_f0 _ (by decide) w)
theorem Fields.mzero (w : F0) : Fields.Statement (.mzero w) := congrArg some (top_f0 _ (by decide) w)
theorem Fields.mrng (w : F0) : Fields.Statement (.mrng w) := congrArg some (top_f0 _ (by decide) w)
theorem Fields.mldb (w : F0) : Fields.Statement (.mldb w) := congrArg some (top_f0 _ (by decide) w)
theorem Fields.mdrain (w : F0) : Fields.Statement (.mdrain w) := congrArg some (top_f0 _ (by decide) w)
theorem Fields.cpy (w : F0) : Fields.Statement (.cpy w) := congrArg some (top_f0 _ (by decide) w)
theorem Fields.cpyx (w : F0) : Fields.Statement (.cpyx w) := congrArg some (top_f0 _ (by decide) w)
theorem Fields.cpywp (w : F0) : Fields.Statement (.cpywp w) := congrArg some (top_f0 _ (by decide) w)
theorem Fields.cpyseq (w : F0) : Fields.Statement (.cpyseq w) := congrArg some (top_f0 _ (by decide) w)
theorem Fields.cpyseqStat (w : F0) : Fields.Statement (.cpyseqStat w) := congrArg some (top_f0 _ (by decide) w)
theorem Fields.cpycan (w : F0) : Fields.Statement (.cpycan w) := congrArg some (top_f0 _ (by decide) w)
theorem Fields.pgstat (w : F0) : Fields.Statement (.pgstat w) := congrArg some (top_f0 _ (by decide) w)
theorem Fields.leaseq (w : F0) : Fields.Statement (.leaseq w) := congrArg some (top_f0 _ (by decide) w)
theorem Fields.leaseqVa (w : F0) : Fields.Statement (.leaseqVa w) := congrArg some (top_f0 _ (by decide) w)
theorem Fields.pghint (w : F0) : Fields.Statement (.pghint w) := congrArg some (top_f0 _ (by decide) w)
theorem Fields.csrr (w : F1) : Fields.Statement (.csrr w) := congrArg some (top_f1 _ (by decide) w)
theorem Fields.csrw (w : F1) : Fields.Statement (.csrw w) := congrArg some (top_f1 _ (by decide) w)
theorem Fields.enter (w : F1) : Fields.Statement (.enter w) := congrArg some (top_f1 _ (by decide) w)
theorem Fields.leave (w : F1) : Fields.Statement (.leave w) := congrArg some (top_f1 _ (by decide) w)
theorem Fields.mark (w : F1) : Fields.Statement (.mark w) := congrArg some (top_f1 _ (by decide) w)
theorem Fields.trig (w : F1) : Fields.Statement (.trig w) := congrArg some (top_f1 _ (by decide) w)
theorem Fields.fret (w : F0) : Fields.Statement (.fret w) := congrArg some (top_f0 _ (by decide) w)
theorem Fields.fread (w : F0) : Fields.Statement (.fread w) := congrArg some (top_f0 _ (by decide) w)
theorem Fields.launch (w : F0) : Fields.Statement (.launch w) := congrArg some (top_f0 _ (by decide) w)
theorem Fields.notify (w : F0) : Fields.Statement (.notify w) := congrArg some (top_f0 _ (by decide) w)
theorem Fields.dispatch (core stream : Nat) : Fields.Statement (.dispatch core stream) := rfl
theorem Fields.handlerActivation (core stream : Nat) : Fields.Statement (.handlerActivation core stream) := rfl
theorem Fields.speculativeLoad (core grp : Nat) (va : Dword) : Fields.Statement (.speculativeLoad core grp va) := rfl
theorem Fields.longLatencyComplete (grp tid idx : Nat) : Fields.Statement (.longLatencyComplete grp tid idx) := rfl
theorem Fields.ldqDataArrive (grp tid q idx : Nat) : Fields.Statement (.ldqDataArrive grp tid q idx) := rfl
theorem Fields.storeDrain (core idx : Nat) : Fields.Statement (.storeDrain core idx) := rfl
theorem Fields.napExpire (grp tid : Nat) : Fields.Statement (.napExpire grp tid) := rfl
theorem Fields.pinLapse (idx : Nat) : Fields.Statement (.pinLapse idx) := rfl
theorem Fields.mmaComplete (core : Nat) : Fields.Statement (.mmaComplete core) := rfl
theorem Fields.mzeroComplete (core : Nat) : Fields.Statement (.mzeroComplete core) := rfl
theorem Fields.mldbComplete (core idx : Nat) : Fields.Statement (.mldbComplete core idx) := rfl
theorem Fields.mdrainComplete (core idx : Nat) : Fields.Statement (.mdrainComplete core idx) := rfl
theorem Fields.orderedSlotComplete (idx : Nat) : Fields.Statement (.orderedSlotComplete idx) := rfl
theorem Fields.copyStart (quad ch : Nat) : Fields.Statement (.copyStart quad ch) := rfl
theorem Fields.copyComplete (quad ch : Nat) : Fields.Statement (.copyComplete quad ch) := rfl
theorem Fields.followOnMma (quad ch : Nat) : Fields.Statement (.followOnMma quad ch) := rfl
theorem Fields.groupRetire (grp : Nat) : Fields.Statement (.groupRetire grp) := rfl
theorem Fields.placementReport (die : Nat) : Fields.Statement (.placementReport die) := rfl
theorem Fields.placeGang (kern gang quad : Nat) (cores : List Nat) : Fields.Statement (.placeGang kern gang quad cores) := rfl
theorem Fields.dependenceCheck (kern : Nat) : Fields.Statement (.dependenceCheck kern) := rfl
theorem Fields.preemptDecision (kern gang : Nat) : Fields.Statement (.preemptDecision kern gang) := rfl
theorem Fields.gangHalted (kern gang : Nat) : Fields.Statement (.gangHalted kern gang) := rfl
theorem Fields.gangSaved (kern gang : Nat) : Fields.Statement (.gangSaved kern gang) := rfl
theorem Fields.containmentDecision (ctx : Nat) : Fields.Statement (.containmentDecision ctx) := rfl
theorem Fields.create (w : Dword) : Fields.Statement (.create w) := rfl
theorem Fields.activate (w : Dword) : Fields.Statement (.activate w) := rfl
theorem Fields.quiesce (w : Dword) : Fields.Statement (.quiesce w) := rfl
theorem Fields.resume (w : Dword) : Fields.Statement (.resume w) := rfl
theorem Fields.destroy (w : Dword) : Fields.Statement (.destroy w) := rfl
theorem Fields.setrights (w : Dword) : Fields.Statement (.setrights w) := rfl
theorem Fields.teardownComplete (ctx : Nat) : Fields.Statement (.teardownComplete ctx) := rfl
theorem Fields.qslotMap (w : Dword) : Fields.Statement (.qslotMap w) := rfl
theorem Fields.qslotUnmap (w : Dword) : Fields.Statement (.qslotUnmap w) := rfl
theorem Fields.qslotReset (w : Dword) : Fields.Statement (.qslotReset w) := rfl
theorem Fields.qnotify (slot : Nat) : Fields.Statement (.qnotify slot) := rfl
theorem Fields.idleUnmap (slot : Nat) : Fields.Statement (.idleUnmap slot) := rfl
theorem Fields.nopPacket (slot : Nat) : Fields.Statement (.nopPacket slot) := rfl
theorem Fields.launchPacket (slot : Nat) : Fields.Statement (.launchPacket slot) := rfl
theorem Fields.waitmem (slot : Nat) : Fields.Statement (.waitmem slot) := rfl
theorem Fields.waitcmd (slot : Nat) : Fields.Statement (.waitcmd slot) := rfl
theorem Fields.signal (slot : Nat) : Fields.Statement (.signal slot) := rfl
theorem Fields.waitEvaluate (slot : Nat) : Fields.Statement (.waitEvaluate slot) := rfl
theorem Fields.waitTimeout (slot : Nat) : Fields.Statement (.waitTimeout slot) := rfl
theorem Fields.signalDone (slot : Nat) : Fields.Statement (.signalDone slot) := rfl
theorem Fields.tlbWalk (ctx : Nat) (va : Dword) : Fields.Statement (.tlbWalk ctx va) := rfl
theorem Fields.faultResolve (fseq : Nat) : Fields.Statement (.faultResolve fseq) := rfl
theorem Fields.refillComplete (ctx : Nat) (va : Dword) (frame : Nat) : Fields.Statement (.refillComplete ctx va frame) := rfl
theorem Fields.pageEviction (ctx : Nat) (va : Dword) : Fields.Statement (.pageEviction ctx va) := rfl
theorem Fields.pageWritebackComplete (ctx : Nat) (va : Dword) : Fields.Statement (.pageWritebackComplete ctx va) := rfl
theorem Fields.migrationComplete (ctx : Nat) (va : Dword) : Fields.Statement (.migrationComplete ctx va) := rfl
theorem Fields.counterHalving : Fields.Statement (.counterHalving) := rfl
theorem Fields.prefetchRequest : Fields.Statement (.prefetchRequest) := rfl
theorem Fields.uncorrectableError (line : Nat) : Fields.Statement (.uncorrectableError line) := rfl
theorem Fields.reqMap : Fields.Statement (.reqMap) := rfl
theorem Fields.reqUnmap : Fields.Statement (.reqUnmap) := rfl
theorem Fields.migrate : Fields.Statement (.migrate) := rfl
theorem Fields.pinpage : Fields.Statement (.pinpage) := rfl
theorem Fields.unpinpage : Fields.Statement (.unpinpage) := rfl
theorem Fields.protect : Fields.Statement (.protect) := rfl
theorem Fields.leaseExpiring (l : Nat) : Fields.Statement (.leaseExpiring l) := rfl
theorem Fields.leaseExpiry (l : Nat) : Fields.Statement (.leaseExpiry l) := rfl
theorem Fields.revocationDeadline (l : Nat) : Fields.Statement (.revocationDeadline l) := rfl
theorem Fields.nodeFailureTimeout (l : Nat) : Fields.Statement (.nodeFailureTimeout l) := rfl
theorem Fields.leaseRelease (l : Nat) : Fields.Statement (.leaseRelease l) := rfl
theorem Fields.reqrenewRepeat (l : Nat) : Fields.Statement (.reqrenewRepeat l) := rfl
theorem Fields.mailboxPoll : Fields.Statement (.mailboxPoll) := rfl
theorem Fields.grant : Fields.Statement (.grant) := rfl
theorem Fields.renew : Fields.Statement (.renew) := rfl
theorem Fields.revoke : Fields.Statement (.revoke) := rfl
theorem Fields.nodefail : Fields.Statement (.nodefail) := rfl
theorem Fields.replace : Fields.Statement (.replace) := rfl
theorem Fields.completionTimeout (l : Nat) : Fields.Statement (.completionTimeout l) := rfl
theorem Fields.bisnp (port : Nat) (addr : Dword) : Fields.Statement (.bisnp port addr) := rfl
theorem Fields.hdmRead (pa n : Nat) : Fields.Statement (.hdmRead pa n) := rfl
theorem Fields.hdmWrite (pa : Nat) (bytes : List Byte) : Fields.Statement (.hdmWrite pa bytes) := rfl
theorem Fields.hostSnoop (addr : Dword) : Fields.Statement (.hostSnoop addr) := rfl
theorem Fields.readRequest (die line : Nat) : Fields.Statement (.readRequest die line) := rfl
theorem Fields.ownershipRequest (die line : Nat) : Fields.Statement (.ownershipRequest die line) := rfl
theorem Fields.handoff (line : Nat) : Fields.Statement (.handoff line) := rfl
theorem Fields.dieEviction (die line : Nat) : Fields.Statement (.dieEviction die line) := rfl
theorem Fields.writebackGrant (line : Nat) : Fields.Statement (.writebackGrant line) := rfl
theorem Fields.mergeComplete (line : Nat) : Fields.Statement (.mergeComplete line) := rfl
theorem Fields.ptmExchange (offset : Int) : Fields.Statement (.ptmExchange offset) := rfl
theorem Fields.trainingComplete (port rate width : Nat) : Fields.Statement (.trainingComplete port rate width) := rfl
theorem Fields.trainingRetry (port : Nat) : Fields.Statement (.trainingRetry port) := rfl
theorem Fields.linkLoss (port : Nat) : Fields.Statement (.linkLoss port) := rfl
theorem Fields.integrityFailure (port : Nat) : Fields.Statement (.integrityFailure port) := rfl
theorem Fields.spdmRequest (setsKey : Bool) (port : Nat) : Fields.Statement (.spdmRequest setsKey port) := rfl
theorem Fields.retrain (w : Dword) : Fields.Statement (.retrain w) := rfl
theorem Fields.lowpower (w : Dword) : Fields.Statement (.lowpower w) := rfl
theorem Fields.wake (w : Dword) : Fields.Statement (.wake w) := rfl
theorem Fields.linkDisable (w : Dword) : Fields.Statement (.linkDisable w) := rfl
theorem Fields.linkEnable (w : Dword) : Fields.Statement (.linkEnable w) := rfl
theorem Fields.dieclk (w : Dword) : Fields.Statement (.dieclk w) := rfl
theorem Fields.quadout (w : Dword) : Fields.Statement (.quadout w) := rfl
theorem Fields.quadin (w : Dword) : Fields.Statement (.quadin w) := rfl
theorem Fields.quadgate (w : Dword) : Fields.Statement (.quadgate w) := rfl
theorem Fields.quadungate (w : Dword) : Fields.Statement (.quadungate w) := rfl
theorem Fields.hbmdown (w : Dword) : Fields.Statement (.hbmdown w) := rfl
theorem Fields.hbmup (w : Dword) : Fields.Statement (.hbmup w) := rfl
theorem Fields.fwload (w : Dword) : Fields.Statement (.fwload w) := rfl
theorem Fields.hbmRetrain (stack chan : Nat) : Fields.Statement (.hbmRetrain stack chan) := rfl
theorem Fields.trip (cause die : Nat) : Fields.Statement (.trip cause die) := rfl
theorem Fields.powerGood : Fields.Statement (.powerGood) := rfl
theorem Fields.warmReset : Fields.Statement (.warmReset) := rfl
theorem Fields.hbmTraining (failed : BitVec 8) : Fields.Statement (.hbmTraining failed) := rfl
theorem Fields.selfTest (failed : BitVec 96) : Fields.Statement (.selfTest failed) := rfl
theorem Fields.tripRead : Fields.Statement (.tripRead) := rfl
theorem Fields.linkstatRead (port : Nat) : Fields.Statement (.linkstatRead port) := rfl
theorem Fields.mbxcfgWrite (v : Dword) : Fields.Statement (.mbxcfgWrite v) := rfl
theorem Fields.sampcfgWrite (v : Dword) : Fields.Statement (.sampcfgWrite v) := rfl
theorem Fields.registerWrite (off size : Nat) (v : Dword) : Fields.Statement (.registerWrite off size v) := rfl
theorem Fields.hostHalt (w : Dword) : Fields.Statement (.hostHalt w) := rfl
theorem Fields.debugResume (w : Dword) : Fields.Statement (.debugResume w) := rfl
theorem Fields.debugRead (w : Dword) : Fields.Statement (.debugRead w) := rfl
theorem Fields.debugWrite (w : Dword) : Fields.Statement (.debugWrite w) := rfl
theorem Fields.setbp (w : Dword) : Fields.Statement (.setbp w) := rfl
theorem Fields.clrbp (w : Dword) : Fields.Statement (.clrbp w) := rfl
theorem Fields.setwp (w : Dword) : Fields.Statement (.setwp w) := rfl
theorem Fields.clrwp (w : Dword) : Fields.Statement (.clrwp w) := rfl
theorem Fields.trigcfg (w : Dword) : Fields.Statement (.trigcfg w) := rfl
theorem Fields.trial (w : Dword) : Fields.Statement (.trial w) := rfl
theorem Fields.sample (core : Nat) : Fields.Statement (.sample core) := rfl
theorem Fields.trialDelay (core stream : Nat) : Fields.Statement (.trialDelay core stream) := rfl
theorem Fields.renewwaitExpiry (fseq : Nat) : Fields.Statement (.renewwaitExpiry fseq) := rfl
theorem Fields.linkErrorRecovered (port : Nat) : Fields.Statement (.linkErrorRecovered port) := rfl
theorem Fields.invalidPacket (slot : Nat) : Fields.Statement (.invalidPacket slot) := rfl
theorem Fields.powerOff : Fields.Statement (.powerOff) := rfl

end Sys2Proof.Laws
end

