-- ==== Sys2Proof/Laws/Rounding.lean ====
section
/-! SUPPORT. The rounding state of a word's turn: mode, counter and rounding sequence read from the group and the thread alone. -/

namespace Sys2Proof.Laws

open Sys2Proof.Machine

@[simp] theorem roundMode_threads (g : Group) (ths : List Thread) (tid : Nat) (t : Thread) (f k : Nat) : Group.roundMode { g with threads := ths } tid t f k = g.roundMode tid t f k := rfl

@[simp] theorem stochastic_threads (g : Group) (ths : List Thread) (f : Nat) : Group.stochastic { g with threads := ths } f = g.stochastic f := rfl

/-- The counter of a stochastic rounding is the thread's number in the kernel beside its rounding sequence. -/
theorem counter_eq (e : Env) (t : Thread) (k : Nat) : e.counter t k = BitVec.ofNat 32 (e.grp.gidx * 1024 + e.tid) ++ (t.sq + BitVec.ofNat 32 k) := by
  unfold Env.counter
  apply BitVec.eq_of_toNat_eq
  rw [BitVec.toNat_append]
  have h := t.sq.isLt
  have e1 : (t.sq + BitVec.ofNat 32 k).toNat = (t.sq.toNat + k) % 2 ^ 32 := by simp [BitVec.toNat_add]
  rw [e1, BitVec.toNat_ofNat, BitVec.toNat_ofNat, ← Nat.shiftLeft_add_eq_or_of_lt (Nat.mod_lt _ (by norm_num))]
  apply Nat.mod_eq_of_lt
  rw [Nat.shiftLeft_eq]
  have a := Nat.mod_lt (e.grp.gidx * 1024 + e.tid) (show 0 < 2 ^ 32 by norm_num)
  have b := Nat.mod_lt (t.sq.toNat + k) (show 0 < 2 ^ 32 by norm_num)
  generalize (e.grp.gidx * 1024 + e.tid) % 2 ^ 32 = x at *
  generalize (t.sq.toNat + k) % 2 ^ 32 = y at *
  omega

theorem mode_eq (e : Env) (t : Thread) (f k : Nat) : e.mode t f k = e.grp.roundMode e.tid t f k := by
  unfold Env.mode Env.modeCode Group.roundMode
  rw [counter_eq] <;> rfl

theorem advance_eq (e : Env) (t : Thread) (f n : Nat) : e.advance t f n = { t with sq := t.sq + BitVec.ofNat 32 (if e.grp.stochastic f then n else 0) } := by
  unfold Env.advance Env.modeCode Group.stochastic
  by_cases h1 : (if f = 0 then e.grp.fpround.toNat else f - 1) = 4 <;> simp [h1]

end Sys2Proof.Laws
end

