-- ==== Sys2Proof/Tests/Slice0.lean ====
section
/-! SUPPORT. The model's own tests: ill-formed instructions refused, words of the spec decoded, one small step of a few instructions, and for every statement states and operands that meet its hypotheses. -/

open Sys2Proof Sys2Proof.Machine
namespace Sys2Proof.Tests

/-- Thread 0 of the group a placed word runs in. -/
def demoThread : Thread := { Thread.start 0 [] 0 with cond := .running }

/-- That group, its first thread `t`. -/
def demoGroup (t : Thread) (more : List Thread := []) : Group := { placedGroup with threads := t :: more }

/-- The issue of a word at address 0 to its one pack. -/
def demoIssue : Issue := { core := 0, stream := 0, grp := 0, pc := 0, pack := 0, lanes := [(0, 0)], word := 0 }

/-- Context 0 with one page of memory at virtual address 0, in frame 7. -/
def placed : State := { State.reset with hbm := placedTables, ctxs := [(0, { placedCtx with bindBase := 0x8000 })] }

/-- The same with bytes in that page, from its first on. -/
def filled (bs : List Byte) : State := { placed with hbm := placedTables.write 0x70000 bs }

/-- A small machine that is issuing an instruction to a group of one thread, on core 0; the rest of it is `b`, the rest of the core `c`. -/
def demoIn (b : State) (c : CoreSt) (i : Instr) (g : Group) : State :=
  { b with issue := some demoIssue, groups := [(0, g)], kernels := [(0, { placedKernel with desc := { placedDesc with cor := true } })], cores := [(0, { c with streams := [{ Stream.free with dispatch := some (placedDispatch (some i)) }, Stream.free] })] }

/-- The same over `placed`. -/
def demo (i : Instr) (g : Group) : State := demoIn placed CoreSt.empty i g

/-- The checks that make `IssuesOne` true of it. -/
def fitsIn (i : Instr) (t : Thread) : Bool :=
  let d := placedDispatch (some i)
  wordFault i 32 1 true d.handler == none && (!crossLane i || d.rowblk) && (!d.handler || !handlerEnds i) && decide (t.cond = .running) && decide (t.held = []) && decide (t.raised = []) && decide (t.late = none) && t.takes i && t.canPop (srcQueues i) && (srcRegs i).all (fun r => decide (r ∉ t.released)) && decide (d.acted = [])

/-- The same outside regions. -/
def fits (i : Instr) (t : Thread) : Bool := fitsIn i t && decide (t.region = none)

theorem demo_dispatch (b : State) (c : CoreSt) (i : Instr) (g : Group) : (demoIn b c i g).issuing demoIssue = some (placedDispatch (some i)) := rfl

theorem handling_demo (b : State) (c : CoreSt) (i : Instr) (g : Group) : (demoIn b c i g).handling demoIssue = (placedDispatch (some i)).handler := by
  unfold State.handling; rw [demo_dispatch]; rfl

theorem legal_demo {more : List Thread} {b : State} {c : CoreSt} {i : Instr} {t : Thread} (h : wordFault i 32 1 true (placedDispatch (some i)).handler = none) :
    wordFault i (demoGroup t more).frame (demoGroup t more).accs ((demoIn b c i (demoGroup t more)).corOf (demoGroup t more)) ((demoIn b c i (demoGroup t more)).handling demoIssue) = none := by
  rw [handling_demo]; exact h

theorem issuesOne_demo {more : List Thread} {b : State} {c : CoreSt} {i : Instr} {t : Thread} (h : fits i t = true) (hl : b.laneLimit = none) : (demoIn b c i (demoGroup t more)).IssuesOne demoIssue (demoGroup t more) i (0, 0) t := by
  simp only [fits, fitsIn, Bool.and_eq_true, Bool.or_eq_true, beq_iff_eq, decide_eq_true_eq, List.all_eq_true, Bool.not_eq_true'] at h
  obtain ⟨⟨⟨⟨⟨⟨⟨⟨⟨⟨⟨hw, hc⟩, he⟩, h1⟩, h3⟩, h4⟩, h5⟩, h6⟩, h7⟩, h8⟩, h9⟩, h2⟩ := h
  have hr : t.Ready i := ⟨h1, h2, h3, h4, h5, fun _ => h7⟩
  have hi : (demoIn b c i (demoGroup t more)).Issues demoIssue (demoGroup t more) i := by
    refine ⟨rfl, rfl, legal_demo hw, ?_, ?_, ?_, hl, by decide, ?_⟩
    · intro k; rw [demo_dispatch]; rcases hc with hc | hc
      · rw [hc] at k; cases k
      · exact hc
    · intro k; rw [handling_demo] at k; rcases he with he | he
      · rw [he] at k; cases k
      · exact he
    · rw [demo_dispatch]; exact h9
    · intro l hl
      simp only [demoIssue, List.mem_singleton] at hl
      subst hl
      exact ⟨t, rfl, hr⟩
  exact { hi with one := rfl, thread := rfl, takes := h6, live := h8 }

/-- The same for a thread in a region. -/
theorem issuesIn_demo {more : List Thread} {b : State} {c : CoreSt} {i : Instr} {t : Thread} {r : Region} (h : fitsIn i t = true) (hr : t.region = some r) (hl : b.laneLimit = none) : (demoIn b c i (demoGroup t more)).IssuesIn demoIssue (demoGroup t more) i (0, 0) t r := by
  simp only [fitsIn, Bool.and_eq_true, Bool.or_eq_true, beq_iff_eq, decide_eq_true_eq, List.all_eq_true, Bool.not_eq_true'] at h
  obtain ⟨⟨⟨⟨⟨⟨⟨⟨⟨⟨hw, hc⟩, he⟩, h1⟩, h3⟩, h4⟩, h5⟩, h6⟩, h7⟩, h8⟩, h9⟩ := h
  refine ⟨rfl, rfl, legal_demo hw, ?_, ?_, ?_, hl, rfl, rfl, h1, hr, h3, h4, h5, h6, h8⟩
  · intro k; rw [demo_dispatch]; rcases hc with hc | hc
    · rw [hc] at k; cases k
    · exact hc
  · intro k; rw [handling_demo] at k; rcases he with he | he
    · rw [he] at k; cases k
    · exact he
  · rw [demo_dispatch]; exact h9

/-- Words by their fields, guard p7, no lookahead and no marks. -/
def w0 (d a b : Nat) (ty : Ty) (x : Nat) : F0 := { d := BitVec.ofNat 11 d, a := BitVec.ofNat 11 a, b := BitVec.ofNat 11 b, g := { p := 7, neg := false }, la := 0, ma := false, mb := false, ty := ty, x := BitVec.ofNat 5 x }

def w1 (d a imm x : Nat) : F1 := { d := BitVec.ofNat 11 d, a := BitVec.ofNat 11 a, imm := BitVec.ofNat 16 imm, g := { p := 7, neg := false }, la := 0, ma := false, x := BitVec.ofNat 5 x }

def w2 (imm : Nat) : F2 := { d := 0, g := { p := 7, neg := false }, x := 0, imm := BitVec.ofNat 32 imm }

/-- Every word decodes, and the small machine issues it: the hypothesis of each statement about a word. -/
def issuable (ws : List Dword) : Bool := ws.all (fun w => match decode w with
  | .ok i => fits i demoThread
  | .error _ => false)

set_option maxRecDepth 100000

/-- NOP, BRA, JMP, CALL, CALLI, RET, EXIT, ROWBLK, YIELD, NAP, TRAP, BRK. -/
theorem issues_control : issuable [0x0000000000070000, 0x801001C00000000C, 0x0020000100070000, 0x803001C00000000C, 0x0040000100070000, 0x0050000000070000, 0x0060000000070000, 0x4070000000003800, 0x0080000000070000, 0x4090000000023800, 0x40A0000000023800, 0x00B0000000070000] = true := by decide

/-- ADD, ADDIMM, SUB, SUBIMM, ADDSAT, MUL, MULIMM, MULHI, MAD, MADW, MIN, MINIMM, MAX, MAXIMM, ABS, NEG, DOT4, ADD64, SUB64. -/
theorem issues_integer : issuable [0x0800100100170000, 0x4800100100023800, 0x0810100100170000, 0x4810100100023800, 0x0820100100170000, 0x0830100100170000, 0x4830100100023800, 0x0840100100170000, 0x0850100100170000, 0x0860100100170000, 0x0870100100170000, 0x4870100100023800, 0x0880100100170000, 0x4880100100023800, 0x0890100100070000, 0x08A0100100070000, 0x0A20100100170000, 0x0A30100100170040, 0x0A40100100170040] = true := by decide

/-- AND, ANDIMM, OR, ORIMM, XOR, XORIMM, ANDN, NOT, SHL, SHLIMM, SHR, SHRIMM, SAR, SARIMM, ROL, BFX, BFI, POPC, CLZ, BREV, PRMT, SHL64, SHR64. -/
theorem issues_bits : issuable [0x08B0100100170000, 0x48B0100100023800, 0x08C0100100170000, 0x48C0100100023800, 0x08D0100100170000, 0x48D0100100023800, 0x08E0100100170000, 0x08F0100100070000, 0x0900100100170000, 0x4900100100023800, 0x0910100100170000, 0x4910100100023800, 0x0920100100170000, 0x4920100100023800, 0x0930100100170000, 0x0940100100170000, 0x0950100100170000, 0x0960100100070000, 0x0970100100070000, 0x0980100100070000, 0x0990100100170000, 0x0A50100100170040, 0x0A60100100170040] = true := by decide

/-- SETP, SETPIMM, PLOP, SEL, MOV, PTOV, VTOP, LEA, LEAIMM, MOVI, MOVIW. -/
theorem issues_predicates_and_moves : issuable [0x09BC020100170000, 0x49BC020100023800, 0x09CC0380B01F0000, 0x09D0100100170000, 0x09E0100100070000, 0x0A00100000070000, 0x0A10000100070000, 0x09A0100100170000, 0x49A0100100023800, 0x89F011C00000000C, 0x89F011C10000000C] = true := by decide

/-- a pair. -/
theorem issues_pairs : issuable [0xC004008012120320] = true := by decide

/-- FADD, FSUB, FMUL, FFMA, FSCALE, FDOT2, FDIV, FSQRT, FMIN, FMAX, FAMAX, FSETP, FRND, FCLASS, FFREXP, FRCP, FRSQ, FEXP2, FLOG2, FSIN, FCOS, FTANH, FSIGM. -/
theorem issues_floating_point : issuable [0x10001001001700C0, 0x10101001001700C0, 0x10201001001700C0, 0x10301001001700C0, 0x11301001001700C0, 0x1150100100170100, 0x10B01001001700C0, 0x10A01001000700C0, 0x10401001001700C0, 0x10501001001700C0, 0x11601001001700C0, 0x106C0201001700C0, 0x10701001000700C0, 0x11201001000700C0, 0x11401001000700C0, 0x10801001000700C0, 0x10901001000700C0, 0x10C01001000700C0, 0x10D01001000700C0, 0x10E01001000700C0, 0x10F01001000700C0, 0x11001001000700C0, 0x11101001000700C0] = true := by decide

/-- CVT, CVTSR, PACK, UNPACK, QSCALE, QENC, QDEC. -/
theorem issues_conversions : issuable [0x1800100100170000, 0x18101001001700E0, 0x1820100100170080, 0x1830100100070080, 0x1860100100170180, 0x1840100100170180, 0x1850100100170180] = true := by decide

/-- VOTE, BALLOT, MATCHLANES, SHFL, REDL, SCANL. -/
theorem issues_cross_lane : issuable [0x1C0C038080070000, 0x1C10118080070000, 0x1C50100100070000, 0x1C20100100170000, 0x1C30100100070000, 0x1C40100100070000] = true := by decide

/-- LD, ST, LDQ, PREF, LTSET, LTGET, LDT, STT, TPREF, BIND, UNBIND, FENCE, CINV, CWB, PIN, UNPIN, SPMAP, SPUNMAP. -/
theorem issues_memory : issuable [0x6000100100023800, 0x6010100100023800, 0x602C100100023800, 0x6050000100023800, 0x208E060000070000, 0x209001C080070000, 0x203011C080070000, 0x204011C080070000, 0x206001C080070000, 0x20A0100100170000, 0x20B0000100070000, 0x2070000000070000, 0x20C0000100170000, 0x20D0000100170000, 0x20E0100100170000, 0x20F0000100170000, 0x2100100100170000, 0x2110000100070000] = true := by decide

/-- ATOM, CAS, RED, ENQ, DEQ. -/
theorem issues_atomics : issuable [0x2800100100170000, 0x2810100100170000, 0x2820000100670000, 0x2830100100170060, 0x2840100100170060] = true := by decide

/-- ABEGIN, ACOMMIT, AABORT. -/
theorem issues_regions : issuable [0x6850100000023801, 0x2860100000070000, 0x2870000000070000] = true := by decide

/-- BARRIVE, BSYNC, BWAIT, BEXPECT, BTEST, BTESTCUR. -/
theorem issues_barriers : issuable [0x2C00118800170000, 0x2C10018800170000, 0x2C20000100070000, 0x2C30018800170000, 0x2C4C020100070000, 0x2C40118800070001] = true := by decide

/-- MMA, MZERO, MRNG, MLDB, MDRAIN, CPY, CPYX, CPYWP, CPYSEQ, CPYSEQSTAT, CPYCAN. -/
theorem issues_matrix_and_copy : issuable [0x300C21C080070000, 0x301C200000070000, 0x3040000100070000, 0x302001C080070000, 0x303C21C080070000, 0x3050100000170000, 0x3060100000170000, 0x3070100000070000, 0x3080100000070000, 0x3080100000070004, 0x3090100000070000] = true := by decide

/-- PGSTAT, LEASEQ, LEASEQVA, PGHINT. -/
theorem issues_pages : issuable [0x3400100100070000, 0x3410100100070000, 0x3410100100070001, 0x3420000100170000] = true := by decide

/-- CSRR, CSRW. -/
theorem issues_status_registers : issuable [0x7800100000023800, 0x78100001000C3800] = true := by decide

/-- ENTER, LEAVE, MARK, TRIG, FRET, FREAD. -/
theorem issues_observation_and_handler : issuable [0x7820000000023800, 0x7830000000023800, 0x7840000000023800, 0x7890000000023800, 0x3870000100070000, 0x3880100000070000] = true := by decide

/-- LAUNCH, NOTIFY. -/
theorem issues_queues : issuable [0x3850100100170000, 0x3860000100070000] = true := by decide

theorem lanes_demo : (demoIssue.lanes.map (fun l => l.1)).Nodup ∧ ∀ l ∈ demoIssue.lanes, l.1 < 32 := by decide

/-- `ExactThenRoundedOnce`: 1.5 and 3. -/
theorem wit_exact : (Fmt.f32.decode 0x3FC00000).finite = true ∧ (Fmt.f32.decode 0x40400000).finite = true ∧ (Fmt.f32.decode 0x3FC00000).rat + (Fmt.f32.decode 0x40400000).rat ≠ 0 ∧ (Fmt.f32.decode 0x3FC00000).rat - (Fmt.f32.decode 0x40400000).rat ≠ 0
    ∧ (Fmt.f32.decode 0x3FC00000).rat * (Fmt.f32.decode 0x40400000).rat ≠ 0 ∧ (Fmt.f32.decode 0x3FC00000).rat ≠ 0 ∧ (Fmt.f32.decode 0x40400000).rat ≠ 0 ∧ (Fmt.f32.decode 0x3FC00000).rat * (Fmt.f32.decode 0x40400000).rat + (Fmt.f32.decode 0x40400000).rat ≠ 0 := by
  have h : Fmt.f32.decode 0x3FC00000 = .fin false 0xC00000 (-23) := by decide
  have k : Fmt.f32.decode 0x40400000 = .fin false 0xC00000 (-22) := by decide
  rw [h, k]; simp only [Val.finite, Val.rat]; norm_num

/-- `RoundingIsCorrect`: 1 / 3. -/
theorem wit_rounding : (roundQ .f32 .rtz false 1 3).flags &&& flOverflow = 0 ∧ (roundQ .f32 .rne false 1 3).flags &&& flOverflow = 0 := by decide

/-- `FloatValues`: finite operands, a quiet and a signalling NaN, a negative value. -/
theorem wit_values : (Fmt.f32.decode 0x3F800000).finite = true ∧ Fmt.f32.decode 0x7FC00000 = .nan false ∧ Fmt.f32.decode 0x7F800001 = .nan true ∧ Fmt.f32.ieee = true ∧ Fmt.f32.decode 0xBF800000 = .fin true 0x800000 (-23) := by decide

/-- `ControlWords`, `ControlFaults`: transfers to 0 and to 4, a stack of no, one and eight entries; the faults have no trigger and no handler. -/
theorem wit_control : fits (.jmp (w0 0 4 0 .i32 0)) demoThread = true ∧ (demoThread.sourcePair 4).toNat % 8 = 0 ∧ demoThread.ret.length < 8 ∧ fits (.ret (w0 0 0 0 .i32 0)) { demoThread with ret := [8] } = true
    ∧ (demo (.rowblk (w1 0 0 1 0)) (demoGroup demoThread)).issuing demoIssue = some (placedDispatch (some (.rowblk (w1 0 0 1 0)))) := by decide

theorem wit_control_faults : fits (.trap (w1 0 0 42 0)) demoThread = true ∧ fits (.brk (w0 0 0 0 .i32 0)) demoThread = true ∧ fits (.calli (w0 0 4 0 .i32 0)) { demoThread with v := [(4, 4)] } = true ∧ (({ demoThread with v := [(4, 4)] } : Thread).sourcePair 4).toNat % 8 ≠ 0
    ∧ fits (.call (w2 2)) { demoThread with ret := List.replicate 8 8 } = true ∧ ((demo (.call (w2 2)) (demoGroup { demoThread with ret := List.replicate 8 8 })).env demoIssue (demoGroup { demoThread with ret := List.replicate 8 8 }) (0, 0)).stackSize < 8 * (0 + 1)
    ∧ fits (.ret (w0 0 0 0 .i32 0)) demoThread = true ∧ demoThread.ret = [] ∧ demoThread.spill = 0 ∧ demoThread.inHandler = false := by decide

/-- A load and a store whose address is `a`, to the space `sp`. -/
def atAddr (a : Word) : Thread := { demoThread with v := [(4, a), (8, 0x12345678)] }

/-- `EffectiveAddress`, `LoadWord`, `StoreAndQueueLoad`, `MemoryFaults`: an address in the page, in each other space, and one that fails each check. -/
theorem wit_effective : 
    let eff (sp : Nat) (t : Thread) (w : Want) := ((demo (.ld (w1 8 4 0x40 4)) (demoGroup t)).env demoIssue (demoGroup t) (0, 0)).effective t sp 4 0x40 4 w 0 0
    eff 0 demoThread .load = .ok (.mem 0x40 0x70040, 0x40) ∧ eff 0 demoThread .store = .ok (.mem 0x40 0x70040, 0x40) ∧ eff 1 demoThread .load = .ok (.cell 0 0x40 false, 0x40) ∧ eff 2 demoThread .load = .ok (.cell 0 0x40 false, 0x40) ∧ eff 3 demoThread .load = .ok (.frame 0x40, 0x40)
    ∧ eff 0 (atAddr 1) .load = .error (.plain 0x05 0x41 0) ∧ eff 1 (atAddr 0x1000) .load = .error (.plain 0x06 0x1040 0) ∧ eff 0 { demoThread with v := [(5, 0x2000000)] } .load = .error (.plain 0x06 0x200000000000040 0)
    ∧ (match eff 0 (atAddr 0x10000) .load with
      | .error (.page va _ f) => decide (va = 0x10040 ∧ pagePath f.cause = true)
      | _ => false) = true := by decide

/-- A store of thread 0 in the queue, at the page's byte `va`. -/
def queued (va : Nat) (bs : List Byte) : WqEntry := { grp := 0, tid := 0, ctx := 0, va := va, phys := 0x70000 + va, bytes := bs, nibble := none }

/-- A core with stores in its queue and the page's first line in its L1. -/
def coreWith (wq : List WqEntry) (cached : Bool) : CoreSt := { CoreSt.empty with wq := wq, l1 := if cached then [{ ctx := 0, line := 0, bytes := [] }] else [] }

/-- A region of an exclusive attempt that tracks a line. -/
def heldRegion (line : Nat) : Region := { Region.start 0x100 0 true 0 with lines := [line] }

/-- Another thread that holds line 0 of the page by an exclusive attempt, and the lock that says so. -/
def holder : Thread := { demoThread with region := some (heldRegion (0x70000 / 128)) }

def heldBase : State := { placed with locks := [{ scope := 0, inst := 0, holder := some (0, 1), refused := [] }] }

/-- `LoadWord`: no queued store and the line there or not; one that covers, one that does not; and one held back by an exclusive attempt. -/
theorem wit_load : let i : Instr := .ld (w1 8 4 0 4)
    let mine (x : WqEntry) : Bool := x.grp == 0 && x.tid == 0 && x.overlaps 0x70000 4
    fits i demoThread = true ∧ placed.poisoned 0x70000 = false ∧ ((demoIn placed (coreWith [] true) i (demoGroup demoThread)).core 0).l1Find 0 0 ≠ none ∧ ((demo i (demoGroup demoThread)).core 0).l1Find 0 0 = none
    ∧ [queued 0 [1, 2, 3, 4]].filter mine = [queued 0 [1, 2, 3, 4]] ∧ [queued 0 [1, 2]].filter mine = [queued 0 [1, 2]] ∧ ((demoIn placed (coreWith [queued 0 [1, 2]] false) i (demoGroup demoThread)).drainWhere 0 mine).isSome = true
    ∧ ((demoIn heldBase (coreWith [queued 0 [1, 2]] false) i (demoGroup demoThread [holder])).drainWhere 0 mine).isNone = true := by decide

/-- `StoreAndQueueLoad`: each place, q0 with no entry and with four. -/
theorem wit_store : fits (.st (w1 8 4 0x40 4)) demoThread = true ∧ fits (.ldq (w1 0x608 4 0 4)) demoThread = true ∧ Operand.ofCode (BitVec.ofNat 11 0x608) = .q 0 ∧ (demoThread.queue 0).length < 4
    ∧ 4 ≤ (({ demoThread with q := [List.replicate 4 { value := 0, arrived := true, left := 0 }] } : Thread).queue 0).length
    ∧ (let e := (demo (.ldq (w1 0x608 4 0 4)) (demoGroup demoThread)).env demoIssue (demoGroup demoThread) (0, 0)
      e.meetsPoison (.mem 0 0x70000) 0 4 = false ∧ (e.read (.mem 0 0x70000) 0 4).isSome = true) := by decide

/-- A window of the group over the page's first 4,096 bytes, registered while its translation was `valid`. -/
def window (valid : Bool) : Window := { grp := 0, ctx := 0, base := 0, len := 4096, off := 0, valid := valid, gone := false }

/-- `LoadWord`, `StoreAndQueueLoad` at a window, with and without an L1 line kept from before it; a store there. -/
theorem wit_windowed : let e (i : Instr) (cached : Bool) : Env := (demoIn { placed with windows := [window true] } (coreWith [] cached) i (demoGroup demoThread)).env demoIssue (demoGroup demoThread) (0, 0)
    let l : Instr := .ld (w1 8 4 0x40 4)
    let t : Instr := .st (w1 8 4 0x40 4)
    fits l demoThread = true ∧ fits t demoThread = true ∧ (∀ c ∈ [true, false], (e l c).effective demoThread 0 4 0x40 4 .load 0 0 = .ok (.cell 0 0x40 true, 0x40) ∧ (((e l c).s.core 0).l1Find 0 0).isSome = c) ∧ (e t true).effective demoThread 0 4 0x40 4 .store 1 1 = .ok (.cell 0 0x40 true, 0x40) := by decide

/-- A layout entry: two dimensions, 4 elements by 1, of 16 bits, in the space `sp`, in the format `fmt`. -/
def layout (sp fmt : Nat) : BitVec 512 := BitVec.ofNat 512 (natOfBytes (bytesOfNat 0 8 ++ bytesOfNat (2 + sp * 8 + fmt * 32) 8 ++ bytesOfNat (4 + 2 ^ 32) 8 ++ bytesOfNat 0 16 ++ bytesOfNat 1 8))

/-- The page with that entry as entry 0 of the context's layout table. -/
def laid (sp fmt : Nat) : State := filled (bytesOfNat (layout sp fmt).toNat 64)

/-- `PrefetchAndCacheWords`: PREF past the address space, to a page and to none; TPREF at a valid and at an absent entry; FENCE, CINV and CWB with stores to perform and with stores held back. -/
theorem wit_prefetch : fits (.pref (w1 0 4 0 0)) demoThread = true ∧ 2 ^ 57 ≤ (({ demoThread with v := [(5, 0x2000000)] } : Thread).sourcePair 4 + 0).toNat ∧ placed.route 0 0 .load = .ok (.mem 0 0x70000) ∧ (match placed.route 0 0x10000 .load with
      | .error _ => true
      | .ok _ => false) = true
    ∧ fits (.tpref (w0 0 0x700 8 .i32 0)) demoThread = true ∧ (Lay.ofBits (layout 0 7)).valid = true ∧ (laid 0 7).layout 0 0 = .ok (layout 0 7) ∧ vnum 8 + 5 + (Lay.ofBits (layout 0 7)).rank ≤ 32 ∧ placed.layout 0 0 = .ok 0 ∧ (Lay.ofBits 0).rank = 0 := by decide

theorem wit_cache : let f : Instr := .fence (w0 0 0 0 .i32 3)
    let busy (i : Instr) : State := demoIn placed (coreWith [queued 0 [1]] true) i (demoGroup demoThread)
    let held (i : Instr) : State := demoIn heldBase (coreWith [queued 0 [1]] true) i (demoGroup demoThread [holder])
    fits f demoThread = true ∧ (busy f).pendingAt demoIssue = none ∧ ((busy f).drainThread 0 0 0).isSome = true ∧ ((held f).drainThread 0 0 0).isNone = true
    ∧ fits (.cinv (w0 0 4 2 .i32 0)) { demoThread with v := [(2, 128)] } = true ∧ fits (.cwb (w0 0 4 2 .i32 0)) { demoThread with v := [(2, 128)] } = true ∧ (busy f).windows = []
    ∧ ((busy f).drainWhere 0 (fun x => x.grp == 0 && x.tid == 0 && decide (x.va < 128) && decide (0 < x.va + x.bytes.length))).isSome = true ∧ ((held f).drainWhere 0 (fun x => x.grp == 0 && x.tid == 0 && decide (x.va < 128) && decide (0 < x.va + x.bytes.length))).isNone = true
    ∧ placed.translate 0 0 .load = .ok 0x70000 ∧ placed.walkCtx 0 0 = .leaf 0x62000 (2 * 2 ^ 60 + 2 ^ 56 + 2 ^ 55 + 2 ^ 54 + 7 * 65536) := by decide

/-- `PinAndWindowWords`: a length that is refused, the three other outcomes of PIN, a pin that lapses; the checks and the outcomes of SPMAP; SPUNMAP without a window, with one and with one that is invalid. -/
theorem wit_pins : fits (.pin (w0 8 4 2 .i32 0)) { demoThread with v := [(2, 128)] } = true ∧ fits (.unpin (w0 0 4 2 .i32 0)) demoThread = true ∧ placed.rangeFault 0 0 128 .load = none ∧ ((2 : Nat) ^ 20 < 2 ^ 20 + 1)
    ∧ 16 ≤ ((List.replicate 16 ({ grp := 0, ctx := 0, base := 0, len := 128, lapse := 5 } : Pin)).filter (fun p => p.grp == 0)).length ∧ 2 ^ 25 < ((List.replicate 32 ({ grp := 1, ctx := 0, base := 0, len := 2 ^ 20, lapse := 5 } : Pin)).map (fun p => p.len)).sum + 128 := by decide

theorem wit_windows : fits (.spmap (w0 8 4 2 .i32 0)) { demoThread with v := [(3, 4096)] } = true ∧ fits (.spunmap (w0 0 4 0 .i32 0)) demoThread = true ∧ placed.translate 0 0 .store = .ok 0x70000 ∧ 0 + 4096 ≤ 4096 * placedGroup.scratchUnits ∧ (4096 : Nat) % 4096 = 0
    ∧ (match placed.walkCtx 0 0 with
      | .leaf pa p => decide (pa = 0x62000 ∧ pteState p ∈ [2, 3, 4, 5])
      | .invalid _ => false) = true := by decide

/-- SPMAP with four windows, with one it meets, with none and with a store held back; SPUNMAP of a window of the group, its page there or gone; the lapse of a pin. -/
theorem wit_window_outcomes : let far (k : Nat) : Window := { window true with base := 4096 * (k + 8) }
    let s (ws : List Window) : State := { demoIn placed (coreWith [queued 0 [1]] true) (.spmap (w0 8 4 2 .i32 0)) (demoGroup { demoThread with v := [(3, 4096)] }) with windows := ws }
    4 ≤ ((s ((List.range 4).map far)).windows.filter (fun x => x.grp == 0)).length ∧ (∃ x ∈ (s [window true]).windows, x.ctx = 0 ∧ x.base < 0 + 4096 ∧ 0 < x.base + x.len) ∧ (((s []).markDirty 0 0).drainAll 0 0 4096).isSome = true
    ∧ (((demoIn heldBase (coreWith [queued 0 [1]] true) (.spmap (w0 8 4 2 .i32 0)) (demoGroup demoThread [holder])).markDirty 0 0).drainAll 0 0 4096).isNone = true
    ∧ (∀ v ∈ [true, false], (s [window v]).windows.find? (fun x => x.grp == 0 && x.base == 0) = some (window v)) ∧ (let u : State := s [window true]
      let gone : State := { u with hbm := u.hbm.write 0x62000 (bytesOfNat (2 ^ 60) 8) }
      (match gone.walkCtx 0 0 with
      | .leaf _ p => decide (pteState p ∈ [2, 3, 4, 5])
      | .invalid _ => false) = false ∧ gone.windows.find? (fun x => x.grp == 0 && x.base == 0) = some (window true))
    ∧ (let p : Pin := { grp := 0, ctx := 0, base := 0, len := 128, lapse := 0 }
      let t : State := { s [] with pins := [p] }
      t.pins[0]? = some p ∧ (t.group? p.grp).isSome = true ∧ p.lapse ≤ t.ns) := by decide

/-- `Translation`: an address that translates, one whose page is POOL, one held for UNMAP, and one with no table. -/
theorem wit_translation : let pool : State := { placed with hbm := placedTables.write 0x62000 (bytesOfNat (2 ^ 60 + 7 * 65536) 8) }
    let held : State := { placed with jobs := [{ ctx := 0, page := 0, op := .hold }] }
    placed.translate 0 5 .store = .ok 0x70005 ∧ (∀ x ∈ [(pool, 0x10), (held, 0x12)], (match x.1.translate 0 0 .load with
      | .error f => f.cause == x.2
      | .ok _ => false) = true)
    ∧ (match placed.translate 0 (2 ^ 56) .load with
      | .error f => f.cause == 0x10
      | .ok _ => false) = true := by decide

/-- `MemoryPaths`: a queued store, free and held; a page entry; a queue of stores to global memory. -/
theorem wit_paths : ((demoIn placed (coreWith [queued 0 [1]] true) (.nop (w0 0 0 0 .i32 0)) (demoGroup demoThread)).core 0).wq[0]? = some (queued 0 [1]) ∧ (queued 0 [1]).nibble = none ∧ ([queued 0 [1]].Pairwise (fun a b => decide (b.va = 0) = true → a.clash b = true → decide (a.va = 0) = true))
    ∧ (demoIn heldBase (coreWith [queued 0 [1]] true) (.nop (w0 0 0 0 .i32 0)) (demoGroup demoThread [holder])).lineHeld 0 (0x70000 / 128) (some (0, 0)) = true := by decide

/-- `AtomicOperations`: the types. -/
theorem wit_types : Ty.i32.wide = false ∧ Ty.n64.wide = true := by decide

/-- `AtomicWords`, `RingWords`: a place that passes its checks, no lock word bound, stores performed or held back; a ring of two entries, empty, full and between. -/
theorem wit_atomics : let i : Instr := .atom (w0 10 4 3 .n32 0)
    let e (b : State) (more : List Thread) : Env := (demoIn b (coreWith [queued 0 [1]] false) i (demoGroup demoThread more)).env demoIssue (demoGroup demoThread more) (0, 0)
    fits i demoThread = true ∧ fits (.cas (w0 28 16 3 .n32 0)) demoThread = true ∧ fits (.red (w0 0 4 12 .n32 0)) demoThread = true ∧ (e placed []).effective demoThread 0 4 0 4 .store 2 2 = .ok (.mem 0 0x70000, 0) ∧ (e placed []).lockRanges (w0 10 4 3 .n32 0) false 0 0 = .ok []
    ∧ placed.locPoisoned (.mem 0 0x70000) = false ∧ ((e placed []).atomStart (w0 10 4 3 .n32 0) false [] [(.mem 0 0x70000, 4)]).isSome = true ∧ ((e heldBase [holder]).atomStart (w0 10 4 3 .n32 0) false [] [(.mem 0 0x70000, 4)]).isNone = true := by decide

/-- A ring control block at the page's first byte. -/
def ring (tail head : Nat) : State := filled (bytesOfNat tail 8 ++ bytesOfNat head 8 ++ bytesOfNat 0x100 8 ++ bytesOfNat 1 8)

theorem wit_rings : let w := w0 24 12 3 .n64 0
    let e (t h : Nat) : Env := (demoIn (ring t h) CoreSt.empty (.deq w) (demoGroup demoThread)).env demoIssue (demoGroup demoThread) (0, 0)
    fits (.deq w) demoThread = true ∧ fits (.enq (w0 27 12 3 .n64 0)) demoThread = true ∧ (e 0 0).global demoThread 0 64 .store 2 2 = .ok (.mem 0 0x70000) ∧ (e 0 0).lockRanges w false 0 0 = .ok [] ∧ ((e 1 0).atomStart w false [] [(.mem 0 0x70000, 64)]).isSome = true
    ∧ (ring 1 0).currentBytes (.mem 0 0x70000) 64 = bytesOfNat 1 8 ++ bytesOfNat 0 8 ++ bytesOfNat 0x100 8 ++ bytesOfNat 1 8 ++ List.replicate 32 0 ∧ (2 + 2 ^ 64 - 0) % 2 ^ 64 = 2 ^ 1 ∧ (1 + 2 ^ 64 - 0) % 2 ^ 64 ≠ 2 ^ 1
    ∧ (ring 1 0).route 0 (0x100 + 8 * (1 % 2 ^ 1)) .store = .ok (.mem 0x108 0x70108) ∧ (ring 1 0).route 0 0x100 .load = .ok (.mem 0x100 0x70100) ∧ (e 1 0).watch demoThread 0x108 8 2 = none := by decide

/-- A barrier with one member. -/
def bar1 : Barrier := { placedBarrier with members := 1 }

/-- `BarrierPhases`: an arrival that is refused for each reason, one that flips with and without overflow, one of two; a flip that wakes a blocked thread. -/
theorem wit_phases : ({ bar1 with members := 2 } : Barrier).refusal 0 = some 2 ∧ ({ bar1 with members := 2, arrivals := 1, count := 1 } : Barrier).refusal 2 = some 3 ∧ ({ bar1 with members := 2, arrivals := 1, count := 2 } : Barrier).refusal 1 = some 1
    ∧ bar1.refusal 1 = none ∧ bar1.arrivals + 1 = 1 ∧ bar1.expBytes ≤ bar1.arrBytes ∧ ({ bar1 with members := 2 } : Barrier).refusal 2 = none ∧ (demo (.nop (w0 0 0 0 .i32 0)) (demoGroup { demoThread with cond := .blocked .barrier, token := some 0x621 })).group? 0 = some (demoGroup { demoThread with cond := .blocked .barrier, token := some 0x621 })
    ∧ (demoGroup { demoThread with cond := .blocked .barrier, token := some 0x621 }).fpPending = none ∧ (demo (.nop (w0 0 0 0 .i32 0)) (demoGroup demoThread)).pendingAt demoIssue = none ∧ ({ demoGroup demoThread with resident := false } : Group).resident = false := by decide

/-- `BarrierArrivals`, `BarrierWaits`: one arrival of one and of two, a refused one; bytes that fit and that do not; tokens that are open, passed, passed with overflow. -/
theorem wit_barriers : let g := demoGroup { demoThread with v := [(2, 1), (4, 0x621)] }
    let i : Instr := .barrive (w0 8 0x621 2 .i32 0)
    let e := (demo i g).env demoIssue g (0, 0)
    fits i { demoThread with v := [(2, 1)] } = true ∧ fits (.bsync (w0 0 0x621 2 .i32 0)) { demoThread with v := [(2, 1)] } = true ∧ fits (.bexpect (w0 0 0x621 2 .i32 0)) { demoThread with v := [(2, 1)] } = true ∧ fits (.btestCur (w0 8 0x621 0 .i32 1)) demoThread = true
    ∧ fits (.bwait (w0 0 4 0 .i32 0)) { demoThread with v := [(4, 0x621)] } = true ∧ fits (.btest (w0 0x601 4 0 .i32 0)) { demoThread with v := [(4, 0x621)] } = true
    ∧ (demo i g).bar? (g.owner 0) 0x621 = some placedBarrier ∧ e.barRanges 0x621 = .ok [] ∧ ((demo i g).release 0 0 0 []).isSome = true ∧ placedBarrier.refusal 1 = none ∧ placedBarrier.refusal 5 = some 2 ∧ (placedBarrier.arrive 1).2 = some false ∧ (({ placedBarrier with members := 2 } : Barrier).arrive 2).2 = none
    ∧ (0x621 : Nat) % 2 ^ 11 ∈ (List.range 24).map (fun n => 0x620 + n) ∧ (0x621 : Nat) / 2 ^ 11 % 2 ^ 5 = 0 ∧ (demo i g).pendingAt demoIssue = none := by decide

/-- The distance of a token: 0, and 1 after one flip, with and without overflow; bytes past 2^32. -/
theorem wit_tokens : let d (b : Barrier) (k : Word) : Nat := (b.phase.toNat % 65536 + 65536 - k.toNat / 65536) % 65536
    d placedBarrier 0x621 = 0 ∧ d { placedBarrier with phase := 1 } 0x621 = 1 ∧ d { placedBarrier with phase := 1, lastOvf := true } 0x621 = 1 ∧ 2 ^ 32 ≤ ({ placedBarrier with expBytes := 0xFFFFFFFF } : Barrier).expBytes.toNat + (1 : Word).toNat := by decide

/-- `FpExceptions`: a FENCE and a BWAIT with an exception pending. -/
theorem wit_fp : let g : Group := { demoGroup { demoThread with v := [(4, 0x621)] } with fpPending := some (0x80, 0), gb := List.replicate 16 { placedBarrier with phase := 1 } }
    let later (s : State) : State := { s with dies := List.replicate 8 { Die.reset with clock := 1 } }
    let e := (later (demo (.bwait (w0 0 4 0 .i32 0)) g)).env demoIssue g (0, 0)
    (later (demo (.bwait (w0 0 4 0 .i32 0)) g)).pendingAt demoIssue = some 0x80 ∧ e.readToken 0x621 = some ({ placedBarrier with phase := 1 }, 1) ∧ e.barRanges 0x621 = .ok [] ∧ ((demo (.fence (w0 0 0 0 .i32 3)) g).drainThread 0 0 0).isSome = true := by decide

/-- A region that tracks nothing. -/
def plainRegion : Region := { Region.start 0x100 0 false 0 with count := 1 }

/-- A thread in a region. -/
def inRegion (r : Region) : Thread := { demoThread with region := some r }

/-- `RegionBeginsAndAborts`: a new ABEGIN, and one at COUNT 8 whose lock is free or another's; a region with no abort and with each cause of one. -/
theorem wit_regions : let i : Instr := .abegin (w1 8 0 10 3)
    fits i demoThread = true ∧ demoThread.lastAbegin ≠ some 0 ∧ (({ demoThread with lastAbegin := some 0, acause := 0x40 } : Thread).acause.toNat / 8 % 16 = 8) ∧ (placed.lockGrant 3 0 (0, 0)).2 = true ∧ (({ placed with locks := [{ scope := 3, inst := 0, holder := some (1, 0), refused := [] }] } : State).lockGrant 3 0 (0, 0)).2 = false
    ∧ fits (.acommit (w0 8 0 0 .i32 0)) demoThread = true ∧ fits (.aabort (w0 0 4 0 .i32 1)) demoThread = true
    ∧ regionForbids (.fence (w0 0 0 0 .i32 3)) = true ∧ fitsIn (.fence (w0 0 0 0 .i32 3)) (inRegion plainRegion) = true ∧ regionForbids (.add (w0 8 4 2 .i32 0)) = false ∧ srcQueues (.add (w0 8 4 2 .i32 0)) = [] ∧ fitsIn (.add (w0 8 4 2 .i32 0)) (inRegion plainRegion) = true
    ∧ ({ plainRegion with chkV := (List.range 16).map (fun n => (n + 10, 0)) } : Region).room (dstRegs (.add (w0 8 4 2 .i32 0))) = false ∧ (plainRegion.chkV.map (fun e => e.1)).Nodup ∧ (inRegion plainRegion).tag 4 = none := by decide

/-- The issue of a word to a thread in a region. -/
theorem wit_in_region : (demo (.add (w0 8 4 2 .i32 0)) (demoGroup (inRegion plainRegion))).IssuesIn demoIssue (demoGroup (inRegion plainRegion)) (.add (w0 8 4 2 .i32 0)) (0, 0) (inRegion plainRegion) plainRegion := issuesIn_demo (by decide) rfl rfl

/-- A region that has read the word at 0 and holds its symbol in v4. -/
def readRegion : Region := { plainRegion with depth := 1, lines := [0x70000 / 128], words := [{ addr := 0, value := 0, symbolic := true }], tags := [(4, 0, 1)] }

/-- `RegionTracking`: a load of a word not read, a sum of a tagged register, a store. -/
theorem wit_tracking : let e (i : Instr) (r : Region) : Env := (demo i (demoGroup (inRegion r))).env demoIssue (demoGroup (inRegion r)) (0, 0)
    fitsIn (.ld (w1 8 4 0 4)) (inRegion plainRegion) = true ∧ (e (.ld (w1 8 4 0 4)) plainRegion).effective (inRegion plainRegion) 0 4 0 4 .load 5 0 = .ok (.mem 0 0x70000, 0) ∧ plainRegion.room (dstRegs (.ld (w1 8 4 0 4))) = true ∧ plainRegion.lines.length < 8 ∧ plainRegion.stores = [] ∧ plainRegion.words = [] ∧ plainRegion.tags.length < 16
    ∧ fitsIn (.add (w0 8 4 2 .i32 0)) (inRegion readRegion) = true ∧ (inRegion readRegion).tag 4 = some (0, 1) ∧ (inRegion readRegion).tag 2 = none ∧ (∃ k ∈ readRegion.words, k.addr = 0 ∧ k.symbolic = true) ∧ Operand.ofCode (BitVec.ofNat 11 4) = .v 4
    ∧ fitsIn (.st (w1 8 6 0 4)) (inRegion readRegion) = true ∧ (e (.st (w1 8 6 0 4)) readRegion).effective (inRegion readRegion) 0 6 0 4 .store 1 1 = .ok (.mem 0 0x70000, 0) := by decide

/-- A region whose ACOMMIT has asked the conservator; `old` is the value its word was read at, symbolic or not. -/
def askedRegion (old : Word) (sym : Bool) (want : Bool) : Region :=
  { readRegion with words := [{ addr := 0, value := old, symbolic := sym }], tags := [], cons := if sym then [{ cond := 0, signed := false, a := .sym 0 0, b := .conc 0, outcome := want }] else [], stores := [{ addr := 4, size := 4, data := 7, sym := none }], commit := some (8, 0) }

/-- `RegionCommits`: an ACOMMIT that asks, one that is decided; at the conservator a conflict, a broken constraint and a commit, and a line that an exclusive attempt holds. -/
theorem wit_commits : let s (r : Region) : State := demo (.nop (w0 0 0 0 .i32 0)) (demoGroup (inRegion r))
    fitsIn (.acommit (w0 8 0 0 .i32 0)) (inRegion readRegion) = true ∧ readRegion.room (dstRegs (.acommit (w0 8 0 0 .i32 0))) = true ∧ readRegion.depth = 1 ∧ readRegion.decided = none ∧ ((s readRegion).regionPlaces 0 readRegion).toOption.isSome = true ∧ ((s readRegion).regionRanges 0 readRegion).toOption.isSome = true
    ∧ ({ readRegion with decided := some true } : Region).decided = some true ∧ (readRegion.tags.map (fun e => e.1)).Nodup
    ∧ (∀ r ∈ [askedRegion 1 false true, askedRegion 0 true false, askedRegion 0 true true], ((s r).regionPlaces 0 r).toOption = some ([((r.words.headD { addr := 0, value := 0, symbolic := false }), .mem 0 0x70000)], [(r.stores.headD { addr := 0, size := 0, data := 0, sym := none }, .mem 4 0x70004)]) ∧ ((s r).regionRanges 0 r).toOption = some [] ∧ (s r).locHeld 0 (.mem 4 0x70004) (some (0, 0)) = false
      ∧ (((s r).widenBound 0 0 []).drainAt 0 (fun x => if x.grp == 0 && x.tid == 0 then (if r.lines.contains (x.phys / 128) then some 4 else x.boundScope []) else none)).isSome = true ∧ (s r).commitsLater (demoGroup (inRegion r)) 0 = false)
    ∧ (demoIn heldBase CoreSt.empty (.nop (w0 0 0 0 .i32 0)) (demoGroup (inRegion (askedRegion 0 true true)) [holder])).locHeld 0 (.mem 4 0x70004) (some (0, 0)) = true := by decide

/-- `LayoutEntries`: a valid entry, and one that fails a test; an element in bounds and one OUT. -/
theorem wit_layouts : (Lay.ofBits (layout 1 7)).ext.length = 5 ∧ (Lay.ofBits (layout 1 7)).stride.length = 5 ∧ (Lay.ofBits (layout 1 7)).valid = true ∧ (Lay.ofBits (layout 3 7)).valid = false ∧ (Lay.ofBits (layout 1 7)).elemLoc [3, 0, 0, 0, 0] 0 ≠ none ∧ (Lay.ofBits (layout 1 7)).elemLoc [3, 0, 0, 0, 0] 1 = none
    ∧ (Lay.ofBits (layout 1 7)).swz 0x380 = 0x380 ∧ ({ Lay.ofBits (layout 1 7) with swzBits := 3 } : Lay).swz 0x380 = 0x3F0 ∧ ({ Lay.ofBits (layout 1 7) with swzBits := 3, space := 2 } : Lay).swz 0x2000380 = 0x20003F0 := by decide

/-- A thread whose registers from v0 on are the words of a layout entry. -/
def entryThread (x : BitVec 512) : Thread := { demoThread with v := (List.range 16).filterMap (fun k => if x.extractLsb' (32 * k) 32 = 0 then none else some (k, x.extractLsb' (32 * k) 32)) }

/-- `TableWords`, LTSET and LTGET: an entry of zeros, a valid one, one that is not. -/
theorem wit_ltset : fits (.ltset (w0 0x703 0 0 .i32 0)) demoThread = true ∧ fits (.ltget (w0 0 0x702 0 .i32 0)) demoThread = true ∧ Operand.ofCode (BitVec.ofNat 11 0x703) = .lt 3 ∧ placed.route 0 192 .store = .ok (.mem 192 0x700C0) ∧ placed.route 0 192 .load = .ok (.mem 192 0x700C0)
    ∧ (BitVec.ofNat 512 (natOfBytes ((List.range 16).flatMap (fun k => bytesOfNat ((entryThread (layout 1 7)).v.get (0 + k)).toNat 4))) : BitVec 512) = layout 1 7 ∧ (Lay.ofBits (layout 1 7)).valid = true ∧ layout 3 7 ≠ 0 ∧ (Lay.ofBits (layout 3 7)).valid = false := by decide

/-- A binding table with every entry in use, at the context's BINDBASE. -/
def fullTable : State := { placed with hbm := placedTables ++ (List.range 256).map (fun k => (0x78000 + 32 * k + 0x18, 1)) }

/-- `TableWords`, BIND and UNBIND: an empty table and a full one; a range that is sound and one that is not. -/
theorem wit_bind : fits (.bind (w0 8 4 2 .i32 0)) { demoThread with v := [(6, 128)] } = true ∧ fits (.unbind (w0 0 4 0 .i32 0)) demoThread = true ∧ placed.route 0 0x8000 .load = .ok (.mem 0x8000 0x78000) ∧ placed.route 0 0x8000 .store = .ok (.mem 0x8000 0x78000)
    ∧ (placed.hbm.get (0x78000 + 0x18)).toNat % 4 = 0 ∧ placed.route 0 0x8018 .store = .ok (.mem 0x8018 0x78018) ∧ (128 : Word).toNat % 128 = 0 ∧ (∀ k, k < 256 → (fullTable.hbm.get (0x78000 + 32 * k + 0x18)).toNat % 4 ≠ 0) := by decide

/-- `TensorWords`: a view of the scratchpad, part of it OUT, and a layout that is not valid. -/
theorem wit_tensor : let e (i : Instr) : Env := (demoIn (laid 1 7) CoreSt.empty i (demoGroup demoThread)).env demoIssue (demoGroup demoThread) (0, 0)
    fits (.ldt (w0 8 0x700 0 .i32 2)) demoThread = true ∧ fits (.stt (w0 8 0x700 0 .i32 2)) demoThread = true ∧ (e (.ldt (w0 8 0x700 0 .i32 2))).s.layout 0 0 = .ok (layout 1 7) ∧ vnum 0 + 0 + (Lay.ofBits (layout 1 7)).rank ≤ 32
    ∧ (match (e (.ldt (w0 8 0x700 0 .i32 2))).tensor demoThread (w0 8 0x700 0 .i32 2) .load 0 with
      | .ok (lay, u, locs) => decide (lay.space = 1) && locs.all (fun z => (z.map (fun x => !(e (.ldt (w0 8 0x700 0 .i32 2))).s.locPoisoned x.2 && (match x.2 with
        | .cell _ _ _ => true
        | _ => false))).getD true) && ((e (.ldt (w0 8 0x700 0 .i32 2))).loadUnits u locs 0 (e (.ldt (w0 8 0x700 0 .i32 2))).s 0).isSome
      | .error _ => false) = true
    ∧ (e (.stt (w0 8 0x700 0 .i32 2))).tensor demoThread (w0 8 0x700 0 .i32 2) .store 1 ≠ .error (.plain 0 0 0)
    ∧ (match ((demo (.ldt (w0 8 0x700 0 .i32 2)) (demoGroup demoThread)).env demoIssue (demoGroup demoThread) (0, 0)).tensor demoThread (w0 8 0x700 0 .i32 2) .load 0 with
      | .error (.plain c _ _) => c == 7
      | _ => false) = true := by decide

/-- `MatrixSubmission`: layouts that pass every check, an empty queue, a queue of 16, and one with a command at its head. -/
theorem wit_submission : let e (sp fmt : Nat) (i : Instr) : Env := (demoIn (laid sp fmt) CoreSt.empty i (demoGroup demoThread)).env demoIssue (demoGroup demoThread) (0, 0)
    let m := w0 0x610 0x700 0 .i32 0
    let lay := Lay.ofBits (layout 1 7)
    let dst := Lay.ofBits (layout 1 6)
    let row (i : Nat) : List Nat := [0, i, 0, 0, 0]
    fits (.mma m) demoThread = true ∧ fits (.mzero (w0 0x610 0 0 .i32 0)) demoThread = true ∧ fits (.mrng (w0 0 4 0 .i32 0)) demoThread = true ∧ fits (.mldb (w0 0 0x700 0 .i32 0)) demoThread = true ∧ fits (.mdrain m) demoThread = true
    ∧ (e 1 7 (.mma m)).s.layout 0 0 = .ok (layout 1 7) ∧ (e 1 7 (.mma m)).mmaCheck 0 lay [0, 0, 0, 0, 0] 0 = none ∧ (e 1 7 (.mma m)).s.followWaits 0 = false ∧ (e 1 7 (.mma m)).barNameable 0 = true
    ∧ lay.rank ≠ 0 ∧ lay.valid = true ∧ (∀ i, i < 64 → (lay.rowFmt? (row i)).getD 7 = 7) ∧ (e 1 7 (.mldb (w0 0 0x700 0 .i32 0))).checkUnits lay (lay.tileUnits [0, 0, 0, 0, 0] 64 32) .load 0 = none
    ∧ dst.rank ≠ 0 ∧ dst.valid = true ∧ (∀ i, i < 64 → (dst.rowFmt? (row i)).getD 6 = 6) ∧ (e 1 6 (.mdrain m)).checkUnits dst (dst.tileUnits [0, 0, 0, 0, 0] 64 64) .store 1 = none := by decide

/-- An engine command of the group. -/
def command (k : EngKind) (fmt : Nat) (ctl : Word) : EngCmd := { (((demo (.nop (w0 0 0 0 .i32 0)) (demoGroup demoThread)).env demoIssue (demoGroup demoThread) (0, 0)).engCmd k 0) with entry := layout 1 fmt, coords := [0, 0, 0, 0, 0], ctl := ctl }

/-- `MatrixProduct`, `MatrixCompletes`: commands whose operands are read, a load before and after them, a full queue for the follow-on. -/
theorem wit_matrix : let s : State := demo (.nop (w0 0 0 0 .i32 0)) (demoGroup demoThread)
    let c := command .mma 7 0
    let k := command .mldb 7 7
    pairOf (mcwPair c.mcw) = some (7, 7, 32) ∧ c.wait = none ∧ c.lost = false ∧ (s.mmaRun c (demoGroup demoThread)).toOption.isSome = true ∧ (s.mldbRun k (demoGroup demoThread)).toOption.isSome = true ∧ k.ctl.toNat % 16 ∈ [0, 1, 7, 8, 9, 10, 11, 13, 14]
    ∧ (∀ i, i < 128 → ((Lay.ofBits k.entry).rowFmt? (rowCoords k.at_ i)).getD 7 = 7) ∧ s.group? c.grp = some (demoGroup demoThread) ∧ (demoGroup demoThread).killed = none ∧ (List.replicate 4096 (0 : Byte)).length = 4096
    ∧ (Val.fin false 1 0).finite = true := by decide

/-- `DrainCompletes`: a drain to the scratchpad, a tile of FP32, a contribution. -/
theorem wit_drain : let s : State := demo (.nop (w0 0 0 0 .i32 0)) (demoGroup demoThread)
    let c := command .mdrain 6 0
    c.ctl.toNat / 16 % 4 ≠ 2 ∧ (s.drainRun s c (demoGroup demoThread)).toOption.isSome = true ∧ (∀ i, i < 64 → ((Lay.ofBits c.entry).rowFmt? (rowCoords c.at_ i)).getD 6 = 6) ∧ (s.drainVals c (demoGroup demoThread)).toOption.isSome = true
    ∧ (s.engCanPut 0 0 (demoGroup demoThread) 1 [{ addr := 0, bit := 0, width := 32 }]).toOption = some true ∧ (BitVec.ofNat 32 (2 * 16 + 1024) : Word).toNat / 16 % 4 = 2 ∧ s.oslots = [] := by decide

/-- A copy block of one element, from entry 0 to entry 0. -/
def copyBlock : BitVec 512 := BitVec.ofNat 512 (natOfBytes (bytesOfNat 0x10000 48 ++ bytesOfNat 1 4))

/-- Its command, started or not. -/
def copy (started : Bool) : CopyCmd := { grp := 0, kern := 0, gang := 0, tid := 0, pc := 0, seq := 0, block := copyBlock, src := layout 1 7, dst := layout 1 7, mcw := 0, convert := false, started := started, written := 0, wait := none, lost := false, flags := 0 }

/-- `CopyWords`, `CopyProgress`: a block that passes its checks and one with RANK 0; an element moved. -/
theorem wit_copy : let w := w0 8 0 2 .i32 0
    let e : Env := (demoIn (laid 1 7) CoreSt.empty (.cpy w) (demoGroup (entryThread copyBlock))).env demoIssue (demoGroup (entryThread copyBlock)) (0, 0)
    fits (.cpy w) (entryThread copyBlock) = true ∧ fits (.cpyx w) (entryThread copyBlock) = true ∧ fits (.cpywp (w0 8 0 0 .i32 0)) demoThread = true ∧ fits (.cpyseq (w0 8 0 0 .i32 0)) demoThread = true ∧ fits (.cpyseqStat (w0 8 0 0 .i32 4)) demoThread = true ∧ fits (.cpycan (w0 8 0 0 .i32 0)) demoThread = true
    ∧ (Blk.ofBits copyBlock).follow = false ∧ (Blk.ofBits copyBlock).rank = 1 ∧ (BitVec.ofNat 512 (natOfBytes ((List.range 16).flatMap (fun k => bytesOfNat ((entryThread copyBlock).v.get (0 + k)).toNat 4))) : BitVec 512) = copyBlock ∧ e.s.layout 0 0 = .ok (layout 1 7)
    ∧ e.copyCheck (Blk.ofBits copyBlock) false 0 (Lay.ofBits (layout 1 7)) (Lay.ofBits (layout 1 7)) = none ∧ (e.s.drainThread 0 0 0).isSome = true ∧ (Blk.ofBits 0).rank = 0 := by decide

theorem wit_copy_progress : let s : State := demo (.nop (w0 0 0 0 .i32 0)) (demoGroup demoThread)
    let c := copy true
    let r := s.copyRun 0 c (demoGroup demoThread) c.count
    c.written ≤ c.count ∧ c.count ≤ 2 ^ 24 ∧ r.err = none ∧ r.held = false ∧ r.pos = c.count ∧ (Blk.ofBits c.block).bar = 0 ∧ r.flags = 0 ∧ (copy false).started = false := by decide

/-- `PageWords`: a mapped page and an address with no table; addresses at the end of the space; a range that holds a page and one that holds none. -/
theorem wit_pages : fits (.pgstat (w0 8 4 0 .i32 0)) demoThread = true ∧ fits (.leaseq (w0 8 4 0 .i32 0)) demoThread = true ∧ fits (.leaseqVa (w0 8 4 0 .i32 1)) demoThread = true ∧ fits (.pghint (w0 0 4 2 .i32 0)) { demoThread with v := [(2, 65536)] } = true
    ∧ (match placed.walkCtx 0 0 with
      | .leaf _ p => p.toNat / 2 ^ 60 == 2
      | _ => false) = true ∧ (match placed.walkCtx 0 (2 ^ 56) with
      | .invalid _ => true
      | _ => false) = true
    ∧ 2 ^ 57 ≤ (({ demoThread with v := [(5, 0x2000000)] } : Thread).sourcePair 4).toNat ∧ (placed.lease 5).state < 8 ∧ placed.leases = [] ∧ (65536 ≤ (65536 : Nat) ∧ (65536 : Nat) < 131072) ∧ (0 + 100) / 65536 ≤ (0 + 65535) / 65536 := by decide

/-- `StatusRegisters`: every write, and a reserved rounding mode. -/
theorem wit_csr : (∀ n ∈ [0x030, 0x031, 0x032, 0x041, 0x052], fits (.csrw (w1 0 4 n 0)) demoThread = true) ∧ (0 : Word).toNat % 8 ≤ 4 ∧ 4 < (5 : Word).toNat % 8 ∧ (∀ n ∈ [0x000, 0x013, 0x020, 0x070], fits (.csrr (w1 8 0 n 0)) demoThread = true) := by decide

/-- `TraceWords`: an empty region stack, no trigger, and a thread to halt precisely. -/
theorem wit_trace : let s (i : Instr) : State := demo i (demoGroup demoThread)
    fits (.enter (w1 0 0 5 0)) demoThread = true ∧ fits (.leave (w1 0 0 5 0)) demoThread = true ∧ fits (.mark (w1 0 0 5 0)) demoThread = true ∧ fits (.trig (w1 0 0 5 0)) demoThread = true ∧ demoThread.stack.length = min demoThread.depth.toNat 8 ∧ demoThread.preciseHalt = false
    ∧ ((s (.mark (w1 0 0 5 0))).ctx 0).trace = false ∧ fits (.enter (w1 0 0 5 0)) { demoThread with preciseHalt := true } = true := by decide

/-- A record of a fault, and the activation it is handled in. -/
def someRecord : FaultRec := { kseq := 1, route := 2, ctx := 0, cls := 1, cause := 0x16, noThread := false, count := 1, first := 0, gidx := 0, instAddr := 0x40, addr := 0, retry := 0, queue := 0, laneMask := 1, extra := 0, time := 0, idx := 0, regTop := 0 }

def activation : HandlerCtx := { record := someRecord, addr := 0, lane := 0, data := 0, width := 0, dest := 8, sizeCode := 4, la := 0, savedP := 0, savedHeld := [], active := true }

/-- `HandlerWords`: FRET in an activation, with each of its modes, and FREAD. -/
theorem wit_fret : fits (.fret (w0 0 4 0 .i32 0)) { demoThread with handler := some activation } = true ∧ (∀ x ∈ [1, 2], fits (.fret (w0 0 0 0 .i32 x)) { demoThread with handler := some activation } = true) ∧ activation.savedHeld = [] ∧ activation.la = 0 ∧ activation.sizeCode < 7 ∧ Operand.ofCode activation.dest = .v 8 ∧ (demoGroup demoThread).core = demoIssue.core ∧ fits (.fread (w0 8 0 0 .i32 5)) demoThread = true := by decide

/-- A queue control block at the page's byte 0 and a packet of zeros at 0x100: a device queue of context 0, 16 entries at 0x200. -/
def queueAt (prod cons : Nat) (flags : Nat) : State := filled (bytesOfNat (1 + 2 ^ 8 + 4 * 2 ^ 16) 8 ++ bytesOfNat 0x200 8 ++ bytesOfNat prod 8 ++ bytesOfNat cons 8 ++ bytesOfNat prod 8 ++ List.replicate 24 0 ++ bytesOfNat flags 8)

/-- `QueueWords`: a queue that takes the packet, one that is full, one in ERROR, one that is no device queue, an earlier reservation. -/
theorem wit_queue : let w := w0 8 4 2 .i32 0
    let t : Thread := { demoThread with v := [(2, 0x100)] }
    let s (b : State) : State := demoIn b CoreSt.empty (.launch w) (demoGroup t)
    let at_ (b : State) (off : Nat) : Nat := natOfBytes ((s b).currentBytes (Loc.add (.mem 0 0x70000) off) 8)
    fits (.launch w) t = true ∧ (t.sourcePair 2).toNat % 64 = 0 ∧ ((s (queueAt 0 0 0)).env demoIssue (demoGroup t) (0, 0)).global t 0 128 .store 2 2 = .ok (.mem 0 0x70000) ∧ ((s (queueAt 0 0 0)).env demoIssue (demoGroup t) (0, 0)).global t 0x100 64 .load 0 0 = .ok (.mem 0x100 0x70100)
    ∧ ((s (queueAt 0 0 0)).drainThread 0 0 0).isSome = true ∧ at_ (queueAt 0 0 0) 0 % 256 = 1 ∧ at_ (queueAt 0 0 0) 0 / 2 ^ 32 % 256 = 0 ∧ at_ (queueAt 0 0 0) 0 / 2 ^ 8 % 2 = 1 ∧ at_ (queueAt 0 0 0x30) 0x40 / 8 % 8 = 6 ∧ (at_ (queueAt 16 0 0) 0x20 + 2 ^ 64 - at_ (queueAt 16 0 0) 0x18) % 2 ^ 64 = 2 ^ 4
    ∧ at_ (queueAt 0 0 0) 0x10 = at_ (queueAt 0 0 0) 0x20 ∧ (s (queueAt 0 0 0)).route 0 0x200 .store = .ok (.mem 0x200 0x70200) ∧ fits (.notify (w0 0 4 0 .i32 0)) demoThread = true ∧ placed.route 0 0 .store = .ok (.mem 0 0x70000) ∧ at_ placed 0x30 % 65536 < 2048 ∧ at_ placed 0 % 256 ≠ 1 := by decide

/-- The machine with bring-up over and every port active. -/
def live : State := { placed with boot := 6, ports := List.replicate 8 { Port.reset 0 with state := 2 }, ctxs := [(0, { placedCtx with bindBase := 0x8000, rights := 15, desc := 0x1000 })] }

/-- A group of one thread, and a running kernel for it. -/
def withGroup (b : State) (g : Group) : State := { b with groups := [(0, g)], kernels := [(0, placedKernel)] }

/-- A waiting thread, its entry in the block table. -/
def waitingGroup : Group := (demoGroup { demoThread with cond := .waiting }).retable

/-- `SelectorOrder`, `CoreEvents`: an entry to choose, an activation, a line not yet there, a held write whose window is open and one whose window is closed, a queue entry, a nap that is over. -/
theorem wit_core : let s := withGroup live waitingGroup
    let nap : Group := demoGroup { demoThread with cond := .blocked .nap }
    let act : Group := demoGroup { demoThread with cond := .blocked .handler, handler := some { activation with active := false } }
    (s.choose 0 0).isSome = true ∧ (s.core 0).streams.length = 2 ∧ (s.stream 0 0).dispatch = none ∧ (s.core 0).activations = [] ∧ s.gangHalted act = false ∧ act.threads[0]? = some { demoThread with cond := .blocked .handler, handler := some { activation with active := false } }
    ∧ ([(0, 0)].map (fun l : Nat × Nat => l.2)).Nodup ∧ (live.route 0 0 .load = .ok (.mem 0 0x70000)) ∧ live.poisoned 0x70000 = false ∧ (s.core 0).l1Find 0 0 = none ∧ waitingGroup.resident = true
    ∧ (0 + ({ demoThread with napLeft := 0 } : Thread).napLeft ≤ (withGroup live nap).clock 0) ∧ (withGroup live nap).group? 0 = some nap ∧ 0 < ({ reg := 8, count := 1, value := 1, left := 1, ready := false, tag := none, flags := 0, at_ := 0 } : HeldWrite).left := by decide

/-- A kernel that waits to be placed. -/
def waitingKernel (dep : Nat) : Kernel := { placedKernel with desc := { placedDesc with depKind := dep, prodNg := 1, prodKseq := 3, prodEvt := 0 }, gangs := [{ placedGang with state := .waiting, members := [], depOk := decide (dep = 0) }], order := 1 }

/-- A machine with that kernel, every quad in placement and reported. -/
def toPlace (dep : Nat) : State :=
  let s : State := { live with bar := { live.bar with qout := 0 }, kernels := [(0, waitingKernel dep)] }
  { s with reports := [(0, (List.range 4).map (fun c => s.coreFree c))] }

/-- `GangEvents`: a gang to place, its dependence met and not met; a gang to pre-empt, to halt, to save; a group that has ended. -/
theorem wit_place : let s := (toPlace 0).markFirst
    s.cands = [{ kn := 0, gi := 0, opened := false, prio := 0, saved := false, order := 1 }] ∧ (∀ c ∈ [0], c ∈ s.roomy 0 (waitingKernel 0) 0) ∧ ({ kn := 0, gi := 0, opened := false, prio := 0, saved := false, order := 1 } : Cand).before { kn := 0, gi := 0, opened := false, prio := 0, saved := false, order := 1 } = false
    ∧ distinct [0] = [0] ∧ (s.gang? 0 0).map (fun g => g.state) = some .waiting ∧ (waitingKernel 1).desc.producers 0 = [0] ∧ (toPlace 1).devRead 0 0 8 = .ok (List.replicate 8 0) ∧ (0 : Nat) / 2 ^ 32 ≠ (waitingKernel 1).desc.prodKseq.toNat := by decide

theorem wit_depends : let s : State := { toPlace 1 with hbm := placedTables.write 0x70000 (bytesOfNat (3 * 2 ^ 32) 8) }
    s.devRead 0 0 8 = .ok (bytesOfNat (3 * 2 ^ 32) 8) ∧ 3 * 2 ^ 32 / 2 ^ 32 = (waitingKernel 1).desc.prodKseq.toNat ∧ (3 * 2 ^ 32) % 256 = 0 := by decide

theorem wit_gangs : let s : State := withGroup { live with ctxs := [(0, { placedCtx with state := .quiescing })] } (demoGroup demoThread)
    let g : Gang := { placedGang with state := .saving, halted := true }
    s.gang? 0 0 = some placedGang ∧ (s.ctx 0).state = .quiescing ∧ (0 < (s.ctx 0).nslots ∧ 0 ∉ (s.ctx 0).slotsUsed) ∧ (∃ m ∈ placedGang.members, (s.group? m).map (fun x => x.killed) = some none) ∧ demoThread.committing = false ∧ s.gangBusy 0 0 g = false ∧ (s.core 0).wq = []
    ∧ s.groupBusy 0 (demoGroup { demoThread with cond := .exited }) = false ∧ s.undecided 0 (demoGroup { demoThread with cond := .exited }) = false ∧ (∀ e ∈ s.kernels, e.2.desc.depKind = 0) := by decide

/-- A descriptor of a context in the host's memory at 0x1000. -/
def descriptor (w0 : Nat) : List Byte := bytesOfNat w0 8 ++ bytesOfNat 0x40000 8 ++ bytesOfNat 0x100000 8 ++ bytesOfNat (2 ^ 32 + 65536) 8 ++ bytesOfNat 0 8 ++ bytesOfNat 0x8000 8 ++ bytesOfNat 0x10000 8 ++ bytesOfNat (6 * 2 ^ 32) 8 ++ bytesOfNat 0 16 ++ bytesOfNat 0x20000 8 ++ bytesOfNat (4 * 2 ^ 32) 8

/-- The host has put it there, and its address in CTXDESC. -/
def described (w0 : Nat) : State := { live with hostMem := Mem.write [] 0x1000 (descriptor w0), bar := { live.bar with ctxdesc := 0x1000 } }

/-- `ContextEvents`: each command word; descriptors that pass, that do not, and one with MAINT and no right to it; each state. -/
theorem wit_contexts : (live.powered = true ∧ live.linkUp 0 = true ∧ live.tripped = false) ∧ (∀ op ∈ [1, 2, 3, 4, 5], let w : Dword := BitVec.ofNat 64 (op * 256 + 3); w.toNat / 2 ^ 20 = 0 ∧ w.toNat / 2 ^ 12 % 16 = 0 ∧ w.toNat / 2 ^ 8 % 16 = op)
    ∧ (live.ctx 3).state = .empty ∧ descriptorOk (fun k => ((described 1).hostDword (0x1000 + 8 * k)).toNat) = true ∧ descriptorOk (fun k => ((described 2).hostDword (0x1000 + 8 * k)).toNat) = false ∧ (0x101 : Nat).testBit 8 = true ∧ (0x101 : Nat).testBit 19 = false ∧ descriptorOk (fun k => ((described 0x101).hostDword (0x1000 + 8 * k)).toNat) = true
    ∧ (live.ctx 0).state = .active ∧ (live.ctx 0).debug = true ∧ ((14 : BitVec 4).toNat * 2 ^ 16 + 6 * 2 ^ 8 + 0 : Nat) < 2 ^ 64 ∧ (live.groups = [] ∧ live.kernels = [] ∧ live.slots = [] ∧ live.devWrites = [] ∧ live.jobs = [] ∧ (live.ctx 3).faults = []) := by decide

/-- A fault of thread 0 on its way to containment. -/
def fault (pols : List (BitVec 28)) : ContFault := { record := { someRecord with route := 0, cls := 1 }, grp := some 0, kern := some 0, tids := [0], after := false, level := 0, engine := false, pols := pols }

/-- `Containment`: IGNORE, RETRY, a kill of the group, and no policy at all. -/
theorem wit_contain : let s (p : List (BitVec 28)) : State := { withGroup live (demoGroup { demoThread with cond := .blocked .contain }) with ctxs := [(0, { placedCtx with desc := 0x1000, faults := [fault p] })] }
    (s []).hostReach ((s []).ctx 0).desc.toNat = true ∧ (s []).hostReach (((s []).ctx 0).desc.toNat + 0x68) = true ∧ (fault []).record.route ≠ 3 ∧ verdict ((s [0x10]).policyField 0 (fault [0x10])) false false 5 0 = .ignore ∧ verdict ((s [0x20]).policyField 0 (fault [0x20])) false false 5 0 = .retry ∧ verdict ((s [0x30]).policyField 0 (fault [0x30])) false false 5 0 = .kill 0
    ∧ verdict (fun _ => 0) false false 5 0 = .kill 4 ∧ ((s []).ctx 0).faults = [fault []] := by decide

/-- A queue of context 0, bound to slot 3, its control block at the page's byte 0. -/
def slot (st : QueueSt) (prod cons : Dword) (cmds : List Cmd) : QSlot :=
  { home := 3, state := st, saved := st, errcode := 0, ctx := 0, qcb := 0, prio := 0, rlog := 4, rbase := 0x1000, qpolicy := 0, idleUnmap := 0, nvec := 0xFFFF, prod := prod, cons := cons, finseq := 0, cmds := cmds, idleSince := 0, pendNotify := false, wait := none, lost := false }

/-- A machine whose page holds that control block, with a packet at the ring's first entry. -/
def withSlot (packet : List Byte) (q : QSlot) : State :=
  { live with hbm := (placedTables.write 0x70000 (bytesOfNat (1 + 4 * 2 ^ 16) 8 ++ bytesOfNat 0x1000 8 ++ bytesOfNat 1 8)).write 0x71000 packet, slots := [(3, q)], ctxs := [(0, { placedCtx with jlog := 6, jbase := 0x2000, flog := 4, fbase := 0x4000, desc := 0x1000 })] }

/-- A command that runs. -/
def running (type : Nat) (packet : BitVec 512) (deadline : Option Nat) : Cmd := { seq := 0, type := type, onfail := false, packet := packet, jidx := 0, running := true, deadline := deadline, kern := none, wait := none, lost := false }

/-- `SlotEvents`: each command word; a control block that passes and one that does not; each state of a slot. -/
theorem wit_slots : (∀ op ∈ [1, 2, 3], let w : Dword := BitVec.ofNat 64 (op * 256 + 3); w.toNat / 2 ^ 24 = 0 ∧ w.toNat / 2 ^ 12 % 16 = 0 ∧ w.toNat / 2 ^ 8 % 16 = op ∧ w.toNat % 256 = 3) ∧ live.bar.mapWait = none ∧ live.slot? 3 = none ∧ (live.ctx 0).state = .active ∧ live.route 0 0 .store = .ok (.mem 0 0x70000)
    ∧ (let s := withSlot [] (slot .mapped 1 0 [])
      let d (k : Nat) : Nat := natOfBytes (s.currentBytes (Loc.add (.mem 0 0x70000) (8 * k)) 8)
      qcbOk d 0 0 = true ∧ (d 8).testBit 7 = false ∧ s.slot? 3 = some (slot .mapped 1 0 []) ∧ (s.qcbLoc (slot .mapped 1 0 [])).toOption.isSome = true ∧ s.devRead 0 (0 + 0x10) 8 = .ok (bytesOfNat 1 8)) ∧ qcbOk (fun _ => 0) 0 0 = false := by decide

/-- `PacketEvents`: the head packet of each type, and an invalid one; a wait that holds, one that does not, one whose time is over. -/
theorem wit_packets : (∀ b ∈ [bytesOfNat 0 8, bytesOfNat 4 8 ++ bytesOfNat 0x100 8, bytesOfNat 2 8 ++ bytesOfNat 0x100 8 ++ bytesOfNat 1 8 ++ bytesOfNat (2 ^ 64 - 1) 8, bytesOfNat 1 8 ++ bytesOfNat 0x800 8, bytesOfNat 9 8],
      let s := withSlot b (slot .active 1 0 [])
      (s.settle 3).winner = some 3 ∧ ((s.settle 3).slot? 3).isSome = true ∧ ((s.settle 3).headPacket (((s.settle 3).slot? 3).getD (slot .active 1 0 []))).toOption = some (BitVec.ofNat 512 (natOfBytes b)) ∧ (((s.settle 3).slot? 3).map (fun q => q.state)) = some .active ∧ packetOk (BitVec.ofNat 512 (natOfBytes b)) = decide (natOfBytes b % 256 ≠ 9))
    ∧ (match (withSlot (bytesOfNat 1 8 ++ bytesOfNat 0x800 8) (slot .active 1 0 [])).launchRead (slot .active 1 0 []) (BitVec.ofNat 512 (natOfBytes (bytesOfNat 1 8 ++ bytesOfNat 0x800 8))) with
      | .reject => true
      | _ => false) = true
    ∧ (let s := withSlot [] (slot .active 0 0 [running 2 0 (some 0)])
      s.devRead 0 0 8 = .ok (bytesOfNat (1 + 4 * 2 ^ 16) 8) ∧ s.slot? 3 = some (slot .active 0 0 [running 2 0 (some 0)]) ∧ 0 ≤ s.ns) := by decide

/-- The live machine at a device time in nanoseconds, its page entry with the fields given, one lease, and frame 7 in use for the page. -/
def paged (st kind : Nat) (dirty : Bool) (l : Lease) (ns : Nat) : State :=
  { live with hbm := placedTables.write 0x62000 (bytesOfNat (st * 2 ^ 60 + kind * 2 ^ 58 + 2 ^ 56 + 2 ^ 55 + (if dirty then 2 ^ 54 else 0) + 7 * 65536 + 5) 8), leases := [(5, l)], frames := [(7, { ctx := 0, page := 0, table := false })], counters := [(7, 3)], devTicks := 504 * ns }

/-- A lease of context 0's first region, in a state. -/
def leased (st : Nat) : Lease := { Lease.free with state := st, port := 1, lid := 9, expiry := 1000, node := 2, pooladdr := 0x40000000 }

/-- The entry of that page. -/
def entryIs (s : State) (st : Nat) : Bool := match s.walkCtx 0 0 with
  | .leaf pa p => decide (pa = 0x62000 ∧ pteState p = st)
  | .invalid _ => false

/-- `PageEvents`: a page in POOL with a refill, a clean and a dirty victim, a write-back, a migration, a halving that is due, a prefetch, a line in memory and one past it. -/
theorem wit_page_events : entryIs (paged 1 1 false (leased 1) 0) 1 = true ∧ (paged 1 1 false (leased 1) 0).frameFree 9 = true ∧ (paged 1 1 false (leased 1) 0).linkUp 1 = true ∧ entryIs (paged 2 1 true (leased 1) 0) 2 = true ∧ ((paged 2 1 true (leased 1) 0).evictKey (7, { ctx := 0, page := 0, table := false })).isSome = true
    ∧ ((paged 2 1 false (leased 1) 0).evictKey (7, { ctx := 0, page := 0, table := false })).isSome = true ∧ (paged 2 1 true (leased 1) 0).registrarUp = true ∧ (paged 5 1 true (leased 1) 0).freeFrame = some 0 ∧ (paged 2 1 true (leased 1) 20000000).halvedAt + max 1 10 * 1000000 ≤ (paged 2 1 true (leased 1) 20000000).ns
    ∧ (paged 1 1 false (leased 1) 0).jobOn 0 0 = none ∧ (paged 1 1 false (leased 3) 0).lease 5 = leased 3 ∧ 5 * 128 < 2 ^ 39 ∧ 2 ^ 39 ≤ 2 ^ 32 * 128 ∧ (∀ k ∈ live.cores, k.2.wq = []) := by decide

/-- A pending fault of a load at address 0. -/
def pending (cause : Nat) : PendFault := { fseq := 4, ctx := 0, page := 0, cause := cause, access := 0, record := { someRecord with route := 1, cls := 0xFF, cause := cause }, packs := [{ grp := 0, tids := [0], record := { someRecord with route := 1, cls := 0xFF, cause := cause } }], at_ := 0, queued := true, asked := false }

/-- A thread that waits for it. -/
def withFault (b : State) (cause : Nat) : State := { withGroup b (demoGroup { demoThread with cond := .blocked .page }) with pend := [pending cause] }

/-- `RegistrarRequests`, faults: an access that would pass, a page in POOL, one that cannot be served, one of a lease that has expired long ago. -/
theorem wit_resolve : (withFault live 0x10).pendReady 4 = some (pending 0x10) ∧ live.route 0 (pending 0x10).record.addr.toNat (pending 0x10).want = .ok (.mem 0 0x70000)
    ∧ (match (withFault (paged 1 1 false (leased 1) 0) 0x10).pageView (pending 0x10) with
      | .fault f => decide (f.cause = 0x10 ∧ f.pstate = 1 ∧ f.lv = true)
      | _ => false) = true
    ∧ (match (withFault (paged 7 1 false (leased 1) 0) 0x17).pageView (pending 0x17) with
      | .fault f => decide (f.cause = 0x17)
      | _ => false) = true
    ∧ (match (withFault (paged 1 1 false (leased 3) 600000000) 0x13).pageView (pending 0x13) with
      | .fault f => decide (f.cause = 0x13)
      | _ => false) = true ∧ 0 + live.bar.renewwait * 1000000 ≤ (paged 1 1 false (leased 3) 600000000).ns
    ∧ (demoGroup { demoThread with cond := .blocked .page }).killed = none := by decide

theorem wit_mask : ∀ x, someRecord.laneMask.getLsbD x = true ↔ x = 0 := by
  intro x
  constructor
  · intro h
    have hx : x < 32 := by by_contra hc; rw [BitVec.getLsbD_of_ge _ _ (by omega)] at h; cases h
    revert h; revert hx; revert x; decide
  · rintro rfl; decide

/-- A request of one page at the head of the ring. -/
def asked (op : Nat) (b : State) : State := { b with hostMem := Mem.write [] 0x2000 (bytesOfNat op 8 ++ bytesOfNat 0 8 ++ bytesOfNat 1 8 ++ bytesOfNat 0x60 8), bar := { b.bar with rqbase := 0x2000, rqlog := 4, rqprod := 1 } }

/-- `RegistrarRequests`, the ring: each operation on a page it may act on. -/
theorem wit_requests : (∀ op ∈ [1, 2, 3, 4, 5, 6], let s := asked op live; s.reqHead.ok = true ∧ s.reqHead.op = op ∧ s.reqHead.pages = 1 ∧ s.registrarUp = true ∧ s.migrating = false ∧ s.bar.rqprod ≠ s.bar.rqcons ∧ s.hostReach s.reqHead.at_ = true ∧ (s.ctx s.reqHead.ctx).state ∉ [.empty, .destroying])
    ∧ (asked 0 live).reqHead.ok = false ∧ entryIs (asked 1 (paged 0 0 false (leased 1) 0)) 0 = true ∧ (asked 1 (paged 0 0 false (leased 1) 0)).freeFrame = some 0 ∧ entryIs (asked 4 (paged 2 1 false (leased 1) 0)) 2 = true ∧ entryIs (asked 5 (paged 4 1 false (leased 1) 0)) 4 = true ∧ (asked 2 live).reqPinned (asked 2 live).reqHead = false
    ∧ ((asked 2 live).unmapPage 0 0).isSome = true ∧ (asked 3 live).pageWindows 0 0 = [] ∧ live.leaseOf 0 0 = none := by decide

/-- `LeaseEvents`, times: a lease in each state, with its page clean and dirty. -/
theorem wit_leases : (∀ st ∈ [1, 2, 4, 5], ∀ d ∈ [false, true], let s := paged 2 1 d (leased st) 600000000; s.registrarUp = true ∧ (s.leasePages (leased st)).map (fun f => (f.1, f.2.page)) = [(7, 0)] ∧ entryIs s 2 = true ∧ s.jobOn 0 0 = none ∧ s.windows = [] ∧ (leased st).expiry ≤ s.ns ∧ (leased st).deadline ≤ s.ns ∧ (leased st).failedAt + 500 * 1000000 ≤ s.ns ∧ 0 / 16384 = (leased st).vabase)
    ∧ (let s := paged 1 1 false (leased 3) 600000000
      (leased 3).expiry + 500 * 1000000 ≤ s.ns ∧ (leased 3).lastFault = 0 ∧ s.pend = [] ∧ s.outbox = [] ∧ (s.leases.map (fun x => x.1)).Nodup) := by decide

/-- A mailbox with one inbound record. -/
def mailed (words : List Nat) (b : State) : State := { b with pool := Mem.write (Mem.write [] 0x20000 (bytesOfNat 1 8)) 0x21000 (words.flatMap (fun w => bytesOfNat w 8)), bar := { b.bar with mbxaddr := 0x20000, mbxen := true, mbxport := 1 } }

/-- `LeaseEvents`, the mailbox: each record, sound and known, unknown and malformed. -/
theorem wit_mailbox : (∀ r ∈ [(1, [9 * 2 ^ 32 + 2 ^ 16 + 1, 2 ^ 30, 0, 5000]), (2, [9 * 2 ^ 32 + 2 ^ 16 + 2, 0, 0, 5000]), (3, [9 * 2 ^ 32 + 2 ^ 16 + 3, 0, 0, 5000]), (4, [2 * 2 ^ 20 + 4]), (5, [10 * 2 ^ 32 + 2 ^ 16 + 5, 0, 0, 5000, 9])],
      let s := mailed r.2 (paged 2 1 true (leased 1) 0); s.pool.num 0x20000 8 ≠ s.pool.num 0x20008 8 ∧ s.inRec.type = r.1 ∧ s.inRec.sound = true ∧ s.registrarUp = true ∧ s.linkUp 1 = true)
    ∧ (mailed [6] live).inRec.sound = false ∧ ((mailed [9 * 2 ^ 32 + 2 ^ 16 + 2, 0, 0, 5000] (paged 2 1 true (leased 1) 0)).leaseById 9).isSome = true ∧ (live.leaseById 9).isNone = true ∧ ((paged 2 1 true (leased 5) 0).regionPages 0 0) = [0]
    ∧ ([(5, { leased 1 with shr := true })].filter (fun x : Nat × Lease => x.2.shr && x.2.port == 1 && decide (x.2.pooladdr.toNat ≤ 0x40000000 ∧ 0x40000000 < x.2.pooladdr.toNat + 2 ^ 30))).length = 1 := by decide

/-- A directory line. -/
def line (st : DirSt) : DirLine := { state := st, cnt := 3, masks := [(0, 1), (1, 2)], wrote := 0, dirty := false, copies := match st with
  | .priv => [0, 1]
  | _ => [] }

/-- `FabricEvents`: a host request that is served and one that is not; a line in each state; an exchange that is due, each link state, a secured port. -/
theorem wit_fabric : let s : State := { live with bar := { live.bar with hostlim := 1 } }
    (0 + 64 ≤ s.bar.hostlim * 2 ^ 30) ∧ s.bar.hbmDown.getLsbD 0 = false ∧ ¬(2 ^ 30 + 64 ≤ s.bar.hostlim * 2 ^ 30) ∧ 2 ^ 39 < 2 ^ 39 + 1 ∧ (∀ st ∈ [DirSt.held 0, .priv, .handoff 0 1, .merge (some 1), .merge none, .wb 0], ({ live with dir := [(3, line st)] } : State).dirLine 3 = line st) ∧ (live.dirLine 3).state = .home
    ∧ ((line (.handoff 0 1)).masks.map (fun x => x.1)).Nodup ∧ (∀ x ∈ (line (.handoff 0 1)).masks, x.2 ≠ 0) ∧ ((line (.handoff 0 1)).mask 0 ||| 0) &&& (line (.handoff 0 1)).mask 1 = 0 ∧ (live.port 0).state = 2 ∧ live.bar.ptmAt = none
    ∧ (State.reset.port 0).state = 1 ∧ ((live.ports.set 2 { live.port 2 with ide := true }).getD 2 (Port.reset 2)).ide = true ∧ 2 < live.ports.length ∧ (∀ op ∈ [1, 2, 3, 4, 5], (BitVec.ofNat 64 (op * 256 + 2) : Dword).toNat / 2 ^ 8 % 16 = op) := by decide

/-- `PowerAndRegisterEvents`: each command word with a target that is there; quads in and out of placement, gated and not; states that are due for each step of bring-up, and a trip. -/
theorem wit_power : (∀ o ∈ [1, 2, 3, 4, 5, 6, 7, 8], let w : Dword := BitVec.ofNat 64 (2 * 256 + o); w.toNat / 2 ^ 24 = 0 ∧ w.toNat % 256 = o ∧ w.toNat / 2 ^ 8 % 256 = 2 ∧ w.toNat / 2 ^ 16 % 256 = 0) ∧ live.bar.qout.getLsbD 2 = true ∧ live.bar.qgate.getLsbD 2 = false ∧ live.bar.stfail.getLsbD 2 = false ∧ ({ live.bar with qgate := 4 } : Bar0).qgate.getLsbD 2 = true
    ∧ ({ live.bar with qout := 0 } : Bar0).qout.getLsbD 2 = false ∧ live.groups = [] ∧ live.kernels = [] ∧ (∃ f ∈ (paged 2 1 false (leased 1) 0).frames, f.1 * 65536 / 2 ^ 36 % 8 = 0) ∧ live.frames = [] ∧ ({ live with boot := 4 } : State).boot < 6 ∧ State.reset.boot = 0 ∧ live.powered = true ∧ ({ live with powered := false } : State).powered = false
    ∧ live.ports.length = 8 ∧ live.bar.rqprod = live.bar.rqcons ∧ (∃ c ∈ live.ctxs, c.2.state ≠ .empty) ∧ (State.reset.port 1).state ≠ 2 ∧ State.reset.linkUp 1 = false ∧ (live.port 1).width < 4 ∧ (live.port 1).rate < 4 ∧ (live.port 1).state < 8 := by decide

/-- The live machine with one group of a resident gang, the debug registers naming its thread. -/
def debugged (t : Thread) (obj idx : Nat) : State :=
  let s := withGroup live (demoGroup t)
  { s with bar := { s.bar with dbgarg0 := BitVec.ofNat 64 (1 + idx * 2 ^ 32), dbgarg1 := BitVec.ofNat 64 (obj * 2 ^ 60) } }

/-- `DebugEvents`: each operation's word and right, a thread that is named, each object; a trial whose delay is due, a sample that is due. -/
theorem wit_debug : (∀ op ∈ [1, 2, 3, 4, 5, 6, 7, 8, 9, 10], let w : Dword := BitVec.ofNat 64 op; w.toNat / 2 ^ 16 = 0 ∧ w.toNat % 256 = op ∧ w.toNat / 2 ^ 8 % 256 = 0) ∧ (live.ctx 0).rights = 15
    ∧ (∀ o ∈ [0, 1, 2, 3, 4], let s := debugged demoThread o 0; s.bar.dbgarg1.toNat / 2 ^ 60 = o ∧ s.bar.dbgarg0.toNat / 2 ^ 32 = 0 ∧ (s.groups.find? (fun x => x.2.ctx == 0 && x.2.gidx == s.bar.dbgarg1.toNat / 2 ^ 24 % 2 ^ 24 && decide ((s.kern? x.2.kern).map (fun k => k.kseq) = some (s.bar.dbgarg0.setWidth 32)))).map (fun x => x.1) = some 0 ∧ s.bar.dbgarg1.toNat / 2 ^ 14 % 2 ^ 10 = 0 ∧ (s.gang? 0 0).map (fun x => x.members) = some [0])
    ∧ ((debugged demoThread 2 0x621).bar? ((demoGroup demoThread).owner 0) 0x621).isSome = true ∧ ((debugged demoThread 2 0).bar? ((demoGroup demoThread).owner 0) 0).isNone = true ∧ (live.groups.find? (fun _ => true)).isNone = true ∧ (live.ctx 0).trigs[0]? = some Trigger.reset ∧ (live.ctx 0).trigs[4]? = none := by decide

theorem wit_sampling : let l : LastIssue := { clock := 0, grp := 0, entry := 0, index := 0, pop := 1 }
    let b := withGroup live (demoGroup demoThread)
    let s : State := { b with cores := [(0, { CoreSt.empty with streams := [{ Stream.free with last := some l, trialCount := 10 }, Stream.free] })], ctxs := [(0, { placedCtx with rights := 15, trial := { Trial.reset with en := true, cfg := BitVec.ofNat 64 (10 * 2 ^ 16 + 100 * 2 ^ 32) } })], bar := { live.bar with period := 16, sampStart := List.replicate 8 0 }, dies := List.replicate 8 { Die.reset with clock := 16 } }
    (s.stream 0 0).last = some l ∧ (s.ctx 0).trial.en = true ∧ (s.ctx 0).rights.getLsbD 1 = true ∧ (s.ctx 0).trial.cfg.toNat / 2 ^ 16 % 65536 ≤ (s.stream 0 0).trialCount ∧ s.registrarUp = true ∧ (s.bar.sampStart.getD 0 0) + s.bar.period * ((s.core 0).sampleNext + 1) ≤ s.clock 0 ∧ s.bar.qgate.getLsbD 0 = false ∧ (s.residents 0).map (fun x => x.1) = [0] := by decide

/-- `DrainCompletes`: an ordered slot with every rank in, over a tile of one row of four elements. -/
theorem wit_ordered : let c : EngCmd := { command .mdrain 6 (BitVec.ofNat 32 (2 * 16 + 1024)) with entry := layout 0 6 }
    let o : OSlot := { ctx := 0, addr := 0, transpose := false, nrank := 1, kern := 0, kseq := 1, parts := [(0, c)] }
    let s : State := { demo (.nop (w0 0 0 0 .i32 0)) (demoGroup demoThread) with oslots := [o] }
    let lay := Lay.ofBits c.entry
    s.oslots[0]? = some o ∧ o.nrank ≤ o.parts.length ∧ (List.range 8).all (fun k => match lay.elemLoc (rowCoords c.at_ (k / 64)) (k % 64) with
      | none => decide (4 ≤ k)
      | some u => decide (k < 4 ∧ s.route 0 u.addr .store = .ok (.mem u.addr (0x70000 + u.addr)) ∧ s.poisoned (0x70000 + u.addr) = false ∧ s.engFree 0 (.mem u.addr (0x70000 + u.addr)) = true)) = true := by decide

/-- `DecodeFaults`: an operand past the frame, and a cross-lane word outside a row-block dispatch. -/
theorem wit_decode_faults : wordFault (.add (w0 40 4 2 .i32 0)) 32 1 true false = some 3 ∧ encode (.add (w0 40 4 2 .i32 0)) ≠ none ∧ crossLane (.ballot (w0 8 0x601 0 .i32 0)) = true ∧ wordFault (.ballot (w0 8 0x601 0 .i32 0)) 32 1 true false = none ∧ (({ placedDispatch none with rowblk := false } : Dispatch).rowblk) = false := by decide

/-- `EncodeThenDecode`, `StepRunsDecoded`, `InvariantKept`: a well-formed instruction and its word, a state about to issue it, the invariant at reset. -/
theorem wit_step : WellFormed (.add (w0 9 3 4 .i32 0)) = true ∧ encode (.add (w0 9 3 4 .i32 0)) = some 0x08001200C0270000 ∧ (let s := State.reset.withFetchWord 64 0x08001200C0270000
    let s0 := s.passTime (s.cycle 0)
    s.agenda = [] ∧ s.focus = (0, 0) ∧ (s0.stream 0 0).dispatch = some (placedDispatch none) ∧ (s0.group? 0).isSome = true ∧ s0.trialHolds 0 (s0.stream 0 0) = false ∧ (placedDispatch none).todo.find? (fun n => s0.packReady (placedDispatch none) n) = some 0 ∧ s0.breakpointAt 0 0 = none ∧ s0.route 0 0 .fetch = .ok (.mem 0 0x70000)
      ∧ s0.currentBytes (.mem 0 0x70000) 8 = bytesOfNat 0x08001200C0270000 8 ∧ decodeBytes (bytesOfNat 0x08001200C0270000 8) = .ok (.add (w0 9 3 4 .i32 0), [])) ∧ State.reset.wf = true := by decide

/-- Ill-formed words, one for each ground of 02 R35, R36, R37, R43, R44, R49: an unused field, a type, a modifier, a lookahead, a mark, each class of operand, alignment, a status register, a scope, each condition on a pair. -/
theorem test_ill_formed_words : ([.nop (w0 1 0 0 .i32 0), .add (w0 8 4 2 .f32 0), .add (w0 8 4 2 .i32 9), .add { w0 8 4 2 .i32 0 with la := 1 }, .setpImm { w1 0x601 0x602 0 0 with ma := true }, .movi { w2 0 with x := 1 }, .rowblk (w1 1 0 1 0), .bra { w2 0 with d := 3 },
    .add (w0 0x601 4 2 .i32 0), .add64 (w0 8 5 2 .i64 0), .vote (w0 8 0x601 0 .i32 0), .ldq (w1 8 4 0 4), .mzero (w0 8 0 0 .i32 0), .ltget (w0 0 8 0 .i32 0), .bexpect (w0 0 8 2 .i32 0), .ltget (w0 2 0x703 0 .i32 0) , .csrr (w1 8 0 0x0FF 0), .csrw (w1 0 4 0x020 0), .fence (w0 0 0 0 .i32 7), .atom (w0 10 4 7 .n32 0), .abegin (w1 8 0 10 7)] : List Instr).all (fun i => !WellFormed i) = true := by decide

/-- A half of a pair word. -/
def half (op dst src ty : Nat) : Half := { op7 := BitVec.ofNat 7 op, dst := BitVec.ofNat 8 dst, src := BitVec.ofNat 8 src, m := false, ty := BitVec.ofNat 3 ty, low := 0 }

theorem test_ill_formed_pairs : ([.pair (half 0x0C 8 1 0) (half 0x12 18 3 2), .pair (half 0 8 1 2) (half 0x12 18 3 2), .pair { half 0 8 1 0 with low := 1 } (half 0x12 18 3 2), .pair { half 0x40 8 1 0 with m := true } (half 0x12 18 3 2), .pair (half 0 8 1 0) (half 0 8 2 0), .pair (half 0 8 1 0) (half 0 16 2 0), .pair (half 0 8 1 0) (half 0 18 9 0), .pair (half 2 8 1 0) (half 2 18 3 0)] : List Instr).all (fun i => !WellFormed i) = true
    ∧ WellFormed (.pair (half 0 8 1 0) (half 0x12 18 3 2)) = true := by decide

/-- Events whose operands name what the device does not have. -/
theorem test_ill_formed_events : ([.dispatch 384 0, .dispatch 0 2, .handlerActivation 384 0, .trialDelay 0 2, .speculativeLoad 384 0 0, .storeDrain 384 0, .mmaComplete 384, .mzeroComplete 384, .mldbComplete 384 0, .mdrainComplete 384 0, .sample 384, .copyStart 96 0, .copyComplete 0 4, .followOnMma 96 0, .placementReport 8, .placeGang 0 0 96 [], .placeGang 0 0 0 [4]] : List Instr).all (fun i => !WellFormed i) = true
    ∧ ([.containmentDecision 256, .teardownComplete 256, .qnotify 256, .idleUnmap 256, .nopPacket 256, .launchPacket 256, .waitmem 256, .waitcmd 256, .signal 256, .invalidPacket 256, .leaseExpiring 4096, .leaseExpiry 4096, .revocationDeadline 4096, .nodeFailureTimeout 4096, .leaseRelease 4096, .reqrenewRepeat 4096, .completionTimeout 4096] : List Instr).all (fun i => !WellFormed i) = true := by decide

theorem test_ill_formed_links : ([.bisnp 0 0, .trainingComplete 8 0 1, .trainingComplete 0 3 1, .trainingComplete 0 0 0, .trainingRetry 8, .linkLoss 8, .integrityFailure 8, .linkstatRead 8, .linkErrorRecovered 8, .hbmRetrain 8 0, .readRequest 8 0, .ownershipRequest 8 0, .dieEviction 8 0, .trip 0 0, .trip 1 8, .refillComplete 0 0 8388608, .uncorrectableError 4294967296] : List Instr).all (fun i => !WellFormed i) = true := by decide

/-- Words written out field by field from 02 R31 to R34, with the opcodes of R51 and the guard p7, one or more for each family: opcode, D, A, B or the immediate, and the fields below. -/
def bits0 (op d a b ty x : Nat) : Nat := op * 2 ^ 52 + d * 2 ^ 41 + a * 2 ^ 30 + b * 2 ^ 19 + 7 * 2 ^ 16 + ty * 2 ^ 5 + x

def bits1 (op d a imm x : Nat) : Nat := 2 ^ 62 + op * 2 ^ 52 + d * 2 ^ 41 + a * 2 ^ 30 + imm * 2 ^ 14 + 7 * 2 ^ 11 + x

def bits2 (op d x imm : Nat) : Nat := 2 ^ 63 + op * 2 ^ 52 + d * 2 ^ 41 + 7 * 2 ^ 38 + x * 2 ^ 32 + imm

theorem test_decode_control : decodeTableWord 64 (bits0 0x002 0 6 0 0 0) = some (.jmp (w0 0 6 0 .i32 0)) ∧ decodeTableWord 64 (bits2 0x001 0 0 12) = some (.bra (w2 12)) ∧ decodeTableWord 64 (bits1 0x009 0 0 100 0) = some (.nap (w1 0 0 100 0)) := by decide

theorem test_decode_integer : decodeTableWord 64 (bits0 0x080 9 3 4 0 0) = some (.add (w0 9 3 4 .i32 0)) ∧ decodeTableWord 64 (bits0 0x091 9 3 4 1 0) = some (.shr (w0 9 3 4 .n32 0)) ∧ decodeTableWord 64 (bits1 0x09B 0x601 3 10 2) = some (.setpImm (w1 0x601 3 10 2)) := by decide

theorem test_decode_float : decodeTableWord 64 (bits0 0x103 12 4 5 6 1) = some (.ffma (w0 12 4 5 .f32 1)) ∧ decodeTableWord 64 (bits0 0x109 8 3 0 6 0) = some (.frsq (w0 8 3 0 .f32 0)) := by decide

theorem test_decode_memory : decodeTableWord 64 (bits1 0x200 8 2 0x40 4) = some (.ld (w1 8 2 0x40 4)) ∧ decodeTableWord 64 (bits0 0x280 10 4 3 1 0) = some (.atom (w0 10 4 3 .n32 0)) ∧ decodeTableWord 64 (bits1 0x285 1 0 10 3) = some (.abegin (w1 1 0 10 3)) := by decide

theorem test_decode_engines : decodeTableWord 64 (bits0 0x2C0 10 0x621 3 0 0) = some (.barrive (w0 10 0x621 3 .i32 0)) ∧ decodeTableWord 64 (bits0 0x300 0x611 0x703 16 0 0) = some (.mma (w0 0x611 0x703 16 .i32 0)) ∧ decodeTableWord 64 (bits0 0x340 8 2 0 0 0) = some (.pgstat (w0 8 2 0 .i32 0)) ∧ decodeTableWord 64 (bits1 0x382 0 0 5 0) = some (.enter (w1 0 0 5 0)) ∧ decodeTableWord 64 (bits0 0x388 60 0 0 0 5) = some (.fread (w0 60 0 0 .i32 5)) := by decide

/-- A register of thread 0 after one word run first after reset, with registers as given. -/
def ran (w : Nat) (v : Words) (r : Nat) : Option Word :=
  let s := State.reset.withFetchWord 64 w
  match step (s.modThread 0 0 (fun t => { t with v := v })) with
  | .next s' => (s'.thread? 0 0).map (fun t => t.v.get r)
  | _ => none

/-- 08 R170: sums wrap. -/
theorem test_add_wraps : ran (bits0 0x080 9 3 4 0 0) [(3, 0xFFFFFFFF), (4, 2)] 9 = some 1 := by decide

/-- 08 R170: a source that is the destination is read first. -/
theorem test_sub_reads_first : ran (bits0 0x081 3 3 4 0 0) [(3, 5), (4, 7)] 3 = some 0xFFFFFFFE := by decide

/-- 08 R171: a logical shift by 32 gives 0. -/
theorem test_shr_full : ran (bits0 0x091 9 3 4 1 0) [(3, 0xFFFFFFFF), (4, 32)] 9 = some 0 := by decide

/-- 08 R171: an arithmetic shift by 32 or more gives the sign. -/
theorem test_sar_full : ran (bits0 0x092 9 3 4 0 0) [(3, 0x80000000), (4, 40)] 9 = some 0xFFFFFFFF := by decide

/-- 08 R170: the saturated difference of 0x80000000 and 1, signed. -/
theorem test_addsat_low : ran (bits0 0x082 9 3 4 0 1) [(3, 0x80000000), (4, 1)] 9 = some 0x80000000 := by decide

/-- 07 R158: BRA by 12 words from address 0 waits at 96. -/
theorem test_bra_target : (match step (State.reset.withFetchWord 64 (bits2 0x001 0 0 12)) with
    | .next s' => (s'.thread? 0 0).map (fun t => (t.cond, t.addr))
    | _ => none) = some (.waiting, 96) := by decide

/-- 09 R192: a store to the scratchpad, little-endian (00 R4). -/
theorem test_store_order : (match step ((State.reset.withFetchWord 64 (bits1 0x201 8 4 0x40 12)).modThread 0 0 (fun t => { t with v := [(8, 0x11223344)] })) with
    | .next s' => (s'.group? 0).map (fun g => [g.scratch.get 0x40, g.scratch.get 0x43])
    | _ => none) = some [0x44, 0x11] := by decide

/-- 07 R164, 16 R355: TRAP blocks its thread for containment, in a record of cause 0x31. -/
theorem test_trap_record : (match step (State.reset.withFetchWord 64 (bits1 0x00A 0 0 42 0)) with
    | .next s' => ((s'.thread? 0 0).map (fun t => t.cond), ((s'.ctx 0).faults.map (fun f => (f.record.cause, f.record.extra))))
    | _ => (none, [])) = (some (.blocked .contain), [(0x31, 42)]) := by decide

/-- 04 R91: CREATE before bring-up is over ends with BUSY. -/
theorem test_create_busy : (match exec (.create 0x103) { State.reset with ports := List.replicate 8 { Port.reset 0 with state := 2 } } with
    | .next s' => s'.bar.ctxErr
    | _ => 0) = 2 := by decide

/-- `TableWords`: another thread's exclusive attempt holds the line of a table entry. -/
theorem wit_tables_held : ∀ pa ∈ [0x70000, 0x78000, 0x78018], (demoIn heldBase CoreSt.empty (.nop (w0 0 0 0 .i32 0)) (demoGroup demoThread [{ demoThread with region := some (heldRegion (pa / 128)) }])).lineHeld 0 (pa / 128) (some (0, 0)) = true := by decide

/-- `MatrixCompletes`, `CopyProgress`: a follow-on MMA that waits, its core's queue full and not; a killed group's copy at the head of its channel. -/
theorem wit_follow : let f := command .mma 7 0
    let s (n : Nat) : State := { demoIn placed { CoreSt.empty with arrayQ := List.replicate n f } (.nop (w0 0 0 0 .i32 0)) (demoGroup demoThread) with chains := [(0, { cmds := [copy false], follow := some f })] }
    (s 16).chain 0 0 = { cmds := [copy false], follow := some f } ∧ f.kind = .mma ∧ 16 ≤ ((s 16).core 0).arrayQ.length ∧ ((s 3).core 0).arrayQ.length < 16 ∧ (∀ c, ((s 3).core 0).arrayQ.head? = some c → c.kind ≠ .mdrain)
    ∧ ({ demoGroup demoThread with killed := some 4 } : Group).killed ≠ none ∧ (copy false).written = 0 ∧ (copy false).ahead = [] ∧ (Blk.ofBits (copy false).block).bar = 0 := by
  refine ⟨by decide, by decide, by decide, by decide, ?_, by decide, by decide, by decide, by decide⟩
  intro c h
  have : c = command .mma 7 0 := by revert h; simp [demoIn, State.core, lookKey, List.replicate]; exact fun h => h.symm
  subst this; decide

/-- `DrainCompletes`: a copy that has written bytes reads the tile, and one that has not. -/
theorem wit_mid_copy : ∀ n ∈ [0, 1], let s : State := { demo (.nop (w0 0 0 0 .i32 0)) (demoGroup demoThread) with chains := [(0, { cmds := [{ copy true with written := n }], follow := none })] }
    s.midCopy (s.places 0 (demoGroup demoThread) 1 ((Lay.ofBits (layout 1 7)).tileUnits [0, 0, 0, 0, 0] 2 4)) = decide (n = 1) := by decide

/-- `RegionCommits`: a lower thread of the pack that waits for its commit too. -/
theorem wit_commits_later : let t : Thread := inRegion (askedRegion 0 true true)
    let g := demoGroup t [t]
    ({ demo (.nop (w0 0 0 0 .i32 0)) g with cores := [(0, { CoreSt.empty with streams := [{ Stream.free with dispatch := some { placedDispatch none with packs := [[(0, 0), (1, 1)]] } }, Stream.free] })] } : State).commitsLater g 1 = true := by decide

/-- SETPIMM of p0 from v20, a BRA under p0, and at its target a load of a word of the page. -/
def branching : State := filled (bytesOfNat (bits1 0x09B 0x600 20 0 0) 8 ++ bytesOfNat (2 ^ 63 + 0x001 * 2 ^ 52 + 2) 8 ++ bytesOfNat 0 8 ++ bytesOfNat (bits1 0x200 8 4 0x40 4) 8)

/-- `CoreEvents`: an entry that waits at the branch with a result outstanding, and the load it may make early; a stream's choice beside the other's. -/
theorem wit_speculates : branching.speculates (demoGroup { demoThread with cond := .waiting, addr := 8, held := [{ reg := 20, count := 1, value := 1, left := 1, ready := false, tag := none, flags := 0, at_ := 0 }] }) 0x40 = true
    ∧ (let g := (demoGroup { demoThread with cond := .waiting } [{ demoThread with cond := .waiting, addr := 8 }]).retable
      let s : State := { withGroup live g with cores := [(0, { CoreSt.empty with streams := [{ Stream.free with dispatch := some (placedDispatch none) }, Stream.free] })] }
      (s.stream 0 1).dispatch = none ∧ (s.stream 0 0).dispatch ≠ none ∧ (s.choose 0 1).map (fun e => e.addr) = some 8) := by decide

/-- `GangEvents`: a save area that is there and one that is not; a byte of the image; a gang held back for 100 µs. -/
theorem wit_saves : let s (b : Dword) : State := withGroup { live with ctxs := [(0, { placedCtx with state := .quiescing, saveBase := b })] } (demoGroup demoThread)
    let g : Gang := { placedGang with state := .saving, halted := true, saveSlot := some 0 }
    (s 0).saveFault 0 g .store = none ∧ ((s 0x10000).saveFault 0 g .store).isSome = true ∧ g.saveWait = none ∧ (s 0).hbm.wf = true ∧ (s 0).route 0 (((s 0).ctx 0).saveBase.toNat + g.saveSlot.getD 0 * ((s 0).ctx 0).slotSize + 0) .store = .ok (.mem 0 0x70000) ∧ (∀ i, i < 64 → ((s 0).gangByte g i).isSome = true)
    ∧ (∃ x n, ({ withGroup (paged 2 1 true (leased 1) 200000) (demoGroup demoThread) with kernels := [(0, { placedKernel with gangs := [{ placedGang with firstSince := some 0 }] })] } : State).gang? 0 0 = some x ∧ x.firstSince = some n ∧ n + 100000 ≤ (paged 2 1 true (leased 1) 200000).ns) := by
  refine ⟨by decide, by decide, by decide, by decide, by decide, by decide, ⟨_, _, rfl, rfl, by decide⟩⟩

/-- `DebugEvents`: the area of a saved gang and of its group, which words of zeros keep or break. -/
theorem wit_image : let g : Group := { demoGroup demoThread with resident := false }
    let s := withGroup live g
    s.imageGroup placedGang 4096 = some (0, 0) ∧ (g.imageWrite 0 (List.replicate 64 5) 0).isSome = false ∧ (g.imageWrite 64 ((List.range 64).map (fun k => (g.imageByte (64 + k)).getD 0)) 0).isSome = true
    ∧ placedGang.ofArea (areaWrite placedGang.area 0 (List.replicate 64 1)) = none ∧ (placedGang.ofArea (areaWrite placedGang.area 256 (List.replicate 64 0))).isSome = true := by decide

/-- `Containment`: a context whose commands of this plinth cycle come first, and one that has none. -/
theorem wit_command_first (n : Nat) : lookKey 0 [(0, n)] = some n ∧ lookKey 0 live.bar.ctxAt ≠ some n := ⟨by simp [lookKey], by have h : live.bar.ctxAt = [] := rfl; rw [h]; simp [lookKey]⟩

/-- `SlotEvents`: a command in progress and none; a slot that is free and was not left in this cycle; the control block of an unmap that signals and of one that does not. -/
theorem wit_slot_busy : ({ live with bar := { live.bar with mapWait := some (3, 0, 0, 0) } } : State).slotBusy = true ∧ live.slotBusy = false ∧ live.unmaps = [] ∧ (slot .mapped 1 0 []).errcode < 8 ∧ (slot .mapped 1 0 []).gone = false ∧ (slot .mapped 1 0 []).wait = none := by decide

theorem wit_unmaps : let s := withSlot [] (slot .mapped 1 0 [])
    (s.qcbLoc (slot .mapped 1 0 [])).toOption = some (.mem 0 0x70000) ∧ natOfBytes (s.currentBytes (.mem 0x10 0x70010) 8) = 1 ∧ natOfBytes (s.currentBytes (.mem 0x40 0x70040) 8) = 0 ∧ (slot .mapped 1 0 []).cons ≠ (slot .mapped 1 1 []).cons := by decide

/-- `PageEvents`, `RegistrarRequests`: a job of each kind on the page; the page a frame holds; a page that is pinned; a device with no frame left. -/
theorem wit_jobs : (∀ op ∈ [PageOp.refill false true, .writeBack false, .migrate 2 true, .migrate 2 false, .hold], let j : PageJob := { ctx := 0, page := 0, op := op }
      let s : State := { paged 2 1 true (leased 1) 0 with jobs := [j] }
      s.jobOn 0 0 = (if op = .hold then none else some j) ∧ j.snooped = false ∧ s.hostReach s.reqHead.at_ = true ∧ s.pageHeld 0 0 = decide (op = .hold))
    ∧ (paged 2 1 true (leased 1) 0).ctxs.findSome? (fun k => (paged 2 1 true (leased 1) 0).pageIn k 7) = some (0, 0) ∧ (∀ k ∈ live.ctxs, live.pageIn k 9 = none)
    ∧ (let s : State := { asked 3 (paged 2 1 false (leased 1) 0) with bar := { (asked 3 (paged 2 1 false (leased 1) 0)).bar with hbmDown := 0xFF } }
      s.reqHead.ok = true ∧ (∀ va ∈ s.reqHead.vas, s.pageState s.reqHead.ctx va ∈ [2, 3, 4]) ∧ s.freeFrames (s.framesWanted s.reqHead) s.firstFrame < s.framesWanted s.reqHead)
    ∧ (∃ x ∈ ({ asked 2 live with pins := [{ grp := 0, ctx := 0, base := 0, len := 128, lapse := 5 }] } : State).pins, x.ctx = 0 ∧ x.base < 0 + 65536 ∧ 0 < x.base + x.len) := by decide

/-- `LeaseEvents`: a renewal in the mailbox at the expiry and none; a lease with a request that has waited 20 ms, its node reported before and not. -/
theorem wit_renewal : (mailed [9 * 2 ^ 32 + 2 ^ 16 + 2, 0, 0, 5000] (paged 2 1 true (leased 2) 1000)).renewalWins (leased 2) = true ∧ (paged 2 1 true (leased 2) 1000).renewalWins (leased 2) = false
    ∧ (let s : State := { paged 2 1 true (leased 1) 20000000 with jobs := [{ ctx := 0, page := 0, op := .writeBack false }] }
      (∃ j ∈ s.jobs, j.ctx = (leased 1).ctx ∧ j.page / 16384 = (leased 1).vabase ∧ j.pool = true ∧ j.since + 20000000 ≤ s.ns) ∧ (¬∃ x ∈ s.leases, x.2.node = (leased 1).node ∧ x.2.state = 4 ∧ x.2.failedAt ≠ 0))
    ∧ (∃ x ∈ [(5, { leased 4 with failedAt := 7 })], x.2.node = 2 ∧ x.2.state = 4 ∧ x.2.failedAt ≠ 0) := by decide

/-- `FabricEvents`: a line asked for by a higher die in the same plinth cycle, and not. -/
theorem wit_served : (∃ x ∈ ({ live with served := [(live.plinth, 3, 5)] } : State).served, x.1 = live.plinth ∧ x.2.1 = 3 ∧ 2 < x.2.2) ∧ live.served = [] := by decide

/-- `StepRunsDecoded`: an array word on a core of the Registrar's, whose stream holds it. -/
theorem wit_step_registrar : let s : State := { State.reset.withFetchWord 64 0x301C200000070000 with cores := [(384, { CoreSt.empty with streams := [{ Stream.free with dispatch := some (placedDispatch none) }, Stream.free] })] }
    (s.stream 384 0).dispatch = some (placedDispatch none) ∧ (s.group? 0).isSome = true ∧ s.trialHolds 384 (s.stream 384 0) = false ∧ s.issuedNow 384 0 = false ∧ (placedDispatch none).todo.find? (fun n => s.packReady (placedDispatch none) n) = some 0 ∧ s.breakpointAt 0 0 = none
    ∧ s.route 0 0 .fetch = .ok (.mem 0 0x70000) ∧ decodeBytes (s.currentBytes (.mem 0 0x70000) 8) = .ok (.mzero (w0 0x610 0 0 .i32 0), []) ∧ arrayWord (.mzero (w0 0x610 0 0 .i32 0)) = true := by decide

/-- `ExactThenRoundedOnce`: FDOT2 of ones and FSQRT of 2. -/
theorem wit_exact_more : (Fmt.bf16.decode (0x3F803F80 % 65536)).finite = true ∧ (Fmt.f32.decode 0x3F800000).finite = true ∧ (Fmt.bf16.decode 0x3F80).rat * (Fmt.bf16.decode 0x3F80).rat + (Fmt.bf16.decode 0x3F80).rat * (Fmt.bf16.decode 0x3F80).rat + (Fmt.f32.decode 0x3F800000).rat ≠ 0
    ∧ (Fmt.f32.decode 0x40000000).finite = true ∧ 0 < (Fmt.f32.decode 0x40000000).rat := by
  have h : Fmt.bf16.decode 0x3F80 = .fin false 0x80 (-7) := by decide
  have k : Fmt.f32.decode 0x3F800000 = .fin false 0x800000 (-23) := by decide
  have m : Fmt.f32.decode 0x40000000 = .fin false 0x800000 (-22) := by decide
  have e : 0x3F803F80 % 65536 = 0x3F80 := by decide
  rw [e, h, k, m]; simp only [Val.finite, Val.rat]; norm_num

/-- `RoundingIsCorrect`: the spacing at 1 / 3, at the least normal magnitude and below it; a value past the largest finite one. -/
theorem wit_spacing : let least : ℚ := (2 : ℚ) ^ Fmt.f32.emin
    ((1 : ℚ) / 3 < 2 ^ ((-2 : Int) + 1) ∧ (2 : ℚ) ^ (-2 : Int) ≤ 1 / 3 ∧ Fmt.f32.emin ≤ -2) ∧ (least < 2 ^ (Fmt.f32.emin + 1) ∧ least / 2 < 2 ^ (Fmt.f32.emin + 1)) ∧ (∀ x, Fmt.f32.decode Fmt.f32.maxMag = x → x.rat < 2 ^ 128) := by
  have e : Fmt.f32.emin = -126 := by decide
  have m : Fmt.f32.decode Fmt.f32.maxMag = .fin false 0xFFFFFF 104 := by decide
  rw [e]
  refine ⟨⟨by norm_num, by norm_num, by norm_num⟩, ⟨by norm_num, by norm_num⟩, ?_⟩
  rintro x hx
  rw [m] at hx; subst hx; simp only [Val.rat]; norm_num

/-- `FloatValues`: an infinity of each sign, a zero, a tie. -/
theorem wit_values_more : Fmt.f32.decode 0x7F800000 = .inf false ∧ Fmt.f32.decode 0xFF800000 = .inf true ∧ (Fmt.f32.decode 0x80000000).isZero = true ∧ Fmt.f32.decode 0x3F000000 = .fin false 0x800000 (-24) ∧ (Fmt.f32.decode 0).isNan = false := by decide

/-- The state of a word that uses the stack area, 64 bytes a thread at 0x400. -/
def stacked (b : State) (i : Instr) (t : Thread) (more : List Thread := []) : State := { demoIn b CoreSt.empty i (demoGroup t more) with kernels := [(0, { placedKernel with desc := { placedDesc with stkBase := 0x400, stkSize := 64 } })] }

/-- `ControlWords`: a spill with room and a page, a refill; a store of the thread that another's attempt holds back. -/
theorem wit_stack : let t : Thread := { demoThread with ret := List.replicate 8 8 }
    let u : Thread := { demoThread with spill := 1 }
    let e (i : Instr) (t : Thread) := (stacked placed i t).env demoIssue (demoGroup t) (0, 0)
    fits (.call (w2 1)) t = true ∧ fits (.calli (w0 0 4 0 .i32 0)) t = true ∧ fits (.ret (w0 0 0 0 .i32 0)) u = true ∧ t.ret.getLast? = some 8 ∧ 8 * (t.spill + 1) ≤ (e (.call (w2 1)) t).stackSize ∧ (t.sourcePair 4).toNat % 8 = 0 ∧ (placed.route 0 0x400 .store = .ok (.mem 0x400 0x70400))
    ∧ (e (.call (w2 1)) t).stackArea = 0x400 ∧ (((e (.call (w2 1)) t).store (.mem 0x400 0x70400) 0x400 (bytesOfNat 8 8) none).drainThread 0 0 0).isSome = true ∧ ((e (.ret (w0 0 0 0 .i32 0)) u).read (.mem 0x400 0x70400) 0x400 8).isSome = true
    ∧ ((((stacked { heldBase with cores := [(0, coreWith [queued 0 [1]] false)] } (.call (w2 1)) t [holder]).setCore 0 (coreWith [queued 0 [1]] false)).env demoIssue (demoGroup t [holder]) (0, 0)).s.drainThread 0 0 0).isNone = true := by decide

/-- `PrefetchAndCacheWords`: a pooled page whose extent is there and one whose port is down; a job that waits for it. -/
theorem wit_clean : let s (up : Bool) : State := { placed with hbm := placedTables.write 0x62000 (bytesOfNat (2 * 2 ^ 60 + 2 ^ 58 + 2 ^ 56 + 7 * 65536 + 5) 8), leases := [(5, { Lease.free with state := 1, port := 1 })], ports := List.replicate 8 { Port.reset 0 with state := if up then 2 else 0 } }
    (s false).unreached 0 0 = true ∧ (s true).unreached 0 0 = false ∧ ({ ctx := 0, page := 0, op := .clean } : PageJob).cleans = true := by decide

/-- `PinAndWindowWords`: an UNPIN of length 0; a window whose page another thread's attempt holds. -/
theorem wit_unpin_and_held : demoThread.v.get (vnum 2) = 0 ∧ (window true).len / 128 = 32 ∧ (let s : State := { demoIn heldBase (coreWith [] false) (.spunmap (w0 0 4 0 .i32 0)) (demoGroup demoThread [holder]) with windows := [window true] }
      s.lineHeld 0 (7 * 512 + 0) (some (0, 0)) = true) := by decide

/-- `BarrierWaits`: a token that is ahead, one that is malformed, one of no barrier the thread may name; an arrival that flips its phase with bytes past 2^32. -/
theorem wit_bad_tokens : (placedBarrier.phase.toNat % 65536 + 65536 - (0xFFFF0621 : Word).toNat / 65536) % 65536 = 1 ∧ 32768 ≤ (placedBarrier.phase.toNat % 65536 + 65536 - (0x10621 : Word).toNat / 65536) % 65536 ∧ (0x821 : Word).toNat / 2 ^ 11 % 2 ^ 5 ≠ 0 ∧ (0x611 : Nat) ∉ (List.range 24).map (fun n => 0x620 + n)
    ∧ (({ placedBarrier with arrBytes := 5 } : Barrier).arrive 1).2 = some true ∧ ({ placedBarrier with arrBytes := 5 } : Barrier).refusal 1 = none ∧ (placedDispatch (some (.bsync (w0 0 0x621 2 .i32 0)))).handler = false := by decide

/-- `FpExceptions`: one exception pending, one of this cycle from a higher stream; a landing, an engine's flags; a thread blocked at a barrier. -/
theorem wit_fp_more : let g : Group := { demoGroup demoThread with fpPending := some (0x80, 0), fpStream := 1, trapEn := 1 }
    let h : HeldWrite := { reg := 8, count := 1, value := 1, left := 0, ready := false, tag := none, flags := 1, at_ := 0x40 }
    (∃ a, g.fpPending = some (a, (demo (.fadd (w0 8 4 2 .f32 0)) g).clock 0) ∧ 0 < g.fpStream) ∧ h.more = [] ∧ h.count ≤ 4 ∧ h.flags &&& g.trapEn ≠ 0 ∧ fits (.fadd (w0 8 4 2 .f32 0)) demoThread = true ∧ demoThread.reads (.fadd (w0 8 4 2 .f32 0))
    ∧ (let b : Thread := { demoThread with cond := .blocked .barrier, token := some 0x621, addr := 8 }
      let s : State := { withGroup live { demoGroup b with fpPending := some (0x80, 0) } with dies := List.replicate 8 { Die.reset with clock := 1 } }
      s.issue = none ∧ (({ demoGroup b with fpPending := some (0x80, 0) } : Group).pendingFp (s.clock 0)) = some 0x80 ∧ b.region = none ∧ b.inHandler = false) := by
  refine ⟨⟨0x80, by decide, by decide⟩, by decide, by decide, by decide, by decide, by unfold Thread.reads; decide, by decide⟩

/-- `RegionBeginsAndAborts`: a lock whose first refused thread has exited, and whose next one has not. -/
theorem wit_refused : let s : State := demo (.abegin (w1 8 0 10 3)) (demoGroup demoThread [{ demoThread with cond := .exited }])
    s.keepsPlace (0, 0) = true ∧ s.keepsPlace (0, 1) = false ∧ encode (.abegin (w1 8 0 10 3)) ≠ none := by decide

/-- `TableWords`: a lock word of 4 and of 8 bytes that is not aligned. -/
theorem wit_bind_misaligned : (∀ x ∈ [(0, 2), (8, 4)], fits (.bind (w0 8 4 2 .i32 x.1)) { demoThread with v := [(2, BitVec.ofNat 32 x.2), (6, 128)] } = true ∧ (({ demoThread with v := [(2, BitVec.ofNat 32 x.2), (6, 128)] } : Thread).sourcePair 2).toNat % (if x.1 = 8 then 8 else 4) ≠ 0) ∧ (Operand.ofCode 2).isBar = false := by decide

/-- `MatrixCompletes`: an earlier MMA of the slot before a load, and an earlier load before an MMA. -/
theorem wit_slot_order : let m : EngCmd := { command .mma 7 0 with num := 1 }
    let k : EngCmd := { command .mldb 7 7 with num := 2 }
    (∃ x ∈ [m], x.kind = .mma ∧ x.grp = k.grp ∧ x.slot = k.slot ∧ x.num < k.num) ∧ ¬(∃ x ∈ [k], x.grp = m.grp ∧ x.slot = m.slot ∧ x.num < m.num) := by
  constructor
  · exact ⟨_, List.mem_singleton.2 rfl, by decide, by decide, by decide, by decide⟩
  · rintro ⟨x, hx, -, -, h⟩; rw [List.mem_singleton] at hx; subst hx; revert h; decide

/-- `CopyProgress`: a command with a barrier and a follow-on, its channel with a cancelled command behind it. -/
theorem wit_copy_follow : let b : BitVec 512 := BitVec.ofNat 512 (natOfBytes (bytesOfNat (0x90000 + 0x621 * 2 ^ 24) 48 ++ bytesOfNat 1 4))
    (Blk.ofBits b).follow = true ∧ (Blk.ofBits b).bar = 0x621 ∧ (Blk.ofBits b).rank = 1 ∧ ((demo (.nop (w0 0 0 0 .i32 0)) (demoGroup demoThread)).group? (copy true).grp).isSome = true ∧ (({ demoIn placed CoreSt.empty (.nop (w0 0 0 0 .i32 0)) (demoGroup demoThread) with chains := [(0, { cmds := [copy true], follow := none })] } : State).chain 0 0).cmds = [copy true] := by decide

/-- A trigger that starts at MARK 5 and stops at TRIG 6, with an action. -/
def trigger (isOpen : Bool) (action : BitVec 3) : Trigger := { isOpen := isOpen, windows := 0, emptyWin := 0, cfg := BitVec.ofNat 64 (2 * 2 ^ 12 + 5 * 2 ^ 16 + 1 * 2 ^ 44 + 6 * 2 ^ 48), action := action }

/-- An event of a kind with an identifier, of context 0's thread 0. -/
def event (kind id : Nat) (waits : Bool) : TrigEvent := { ctx := 0, core := 0, grp := 0, gidx := 0, kseq := 1, count := 1, low := 0, top := 0, kind := kind, id := id, waits := waits, hit := [0] }

/-- `TraceWords`: an event that may halt and one that may not; the answers a pack may have; events that open, close, do both, and do neither; one event in the buffer, and a pack that waits for it. -/
theorem wit_triggers : (trigger false 4).action.getLsbD 2 = true ∧ (trigger false 1).action.getLsbD 2 = false ∧ (trigger false 4).cfg.toNat / 2 ^ 12 % 16 = (event 2 5 false).kind ∧ (trigger false 4).cfg.toNat / 2 ^ 16 % 65536 = (event 2 5 false).id ∧ (trigger false 4).cfg.toNat / 2 ^ 44 % 16 = (event 1 6 false).kind ∧ (trigger false 4).cfg.toNat / 2 ^ 48 % 65536 = (event 1 6 false).id
    ∧ (∀ x ∈ [none, some EventAnswer.pending, some .go, some (.halt 2)], (({ placedDispatch (some (.mark (w1 0 0 5 0))) with sent := x } : Dispatch).sent = x)) ∧ (placedDispatch none).packs = [demoIssue.lanes] ∧ (placedDispatch none).todo = [0]
    ∧ (∀ k ∈ [(true, [event 1 6 false]), (true, [event 2 5 false]), (false, [event 1 6 false, event 2 5 false]), (false, [event 2 5 false]), (false, [event 3 5 false])], ∀ e ∈ k.2, 1 ≤ e.kind ∧ e.kind ≤ 5)
    ∧ (let s : State := { withGroup live (demoGroup demoThread) with evbuf := [event 2 5 true], cores := [(0, { CoreSt.empty with streams := [{ Stream.free with dispatch := some { placedDispatch none with sent := some .pending } }, Stream.free] })], ctxs := [(0, { placedCtx with trigs := [trigger false 4] })] }
      s.evbuf = [event 2 5 true] ∧ (lookKey 0 s.ctxs).isSome = true ∧ (s.core 0).streams.length = 2 ∧ ((s.stream 0 0).dispatch.map (fun d => d.packs.flatten.any (fun l => l.2 == 0))) = some true ∧ (s.ctx 0).trace = false ∧ (live.ctx 0).trace = true) := by decide

/-- `QueueWords`: another thread's attempt holds the line of the control block. -/
theorem wit_queue_held : (demoIn heldBase CoreSt.empty (.launch (w0 8 4 2 .i32 0)) (demoGroup demoThread [holder])).locHeld 0 (.mem 0 0x70000) (some (0, 0)) = true ∧ (demo (.launch (w0 8 4 2 .i32 0)) (demoGroup demoThread)).locHeld 0 (.mem 0 0x70000) (some (0, 0)) = false := by decide

/-- `CoreEvents`: an activation whose thread is to halt before another that goes on; an entry whose first word cannot be fetched, and one whose can; a held write with another of its pair behind it. -/
theorem wit_stopped : let h (x : Option Nat) : Thread := { demoThread with cond := .blocked .handler, handler := some { activation with active := false }, haltReq := x }
    let s : State := withGroup live (demoGroup (h (some 4)) [h none])
    (s.group? 0).map (fun y => (y.threads.map (fun t => t.haltReq))) = some [some 4, none] ∧ s.gangHalted (demoGroup (h (some 4)) [h none]) = false ∧ (live.fetch 0 0).toOption.isSome = true ∧ (live.fetch 0 0x10000).toOption.isSome = false
    ∧ ({ reg := 8, count := 1, value := 1, left := 0, ready := false, tag := none, flags := 0, at_ := 0, more := [(10, 5)] } : HeldWrite).more = [(10, 5)] := by decide

/-- A gang that has been saved to slot 0, with a copy cancelled at its halt. -/
def savedState : State :=
  let g : Gang := { placedGang with state := .saved, saveSlot := some 0, cancelled := [(0, 3)] }
  let s : State := { withGroup { live with bar := { live.bar with qout := 0 } } { demoGroup { demoThread with cond := .waiting } with resident := false } with ctxs := [(0, { placedCtx with slotsUsed := [0] })], kernels := [(0, { placedKernel with gangs := [g] })] }
  { s with reports := [(0, (List.range 4).map (fun c => s.coreFree c))] }

/-- `GangEvents`: a saved gang that may stand on a quad again; a group whose threads have exited, and the place of its event record. -/
theorem wit_resumes : let s1 := savedState.markFirst
    let me : Cand := { kn := 0, gi := 0, opened := false, prio := 0, saved := true, order := 0 }
    s1.cands = [me] ∧ (s1.gang? 0 0).map (fun g => g.state) = some .saved ∧ me.before me = false ∧ (∀ c ∈ [1], c ∈ s1.roomy 0 placedKernel 0) ∧ distinct [1] = [1] ∧ savedState.saveFault 0 { placedGang with saveSlot := some 0 } .load = none ∧ placedGang.heldCounts = [] ∧ demoThread.wake = none ∧ ((0, (3 : Word)).2 ≠ 0xFFFFFFFF)
    ∧ (let g := demoGroup { demoThread with cond := .exited }
      let s : State := { withGroup live g with kernels := [(0, { placedKernel with desc := { placedDesc with evAddr := 0x800, ngroups := 2 } })] }
      s.groupBusy 0 g = false ∧ s.undecided 0 g = false ∧ (s.kern? 0).map (fun k => (k.desc.evAddr, k.desc.evb, k.desc.ngroups)) = some (0x800, false, 2) ∧ (s.ctx 0).state = .active ∧ s.windows = [] ∧ s.devWrites = [] ∧ Mem.wf s.hbm = true ∧ s.route 0 0x800 .store = .ok (.mem 0x800 0x70800)
        ∧ (List.range 64).all (fun j => match (s.eventRecord 0 0 0).route 0 ((s.ctx 0).jaddr j) .store with
          | .ok (.mem _ pa) => decide (pa + 64 ≤ 0x70800)
          | _ => true) = true) := by decide

/-- `ContextEvents`: a command while a RESUME waits; a queue that was suspended. -/
theorem wit_ctx_busy : ({ live.bar with ctxBusy := [3] } : Bar0).ctxBusy ≠ [] ∧ live.bar.ctxBusy = [] ∧ live.boot = 6 ∧ ({ live with boot := 1 } : State).boot = 1 := by decide

/-- `Containment`: a group of the context retired in this plinth cycle, and none did. -/
theorem wit_retired : (∃ k ∈ ({ live with kernels := [(0, { placedKernel with gangs := [{ placedGang with retiredAt := some live.plinth }] })] } : State).kernels, k.2.ctx = 0 ∧ ∃ g ∈ k.2.gangs, g.retiredAt = some live.plinth) ∧ live.kernels = [] :=
  ⟨⟨_, List.mem_singleton.2 rfl, rfl, _, List.mem_singleton.2 rfl, rfl⟩, rfl⟩

/-- `SlotEvents`: an acceptance in this plinth cycle; a queue whose PROD is another than CONS, with and without each stall condition; a notify of this cycle. -/
theorem wit_settles : let s := withSlot (bytesOfNat 0 8) (slot .active 1 0 [])
    ({ slot .active 1 0 [] with acceptedAt := some s.plinth } : QSlot).acceptedAt = some s.plinth ∧ (slot .active 1 0 []).acceptedAt = none ∧ s.hostReach ((s.ctx 0).desc.toNat + 0x48) = true ∧ (s.wakeHost ((s.ctx 0).desc.toNat + 0x48)).devRead 0 0x1000 64 = .ok (List.replicate 64 0) ∧ (slot .active 1 0 []).hwait = none
    ∧ ((s.ctx 0).jprod - s.jcons 0).toNat ≠ 2 ^ (s.ctx 0).jlog ∧ (∃ c ∈ [running 2 0 none], c.running = true ∧ c.type = 2) ∧ (bytesOfNat 4 8).head? = some 4 ∧ (slot .active 1 0 []).unmapping = false := by decide

/-- A launch descriptor that passes: one group of one thread, 32 registers. -/
def launchBytes (first : Nat) : List Byte := bytesOfNat (first + 1 * 2 ^ 48 + 1 * 2 ^ 16) 8 ++ bytesOfNat 0 8 ++ bytesOfNat (1 + 1 * 2 ^ 32) 8 ++ bytesOfNat 0 104

/-- `PacketEvents`: a descriptor that breaks none of the conditions, one that breaks each kind; a running wait of a queue that is no longer mapped. -/
theorem wit_launch : let p (first : Nat) : BitVec 512 := BitVec.ofNat 512 (1 + 2 ^ 64 * (0x2000 + 0 * first))
    let s (bs : List Byte) : State := let a := withSlot [] (slot .active 1 0 []); { a with hbm := a.hbm.write 0x72000 bs, ctxs := [(0, { (a.ctx 0) with slotSize := 2 ^ 20 })] }
    (s (launchBytes 1)).devReadAll 0 0x2000 128 = .ok (launchBytes 1 ++ List.replicate (128 - (launchBytes 1).length) 0)
    ∧ (match (s (launchBytes 1)).launchRead (slot .active 1 0 []) (p 1) with
      | .pass d ps => decide (d.ngroups = 1 ∧ ps = [])
      | _ => false) = true
    ∧ (∀ x ∈ [2 ^ 63 + 1, 2, 2 ^ 9 + 1, 2 ^ 12 + 1], (match (s (launchBytes x)).launchRead (slot .active 1 0 []) (p 1) with
      | .reject => true
      | _ => false) = true)
    ∧ (match (s []).launchRead (slot .active 1 0 []) (BitVec.ofNat 512 (2 ^ 64 * 0x20000)) with
      | .wait _ _ => true
      | _ => false) = true
    ∧ (let q : QSlot := { slot .unmapped 0 0 [running 2 0 (some 0)] with unmapping := false }
      q.state = .unmapped ∧ q.cmds = [running 2 0 (some 0)] ∧ 256 ≤ 256 + 3 ∧ (0 : Nat) ≤ live.ns) := by decide

/-- `PageEvents`, `RegistrarRequests`: a lease of the context, GRANTED, whose port is up, and one whose port is in training; a page in a group of 2 MiB and one in none, in tables that stand apart; a prefetch of a page whose lease is another's; a migration's entry. -/
theorem wit_page_leases : let s := paged 1 1 false (leased 1) 0
    (s.lease 5).ctx = 0 ∧ (s.lease 5).state = 1 ∧ (s.lease 5).port ≠ 0 ∧ s.linkUp (s.lease 5).port = true ∧ ({ s with ports := List.replicate 8 { Port.reset 0 with state := 1 } } : State).port 1 = { Port.reset 0 with state := 1 } ∧ ({ leased 1 with ctx := 9 } : Lease).ctx ≠ 0
    ∧ (2 ^ 57 : Dword).getLsbD 57 = true ∧ (0 : Dword).getLsbD 57 = false ∧ Mem.wf s.hbm = true ∧ (s.ctx 0).ptroot.toNat % 8 = 0 ∧ (∀ k ∈ s.cores, k.2.wq = []) ∧ s.windows = [] ∧ (s.walkCtx 0 0 matches .leaf _ _) = true := by decide

/-- `RegistrarRequests`: a fault of a lease's end that has waited as long as RENEWWAIT says, and one that has not. -/
theorem wit_late : let p : PendFault := { pending 0x13 with asked := true }
    (p.cause = 0x13 ∧ p.asked = true ∧ p.at_ + live.bar.renewwait * 1000000 ≤ (paged 1 1 false (leased 3) 600000000).ns) ∧ ¬(p.at_ + live.bar.renewwait * 1000000 ≤ live.ns) ∧ (pending 0x13).asked = false := by decide

/-- `LeaseEvents`: an expiry of this plinth cycle with the mailbox served, and one that is past; a fault that waits for the lease; a node that is known to have failed. -/
theorem wit_expiry : let s : State := { mailed [6] (paged 2 1 true (leased 2) 0) with devTicks := 504000 + 40, tick := 504000 + 40 }
    s.registrarUp = true ∧ s.devTicks - s.tick % Config.plinthTicks ≤ (leased 2).expiry * Config.ticksPerNs ∧ (leased 2).expiry ≤ s.ns ∧ ¬((paged 2 1 true (leased 2) 2000).devTicks - (paged 2 1 true (leased 2) 2000).tick % Config.plinthTicks ≤ (leased 2).expiry * Config.ticksPerNs)
    ∧ (let x : PendFault := { pending 0x13 with record := { (pending 0x13).record with extra := BitVec.ofNat 64 (2 ^ 54 + 5 * 2 ^ 42) } }
      x.record.extra.getLsbD 54 = true ∧ x.record.extra.toNat / 2 ^ 42 % 4096 = 5 ∧ x.ctx = (leased 1).ctx) ∧ (∃ x ∈ (paged 2 1 false (leased 5) 0).leases, x.2.node = 2 ∧ x.2.state = 5) := by decide

/-- `FabricEvents`: a store that a narrow scope has not yet shown, read over the port; a CWB's request whose port comes back; a failed step 2. -/
theorem wit_fabric_more : (∃ j ∈ ({ paged 2 1 true (leased 1) 0 with jobs := [{ ctx := 0, page := 0, op := .clean }] } : State).jobs, j.op = .clean ∧ ((paged 2 1 true (leased 1) 0).lease 5).port = 1 ∧ ((paged 2 1 true (leased 1) 0).lease 5).ctx = j.ctx) ∧ ({ live with boot := 1 } : State).boot = 1 ∧ live.boot ≠ 1 ∧ 2 ≤ live.boot
    ∧ (let w : Dword := BitVec.ofNat 64 (3 * 256 + 2); w.toNat / 2 ^ 8 % 16 = 3) := by decide

/-- `PowerAndRegisterEvents`: a die at the level asked for and at another; RETRAIN values of 0 and of 64. -/
theorem wit_levels : (live.die 2).level = BitVec.ofNat 2 0 ∧ (live.die 2).level ≠ BitVec.ofNat 2 3 ∧ (2 ^ 32 * 3 : Dword).toNat / 2 ^ 32 % 512 < 4 ∧ ¬((2 ^ 32 * 64 : Dword).toNat / 2 ^ 32 % 512 < 4) := by decide

/-- `DebugEvents`: an operation while a HALT waits; a thread whose commit is decided; a group of one thread blocked for another reason; a trial counted for context 0, due and not; two groups of a core, the sample before taken of the first, of the second and of none. -/
theorem wit_debug_more : let c : Thread := inRegion { plainRegion with decided := some true }
    let s := debugged c 0 0
    s.bar.dbgHalt = [] ∧ ({ s.bar with dbgHalt := [0] } : Bar0).dbgHalt ≠ [] ∧ c.committing = true ∧ demoThread.region = none ∧ (s.gang? 0 0).map (fun x => x.members) = some [0] ∧ (∀ r ∈ [Reason.barrier, .nap, .page, .contain, .handler, .debug], r ≠ .queue)
    ∧ (let st : Stream := { Stream.free with trialCount := 10, trialCtx := some 0 }
      st.trialCtx = some 0 ∧ Stream.free.trialCtx = none ∧ 10 ≤ st.trialCount)
    ∧ (let g (k : Nat) : Group := { demoGroup demoThread with slot := k }
      let s (last : Option Nat) : State := { live with groups := [(0, g 1), (1, g 4)], cores := [(0, { CoreSt.empty with sampleSlot := last })] }
      (s none).residents 0 = [(0, g 1), (1, g 4)] ∧ (∀ x ∈ [(none, 0), (some 1, 1), (some 4, 0), (some 2, 1)], ((s x.1).sampleGroup 0).map (fun e => e.1) = some x.2) ∧ live.bar.qgate.getLsbD 0 = false ∧ ({ live.bar with qgate := 1 } : Bar0).qgate.getLsbD 0 = true) := by decide

/-- `DecodeFaults`: each ground at its boundary: a lookahead, a mark, a reserved code, an unused field, registers at the frame's end, each condition on a pair, a scope. -/
theorem wit_grounds : let wf (i : Instr) : Option Nat := wordFault i 32 1 true false
    wf (.add { w0 8 4 2 .i32 0 with la := 1 }) = some 1 ∧ wf (.fdiv { w0 8 4 2 .f32 0 with la := 15 }) = none ∧ wf (.ld { w1 8 4 0x40 4 with la := 15 }) = none ∧ wf (.st { w1 8 4 0x40 4 with la := 1 }) = some 1 ∧ wf (.add { w0 8 4 0x608 .i32 0 with mb := true }) = some 1 ∧ wf (.add { w0 8 4 2 .i32 0 with mb := true }) = none
    ∧ wf (.setpImm { w1 0x601 0x608 0 0 with ma := true }) = some 1 ∧ wf (.add (w0 0x640 4 2 .i32 0)) = some 3 ∧ wf (.add (w0 8 0x6FF 2 .i32 0)) = some 3 ∧ wf (.nop (w0 0 1 0 .i32 0)) = some 1 ∧ wf (.nop (w0 0 0 0 .i32 0)) = none ∧ wf (.add (w0 31 31 31 .i32 0)) = none ∧ wf (.add (w0 32 4 2 .i32 0)) = some 3 ∧ wf (.add (w0 8 4 0x601 .i32 0)) = some 3 ∧ wf (.add (w0 8 0x608 0x60F .n32 0)) = none
    ∧ wf (.pair (half 0 8 1 0) (half 0 16 2 0)) = some 2 ∧ wf (.pair (half 0 8 1 0) (half 0 18 9 0)) = some 2 ∧ wf (.pair (half 2 8 1 0) (half 0x12 18 3 2)) = some 2 ∧ wf (.pair (half 0 8 1 0) (half 0x12 34 3 2)) = some 3 ∧ wf (.pair (half 0 8 1 0) (half 0x12 18 3 2)) = none ∧ wf (.pair (half 0x16 8 1 5) (half 0 18 3 0)) = some 2
    ∧ wf (.fret (w0 0 4 0 .i32 0)) = some 1 ∧ (∀ n ∈ [5, 6, 7], wf (.fence (w0 0 0 0 .i32 n)) = some 8) ∧ wf (.fence (w0 0 0 0 .i32 4)) = none := by decide

/-- `StepRunsDecoded`: the agenda names the stream, for all threads of the pack or for one; a breakpoint met before. -/
theorem wit_step_agenda : ∀ t ∈ [Turn.issue 0 0, .issueLanes 0 0 1], let s := { State.reset.withFetchWord 64 0x08001200C0270000 with agenda := [t] }
    let s0 : State := { s with agenda := [], laneLimit := match t with
      | .issueLanes _ _ n => some n
      | _ => none }
    (s0.stream 0 0).dispatch = some (placedDispatch none) ∧ s0.trialHolds 0 (s0.stream 0 0) = false ∧ s0.issuedNow 0 0 = false ∧ (placedDispatch none).acted = [] ∧ (placedDispatch none).todo.find? (fun n => s0.packReady (placedDispatch none) n) = some 0 ∧ s0.breakpointAt 0 0 = none ∧ ({ placedDispatch none with checked := true } : Dispatch).checked = true
      ∧ (match step s with
        | .next s' => decide (s'.laneLimit = none) && decide (((s'.thread? 0 0).map (fun t => t.addr)) = some 8)
        | _ => false) = true := by decide

end Sys2Proof.Tests
end

namespace Sys2Proof.Proofs

open Sys2Proof.Machine Sys2Proof.Laws

variable {s : State} {g : Group} {e : Env}

/-! ### The invariant as a structure

`State.wf` is a Boolean; the proofs below speak of `Wf`, the same conditions as propositions with a
name each. One lemma for each function of the model that changes the state says that it keeps `Wf`,
in the order of the model's files, and `step_keeps` is assembled from them. `{ h with }` proves it of
an update that touches no field of `Wf`. A proof `grind [f, …]` goes through the branches of `f` and
closes each by the lemmas named, which are those of the functions that `f` calls. -/

/-- A group's two byte memories are in canonical form. -/
structure GroupWf (g : Group) : Prop where
  scratch : g.scratch.wf = true
  vitrine : g.vitrine.wf = true

/-- The invariant of `InvariantKept`, a field for each of its conditions. -/
structure Wf (s : State) : Prop where
  hbm : s.hbm.wf = true
  hostMem : s.hostMem.wf = true
  pool : s.pool.wf = true
  bar2 : s.bar2.wf = true
  groups : ∀ e ∈ s.groups, GroupWf e.2
  cores : ∀ c ∈ s.cores, c.2.streams.length = 2
  ports : s.ports.length = 8
  leases : keysRise s.leases = true

theorem wf_iff (s : State) : s.wf = true ↔ Wf s := by
  unfold State.wf State.memWf
  simp only [Bool.and_eq_true, List.all_eq_true, beq_iff_eq]
  constructor
  · rintro ⟨⟨⟨⟨⟨⟨⟨hhbm, hhost⟩, hpool⟩, hbar2⟩, hgroups⟩, hcores⟩, hports⟩, hleases⟩
    exact ⟨hhbm, hhost, hpool, hbar2, fun e he => ⟨(hgroups e he).1, (hgroups e he).2⟩, hcores, hports, hleases⟩
  · rintro ⟨hhbm, hhost, hpool, hbar2, hgroups, hcores, hports, hleases⟩
    exact ⟨⟨⟨⟨⟨⟨⟨hhbm, hhost⟩, hpool⟩, hbar2⟩, fun e he => ⟨(hgroups e he).1, (hgroups e he).2⟩⟩, hcores⟩, hports⟩, hleases⟩

/-- `Wf` as a conjunction, the form `grind` rewrites with. -/
theorem wf_def (s : State) :
    Wf s ↔ s.hbm.wf = true ∧ s.hostMem.wf = true ∧ s.pool.wf = true ∧ s.bar2.wf = true ∧ (∀ e ∈ s.groups, GroupWf e.2) ∧
      (∀ c ∈ s.cores, c.2.streams.length = 2) ∧ s.ports.length = 8 ∧ keysRise s.leases = true :=
  ⟨fun ⟨a, b, c, d, e, f, g, i⟩ => ⟨a, b, c, d, e, f, g, i⟩, fun ⟨a, b, c, d, e, f, g, i⟩ => ⟨a, b, c, d, e, f, g, i⟩⟩

theorem groupWf_def (g : Group) : GroupWf g ↔ g.scratch.wf = true ∧ g.vitrine.wf = true :=
  ⟨fun ⟨a, b⟩ => ⟨a, b⟩, fun ⟨a, b⟩ => ⟨a, b⟩⟩

theorem Wf.reset : Wf State.reset := ⟨rfl, rfl, rfl, rfl, by simp [State.reset], by simp [State.reset], rfl, rfl⟩

/-! ### Optional states, outcomes, turns and folds -/

/-- An optional state, where there is one, keeps the invariant. -/
def OptWf (o : Option State) : Prop := ∀ s ∈ o, Wf s

/-- An optional group, where there is one, has its memories in canonical form. -/
def OptGroupWf (o : Option Group) : Prop := ∀ g ∈ o, GroupWf g

/-- The outcome's next state, where there is one, keeps the invariant. -/
def Keeps (o : Host.Outcome State Fault Refusal) : Prop := ∀ s', o = .next s' → Wf s'

/-- The state a lane's turn leaves, where it leaves one, keeps the invariant. -/
def TurnWf : Turnout → Prop
  | .done s _ => Wf s
  | .leave s _ => Wf s
  | .out s => Wf s
  | .fault _ => True
  | .late s _ => Wf s
  | .hold s => Wf s

theorem optWf_none : OptWf none := by rintro _ ⟨⟩

theorem optWf_some : OptWf (some s) ↔ Wf s := by simp [OptWf]

theorem optGroupWf_none : OptGroupWf none := by rintro _ ⟨⟩

theorem optGroupWf_some : OptGroupWf (some g) ↔ GroupWf g := by simp [OptGroupWf]

theorem optWf_map {α : Type} {o : Option α} {f : α → State} (hf : ∀ a, o = some a → Wf (f a)) : OptWf (o.map f) := by
  cases o with
  | none => exact optWf_none
  | some a => exact optWf_some.2 (hf a rfl)

theorem optGroupWf_map {α : Type} {o : Option α} {f : α → Group} (hf : ∀ a, GroupWf (f a)) : OptGroupWf (o.map f) := by
  cases o with
  | none => exact optGroupWf_none
  | some a => exact optGroupWf_some.2 (hf a)

theorem optWf_bind {α : Type} {o : Option α} {f : α → Option State} (hf : ∀ a, o = some a → OptWf (f a)) : OptWf (o.bind f) := by
  cases o with
  | none => exact optWf_none
  | some a => exact hf a rfl

theorem optWf_getD {o : Option State} (ho : OptWf o) (h : Wf s) : Wf (o.getD s) := by
  cases o with
  | none => exact h
  | some a => exact optWf_some.1 ho

theorem optWf_fst {α : Type} {o : Option (State × α)} {p : State × α} (h : OptWf (o.map Prod.fst)) (hp : o = some p) : Wf p.1 := by
  subst hp
  exact optWf_some.1 h

theorem keeps_next (s : State) : Keeps (.next s) ↔ Wf s := by
  constructor
  · intro h; exact h _ rfl
  · rintro h _ ⟨⟩; exact h

theorem Wf.keeps (h : Wf s) : Keeps (.next s) := (keeps_next s).2 h

theorem keeps_fault (f : Fault) : Keeps (.fault f) := by rintro _ ⟨⟩

theorem foldl_inv {α β : Type} (P : β → Prop) {f : β → α → β} {b : β} (l : List α) (hf : ∀ a x, P a → P (f a x)) (h : P b) :
    P (l.foldl f b) := by
  induction l generalizing b with
  | nil => exact h
  | cons x l ih => exact ih (hf _ _ h)

theorem foldl_wf {α : Type} {f : State → α → State} (l : List α) (hf : ∀ a x, Wf a → Wf (f a x)) (h : Wf s) : Wf (l.foldl f s) :=
  foldl_inv Wf l hf h

theorem foldl_fst_wf {α β : Type} {f : State × β → α → State × β} {a : State × β} (l : List α) (hf : ∀ (a : State × β) x, Wf a.1 → Wf (f a x).1)
    (h : Wf a.1) : Wf (l.foldl f a).1 :=
  foldl_inv (fun a : State × β => Wf a.1) l hf h

theorem foldl_optWf {α : Type} {f : Option State → α → Option State} {o : Option State} (l : List α)
    (hf : ∀ a x, OptWf a → OptWf (f a x)) (h : OptWf o) : OptWf (l.foldl f o) :=
  foldl_inv OptWf l hf h

/-! ### The accessors of the state -/

theorem forall_putKey {α : Type} {P : α → Prop} {k : Nat} {a : α} {t : List (Nat × α)} (h : ∀ e ∈ t, P e.2) (ha : P a) :
    ∀ e ∈ putKey k a t, P e.2 := by
  intro e he
  rcases mem_putKey.1 he with rfl | ⟨he, -⟩
  · exact ha
  · exact h e he

theorem Wf.group (h : Wf s) {k : Nat} (hg : s.group? k = some g) : GroupWf g := by
  unfold State.group? lookKey at hg
  obtain ⟨e, he, rfl⟩ := Option.map_eq_some_iff.1 hg
  exact h.groups e (List.mem_of_find?_eq_some he)

theorem Wf.core (h : Wf s) (c : Nat) : (s.core c).streams.length = 2 := by
  unfold State.core lookKey
  cases he : s.cores.find? (fun e => e.1 == c) with
  | none => rfl
  | some e => exact h.cores e (List.mem_of_find?_eq_some he)

theorem Wf.setCore (h : Wf s) {c : Nat} {x : CoreSt} (hx : x.streams.length = 2) : Wf (s.setCore c x) :=
  { h with cores := forall_putKey (P := fun x : CoreSt => x.streams.length = 2) h.cores hx }

theorem Wf.setGroup (h : Wf s) {k : Nat} (hg : GroupWf g) : Wf (s.setGroup k g) :=
  { h with groups := forall_putKey h.groups hg }

theorem Wf.setStream (h : Wf s) {c k : Nat} {x : Stream} : Wf (s.setStream c k x) :=
  h.setCore (by simp [h.core])

theorem Wf.setCtx (h : Wf s) {c : Nat} {x : Ctx} : Wf (s.setCtx c x) := { h with }

theorem Wf.modGroup (h : Wf s) {k : Nat} {f : Group → Group} (hf : ∀ x, GroupWf x → GroupWf (f x)) : Wf (s.modGroup k f) := by
  unfold State.modGroup
  split
  · next x hx => exact h.setGroup (hf x (h.group hx))
  · exact h

theorem Wf.modThread (h : Wf s) {k t : Nat} {f : Thread → Thread} : Wf (s.modThread k t f) := h.modGroup fun _ hx => { hx with }

theorem Wf.setThread (h : Wf s) {k t : Nat} {x : Thread} : Wf (s.setThread k t x) := h.modGroup fun _ hx => { hx with }

theorem Wf.unlock (h : Wf s) {g t : Nat} {p : Bool} : Wf (s.unlock g t p) := { h with }

theorem Wf.l1Drop (h : Wf s) {c : Nat} {f : L1Line → Bool} : Wf (s.l1Drop c f) := h.setCore (h.core c)

theorem Wf.setPte (h : Wf s) {a : Nat} {p : Dword} : Wf (s.setPte a p) := { h with hbm := Mem_wf_write _ _ _ h.hbm }

/-! ### Directory -/

theorem Wf.setDir (h : Wf s) {line l} : Wf (s.setDir line l) := { h with }

theorem Wf.countFrame (h : Wf s) {phys n} : Wf (s.countFrame phys n) := by
  grind [State.countFrame, wf_def]

theorem Wf.unhost (h : Wf s) {line} : Wf (s.unhost line) := { h with }

theorem Wf.dirSet (h : Wf s) {phys l} : Wf (s.dirSet phys l) := h.setDir.countFrame

theorem Wf.dirReadMask (h : Wf s) {die line m} : Wf (s.dirReadMask die line m) := by
  grind [State.dirReadMask, Wf.setDir, Wf.dirSet]

theorem Wf.dirRead (h : Wf s) {die phys n} : Wf (s.dirRead die phys n) := h.dirReadMask

theorem Wf.dirWrite (h : Wf s) {die phys n} : Wf (s.dirWrite die phys n) := h.dirSet

theorem Wf.widen (h : Wf s) {phys n} : Wf (s.widen phys n) := { h with }

theorem Wf.dirRecall (h : Wf s) {line} : Wf (s.dirRecall line) := { h with }

theorem Wf.dirRecallRange (h : Wf s) {a n} : Wf (s.dirRecallRange a n) := { h with }

theorem Wf.dirAtomic (h : Wf s) {die phys n scope} : Wf (s.dirAtomic die phys n scope) := by
  grind [State.dirAtomic, Wf.dirSet, Wf.dirRecall]

/-! ### Access -/

theorem Wf.setKern (h : Wf s) {k x} : Wf (s.setKern k x) := { h with }

theorem Wf.modKern (h : Wf s) {k f} : Wf (s.modKern k f) := by
  grind [State.modKern, Wf.setKern]

theorem Wf.modGang (h : Wf s) {k gid f} : Wf (s.modGang k gid f) := h.modKern

theorem Wf.setLease (h : Wf s) {l x} : Wf (s.setLease l x) := by
  refine { h with leases := ?_ }
  unfold State.setLease
  dsimp only
  split
  · exact keysRise_dropKey _ _ h.leases
  · exact keysRise_putKey _ _ _ h.leases

theorem Wf.setPort (h : Wf s) {p x} : Wf (s.setPort p x) := by
  grind [State.setPort, wf_def]

theorem Wf.wakePort (h : Wf s) {p} : Wf (s.wakePort p) := by
  grind [State.wakePort, Wf.setPort]

theorem Wf.markDirty (h : Wf s) {c va} : Wf (s.markDirty c va) := by
  grind [State.markDirty, Wf.setPte]

theorem Wf.displace (h : Wf s) : Wf s.displace := by
  grind [State.displace, wf_def]

theorem Wf.l1Clear (h : Wf s) {core} : Wf (s.l1Clear core) := h.l1Drop

theorem Wf.l1Range (h : Wf s) {core ctx base len} : Wf (s.l1Range core ctx base len) := h.l1Drop

theorem Wf.viewOf (h : Wf s) {core channel} : Wf (s.viewOf core channel) :=
  { h with hbm := foldl_inv (fun m : Mem => m.wf = true) _ (fun _ _ hm => Mem_wf_write _ _ _ hm) h.hbm }

theorem Wf.l1Install (h : Wf s) {core ctx va phys} : Wf (s.l1Install core ctx va phys) := by
  grind [State.l1Install, Wf.setCore, Wf.unhost, Wf.core]

theorem Wf.l1Fill (h : Wf s) {core ctx va phys n} : Wf (s.l1Fill core ctx va phys n) := h.dirRead.l1Install

theorem Wf.scratchWrite (h : Wf s) {gid off bs} : Wf (s.scratchWrite gid off bs) := by
  grind [State.scratchWrite, Wf.modGroup, groupWf_def, Mem_wf_write]

theorem Wf.performWrite (h : Wf s) {die phys bs} : Wf (s.performWrite die phys bs) := by
  grind [State.performWrite, Wf.dirWrite, Wf.widen, wf_def, Mem_wf_write]

theorem Wf.drainEntry (h : Wf s) {core ev scope} : Wf (s.drainEntry core ev scope) := by
  grind [State.drainEntry, Wf.performWrite, Wf.setCore, wf_def, Wf.core]

theorem Wf.drainAt (h : Wf s) {core f} : OptWf (s.drainAt core f) := by
  grind [State.drainAt, Wf.drainEntry, Wf.setCore, Wf.core, foldl_wf, optWf_some, optWf_none]

theorem Wf.widenTo (h : Wf s) {f} : Wf (s.widenTo f) := { h with }

theorem Wf.drainWhere (h : Wf s) {core f} : OptWf (s.drainWhere core f) := h.drainAt

theorem Wf.drainThread (h : Wf s) {core gid t scope} : OptWf (s.drainThread core gid t scope) := h.widenTo.drainAt

theorem Wf.loadBytes (h : Wf s) {core ctx g t loc n} : OptWf (Option.map Prod.fst (s.loadBytes core ctx g t loc n)) := by
  have hl : ∀ (a : State) va phys, Wf a → Wf (if ((a.core core).l1Find ctx (va / 128)).isSome then a else a.l1Fill core ctx va phys n) := by
    intro a va phys ha
    split
    · exact ha
    · exact ha.l1Fill
  cases loc with
  | cell grp off r => exact optWf_some.2 h
  | frame off => exact optWf_some.2 h
  | mem va phys =>
    unfold State.loadBytes
    dsimp only
    split
    · split
      · exact optWf_some.2 h
      · rw [Option.map_map]
        exact optWf_map fun a ha => hl a va phys (h.drainWhere a ha)
    · exact optWf_some.2 (hl s va phys h)

theorem Wf.queueStore (h : Wf s) {core ctx gid t loc bs nib} : Wf (s.queueStore core ctx gid t loc bs nib) := by
  unfold State.queueStore
  grind [Wf.scratchWrite, Wf.markDirty, Wf.setCore, Wf.core]

theorem Wf.devPut (h : Wf s) {die ctx loc bs} : Wf (s.devPut die ctx loc bs) := by
  unfold State.devPut
  grind [Wf.performWrite, Wf.markDirty, Wf.scratchWrite]

/-! ### Thread -/

theorem Wf.abortRegion (h : Wf s) {gid t cause detail code} : Wf (s.abortRegion gid t cause detail code) := by
  grind [State.abortRegion, Wf.unlock, Wf.setThread, Wf.l1Drop]

/-! ### Observe -/

theorem Wf.ringWrite (h : Wf s) {desc size body : Nat} : Wf (s.ringWrite desc size body) := by
  unfold State.ringWrite
  dsimp only
  split
  · exact h
  split
  · exact { h with hbm := Mem_wf_write _ _ _ h.hbm }
  split
  · exact h
  · exact { h with hbm := Mem_wf_write _ _ _ (Mem_wf_write _ _ _ h.hbm) }

theorem Wf.traceRecord (h : Wf s) {core kind id ctx gidx count trig kseq regtop} : Wf (s.traceRecord core kind id ctx gidx count trig kseq regtop) := by
  grind [State.traceRecord, Wf.ringWrite, Wf.setCore, Wf.core]

theorem Wf.eventRecords (h : Wf s) {outs ev k} : Wf (s.eventRecords outs ev k) := by
  grind [State.eventRecords, Wf.traceRecord, foldl_wf]

theorem Wf.answer (h : Wf s) {ev halt} : Wf (s.answer ev halt) := by
  unfold State.answer
  grind [Wf.setStream, Wf.modThread, foldl_wf]

theorem Wf.evalTriggers (h : Wf s) {ctx es} : Wf (s.evalTriggers ctx es) := by
  grind [State.evalTriggers, Wf.setCtx, Wf.eventRecords, Wf.answer, foldl_wf]

theorem Wf.flushEvents (h : Wf s) : Wf s.flushEvents := by
  grind [State.flushEvents, Wf.evalTriggers, wf_def, foldl_wf]

theorem Wf.tell (h : Wf s) {ev} : Wf (s.tell ev) := { h with }

theorem Wf.tellFault (h : Wf s) {core gid hit pc cause} : Wf (s.tellFault core gid hit pc cause) := { h with }

/-! ### Ops -/

theorem Wf.toContain (h : Wf s) {ctx f} : Wf (s.toContain ctx f) := { h with }

theorem Wf.pendFault (h : Wf s) {ctx va cause access record pack} : Wf (s.pendFault ctx va cause access record pack) := by
  grind [State.pendFault, wf_def]

theorem Wf.devFault (h : Wf s) {ctx va access f who} : Wf (s.devFault ctx va access f who).1 := by
  grind [State.devFault, Wf.pendFault]

theorem Wf.poisonRecord (h : Wf s) {ctx page} : Wf (s.poisonRecord ctx page) := { h with }

theorem Wf.poisonAt (h : Wf s) {ctx va} : Wf (s.poisonAt ctx va) := by
  grind [State.poisonAt, Wf.poisonRecord]

theorem Wf.notePoison (h : Wf s) {ctx f} : Wf (s.notePoison ctx f) := by
  grind [State.notePoison, Wf.poisonAt]

theorem Wf.modThreads (h : Wf s) {gid ts f} : Wf (s.modThreads gid ts f) := foldl_wf _ (fun _ _ ha => ha.modThread) h

theorem Wf.failHandler (h : Wf s) {gid tids} : Wf (s.failHandler gid tids) := by
  grind [State.failHandler, Wf.modThreads, Wf.toContain, Wf.tellFault]

theorem Wf.takeFault (h : Wf s) {core gid lanes pc faults f after} : Wf (s.takeFault core gid lanes pc faults f after) := by
  unfold State.takeFault
  grind [Wf.abortRegion, Wf.modThreads, Wf.failHandler, Wf.notePoison, Wf.tellFault, Wf.pendFault, Wf.modThread, Wf.setCore, Wf.toContain, Wf.core, foldl_wf]

theorem Wf.takeFaults (h : Wf s) {core gid pc after fs} : Wf (s.takeFaults core gid pc after fs) := by
  grind [State.takeFaults, Wf.takeFault, foldl_wf]

theorem Wf.releaseThreads (h : Wf s) {gid ts r move} : Wf (s.releaseThreads gid ts r move) := by
  grind [State.releaseThreads, Wf.modThreads]

/-! ### Operands -/

theorem withThread_wf {iss tid f} (h : Wf s) (hf : ∀ e t, Wf e.s → TurnWf (f e t)) : TurnWf (withThread iss tid s f) := by
  unfold withThread
  split
  · exact hf _ _ h
  · exact h

theorem TurnWf.orFault {c : Prop} [Decidable c] {f : TFault} {b : Turnout} (h : TurnWf b) : TurnWf (if c then .fault f else b) := by
  split
  · trivial
  · exact h

theorem LaneAcc.settle_wf {a : LaneAcc} (h : Wf a.s) {i iss l} {t : Turnout} (ht : TurnWf t) : Wf (a.settle i iss l t).s := by
  cases t with
  | done s1 res => exact Wf.modThread ht
  | leave s1 f => exact Wf.modThread ht
  | out s1 => exact ht
  | fault f => exact h
  | late s1 f => exact Wf.modThread ht
  | hold s1 => exact ht

theorem Wf.laneTurn {i iss body} {a : LaneAcc} {l} (hb : ∀ tid s1, Wf s1 → TurnWf (body tid s1)) (h : Wf a.s) : Wf (laneTurn i iss body a l).s := by
  unfold Machine.laneTurn
  split
  · exact h
  split
  · exact h
  split
  · exact LaneAcc.settle_wf h (t := .hold _) h.setThread
  dsimp only
  split
  · exact h.abortRegion
  split
  · exact h.setThread
  split
  · split
    · exact h
    · exact h.setThread
  · refine LaneAcc.settle_wf h (hb _ _ ?_)
    split
    · exact h.setThread
    split
    · exact h.setThread
    · exact h

theorem Wf.purge (h : Wf s) {gid} : Wf (s.purge gid) := by
  grind [State.purge, Wf.setStream, foldl_wf]

theorem GroupWf.raise (hg : GroupWf g) {flags pc clock stream} : GroupWf (g.raise flags pc clock stream) := { hg with }

theorem GroupWf.gather (hg : GroupWf g) {clock t stream} : GroupWf (g.gather clock t stream) := by
  unfold Group.gather
  split
  · exact hg
  · split
    · exact hg
    · exact foldl_inv GroupWf _ (fun _ _ h => { h with }) { hg with }

theorem Wf.gatherFlags (h : Wf s) {gid ts stream} : Wf (s.gatherFlags gid ts stream) :=
  h.modGroup fun _ hg => foldl_inv GroupWf _ (fun _ _ ha => ha.gather) hg

theorem Wf.clearLate (h : Wf s) {gid lanes} : Wf (s.clearLate gid lanes) := by
  grind [State.clearLate, Wf.modThread, foldl_wf]

theorem Wf.fetchTouch (h : Wf s) {ctx pc} : Wf (s.fetchTouch ctx pc) := by
  grind [State.fetchTouch, Wf.unhost]

theorem GroupWf.retable (hg : GroupWf g) : GroupWf g.retable := { hg with }

theorem Wf.retable (h : Wf s) {gid} : Wf (s.retable gid) := by
  grind [State.retable, Wf.modGroup, GroupWf.retable, groupWf_def]

theorem Wf.markYielded (h : Wf s) {iss} : Wf (s.markYielded iss) := by
  grind [State.markYielded, Wf.modGroup, groupWf_def]

theorem Wf.afterWord (h : Wf s) {i iss} : Wf (s.afterWord i iss) := by
  unfold State.afterWord
  grind [Wf.markYielded]

theorem Wf.finishIssue {iss} {a : LaneAcc} (h : Wf a.s) : Wf (finishIssue iss a) := by
  unfold Machine.finishIssue
  grind [Wf.takeFaults, Wf.clearLate, Wf.gatherFlags, Wf.retable, Wf.setStream, wf_def]

theorem Wf.faultPack (h : Wf s) {iss cause} : Wf (faultPack iss cause s) := h.finishIssue

theorem Wf.runLanes {i iss body lanes} {a : LaneAcc} (hb : ∀ tid s1, Wf s1 → TurnWf (body tid s1)) (h : Wf a.s) : Wf (runLanes i iss body lanes a).s := by
  have h1 : Wf (lanes.foldl (Machine.laneTurn i iss body) a).s :=
    foldl_inv (fun a : LaneAcc => Wf a.s) lanes (fun _ _ ha => Wf.laneTurn hb ha) h
  unfold Machine.runLanes
  dsimp only
  split
  · exact h1
  · exact h1

theorem Wf.runWord {i body} (h : Wf s) (hb : ∀ iss tid s1, Wf s1 → TurnWf (body iss tid s1)) : Wf (runWord i s body) := by
  unfold Machine.runWord
  split
  · exact h
  next iss _ =>
  split
  · exact { h with }
  dsimp only
  split
  · exact h.faultPack
  split
  · exact h.faultPack
  split
  · exact Wf.finishIssue h.failHandler
  · exact Wf.afterWord (Wf.finishIssue (Wf.runLanes (hb iss) h))

theorem runWord_keeps {i} {f : Issue → Nat → State → Env → Thread → Turnout} (h : Wf s) (hf : ∀ iss tid s1 e t, Wf s1 → Wf e.s → TurnWf (f iss tid s1 e t)) :
    Keeps (.next (runWord i s fun iss tid s1 => withThread iss tid s1 (f iss tid s1))) :=
  (keeps_next _).2 (h.runWord fun _ _ _ h1 => withThread_wf h1 fun _ _ he => hf _ _ _ _ _ h1 he)

theorem localTurn_wf (h : Wf s) {f iss tid} : TurnWf (localTurn f iss tid s) := by
  unfold localTurn
  split
  · split
    · exact h.setThread
    · trivial
  · exact h

theorem Wf.runLocal (h : Wf s) {i f} : Wf (runLocal i s f) := h.runWord fun _ _ _ h1 => localTurn_wf h1

theorem Wf.runWrite (h : Wf s) {i d f} : Wf (runWrite i d s f) := h.runLocal

theorem Wf.runWritePair (h : Wf s) {i d f} : Wf (runWritePair i d s f) := h.runLocal

/-! ### Fetch -/

theorem Wf.countTrials (h : Wf s) {n} : Wf (s.countTrials n) := { h with }

theorem Wf.advance (h : Wf s) {n} : Wf (s.advance n) := by
  grind [State.advance, Wf.flushEvents, Wf.countTrials, wf_def]

theorem Wf.nextPlinth (h : Wf s) : Wf s.nextPlinth := h.advance

theorem Wf.fetchFault (h : Wf s) {core stream f} : Wf (s.fetchFault core stream f) := by
  grind [State.fetchFault, Wf.takeFaults, Wf.setStream, foldl_wf]

theorem Wf.stopAtBreakpoint (h : Wf s) {iss packs k} : Wf (s.stopAtBreakpoint iss packs k) := by
  grind [State.stopAtBreakpoint, Wf.takeFaults, foldl_wf]

theorem Wf.countTrial (h : Wf s) {iss} : Wf (s.countTrial iss) := by
  grind [State.countTrial, Wf.setStream]

theorem Wf.noteIssue (h : Wf s) {iss} : Wf (s.noteIssue iss) := by
  grind [State.noteIssue, Wf.setStream]

theorem Wf.keepWord (h : Wf s) {core stream ctx d w} : Wf (s.keepWord core stream ctx d w) := by
  grind [State.keepWord, Wf.fetchTouch, Wf.setStream]

theorem Wf.reachPoint (h : Wf s) {iss i} : Wf (s.reachPoint iss i) := by
  grind [State.reachPoint, Wf.setStream]

theorem Wf.issueNow (h : Wf s) {iss i} : Wf (s.issueNow iss i) := by
  grind [State.issueNow, Wf.reachPoint, Wf.noteIssue, Wf.countTrial, wf_def]

theorem Wf.breakAt (h : Wf s) {d iss i} : Wf (s.breakAt g d iss i) := by
  grind [State.breakAt, Wf.stopAtBreakpoint]

/-- What a stream has ready keeps the invariant. -/
def ReadyWf : Ready → Prop
  | .run _ s => Wf s
  | .took s => Wf s
  | .idle => True


theorem Wf.withIssue (h : Wf s) {i} : Wf { s with issue := i } := { h with }

theorem ready_wf (h : Wf s) {core stream} : ReadyWf (s.ready core stream) := by
  unfold State.ready
  split
  · split
    · trivial
    next g hg =>
    split
    · exact h.fetchFault
    dsimp only
    split
    · exact Wf.faultPack (Wf.withIssue (Wf.noteIssue (Wf.countTrial h.keepWord)))
    split
    · trivial
    · exact Wf.issueNow (Wf.breakAt h.keepWord)
  · trivial

/-! ### Sync -/

theorem Wf.frameWrite (h : Wf s) {gid off} {bs : List Byte} : Wf (s.frameWrite gid off bs) := by
  induction bs generalizing s off with
  | nil => exact h
  | cons b bs ih =>
    unfold State.frameWrite
    dsimp only
    apply ih
    exact h.modGroup fun _ hg => ⟨hg.scratch, hg.vitrine⟩

theorem Wf.envRead (he : Wf e.s) {l va n} : OptWf ((e.read l va n).map Prod.fst) := by
  unfold Env.read
  grind [Wf.loadBytes, optWf_map]

theorem Wf.envStore (he : Wf e.s) {l va bs nib} : Wf (e.store l va bs nib) := by
  unfold Env.store
  grind [Wf.frameWrite, Wf.l1Range, Wf.queueStore]

theorem Wf.widenBound (h : Wf s) {gid t rs} : Wf (s.widenBound gid t rs) := { h with }

theorem Wf.release (h : Wf s) {core gid t rs} : OptWf (s.release core gid t rs) := by
  grind [State.release, Wf.drainAt, Wf.widenBound, optWf_some]

theorem Wf.acquire (h : Wf s) {core ctx rs} : Wf (s.acquire core ctx rs) := foldl_wf _ (fun _ _ ha => ha.l1Range) h

theorem Wf.deliverFp (h : Wf s) {iss a} : Wf (s.deliverFp iss a) := by
  grind [State.deliverFp, Wf.modGroup, Wf.setStream, groupWf_def]

/-! ### Memory -/

theorem envAbort_wf (he : Wf e.s) {cause detail} : TurnWf (e.abort cause detail) := he.abortRegion

theorem Wf.envRegionBytes {e : Env} (h : Wf e.s) {l n} : OptWf (Option.map Prod.fst (e.regionBytes l n)) := by
  cases l with
  | mem va pa =>
    unfold Env.regionBytes
    rw [Option.map_map]
    exact optWf_map fun a ha => (h.drainWhere a ha).dirRead
  | cell g o r => exact optWf_some.2 h
  | frame o => exact optWf_some.2 h

theorem regionLoad_wf {e : Env} (h : Wf e.s) {t r l va c d la} : TurnWf (regionLoad e t r l va c d la) := by
  have habort : ∀ a b, TurnWf (e.abort a b) := fun a b => envAbort_wf h
  cases l with
  | cell g o r => exact habort _ _
  | frame o => exact habort _ _
  | mem v pa =>
    unfold regionLoad
    dsimp only
    split
    · split
      · exact h
      · exact habort _ _
    · split
      · exact habort _ _
      split
      · exact h
      refine TurnWf.orFault ?_
      split
      · next s1 bs _ around hb _ =>
        have h1 : Wf s1 := optWf_fst (Wf.envRegionBytes h) hb
        split
        · split
          · exact h1.setThread
          · exact h1.setThread
        · exact h1.setThread
      · exact h

theorem regionStore_wf {e : Env} (h : Wf e.s) {t l va n d} : TurnWf (regionStore e t l va n d) := by
  have habort : ∀ a b, TurnWf (e.abort a b) := fun a b => envAbort_wf h
  unfold regionStore
  dsimp only
  split
  · split
    · exact habort _ _
    split
    · exact habort _ _
    split
    · exact habort _ _
    · exact h.markDirty.setThread
  · exact habort _ _

theorem execLd_keeps (h : Wf s) {w} : Keeps (execLd w s) := by
  unfold execLd
  grind [Wf.runWord, withThread_wf, envAbort_wf, regionLoad_wf, Wf.envRead, TurnWf, optWf_some, keeps_next]

theorem execSt_keeps (h : Wf s) {w} : Keeps (execSt w s) := by
  grind [execSt, Wf.runWord, withThread_wf, Wf.setThread, envAbort_wf, regionStore_wf, Wf.envStore, TurnWf, keeps_next]

theorem execLdq_keeps (h : Wf s) {w} : Keeps (execLdq w s) := by
  grind [execLdq, Wf.runWord, withThread_wf, Wf.envRead, Wf.modThread, TurnWf, optWf_some, keeps_next]

theorem Wf.askPrefetch (h : Wf s) {ctx pages llc} : Wf (s.askPrefetch ctx pages llc) := by
  grind [State.askPrefetch, wf_def]

theorem execPref_keeps (h : Wf s) {w} : Keeps (execPref w s) := by
  grind [execPref, Wf.runWord, withThread_wf, Wf.askPrefetch, Wf.l1Install, TurnWf, keeps_next]

theorem execFence_keeps (h : Wf s) {w} : Keeps (execFence w s) := by
  grind [execFence, Wf.runWord, withThread_wf, Wf.drainThread, Wf.l1Clear, Wf.deliverFp, TurnWf, optWf_some, keeps_next]

theorem Wf.drainRange (h : Wf s) {core gid t base len} : OptWf (s.drainRange core gid t base len) := h.drainWhere

theorem execCinv_keeps (h : Wf s) {w} : Keeps (execCinv w s) := by
  grind [execCinv, Wf.runWord, withThread_wf, Wf.drainRange, Wf.l1Range, TurnWf, optWf_some, keeps_next]

theorem Wf.toPool (h : Wf s) {c va n} : Wf (s.toPool c va n) := by
  grind [State.toPool, wf_def, Mem_wf_paste, Mem_wf_slice]

theorem Wf.wakePage (h : Wf s) {ctx page} : Wf (s.wakePage ctx page) := by
  grind [State.wakePage, Wf.wakePort]

theorem Wf.cleanWait (h : Wf s) {c page} : Wf (s.cleanWait c page) := by
  grind [State.cleanWait, wf_def]

theorem Wf.cleanPart (h : Wf s) {c va n} : Wf (s.cleanPart c va n) := by
  grind [State.cleanPart, Wf.widen, Wf.toPool, Wf.wakePage, wf_def]

theorem execCwb_keeps (h : Wf s) {w} : Keeps (execCwb w s) := by
  grind [execCwb, Wf.runWord, withThread_wf, Wf.drainRange, Wf.cleanPart, Wf.cleanWait, foldl_wf, TurnWf, optWf_some, keeps_next]

theorem execPin_keeps (h : Wf s) {w} : Keeps (execPin w s) := by
  grind [execPin, Wf.runWord, withThread_wf, Wf.modThread, wf_def, TurnWf, keeps_next]

theorem execUnpin_keeps (h : Wf s) {w} : Keeps (execUnpin w s) := by
  grind [execUnpin, Wf.runWord, withThread_wf, wf_def, TurnWf, keeps_next]

theorem Wf.drainAll (h : Wf s) {ctx base len} : OptWf (s.drainAll ctx base len) := by
  grind [State.drainAll, Wf.drainWhere, foldl_optWf, optWf_some, optWf_bind]

theorem execSpmap_keeps (h : Wf s) {w} : Keeps (execSpmap w s) := by
  unfold execSpmap
  grind [Wf.runWord, withThread_wf, Wf.modThread, Wf.markDirty, Wf.drainAll, Wf.l1Range, Wf.dirRecallRange, wf_def, TurnWf, optWf_some, keeps_next]

theorem Wf.windowBack (h : Wf s) {w} : Wf (s.windowBack w) := by
  have hpart : Mem.wf (((s.group? w.grp).map (fun g => g.scratch.slice w.off w.len)).getD []) = true := by
    cases hg : s.group? w.grp with
    | none => rfl
    | some g => exact Mem_wf_slice _ _ _ (h.group hg).scratch
  unfold State.windowBack
  split
  · next pa p _ =>
    split
    · have h1 : Wf ((s.markDirty w.ctx w.base).dirRecallRange (pteFrame p * 65536 + w.base % 65536) w.len) := h.markDirty.dirRecallRange
      exact { h1 with hbm := Mem_wf_paste _ _ _ _ h1.hbm hpart }
    · exact h
  · exact h

theorem Wf.closeWindow (h : Wf s) {w} : Wf (s.closeWindow w) := by
  grind [State.closeWindow, Wf.windowBack, wf_def]

theorem execSpunmap_keeps (h : Wf s) {w} : Keeps (execSpunmap w s) := by
  grind [execSpunmap, Wf.runWord, withThread_wf, Wf.closeWindow, TurnWf, keeps_next]

/-! ### Barrier -/

theorem Wf.setBar (h : Wf s) {o code b} : Wf (s.setBar o code b) := by
  grind [State.setBar, Wf.modGroup, Wf.modGang, Wf.modKern, groupWf_def]

theorem Wf.barAcquire (h : Wf s) {core ctx rs glob} : Wf (s.barAcquire core ctx rs glob) := by
  grind [State.barAcquire, Wf.acquire, Wf.l1Clear]

theorem Wf.waitFaults (h : Wf s) {core gid ws f} : Wf (s.waitFaults core gid ws f) := by
  grind [State.waitFaults, Wf.modThread, Wf.takeFault, foldl_wf]

theorem Wf.wakeThreads (h : Wf s) {core gid ws} : Wf (s.wakeThreads core gid ws) := foldl_wf _ (fun _ _ ha => ha.modThread) h

theorem Wf.deliverWaits (h : Wf s) {gid ws own} : Wf (s.deliverWaits g gid ws own) := by
  unfold State.deliverWaits
  grind [Wf.wakeThreads, Wf.deliverFp, Wf.modGroup, Wf.waitFaults, groupWf_def]

theorem Wf.wakeGroup (h : Wf s) {gid tok ovf glob extra own} : Wf (s.wakeGroup gid tok ovf glob extra own) := by
  grind [State.wakeGroup, Wf.modThread, Wf.barAcquire, Wf.waitFaults, Wf.deliverWaits, foldl_wf]

theorem Wf.finishWakes (h : Wf s) {gid} : Wf (s.finishWakes gid) := by
  grind [State.finishWakes, Wf.modThreads, Wf.waitFaults, Wf.deliverWaits, foldl_wf]

theorem Wf.barEvent (h : Wf s) {o code old r own} : Wf (s.barEvent o code old r own) := by
  grind [State.barEvent, Wf.setBar, Wf.wakeGroup, foldl_wf]

theorem Wf.barBytes (h : Wf s) {o code k glob ordered} : Wf (s.barBytes o code k glob ordered) := by
  grind [State.barBytes, Wf.modGang, Wf.barEvent]

theorem arrive_wf {e : Env} (h : Wf e.s) {w n own k} (hk : ∀ a b c rs, Wf a → TurnWf (k a b c rs)) : TurnWf (e.arrive w n own k) := by
  unfold Env.arrive
  dsimp only
  split
  · trivial
  split
  · trivial
  split
  · exact h
  · next s1 hs =>
    split
    · trivial
    · exact hk _ _ _ _ (Wf.barEvent (h.release s1 hs))

theorem envWaitDone_wf (h : Wf s) {s0 : State} {rs b code ovf} : TurnWf (e.waitDone s s0 rs b code ovf) := by
  grind [Env.waitDone, Wf.barAcquire, Wf.deliverFp, TurnWf]

theorem execBarrive_keeps (h : Wf s) {w} : Keeps (execBarrive w s) :=
  runWord_keeps h fun _ _ _ _ _ _ he => arrive_wf he fun _ _ _ _ ha => ha.modThread

theorem execBsync_keeps (h : Wf s) {w} : Keeps (execBsync w s) :=
  runWord_keeps h fun _ _ _ _ _ _ he => arrive_wf he fun _ _ _ _ ha => by
    split
    · exact ha
    · exact envWaitDone_wf ha

theorem execBwait_keeps (h : Wf s) {w} : Keeps (execBwait w s) := by
  grind [execBwait, Wf.runWord, withThread_wf, envWaitDone_wf, TurnWf, keeps_next]

theorem execBexpect_keeps (h : Wf s) {w} : Keeps (execBexpect w s) := by
  grind [execBexpect, Wf.runWord, withThread_wf, Wf.setBar, TurnWf, keeps_next]

theorem execBtest_keeps (h : Wf s) {w} : Keeps (execBtest w s) := by
  grind [execBtest, Wf.runWord, withThread_wf, Wf.barAcquire, Wf.modThread, TurnWf, keeps_next]

theorem execBtestCur_keeps (h : Wf s) {w} : Keeps (execBtestCur w s) := by
  grind [execBtestCur, Wf.runWord, withThread_wf, Wf.modThread, TurnWf, keeps_next]

/-! ### Integer -/

theorem Wf.bin32 (h : Wf s) {i w f} : Wf (bin32 i w s f) := h.runWrite

theorem Wf.tri32 (h : Wf s) {i w f} : Wf (tri32 i w s f) := h.runWrite

theorem Wf.un32 (h : Wf s) {i w f} : Wf (un32 i w s f) := h.runWrite

theorem Wf.binImm (h : Wf s) {i w f} : Wf (binImm i w s f) := h.runWrite

theorem Wf.bin64 (h : Wf s) {i w f} : Wf (bin64 i w s f) := h.runWritePair

theorem execMin_keeps (h : Wf s) {w} : Keeps (execMin w s) := by
  grind [execMin, Wf.bin64, Wf.bin32, keeps_next]

theorem execMax_keeps (h : Wf s) {w} : Keeps (execMax w s) := by
  grind [execMax, Wf.bin64, Wf.bin32, keeps_next]

theorem execSel_keeps (h : Wf s) {w} : Keeps (execSel w s) := by
  grind [execSel, Wf.runWritePair, Wf.runWrite, keeps_next]

/-! ### Float -/

theorem Wf.floatOp (h : Wf s) {i w f} : Wf (floatOp i w s f) := h.runLocal

theorem Wf.floatPlain (h : Wf s) {i w f} : Wf (floatPlain i w s f) := h.runLocal

theorem Wf.floatLong (h : Wf s) {i w f} : Wf (floatLong i w s f) := h.runLocal

/-! ### Layout -/

theorem Wf.tablePut (h : Wf s) {core ctx va bs who f} : OptWf (s.tablePut core ctx va bs who f) := by
  grind [State.tablePut, Wf.devPut, wf_def, optWf_some, optWf_none]

theorem Wf.layoutWrite (h : Wf s) {core ctx va bs who} : OptWf (s.layoutWrite core ctx va bs who) := h.tablePut

theorem Wf.bindWrite (h : Wf s) {core ctx va bs who} : OptWf (s.bindWrite core ctx va bs who) := h.tablePut

theorem execLtset_keeps (h : Wf s) {w} : Keeps (execLtset w s) := by
  grind [execLtset, Wf.runWord, withThread_wf, Wf.layoutWrite, TurnWf, optWf_some, keeps_next]

theorem execLtget_keeps (h : Wf s) {w} : Keeps (execLtget w s) := by
  grind [execLtget, Wf.runWord, withThread_wf, Wf.modThread, TurnWf, keeps_next]

theorem Wf.envLoadUnits {e : Env} (h : Wf s) {u l j acc} : OptWf (Option.map Prod.fst (e.loadUnits u l j s acc)) := by
  induction l generalizing s j acc with
  | nil => exact optWf_some.2 h
  | cons x l ih =>
    cases x with
    | none => exact ih h
    | some z =>
      unfold Env.loadUnits
      split
      · exact optWf_none
      · next s1 bs hx =>
        have h1 := Wf.envRead (e := { e with s := s }) (l := z.2) (va := z.1.addr) (n := Nat.max 1 (u / 8)) h
        rw [hx] at h1
        exact ih (optWf_some.1 h1)

theorem Wf.runSpan {i w span body} (h : Wf s) (hb : ∀ iss tid s1, Wf s1 → TurnWf (body iss tid s1)) : Wf (runSpan i w span s body) := by
  unfold Machine.runSpan
  split
  · exact h.runWord hb
  · dsimp only
    split
    · split
      · exact h.faultPack
      · exact h.runWord hb
    · exact h.runWord hb

theorem execLdt_keeps (h : Wf s) {w} : Keeps (execLdt w s) := by
  refine (keeps_next _).2 (h.runSpan fun _ _ s1 h1 => withThread_wf h1 fun e t he => ?_)
  split
  · trivial
  next u locs _ =>
  have hl : ∀ l, OptWf (Option.map Prod.fst (e.loadUnits u l 0 s1 0)) := fun l => Wf.envLoadUnits h1
  dsimp only
  split
  · split
    · exact h1
    · trivial
  · split
    · exact h1
    · next s2 v hs => exact optWf_fst (hl _) hs

theorem execStt_keeps (h : Wf s) {w} : Keeps (execStt w s) := by
  grind [execStt, Wf.runSpan, withThread_wf, Wf.envStore, foldl_wf, TurnWf, keeps_next]

theorem execTpref_keeps (h : Wf s) {w} : Keeps (execTpref w s) := by
  grind [execTpref, Wf.runSpan, withThread_wf, Wf.askPrefetch, TurnWf, keeps_next]

theorem execBind_keeps (h : Wf s) {w} : Keeps (execBind w s) :=
  runWord_keeps h fun _ _ _ _ _ h1 _ => by
    refine TurnWf.orFault (TurnWf.orFault ?_)
    split
    · trivial
    · trivial
    split
    · exact h1.modThread
    · dsimp only
      split
      · exact h1
      · next s2 hs => exact Wf.modThread (h1.bindWrite s2 hs)

theorem execUnbind_keeps (h : Wf s) {w} : Keeps (execUnbind w s) := by
  grind [execUnbind, Wf.runWord, withThread_wf, Wf.bindWrite, TurnWf, optWf_some, keeps_next]

/-! ### Engine -/

theorem GroupWf.accWrite (hg : GroupWf g) {a v} : GroupWf (g.accWrite a v) := { hg with }

theorem Wf.engError (h : Wf s) {c reason engine} : Wf (s.engError c reason engine) := by
  grind [State.engError, Wf.toContain, Wf.tellFault]

theorem Wf.engFlags (h : Wf s) {gid fl pc} : Wf (s.engFlags gid fl pc) := by
  grind [State.engFlags, Wf.modGroup, GroupWf.raise]

theorem Wf.engDone (h : Wf s) {c fl count glob ordered} : Wf (s.engDone c fl count glob ordered) := by
  grind [State.engDone, Wf.engFlags, Wf.barBytes]

theorem Wf.engWait (h : Wf s) {c ctx va f} : Wf (s.engWait c ctx va f).1 := h.devFault

theorem Wf.engNote (h : Wf s) {ctx x} : Wf (s.engNote ctx x) := by
  unfold State.engNote
  grind [Wf.poisonAt]

theorem Wf.engTouch (h : Wf s) {core gid space us count} : Wf (s.engTouch core gid g space us count) := by
  grind [State.engTouch, Wf.countFrame, Wf.dirReadMask, foldl_wf]

/-! ### Matrix -/

theorem Wf.arrayAdvance (h : Wf s) {core n} : Wf (s.arrayAdvance core n) := by
  induction n generalizing s with
  | zero => exact h
  | succ n ih => grind [State.arrayAdvance, Wf.setCore, Wf.core, Wf.engError, Wf.engDone, Wf.modGroup, GroupWf.accWrite]

theorem Wf.arrayPut (h : Wf s) {core c} : OptWf (s.arrayPut core c) := by
  grind [State.arrayPut, Wf.arrayAdvance, Wf.setCore, Wf.core, optWf_some, optWf_none]

theorem envSubmit_wf (he : Wf e.s) {c} : TurnWf (e.submit c) := by
  grind [Env.submit, Wf.arrayPut, TurnWf, optWf_some]

theorem execMma_keeps (h : Wf s) {w} : Keeps (execMma w s) := by
  grind [execMma, Wf.runWord, withThread_wf, envSubmit_wf, TurnWf, keeps_next]

theorem execMzero_keeps (h : Wf s) {w} : Keeps (execMzero w s) := by
  grind [execMzero, Wf.runWord, withThread_wf, envSubmit_wf, keeps_next]

theorem execMrng_keeps (h : Wf s) {w} : Keeps (execMrng w s) := by
  grind [execMrng, Wf.runWord, withThread_wf, Wf.modGroup, groupWf_def, TurnWf, keeps_next]

theorem execMldb_keeps (h : Wf s) {w} : Keeps (execMldb w s) := by
  grind [execMldb, Wf.runWord, withThread_wf, Wf.setCore, Wf.core, TurnWf, keeps_next]

theorem execMdrain_keeps (h : Wf s) {w} : Keeps (execMdrain w s) :=
  runWord_keeps h fun _ _ _ e _ _ he => by
    have hsub : ∀ c, TurnWf (e.submit c) := fun c => envSubmit_wf he
    dsimp only
    split
    · trivial
    · trivial
    · trivial
    iterate 8 refine TurnWf.orFault ?_
    split
    · trivial
    split
    · trivial
    split
    · trivial
    · trivial
    · exact hsub _

theorem GroupWf.accFree (hg : GroupWf g) {a ctr} : GroupWf (g.accFree a ctr) := { hg with }

theorem Wf.arrayPop (h : Wf s) {core} : Wf (s.arrayPop core) := by
  grind [State.arrayPop, Wf.setCore, Wf.core]

theorem Wf.mmaFail (h : Wf s) {core c reason} : Wf (s.mmaFail core c reason) := by
  grind [State.mmaFail, Wf.modGroup, Wf.arrayPop, GroupWf.accFree, Wf.arrayAdvance, Wf.engDone, Wf.engError]

theorem execMmaComplete_keeps (h : Wf s) {core} : Keeps (execMmaComplete core s) := by
  unfold execMmaComplete
  grind [Wf.arrayPop, Wf.mmaFail, Wf.engWait, Wf.setCore, Wf.engNote, Wf.arrayAdvance, Wf.engDone, Wf.modGroup, GroupWf.accWrite, Wf.core, keeps_next]

theorem execMzeroComplete_keeps (h : Wf s) {core} : Keeps (execMzeroComplete core s) := by
  grind [execMzeroComplete, Wf.arrayPop, Wf.arrayAdvance, Wf.engError, Wf.modGroup, GroupWf.accWrite, keeps_next]

theorem GroupWf.slotWrite (hg : GroupWf g) {slot bs} : GroupWf (g.slotWrite slot bs) :=
  { hg with vitrine := Mem_wf_paste _ _ _ _ hg.vitrine (Mem_wf_write _ _ _ Mem_wf_nil) }

theorem execMldbComplete_keeps (h : Wf s) {core idx} : Keeps (execMldbComplete core idx s) := by
  unfold execMldbComplete
  grind [Wf.setCore, Wf.engDone, Wf.engError, Wf.modGroup, GroupWf.slotWrite, Wf.engWait, Wf.engNote, Wf.engTouch, Wf.core, keeps_next]

theorem Wf.engPut (h : Wf s) {core gid space w} : Wf (s.engPut core gid g space w) := by
  grind [State.engPut, Wf.devPut]

theorem Wf.drainTouch (h : Wf s) {core c} : Wf (s.drainTouch core c g) := by
  grind [State.drainTouch, Wf.engTouch]

theorem Wf.drainFail (h : Wf s) {c reason ordered} : Wf (s.drainFail c reason ordered) := h.engError.engDone

theorem Wf.contribute (h : Wf s) {c y} : OptWf (s.contribute c g y) := by
  grind [State.contribute, Wf.drainFail, wf_def, optWf_some, optWf_none]

theorem execMdrainComplete_keeps (h : Wf s) {core idx} : Keeps (execMdrainComplete core idx s) := by
  unfold execMdrainComplete
  dsimp only
  repeat' split
  all_goals grind [Wf.setCore, Wf.engWait, Wf.drainFail, Wf.engNote, Wf.contribute, Wf.drainTouch, Wf.engDone, Wf.engPut, Wf.core, foldl_wf, optWf_some, keeps_next]

theorem Wf.slotFail (h : Wf s) {o reason} : Wf (s.slotFail o reason) := by
  grind [State.slotFail, Wf.drainFail, wf_def, foldl_wf]

theorem execOrderedSlotComplete_keeps (h : Wf s) {idx} : Keeps (execOrderedSlotComplete idx s) := by
  unfold execOrderedSlotComplete
  dsimp only
  repeat' split
  all_goals grind [Wf.slotFail, Wf.engWait, Wf.engNote, Wf.devPut, Wf.engDone, wf_def, foldl_wf, keeps_next]

/-! ### Copy -/

theorem Wf.setChain (h : Wf s) {quad ch c} : Wf (s.setChain quad ch c) := { h with }

theorem Wf.modChan (h : Wf s) {kern gang ch f} : Wf (s.modChan kern gang ch f) := h.modGang

theorem envCopy_wf (he : Wf e.s) {t w convert} : TurnWf (e.copy t w convert) := by
  grind [Env.copy, Wf.drainThread, Wf.modChan, Wf.setChain, TurnWf, optWf_some]

theorem execCpy_keeps (h : Wf s) {w} : Keeps (execCpy w s) := by
  grind [execCpy, Wf.runWord, withThread_wf, envCopy_wf, keeps_next]

theorem execCpyx_keeps (h : Wf s) {w} : Keeps (execCpyx w s) := by
  grind [execCpyx, Wf.runWord, withThread_wf, envCopy_wf, keeps_next]

theorem execCpywp_keeps (h : Wf s) {w} : Keeps (execCpywp w s) := by
  grind [execCpywp, Wf.runWord, withThread_wf, Wf.l1Clear, TurnWf, keeps_next]

theorem execCpyseq_keeps (h : Wf s) {w} : Keeps (execCpyseq w s) := by
  grind [execCpyseq, Wf.runWord, withThread_wf, TurnWf, keeps_next]

theorem execCpyseqStat_keeps (h : Wf s) {w} : Keeps (execCpyseqStat w s) := by
  grind [execCpyseqStat, Wf.runWord, withThread_wf, Wf.modChan, TurnWf, keeps_next]

theorem Wf.cancelCopies (h : Wf s) {quad ch kern gang f} : Wf (s.cancelCopies quad ch kern gang f) := by
  grind [State.cancelCopies, Wf.modChan, Wf.setChain, foldl_wf]

theorem execCpycan_keeps (h : Wf s) {w} : Keeps (execCpycan w s) := by
  grind [execCpycan, Wf.runWord, withThread_wf, Wf.modThread, Wf.cancelCopies, TurnWf, keeps_next]

theorem Wf.steps {r : CopyRun} (h : Wf r.s) {core gid sp fr l ah ws} : Wf (CopyRun.steps core gid g sp fr l ah ws r).s := by
  induction ws generalizing r with
  | nil => exact h
  | cons x ws ih =>
    obtain ⟨n, ws⟩ := x
    unfold CopyRun.steps
    split
    · exact h
    split
    · exact ih h
    split
    · exact h
    · exact h
    · exact ih (foldl_wf _ (fun _ _ ha => ha.engPut) h)

theorem Wf.rows {r : CopyRun} (h : Wf r.s) {core x l rs} : Wf (CopyRun.rows core x g l rs r).s := by
  induction rs generalizing r with
  | nil => exact h
  | cons o rs ih =>
    unfold CopyRun.rows
    split
    · exact h
    dsimp only
    split
    · exact ih h
    split
    · exact h
    · refine ih (Wf.steps ?_)
      dsimp only
      split
      · exact h.engTouch.engTouch
      · exact h.engTouch

theorem Wf.copyRun (h : Wf s) {core c l} : Wf (s.copyRun core c g l).s := Wf.rows h

theorem Wf.setHead (h : Wf s) {quad ch c} : Wf (s.setHead quad ch c) := { h with }

theorem Wf.copyProgress {r : CopyRun} (h : Wf r.s) {quad ch c} : Wf (State.copyProgress r quad ch c) := h.setHead.modChan

theorem Wf.copyScrub (h : Wf s) {core c} : Wf (s.copyScrub core c g) := by
  grind [State.copyScrub, Wf.engPut, foldl_wf, foldl_fst_wf]

theorem Wf.copyFail (h : Wf s) {quad ch c reason} : Wf (s.copyFail quad ch c reason) := by
  grind [State.copyFail, Wf.setChain, Wf.copyScrub, Wf.modChan, Wf.engDone, Wf.engError]

theorem execCopyStart_keeps (h : Wf s) {quad ch} : Keeps (execCopyStart quad ch s) := by
  grind [execCopyStart, Wf.copyFail, Wf.setHead, keeps_next]

theorem Wf.copyOn (h : Wf s) {quad ch bytes} : Wf (s.copyOn quad ch bytes) := by
  grind [State.copyOn, Wf.copyFail, Wf.copyRun, Wf.copyProgress, Wf.engWait, Wf.setHead, Wf.engNote]

theorem Wf.copyAhead (h : Wf s) {quad ch pos} : Wf (s.copyAhead quad ch pos) := by
  grind [State.copyAhead, Wf.copyRun, Wf.setHead]

theorem execCopyComplete_keeps (h : Wf s) {quad ch} : Keeps (execCopyComplete quad ch s) := by
  grind [execCopyComplete, Wf.copyOn, Wf.engDone, Wf.setChain, Wf.modChan, Wf.arrayPut, optWf_some, keeps_next]

theorem execFollowOnMma_keeps (h : Wf s) {quad ch} : Keeps (execFollowOnMma quad ch s) := by
  grind [execFollowOnMma, Wf.setChain, Wf.arrayPut, optWf_some, keeps_next]

/-! ### Device -/

theorem Wf.wakeHost (h : Wf s) {a} : Wf (s.wakeHost a) := by
  grind [State.wakeHost, Wf.wakePort]

theorem Wf.hostPut (h : Wf s) {a bs} : Wf (s.hostPut a bs) := by
  grind [State.hostPut, Wf.dirRecallRange, Wf.wakePort, wf_def, Mem_wf_write]

theorem Wf.msix (h : Wf s) {v} : Wf (s.msix v) := by
  grind [State.msix, Wf.wakePort, wf_def]

theorem Wf.plinthPut (h : Wf s) {ctx loc bs} : Wf (s.plinthPut ctx loc bs) := by
  unfold State.plinthPut
  grind [Wf.dirRecallRange, Wf.markDirty, Wf.scratchWrite, wf_def, Mem_wf_write]

theorem Wf.devWrite (h : Wf s) {stream ctx va bs} : Wf (s.devWrite stream ctx va bs) := by
  grind [State.devWrite, Wf.plinthPut, Wf.devFault, wf_def]

theorem Wf.descSync (h : Wf s) {ctx} : Wf (s.descSync ctx) := by
  grind [State.descSync, Wf.hostPut]

theorem Wf.descsSync (h : Wf s) {ws} : Wf (s.descsSync ws) := foldl_wf _ (fun _ _ ha => ha.descSync) h

theorem Wf.flushDev (h : Wf s) : Wf s.flushDev := by
  grind [State.flushDev, Wf.descsSync, Wf.devWrite, wf_def, foldl_wf]

theorem Wf.jwrite (h : Wf s) {ctx r} : Wf (s.jwrite ctx r) := by
  grind [State.jwrite, Wf.setCtx, Wf.devWrite]

theorem Wf.jmod (h : Wf s) {ctx j f} : Wf (s.jmod ctx j f) := by
  grind [State.jmod, Wf.jwrite]

theorem Wf.jopen (h : Wf s) {ctx r} : Wf (s.jopen ctx r) := h.jwrite.setCtx.descSync

theorem Wf.faultRing (h : Wf s) {ctx r} : Wf (s.faultRing ctx r) := by
  grind [State.faultRing, Wf.descSync, Wf.setCtx, Wf.devWrite]

theorem Wf.eventRecord (h : Wf s) {kn gidx status} : Wf (s.eventRecord kn gidx status) := by
  grind [State.eventRecord, Wf.devWrite]

theorem Wf.devLost (h : Wf s) {n} : Wf (s.devLost n) := by
  grind [State.devLost, Wf.descsSync, Wf.setCtx, wf_def, foldl_wf]

/-! ### Queue -/

theorem Wf.setSlot (h : Wf s) {k q} : Wf (s.setSlot k q) := { h with }

theorem Wf.modSlot (h : Wf s) {k f} : Wf (s.modSlot k f) := by
  grind [State.modSlot, Wf.setSlot]

theorem Wf.qcbPut (h : Wf s) {q l off v n} : Wf (s.qcbPut q l off v n) := h.plinthPut

theorem Wf.slotWait (h : Wf s) {k q va f} : Wf (s.slotWait k q va f) := h.devFault.setSlot

theorem Wf.headWait (h : Wf s) {k q va f} : Wf (s.headWait k q va f) := h.devFault.setSlot

theorem Wf.tellNotify (h : Wf s) {k q l} : Wf (s.tellNotify k q l) := by
  grind [State.tellNotify, Wf.setSlot, Wf.qcbPut, Wf.msix]

theorem Wf.qcbSync (h : Wf s) {k clear} : Wf (s.qcbSync k clear) := by
  grind [State.qcbSync, Wf.setSlot, Wf.tellNotify, Wf.qcbPut, Wf.slotWait]

theorem Wf.readProd (h : Wf s) {k} : Wf (s.readProd k) := by
  grind [State.readProd, Wf.setSlot, Wf.slotWait]

theorem Wf.slotState (h : Wf s) {k st} : Wf (s.slotState k st) := by
  grind [State.slotState, Wf.qcbSync, Wf.setSlot]

theorem Wf.slotFree (h : Wf s) {k q pend} : Wf (s.slotFree k q pend) := by
  grind [State.slotFree, Wf.msix, wf_def]

theorem Wf.unmap (h : Wf s) {k} : Wf (s.unmap k) := by
  grind [State.unmap, Wf.slotFree, Wf.setSlot, Wf.qcbPut, Wf.slotWait]

theorem Wf.settle (h : Wf s) {k} : Wf (s.settle k) := by
  grind [State.settle, Wf.unmap, Wf.slotState, Wf.wakeHost, Wf.headWait]

theorem Wf.dropSpent (h : Wf s) {k} : Wf (s.dropSpent k) := by
  grind [State.dropSpent, wf_def]

theorem Wf.cmdFinish (h : Wf s) {k seq st f} : Wf (s.cmdFinish k seq st f) := by
  grind [State.cmdFinish, Wf.jmod, Wf.dropSpent, Wf.qcbSync, Wf.modSlot]

theorem Wf.kernCancel (h : Wf s) {kn} : Wf (s.kernCancel kn) := by
  grind [State.kernCancel, Wf.eventRecord, wf_def, foldl_wf]

theorem Wf.queueError (h : Wf s) {k code} : Wf (s.queueError k code) := by
  grind [State.queueError, Wf.qcbSync, Wf.setSlot, Wf.kernCancel, Wf.cmdFinish, foldl_wf]

theorem Wf.cmdFinal (h : Wf s) {k seq st rejected f} : Wf (s.cmdFinal k seq st rejected f) := by
  grind [State.cmdFinal, Wf.cmdFinish, Wf.queueError, Wf.settle]

theorem Wf.kernFinal (h : Wf s) {kn} : Wf (s.kernFinal kn) := by
  grind [State.kernFinal, Wf.slotFail, Wf.cmdFinal, wf_def, foldl_wf]

theorem Wf.countEnded (h : Wf s) {kn gs} : Wf (s.countEnded kn gs) := by
  grind [State.countEnded, Wf.setKern, Wf.kernFinal, Wf.jmod]

theorem Wf.killGroup (h : Wf s) {gid status} : Wf (s.killGroup gid status) := by
  unfold State.killGroup
  split
  · exact h
  next g hg =>
  split
  · exact h
  · have h1 : ∀ t : Thread → Thread, Wf (s.setGroup gid { g with killed := some status, threads := g.threads.map t }) :=
      fun t => h.setGroup { h.group hg with }
    grind [Wf.purge, Wf.setCore, Wf.core, wf_def]

theorem Wf.freeSlot (h : Wf s) {ctx n} : Wf (s.freeSlot ctx n) := by
  unfold State.freeSlot
  grind [Wf.setCtx]

theorem Wf.killGang (h : Wf s) {kn gi who} : Wf (s.killGang kn gi who) := by
  grind [State.killGang, Wf.eventRecord, Wf.modGang, Wf.countEnded, Wf.freeSlot, Wf.killGroup, foldl_wf]

theorem Wf.killKern (h : Wf s) {kn who} : Wf (s.killKern kn who) := by
  grind [State.killKern, Wf.killGang, foldl_wf]

theorem Wf.signalRun (h : Wf s) {k c} : Wf (s.signalRun k c) := by
  grind [State.signalRun, Wf.cmdFinal, Wf.devFault, Wf.modSlot, Wf.plinthPut, Wf.msix]

theorem Wf.killQueue (h : Wf s) {k who} : Wf (s.killQueue k who) := by
  grind [State.killQueue, Wf.queueError, Wf.killKern, Wf.signalRun, Wf.cmdFinish, foldl_wf]

theorem Wf.killCtx (h : Wf s) {ctx who} : Wf (s.killCtx ctx who) := by
  grind [State.killCtx, Wf.setCtx, Wf.killQueue, Wf.killKern, foldl_wf]

theorem Wf.waitEval (h : Wf s) {k c} : Wf (s.waitEval k c) := by
  grind [State.waitEval, Wf.cmdFinal, Wf.devFault, Wf.modSlot]

theorem Wf.waitsEval (h : Wf s) {k} : Wf (s.waitsEval k) := by
  grind [State.waitsEval, Wf.waitEval, foldl_wf]

theorem Wf.lateNotify (h : Wf s) {k} : Wf (s.lateNotify k) := by
  unfold State.lateNotify
  dsimp only
  repeat' split
  all_goals grind [Wf.setSlot, Wf.slotWait, Wf.plinthPut, Wf.msix, wf_def]

theorem Wf.notifySlot (h : Wf s) {k} : Wf (s.notifySlot k) := by
  grind [State.notifySlot, Wf.lateNotify, Wf.setSlot, Wf.settle, Wf.waitsEval, Wf.readProd, Wf.qcbSync, Wf.modSlot]

/-! ### Image -/

theorem GroupWf.ofArea (hg : GroupWf g) {n} : OptGroupWf (g.ofArea n) := by
  grind [Group.ofArea, groupWf_def, optGroupWf_some, optGroupWf_none]

theorem GroupWf.imageSet (hg : GroupWf g) {o x} : GroupWf (g.imageSet o x) := by
  unfold Group.imageSet
  split
  · exact { hg with }
  · exact { hg with scratch := Mem_wf_set _ _ _ hg.scratch }
  · exact { hg with }
  · exact { hg with vitrine := Mem_wf_set _ _ _ hg.vitrine }
  · exact hg

theorem GroupWf.imageWrite (hg : GroupWf g) {o bytes clock} : OptGroupWf (g.imageWrite o bytes clock) := by
  unfold Group.imageWrite
  split
  · exact hg.ofArea
  · split
    · exact optGroupWf_some.2 hg
    · exact optGroupWf_map fun _ => { hg with }
  · exact optGroupWf_some.2 (foldl_inv GroupWf _ (fun _ _ h => h.imageSet) hg)

theorem Wf.savePut (h : Wf s) {ctx gid off n} : Wf (s.savePut ctx gid off n) := by
  grind [State.savePut, Wf.plinthPut]

theorem Wf.saveImage (h : Wf s) {ctx gid} : Wf (s.saveImage ctx gid) := by
  grind [State.saveImage, Wf.savePut, wf_def, foldl_wf]

/-! ### Gang -/

theorem Wf.startGather (h : Wf s) : Wf s.startGather := by
  grind [State.startGather, Wf.setKern]

theorem Wf.markFirst (h : Wf s) : Wf s.markFirst := { h.startGather with }

theorem Wf.debit (h : Wf s) {quad cores n} : Wf (s.debit quad cores n) := by
  grind [State.debit, wf_def]

theorem GroupWf.newGroup {k : Kernel} {kn gi m core slot clock} : GroupWf (k.newGroup kn gi m core slot clock) := ⟨rfl, rfl⟩

theorem Wf.kernStart (h : Wf s) {kn} : Wf (s.kernStart kn) := by
  grind [State.kernStart, Wf.modSlot, Wf.setKern, Wf.jmod]

theorem Wf.putNew (h : Wf s) {kn gi quad cores} : Wf (s.putNew kn gi quad cores) := by
  grind [State.putNew, Wf.l1Clear, Wf.setGroup, GroupWf.retable, GroupWf.newGroup, Wf.modGang, Wf.kernStart, Wf.debit, wf_def, foldl_wf]

theorem Wf.gatherDone (h : Wf s) {kn} : Wf (s.gatherDone kn) := by
  grind [State.gatherDone, Wf.setKern, Wf.putNew, foldl_wf]

theorem Wf.reactivate (h : Wf s) {gid} : Wf (s.reactivate gid) := by
  grind [State.reactivate, Wf.setCore, Wf.core, foldl_wf]

theorem Wf.putSaved (h : Wf s) {kn gi quad cores} : Wf (s.putSaved kn gi quad cores) := by
  grind [State.putSaved, Wf.reactivate, Wf.l1Clear, Wf.modGroup, Wf.modGang, Wf.freeSlot, Wf.barBytes, Wf.debit, Wf.finishWakes, GroupWf.retable, groupWf_def, wf_def, foldl_wf]

theorem execPlacementReport_keeps (h : Wf s) {die} : Keeps (execPlacementReport die s) := by
  grind [execPlacementReport, Wf.markFirst, wf_def, foldl_wf, keeps_next]

theorem Wf.restore (h : Wf s) {kn gi quad cores k gid} : Wf (s.restore kn gi quad cores k gid) := by
  grind [State.restore, Wf.devFault, Wf.modGang, Wf.putSaved]

theorem execPlaceGang_keeps (h : Wf s) {kern gang quad cores} : Keeps (execPlaceGang kern gang quad cores s) := by
  grind [execPlaceGang, Wf.markFirst, Wf.restore, Wf.gatherDone, Wf.setKern, Wf.putNew, keeps_next]

theorem Wf.depState (h : Wf s) {k gid} : Wf (s.depState k gid).1 := by
  grind [State.depState, Wf.devFault, foldl_fst_wf]

theorem Wf.depFail (h : Wf s) {kn gi k} : Wf (s.depFail kn gi k) := by
  grind [State.depFail, Wf.eventRecord, Wf.modGang, Wf.countEnded, Wf.modKern, foldl_wf]

theorem Wf.depCheck (h : Wf s) {kn} : Wf (s.depCheck kn) := by
  grind [State.depCheck, Wf.gatherDone, Wf.depState, Wf.modGang, Wf.depFail, foldl_wf, foldl_fst_wf]

theorem Wf.preempt (h : Wf s) {kn gi} : Wf (s.preempt kn gi) := by
  grind [State.preempt, Wf.modGang, Wf.setCtx]

theorem execPreemptDecision_keeps (h : Wf s) {kern gang} : Keeps (execPreemptDecision kern gang s) := by
  grind [execPreemptDecision, Wf.markFirst, Wf.preempt, keeps_next]

theorem Wf.haltGroup (h : Wf s) {gid} : Wf (s.haltGroup gid) := by
  grind [State.haltGroup, Wf.abortRegion, Wf.modGroup, Wf.setCore, Wf.gatherFlags, GroupWf.retable, groupWf_def, Wf.core, foldl_wf]

theorem Wf.settleCopies (h : Wf s) {kn gi quad} : Wf (s.settleCopies kn gi quad) := by
  grind [State.settleCopies, Wf.setChain, Wf.modGang, foldl_wf]

theorem execGangHalted_keeps (h : Wf s) {kern gang} : Keeps (execGangHalted kern gang s) := by
  grind [execGangHalted, Wf.settleCopies, Wf.haltGroup, Wf.modGang, foldl_wf, keeps_next]

theorem Wf.quiesceCheck (h : Wf s) {ctx} : Wf (s.quiesceCheck ctx) := by
  grind [State.quiesceCheck, Wf.setCtx, Wf.qcbSync, Wf.setSlot, foldl_wf]

theorem Wf.save (h : Wf s) {kern gang k gid} : Wf (s.save kern gang k gid) := by
  grind [State.save, Wf.devFault, Wf.modGang, Wf.modGroup, Wf.saveImage, Wf.markFirst, Wf.quiesceCheck, groupWf_def, wf_def, foldl_wf]

theorem execGangSaved_keeps (h : Wf s) {kern gang} : Keeps (execGangSaved kern gang s) := by
  grind [execGangSaved, Wf.drainWhere, Wf.save, Wf.widenTo, foldl_optWf, optWf_some, optWf_bind, keeps_next]

theorem Wf.evArrival (h : Wf s) {gid k} : Wf (s.evArrival gid g k) := by
  grind [State.evArrival, Wf.barEvent, Wf.toContain]

theorem Wf.gangEnd (h : Wf s) {kn gi} : Wf (s.gangEnd kn gi) := by
  grind [State.gangEnd, Wf.modGang, Wf.freeSlot]

theorem Wf.withPins (h : Wf s) {p} : Wf { s with pins := p } := { h with }

theorem Wf.dropGroup (h : Wf s) {k} : Wf { s with groups := dropKey k s.groups } :=
  { h with groups := fun x hx => h.groups x (mem_dropKey.1 hx).1 }

theorem execGroupRetire_keeps (h : Wf s) {grp} : Keeps (execGroupRetire grp s) := by
  refine (keeps_next _).2 ?_
  split
  · exact h
  next g hg =>
  split
  · exact h
  split
  · exact h
  next s0 hs0 =>
  have h0 : Wf s0 := h.drainWhere s0 hs0
  refine Wf.markFirst (Wf.quiesceCheck (foldl_wf _ (fun _ _ ha => ha.depCheck) (Wf.countEnded (Wf.modGang (Wf.gangEnd (Wf.dropGroup ?_))))))
  have hev := fun (ws : List Window) f p => (Wf.withPins (foldl_wf ws (fun _ w ha => ha.closeWindow (w := w)) (h0.widenTo (f := f))) (p := p)).eventRecord
    (kn := g.kern) (gidx := g.gidx) (status := g.killed.getD 0)
  split
  · split
    · exact Wf.evArrival (hev _ _ _)
    · exact hev _ _ _
  · exact hev _ _ _

/-! ### Contain -/

theorem Wf.ignoreFault (h : Wf s) {gid f} : Wf (s.ignoreFault gid f) := h.releaseThreads

theorem Wf.retryFault (h : Wf s) {gid f} : Wf (s.retryFault gid f) := h.modThreads.releaseThreads

theorem Wf.killLevel (h : Wf s) {ctx f level} : Wf (s.killLevel ctx f level) := by
  unfold State.killLevel
  grind [Wf.killGroup, Wf.killGang, Wf.killKern, Wf.killQueue, Wf.killCtx, optWf_map, optWf_getD]

theorem Wf.firstCause (h : Wf s) {ctx f} : Wf (s.firstCause ctx f) := by
  grind [State.firstCause, Wf.jwrite]

theorem Wf.decideFault (h : Wf s) {ctx f} : Wf (s.decideFault ctx f) := by
  grind [State.decideFault, Wf.firstCause, Wf.ignoreFault, Wf.retryFault, Wf.killLevel, optWf_map, optWf_getD]

theorem execContainmentDecision_keeps (h : Wf s) {ctx} : Keeps (execContainmentDecision ctx s) := by
  grind [execContainmentDecision, Wf.faultRing, Wf.setCtx, Wf.markFirst, Wf.decideFault, keeps_next]

/-! ### PageInstr -/

theorem execPgstat_keeps (h : Wf s) {w} : Keeps (execPgstat w s) := by
  grind [execPgstat, Wf.runWord, withThread_wf, TurnWf, keeps_next]

theorem execLeaseq_keeps (h : Wf s) {w} : Keeps (execLeaseq w s) := by
  grind [execLeaseq, Wf.runWord, withThread_wf, TurnWf, keeps_next]

theorem execLeaseqVa_keeps (h : Wf s) {w} : Keeps (execLeaseqVa w s) := by
  grind [execLeaseqVa, Wf.runWord, withThread_wf, TurnWf, keeps_next]

theorem Wf.hintPages (h : Wf s) {ctx k n p left} : Wf (s.hintPages ctx k n p left) := by
  induction n generalizing s p left with
  | zero => exact h
  | succ n ih => grind [State.hintPages, Wf.setPte]

theorem execPghint_keeps (h : Wf s) {w} : Keeps (execPghint w s) := by
  grind [execPghint, Wf.runWord, withThread_wf, Wf.hintPages, TurnWf, keeps_next]

/-! ### Registrar -/

theorem Wf.modRegions (h : Wf s) {f} : Wf (s.modRegions f) := by
  grind [State.modRegions, wf_def, groupWf_def]

theorem Wf.untrack (h : Wf s) {f} : Wf (s.untrack f) := h.modRegions

theorem Wf.track (h : Wf s) {ctx page f} : Wf (s.track ctx page f) := h.modRegions

theorem Wf.takeFrame (h : Wf s) {f ctx page table m} (hm : Mem.wf m = true) : Wf (s.takeFrame f ctx page table m) :=
  have h1 : Wf (((s.dirRecallRange (f * 65536) 65536)).untrack f) := h.dirRecallRange.untrack
  { h1 with hbm := Mem_wf_paste _ _ _ _ h1.hbm hm }

theorem Wf.dropFrame (h : Wf s) {f} : Wf (s.dropFrame f) := { h.untrack with }

theorem Wf.makeTables (h : Wf s) {ctx va n table} : OptWf (Option.map Prod.fst (s.makeTables ctx va n table)) := by
  induction n generalizing s table with
  | zero => exact optWf_some.2 h
  | succ n ih =>
    unfold State.makeTables
    dsimp only
    split
    · exact ih h
    split
    · exact optWf_none
    · exact ih (Wf.setPte (h.takeFrame Mem_wf_nil))

theorem Wf.pteMake (h : Wf s) {ctx va} : OptWf ((s.pteMake ctx va).map Prod.fst) := h.makeTables

theorem Wf.pruneTables (h : Wf s) {ctx va} : Wf (s.pruneTables ctx va) := by
  grind [State.pruneTables, Wf.dropFrame, Wf.setPte]

theorem Wf.tlbDrop (h : Wf s) {ctx page} : Wf (s.tlbDrop ctx page) := by
  grind [State.tlbDrop, wf_def]

theorem Wf.performOld (h : Wf s) {ctx page} : OptWf (s.performOld ctx page) := by
  grind [State.performOld, Wf.widenTo, Wf.drainWhere, foldl_optWf, optWf_some, optWf_map, optWf_bind]

theorem Wf.l1Page (h : Wf s) {ctx page} : Wf (s.l1Page ctx page) := by
  grind [State.l1Page, wf_def]

theorem Wf.shootdown (h : Wf s) {ctx page} : OptWf (s.shootdown ctx page) := by
  grind [State.shootdown, Wf.l1Page, Wf.tlbDrop, Wf.performOld, optWf_some, optWf_map]

theorem Wf.modPte (h : Wf s) {ctx va f} : Wf (s.modPte ctx va f) := by
  grind [State.modPte, Wf.setPte]

theorem Wf.writeBack (h : Wf s) {ctx va} : Wf (s.writeBack ctx va) := by
  grind [State.writeBack, Wf.performOld, Wf.setPte, Wf.toPool, Wf.wakePort, optWf_some]

theorem Wf.stopWindows (h : Wf s) {ctx page gone} : Wf (s.stopWindows ctx page gone) := by
  grind [State.stopWindows, Wf.markDirty, Wf.windowBack, wf_def, foldl_wf]

theorem Wf.ungroup (h : Wf s) {ctx va} : Wf (s.ungroup ctx va) := by
  grind [State.ungroup, Wf.modPte, foldl_wf]

theorem Wf.dropCopy (h : Wf s) {ctx va st} : Wf (s.dropCopy ctx va st) := by
  grind [State.dropCopy, Wf.dropFrame, Wf.setPte, Wf.ungroup, wf_def]

theorem Wf.unload (h : Wf s) {ctx va st} : OptWf (s.unload ctx va st) := by
  grind [State.unload, Wf.dropCopy, Wf.shootdown, optWf_some, optWf_map]

theorem Wf.startRefill (h : Wf s) {ctx page prefetch llc} : Wf (s.startRefill ctx page prefetch llc) := by
  grind [State.startRefill, Wf.wakePage, wf_def]

theorem Wf.startWriteBack (h : Wf s) {ctx page evict} : Wf (s.startWriteBack ctx page evict) := by
  grind [State.startWriteBack, Wf.performOld, Wf.setPte, Wf.wakePage, wf_def, optWf_some]

theorem Wf.lapsePins (h : Wf s) {f} : Wf (s.lapsePins f) := by
  grind [State.lapsePins, Wf.modGroup, groupWf_def, wf_def, foldl_wf]

theorem Wf.dropLease (h : Wf s) {l allLost keepBytes} : OptWf (s.dropLease l allLost keepBytes) := by
  grind [State.dropLease, Wf.performOld, Wf.lapsePins, Wf.toPool, Wf.windowBack, Wf.wakePort, Wf.unload, wf_def, foldl_wf, foldl_optWf, optWf_some, optWf_bind]

theorem Wf.post (h : Wf s) {r} : Wf (s.post r) := { h with }

theorem Wf.askRenewal (h : Wf s) {n} : Wf (s.askRenewal n) := h.post.setLease

theorem execTlbWalk_keeps (h : Wf s) {ctx va} : Keeps (execTlbWalk ctx va s) := by
  grind [execTlbWalk, wf_def, keeps_next]

/-! ### Admin -/

theorem Wf.ctxDone (h : Wf s) {err last} : Wf (s.ctxDone err last) := { h with }

theorem Wf.ctxCommand {w op f} (h : Wf s) (hf : ∀ a n, Wf a → Wf (f a n).1) : Wf (s.ctxCommand w op f) := by
  grind [State.ctxCommand, Wf.wakePort, Wf.ctxDone]

theorem execCreate_keeps (h : Wf s) {w} : Keeps (execCreate w s) := by
  grind [execCreate, Wf.ctxCommand, Wf.descSync, Wf.setCtx, keeps_next]

theorem execActivate_keeps (h : Wf s) {w} : Keeps (execActivate w s) := by
  grind [execActivate, Wf.ctxCommand, Wf.setCtx, keeps_next]

theorem Wf.releaseClaims (h : Wf s) {ctx} : Wf (s.releaseClaims ctx) := { h with }

theorem execQuiesce_keeps (h : Wf s) {w} : Keeps (execQuiesce w s) := by
  grind [execQuiesce, Wf.ctxCommand, Wf.releaseClaims, Wf.setCtx, Wf.markFirst, Wf.quiesceCheck, Wf.preempt, foldl_wf, keeps_next]

theorem Wf.slotResume (h : Wf s) {k} : Wf (s.slotResume k) := by
  grind [State.slotResume, Wf.settle, Wf.readProd, Wf.qcbSync, Wf.setSlot]

theorem execResume_keeps (h : Wf s) {w} : Keeps (execResume w s) := by
  grind [execResume, Wf.ctxCommand, Wf.setCtx, Wf.markFirst, Wf.slotResume, wf_def, foldl_wf, keeps_next]

theorem Wf.endCommands (h : Wf s) {k} : Wf (s.endCommands k) := by
  grind [State.endCommands, Wf.killKern, Wf.cmdFinish, Wf.kernCancel, foldl_wf]

theorem execDestroy_keeps (h : Wf s) {w} : Keeps (execDestroy w s) := by
  grind [execDestroy, Wf.ctxCommand, Wf.setCtx, Wf.endCommands, Wf.unmap, foldl_wf, keeps_next]

theorem Wf.dropDebug (h : Wf s) {c} : Wf (s.dropDebug c) := by
  grind [State.dropDebug, Wf.setCtx, Wf.reactivate, Wf.modGroup, GroupWf.retable, groupWf_def, foldl_wf]

theorem execSetrights_keeps (h : Wf s) {w} : Keeps (execSetrights w s) := by
  grind [execSetrights, Wf.ctxCommand, Wf.setCtx, Wf.dropDebug, keeps_next]

theorem Wf.endLeases (h : Wf s) {c} : Wf (s.endLeases c) := by
  grind [State.endLeases, Wf.writeBack, Wf.dropCopy, Wf.post, Wf.setLease, foldl_wf]

theorem execTeardownComplete_keeps (h : Wf s) {ctx} : Keeps (execTeardownComplete ctx s) := by
  grind [execTeardownComplete, Wf.lapsePins, Wf.endLeases, Wf.dropFrame, wf_def, foldl_wf, keeps_next]

theorem Wf.slotDone (h : Wf s) {err last} : Wf (s.slotDone err last) := { h with }

theorem Wf.slotPending (h : Wf s) {k} : Wf (s.slotPending k) := by
  grind [State.slotPending, wf_def]

theorem Wf.slotCommand {w op f} (h : Wf s) (hf : ∀ a n, Wf a → Wf (f a n)) : Wf (s.slotCommand w op f) := by
  grind [State.slotCommand, Wf.wakePort, Wf.slotDone, Wf.slotPending]

theorem Wf.bindSlot (h : Wf s) {k ctx qcb d} : Wf (s.bindSlot k ctx qcb d) := by
  grind [State.bindSlot, Wf.settle, Wf.qcbSync, Wf.setSlot, wf_def]

theorem Wf.mapTry (h : Wf s) {k ctx a lost} : Wf (s.mapTry k ctx a lost) := by
  unfold State.mapTry
  dsimp only
  repeat' split
  all_goals grind [Wf.slotDone, Wf.devFault, Wf.bindSlot, wf_def]

theorem execQslotMap_keeps (h : Wf s) {w} : Keeps (execQslotMap w s) := by
  grind [execQslotMap, Wf.slotCommand, Wf.mapTry, keeps_next]

theorem Wf.hostUnmap (h : Wf s) {k} : Wf (s.hostUnmap k) := by
  grind [State.hostUnmap, Wf.unmap, Wf.slotState, Wf.setSlot]

theorem Wf.afterAccept (h : Wf s) {k} : Wf (s.afterAccept k) := by
  grind [State.afterAccept, Wf.nextPlinth]

theorem execQslotUnmap_keeps (h : Wf s) {w} : Keeps (execQslotUnmap w s) := by
  grind [execQslotUnmap, Wf.slotCommand, Wf.afterAccept, Wf.slotDone, Wf.hostUnmap, Wf.unmap, keeps_next]

theorem execQslotReset_keeps (h : Wf s) {w} : Keeps (execQslotReset w s) := by
  grind [execQslotReset, Wf.slotCommand, Wf.slotDone, Wf.settle, Wf.qcbSync, Wf.readProd, Wf.setSlot, keeps_next]

theorem execQnotify_keeps (h : Wf s) {slot} : Keeps (execQnotify slot s) := by
  grind [execQnotify, Wf.notifySlot, Wf.wakePort, keeps_next]

theorem execIdleUnmap_keeps (h : Wf s) {slot} : Keeps (execIdleUnmap slot s) := by
  grind [execIdleUnmap, Wf.unmap, keeps_next]

/-! ### Packet -/

theorem Wf.accept (h : Wf s) {k q p running deadline kern kseq} : Wf (s.accept k q p running deadline kern kseq) := by
  grind [State.accept, Wf.jopen, Wf.setSlot, Wf.readProd, Wf.qcbSync, wf_def]

theorem Wf.runCmd (h : Wf s) {ctx j} : Wf (s.runCmd ctx j) := h.jmod

theorem Wf.packetTurn {k kind f} (h : Wf s) (hf : ∀ a q p, Wf a → Wf (f a q p)) : Wf (s.packetTurn k kind f) := by
  grind [State.packetTurn, Wf.settle]

theorem execNopPacket_keeps (h : Wf s) {slot} : Keeps (execNopPacket slot s) := by
  grind [execNopPacket, Wf.packetTurn, Wf.runCmd, Wf.accept, Wf.cmdFinal, keeps_next]

theorem Wf.rejectPacket (h : Wf s) {k q p} : Wf (s.rejectPacket k q p) := h.accept.cmdFinish.queueError

theorem execInvalidPacket_keeps (h : Wf s) {slot} : Keeps (execInvalidPacket slot s) := by
  grind [execInvalidPacket, Wf.packetTurn, Wf.rejectPacket, keeps_next]

theorem Wf.startWait (h : Wf s) {k q p us} : Wf (s.startWait k q p us) := by
  grind [State.startWait, Wf.settle, Wf.waitsEval, Wf.runCmd, Wf.accept]

theorem execWaitmem_keeps (h : Wf s) {slot} : Keeps (execWaitmem slot s) := by
  grind [execWaitmem, Wf.packetTurn, Wf.startWait, keeps_next]

theorem execWaitcmd_keeps (h : Wf s) {slot} : Keeps (execWaitcmd slot s) := by
  grind [execWaitcmd, Wf.packetTurn, Wf.startWait, Wf.rejectPacket, Wf.slotState, Wf.headWait, keeps_next]

theorem execSignal_keeps (h : Wf s) {slot} : Keeps (execSignal slot s) := by
  grind [execSignal, Wf.packetTurn, Wf.settle, Wf.runCmd, Wf.accept, keeps_next]

theorem execSignalDone_keeps (h : Wf s) {slot} : Keeps (execSignalDone slot s) := by
  grind [execSignalDone, Wf.signalRun, foldl_wf, keeps_next]

theorem execWaitTimeout_keeps (h : Wf s) {slot} : Keeps (execWaitTimeout slot s) := by
  grind [execWaitTimeout, Wf.cmdFinal, foldl_wf, keeps_next]

theorem execLaunchPacket_keeps (h : Wf s) {slot} : Keeps (execLaunchPacket slot s) := by
  grind [execLaunchPacket, Wf.packetTurn, Wf.slotState, Wf.headWait, Wf.cmdFinal, Wf.accept, Wf.setCtx, Wf.setKern, Wf.markFirst, Wf.depCheck, Wf.settle, wf_def, keeps_next]

/-! ### Resolve -/

theorem Wf.wakeEngines (h : Wf s) {n lost} : Wf (s.wakeEngines n lost) := by
  grind [State.wakeEngines, wf_def]

theorem Wf.queueLost (h : Wf s) {k} : Wf (s.queueLost k) := by
  grind [State.queueLost, Wf.queueError]

theorem Wf.tellLost (h : Wf s) {k} : Wf (s.tellLost k) := by
  grind [State.tellLost, Wf.setSlot, Wf.msix]

theorem Wf.wakeBlock (h : Wf s) {k q lost} : Wf (s.wakeBlock k q lost) := by
  grind [State.wakeBlock, Wf.setSlot, Wf.unmap, Wf.dropSpent, Wf.qcbSync, Wf.tellLost, Wf.queueLost, Wf.settle, Wf.readProd, wf_def]

theorem Wf.wakeSlot (h : Wf s) {k n page lost} : Wf (s.wakeSlot k n page lost) := by
  grind [State.wakeSlot, Wf.wakeBlock, Wf.setSlot, Wf.queueLost, Wf.settle]

theorem Wf.wakeSaves (h : Wf s) {n page lost} : Wf (s.wakeSaves n page lost) := { h with }

theorem Wf.wakeCmds (h : Wf s) {k n lost} : Wf (s.wakeCmds k n lost) := by
  grind [State.wakeCmds, Wf.setSlot, Wf.signalRun, Wf.waitEval, foldl_wf]

theorem Wf.wakeAll (h : Wf s) {n page lost} : Wf (s.wakeAll n page lost) := by
  grind [State.wakeAll, Wf.wakeSlot, Wf.wakeSaves, Wf.wakeEngines, Wf.wakeCmds, Wf.devLost, Wf.flushDev, Wf.mapTry, wf_def, foldl_wf]

theorem Wf.dropPend (h : Wf s) {n} : Wf (s.dropPend n) := { h with }

theorem Wf.releasePend (h : Wf s) {p} : Wf (s.releasePend p) := by
  grind [State.releasePend, Wf.releaseThreads, Wf.wakeAll, Wf.dropPend, foldl_wf]

theorem Wf.convertPack (h : Wf s) {k} : Wf (s.convertPack k) := by
  grind [State.convertPack, Wf.abortRegion, Wf.toContain, Wf.modThreads, foldl_wf]

theorem Wf.convertPend (h : Wf s) {p} : Wf (s.convertPend p) := by
  grind [State.convertPend, Wf.wakeAll, Wf.dropPend, Wf.convertPack, foldl_wf]

theorem Wf.rerouteWindows (h : Wf s) {ctx page} : Wf (s.rerouteWindows ctx page) := { h with }

theorem Wf.resolvePoison (h : Wf s) {p} : Wf (s.resolvePoison p) := by
  grind [State.resolvePoison, Wf.dropPend, Wf.unload, optWf_some]

theorem Wf.resolve (h : Wf s) {p} : Wf (s.resolve p) := by
  unfold State.resolve
  dsimp only
  repeat' split
  all_goals grind [Wf.resolvePoison, Wf.convertPend, Wf.releasePend, Wf.rerouteWindows, Wf.startRefill, Wf.setLease, Wf.askRenewal, wf_def]

theorem execFaultResolve_keeps (h : Wf s) {n} : Keeps (execFaultResolve n s) := by
  refine (keeps_next _).2 ?_
  cases s.pendReady n with
  | none => exact h
  | some p => exact h.resolve

theorem execRenewwaitExpiry_keeps (h : Wf s) {fseq} : Keeps (execRenewwaitExpiry fseq s) := by
  grind [execRenewwaitExpiry, Wf.convertPend, keeps_next]

theorem Wf.unloadIf (h : Wf s) {c : Bool} {ctx va st} : Wf (if c then (s.unload ctx va st).getD s else s) := by
  split
  · exact optWf_getD h.unload h
  · exact h

theorem execRefillComplete_keeps (h : Wf s) {ctx va f} : Keeps (execRefillComplete ctx va f s) := by
  have h0 : ∀ js, Wf { s with jobs := js } := fun js => { h with }
  refine (keeps_next _).2 ?_
  dsimp only
  split
  · split
    · split
      · exact h0 _
      split
      · exact h0 _
      split
      · exact h
      · refine Wf.unloadIf (Wf.setPte (Wf.track (Wf.takeFrame (Wf.wakePort (h0 _)) ?_)))
        exact Mem_wf_slice _ _ _ h.pool
    · exact h
  · exact h

theorem execPageEviction_keeps (h : Wf s) {ctx va} : Keeps (execPageEviction ctx va s) := by
  grind [execPageEviction, Wf.startWriteBack, Wf.unload, optWf_getD, keeps_next]

theorem Wf.writeAgain (h : Wf s) {ctx page} : Wf (s.writeAgain ctx page) := by
  grind [State.writeAgain, Wf.toPool, Wf.windowBack, Wf.wakePort, Wf.writeBack, foldl_wf]

theorem execPageWritebackComplete_keeps (h : Wf s) {ctx va} : Keeps (execPageWritebackComplete ctx va s) := by
  have h0 : ∀ js, Wf { s with jobs := js } := fun js => { h with }
  refine (keeps_next _).2 ?_
  dsimp only
  split
  · exact h.writeAgain
  · split
    · split
      · exact h0 _
      split
      · exact h
      split
      · exact Wf.setPte (h0 _)
      · split
        · refine optWf_getD (Wf.unload (Wf.toPool (Wf.wakePort (h0 _)))) (Wf.toPool (Wf.wakePort (h0 _)))
        · refine Wf.writeAgain (Wf.toPool (Wf.wakePort (h0 _)))
    · exact h0 _
    · exact h

theorem execCounterHalving_keeps (h : Wf s) : Keeps (execCounterHalving s) := by
  refine (keeps_next _).2 ?_
  split
  · exact h
  · exact { h with }

theorem execPrefetchRequest_keeps (h : Wf s) : Keeps (execPrefetchRequest s) := by
  grind [execPrefetchRequest, Wf.startRefill, wf_def, foldl_wf, keeps_next]

theorem execUncorrectableError_keeps (h : Wf s) {line} : Keeps (execUncorrectableError line s) := by
  grind [execUncorrectableError, Wf.poisonRecord, wf_def, keeps_next, keeps_fault]

theorem Wf.reqDone (h : Wf s) {r status} : Wf (s.reqDone r status) := by
  grind [State.reqDone, Wf.hostPut, wf_def]

theorem Wf.request {op f} (h : Wf s) (hf : ∀ a r, Wf a → Wf (f a r).1) : Wf (s.request op f) := by
  grind [State.request, Wf.wakeHost, Wf.reqDone]

theorem Wf.mapPage (h : Wf s) {r va} : OptWf (s.mapPage r va) := by
  grind [State.mapPage, Wf.pteMake, Wf.setPte, Wf.takeFrame, Mem_wf_nil, optWf_some, optWf_none, optWf_bind]

theorem execReqMap_keeps (h : Wf s) : Keeps (execReqMap s) := by
  grind [execReqMap, Wf.request, Wf.mapPage, foldl_optWf, optWf_some, optWf_bind, keeps_next]

theorem Wf.unmapPage (h : Wf s) {ctx va} : OptWf (s.unmapPage ctx va) := by
  grind [State.unmapPage, Wf.performOld, Wf.stopWindows, Wf.pruneTables, Wf.modPte, Wf.unload, Wf.writeBack, optWf_some, optWf_map]

theorem Wf.holdPages (h : Wf s) {r} : Wf (s.holdPages r) := by
  grind [State.holdPages, wf_def, foldl_wf]

theorem Wf.unhold (h : Wf s) : Wf s.unhold := { h with }

theorem execReqUnmap_keeps (h : Wf s) : Keeps (execReqUnmap s) := by
  grind [execReqUnmap, Wf.request, Wf.holdPages, Wf.unmapPage, Wf.unhold, foldl_optWf, optWf_some, optWf_bind, keeps_next]

theorem Wf.migrateMark (h : Wf s) {r} : Wf (s.migrateMark r) := by
  grind [State.migrateMark, Wf.modPte, Wf.ungroup, wf_def, foldl_wf]

theorem Wf.migrateShoot (h : Wf s) {j} : OptWf (s.migrateShoot j) := by
  grind [State.migrateShoot, Wf.shootdown, Wf.stopWindows, wf_def, optWf_some, optWf_map]

theorem Wf.migrateGo (h : Wf s) : Wf s.migrateGo := by
  grind [State.migrateGo, Wf.migrateShoot, foldl_optWf, optWf_some, optWf_bind, optWf_getD]

theorem execMigrate_keeps (h : Wf s) : Keeps (execMigrate s) := by
  grind [execMigrate, Wf.migrateGo, Wf.request, Wf.migrateMark, keeps_next]

theorem Wf.moveLines (h : Wf s) {old new} : Wf (s.moveLines old new) := { h.modRegions with }

theorem execMigrationComplete_keeps (h : Wf s) {ctx va} : Keeps (execMigrationComplete ctx va s) := by
  grind [execMigrationComplete, Wf.dropFrame, Wf.moveLines, Wf.takeFrame, Wf.setPte, Wf.unload, Wf.reqDone, Mem_wf_slice, wf_def, optWf_getD, keeps_next]

theorem Wf.editPages (h : Wf s) {r ok f} : Wf (s.editPages r ok f).1 := by
  grind [State.editPages, Wf.modPte, Wf.ungroup, foldl_wf]

theorem execPinpage_keeps (h : Wf s) : Keeps (execPinpage s) := by
  grind [execPinpage, Wf.request, Wf.editPages, keeps_next]

theorem execUnpinpage_keeps (h : Wf s) : Keeps (execUnpinpage s) := by
  grind [execUnpinpage, Wf.request, Wf.editPages, keeps_next]

theorem execProtect_keeps (h : Wf s) : Keeps (execProtect s) := by
  grind [execProtect, Wf.request, Wf.editPages, Wf.performOld, Wf.tlbDrop, foldl_wf, foldl_optWf, optWf_some, optWf_bind, keeps_next]

/-! ### Lease -/

theorem Wf.leaseWriteBack (h : Wf s) {l} : Wf (s.leaseWriteBack l) := by
  grind [State.leaseWriteBack, Wf.toPool, Wf.windowBack, Wf.wakePort, Wf.startWriteBack, foldl_wf]

theorem Wf.enterExpiring (h : Wf s) {n l} : Wf (s.enterExpiring n l) := h.setLease.leaseWriteBack.askRenewal

theorem execLeaseExpiring_keeps (h : Wf s) {n} : Keeps (execLeaseExpiring n s) := by
  grind [execLeaseExpiring, Wf.enterExpiring, keeps_next]

theorem execRevocationDeadline_keeps (h : Wf s) {n} : Keeps (execRevocationDeadline n s) := by
  grind [execRevocationDeadline, Wf.post, Wf.dropLease, Wf.setLease, optWf_some, optWf_map, optWf_getD, keeps_next]

theorem execNodeFailureTimeout_keeps (h : Wf s) {n} : Keeps (execNodeFailureTimeout n s) := by
  grind [execNodeFailureTimeout, Wf.dropLease, optWf_getD, keeps_next]

theorem Wf.renewed (h : Wf s) {n ctx} : Wf (s.renewed n ctx) := { h with }

theorem execLeaseRelease_keeps (h : Wf s) {n} : Keeps (execLeaseRelease n s) := by
  grind [execLeaseRelease, Wf.post, Wf.setLease, keeps_next]

theorem execReqrenewRepeat_keeps (h : Wf s) {n} : Keeps (execReqrenewRepeat n s) := by
  grind [execReqrenewRepeat, Wf.askRenewal, keeps_next]

theorem Wf.sendOut (h : Wf s) : Wf s.sendOut := by
  unfold State.sendOut
  dsimp only
  split
  · exact h
  · exact { h with pool := Mem_wf_write _ _ _ (foldl_inv (fun m : Mem => m.wf = true) _ (fun _ _ hm => Mem_wf_write _ _ _ hm) h.pool) }

theorem Wf.inDone (h : Wf s) : Wf s.inDone := by
  grind [State.inDone, wf_def, Mem_wf_write]

theorem Wf.refuse (h : Wf s) {r reason} : Wf (s.refuse r reason) := { h with }

theorem execMailboxPoll_keeps (h : Wf s) : Keeps (execMailboxPoll s) := by
  unfold execMailboxPoll
  dsimp only
  repeat' split
  all_goals grind [Wf.sendOut, Wf.wakePort, Wf.inDone, Wf.refuse, keeps_next]

theorem Wf.inbound {op f} (h : Wf s) (hf : ∀ a r, Wf a → OptWf (f a r)) : Wf (s.inbound op f) := by
  unfold State.inbound
  split
  · exact h
  dsimp only
  split
  · exact h
  · exact optWf_getD (optWf_map fun a ha => (hf _ _ h.wakePort a ha).inDone) h

theorem execLeaseExpiry_keeps (h : Wf s) {n} : Keeps (execLeaseExpiry n s) := by
  grind [execLeaseExpiry, Wf.setLease, Wf.dropLease, optWf_getD, keeps_next]

theorem execGrant_keeps (h : Wf s) : Keeps (execGrant s) := by
  refine (keeps_next _).2 (h.inbound fun _ _ ha => optWf_some.2 ?_)
  grind [Wf.refuse, Wf.setLease]

theorem execRenew_keeps (h : Wf s) : Keeps (execRenew s) := by
  refine (keeps_next _).2 (h.inbound fun _ _ ha => ?_)
  split
  · exact optWf_some.2 ha.refuse
  next n l _ =>
  split
  · exact optWf_some.2 ha.refuse
  split
  · exact optWf_some.2 ha.refuse
  · refine optWf_map fun b hb => ?_
    have hb : Wf b := by
      split at hb
      · exact ha.dropLease b hb
      · cases hb; exact ha
    dsimp only
    split
    · exact hb.renewed.setLease
    split
    · exact hb.renewed.setLease
    · exact hb.renewed.enterExpiring

theorem Wf.leaseShoot (h : Wf s) {l} : Wf (s.leaseShoot l) := by
  grind [State.leaseShoot, Wf.performOld, Wf.tlbDrop, foldl_wf, optWf_getD]

theorem execRevoke_keeps (h : Wf s) : Keeps (execRevoke s) := by
  refine (keeps_next _).2 (h.inbound fun _ _ ha => optWf_some.2 ?_)
  grind [Wf.refuse, Wf.setLease, Wf.leaseShoot, Wf.leaseWriteBack]

theorem Wf.failJobs (h : Wf s) {l} : Wf (s.failJobs l) := by
  grind [State.failJobs, Wf.modPte, wf_def, foldl_wf]

theorem Wf.failNode (h : Wf s) {node report} : Wf (s.failNode node report) := by
  grind [State.failNode, Wf.failJobs, Wf.setLease, Wf.leaseShoot, Wf.post, foldl_wf]

theorem execNodefail_keeps (h : Wf s) : Keeps (execNodefail s) :=
  (keeps_next _).2 (h.inbound fun _ _ ha => optWf_some.2 ha.failNode)

theorem Wf.remapPage (h : Wf s) {l page} : Wf (s.remapPage l page) := by
  grind [State.remapPage, Wf.setPte, wf_def, Mem_wf_paste, Mem_wf_slice]

theorem Wf.performLease (h : Wf s) {l} : OptWf (s.performLease l) := by
  grind [State.performLease, Wf.performOld, foldl_optWf, optWf_some, optWf_bind]

theorem execReplace_keeps (h : Wf s) : Keeps (execReplace s) := by
  grind [execReplace, Wf.inbound, Wf.refuse, Wf.setLease, Wf.remapPage, Wf.wakePort, Wf.failNode, Wf.performLease, foldl_wf, optWf_some, optWf_map, keeps_next]

theorem execCompletionTimeout_keeps (h : Wf s) {n} : Keeps (execCompletionTimeout n s) := by
  grind [execCompletionTimeout, Wf.failNode, keeps_next]

theorem execBisnp_keeps (h : Wf s) {port addr} : Keeps (execBisnp port addr s) := by
  grind [execBisnp, Wf.unload, Wf.wakePort, wf_def, foldl_wf, optWf_getD, keeps_next]

/-! ### Link -/

theorem Wf.linkError (h : Wf s) {p} : Wf (s.linkError p) := h.setPort

theorem execHdmRead_keeps (h : Wf s) {pa n} : Keeps (execHdmRead pa n s) := by
  grind [execHdmRead, Wf.wakePort, Wf.widen, Wf.linkError, wf_def, keeps_next, keeps_fault]

theorem execHdmWrite_keeps (h : Wf s) {pa bytes} : Keeps (execHdmWrite pa bytes s) := by
  grind [execHdmWrite, Wf.wakePort, Wf.dirRecallRange, Wf.linkError, wf_def, Mem_wf_write, keeps_next, keeps_fault]

theorem execHostSnoop_keeps (h : Wf s) {addr} : Keeps (execHostSnoop addr s) := by
  grind [execHostSnoop, Wf.wakePort, wf_def, keeps_next]

theorem Wf.dirEvent (h : Wf s) {line f} : Keeps (s.dirEvent line f) := by
  grind [State.dirEvent, Wf.dirSet, keeps_next, keeps_fault]

theorem Wf.dieRequest (h : Wf s) {die line f} : Keeps (s.dieRequest die line f) := by
  grind [State.dieRequest, Wf.dirSet, wf_def, keeps_next, keeps_fault]

theorem execReadRequest_keeps (h : Wf s) {die line} : Keeps (execReadRequest die line s) := by
  grind [execReadRequest, Wf.dieRequest]

theorem execOwnershipRequest_keeps (h : Wf s) {die line} : Keeps (execOwnershipRequest die line s) := by
  grind [execOwnershipRequest, Wf.dieRequest]

theorem execHandoff_keeps (h : Wf s) {line} : Keeps (execHandoff line s) := by
  grind [execHandoff, Wf.dirEvent]

theorem execDieEviction_keeps (h : Wf s) {die line} : Keeps (execDieEviction die line s) := by
  grind [execDieEviction, Wf.dirEvent]

theorem execWritebackGrant_keeps (h : Wf s) {line} : Keeps (execWritebackGrant line s) := by
  grind [execWritebackGrant, Wf.dirEvent]

theorem execMergeComplete_keeps (h : Wf s) {line} : Keeps (execMergeComplete line s) := by
  grind [execMergeComplete, Wf.dirEvent]

theorem execPtmExchange_keeps (h : Wf s) {offset} : Keeps (execPtmExchange offset s) := by
  grind [execPtmExchange, wf_def, keeps_next]

theorem Wf.sendHeld (h : Wf s) : Wf s.sendHeld := by
  grind [State.sendHeld, Wf.descSync, wf_def, foldl_wf]

theorem Wf.cleanDone (h : Wf s) {port} : Wf (s.cleanDone port) := { h with }

theorem execTrainingComplete_keeps (h : Wf s) {port rate width} : Keeps (execTrainingComplete port rate width s) := by
  grind [execTrainingComplete, Wf.cleanDone, Wf.setPort, Wf.sendHeld, keeps_next]

theorem execTrainingRetry_keeps (h : Wf s) {port} : Keeps (execTrainingRetry port s) := by
  grind [execTrainingRetry, Wf.setPort, keeps_next]

theorem Wf.dropPort (h : Wf s) {port st all} : Wf (s.dropPort port st all) := by
  grind [State.dropPort, Wf.setPort, Wf.failNode, foldl_wf]

theorem execLinkLoss_keeps (h : Wf s) {port} : Keeps (execLinkLoss port s) := by
  grind [execLinkLoss, Wf.dropPort, keeps_next]

theorem execIntegrityFailure_keeps (h : Wf s) {port} : Keeps (execIntegrityFailure port s) := by
  grind [execIntegrityFailure, Wf.dropPort, keeps_next]

theorem execSpdmRequest_keeps (h : Wf s) {setsKey port} : Keeps (execSpdmRequest setsKey port s) := by
  grind [execSpdmRequest, Wf.wakePort, Wf.setPort, wf_def, keeps_next]

theorem Wf.linkCommand {w op f} (h : Wf s) (hf : ∀ a n, Wf a → Wf (f a n)) : Wf (s.linkCommand w op f) := by
  grind [State.linkCommand, Wf.wakePort]

theorem execRetrain_keeps (h : Wf s) {w} : Keeps (execRetrain w s) := by
  grind [execRetrain, Wf.linkCommand, Wf.setPort, keeps_next]

theorem execLowpower_keeps (h : Wf s) {w} : Keeps (execLowpower w s) := by
  grind [execLowpower, Wf.linkCommand, Wf.setPort, keeps_next]

theorem execWake_keeps (h : Wf s) {w} : Keeps (execWake w s) := by
  grind [execWake, Wf.linkCommand, Wf.wakePort, keeps_next]

theorem execLinkDisable_keeps (h : Wf s) {w} : Keeps (execLinkDisable w s) := by
  grind [execLinkDisable, Wf.linkCommand, Wf.dropPort, keeps_next]

theorem execLinkEnable_keeps (h : Wf s) {w} : Keeps (execLinkEnable w s) := by
  grind [execLinkEnable, Wf.linkCommand, Wf.setPort, keeps_next]

theorem execLinkstatRead_keeps (h : Wf s) {port} : Keeps (execLinkstatRead port s) := by
  grind [execLinkstatRead, Wf.wakePort, Wf.setPort, wf_def, keeps_next]

theorem execLinkErrorRecovered_keeps (h : Wf s) {port} : Keeps (execLinkErrorRecovered port s) := by
  grind [execLinkErrorRecovered, Wf.linkError, keeps_next]

theorem execMbxcfgWrite_keeps (h : Wf s) {v} : Keeps (execMbxcfgWrite v s) := by
  grind [execMbxcfgWrite, Wf.wakePort, wf_def, keeps_next]

/-! ### Power -/

theorem Wf.pwrDone (h : Wf s) {err} : Wf (s.pwrDone err) := { h with }

theorem Wf.power {w op l f} (h : Wf s) (hf : ∀ a n m, Wf a → Wf (f a n m).1) : Wf (s.power w op l f) := by
  grind [State.power, Wf.wakePort, Wf.pwrDone]

theorem execDieclk_keeps (h : Wf s) {w} : Keeps (execDieclk w s) := by
  grind [execDieclk, Wf.power, wf_def, keeps_next]

theorem execQuadout_keeps (h : Wf s) {w} : Keeps (execQuadout w s) := by
  grind [execQuadout, Wf.power, wf_def, keeps_next]

theorem execQuadin_keeps (h : Wf s) {w} : Keeps (execQuadin w s) := by
  grind [execQuadin, Wf.power, wf_def, keeps_next]

theorem Wf.blankQuad (h : Wf s) {q} : Wf (s.blankQuad q) := by
  refine { h with cores := fun c hc => ?_ }
  obtain ⟨x, hx, rfl⟩ := List.mem_map.1 hc
  dsimp only
  split
  · rfl
  · exact h.cores x hx

theorem execQuadgate_keeps (h : Wf s) {w} : Keeps (execQuadgate w s) := by
  grind [execQuadgate, Wf.power, Wf.blankQuad, wf_def, keeps_next]

theorem execQuadungate_keeps (h : Wf s) {w} : Keeps (execQuadungate w s) := by
  grind [execQuadungate, Wf.power, Wf.blankQuad, wf_def, keeps_next]

theorem execHbmdown_keeps (h : Wf s) {w} : Keeps (execHbmdown w s) := by
  grind [execHbmdown, Wf.power, wf_def, keeps_next]

theorem execHbmup_keeps (h : Wf s) {w} : Keeps (execHbmup w s) := by
  grind [execHbmup, Wf.power, wf_def, keeps_next]

theorem execFwload_keeps (h : Wf s) {w} : Keeps (execFwload w s) := by
  grind [execFwload, Wf.power, wf_def, keeps_next]

theorem execHbmRetrain_keeps (h : Wf s) {stack chan} : Keeps (execHbmRetrain stack chan s) := by
  grind [execHbmRetrain, keeps_next]

theorem Wf.resetKeep (h : Wf s) : Wf s.resetKeep := by
  grind [State.resetKeep, Wf.reset, wf_def]

theorem execTrip_keeps (h : Wf s) {cause die} : Keeps (execTrip cause die s) := by
  grind [execTrip, Wf.resetKeep, Wf.msix, wf_def, keeps_next]

theorem Wf.bringUp (h : Wf s) : Wf s.bringUp := { h with }

theorem execPowerGood_keeps (h : Wf s) : Keeps (execPowerGood s) := by
  grind [execPowerGood, Wf.bringUp, Wf.resetKeep, keeps_next]

theorem execWarmReset_keeps (h : Wf s) : Keeps (execWarmReset s) := by
  grind [execWarmReset, Wf.resetKeep, Wf.bringUp, wf_def, keeps_next]

theorem execHbmTraining_keeps (h : Wf s) {failed} : Keeps (execHbmTraining failed s) := by
  grind [execHbmTraining, wf_def, keeps_next]

theorem execSelfTest_keeps (h : Wf s) {failed} : Keeps (execSelfTest failed s) := by
  grind [execSelfTest, wf_def, keeps_next]

theorem execTripRead_keeps (h : Wf s) : Keeps (execTripRead s) := by
  grind [execTripRead, Wf.wakePort, wf_def, keeps_next]

theorem execPowerOff_keeps (h : Wf s) : Keeps (execPowerOff s) := by
  grind [execPowerOff, Wf.resetKeep, wf_def, keeps_next]

theorem execSampcfgWrite_keeps (h : Wf s) {v} : Keeps (execSampcfgWrite v s) := by
  grind [execSampcfgWrite, Wf.wakePort, wf_def, keeps_next]

theorem Wf.barWrite (h : Wf s) {off v} : Wf (s.barWrite off v) := by
  unfold State.barWrite
  grind [Wf.setPort, wf_def]

theorem execRegisterWrite_keeps (h : Wf s) {off size v} : Keeps (execRegisterWrite off size v s) := by
  grind [execRegisterWrite, Wf.wakePort, Wf.barWrite, keeps_next]

theorem Wf.barPeek (h : Wf s) {off n} : Wf (s.barPeek off n) := by
  grind [State.barPeek, Wf.wakePort, Wf.setPort, wf_def]

theorem Wf.bar2Put (h : Wf s) {a bs} : Wf (s.bar2Put a bs) := by
  have hm : ∀ (m : Mem) (e : Byte × Nat), Mem.wf m = true → Mem.wf (if a + e.2 < 0x8000 then m.set (a + e.2) (e.1 ^^^ (if (a + e.2) % 16 = 12 then 1 else 0)) else m) = true := by
    intro m e hm
    split
    · exact Mem_wf_set _ _ _ hm
    · exact hm
  unfold State.bar2Put
  split
  · exact h
  · exact { h.wakePort with bar2 := foldl_inv (fun m : Mem => m.wf = true) _ hm h.bar2 }

theorem Wf.bar2Peek (h : Wf s) {a n} : Wf (s.bar2Peek a n) := by
  grind [State.bar2Peek, Wf.wakePort, wf_def]

/-! ### Control -/

theorem goTo_wf (h : Wf s) {iss a} : TurnWf (goTo iss s a) := h

theorem push_wf {e : Env} (h : Wf e.s) {t ret k} (hk : ∀ a f, Wf a → TurnWf (k a f)) : TurnWf (push e t ret k) := by
  unfold push
  split
  · split
    · exact hk _ _ h
    · dsimp only
      split
      · trivial
      split
      · trivial
      split
      · exact h
      · next s2 hs => exact hk _ _ ((Wf.envStore (e := e) h).drainThread s2 hs)
  · exact hk _ _ h

theorem pop_wf {e : Env} (h : Wf e.s) {t k} (hk : ∀ a r f, Wf a → TurnWf (k a r f)) : TurnWf (pop e t k) := by
  unfold pop
  split
  · exact hk _ _ _ h
  · dsimp only
    split
    · trivial
    split
    · trivial
    split
    · exact h
    · next s1 bs hr => exact hk _ _ _ (optWf_fst (Wf.envRead h) hr)

theorem execNop_keeps (h : Wf s) {w} : Keeps (execNop w s) := by
  grind [execNop, Wf.runWord, TurnWf, keeps_next]

theorem execBra_keeps (h : Wf s) {w} : Keeps (execBra w s) := by
  grind [execBra, Wf.runWord, goTo_wf, keeps_next]

theorem execJmp_keeps (h : Wf s) {w} : Keeps (execJmp w s) := by
  grind [execJmp, Wf.runWord, withThread_wf, goTo_wf, TurnWf, keeps_next]

theorem execCall_keeps (h : Wf s) {w} : Keeps (execCall w s) :=
  runWord_keeps h fun _ _ _ _ _ _ he => push_wf he fun _ _ ha => ha

theorem execCalli_keeps (h : Wf s) {w} : Keeps (execCalli w s) :=
  runWord_keeps h fun _ _ _ e t _ he => by
    dsimp only
    split
    · trivial
    · exact push_wf he fun _ _ ha => ha

theorem execRet_keeps (h : Wf s) {w} : Keeps (execRet w s) :=
  runWord_keeps h fun _ _ _ _ _ _ he => pop_wf he fun _ _ _ ha => ha

theorem execExit_keeps (h : Wf s) {w} : Keeps (execExit w s) := by
  grind [execExit, Wf.runWord, Wf.unlock, TurnWf, keeps_next]

theorem execRowblk_keeps (h : Wf s) {w} : Keeps (execRowblk w s) := by
  grind [execRowblk, Wf.runWord, Wf.modThread, TurnWf, keeps_next]

theorem execYield_keeps (h : Wf s) {w} : Keeps (execYield w s) := by
  grind [execYield, Wf.runWord, goTo_wf, keeps_next]

theorem execNap_keeps (h : Wf s) {w} : Keeps (execNap w s) := by
  grind [execNap, Wf.runWord, goTo_wf, TurnWf, keeps_next]

theorem execTrap_keeps (h : Wf s) {w} : Keeps (execTrap w s) := by
  grind [execTrap, Wf.runWord, TurnWf, keeps_next]

theorem execBrk_keeps (h : Wf s) {w} : Keeps (execBrk w s) := by
  grind [execBrk, Wf.runWord, TurnWf, keeps_next]

/-! ### Selector -/

theorem Wf.haltAsked (h : Wf s) {gid} : Wf (s.haltAsked gid) := by
  grind [State.haltAsked, Wf.modThreads, Wf.takeFaults, foldl_wf]

theorem GroupWf.withThreads (hg : GroupWf g) {ts} : GroupWf { g with threads := ts } := { hg with }

theorem Wf.withUid (h : Wf s) {n} : Wf { s with nextUid := n } := { h with }

theorem execDispatch_keeps (h : Wf s) {core stream} : Keeps (execDispatch core stream s) := by
  refine (keeps_next _).2 ?_
  dsimp only
  generalize hs0 : (s.residents core).foldl _ s = s0
  have h0 : Wf s0 := hs0 ▸ foldl_wf _ (fun _ _ ha => Wf.retable (Wf.haltAsked (ha.modGroup fun _ hx => hx.withThreads))) h
  split
  · exact h
  split
  · exact h0
  split
  · exact h0
  have h1 := foldl_wf (s0.residents core) (fun a (x : Nat × Group) ha => Wf.modGroup ha (k := x.1) (f := fun y => { y with yielded := [] }) fun _ hy => { hy with }) h0
  split
  · exact Wf.fetchTouch (Wf.withUid (Wf.setStream (Wf.modGroup h1 fun _ hx => GroupWf.retable hx.withThreads)))
  · exact Wf.fetchFault (Wf.withUid (Wf.setStream (Wf.modGroup h1 fun _ hx => GroupWf.retable hx.withThreads)))

theorem execHandlerActivation_keeps (h : Wf s) {core stream} : Keeps (execHandlerActivation core stream s) := by
  unfold execHandlerActivation
  dsimp only
  repeat' split
  all_goals grind [Wf.setCore, Wf.modGroup, Wf.modThreads, GroupWf.retable, Wf.setStream, Wf.core, wf_def, keeps_next]

theorem execSpeculativeLoad_keeps (h : Wf s) {core grp va} : Keeps (execSpeculativeLoad core grp va s) := by
  grind [execSpeculativeLoad, Wf.l1Install, keeps_next]

theorem execLdqDataArrive_keeps (h : Wf s) {grp tid q idx} : Keeps (execLdqDataArrive grp tid q idx s) := by
  grind [execLdqDataArrive, Wf.modThread, keeps_next]

theorem execStoreDrain_keeps (h : Wf s) {core idx} : Keeps (execStoreDrain core idx s) := by
  grind [execStoreDrain, Wf.drainEntry, Wf.setCore, Wf.core, keeps_next]

theorem execNapExpire_keeps (h : Wf s) {grp tid} : Keeps (execNapExpire grp tid s) := by
  grind [execNapExpire, Wf.modThread, keeps_next]

theorem execPinLapse_keeps (h : Wf s) {idx} : Keeps (execPinLapse idx s) := by
  grind [execPinLapse, Wf.modGroup, wf_def, groupWf_def, keeps_next]

/-! ### System -/

theorem GroupWf.writeTrapen (hg : GroupWf g) {x} : GroupWf (g.writeTrapen x) := { hg with }

theorem execCsrw_keeps (h : Wf s) {w} : Keeps (execCsrw w s) := by
  grind [execCsrw, Wf.runWord, withThread_wf, Wf.modGroup, GroupWf.writeTrapen, Wf.setThread, Wf.setCtx, groupWf_def, TurnWf, keeps_next]

theorem Wf.holdEvent (h : Wf s) : Wf s.holdEvent := by
  grind [State.holdEvent, Wf.setStream, Wf.finishIssue]

theorem Wf.runStack (h : Wf s) {i precise halt f} : Wf (runStack i precise halt s f) := by
  grind [runStack, Wf.runWord, withThread_wf, Wf.setThread, TurnWf]

theorem Wf.runEvent (h : Wf s) {i kind id precise f} : Wf (runEvent i kind id precise s f) := by
  grind [runEvent, Wf.holdEvent, Wf.runStack, Wf.tell]

theorem execTrig_keeps (h : Wf s) {w} : Keeps (execTrig w s) := by
  grind [execTrig, Wf.runEvent, Wf.runWord, TurnWf, keeps_next]

theorem execFret_keeps (h : Wf s) {w} : Keeps (execFret w s) := by
  grind [execFret, Wf.runWord, withThread_wf, Wf.setThread, Wf.failHandler, TurnWf, keeps_next]

/-! ### Debug -/

theorem Wf.dbgDone (h : Wf s) {err} : Wf (s.dbgDone err) := { h with }

theorem Wf.debug {w op r f} (h : Wf s) (hf : ∀ a n, Wf a → Wf (f a n).1) : Wf (s.debug w op r f) := by
  grind [State.debug, Wf.wakePort, Wf.dbgDone]

theorem Wf.haltRecords (h : Wf s) {gid} : Wf (s.haltRecords gid) := by
  grind [State.haltRecords, Wf.toContain, foldl_wf]

theorem Wf.debugHalt (h : Wf s) {gid} : Wf (s.debugHalt gid) := by
  grind [State.debugHalt, Wf.abortRegion, Wf.haltGroup, Wf.modGroup, Wf.haltRecords, GroupWf.retable, groupWf_def, foldl_wf]

theorem Wf.finishHalt (h : Wf s) : Wf s.finishHalt := by
  grind [State.finishHalt, Wf.debugHalt, wf_def, foldl_wf]

theorem execHostHalt_keeps (h : Wf s) {w} : Keeps (execHostHalt w s) := by
  grind [execHostHalt, Wf.debug, Wf.modGroup, Wf.debugHalt, groupWf_def, wf_def, foldl_wf, keeps_next]

theorem execDebugResume_keeps (h : Wf s) {w} : Keeps (execDebugResume w s) := by
  grind [execDebugResume, Wf.debug, Wf.reactivate, Wf.modGroup, GroupWf.retable, groupWf_def, foldl_wf, keeps_next]

theorem execDebugRead_keeps (h : Wf s) {w} : Keeps (execDebugRead w s) := by
  refine (keeps_next _).2 (h.debug fun a n ha => ?_)
  have hput : ∀ x : BitVec 512, Wf { a with choiceCtr := a.choiceCtr + 1, bar := { a.bar with dbgdata := x } } := fun x => { ha with }
  dsimp only
  repeat' split
  all_goals grind

theorem Wf.imageEdit (h : Wf s) {off clock bytes} : OptWf (s.imageEdit g off clock bytes) := by
  have hput : ∀ a : State, Wf a → Wf (((a.gang? g.kern g.gang).map (fun x => a.savePut g.ctx x off 64)).getD a) :=
    fun a ha => optWf_getD (optWf_map fun _ _ => ha.savePut) ha
  unfold State.imageEdit
  dsimp only
  split
  · exact optWf_some.2 h
  split
  · exact optWf_map fun _ _ => hput _ h.modGang
  split
  · exact optWf_some.2 h
  split
  · exact optWf_some.2 h
  · next y hy =>
    exact optWf_map fun z hz => hput _ (h.setGroup (GroupWf.retable ((h.group hy).imageWrite z hz)))

theorem Wf.putObject (h : Wf s) (hg : GroupWf g) {gid tid t o i} : OptWf (s.putObject g gid tid t o i).toOption := by
  have hT : ∀ x : List Thread, Wf (s.setGroup gid ({ g with threads := x } : Group).retable) := fun x => h.setGroup (GroupWf.retable { hg with })
  unfold State.putObject
  dsimp only
  split
  · split
    · exact optWf_none
    · exact optWf_some.2 (hT _)
  · split
    · exact optWf_none
    · exact optWf_some.2 (hT _)
  · split
    · exact optWf_none
    · split
      · next s1 he => exact (he ▸ h.imageEdit : OptWf (some s1))
      · exact optWf_none
  · split
    · exact optWf_none
    · exact optWf_some.2 (h.setGroup ⟨hg.scratch, hg.vitrine⟩)
  · exact optWf_none

theorem Wf.dbgGroup (h : Wf s) {ctx} {x : Nat × Group × Nat} (hx : s.dbgGroup ctx = some x) : GroupWf x.2.1 := by
  unfold State.dbgGroup at hx
  obtain ⟨y, hy, rfl⟩ := Option.map_eq_some_iff.1 hx
  exact h.groups y (List.mem_of_find?_eq_some hy)

theorem execDebugWrite_keeps (h : Wf s) {w} : Keeps (execDebugWrite w s) := by
  refine (keeps_next _).2 (h.debug fun a n ha => ?_)
  dsimp only
  split
  · exact ha
  split
  · exact ha
  next gid g tid hx =>
  split
  · exact ha
  next t _ =>
  have hput := Wf.putObject ha (ha.dbgGroup hx) (gid := gid) (tid := tid) (t := t) (o := bits a.bar.dbgarg1 63 60) (i := bits a.bar.dbgarg0 63 32)
  split
  · next s1 hs =>
    rw [hs] at hput
    exact optWf_some.1 hput
  · exact ha

theorem Wf.editCtx (h : Wf s) {ctx f} : Wf (s.editCtx ctx f).1 := h.setCtx

theorem execSetbp_keeps (h : Wf s) {w} : Keeps (execSetbp w s) := by
  grind [execSetbp, Wf.debug, Wf.editCtx, keeps_next]

theorem execClrbp_keeps (h : Wf s) {w} : Keeps (execClrbp w s) := by
  grind [execClrbp, Wf.debug, Wf.editCtx, keeps_next]

theorem execSetwp_keeps (h : Wf s) {w} : Keeps (execSetwp w s) := by
  grind [execSetwp, Wf.debug, Wf.editCtx, keeps_next]

theorem execClrwp_keeps (h : Wf s) {w} : Keeps (execClrwp w s) := by
  grind [execClrwp, Wf.debug, Wf.editCtx, keeps_next]

theorem execTrigcfg_keeps (h : Wf s) {w} : Keeps (execTrigcfg w s) := by
  grind [execTrigcfg, Wf.debug, Wf.editCtx, keeps_next]

theorem execTrial_keeps (h : Wf s) {w} : Keeps (execTrial w s) := by
  grind [execTrial, Wf.debug, Wf.editCtx, wf_def, keeps_next]

theorem execTrialDelay_keeps (h : Wf s) {core stream} : Keeps (execTrialDelay core stream s) := by
  grind [execTrialDelay, Wf.setCtx, Wf.setStream, keeps_next]

theorem Wf.sample (h : Wf s) {core} : Wf (s.sample core) := by
  grind [State.sample, Wf.setCore, Wf.ringWrite, Wf.core]

theorem execSample_keeps (h : Wf s) {core} : Keeps (execSample core s) := by
  grind [execSample, Wf.sample, keeps_next]

theorem Wf.passSamples (h : Wf s) {fuel n} : Wf (State.passSamples fuel s n) := by
  induction fuel generalizing s n with
  | zero => exact h.advance
  | succ fuel ih => grind [State.passSamples, Wf.advance, Wf.sample, foldl_wf]

theorem Wf.passTime (h : Wf s) {n} : Wf (s.passTime n) := by
  grind [State.passTime, Wf.finishHalt, Wf.displace, Wf.advance, Wf.passSamples]

/-! ### Atomic -/

theorem Wf.envMarkOrder (h : Wf s) {w red} : Wf (e.markOrder w red s) := by
  grind [Env.markOrder, Wf.modGroup, groupWf_def]

theorem Wf.envAtomStart (he : Wf e.s) {w red rs ls} : OptWf (e.atomStart w red rs ls) := by
  grind [Env.atomStart, Wf.drainAt, Wf.widenBound, optWf_none]

theorem Wf.envAtomMark (h : Wf s) {l} : Wf (e.atomMark l s) := by
  unfold Env.atomMark
  grind [Wf.markDirty]

theorem Wf.envAtomTouch (h : Wf s) {scope l place n} : Wf (e.atomTouch scope l place n s) := by
  unfold Env.atomTouch
  grind [Wf.l1Range, Wf.l1Drop, Wf.widen, Wf.dirAtomic]

theorem Wf.atomPut (h : Wf s) {l off bs} : Wf (atomPut l off bs s) := by
  cases l with
  | mem va pa =>
    have h1 : Wf { s with hbm := s.hbm.write (pa + off) bs } := { h with hbm := Mem_wf_write _ _ _ h.hbm }
    exact h1.widen
  | cell g o r => exact h.scratchWrite
  | frame o => exact h

theorem Wf.envAtomEnd (h : Wf s) {w red rs} : Wf (e.atomEnd w red rs s) := by
  grind [Env.atomEnd, Wf.envMarkOrder, Wf.acquire]

theorem envAtomic_wf (he : Wf e.s) {t w red code f k} : TurnWf (e.atomic t w red code f k) := by
  unfold Env.atomic
  dsimp only
  repeat' split
  all_goals grind [Wf.envAtomStart, Wf.envAtomTouch, Wf.envAtomMark, Wf.atomPut, Wf.envAtomEnd, TurnWf, optWf_some]

theorem execAtom_keeps (h : Wf s) {w} : Keeps (execAtom w s) := by
  grind [execAtom, Wf.runWord, withThread_wf, envAtomic_wf, keeps_next]

theorem execCas_keeps (h : Wf s) {w} : Keeps (execCas w s) := by
  grind [execCas, Wf.runWord, withThread_wf, envAtomic_wf, keeps_next]

theorem execRed_keeps (h : Wf s) {w} : Keeps (execRed w s) := by
  grind [execRed, Wf.runWord, withThread_wf, envAtomic_wf, keeps_next]

theorem envRing_wf (he : Wf e.s) {t w enq} : TurnWf (e.ring t w enq) := by
  unfold Env.ring
  dsimp only
  repeat' split
  all_goals grind [Wf.envAtomStart, Wf.envAtomTouch, Wf.envAtomMark, Wf.envAtomEnd, Wf.atomPut, TurnWf, optWf_some]

theorem execEnq_keeps (h : Wf s) {w} : Keeps (execEnq w s) := by
  grind [execEnq, Wf.runWord, withThread_wf, envRing_wf, keeps_next]

theorem execDeq_keeps (h : Wf s) {w} : Keeps (execDeq w s) := by
  grind [execDeq, Wf.runWord, withThread_wf, envRing_wf, keeps_next]

/-! ### RegionInstr -/

theorem Wf.lockGrant (h : Wf s) {scope inst who} : Wf (s.lockGrant scope inst who).1 := by
  grind [State.lockGrant, wf_def]

theorem execAbegin_keeps (h : Wf s) {w} : Keeps (execAbegin w s) := by
  grind [execAbegin, Wf.runWord, withThread_wf, Wf.setThread, Wf.abortRegion, Wf.lockGrant, TurnWf, keeps_next]

theorem execAcommit_keeps (h : Wf s) {w} : Keeps (execAcommit w s) := by
  unfold execAcommit
  grind [Wf.runWord, withThread_wf, Wf.setThread, TurnWf, keeps_next]

theorem execAabort_keeps (h : Wf s) {w} : Keeps (execAabort w s) := by
  grind [execAabort, Wf.runWord, withThread_wf, Wf.abortRegion, TurnWf, keeps_next]

theorem Wf.dirClaim (h : Wf s) {die line} : Wf (s.dirClaim die line) := h.dirSet.widen

theorem Wf.commitStores (h : Wf s) {die ctx ss now} : Wf (s.commitStores die ctx ss now) := foldl_wf _ (fun _ _ ha => ha.devPut) h

theorem Wf.abortAway (h : Wf s) {grp tid cause detail} : Wf (s.abortAway grp tid cause detail) := h.abortRegion.purge

theorem execConservatorCommit_keeps (h : Wf s) {grp tid} : Keeps (execConservatorCommit grp tid s) := by
  refine (keeps_next _).2 ?_
  split
  · split
    · exact h
    · split
      · exact h
      split
      · dsimp only
        split
        · exact h.abortAway
        split
        · exact h
        split
        · exact h
        · next s0 hs0 =>
          have h0 : Wf s0 := h.widenBound.drainAt s0 hs0
          have hclaim : ∀ die (ls : List Nat), Wf (ls.foldl (fun a l => a.dirClaim die l) s0) := fun _ ls => foldl_wf ls (fun _ _ ha => ha.dirClaim) h0
          split
          · exact (hclaim _ _).abortAway
          split
          · exact (hclaim _ _).abortAway
          · exact (hclaim _ _).commitStores.unlock.acquire.l1Drop.modThread
      · exact h.modThread
  · exact h

/-! ### Agenda -/

theorem Wf.drainNarrow (h : Wf s) {core idx scope} : Wf (s.drainNarrow core idx scope) := by
  grind [State.drainNarrow, Wf.drainAt, optWf_getD]

theorem Wf.widenOne (h : Wf s) {idx scope} : Wf (s.widenOne idx scope) := by
  grind [State.widenOne, Wf.widenTo]

theorem Wf.plainTurn (h : Wf s) {t} : Wf (s.plainTurn t) := by
  unfold State.plainTurn
  grind [Wf.passTime, Wf.copyOn, Wf.copyAhead, Wf.drainNarrow, Wf.widenOne, Wf.l1Drop, Wf.barPeek, Wf.bar2Put, Wf.bar2Peek, wf_def, Mem_wf_write]

/-! ### CrossLane -/

theorem Wf.runCross {i f} (h : Wf s) : Wf (runCross i s f) :=
  h.runWord fun _ _ _ h1 => by
    split
    · dsimp only
      split
      · exact h1.setThread
      · exact h1
    · exact h1

/-! ### QueueInstr -/

theorem Wf.launchNotify (h : Wf s) {ctx qa l} : Wf (s.launchNotify ctx qa l) := by
  grind [State.launchNotify, Wf.notifySlot, Wf.plinthPut]

theorem execLaunch_keeps (h : Wf s) {w} : Keeps (execLaunch w s) :=
  runWord_keeps h fun iss tid s1 e t h1 he => by
    dsimp only
    split
    · trivial
    split
    · trivial
    split
    · trivial
    split
    · exact h1
    next s2 hs =>
    have h2 : Wf s2 := h1.drainThread s2 hs
    split
    · split
      · trivial
      · exact h2
    split
    · trivial
    split
    · trivial
    split
    · trivial
    split
    · exact h1
    · exact h2.plinthPut.plinthPut.plinthPut.launchNotify

theorem execNotify_keeps (h : Wf s) {w} : Keeps (execNotify w s) :=
  runWord_keeps h fun _ _ _ e _ h1 he => by
    grind [TurnWf, Wf.drainThread, Wf.plinthPut, Wf.msix, optWf_some]

/-! ### Turn -/

/-- Every instruction and every operation of the machine keeps the invariant. -/
theorem exec_keeps (h : Wf s) {i} : Keeps (exec i s) := by
  cases i with
  | nop _ => exact execNop_keeps h
  | bra _ => exact execBra_keeps h
  | jmp _ => exact execJmp_keeps h
  | call _ => exact execCall_keeps h
  | calli _ => exact execCalli_keeps h
  | ret _ => exact execRet_keeps h
  | exit _ => exact execExit_keeps h
  | rowblk _ => exact execRowblk_keeps h
  | yield _ => exact execYield_keeps h
  | nap _ => exact execNap_keeps h
  | trap _ => exact execTrap_keeps h
  | brk _ => exact execBrk_keeps h
  | add _ | addImm _ | sub _ | subImm _ | addsat _ | setp _ | setpImm _ | plop _ | mov _ | vtop _ | pair _ _ | fscale _ | fdot2 _ | fsetp _ | frnd _ | cvt _
  | cvtsr _ | pack _ | unpack _ | qscale _ | qenc _ | qdec _ | csrr _ | fread _ => exact h.runLocal.keeps
  | mul _ | mulhi _ | and _ | or _ | xor _ | andn _ | shl _ | shr _ | sar _ | rol _ | bfx _ => exact h.bin32.keeps
  | mulImm _ | minImm _ | maxImm _ | andImm _ | orImm _ | xorImm _ | shlImm _ | shrImm _ | sarImm _ => exact h.binImm.keeps
  | mad _ | dot4 _ | bfi _ | prmt _ => exact h.tri32.keeps
  | madw _ | shl64 _ | shr64 _ | lea _ | leaImm _ | moviW _ => exact h.runWritePair.keeps
  | min _ => exact execMin_keeps h
  | max _ => exact execMax_keeps h
  | abs _ | neg _ | not _ | popc _ | clz _ | brev _ => exact h.un32.keeps
  | add64 _ | sub64 _ => exact h.bin64.keeps
  | sel _ => exact execSel_keeps h
  | ptov _ | movi _ => exact h.runWrite.keeps
  | fadd _ | fsub _ | fmul _ | ffma _ => exact h.floatOp.keeps
  | fdiv _ | fsqrt _ | frcp _ | frsq _ | fexp2 _ | flog2 _ | fsin _ | fcos _ | ftanh _ | fsigm _ => exact h.floatLong.keeps
  | fmin _ | fmax _ | famax _ | fclass _ | ffrexp _ => exact h.floatPlain.keeps
  | vote _ | ballot _ | matchLanes _ | shfl _ | redl _ | scanl _ => exact h.runCross.keeps
  | ld _ => exact execLd_keeps h
  | st _ => exact execSt_keeps h
  | ldq _ => exact execLdq_keeps h
  | pref _ => exact execPref_keeps h
  | ltset _ => exact execLtset_keeps h
  | ltget _ => exact execLtget_keeps h
  | ldt _ => exact execLdt_keeps h
  | stt _ => exact execStt_keeps h
  | tpref _ => exact execTpref_keeps h
  | bind _ => exact execBind_keeps h
  | unbind _ => exact execUnbind_keeps h
  | fence _ => exact execFence_keeps h
  | cinv _ => exact execCinv_keeps h
  | cwb _ => exact execCwb_keeps h
  | pin _ => exact execPin_keeps h
  | unpin _ => exact execUnpin_keeps h
  | spmap _ => exact execSpmap_keeps h
  | spunmap _ => exact execSpunmap_keeps h
  | atom _ => exact execAtom_keeps h
  | cas _ => exact execCas_keeps h
  | red _ => exact execRed_keeps h
  | enq _ => exact execEnq_keeps h
  | deq _ => exact execDeq_keeps h
  | abegin _ => exact execAbegin_keeps h
  | acommit _ => exact execAcommit_keeps h
  | aabort _ => exact execAabort_keeps h
  | conservatorCommit _ _ => exact execConservatorCommit_keeps h
  | barrive _ => exact execBarrive_keeps h
  | bsync _ => exact execBsync_keeps h
  | bwait _ => exact execBwait_keeps h
  | bexpect _ => exact execBexpect_keeps h
  | btest _ => exact execBtest_keeps h
  | btestCur _ => exact execBtestCur_keeps h
  | mma _ => exact execMma_keeps h
  | mzero _ => exact execMzero_keeps h
  | mrng _ => exact execMrng_keeps h
  | mldb _ => exact execMldb_keeps h
  | mdrain _ => exact execMdrain_keeps h
  | cpy _ => exact execCpy_keeps h
  | cpyx _ => exact execCpyx_keeps h
  | cpywp _ => exact execCpywp_keeps h
  | cpyseq _ => exact execCpyseq_keeps h
  | cpyseqStat _ => exact execCpyseqStat_keeps h
  | cpycan _ => exact execCpycan_keeps h
  | pgstat _ => exact execPgstat_keeps h
  | leaseq _ => exact execLeaseq_keeps h
  | leaseqVa _ => exact execLeaseqVa_keeps h
  | pghint _ => exact execPghint_keeps h
  | csrw _ => exact execCsrw_keeps h
  | enter _ | leave _ | mark _ => exact h.runEvent.keeps
  | trig _ => exact execTrig_keeps h
  | fret _ => exact execFret_keeps h
  | launch _ => exact execLaunch_keeps h
  | notify _ => exact execNotify_keeps h
  | dispatch _ _ => exact execDispatch_keeps h
  | handlerActivation _ _ => exact execHandlerActivation_keeps h
  | speculativeLoad _ _ _ => exact execSpeculativeLoad_keeps h
  | longLatencyComplete _ _ _ => exact h.modThread.gatherFlags.keeps
  | ldqDataArrive _ _ _ _ => exact execLdqDataArrive_keeps h
  | storeDrain _ _ => exact execStoreDrain_keeps h
  | napExpire _ _ => exact execNapExpire_keeps h
  | pinLapse _ => exact execPinLapse_keeps h
  | mmaComplete _ => exact execMmaComplete_keeps h
  | mzeroComplete _ => exact execMzeroComplete_keeps h
  | mldbComplete _ _ => exact execMldbComplete_keeps h
  | mdrainComplete _ _ => exact execMdrainComplete_keeps h
  | orderedSlotComplete _ => exact execOrderedSlotComplete_keeps h
  | copyStart _ _ => exact execCopyStart_keeps h
  | copyComplete _ _ => exact execCopyComplete_keeps h
  | followOnMma _ _ => exact execFollowOnMma_keeps h
  | groupRetire _ => exact execGroupRetire_keeps h
  | placementReport _ => exact execPlacementReport_keeps h
  | placeGang _ _ _ _ => exact execPlaceGang_keeps h
  | dependenceCheck _ => exact h.depCheck.markFirst.keeps
  | preemptDecision _ _ => exact execPreemptDecision_keeps h
  | gangHalted _ _ => exact execGangHalted_keeps h
  | gangSaved _ _ => exact execGangSaved_keeps h
  | containmentDecision _ => exact execContainmentDecision_keeps h
  | create _ => exact execCreate_keeps h
  | activate _ => exact execActivate_keeps h
  | quiesce _ => exact execQuiesce_keeps h
  | resume _ => exact execResume_keeps h
  | destroy _ => exact execDestroy_keeps h
  | setrights _ => exact execSetrights_keeps h
  | teardownComplete _ => exact execTeardownComplete_keeps h
  | qslotMap _ => exact execQslotMap_keeps h
  | qslotUnmap _ => exact execQslotUnmap_keeps h
  | qslotReset _ => exact execQslotReset_keeps h
  | qnotify _ => exact execQnotify_keeps h
  | idleUnmap _ => exact execIdleUnmap_keeps h
  | nopPacket _ => exact execNopPacket_keeps h
  | launchPacket _ => exact execLaunchPacket_keeps h
  | waitmem _ => exact execWaitmem_keeps h
  | waitcmd _ => exact execWaitcmd_keeps h
  | signal _ => exact execSignal_keeps h
  | waitEvaluate _ => exact h.waitsEval.keeps
  | waitTimeout _ => exact execWaitTimeout_keeps h
  | signalDone _ => exact execSignalDone_keeps h
  | tlbWalk _ _ => exact execTlbWalk_keeps h
  | faultResolve _ => exact execFaultResolve_keeps h
  | refillComplete _ _ _ => exact execRefillComplete_keeps h
  | pageEviction _ _ => exact execPageEviction_keeps h
  | pageWritebackComplete _ _ => exact execPageWritebackComplete_keeps h
  | migrationComplete _ _ => exact execMigrationComplete_keeps h
  | counterHalving => exact execCounterHalving_keeps h
  | prefetchRequest => exact execPrefetchRequest_keeps h
  | uncorrectableError _ => exact execUncorrectableError_keeps h
  | reqMap => exact execReqMap_keeps h
  | reqUnmap => exact execReqUnmap_keeps h
  | migrate => exact execMigrate_keeps h
  | pinpage => exact execPinpage_keeps h
  | unpinpage => exact execUnpinpage_keeps h
  | protect => exact execProtect_keeps h
  | leaseExpiring _ => exact execLeaseExpiring_keeps h
  | leaseExpiry _ => exact execLeaseExpiry_keeps h
  | revocationDeadline _ => exact execRevocationDeadline_keeps h
  | nodeFailureTimeout _ => exact execNodeFailureTimeout_keeps h
  | leaseRelease _ => exact execLeaseRelease_keeps h
  | reqrenewRepeat _ => exact execReqrenewRepeat_keeps h
  | mailboxPoll => exact execMailboxPoll_keeps h
  | grant => exact execGrant_keeps h
  | renew => exact execRenew_keeps h
  | revoke => exact execRevoke_keeps h
  | nodefail => exact execNodefail_keeps h
  | replace => exact execReplace_keeps h
  | completionTimeout _ => exact execCompletionTimeout_keeps h
  | bisnp _ _ => exact execBisnp_keeps h
  | hdmRead _ _ => exact execHdmRead_keeps h
  | hdmWrite _ _ => exact execHdmWrite_keeps h
  | hostSnoop a => exact execHostSnoop_keeps h (addr := a)
  | readRequest _ _ => exact execReadRequest_keeps h
  | ownershipRequest _ _ => exact execOwnershipRequest_keeps h
  | handoff _ => exact execHandoff_keeps h
  | dieEviction _ _ => exact execDieEviction_keeps h
  | writebackGrant _ => exact execWritebackGrant_keeps h
  | mergeComplete _ => exact execMergeComplete_keeps h
  | ptmExchange _ => exact execPtmExchange_keeps h
  | trainingComplete _ _ _ => exact execTrainingComplete_keeps h
  | trainingRetry _ => exact execTrainingRetry_keeps h
  | linkLoss _ => exact execLinkLoss_keeps h
  | integrityFailure _ => exact execIntegrityFailure_keeps h
  | spdmRequest _ _ => exact execSpdmRequest_keeps h
  | retrain _ => exact execRetrain_keeps h
  | lowpower _ => exact execLowpower_keeps h
  | wake _ => exact execWake_keeps h
  | linkDisable _ => exact execLinkDisable_keeps h
  | linkEnable _ => exact execLinkEnable_keeps h
  | dieclk _ => exact execDieclk_keeps h
  | quadout _ => exact execQuadout_keeps h
  | quadin _ => exact execQuadin_keeps h
  | quadgate _ => exact execQuadgate_keeps h
  | quadungate _ => exact execQuadungate_keeps h
  | hbmdown _ => exact execHbmdown_keeps h
  | hbmup _ => exact execHbmup_keeps h
  | fwload _ => exact execFwload_keeps h
  | hbmRetrain a b => exact execHbmRetrain_keeps h (stack := a) (chan := b)
  | trip _ _ => exact execTrip_keeps h
  | powerGood => exact execPowerGood_keeps h
  | warmReset => exact execWarmReset_keeps h
  | hbmTraining _ => exact execHbmTraining_keeps h
  | selfTest _ => exact execSelfTest_keeps h
  | tripRead => exact execTripRead_keeps h
  | linkstatRead _ => exact execLinkstatRead_keeps h
  | mbxcfgWrite _ => exact execMbxcfgWrite_keeps h
  | sampcfgWrite _ => exact execSampcfgWrite_keeps h
  | registerWrite _ _ _ => exact execRegisterWrite_keeps h
  | hostHalt _ => exact execHostHalt_keeps h
  | debugResume _ => exact execDebugResume_keeps h
  | debugRead _ => exact execDebugRead_keeps h
  | debugWrite _ => exact execDebugWrite_keeps h
  | setbp _ => exact execSetbp_keeps h
  | clrbp _ => exact execClrbp_keeps h
  | setwp _ => exact execSetwp_keeps h
  | clrwp _ => exact execClrwp_keeps h
  | trigcfg _ => exact execTrigcfg_keeps h
  | trial _ => exact execTrial_keeps h
  | sample _ => exact execSample_keeps h
  | trialDelay _ _ => exact execTrialDelay_keeps h
  | renewwaitExpiry _ => exact execRenewwaitExpiry_keeps h
  | linkErrorRecovered _ => exact execLinkErrorRecovered_keeps h
  | invalidPacket _ => exact execInvalidPacket_keeps h
  | powerOff => exact execPowerOff_keeps h

theorem issueStep_keeps (h : Wf s) {core stream} : Keeps (issueStep core stream s) := by
  have hr := ready_wf h (core := core) (stream := stream)
  unfold issueStep
  split
  · next i s1 hs => exact exec_keeps (hs ▸ hr : ReadyWf (.run i s1))
  · next s1 hs => exact (keeps_next _).2 (hs ▸ hr : ReadyWf (.took s1))
  · exact (keeps_next _).2 h

theorem lanesStep_keeps (h : Wf s) {core stream n} : Keeps (lanesStep core stream n s) := by
  have h1 : Wf { s with laneLimit := some n } := { h with }
  have hi := issueStep_keeps h1 (core := core) (stream := stream)
  unfold lanesStep
  split
  · next s1 hs => exact (keeps_next _).2 { hi s1 hs with }
  · exact hi

theorem Wf.chosen (h : Wf s) {core stream} (hd : ∀ a c k, Wf a → Keeps (exec (.dispatch c k) a)) : Wf (s.chosen core stream) :=
  foldl_wf _ (fun a k ha => by
    split
    · next s1 hs => exact hd a core k ha s1 hs
    · exact ha) h

theorem focusStep_keeps (h : Wf s) : Keeps (focusStep s) := by
  have h0 : Wf (s.passTime (s.cycle s.focus.1)) := h.passTime
  have hr := ready_wf h0 (core := s.focus.1) (stream := s.focus.2)
  unfold focusStep
  dsimp only
  split
  · split
    · exact exec_keeps h0
    · exact issueStep_keeps (h0.chosen fun _ _ _ ha => exec_keeps ha (i := .dispatch _ _))
  split
  · split
    · exact exec_keeps h0.setStream
    · exact (keeps_next _).2 h0.setStream
  split
  · next i s1 hs => exact exec_keeps (hs ▸ hr : ReadyWf (.run i s1))
  · next s1 hs => exact (keeps_next _).2 (hs ▸ hr : ReadyWf (.took s1))
  · split
    · exact exec_keeps h0
    · exact (keeps_next _).2 h0

/-! ### Step -/

theorem step_keeps (h : Wf s) : Keeps (step s) := by
  unfold step
  split
  · exact focusStep_keeps h
  next t rest _ =>
  have h1 : Wf { s with agenda := rest } := { h with }
  dsimp only
  split
  · exact exec_keeps h1
  · exact issueStep_keeps h1
  · exact lanesStep_keeps h1
  · exact (keeps_next _).2 h1.plainTurn

/-- Settles O60: `Wf` is the invariant, and `step_keeps` says that every step keeps it. -/
theorem invariantKept : Obligations.InvariantKept := by
  unfold Obligations.InvariantKept
  intro s s' hs h
  exact (wf_iff s').2 (step_keeps ((wf_iff s).1 hs) s' h)

end Sys2Proof.Proofs

/-! ## O55, refuted

A word of MARK, ENTER, LEAVE or TRIG is held while its event is with the triggers (16 R369), and the
model asks whether it is so before it asks whether the word is legal. The statement lets the dispatch
be one whose event is with the triggers: there the word is held and no fault is taken. -/

namespace Sys2Proof.Proofs

open Sys2Proof.Machine

/-- A MARK with a lookahead, which R44 does not list. -/
def markAhead : F1 := { d := 0, a := 0, imm := 0, g := { p := 7, neg := false }, la := 1, ma := false, x := 0 }

/-- Thread 0, running, of the group a placed word runs in. -/
def markThread : Thread := { Thread.start 0 [] 0 with cond := .running }

def markIssue : Issue := { core := 0, stream := 0, grp := 0, pc := 0, pack := 0, lanes := [(0, 0)], word := 0 }

/-- The word is issued from a dispatch whose event is with the triggers. -/
def markWaits : State :=
  { State.reset with
    issue := some markIssue
    ctxs := [(0, placedCtx)]
    groups := [(0, placedGroup)]
    kernels := [(0, placedKernel)]
    cores := [(0, { CoreSt.empty with streams := [{ Stream.free with dispatch := some { placedDispatch none with sent := some .pending } }, Stream.free] })] }

theorem wordFault_markAhead : wordFault (.mark markAhead) placedGroup.frame placedGroup.accs (markWaits.corOf placedGroup) false = some 1 := by decide

/-- The word is held and its thread goes on running. -/
theorem exec_markWaits (s' : State) (h : exec (.mark markAhead) markWaits = .next s') : (s'.thread? 0 0).map (fun t => t.cond) = some .running := by
  cases h
  decide

/-- A fault that is taken leaves its thread blocked for containment. -/
theorem cond_of_faultTaken {s s' : State} {iss : Issue} {g : Group} {l : Nat × Nat} {t : Thread} {f : TFault} (h : FaultTaken s s' iss g l t 0 f)
    (hl : l.2 < g.threads.length) : (s'.thread? iss.grp l.2).map (fun t => t.cond) = some (.blocked .contain) := by
  obtain ⟨tab, ovl, y, jn, hg⟩ := h.frame.group
  simp [State.thread?, hg, hl, Thread.blockAt]

/-- Refutes O55: in `markWaits` the MARK has a lookahead, a decode fault of cause 1, yet its thread
goes on running, for the word is held until the triggers have met its event. No run leads to such a
state: a word with a decode fault sends no event. The statement does not leave it out. -/
theorem not_decodeFaults : ¬ Obligations.DecodeFaults := by
  unfold Obligations.DecodeFaults
  rintro ⟨hexec, -⟩
  obtain ⟨s', hs, hf⟩ := hexec (.mark markAhead) markWaits markIssue placedGroup (0, 0) markThread 1 (by decide) rfl rfl (by decide) rfl rfl rfl rfl rfl rfl rfl
    (.inl wordFault_markAhead)
  have hblocked : (s'.thread? 0 0).map (fun t => t.cond) = some (.blocked .contain) := cond_of_faultTaken hf (by decide)
  exact absurd ((exec_markWaits s' hs).symm.trans hblocked) (by decide)

end Sys2Proof.Proofs

/-! ## The words of the instructions (02 R29 to R36, R51, R52)

Encoder and decoder are compared field by field: a word is the fields of its format, each put in its
place (`place`), and a field taken out of its place is what was put there. Which constructor belongs
to which opcode is said once, by `encode_of_mem_f0Rows` and its like for the rows of the opcode map,
and by `rawDecode_of_encode` for the constructors of `Instr`. -/

namespace Sys2Proof.Proofs

open Sys2Proof.Machine Sys2Proof.Laws

/-! ### Fields in their places -/

/-- The word that holds the bits of `x` from bit k on, its other bits 0. -/
def place {n : Nat} (k : Nat) (x : BitVec n) : Dword := x.setWidth 64 <<< k

section place

variable {n k i m l : Nat}

theorem getLsbD_place (x : BitVec n) : (place k x).getLsbD i = (decide (k ≤ i ∧ i < 64) && x.getLsbD (i - k)) := by
  unfold place
  by_cases hk : k ≤ i <;> by_cases hi : i < 64 <;> simp [hk, hi]

theorem getLsbD_place_off (x : BitVec n) (h : i < k ∨ k + n ≤ i) : (place k x).getLsbD i = false := by
  rw [getLsbD_place]
  rcases h with h | h
  · simp [show ¬k ≤ i by omega]
  · simp [BitVec.getLsbD_of_ge x (i - k) (by omega)]

theorem getLsbD_place_ofBool (b : Bool) (h : k < 64) : (place k (BitVec.ofBool b)).getLsbD k = b := by
  rw [getLsbD_place]
  simp [h]

theorem extractLsb'_place_same (x : BitVec n) (h : k + n ≤ 64) : (place k x).extractLsb' k n = x := by
  ext i hi
  rw [BitVec.getElem_extractLsb', getLsbD_place, ← BitVec.getLsbD_eq_getElem hi]
  simp [show k + i < 64 by omega]

theorem extractLsb'_place_off (x : BitVec n) (h : m + l ≤ k ∨ k + n ≤ m) : (place k x).extractLsb' m l = 0#l := by
  ext i hi
  rw [BitVec.getElem_extractLsb', getLsbD_place_off x (by omega)]
  simp

/-- A field put back in its place: the word, with all other bits 0. -/
theorem getLsbD_place_extractLsb' (w : Dword) : (place k (w.extractLsb' k n)).getLsbD i = (decide (k ≤ i ∧ i < k + n) && w.getLsbD i) := by
  rw [getLsbD_place, BitVec.getLsbD_extractLsb']
  by_cases hk : k ≤ i
  · have := w.getLsbD_of_ge i
    simp [hk, show k + (i - k) = i by omega, show i - k < n ↔ i < k + n by omega]
    grind
  · simp [hk]

theorem getLsbD_place_getLsbD (w : Dword) : (place k (BitVec.ofBool (w.getLsbD k))).getLsbD i = (decide (k ≤ i ∧ i < k + 1) && w.getLsbD i) := by
  rw [← getLsbD_place_extractLsb', show w.extractLsb' k 1 = BitVec.ofBool (w.getLsbD k) by ext j hj; simp [show j = 0 by omega]]

theorem place_shiftLeft (x : BitVec n) : place k x <<< m = place (k + m) x := (BitVec.shiftLeft_add ..).symm

theorem bitAt_eq_place (b : Bool) : bitAt b k = place k (BitVec.ofBool b) := by
  cases b <;> simp [bitAt, place]

theorem place_opcode {op : Nat} (h : op < 1024) : place 52 (BitVec.ofNat 10 op) = BitVec.ofNat 64 op <<< 52 := by
  have e : (BitVec.ofNat 10 op).setWidth 64 = BitVec.ofNat 64 op := by
    apply BitVec.eq_of_toNat_eq
    simp only [BitVec.toNat_setWidth, BitVec.toNat_ofNat]
    omega
  rw [place, e]

end place

theorem opcodeOf_lt (w : Dword) : opcodeOf w < 1024 := (w.extractLsb' 52 10).isLt

theorem ofCode_code (t : Ty) : Ty.ofCode t.code = t := by cases t <;> rfl

theorem code_ofCode : ∀ c : BitVec 4, (Ty.ofCode c).code = c := by decide

/-- A field of a field is a field of the word. -/
theorem extractLsb'_extractLsb' (w : Dword) {k n m l : Nat} (h : m + l ≤ n) : (w.extractLsb' k n).extractLsb' m l = w.extractLsb' (k + m) l := by
  ext i hi
  simp [show m + i < n by omega, Nat.add_assoc]

theorem getLsbD_extractLsb'_lt {m : Nat} (w : BitVec m) {k n i : Nat} (h : i < n) : (w.extractLsb' k n).getLsbD i = w.getLsbD (k + i) := by
  simp [h]

/-! ### The four formats: the fields of a word, and the word of some fields -/

theorem F0_toWord_eq (f : F0) {op : Nat} (h : op < 1024) :
    f.toWord op = place 62 0#2 ||| place 52 (BitVec.ofNat 10 op) ||| place 41 f.d ||| place 30 f.a ||| place 19 f.b ||| place 16 f.g.p
      ||| place 15 (BitVec.ofBool f.g.neg) ||| place 11 f.la ||| place 10 (BitVec.ofBool f.ma) ||| place 9 (BitVec.ofBool f.mb)
      ||| place 5 f.ty.code ||| place 0 f.x := by
  unfold F0.toWord
  rw [place_opcode h]
  simp only [bitAt_eq_place]
  simp [place]

theorem F1_toWord_eq (f : F1) {op : Nat} (h : op < 1024) :
    f.toWord op = place 62 1#2 ||| place 52 (BitVec.ofNat 10 op) ||| place 41 f.d ||| place 30 f.a ||| place 14 f.imm ||| place 11 f.g.p
      ||| place 10 (BitVec.ofBool f.g.neg) ||| place 6 f.la ||| place 5 (BitVec.ofBool f.ma) ||| place 0 f.x := by
  unfold F1.toWord
  rw [place_opcode h]
  simp only [bitAt_eq_place]
  simp [place]

theorem F2_toWord_eq (f : F2) {op : Nat} (h : op < 1024) :
    f.toWord op = place 62 2#2 ||| place 52 (BitVec.ofNat 10 op) ||| place 41 f.d ||| place 38 f.g.p
      ||| place 37 (BitVec.ofBool f.g.neg) ||| place 32 f.x ||| place 0 f.imm := by
  unfold F2.toWord
  rw [place_opcode h]
  simp only [bitAt_eq_place]
  simp [place]

/-- The word of a pair (02 R34). -/
def pairWord (h0 h1 : Half) : Dword := ((3 : Dword) <<< 62) ||| (h0.toBits <<< 31) ||| h1.toBits

theorem toBits_shiftLeft (h : Half) (k : Nat) :
    h.toBits <<< k = place (24 + k) h.op7 ||| place (16 + k) h.dst ||| place (8 + k) h.src ||| place (7 + k) (BitVec.ofBool h.m)
      ||| place (4 + k) h.ty ||| place (0 + k) h.low := by
  unfold Half.toBits
  simp only [bitAt_eq_place, BitVec.shiftLeft_or_distrib]
  simp [place, BitVec.shiftLeft_add]

theorem pairWord_eq (h0 h1 : Half) :
    pairWord h0 h1 = place 62 3#2
      ||| (place 55 h0.op7 ||| place 47 h0.dst ||| place 39 h0.src ||| place 38 (BitVec.ofBool h0.m) ||| place 35 h0.ty ||| place 31 h0.low)
      ||| (place 24 h1.op7 ||| place 16 h1.dst ||| place 8 h1.src ||| place 7 (BitVec.ofBool h1.m) ||| place 4 h1.ty ||| place 0 h1.low) := by
  have low := toBits_shiftLeft h1 0
  rw [BitVec.shiftLeft_zero] at low
  rw [pairWord, toBits_shiftLeft, low]
  rfl

theorem F0_format_toWord (f : F0) {op : Nat} (h : op < 1024) : (f.toWord op).extractLsb' 62 2 = 0#2 := by
  rw [F0_toWord_eq f h]
  simp (disch := omega) [BitVec.extractLsb'_or, extractLsb'_place_same, extractLsb'_place_off]

theorem F0_opcodeOf_toWord (f : F0) {op : Nat} (h : op < 1024) : opcodeOf (f.toWord op) = op := by
  rw [F0_toWord_eq f h, opcodeOf]
  simp (disch := omega) [BitVec.extractLsb'_or, extractLsb'_place_same, extractLsb'_place_off, Nat.mod_eq_of_lt]

theorem F0_ofWord_toWord (f : F0) {op : Nat} (h : op < 1024) : F0.ofWord (f.toWord op) = f := by
  rw [F0_toWord_eq f h]
  simp (disch := omega) [F0.ofWord, BitVec.extractLsb'_or, extractLsb'_place_same, extractLsb'_place_off, getLsbD_place_off, getLsbD_place_ofBool, -BitVec.getLsbD_eq_getElem, ofCode_code]

theorem F0_toWord_ofWord (w : Dword) (h : w.extractLsb' 62 2 = 0#2) : (F0.ofWord w).toWord (opcodeOf w) = w := by
  rw [F0_toWord_eq _ (opcodeOf_lt w), ← h]
  refine BitVec.eq_of_getLsbD_eq fun i hi => ?_
  simp only [F0.ofWord, opcodeOf, BitVec.getLsbD_or, getLsbD_place_extractLsb', getLsbD_place_getLsbD, BitVec.ofNat_toNat, BitVec.setWidth_eq, code_ofCode]
  cases w.getLsbD i
  · simp
  · simp
    omega

theorem F1_format_toWord (f : F1) {op : Nat} (h : op < 1024) : (f.toWord op).extractLsb' 62 2 = 1#2 := by
  rw [F1_toWord_eq f h]
  simp (disch := omega) [BitVec.extractLsb'_or, extractLsb'_place_same, extractLsb'_place_off]

theorem F1_opcodeOf_toWord (f : F1) {op : Nat} (h : op < 1024) : opcodeOf (f.toWord op) = op := by
  rw [F1_toWord_eq f h, opcodeOf]
  simp (disch := omega) [BitVec.extractLsb'_or, extractLsb'_place_same, extractLsb'_place_off, Nat.mod_eq_of_lt]

theorem F1_ofWord_toWord (f : F1) {op : Nat} (h : op < 1024) : F1.ofWord (f.toWord op) = f := by
  rw [F1_toWord_eq f h]
  simp (disch := omega) [F1.ofWord, BitVec.extractLsb'_or, extractLsb'_place_same, extractLsb'_place_off, getLsbD_place_off, getLsbD_place_ofBool, -BitVec.getLsbD_eq_getElem]

theorem F1_toWord_ofWord (w : Dword) (h : w.extractLsb' 62 2 = 1#2) : (F1.ofWord w).toWord (opcodeOf w) = w := by
  rw [F1_toWord_eq _ (opcodeOf_lt w), ← h]
  refine BitVec.eq_of_getLsbD_eq fun i hi => ?_
  simp only [F1.ofWord, opcodeOf, BitVec.getLsbD_or, getLsbD_place_extractLsb', getLsbD_place_getLsbD, BitVec.ofNat_toNat, BitVec.setWidth_eq]
  cases w.getLsbD i
  · simp
  · simp
    omega

theorem F2_format_toWord (f : F2) {op : Nat} (h : op < 1024) : (f.toWord op).extractLsb' 62 2 = 2#2 := by
  rw [F2_toWord_eq f h]
  simp (disch := omega) [BitVec.extractLsb'_or, extractLsb'_place_same, extractLsb'_place_off]

theorem F2_opcodeOf_toWord (f : F2) {op : Nat} (h : op < 1024) : opcodeOf (f.toWord op) = op := by
  rw [F2_toWord_eq f h, opcodeOf]
  simp (disch := omega) [BitVec.extractLsb'_or, extractLsb'_place_same, extractLsb'_place_off, Nat.mod_eq_of_lt]

theorem F2_ofWord_toWord (f : F2) {op : Nat} (h : op < 1024) : F2.ofWord (f.toWord op) = f := by
  rw [F2_toWord_eq f h]
  simp (disch := omega) [F2.ofWord, BitVec.extractLsb'_or, extractLsb'_place_same, extractLsb'_place_off, getLsbD_place_off, getLsbD_place_ofBool, -BitVec.getLsbD_eq_getElem]

theorem F2_toWord_ofWord (w : Dword) (h : w.extractLsb' 62 2 = 2#2) : (F2.ofWord w).toWord (opcodeOf w) = w := by
  rw [F2_toWord_eq _ (opcodeOf_lt w), ← h]
  refine BitVec.eq_of_getLsbD_eq fun i hi => ?_
  simp only [F2.ofWord, opcodeOf, BitVec.getLsbD_or, getLsbD_place_extractLsb', getLsbD_place_getLsbD, BitVec.ofNat_toNat, BitVec.setWidth_eq]
  cases w.getLsbD i
  · simp
  · simp
    omega

theorem format_pairWord (h0 h1 : Half) : (pairWord h0 h1).extractLsb' 62 2 = 3#2 := by
  rw [pairWord_eq]
  simp (disch := omega) [BitVec.extractLsb'_or, extractLsb'_place_same, extractLsb'_place_off]

theorem ofBits_pairWord_high (h0 h1 : Half) : Half.ofBits ((pairWord h0 h1).extractLsb' 31 31) = h0 := by
  rw [pairWord_eq]
  simp (disch := omega) [Half.ofBits, extractLsb'_extractLsb', BitVec.getLsbD_extractLsb', BitVec.extractLsb'_or, extractLsb'_place_same, extractLsb'_place_off, getLsbD_place_off, getLsbD_place_ofBool, -BitVec.getLsbD_eq_getElem]

theorem ofBits_pairWord_low (h0 h1 : Half) : Half.ofBits ((pairWord h0 h1).extractLsb' 0 31) = h1 := by
  rw [pairWord_eq]
  simp (disch := omega) [Half.ofBits, extractLsb'_extractLsb', BitVec.getLsbD_extractLsb', BitVec.extractLsb'_or, extractLsb'_place_same, extractLsb'_place_off, getLsbD_place_off, getLsbD_place_ofBool, -BitVec.getLsbD_eq_getElem]

theorem pairWord_ofBits (w : Dword) (h : w.extractLsb' 62 2 = 3#2) : pairWord (Half.ofBits (w.extractLsb' 31 31)) (Half.ofBits (w.extractLsb' 0 31)) = w := by
  rw [pairWord_eq, ← h]
  refine BitVec.eq_of_getLsbD_eq fun i hi => ?_
  simp (disch := omega) only [Half.ofBits, extractLsb'_extractLsb', getLsbD_extractLsb'_lt, Nat.reduceAdd, BitVec.getLsbD_or, getLsbD_place_extractLsb', getLsbD_place_getLsbD]
  cases w.getLsbD i
  · simp
  · simp
    omega

/-! ### The opcode map and the constructors -/

theorem encode_ite {p : Prop} [Decidable p] {a b : Instr} {o : Option Dword} (ha : encode a = o) (hb : encode b = o) : encode (if p then a else b) = o := by
  split
  · exact ha
  · exact hb

/-- Each row of the map gives instructions that are encoded with its opcode. -/
theorem encode_of_mem_f0Rows : ∀ r ∈ f0Rows, ∀ f : F0, encode (r.2 f) = some (f.toWord r.1) := by
  intro r hr f
  simp only [f0Rows, List.mem_append] at hr
  rcases hr with (((hr | hr) | hr) | hr) | hr <;> fin_cases hr
  any_goals rfl
  all_goals exact encode_ite rfl rfl

theorem encode_of_mem_f1Rows : ∀ r ∈ f1Rows, ∀ f : F1, encode (r.2 f) = some (f.toWord r.1) := by
  intro r hr f
  fin_cases hr <;> rfl

theorem encode_of_mem_f2Rows : ∀ r ∈ f2Rows, ∀ f : F2, encode (r.2 f) = some (f.toWord r.1) := by
  intro r hr f
  fin_cases hr
  · rfl
  · rfl
  · exact encode_ite rfl rfl

theorem mem_of_findRow {α : Type} {t : List (Nat × α)} {op : Nat} {a : α} (h : findRow t op = some a) : (op, a) ∈ t := by
  unfold findRow at h
  obtain ⟨r, hr, rfl⟩ := Option.map_eq_some_iff.1 h
  have hop : r.1 = op := by simpa using List.find?_some hr
  exact hop ▸ List.mem_of_find?_eq_some hr

/-! ### Decoding by format -/

theorem rawDecode_format0 {w : Dword} (h : w.extractLsb' 62 2 = 0#2) : rawDecode w = (findRow f0Rows (opcodeOf w)).map (fun mk => mk (F0.ofWord w)) := by
  unfold rawDecode
  rw [h]
  rfl

theorem rawDecode_format1 {w : Dword} (h : w.extractLsb' 62 2 = 1#2) : rawDecode w = (findRow f1Rows (opcodeOf w)).map (fun mk => mk (F1.ofWord w)) := by
  unfold rawDecode
  rw [h]
  rfl

theorem rawDecode_format2 {w : Dword} (h : w.extractLsb' 62 2 = 2#2) : rawDecode w = (findRow f2Rows (opcodeOf w)).map (fun mk => mk (F2.ofWord w)) := by
  unfold rawDecode
  rw [h]
  rfl

theorem rawDecode_format3 {w : Dword} (h : w.extractLsb' 62 2 = 3#2) : rawDecode w = some (.pair (Half.ofBits (w.extractLsb' 31 31)) (Half.ofBits (w.extractLsb' 0 31))) := by
  unfold rawDecode
  rw [h]
  rfl

theorem decode_eq_ok {w : Dword} {i : Instr} : decode w = .ok i ↔ rawDecode w = some i := by
  unfold decode
  cases rawDecode w <;> simp

theorem decode_eq_error {w : Dword} {e : DecodeFault} : decode w = .error e ↔ rawDecode w = none ∧ e = .illegalInstruction := by
  unfold decode
  cases rawDecode w <;> simp [eq_comm]

/-- Every word that decodes is the word of what it decodes to. -/
theorem encode_of_rawDecode {w : Dword} {i : Instr} (h : rawDecode w = some i) : encode i = some w := by
  have hf : ∀ x : BitVec 2, x = 0 ∨ x = 1 ∨ x = 2 ∨ x = 3 := by decide
  rcases hf (w.extractLsb' 62 2) with h0 | h1 | h2 | h3
  · rw [rawDecode_format0 h0] at h
    obtain ⟨mk, hmk, rfl⟩ := Option.map_eq_some_iff.1 h
    rw [encode_of_mem_f0Rows _ (mem_of_findRow hmk), F0_toWord_ofWord w h0]
  · rw [rawDecode_format1 h1] at h
    obtain ⟨mk, hmk, rfl⟩ := Option.map_eq_some_iff.1 h
    rw [encode_of_mem_f1Rows _ (mem_of_findRow hmk), F1_toWord_ofWord w h1]
  · rw [rawDecode_format2 h2] at h
    obtain ⟨mk, hmk, rfl⟩ := Option.map_eq_some_iff.1 h
    rw [encode_of_mem_f2Rows _ (mem_of_findRow hmk), F2_toWord_ofWord w h2]
  · rw [rawDecode_format3 h3] at h
    obtain rfl := Option.some.inj h
    exact congrArg some (pairWord_ofBits w h3)

section rows

variable {op : Nat} {w : Dword}

theorem opcode_lt_of_findRow {α : Type} {t : List (Nat × α)} {a : α} (ht : t.all (fun r => decide (r.1 < 1024)) = true) (h : findRow t op = some a) : op < 1024 := by
  have hop := List.all_eq_true.1 ht _ (mem_of_findRow h)
  simpa using hop

/-- The word of an F0 row's fields decodes to the row's instruction. -/
theorem rawDecode_of_f0Row {f : F0} {mk : F0 → Instr} (hw : some (f.toWord op) = some w) (h : findRow f0Rows op = some mk) : rawDecode w = some (mk f) := by
  obtain rfl := Option.some.inj hw
  have hop := opcode_lt_of_findRow (t := f0Rows) rfl h
  rw [rawDecode_format0 (F0_format_toWord f hop), F0_opcodeOf_toWord f hop, F0_ofWord_toWord f hop, h]
  rfl

theorem rawDecode_of_f1Row {f : F1} {mk : F1 → Instr} (hw : some (f.toWord op) = some w) (h : findRow f1Rows op = some mk) : rawDecode w = some (mk f) := by
  obtain rfl := Option.some.inj hw
  have hop := opcode_lt_of_findRow (t := f1Rows) rfl h
  rw [rawDecode_format1 (F1_format_toWord f hop), F1_opcodeOf_toWord f hop, F1_ofWord_toWord f hop, h]
  rfl

theorem rawDecode_of_f2Row {f : F2} {mk : F2 → Instr} (hw : some (f.toWord op) = some w) (h : findRow f2Rows op = some mk) : rawDecode w = some (mk f) := by
  obtain rfl := Option.some.inj hw
  have hop := opcode_lt_of_findRow (t := f2Rows) rfl h
  rw [rawDecode_format2 (F2_format_toWord f hop), F2_opcodeOf_toWord f hop, F2_ofWord_toWord f hop, h]
  rfl

theorem rawDecode_of_pair {h0 h1 : Half} (hw : some (pairWord h0 h1) = some w) : rawDecode w = some (.pair h0 h1) := by
  obtain rfl := Option.some.inj hw
  rw [rawDecode_format3 (format_pairWord h0 h1), ofBits_pairWord_high, ofBits_pairWord_low]

end rows

/-! ### Where an opcode has two rows, the modifier bit that tells them apart (02 R51) -/

theorem static2 {i : Instr} {f : F2} {sh : Shape} (h0 : shape0 i = none) (h1 : shape1 i = none) (hs : shape2 i = some (f, sh)) (hf : staticFault i = none) : sh.ok = true := by
  unfold staticFault at hf
  rw [h0, h1, hs] at hf
  simp only at hf
  by_cases h : illegal2 f sh = true
  · simp [h] at hf
  · simp [illegal2] at h
    exact h.1

/-- The last condition of a word's shape, an equation of a modifier field, fixes each bit of the field. -/
theorem getLsbD_of_ok {n : Nat} {x v : BitVec n} {b : Bool} (h : (b && x == v) = true) (k : Nat) : x.getLsbD k = v.getLsbD k := by
  simp only [Bool.and_eq_true, beq_iff_eq] at h
  rw [h.2]

/-- The word of an instruction decodes, and, where the word has no decode fault of its own, to the instruction. -/
theorem rawDecode_of_encode {i : Instr} {w : Dword} (h : encode i = some w) : ∃ j, rawDecode w = some j ∧ (staticFault i = none → j = i) := by
  cases i with
  | nop f | jmp f | calli f | ret f | exit f | yield f | brk f | add f | sub f | addsat f | mul f | mulhi f | mad f | madw f | min f | max f | abs f
  | neg f | dot4 f | add64 f | sub64 f | and f | or f | xor f | andn f | not f | shl f | shr f | sar f | rol f | bfx f | bfi f | popc f | clz f
  | brev f | prmt f | shl64 f | shr64 f | setp f | plop f | sel f | mov f | ptov f | vtop f | lea f | fadd f | fsub f | fmul f | ffma f | fscale f
  | fdot2 f | fdiv f | fsqrt f | fmin f | fmax f | famax f | fsetp f | frnd f | fclass f | ffrexp f | frcp f | frsq f | fexp2 f | flog2 f | fsin f
  | fcos f | ftanh f | fsigm f | cvt f | cvtsr f | pack f | unpack f | qscale f | qenc f | qdec f | vote f | ballot f | matchLanes f | shfl f
  | redl f | scanl f | ltset f | ltget f | ldt f | stt f | tpref f | bind f | unbind f | fence f | cinv f | cwb f | pin f | unpin f | spmap f
  | spunmap f | atom f | cas f | red f | enq f | deq f | acommit f | aabort f | barrive f | bsync f | bwait f | bexpect f | mma f | mzero f | mrng f
  | mldb f | mdrain f | cpy f | cpyx f | cpywp f | cpycan f | pgstat f | pghint f | fret f | fread f | launch f | notify f =>
    exact ⟨_, rawDecode_of_f0Row h rfl, fun _ => rfl⟩
  | rowblk f | nap f | trap f | addImm f | subImm f | mulImm f | minImm f | maxImm f | andImm f | orImm f | xorImm f | shlImm f | shrImm f | sarImm f
  | setpImm f | leaImm f | ld f | st f | ldq f | pref f | abegin f | csrr f | csrw f | enter f | leave f | mark f | trig f =>
    exact ⟨_, rawDecode_of_f1Row h rfl, fun _ => rfl⟩
  | bra f | call f => exact ⟨_, rawDecode_of_f2Row h rfl, fun _ => rfl⟩
  | pair h0 h1 => exact ⟨_, rawDecode_of_pair h, fun _ => rfl⟩
  | btest f | leaseq f =>
    refine ⟨_, rawDecode_of_f0Row h rfl, fun hf => if_neg ?_⟩
    rw [getLsbD_of_ok (static0 rfl hf).1]
    decide
  | btestCur f | leaseqVa f => exact ⟨_, rawDecode_of_f0Row h rfl, fun hf => if_pos (getLsbD_of_ok (static0 rfl hf).1 0)⟩
  | cpyseq f =>
    refine ⟨_, rawDecode_of_f0Row h rfl, fun hf => if_neg ?_⟩
    rw [← getLsbD_extractLsb'_lt f.x (k := 2) (n := 3) (i := 0) (by decide), getLsbD_of_ok (static0 rfl hf).1]
    decide
  | cpyseqStat f =>
    refine ⟨_, rawDecode_of_f0Row h rfl, fun hf => if_pos ?_⟩
    rw [← getLsbD_extractLsb'_lt f.x (k := 2) (n := 3) (i := 0) (by decide), getLsbD_of_ok (static0 rfl hf).1]
    decide
  | movi f =>
    refine ⟨_, rawDecode_of_f2Row h rfl, fun hf => if_neg ?_⟩
    rw [eq_of_beq (static2 rfl rfl rfl hf)]
    decide
  | moviW f =>
    refine ⟨_, rawDecode_of_f2Row h rfl, fun hf => if_pos ?_⟩
    rw [eq_of_beq (static2 rfl rfl rfl hf)]
    decide
  | _ => cases h

/-! ### Bytes -/

theorem bytesOfDword_eq (w : Dword) : bytesOfDword w = (List.range 8).map (fun k => w.extractLsb' (8 * k) 8) := by
  refine List.map_congr_left fun k _ => ?_
  ext i hi
  simp

theorem dwordOfBytes_cons (b : Byte) (bs : List Byte) : dwordOfBytes (b :: bs) = place 0 b ||| dwordOfBytes bs <<< 8 := by
  simp [dwordOfBytes, place]

theorem dwordOfBytes_bytesOfDword (w : Dword) : dwordOfBytes (bytesOfDword w) = w := by
  refine BitVec.eq_of_getLsbD_eq fun i hi => ?_
  simp only [bytesOfDword_eq, show List.range 8 = [0, 1, 2, 3, 4, 5, 6, 7] from rfl, List.map_cons, List.map_nil, dwordOfBytes_cons, dwordOfBytes.eq_1, BitVec.shiftLeft_or_distrib, place_shiftLeft,
    BitVec.getLsbD_or, getLsbD_place_extractLsb', Nat.reduceAdd, Nat.reduceMul]
  cases w.getLsbD i
  · simp
  · simp
    omega

theorem decodeBytes_cons (b0 b1 b2 b3 b4 b5 b6 b7 : Byte) (rest : List Byte) :
    decodeBytes (b0 :: b1 :: b2 :: b3 :: b4 :: b5 :: b6 :: b7 :: rest) = (decode (dwordOfBytes [b0, b1, b2, b3, b4, b5, b6, b7])).map (fun i => (i, rest)) := by
  cases h : decode (dwordOfBytes [b0, b1, b2, b3, b4, b5, b6, b7]) <;> simp [decodeBytes, h, Except.map]

/-- Eight bytes are read as their little-endian word is. -/
theorem decodeBytes_bytesOfDword (w : Dword) (rest : List Byte) : decodeBytes (bytesOfDword w ++ rest) = (decode w).map (fun i => (i, rest)) := by
  rw [← congrArg decode (dwordOfBytes_bytesOfDword w)]
  exact decodeBytes_cons ..

/-- Bytes that are one instruction and no more are those of its word. -/
theorem decode_of_decodeBytes {bytes : List Byte} {i : Instr} (h : decodeBytes bytes = .ok (i, [])) : decode (dwordOfBytes bytes) = .ok i := by
  match bytes, h with
  | b0 :: b1 :: b2 :: b3 :: b4 :: b5 :: b6 :: b7 :: rest, h =>
    rw [decodeBytes_cons] at h
    cases hd : decode (dwordOfBytes [b0, b1, b2, b3, b4, b5, b6, b7]) with
    | ok j =>
      simp only [hd, Except.map, Except.ok.injEq, Prod.mk.injEq] at h
      obtain ⟨rfl, rfl⟩ := h
      exact hd
    | error e => simp [hd, Except.map] at h

theorem decode_of_wellFormed {i : Instr} {w : Dword} (hi : WellFormed i = true) (h : encode i = some w) : decode w = .ok i := by
  simp only [WellFormed, Bool.and_eq_true, beq_iff_eq] at hi
  obtain ⟨j, hj, hji⟩ := rawDecode_of_encode h
  exact decode_eq_ok.2 (hji hi.1 ▸ hj)

theorem decodeTableWord_toNat {w : Dword} {i : Instr} (h : decode w = .ok i) : decodeTableWord 64 w.toNat = some i := by
  have hb := decodeBytes_bytesOfDword w []
  rw [h, List.append_nil] at hb
  have hw : BitVec.ofNat 64 (w.toNat % 2 ^ 64) = w := by rw [Nat.mod_eq_of_lt w.isLt, BitVec.ofNat_toNat, BitVec.setWidth_eq]
  unfold decodeTableWord
  rw [hw, hb]
  rfl

/-- Settles O57: decoder and encoder agree on each format's fields and on each row of the opcode map;
the word of a well-formed instruction has the modifier bit of its own row. -/
theorem encodeThenDecode : Obligations.EncodeThenDecode := by
  unfold Obligations.EncodeThenDecode
  refine ⟨fun i w => decode_of_wellFormed, fun i w h => encode_of_rawDecode (decode_eq_ok.1 h), fun w => ⟨?_, ?_⟩, fun w rest i => ?_, fun i w hi h => decodeTableWord_toNat (decode_of_wellFormed hi h)⟩
  · intro h i hi
    obtain ⟨j, hj, -⟩ := rawDecode_of_encode hi
    simp [(decode_eq_error.1 h).1] at hj
  · intro h
    refine decode_eq_error.2 ⟨?_, rfl⟩
    cases hd : rawDecode w with
    | none => rfl
    | some i => exact absurd (encode_of_rawDecode hd) (h i)
  · rw [decodeBytes_bytesOfDword]
    cases decode w <;> simp [Except.map]

/-- Settles O56: the decoder evaluates on each of the words. -/
theorem decodedWords : Obligations.DecodedWords := by
  unfold Obligations.DecodedWords
  decide

end Sys2Proof.Proofs

/-! ## A step runs the word of its dispatch's address (02 R29; 07 R146, R148) -/

namespace Sys2Proof.Proofs

open Sys2Proof.Machine

/-- The issue of a dispatch's word `w` to its pack `p`. -/
def issueOf (c k : Nat) (d : Dispatch) (p : Nat) (w : Dword) : Issue :=
  { core := c, stream := k, grp := d.grp, pc := d.pc, pack := p, lanes := d.packs.getD p [], word := w }

/-- A stream has a word to issue now, to pack `p` of its dispatch: no trial and no issue of this cycle holds it back, the
pack is the lowest that has the word to do and can, and `w` is the word kept or fetched. -/
structure Offers (s : State) (c k : Nat) (d : Dispatch) (g : Group) (p : Nat) (w : Dword) : Prop where
  dispatch : (s.stream c k).dispatch = some d
  group : s.group? d.grp = some g
  noTrial : s.trialHolds c (s.stream c k) = false
  notIssued : s.issuedNow c k = false
  pack : d.todo.find? (fun n => s.packReady d n) = some p
  word : s.wordOf d g.ctx = .ok w

section offers

variable {s : State} {c k p : Nat} {d : Dispatch} {g : Group} {w : Dword} {i : Instr}

theorem bits_63_57_of_lt {pc : Dword} (h : pc.toNat < 2 ^ 57) : bits pc 63 57 = 0 := by
  unfold bits
  rw [Nat.shiftRight_eq_div_pow, Nat.div_eq_of_lt h]
  rfl

theorem fetch_of_route {ctx : Nat} {pc : Dword} {l : Loc} (hpc : pc.toNat < 2 ^ 57) (hl : s.route ctx pc.toNat .fetch = .ok l)
    (hp : ∀ va pa, l = .mem va pa → s.poisoned pa = false) : s.fetch ctx pc = .ok (dwordOfBytes (s.currentBytes l 8)) := by
  unfold State.fetch
  rw [hl]
  cases l <;> simp [bits_63_57_of_lt hpc, hp]

theorem wordOf_kept (h : d.word = some w) (ctx : Nat) : s.wordOf d ctx = .ok w := by
  unfold State.wordOf
  rw [h]

theorem wordOf_fetched (h : d.word = none) (ctx : Nat) : s.wordOf d ctx = s.fetch ctx d.pc := by
  unfold State.wordOf
  rw [h]

theorem Offers.nextIssue (h : Offers s c k d g p w) : s.nextIssue c k = some (issueOf c k d p 0) := by
  unfold State.nextIssue
  simp [h.dispatch, h.group, h.noTrial, h.notIssued, h.pack, issueOf]

/-- Keeping a fetched word does not touch the breakpoints. -/
theorem breakpointAt_keepWord (ctx : Nat) (pc : Dword) : (s.keepWord c k g.ctx d w).breakpointAt ctx pc = s.breakpointAt ctx pc := by
  have hctxs : (s.keepWord c k g.ctx d w).ctxs = s.ctxs := by
    unfold State.keepWord State.fetchTouch
    grind [Laws.setStream_ctxs, State.unhost]
  unfold State.breakpointAt State.ctx
  rw [hctxs]

theorem breakAt_of_unstopped {iss : Issue} (h : d.checked = true ∨ s.breakpointAt g.ctx iss.pc = none) : s.breakAt g d iss i = s := by
  unfold State.breakAt
  rcases h with h | h
  · cases s.breakpointAt g.ctx iss.pc <;> simp [h]
  · rw [h]

theorem Offers.ready_run (h : Offers s c k d g p w) (hi : decodeOn c w = .ok i) (hfirst : ordersPacks i = true → d.todo.head? = some p)
    (hgo : d.checked = true ∨ s.breakpointAt g.ctx d.pc = none) :
    s.ready c k = .run i ((s.keepWord c k g.ctx d w).issueNow (issueOf c k d p w) i) := by
  have hbp : (s.keepWord c k g.ctx d w).breakAt g d (issueOf c k d p 0) i = s.keepWord c k g.ctx d w :=
    breakAt_of_unstopped (by rw [breakpointAt_keepWord]; exact hgo)
  have hturn : (ordersPacks i && d.todo.head? != some (issueOf c k d p 0).pack) = false := by
    cases ho : ordersPacks i
    · rfl
    · simp [hfirst ho, issueOf]
  have hg : s.group? (issueOf c k d p 0).grp = some g := h.group
  unfold State.ready
  simp only [h.nextIssue, h.dispatch, hg, h.word, hi, hturn, hbp]
  rfl

theorem Offers.ready_took (h : Offers s c k d g p w) {e : DecodeFault} (he : decodeOn c w = .error e) :
    s.ready c k = .took (faultPack (issueOf c k d p w) 0x01 { ((s.keepWord c k g.ctx d w).countTrial (issueOf c k d p w)).noteIssue (issueOf c k d p w) with issue := some (issueOf c k d p w) }) := by
  have hg : s.group? (issueOf c k d p 0).grp = some g := h.group
  unfold State.ready
  simp only [h.nextIssue, h.dispatch, hg, h.word, he]
  rfl

/-- The word is an instruction on every core, but for an array instruction on one of the Registrar's. -/
theorem decodeOn_ok (h : decode w = .ok i) (hc : 384 ≤ c → arrayWord i = false) : decodeOn c w = .ok i := by
  unfold decodeOn
  by_cases h384 : 384 ≤ c
  · simp [h, hc h384]
  · simp [h, Config.cores, h384]

theorem decodeOn_error (h : decode w = .error .illegalInstruction ∨ (384 ≤ c ∧ ∃ i, decode w = .ok i ∧ arrayWord i = true)) : decodeOn c w = .error .illegalInstruction := by
  unfold decodeOn
  rcases h with h | ⟨h384, i, h, hi⟩
  · rw [h]
  · simp [h, Config.cores, h384, hi]

end offers

/-! ### The turn that a step takes -/

/-- What a turn for some threads of a pack comes to: the bound on its threads is lifted again. -/
def unlimited (lim : Option Nat) (o : Host.Outcome State Fault Refusal) : Host.Outcome State Fault Refusal :=
  match lim, o with
  | some _, .next t => .next { t with laneLimit := none }
  | _, o => o

section turns

variable {s : State} {c k n : Nat} {rest : List Turn}

theorem step_event {i : Instr} (h : s.agenda = .event i :: rest) : step s = exec i { s with agenda := rest } := by
  unfold step
  rw [h]

theorem step_issue (h : s.agenda = .issue c k :: rest) : step s = issueStep c k { s with agenda := rest } := by
  unfold step
  rw [h]

theorem step_issueLanes (h : s.agenda = .issueLanes c k n :: rest) : step s = unlimited (some n) (issueStep c k { s with agenda := rest, laneLimit := some n }) := by
  unfold step
  rw [h]
  simp only [lanesStep, unlimited]
  cases issueStep c k { s with agenda := rest, laneLimit := some n } <;> rfl

/-- With an empty agenda the stream in focus issues, a cycle of its core later, where it has something to issue. -/
theorem step_focus {d : Dispatch} (h : s.agenda = []) (hf : s.focus = (c, k)) (hd : ((s.passTime (s.cycle c)).stream c k).dispatch = some d) (hs : d.stuck = false)
    (hr : (s.passTime (s.cycle c)).ready c k ≠ .idle) : step s = issueStep c k (s.passTime (s.cycle c)) := by
  unfold step
  rw [h]
  unfold focusStep issueStep
  simp only [hf, hd, hs]
  cases hr2 : (s.passTime (s.cycle c)).ready c k with
  | idle => exact absurd hr2 hr
  | run i s1 => rfl
  | took s1 => rfl

theorem issueStep_run {i : Instr} {s1 : State} (h : s.ready c k = .run i s1) : issueStep c k s = exec i s1 := by
  unfold issueStep
  rw [h]

theorem issueStep_took {s1 : State} (h : s.ready c k = .took s1) : issueStep c k s = .next s1 := by
  unfold issueStep
  rw [h]

/-- The three ways in which a step gives a stream its turn: `s0` is the state in which it has it. -/
theorem step_eq_issueStep {s0 : State} {d : Dispatch} {lim : Option Nat}
    (h : (lim = none ∧ ∃ rest, s.agenda = .issue c k :: rest ∧ s0 = { s with agenda := rest })
      ∨ (∃ n rest, lim = some n ∧ s.agenda = .issueLanes c k n :: rest ∧ s0 = { s with agenda := rest, laneLimit := some n })
      ∨ (lim = none ∧ s.agenda = [] ∧ s.focus = (c, k) ∧ s0 = s.passTime (s.cycle c) ∧ d.stuck = false))
    (hd : (s0.stream c k).dispatch = some d) (hr : s0.ready c k ≠ .idle) : step s = unlimited lim (issueStep c k s0) := by
  rcases h with ⟨rfl, rest, ha, rfl⟩ | ⟨n, rest, rfl, ha, rfl⟩ | ⟨rfl, ha, hf, rfl, hs⟩
  · exact step_issue ha
  · exact step_issueLanes ha
  · exact step_focus ha hf hd hs hr

end turns

/-- Settles O58: a stream that offers a word is ready with the instruction the word decodes to, or with the
fault, and each way of giving it a turn does what it is ready with. -/
theorem stepRunsDecoded : Obligations.StepRunsDecoded := by
  unfold Obligations.StepRunsDecoded
  intro next issue kept
  refine ⟨fun s i rest h => step_event h, ?_⟩
  intro s s0 c k p d g bytes lim hturn hnext iss done
  obtain ⟨hd, hg, htrial, hissued, -, hpack, hword⟩ := hnext
  have offers : Offers s0 c k d g p (dwordOfBytes bytes) := by
    refine ⟨hd, hg, htrial, hissued, hpack, ?_⟩
    rcases hword with hw | ⟨hw, hpc, l, hl, rfl, hp⟩
    · exact wordOf_kept hw _
    · rw [wordOf_fetched hw, fetch_of_route hpc hl hp]
  have hdone : ∀ o, issueStep c k s0 = o → s0.ready c k ≠ .idle → done o := by
    rintro o rfl hr
    have hstep := step_eq_issueStep hturn hd hr
    generalize issueStep c k s0 = o at hstep ⊢
    cases lim <;> cases o <;> exact hstep
  refine ⟨fun i hi hc hfirst hgo => ?_, fun he => ?_⟩
  · have hr := offers.ready_run (decodeOn_ok (decode_of_decodeBytes hi) hc) hfirst hgo
    exact hdone _ (issueStep_run hr) (by simp [hr])
  · have hr := offers.ready_took (decodeOn_error he)
    exact hdone _ (issueStep_took hr) (by simp [hr])

end Sys2Proof.Proofs

/-! ## Words issued to a pack: local words that read their group's size, words that change the state, faults -/

namespace Sys2Proof.Proofs

open Sys2Proof.Machine Sys2Proof.Laws

section local_words

variable {i : Instr} {s : State} {iss : Issue} {g : Group}

/-- What a word that writes at once leaves of a thread, its flags aside: `put` and the retirement where its guard holds. -/
def localFin (i : Instr) (pc : Dword) (put : Nat × Nat → Thread → Thread) (l : Nat × Nat) (t : Thread) : Thread :=
  if t.takes i then (put l t).retireWord i true none pc else t.retireWord i false none pc

theorem localFin_ready {put : Nat × Nat → Thread → Thread} {l : Nat × Nat} {t : Thread} (he : endsDispatch i = false) (hr : t.Ready i) (pc : Dword) (c : Nat)
    (hp : (put l t).held = t.held ∧ (put l t).region = t.region ∧ (put l t).late = t.late ∧ (put l t).raised = t.raised) :
    { localFin i pc put l t with raised := [] } = (if t.takes i then (put l t).after i true (dstRegs i) pc else t.skips i pc c)
    ∧ (localFin i pc put l t).raised = [] ∧ (localFin i pc put l t).late = none := by
  obtain ⟨hheld, hregion, hlate, hraised⟩ := hp
  unfold localFin
  cases hk : t.takes i
  · obtain ⟨hskip, -, hl⟩ := skips_eq hr pc c
    simp only [he, Bool.false_eq_true, if_false] at hskip hl ⊢
    exact ⟨hskip, (retireWord_plain t i false pc hr.landed hr.noRegion).2.trans hr.unraised, hl⟩
  · obtain ⟨hafter, hra⟩ := retireWord_plain (put l t) i true pc (hheld.trans hr.landed) (hregion.trans hr.noRegion)
    simp only [if_true] at hafter ⊢
    exact ⟨hafter, hra.trans (hraised.trans hr.unraised), (congrArg Thread.late hafter).trans (hlate.trans hr.onTime)⟩

/-- The law of local words that write at once and raise no flag, for those that read how many threads their group has. -/
theorem runLocal_gives_sized (hi : s.Issues iss g i) (he : endsDispatch i = false) (hc : closesFirst i = false) {f : Env → Thread → LocalOut}
    {put : Nat × Nat → Thread → Thread}
    (hf : ∀ l ∈ iss.lanes, ∀ t, g.threads[l.2]? = some t → t.takes i = true → ∀ G ths, ths.length = g.threads.length →
      f { s := { s with groups := G }, iss := iss, grp := { g with threads := ths }, tid := l.2 } t = .ok (put l t) 0 none)
    (hp : ∀ l t, (put l t).held = t.held ∧ (put l t).region = t.region ∧ (put l t).late = t.late ∧ (put l t).raised = t.raised) :
    Gives s (runLocal i s f) iss g i (fun l t => (put l t).after i true (dstRegs i) iss.pc) (fun _ _ => 0) := by
  have hfin : ∀ l ∈ iss.lanes, ∀ t, g.threads[l.2]? = some t →
      { localFin i iss.pc put l t with raised := [] } = (if t.takes i then (put l t).after i true (dstRegs i) iss.pc else t.skips i iss.pc (s.clock iss.core))
      ∧ (localFin i iss.pc put l t).raised = [] ∧ (localFin i iss.pc put l t).late = none := by
    intro l hl t ht
    obtain ⟨t', ht', hr⟩ := hi.threads l hl
    obtain rfl : t = t' := Option.some.inj (ht.symm.trans ht')
    exact localFin_ready he hr iss.pc _ (hp l t)
  have hturn : OneTurn i s iss g (localFin i iss.pc put) (localTurn f iss) := by
    intro done l t a ths hl hn ht hgone htt hac
    obtain ⟨t', ht', hr⟩ := hi.threads l hl
    obtain rfl : t = t' := Option.some.inj (ht.symm.trans ht')
    obtain ⟨G, hG⟩ := hgone.state
    have hat : a.s.thread? iss.grp l.2 = some t := by unfold State.thread?; rw [hgone.group]; exact htt
    rw [laneTurn_ready hc hgone.quiet.2.2 hat hr hac]
    unfold localFin
    cases hk : t.takes i
    · simp [he]
    · have hb : localTurn f iss l.2 a.s = .done (a.s.setThread iss.grp l.2 (put l t)) none := by
        unfold localTurn
        rw [hgone.group, hat]
        have hturn := hf l hl t ht hk G ths hgone.len
        rw [← hG] at hturn
        simp only [hturn]
        rfl
      simp only [if_true, hb, LaneAcc.settle]
      rw [modThread_setThread _ _ _ _ _ _ hat]
  obtain ⟨honly, hthreads, hflags, hpending⟩ := runWord_threads hi (localFin i iss.pc put) (localTurn f) hturn (fun l hl t ht => (hfin l hl t ht).2.2)
  have hnone : iss.lanes.map (fun l => ((g.threads[l.2]?).map (fun t => raisedBy (localFin i iss.pc put l t))).getD 0)
      = iss.lanes.map (fun l => ((g.threads[l.2]?).map (fun t => if t.takes i then (0 : Flags) else 0)).getD 0) := by
    refine List.map_congr_left fun l hl => ?_
    obtain ⟨t, ht, -⟩ := hi.threads l hl
    simp [ht, raisedBy, (hfin l hl t ht).2.1]
  refine ⟨honly, fun l hl t ht => ?_, ?_, ?_⟩
  · exact (hthreads l hl t ht).trans (congrArg some (hfin l hl t ht).1)
  · exact (hpending fun l hl t ht e he' => by simp [(hfin l hl t ht).2.1] at he').trans (by rw [hnone]; rfl)
  · exact hflags.trans (by rw [hnone]; rfl)

end local_words

section one_thread

variable {i : Instr} {s : State} {iss : Issue} {g : Group} {l : Nat × Nat} {t : Thread}

/-- A word of one thread that does `e` and leaves the thread fit to retire completes with the effect `e`. -/
theorem retires_of_done {body : Issue → Nat → State → Turnout} (hx : exec i s = .next (runWord i s body)) (hc : closesFirst i = false) (h : s.IssuesOne iss g i l t)
    {e : State} {g1 : Group} {t1 : Thread} (hb : body iss l.2 s = .done e none) (hg : e.group? iss.grp = some g1) (ht : g1.threads[l.2]? = some t1)
    (hkeep : t1.held = t.held ∧ t1.region = t.region ∧ t1.late = t.late ∧ t1.raised = t.raised) : Retires s iss i l e := by
  have hr := IssuesOne_ready h
  obtain ⟨hheld, hregion, hlate, hraised⟩ := hkeep
  have hthread : e.thread? iss.grp l.2 = some t1 := by unfold State.thread?; rw [hg]; exact ht
  refine ⟨_, hx, ?_⟩
  rw [modThread_of _ _ _ _ _ hthread]
  exact runWord_done hc h body e g1 t1 hb hg ht (hheld.trans hr.landed) (hregion.trans hr.noRegion) (hlate.trans hr.onTime) (hraised.trans hr.unraised)

theorem withThread_one (h : s.IssuesOne iss g i l t) (f : Env → Thread → Turnout) : withThread iss l.2 s f = f (s.env iss g l) t := by
  unfold withThread
  rw [h.group, IssuesOne_thread? h]
  rfl

theorem group?_modGroup_same {f : Group → Group} {k : Nat} (h : s.group? k = some g) : (s.modGroup k f).group? k = some (f g) := by
  rw [modGroup_of _ h, group?_setGroup_same]

end one_thread

section faults

variable {i : Instr} {s : State} {iss : Issue} {g : Group} {l : Nat × Nat} {t : Thread} {f : TFault}

/-- Where a fault goes that is none of the page path and no poisoned data: 3 to the debugger, 0 to containment (16 R357). -/
def stopRoute (s : State) (g : Group) (f : TFault) : Nat := if debugCause f.cause = true ∧ (s.ctx g.ctx).debug = true then 3 else 0

/-- The thread that met it. -/
def faultStop (t : Thread) (route : Nat) (f : TFault) (pc : Dword) (clock : Nat) : Thread :=
  if route = 3 then { t.blockAt .debug pc clock with stop := f.stopKind } else t.blockAt .contain pc clock

/-- The record containment gets of a fault of one thread. -/
def contFault (s : State) (iss : Issue) (g : Group) (l : Nat × Nat) (route : Nat) (f : TFault) (pols : List (BitVec 28)) (qkey : Option Nat) (dead : Bool) : ContFault :=
  { record := recordOf s iss g [l] route f, grp := some iss.grp, kern := some g.kern, tids := [l.2], after := false, level := 0, engine := false, pols := pols, qkey := qkey, dead := dead }

/-- The state once one thread has become `u` at a fault `f`, with `x` for containment. -/
def faulted (s : State) (iss : Issue) (g : Group) (l : Nat × Nat) (u : Thread) (x : ContFault) (f : TFault) : State :=
  { s with
    groups := putKey iss.grp { g with threads := g.threads.set l.2 u } s.groups
    ctxs := putKey g.ctx { s.ctx g.ctx with faults := (s.ctx g.ctx).faults ++ [x] } s.ctxs
    evbuf := s.evbuf ++ [faultEvent s iss g l f] }

theorem group?_faulted (u : Thread) (x : ContFault) : (faulted s iss g l u x f).group? iss.grp = some { g with threads := g.threads.set l.2 u } := lookKey_putKey_same ..

theorem thread?_faulted (h : s.IssuesOne iss g i l t) (u : Thread) (x : ContFault) : (faulted s iss g l u x f).thread? iss.grp l.2 = some u := by
  unfold State.thread?
  rw [group?_faulted, Option.bind_some]
  exact List.getElem?_set_self (List.getElem?_eq_some_iff.1 h.thread).1

theorem ctx_faulted (u : Thread) (x : ContFault) (k : Nat) :
    (faulted s iss g l u x f).ctx k = if g.ctx = k then { s.ctx g.ctx with faults := (s.ctx g.ctx).faults ++ [x] } else s.ctx k := by
  unfold State.ctx faulted
  simp only [lookKey_putKey]
  split <;> rfl

theorem faultRoute_eq (hpage : pagePath f.cause = false) (hclean : f.cause ≠ 0x16) : s.faultRoute g.ctx f = stopRoute s g f := by
  unfold State.faultRoute stopRoute
  cases f with
  | poison => exact absurd rfl hclean
  | plain | page => simp [hpage]

theorem tellFault_eq (h : s.IssuesOne iss g i l t) : s.tellFault iss.core iss.grp [l.2] iss.pc f.cause = { s with evbuf := s.evbuf ++ [faultEvent s iss g l f] } := by
  unfold State.tellFault State.tell State.eventOf faultEvent
  simp [h.issue, h.one, h.group, IssuesOne_thread? h, h.thread]

/-- A lone thread that meets such a fault outside a region and a handler is stopped, and its record goes to containment. -/
theorem takeFault_one (h : s.IssuesOne iss g i l t) (hh : t.inHandler = false) (hpage : pagePath f.cause = false) (hclean : f.cause ≠ 0x16) :
    s.takeFault iss.core iss.grp [l] iss.pc [(l.2, f)] f false
      = ((s.tellFault iss.core iss.grp [l.2] iss.pc f.cause).modThreads iss.grp [l.2] (fun u => faultStop u (stopRoute s g f) f iss.pc (s.clock iss.core))).toContain g.ctx
          { record := s.faultRec g [l] iss.pc f (stopRoute s g f), grp := some iss.grp, kern := some g.kern, tids := [l.2], after := false, level := 0, engine := false } := by
  have hregion := (IssuesOne_ready h).noRegion
  have hroute : stopRoute s g f = 3 ∨ stopRoute s g f = 0 := by unfold stopRoute; split <;> simp
  have hmod (b : State) (k : Thread → Thread) : b.modThreads iss.grp [] k = b := rfl
  unfold State.takeFault
  rcases hroute with hroute | hroute <;>
    simp [h.group, faultRoute_eq hpage hclean, hroute, h.thread, hh, hregion, State.notePoison, hclean, hmod, faultStop]

theorem takeFaults_one (h : s.IssuesOne iss g i l t) (hh : t.inHandler = false) (hpage : pagePath f.cause = false) (hclean : f.cause ≠ 0x16) :
    ∃ pols qkey dead, s.takeFaults iss.core iss.grp iss.pc false [(l, f)]
      = faulted s iss g l (faultStop t (stopRoute s g f) f iss.pc (s.clock iss.core)) (contFault s iss g l (stopRoute s g f) f pols qkey dead) f := by
  have hone : s.takeFaults iss.core iss.grp iss.pc false [(l, f)] = s.takeFault iss.core iss.grp [l] iss.pc [(l.2, f)] f false := by
    simp [State.takeFaults, distinct]
  have hmod (b : State) (k : Thread → Thread) : b.modThreads iss.grp [l.2] k = b.modThread iss.grp l.2 k := rfl
  have hthread : ({ s with evbuf := s.evbuf ++ [faultEvent s iss g l f] } : State).thread? iss.grp l.2 = some t := (IssuesOne_thread? h :)
  have hgroup : ({ s with evbuf := s.evbuf ++ [faultEvent s iss g l f] } : State).group? iss.grp = some g := h.group
  rw [hone, takeFault_one h hh hpage hclean, tellFault_eq h, hmod, modThread_of _ _ _ _ _ hthread]
  unfold State.setThread
  rw [modGroup_of _ hgroup]
  exact ⟨_, _, _, rfl⟩

/-- Faults that the end of an issue takes count as the state they leave. -/
theorem finishIssue_takes (a : LaneAcc) (hl : a.late = []) {s1 : State} (hs : a.s.takeFaults iss.core iss.grp iss.pc false a.faults = s1)
    (h0 : ∀ l ∈ iss.lanes, ((a.s.thread? iss.grp l.2).bind (fun t => t.late)) = none) (h1 : ∀ l ∈ iss.lanes, ((s1.thread? iss.grp l.2).bind (fun t => t.late)) = none) :
    finishIssue iss a = finishIssue iss { a with s := s1, faults := [] } := by
  unfold finishIssue
  simp only [hs, takeFaults_nil, lateOf_none a iss _ hl h0, lateOf_none { a with s := s1, faults := [] } iss _ hl h1]

theorem faultStop_kept (t : Thread) (route : Nat) (f : TFault) (pc : Dword) (c : Nat) : (faultStop t route f pc c).late = t.late ∧ (faultStop t route f pc c).raised = t.raised := by
  unfold faultStop
  split <;> exact ⟨rfl, rfl⟩

/-- The end of an issue that left one thread as `u` at a fault, with `x` for containment. -/
theorem faulted_frame (h : s.IssuesOne iss g i l t) {x : ContFault} {acted : List Nat} {u : Thread} (hlate : u.late = none) (hraised : u.raised = []) {s' : State}
    (hs' : s' = (finishIssue iss { s := faulted s iss g l u x f, faults := [], late := [], held := false, acted := acted }).afterWord i iss) :
    FaultFrame s s' iss g l u f ∧ s'.ctx g.ctx = { s.ctx g.ctx with faults := (s.ctx g.ctx).faults ++ [x] } ∧ s'.pend = s.pend ∧ s'.fseq = s.fseq := by
  have hlt : l.2 < g.threads.length := (List.getElem?_eq_some_iff.1 h.thread).1
  have hset : (g.threads.set l.2 u)[l.2]? = some u := List.getElem?_set_self hlt
  obtain ⟨G, C, e, others, ⟨ths, pd, fs, tab, ovl, y, jn, group, -, hths, hpend⟩, cores, core⟩ :=
    afterWord_quiet i iss { s := faulted s iss g l u x f, faults := [], late := [], held := false, acted := acted } _ rfl rfl (group?_faulted u x) h.distinct (by simp [h.one, hset, hlate])
  have hflags : orFlags (iss.lanes.map (fun l' => (((g.threads.set l.2 u)[l'.2]?).map raisedBy).getD 0)) = 0 := by
    simp [h.one, hset, raisedBy, hraised, orFlags]
  have hpd := hpend (by simp [h.one, hset, hraised])
  rw [hflags] at hpd group
  obtain ⟨rfl, rfl⟩ := Prod.mk.inj (hpd.trans (pendingWith_zero ..))
  have hsame : ths = g.threads.set l.2 u := by
    refine List.ext_getElem? fun n => (hths n).trans ?_
    split
    · next hn =>
      obtain rfl : n = l.2 := by simpa [h.one] using hn
      rw [hset, Option.map_some]
      exact congrArg some (by rw [← hraised])
    · rfl
  subst hsame
  rw [e] at hs'
  subst hs'
  refine ⟨⟨⟨G, C, _, _, _, rfl⟩, fun k hk => ?_, ⟨tab, ovl, y, jn, ?_⟩, fun k hk => ?_, cores, core⟩, ?_, rfl, rfl⟩
  · exact (others k hk).trans (lookKey_putKey_ne (Ne.symm hk) _ _)
  · exact group.trans (by rw [show g.fpflags ||| (0 : Flags) = g.fpflags from BitVec.or_zero])
  · exact (ctx_faulted (s := s) (iss := iss) (l := l) (f := f) u x k).trans (if_neg (Ne.symm hk))
  · exact (ctx_faulted (s := s) (iss := iss) (l := l) (f := f) u x g.ctx).trans (if_pos rfl)

/-- The law of faults: a word to one thread, outside a handler, that meets a fault which is none of the page path and no poisoned data. -/
theorem faultTaken_of {body : Issue → Nat → State → Turnout} (hx : exec i s = .next (runWord i s body)) (hc : closesFirst i = false) (h : s.IssuesOne iss g i l t) (hh : t.inHandler = false)
    (hb : body iss l.2 s = .fault f) (hpage : pagePath f.cause = false) (hclean : f.cause ≠ 0x16) :
    ∃ s', exec i s = .next s' ∧ FaultTaken s s' iss g l t (stopRoute s g f) f := by
  have hr := IssuesOne_ready h
  obtain ⟨pols, qkey, dead, htake⟩ := takeFaults_one (f := f) h hh hpage hclean
  obtain ⟨hlate, hraised⟩ := faultStop_kept t (stopRoute s g f) f iss.pc (s.clock iss.core)
  have hend := finishIssue_takes (iss := iss) { s := s, faults := [(l, f)], late := [], held := false, acted := [l.2] } rfl htake
    (by simp [h.one, IssuesOne_thread? h, hr.onTime]) (by simp [h.one, thread?_faulted h, hlate, hr.onTime])
  have hrun := runWord_one hc h body
  rw [hb] at hrun
  obtain ⟨frame, record, pend⟩ := faulted_frame h (hlate.trans hr.onTime) (hraised.trans hr.unraised) (hrun.trans (congrArg (fun a : State => a.afterWord i iss) hend))
  exact ⟨_, hx, frame, ⟨pols, qkey, dead, record⟩, pend⟩

end faults

end Sys2Proof.Proofs

/-! ## The status registers (02 R53 to R57) -/

namespace Sys2Proof.Proofs

open Sys2Proof.Machine Sys2Proof.Laws

/-- The numbers of the status registers with their values for thread `tid` of a group on a core (02 R53). -/
def statusTable (s : State) (core : Nat) (g : Group) (tid : Nat) (t : Thread) : List (Nat × Nat) :=
  let ofKernel (f : Kernel → Nat) (d : Nat) : Nat := ((s.kern? g.kern).map f).getD d
  [(0x000, tid), (0x001, tid / 32), (0x002, tid % 32), (0x003, g.gidx), (0x004, ofKernel (fun x => x.desc.ngroups) 0), (0x005, g.gang), (0x006, g.member),
   (0x007, ofKernel (fun x => x.desc.gangSize) 1), (0x008, g.threads.length), (0x010, core), (0x011, core / 4 % 12), (0x012, core / 48), (0x013, if t.reloc then 1 else 0),
   (0x020, s.clock core), (0x021, s.ns), (0x030, g.fpflags.toNat),
   (0x031, g.trapEn.toNat + (if g.orderReq then 2 ^ 16 else 0) + (if g.pinLapse then 2 ^ 17 else 0)), (0x032, g.fpround.toNat),
   (0x040, t.acause.toNat), (0x041, t.arepairs.toNat), (0x050, t.regtop.toNat), (0x051, t.depth.toNat), (0x052, (s.ctx g.ctx).progress.toNat),
   (0x060, ofKernel (fun x => x.kseq.toNat) 0), (0x061, g.ctx), (0x070, if (s.ctx g.ctx).maint ∨ Config.cores ≤ core then 1 else 0)]

/-- What a status register reads as; a number that names none reads 0. -/
def statusValue (s : State) (core : Nat) (g : Group) (tid : Nat) (t : Thread) (n : Nat) : Nat := (lookKey n (statusTable s core g tid t)).getD 0

/-- The bits of FPTRAPEN (02 R54) lie apart. -/
theorem fptrapen_toNat (g : Group) : g.fptrapen.toNat = g.trapEn.toNat + (if g.orderReq then 2 ^ 16 else 0) + (if g.pinLapse then 2 ^ 17 else 0) := by
  unfold Group.fptrapen
  generalize g.trapEn = x
  generalize g.orderReq = a
  generalize g.pinLapse = b
  revert a b x
  decide

theorem lookKey_eq_none {α : Type} {k : Nat} {tab : List (Nat × α)} (h : k ∉ tab.map Prod.fst) : lookKey k tab = none := by
  induction tab with
  | nil => rfl
  | cons e tab ih =>
    simp only [List.map_cons, List.mem_cons, not_or] at h
    rw [lookKey_cons, if_neg (Ne.symm h.1), ih h.2]

theorem csr_eq_statusValue (e : Env) (t : Thread) (n : Nat) : e.csr t n = BitVec.ofNat 64 (statusValue e.s e.iss.core e.grp e.tid t n) := by
  unfold Env.csr statusValue statusTable
  split
  case h_17 =>
    have hbits := congrArg (BitVec.ofNat 64) (fptrapen_toNat e.grp)
    simpa [lookKey_cons] using hbits
  case h_27 => rw [lookKey_eq_none (by simp_all)]; rfl
  all_goals simp [lookKey_cons, quadInDie, dieOf, Env.now, State.gangSize, Env.maint, apply_ite (BitVec.ofNat 64)]

theorem statusValue_threads (s : State) (core : Nat) (g : Group) (tid : Nat) (t : Thread) (n : Nat) (G : List (Nat × Group)) (ths : List Thread) (h : ths.length = g.threads.length) :
    statusValue { s with groups := G } core { g with threads := ths } tid t n = statusValue s core g tid t n := by
  unfold statusValue statusTable
  rw [h]
  rfl

/-- What CSRR leaves of a thread (02 R55): the value in one register, in two of the 64-bit numbers, RELOC cleared once read. -/
def csrrPut (w : F1) (s : State) (core : Nat) (g : Group) (l : Nat × Nat) (t : Thread) : Thread :=
  let x : Dword := BitVec.ofNat 64 (statusValue s core g l.2 t w.imm.toNat)
  let u := if w.imm = 0x020 ∨ w.imm = 0x021 then t.setPair (vnum w.d) x else t.setV (vnum w.d) (lowWord x)
  if w.imm = 0x013 then { u with reloc := false } else u

/-- The 64-bit status registers are CYCLE and NS (02 R53). -/
theorem csrWidth_eq_64_iff (n : Nat) : csrWidth n = some 64 ↔ n = 0x020 ∨ n = 0x021 := by
  constructor
  · intro h
    obtain ⟨r, hfind, hwidth⟩ := Option.map_eq_some_iff.mp h
    have hwide : ∀ x ∈ csrTable, x.2.1 = 64 → x.1 = 0x020 ∨ x.1 = 0x021 := by decide
    have hnum : r.1 = n := by simpa using List.find?_some hfind
    exact hnum ▸ hwide r (List.mem_of_find?_eq_some hfind) hwidth
  · rintro (rfl | rfl) <;> rfl

theorem csrrPut_frame (w : F1) (s : State) (core : Nat) (g : Group) (l : Nat × Nat) (t : Thread) :
    (csrrPut w s core g l t).held = t.held ∧ (csrrPut w s core g l t).region = t.region ∧ (csrrPut w s core g l t).late = t.late ∧ (csrrPut w s core g l t).raised = t.raised := by
  unfold csrrPut
  dsimp only
  split <;> split <;> exact ⟨rfl, rfl, rfl, rfl⟩

theorem csrr_computes (w : F1) {s : State} {iss : Issue} {g : Group} (hi : s.Issues iss g (.csrr w)) :
    ∃ s', exec (.csrr w) s = .next s' ∧ Gives s s' iss g (.csrr w) (fun l t => (csrrPut w s iss.core g l t).after (.csrr w) true (dstRegs (.csrr w)) iss.pc) (fun _ _ => 0) := by
  refine ⟨_, rfl, runLocal_gives_sized hi rfl rfl (fun l hl t ht _ G ths hlen => ?_) (fun l t => csrrPut_frame w s iss.core g l t)⟩
  obtain ⟨t', ht', hready⟩ := hi.threads l hl
  obtain rfl : t = t' := Option.some.inj (ht.symm.trans ht')
  have hwide : csrWidth w.imm.toNat = some 64 ↔ w.imm = 0x020 ∨ w.imm = 0x021 := by
    simp [csrWidth_eq_64_iff, ← BitVec.toNat_inj]
  simp only [csr_eq_statusValue, statusValue_threads _ _ _ _ _ _ _ _ hlen, writePair_eq _ _ _ hready.noRegion, write_eq _ _ _ hready.noRegion, hwide]
  rfl

section csrw

variable {w : F1} {s : State} {iss : Issue} {g : Group} {l : Nat × Nat} {t : Thread}

/-- The value CSRW writes is its source register's, which is live. -/
theorem csrw_source (h : s.IssuesOne iss g (.csrw w) l t) : (s.env iss g l).v t (vnum w.a) = t.v.get (vnum w.a) := by
  obtain ⟨-, -, ha⟩ := static1 (i := .csrw w) rfl rfl (wordFault_none h.legal)
  exact v_field _ ha (reads_a1 (i := .csrw w) rfl rfl h.live) 0 (by decide)

/-- A write that changes the group's fields alone, its threads as they were. -/
theorem csrw_group (h : s.IssuesOne iss g (.csrw w) l t) {body : Issue → Nat → State → Turnout} {f : Group → Group} (hf : (f g).threads = g.threads)
    (hx : exec (.csrw w) s = .next (runWord (.csrw w) s body)) (hb : body iss l.2 s = .done (s.modGroup iss.grp f) none) : Retires s iss (.csrw w) l (s.modGroup iss.grp f) :=
  retires_of_done hx rfl h hb (group?_modGroup_same h.group) (by rw [hf]; exact h.thread) ⟨rfl, rfl, rfl, rfl⟩

/-- Each number that CSRW accepts has its own effect (02 R54, R56, R57). -/
theorem csrw_retires (h : s.IssuesOne iss g (.csrw w) l t) :
    let x := t.v.get (vnum w.a)
    let group (f : Group → Group) : Prop := Retires s iss (.csrw w) l (s.modGroup iss.grp f)
    (w.imm = 0x030 → group (fun y => { y with fpflags := x.setWidth 7 }))
    ∧ (w.imm = 0x031 → group (fun y => { y with trapEn := x.setWidth 7, orderReq := y.orderReq && !x.getLsbD 16, pinLapse := y.pinLapse && !x.getLsbD 17 }))
    ∧ (w.imm = 0x032 → x.toNat % 8 ≤ 4 → group (fun y => { y with fpround := x.setWidth 3 }))
    ∧ (w.imm = 0x041 → Retires s iss (.csrw w) l (s.modThread iss.grp l.2 (fun y => { y with arepairs := x })))
    ∧ (w.imm = 0x052 → Retires s iss (.csrw w) l (s.setCtx g.ctx { s.ctx g.ctx with progress := (s.ctx g.ctx).progress + 1 })) := by
  refine ⟨fun hn => ?_, fun hn => ?_, fun hn hmode => ?_, fun hn => ?_, fun hn => ?_⟩
  · refine csrw_group h rfl rfl ?_
    simp only [withThread_one h, csrw_source h, hn]
    rfl
  · refine csrw_group h rfl rfl ?_
    simp only [withThread_one h, csrw_source h, hn]
    rfl
  · refine csrw_group h rfl rfl ?_
    simp only [withThread_one h, csrw_source h, hn]
    exact if_neg (show ¬ 4 < bits (t.v.get (vnum w.a)) 2 0 from Nat.not_lt.mpr hmode)
  · rw [modThread_of _ _ _ _ _ (IssuesOne_thread? h)]
    refine retires_of_done rfl rfl h ?_ (group?_modGroup_same h.group) (List.getElem?_set_self (List.getElem?_eq_some_iff.1 h.thread).1) ⟨rfl, rfl, rfl, rfl⟩
    simp only [withThread_one h, csrw_source h, hn]
    rfl
  · refine retires_of_done rfl rfl h ?_ (show State.group? _ _ = _ from h.group) h.thread ⟨rfl, rfl, rfl, rfl⟩
    simp only [withThread_one h, csrw_source h, hn]
    rfl

end csrw

/-- A write of a reserved rounding mode is an illegal operand (02 R56). -/
theorem csrw_faults (w : F1) : Faults (.csrw w) (fun _ _ _ _ t => w.imm = 0x032 ∧ 4 < (t.v.get (vnum w.a)).toNat % 8) (fun _ iss _ _ _ => .plain 0x03 0 iss.word) := by
  intro s iss g l t h _ hh ⟨hn, hmode⟩ hclean
  refine faultTaken_of rfl rfl h hh ?_ rfl hclean
  simp only [withThread_one h, csrw_source h, hn]
  exact if_pos hmode

/-- Settles O38: reads by the table of values, writes by the law of a word that retires, the reserved mode by the law of faults. -/
theorem statusRegisters : Obligations.StatusRegisters := by
  refine ⟨fun w s iss g hi _ => ?_, fun w s iss g l t h => csrw_retires h, csrw_faults⟩
  have hput := csrr_computes w hi
  simp only [hi.issue]
  exact hput

end Sys2Proof.Proofs

/-! ## Rounding of an exact value (03 R77 to R79) -/

namespace Sys2Proof.Proofs

open Sys2Proof.Machine

/-- Magnitude code `c` is read in the binade that ends with it or holds it: exponent field 0 and 1 share the least one. -/
def magExp (f : Fmt) (c : Nat) : Nat := c / 2 ^ f.mbits - 1

/-- The value of a magnitude code in the format with its exponent range unbounded above (03 R78): no code stands for an infinity or a NaN. -/
def magVal (f : Fmt) (c : Nat) : ℚ := ((c - magExp f c * 2 ^ f.mbits : Nat) : ℚ) * (2 : ℚ) ^ (f.emin + magExp f c - f.mbits)

/-- A multiple of the spacing in a binade is the value of the code with that offset; the end of a binade is the beginning of the next. -/
theorem magVal_binade (f : Fmt) {j k : Nat} (hk : k ≤ 2 ^ (f.mbits + 1)) (hj : j = 0 ∨ 2 ^ f.mbits ≤ k) :
    magVal f (j * 2 ^ f.mbits + k) = k * (2 : ℚ) ^ (f.emin + j - f.mbits) := by
  have hpos : 0 < 2 ^ f.mbits := by positivity
  have hquot : (j * 2 ^ f.mbits + k) / 2 ^ f.mbits = j + k / 2 ^ f.mbits := by
    rw [add_comm, Nat.add_mul_div_right _ _ hpos, add_comm]
  unfold magVal magExp
  rw [hquot]
  obtain hlt | rfl := lt_or_eq_of_le hk
  · have hbinade : j + k / 2 ^ f.mbits - 1 = j := by
      have htop : k / 2 ^ f.mbits < 2 := Nat.div_lt_of_lt_mul (by rw [mul_comm, ← pow_succ']; exact hlt)
      obtain rfl | hle := hj
      · omega
      · have := Nat.div_pos hle hpos
        omega
    rw [hbinade, Nat.add_sub_cancel_left]
  · have hbinade : j + 2 ^ (f.mbits + 1) / 2 ^ f.mbits - 1 = j + 1 := by
      rw [pow_succ, Nat.mul_div_cancel_left _ hpos]
      omega
    have hoff : j * 2 ^ f.mbits + 2 ^ (f.mbits + 1) - (j + 1) * 2 ^ f.mbits = 2 ^ f.mbits := by
      rw [pow_succ, add_mul]
      omega
    rw [hbinade, hoff]
    push_cast
    rw [show f.emin + ((j : Int) + 1) - f.mbits = (f.emin + j - f.mbits) + 1 by ring, zpow_add_one₀ two_ne_zero]
    ring

/-- Every code is a binade's base and an offset in it. -/
theorem exists_binade (f : Fmt) (c : Nat) : ∃ j k, c = j * 2 ^ f.mbits + k ∧ k < 2 ^ (f.mbits + 1) ∧ (j = 0 ∨ 2 ^ f.mbits ≤ k) := by
  have hdiv := Nat.div_add_mod' c (2 ^ f.mbits)
  have hmod := Nat.mod_lt c (show 0 < 2 ^ f.mbits by positivity)
  rw [pow_succ]
  cases hx : c / 2 ^ f.mbits with
  | zero => exact ⟨0, c % 2 ^ f.mbits, by simpa [hx] using hdiv.symm, by omega, .inl rfl⟩
  | succ j => exact ⟨j, 2 ^ f.mbits + c % 2 ^ f.mbits, by rw [hx, add_mul, one_mul] at hdiv; omega, by omega, .inr (Nat.le_add_right _ _)⟩

/-- A greater magnitude code has a greater value. -/
theorem magVal_strictMono (f : Fmt) : StrictMono (magVal f) := by
  refine strictMono_nat_of_lt_succ fun c => ?_
  obtain ⟨j, k, rfl, hk, hj⟩ := exists_binade f c
  rw [add_assoc, magVal_binade f hk.le hj, magVal_binade f hk (hj.imp_right (Nat.le_succ_of_le ·))]
  gcongr
  exact_mod_cast Nat.lt_succ_self k

/-- The code past the subnormal ones is the least normal magnitude. -/
theorem magVal_leastNormal (f : Fmt) : magVal f (2 ^ f.mbits) = (2 : ℚ) ^ f.emin := by
  have h := magVal_binade f (j := 0) (k := 2 ^ f.mbits) (Nat.pow_le_pow_right two_pos (Nat.le_succ _)) (.inl rfl)
  rw [zero_mul, zero_add] at h
  rw [h]
  push_cast
  rw [← zpow_natCast, ← zpow_add₀ two_ne_zero]
  congr 1
  ring


/-- What the exponent and mantissa fields of a magnitude code say of its value (03 R64). -/
theorem magVal_fields (f : Fmt) (c : Nat) : magVal f c =
    if c / 2 ^ f.mbits = 0 then ((c % 2 ^ f.mbits : Nat) : ℚ) * (2 : ℚ) ^ (f.emin - f.mbits)
    else ((c % 2 ^ f.mbits + 2 ^ f.mbits : Nat) : ℚ) * (2 : ℚ) ^ (((c / 2 ^ f.mbits : Nat) : Int) - 1 + f.emin - f.mbits) := by
  have hdiv := Nat.div_add_mod' c (2 ^ f.mbits)
  unfold magVal magExp
  cases hx : c / 2 ^ f.mbits with
  | zero =>
    have hmod : c % 2 ^ f.mbits = c := by simpa [hx] using hdiv
    simp [hmod]
  | succ j =>
    have hoff : c - j * 2 ^ f.mbits = c % 2 ^ f.mbits + 2 ^ f.mbits := by
      rw [hx, add_mul, one_mul] at hdiv
      omega
    rw [if_neg j.succ_ne_zero, Nat.add_sub_cancel, hoff]
    congr 2
    push_cast
    ring

/-- The sign bit stands above the magnitude codes. -/
theorem maxMag_lt_signBit (f : Fmt) : f.maxMag < f.signBit ∧ 2 ^ f.width = 2 * f.signBit := by
  cases f <;> decide


/-- A code whose fields are a sign and a finite magnitude has that magnitude's value (03 R64, R67 to R69). -/
theorem decode_rat_of_fields {f : Fmt} {code c : Nat} {neg : Bool} (hmag : code % f.signBit = c) (hneg : decide (f.signBit ≤ code % 2 ^ f.width) = neg) (hc : c ≤ f.maxMag)
    (hnan : (!f.ieee && f != .e2m1 && neg && c == 0) = false) : (f.decode code).rat = (if neg then -1 else 1) * magVal f c := by
  have hfinite : (f.ieee && decide (f.maxMag < c)) = false := by simp [Nat.not_lt.mpr hc]
  simp only [Fmt.decode, hmag, hneg, hfinite, hnan, Bool.false_eq_true, if_false, magVal_fields]
  split <;> exact mul_assoc _ _ _

/-- A magnitude code with a sign has the magnitude's value with that sign; a zero may lose its sign (03 R68). -/
theorem decode_signed_rat (f : Fmt) (neg : Bool) {c : Nat} (hc : c ≤ f.maxMag) : (f.decode (f.signed neg c)).rat = if neg then -magVal f c else magVal f c := by
  obtain ⟨hmax, hwidth⟩ := maxMag_lt_signBit f
  by_cases hsigned : (neg && (c ≠ 0 || f.ieee || f == .e2m1)) = true
  · obtain ⟨rfl, hzero⟩ : neg = true ∧ (c ≠ 0 || f.ieee || f == .e2m1) = true := by simpa using hsigned
    have hcode : (c + f.signBit) % 2 ^ f.width = c + f.signBit := Nat.mod_eq_of_lt (by omega)
    rw [Fmt.signed, if_pos hsigned, decode_rat_of_fields (c := c) (neg := true) (by rw [Nat.add_mod_right, Nat.mod_eq_of_lt (by omega)]) (by simp [hcode]) hc
      (by revert hzero; cases f <;> simp [Fmt.ieee])]
    simp
  · have hcode : c % 2 ^ f.width = c := Nat.mod_eq_of_lt (by omega)
    rw [Fmt.signed, if_neg hsigned, decode_rat_of_fields (neg := false) (Nat.mod_eq_of_lt (by omega)) (by rw [hcode]; exact decide_eq_false (by omega)) hc (by simp)]
    cases neg with
    | false => simp
    | true =>
      obtain rfl : c = 0 := by simp_all
      simp [magVal]

theorem decode_rat (f : Fmt) {c : Nat} (hc : c ≤ f.maxMag) : (f.decode c).rat = magVal f c := decode_signed_rat f false hc

/-- A quotient over a power of two, as a quotient of naturals: the dividend or the divisor is shifted by the exponent's sign. -/
theorem div_shiftLeft (n d : Nat) (u : Int) :
    ((if u ≥ 0 then n else n <<< (-u).toNat : Nat) : ℚ) / (if u ≥ 0 then d <<< u.toNat else d : Nat) = n / d / (2 : ℚ) ^ u := by
  split
  next hu =>
    lift u to Nat using hu
    simp [Nat.shiftLeft_eq, div_div]
  next hu =>
    obtain ⟨k, rfl⟩ : ∃ k : Nat, u = -k := ⟨(-u).toNat, by omega⟩
    simp [Nat.shiftLeft_eq, div_mul_eq_mul_div]

theorem divisor_pos {d : Nat} (hd : 0 < d) (u : Int) : 0 < if u ≥ 0 then d <<< u.toNat else d := by
  split
  · rw [Nat.shiftLeft_eq]
    positivity
  · exact hd

/-- The choice `ilog2` makes, between the difference of the two lengths and one less. -/
theorem ilog2_eq {n d : Nat} (hd : 0 < d) : ilog2 n d = if (2 : ℚ) ^ ((Nat.log2 n : Int) - Nat.log2 d) ≤ n / d then (Nat.log2 n : Int) - Nat.log2 d else (Nat.log2 n : Int) - Nat.log2 d - 1 := by
  unfold ilog2
  generalize (Nat.log2 n : Int) - Nat.log2 d = l
  have hle : (2 : ℚ) ^ l ≤ n / d ↔ (if l ≥ 0 then d <<< l.toNat else d) ≤ if l ≥ 0 then n else n <<< (-l).toNat := by
    rw [← one_le_div (by positivity : (0 : ℚ) < 2 ^ l), ← div_shiftLeft, one_le_div (Nat.cast_pos.mpr (divisor_pos hd l)), Nat.cast_le]
  simp only [hle]
  split <;> rfl

/-- `ilog2` is the exponent of the quotient's leading bit. -/
theorem zpow_ilog2_le {n d : Nat} (hn : 0 < n) (hd : 0 < d) : (2 : ℚ) ^ ilog2 n d ≤ n / d ∧ (n / d : ℚ) < (2 : ℚ) ^ (ilog2 n d + 1) := by
  have hdq : (0 : ℚ) < d := by exact_mod_cast hd
  have hn1 : ((2 : ℚ) ^ Nat.log2 n ≤ n) := by exact_mod_cast Nat.log2_self_le hn.ne'
  have hn2 : (n : ℚ) < 2 ^ (Nat.log2 n + 1) := by exact_mod_cast Nat.lt_log2_self
  have hd1 : ((2 : ℚ) ^ Nat.log2 d ≤ d) := by exact_mod_cast Nat.log2_self_le hd.ne'
  have hd2 : (d : ℚ) < 2 ^ (Nat.log2 d + 1) := by exact_mod_cast Nat.lt_log2_self
  have hsub (a b : Nat) : (2 : ℚ) ^ ((a : Int) - b) = 2 ^ a / 2 ^ b := by rw [zpow_sub₀ two_ne_zero, zpow_natCast, zpow_natCast]
  have hlow : (2 : ℚ) ^ ((Nat.log2 n : Int) - Nat.log2 d - 1) ≤ n / d := by
    rw [sub_sub, ← Nat.cast_succ, hsub]
    gcongr
  have hhigh : (n / d : ℚ) < 2 ^ ((Nat.log2 n : Int) - Nat.log2 d + 1) := by
    rw [sub_add_eq_add_sub, ← Nat.cast_succ, hsub]
    gcongr
  rw [ilog2_eq hd]
  split
  next h => exact ⟨h, hhigh⟩
  next h => exact ⟨hlow, by simpa using h⟩

/-- The exponent at which `round_fmt` takes its spacing for the value `q`: that of the leading bit, or the least one of the format (03 R78, R79). -/
structure AtExponent (f : Fmt) (e : Int) (q : ℚ) : Prop where
  least : f.emin ≤ e
  below : q < (2 : ℚ) ^ (e + 1)
  leading : e = f.emin ∨ (2 : ℚ) ^ e ≤ q

/-- The format's spacing at that exponent. -/
def spacing (f : Fmt) (e : Int) : ℚ := (2 : ℚ) ^ (e - f.mbits)

theorem spacing_pos (f : Fmt) (e : Int) : 0 < spacing f e := by
  unfold spacing
  positivity

/-- The exponent `roundQ` takes is such an exponent. -/
theorem atExponent_ilog2 (f : Fmt) {n d : Nat} (hn : 0 < n) (hd : 0 < d) : AtExponent f (Max.max (ilog2 n d) f.emin) (n / d) := by
  obtain ⟨hle, hlt⟩ := zpow_ilog2_le hn hd
  refine ⟨le_max_right _ _, hlt.trans_le (zpow_le_zpow_right₀ one_le_two (by omega)), ?_⟩
  obtain h | h := le_total (ilog2 n d) f.emin
  · exact .inl (max_eq_right h)
  · exact .inr (by rwa [max_eq_left h])

/-- A value has one such exponent. -/
theorem AtExponent.unique {f : Fmt} {e e' : Int} {q : ℚ} (h : AtExponent f e q) (h' : AtExponent f e' q) : e = e' := by
  have hle {a b : Int} (ha : AtExponent f a q) (hb : AtExponent f b q) : a ≤ b := by
    obtain rfl | hlead := ha.leading
    · exact hb.least
    · have := (zpow_lt_zpow_iff_right₀ one_lt_two).mp (hlead.trans_lt hb.below)
      omega
  exact le_antisymm (hle h h') (hle h' h)

/-- The kept part of a value, in units of the spacing. -/
def kept (f : Fmt) (e : Int) (q : ℚ) : Nat := ⌊q / spacing f e⌋₊

/-- What rounding discards, in units of the spacing. -/
def discarded (f : Fmt) (e : Int) (q : ℚ) : ℚ := q / spacing f e - kept f e q

/-- The mode takes the upper of the two multiples that enclose the value: `k` is the lower, `rest` what is above it (03 R77, R79). -/
def TakesUpper (m : Mode) (neg : Bool) (k : Nat) (rest : ℚ) : Prop :=
  match m with
  | .rne => 1 / 2 < rest ∨ (rest = 1 / 2 ∧ k % 2 = 1)
  | .rtz => False
  | .rup => neg = false ∧ rest ≠ 0
  | .rdn => neg = true ∧ rest ≠ 0
  | .rsr h => 2 ^ 32 ≤ ⌊rest * 2 ^ 32⌋₊ + h

theorem roundsUp_iff {m : Mode} {neg : Bool} {k r den : Nat} (hden : 0 < den) : roundsUp m neg k r den = true ↔ TakesUpper m neg k ((r : ℚ) / den) := by
  have hq : (0 : ℚ) < den := by exact_mod_cast hden
  have hrest : (r : ℚ) / den ≠ 0 ↔ 0 < r := by simp [hden.ne', Nat.pos_iff_ne_zero]
  cases m with
  | rne =>
    have hover : (1 : ℚ) / 2 < r / den ↔ den < 2 * r := by
      rw [div_lt_div_iff₀ two_pos hq, one_mul, mul_comm]
      exact_mod_cast Iff.rfl
    have htie : (r : ℚ) / den = 1 / 2 ↔ 2 * r = den := by
      rw [div_eq_div_iff hq.ne' two_ne_zero, one_mul, mul_comm]
      exact_mod_cast Iff.rfl
    simp only [roundsUp, TakesUpper, hover, htie, Bool.or_eq_true, Bool.and_eq_true, decide_eq_true_eq, beq_iff_eq]
  | rtz => simp [roundsUp, TakesUpper]
  | rup => simp [roundsUp, TakesUpper, hrest]
  | rdn => simp [roundsUp, TakesUpper, hrest]
  | rsr h =>
    have hfloor : ⌊(r : ℚ) / den * 2 ^ 32⌋₊ = r * 2 ^ 32 / den := by
      rw [div_mul_eq_mul_div, ← Nat.floor_div_eq_div (K := ℚ)]
      push_cast
      rfl
    simp [roundsUp, TakesUpper, hfloor]

/-- The magnitude code of the multiple `K` of the spacing. -/
def magCode (f : Fmt) (e : Int) (K : Nat) : Nat := (e - f.emin).toNat * 2 ^ f.mbits + K

/-- The mode rounds the value `q` to the multiple `K` of the spacing at exponent `e`. -/
structure Rounds (f : Fmt) (m : Mode) (neg : Bool) (q : ℚ) (e : Int) (K : Nat) : Prop where
  at_ : AtExponent f e q
  upper : TakesUpper m neg (kept f e q) (discarded f e q) → K = kept f e q + 1
  lower : ¬TakesUpper m neg (kept f e q) (discarded f e q) → K = kept f e q

/-- `roundQ` by rationals: the multiple the mode takes, as a code, or the overflow (03 R78, R79). -/
theorem roundQ_eq {f : Fmt} {m : Mode} {neg : Bool} {n d K : Nat} {e : Int} (hn : 0 < n) (hd : 0 < d) (h : Rounds f m neg (n / d) e K) :
    roundQ f m neg n d = if f.maxMag < magCode f e K then { code := f.overflow m neg, flags := flOverflow ||| flInexact }
      else { code := f.signed neg (magCode f e K), flags := if discarded f e (n / d) = 0 then 0 else if magCode f e K < 2 ^ f.mbits then flInexact ||| flUnderflow else flInexact } := by
  obtain ⟨he, hup, hdown⟩ := h
  obtain rfl := he.unique (atExponent_ilog2 f hn hd)
  unfold roundQ
  dsimp only
  generalize Max.max (ilog2 n d) f.emin = e at *
  have hden := divisor_pos hd (e - f.mbits)
  have hquot : _ = (n / d : ℚ) / spacing f e := div_shiftLeft n d (e - f.mbits)
  generalize (if e - f.mbits ≥ 0 then n else n <<< (-(e - f.mbits)).toNat) = num at *
  generalize (if e - f.mbits ≥ 0 then d <<< (e - f.mbits).toNat else d) = den at *
  have hkept : num / den = kept f e (n / d) := by rw [kept, ← hquot, Nat.floor_div_eq_div]
  have hrest : ((num % den : Nat) : ℚ) / den = discarded f e (n / d) := by
    have hdenq : (den : ℚ) ≠ 0 := by exact_mod_cast hden.ne'
    rw [discarded, ← hquot, ← hkept, eq_sub_iff_add_eq, div_add' _ _ _ hdenq]
    congr 1
    exact_mod_cast Nat.mod_add_div' num den
  have hexact : num % den = 0 ↔ discarded f e (n / d) = 0 := by rw [← hrest]; simp [hden.ne']
  have hK : (if roundsUp m neg (num / den) (num % den) den then num / den + 1 else num / den) = K := by
    split
    next h => rw [hup (by rwa [roundsUp_iff hden, hkept, hrest] at h), hkept]
    next h => rw [hdown (by rwa [roundsUp_iff hden, hkept, hrest] at h), hkept]
  simp only [hK, hexact, Nat.shiftLeft_eq]
  rfl

section rounds

variable {f : Fmt} {e : Int} {q : ℚ}

/-- The value lies between its kept part and the next multiple. -/
theorem kept_encloses (hq : 0 ≤ q) : kept f e q * spacing f e ≤ q ∧ q < (kept f e q + 1) * spacing f e :=
  ⟨(le_div_iff₀ (spacing_pos f e)).mp (Nat.floor_le (div_nonneg hq (spacing_pos f e).le)), (div_lt_iff₀ (spacing_pos f e)).mp (Nat.lt_floor_add_one _)⟩

theorem discarded_eq_zero_iff : discarded f e q = 0 ↔ kept f e q * spacing f e = q := by
  rw [discarded, sub_eq_zero, eq_comm, ← eq_div_iff (spacing_pos f e).ne']

theorem discarded_nonneg (hq : 0 ≤ q) : 0 ≤ discarded f e q := sub_nonneg.mpr ((le_div_iff₀ (spacing_pos f e)).mpr (kept_encloses hq).1)

/-- The value is its kept part and what is discarded, in units of the spacing. -/
theorem kept_add_discarded : (kept f e q + discarded f e q) * spacing f e = q := by
  rw [discarded, add_sub_cancel, div_mul_cancel₀ _ (spacing_pos f e).ne']

/-- Either enclosing multiple of the spacing is the value of its magnitude code. -/
theorem magVal_magCode (hq : 0 ≤ q) (he : AtExponent f e q) {K : Nat} (hK : K = kept f e q ∨ K = kept f e q + 1) : magVal f (magCode f e K) = K * spacing f e := by
  obtain ⟨hle, hlt⟩ := kept_encloses (f := f) (e := e) hq
  have hcast : (((e - f.emin).toNat : Nat) : Int) = e - f.emin := Int.toNat_of_nonneg (by have := he.least; omega)
  have hpow (a : Nat) : (2 : ℚ) ^ (e + a - f.mbits) = 2 ^ a * spacing f e := by
    rw [spacing, ← zpow_natCast, ← zpow_add₀ two_ne_zero]
    congr 1
    ring
  have htop : kept f e q < 2 ^ (f.mbits + 1) := by
    have h := hle.trans_lt he.below
    rw [show e + 1 = e + ((f.mbits + 1 : Nat) : Int) - f.mbits by push_cast; ring, hpow] at h
    exact_mod_cast lt_of_mul_lt_mul_right h (spacing_pos f e).le
  have hbottom : (e - f.emin).toNat = 0 ∨ 2 ^ f.mbits ≤ kept f e q := by
    obtain h | h := he.leading
    · exact .inl (by omega)
    · rw [show e = e + ((f.mbits : Nat) : Int) - f.mbits by ring, hpow] at h
      have := lt_of_mul_lt_mul_right (h.trans_lt hlt) (spacing_pos f e).le
      exact .inr (Nat.lt_succ_iff.mp (by exact_mod_cast this))
  rw [magCode, magVal_binade f (by omega) (by omega), spacing, hcast]
  congr 2
  ring

variable {m : Mode} {neg : Bool} {K : Nat}

/-- Every value is rounded to some multiple of the spacing. -/
theorem exists_rounds (f : Fmt) (m : Mode) (neg : Bool) {n d : Nat} (hn : 0 < n) (hd : 0 < d) : ∃ e K, Rounds f m neg (n / d) e K := by
  have he := atExponent_ilog2 f hn hd
  generalize Max.max (ilog2 n d) f.emin = e at he
  by_cases h : TakesUpper m neg (kept f e (n / d)) (discarded f e (n / d))
  · exact ⟨e, _, he, fun _ => rfl, fun hn => absurd h hn⟩
  · exact ⟨e, _, he, fun hu => absurd hu h, fun _ => rfl⟩

theorem Rounds.encloses (h : Rounds f m neg q e K) : K = kept f e q ∨ K = kept f e q + 1 := by
  by_cases hup : TakesUpper m neg (kept f e q) (discarded f e q)
  · exact .inr (h.upper hup)
  · exact .inl (h.lower hup)

/-- A value that is a multiple of the spacing is kept: stochastic rounding adds less than a whole unit (03 R79). -/
theorem not_takesUpper_zero (hm : ∀ h, m = .rsr h → h < 2 ^ 32) (k : Nat) : ¬TakesUpper m neg k 0 := by
  cases m with
  | rsr h =>
    have := hm h rfl
    simp [TakesUpper]
    omega
  | _ => simp [TakesUpper]

/-- The result is the value exactly where nothing is discarded. -/
theorem Rounds.exact_iff (h : Rounds f m neg q e K) (hq : 0 ≤ q) (hm : ∀ h, m = .rsr h → h < 2 ^ 32) : K * spacing f e = q ↔ discarded f e q = 0 := by
  constructor
  · intro hK
    obtain rfl | rfl := h.encloses
    · exact discarded_eq_zero_iff.mpr hK
    · exact absurd hK (by push_cast; exact (kept_encloses hq).2.ne')
  · intro h0
    rw [h.lower (h0 ▸ not_takesUpper_zero hm _)]
    exact discarded_eq_zero_iff.mp h0

theorem Rounds.magVal_eq (h : Rounds f m neg q e K) (hq : 0 ≤ q) : magVal f (magCode f e K) = K * spacing f e := magVal_magCode hq h.at_ h.encloses

theorem Rounds.maxMag_lt_iff (h : Rounds f m neg q e K) (hq : 0 ≤ q) : f.maxMag < magCode f e K ↔ (f.decode f.maxMag).rat < K * spacing f e := by
  rw [decode_rat f le_rfl, ← h.magVal_eq hq, (magVal_strictMono f).lt_iff_lt]

/-- The flags of a result within the format's range (03 R78, R81). -/
noncomputable def inexactFlags (f : Fmt) (v q : ℚ) : Flags := if v = q then 0 else if v < (2 : ℚ) ^ f.emin then flInexact ||| flUnderflow else flInexact

/-- A result within the format's range: its code and its flags. -/
theorem roundQ_finite {n d : Nat} (hn : 0 < n) (hd : 0 < d) (h : Rounds f m neg (n / d) e K) (hm : ∀ h, m = .rsr h → h < 2 ^ 32) (hle : magCode f e K ≤ f.maxMag) :
    roundQ f m neg n d = { code := f.signed neg (magCode f e K), flags := inexactFlags f (K * spacing f e) (n / d) } := by
  have hq : (0 : ℚ) ≤ n / d := by positivity
  rw [roundQ_eq hn hd h, if_neg (Nat.not_lt.mpr hle), inexactFlags]
  simp only [← h.exact_iff hq hm, ← (magVal_strictMono f).lt_iff_lt, magVal_leastNormal, h.magVal_eq hq]

/-- A result past the largest finite magnitude (03 R68, R70, R78). -/
theorem roundQ_overflow {n d : Nat} (hn : 0 < n) (hd : 0 < d) (h : Rounds f m neg (n / d) e K) (hlt : f.maxMag < magCode f e K) :
    roundQ f m neg n d = { code := f.overflow m neg, flags := flOverflow ||| flInexact } := by
  rw [roundQ_eq hn hd h, if_pos hlt]

theorem inexactFlags_and (f : Fmt) (v q : ℚ) : inexactFlags f v q &&& flInexact = 0 ↔ v = q := by
  unfold inexactFlags
  split
  next h => exact iff_of_true rfl h
  next h => split <;> exact iff_of_false (by decide) h

/-- A positive result without OVERFLOW: it is the code of the multiple taken, and INEXACT says whether it differs from the value. -/
theorem roundQ_noOverflow {n d : Nat} (hn : 0 < n) (hd : 0 < d) (h : Rounds f m false (n / d) e K) (hm : ∀ h, m = .rsr h → h < 2 ^ 32) (hflag : (roundQ f m false n d).flags &&& flOverflow = 0) :
    (roundQ f m false n d).code = magCode f e K ∧ magCode f e K ≤ f.maxMag ∧ (f.decode (magCode f e K)).rat = K * spacing f e
      ∧ ((roundQ f m false n d).flags &&& flInexact = 0 ↔ K * spacing f e = (n / d : ℚ)) := by
  have hle : magCode f e K ≤ f.maxMag := by
    by_contra hgt
    rw [roundQ_overflow hn hd h (Nat.lt_of_not_le hgt)] at hflag
    exact absurd hflag (by decide : ¬ (flOverflow ||| flInexact) &&& flOverflow = 0)
  rw [roundQ_finite hn hd h hm hle]
  exact ⟨rfl, hle, by rw [decode_rat f hle, h.magVal_eq (by positivity)], inexactFlags_and f _ _⟩

/-- Rounding to nearest takes the multiple that is no further from the value than either enclosing one. -/
theorem Rounds.nearest (h : Rounds f .rne neg q e K) (hq : 0 ≤ q) :
    |K * spacing f e - q| ≤ q - kept f e q * spacing f e ∧ |K * spacing f e - q| ≤ (kept f e q + 1) * spacing f e - q := by
  obtain ⟨hlow, hhigh⟩ := kept_encloses (f := f) (e := e) hq
  have hsum := kept_add_discarded (f := f) (e := e) (q := q)
  have hu := spacing_pos f e
  by_cases hup : TakesUpper .rne neg (kept f e q) (discarded f e q)
  · have hhalf : 1 / 2 ≤ discarded f e q := hup.elim le_of_lt (fun h => h.1.ge)
    rw [h.upper hup, Nat.cast_succ, abs_of_nonneg (by linarith)]
    exact ⟨by nlinarith, le_rfl⟩
  · have hhalf : discarded f e q ≤ 1 / 2 := not_lt.mp fun hlt => hup (.inl hlt)
    rw [h.lower hup, abs_of_nonpos (by linarith), neg_sub]
    exact ⟨le_rfl, by nlinarith⟩

/-- To nearest, no code of the format is nearer (03 R77). -/
theorem Rounds.nearest_code (h : Rounds f .rne neg q e K) (hq : 0 ≤ q) (c : Nat) : |K * spacing f e - q| ≤ |magVal f c - q| := by
  obtain ⟨hlow, hhigh⟩ := h.nearest hq
  have hmono := (magVal_strictMono f).monotone
  obtain hle | hgt := Nat.lt_or_ge (magCode f e (kept f e q)) c
  · have hc := hmono (show magCode f e (kept f e q + 1) ≤ c from hle)
    rw [magVal_magCode hq h.at_ (.inr rfl), Nat.cast_succ] at hc
    exact hhigh.trans ((sub_le_sub_right hc q).trans (le_abs_self _))
  · have hc := hmono hgt
    rw [magVal_magCode hq h.at_ (.inl rfl)] at hc
    exact hlow.trans ((sub_le_sub_left hc q).trans ((neg_sub _ _).symm.le.trans (neg_le_abs _)))

/-- Towards zero, the value lies between the result and the next code (03 R77). -/
theorem Rounds.towards_zero (h : Rounds f .rtz neg q e K) (hq : 0 ≤ q) : K * spacing f e ≤ q ∧ q < magVal f (magCode f e K + 1) := by
  have hK : K = kept f e q := h.lower id
  subst hK
  obtain ⟨hlow, hhigh⟩ := kept_encloses (f := f) (e := e) hq
  refine ⟨hlow, hhigh.trans_eq ?_⟩
  rw [show magCode f e (kept f e q) + 1 = magCode f e (kept f e q + 1) from rfl, magVal_magCode hq h.at_ (.inr rfl), Nat.cast_succ]

end rounds

theorem signed_pos (f : Fmt) (neg : Bool) {mag : Nat} (h : mag ≠ 0) : f.signed neg mag = mag + if neg then f.signBit else 0 := by
  cases neg <;> simp [Fmt.signed, h]

/-- An overflow gives the largest finite magnitude or, in an IEEE format under a mode that does not round it towards zero, infinity (03 R78). -/
def OverflowsToInf (f : Fmt) (m : Mode) (neg : Bool) : Prop :=
  f.ieee = true ∧ match m with
    | .rtz => False
    | .rup => neg = false
    | .rdn => neg = true
    | _ => True

open Classical in
theorem overflow_eq (f : Fmt) (m : Mode) (neg : Bool) : f.overflow m neg = f.signed neg (if OverflowsToInf f m neg then f.maxMag + 1 else f.maxMag) := by
  cases m with
  | rup | rdn => cases neg <;> simp [OverflowsToInf, Fmt.overflow, Fmt.inf]
  | _ => simp [OverflowsToInf, Fmt.overflow, Fmt.inf]

theorem overflow_code (f : Fmt) (m : Mode) (neg : Bool) :
    (OverflowsToInf f m neg → f.overflow m neg = f.maxMag + 1 + if neg then f.signBit else 0) ∧ (¬OverflowsToInf f m neg → f.overflow m neg = f.maxMag + if neg then f.signBit else 0) := by
  have hmax : f.maxMag ≠ 0 := by cases f <;> decide
  rw [overflow_eq, ← signed_pos f neg hmax, ← signed_pos f neg (Nat.succ_ne_zero _)]
  exact ⟨fun h => by rw [if_pos h], fun h => by rw [if_neg h]⟩

/-- Settles O5: the multiple of the spacing that the mode takes is the value of a magnitude code, codes and values rise together, and what is discarded says which multiple is taken and whether the result is exact. -/
theorem roundingIsCorrect : Obligations.RoundingIsCorrect := by
  intro f n d hn hd
  have hq : (0 : ℚ) ≤ n / d := by positivity
  refine ⟨fun hflag => ?_, fun hflag => ?_, fun m neg e K hm hleast hbelow hlead hup hdown => ?_⟩
  · obtain ⟨e, K, h⟩ := exists_rounds f .rtz false hn hd
    obtain ⟨hcode, hle, hval, hflags⟩ := roundQ_noOverflow hn hd h (by simp) hflag
    obtain ⟨hlow, hnext⟩ := h.towards_zero hq
    simp only [hcode, hval]
    exact ⟨hlow, fun hlt => by rwa [decode_rat f hlt], hflags⟩
  · obtain ⟨e, K, h⟩ := exists_rounds f .rne false hn hd
    obtain ⟨hcode, hle, hval, hflags⟩ := roundQ_noOverflow hn hd h (by simp) hflag
    simp only [hcode, hval]
    exact ⟨fun c hc => by rw [decode_rat f hc]; exact h.nearest_code hq c, hflags⟩
  · have h : Rounds f m neg (n / d) e K := ⟨⟨hleast, hbelow, hlead⟩, hup, hdown⟩
    refine ⟨fun hover => ?_, fun hfin => ?_⟩
    · rw [roundQ_overflow hn hd h ((h.maxMag_lt_iff hq).mpr hover)]
      exact ⟨rfl, overflow_code f m neg⟩
    · have hle : magCode f e K ≤ f.maxMag := not_lt.mp ((h.maxMag_lt_iff hq).not.mpr (not_lt.mpr hfin))
      have hval := decode_signed_rat f neg hle
      rw [h.magVal_eq hq] at hval
      rw [roundQ_finite hn hd h hm hle]
      exact ⟨hval, rfl⟩

end Sys2Proof.Proofs

/-! ## FP exceptions (03 R82 to R84): what raises them, and where they are delivered -/

namespace Sys2Proof.Proofs

open Sys2Proof.Machine Sys2Proof.Laws

/-! ### What makes an exception pending -/

/-- A flag raised now may make its exception the pending one: none is, or the one that is came in this cycle from a higher stream (03 R83). -/
def MayPend (g : Group) (clock stream : Nat) : Prop := g.fpPending = none ∨ ∃ a, g.fpPending = some (a, clock) ∧ stream < g.fpStream

theorem mayPend_iff (g : Group) (clock stream : Nat) : g.fpPending = none ∨ (g.fpPending.map (fun p => p.2) = some clock ∧ stream < g.fpStream) ↔ MayPend g clock stream := by
  unfold MayPend
  cases g.fpPending with
  | none => simp
  | some p =>
    obtain ⟨a, c⟩ := p
    simp

open Classical in
theorem pendingWith_eq (g : Group) (fl : Flags) (pc : Dword) (clock stream : Nat) :
    g.pendingWith fl pc clock stream = if fl &&& g.trapEn ≠ 0 ∧ MayPend g clock stream then (some (pc, clock), stream) else (g.fpPending, g.fpStream) := by
  unfold Group.pendingWith
  simp only [mayPend_iff]

open Classical in
/-- Flags raised one after the other in one cycle, from one stream: the first enabled one is the one that can be pending (log 94). -/
theorem raises_pending (l : List (Flags × Dword)) (g : Group) (clock stream : Nat) :
    (l.foldl (fun a e => a.raise e.1 e.2 clock stream) g).fpPending =
      if MayPend g clock stream then ((l.find? (fun e => decide (e.1 &&& g.trapEn ≠ 0))).map (fun e => (e.2, clock))).or g.fpPending else g.fpPending := by
  induction l generalizing g with
  | nil => simp
  | cons e l ih =>
    have hraised : g.raise e.1 e.2 clock stream = { g with fpflags := g.fpflags ||| e.1, fpPending := (g.pendingWith e.1 e.2 clock stream).1, fpStream := (g.pendingWith e.1 e.2 clock stream).2 } := raise_eq ..
    rw [List.foldl_cons, ih]
    by_cases hon : e.1 &&& g.trapEn ≠ 0 ∧ MayPend g clock stream
    · rw [pendingWith_eq, if_pos hon] at hraised
      obtain ⟨hen, hmay⟩ := hon
      have hlast : ¬MayPend (g.raise e.1 e.2 clock stream) clock stream := by
        rw [hraised]
        rintro (h | ⟨a, -, h⟩)
        · exact Option.some_ne_none _ h
        · exact lt_irrefl stream h
      rw [if_neg hlast, if_pos hmay, List.find?_cons_of_pos (by simpa using hen), hraised]
      rfl
    · rw [pendingWith_eq, if_neg hon] at hraised
      have hsame : MayPend (g.raise e.1 e.2 clock stream) clock stream ↔ MayPend g clock stream := by rw [hraised]; rfl
      by_cases hmay : MayPend g clock stream
      · have hoff : ¬(e.1 &&& g.trapEn ≠ 0) := fun h => hon ⟨h, hmay⟩
        rw [if_pos (hsame.2 hmay), if_pos hmay, List.find?_cons_of_neg (by simpa using hoff), hraised]
      · rw [if_neg (hsame.not.2 hmay), if_neg hmay, hraised]

theorem raises_fpflags (l : List (Flags × Dword)) (g : Group) (clock stream : Nat) :
    (l.foldl (fun a e => a.raise e.1 e.2 clock stream) g).fpflags = g.fpflags ||| orFlags (l.map (fun e => e.1)) := by
  obtain ⟨pd, fs, h⟩ := raises_fields l g clock stream
  rw [h, ← foldl_orFlags, List.foldl_map]

/-- The flags of a thread pass to its group (03 R82, R83). -/
theorem gather_raises {g : Group} {th : Thread} {n : Nat} (h : g.threads[n]? = some th) (clock stream : Nat) :
    (g.gather clock n stream).fpflags = (th.raised.foldl (fun a e => a.raise e.1 e.2 clock stream) g).fpflags
    ∧ (g.gather clock n stream).fpPending = (th.raised.foldl (fun a e => a.raise e.1 e.2 clock stream) g).fpPending := by
  unfold Group.gather
  rw [h]
  dsimp only
  split
  next hnone =>
    rw [List.isEmpty_iff.1 hnone]
    exact ⟨rfl, rfl⟩
  next =>
    classical
    exact ⟨by rw [raises_fpflags, raises_fpflags], by rw [raises_pending, raises_pending]; rfl⟩

/-- The counter of a rounded element is its place and its number, side by side (03 R80). -/
theorem counter_eq (e : Env) (t : Thread) (k : Nat) : e.counter t k = BitVec.ofNat 32 (e.grp.gidx * 1024 + e.tid) ++ (t.sq + BitVec.ofNat 32 k) := by
  apply BitVec.eq_of_toNat_eq
  have hlow : (t.sq + BitVec.ofNat 32 k).toNat = (t.sq.toNat + k) % 2 ^ 32 := by simp [BitVec.toNat_add]
  unfold Env.counter
  rw [BitVec.toNat_append, hlow, BitVec.toNat_ofNat, BitVec.toNat_ofNat, ← Nat.shiftLeft_add_eq_or_of_lt (Nat.mod_lt _ (by decide))]
  refine Nat.mod_eq_of_lt ?_
  have hhigh := Nat.mod_lt (e.grp.gidx * 1024 + e.tid) (show 2 ^ 32 > 0 by decide)
  have hlow := Nat.mod_lt (t.sq.toNat + k) (show 2 ^ 32 > 0 by decide)
  rw [Nat.shiftLeft_eq]
  omega

theorem mode_eq_roundMode (e : Env) (t : Thread) (field k : Nat) : e.mode t field k = e.grp.roundMode e.tid t field k := by
  unfold Env.mode Group.roundMode Env.modeCode
  rewrite [counter_eq]
  rfl

theorem advance_eq (e : Env) (t : Thread) (field n : Nat) : e.advance t field n = { t with sq := t.sq + BitVec.ofNat 32 (if e.grp.stochastic field then n else 0) } := by
  unfold Env.advance Group.stochastic Env.modeCode
  by_cases h : (if field = 0 then e.grp.fpround.toNat else field - 1) = 4 <;> simp [h]

/-- The rounded element-wise words of A and B (08 R174): the values, the flags and the rounding sequence. -/
theorem floatOp_setsFloat {i : Instr} {w : F0} {sh : Shape} {op : Fmt → Mode → Nat → Nat → FRes} (hs : shape0 i = some (w, sh)) (ha : sh.a = .vecQ) (hb : sh.b = .vecQ)
    (he : endsDispatch i = false) (hc : closesFirst i = false) (hx : ∀ s, exec i s = .next (floatOp i w s (fun f m a b _ => op f m a b))) :
    SetsFloat i w.d (fun g l t => perElem w.ty (fun k => op (arithFmt w.ty) (g.roundMode l.2 t (lo3 w.x) k) (elemOf w.ty (t.sourceA w) k) (elemOf w.ty (t.sourceB w) k)))
      (fun g _ => if g.stochastic (lo3 w.x) then elems w.ty else 0) := by
  refine computes_of hx he hc _ _ (fun s iss g l t G ths _ hregion hreads => ?_) (fun _ _ _ _ => ⟨rfl, rfl, rfl, rfl⟩)
  simp only [fa_live _ hs ha hreads, fb_live _ hs hb hreads, mode_eq_roundMode, advance_eq]
  exact congrArg (fun u => LocalOut.ok u _ none) (write_eq _ _ _ hregion)

theorem fadd_setsFloat (w : F0) : SetsFloat (.fadd w) w.d (fun g l t => perElem w.ty (fun k => fadd (arithFmt w.ty) (g.roundMode l.2 t (lo3 w.x) k) (elemOf w.ty (t.sourceA w) k) (elemOf w.ty (t.sourceB w) k)))
    (fun g _ => if g.stochastic (lo3 w.x) then elems w.ty else 0) := floatOp_setsFloat (i := .fadd w) rfl rfl rfl rfl rfl (fun _ => rfl)

/-- What a word that changes its threads alone leaves of its group's flags and pending exception. -/
theorem gives_fp {s s' : State} {iss : Issue} {g : Group} {i : Instr} {next : Nat × Nat → Thread → Thread} {flags : Nat × Nat → Thread → Flags} (h : Gives s s' iss g i next flags) :
    (s'.group? iss.grp).map (fun x => (x.fpflags, x.fpPending)) = some (g.fpflags ||| g.raisedOver iss i flags, (g.pendingWith (g.raisedOver iss i flags) iss.pc (s.clock g.core) iss.stream).1) := by
  obtain ⟨x, hx, hflags⟩ := Option.map_eq_some_iff.1 h.flags
  have hpending := h.pending
  rw [hx, Option.map_some, Option.some.injEq] at hpending
  rw [hx, Option.map_some, hflags, ← hpending]

/-! ### A result that lands, a command that completes -/

variable {s : State} {g : Group}

/-- Flags gathered from one thread of a group, all raised at one address. -/
theorem gatherFlags_fp {gid n stream : Nat} {t : Thread} {pc : Dword} (hg : s.group? gid = some g) (ht : g.threads[n]? = some t) (hpc : ∀ e ∈ t.raised, e.2 = pc) :
    ((s.gatherFlags gid [n] stream).group? gid).map (fun x => (x.fpflags, x.fpPending, x.fpStream)) = some (g.fpflags ||| raisedBy t, g.pendingWith (raisedBy t) pc (s.clock g.core) stream) := by
  have hpending := gather_pending g (s.clock g.core) n stream pc (fun x hx => by rw [ht] at hx; obtain rfl := Option.some.inj hx; exact hpc)
  obtain ⟨pd, fs, hfields⟩ := gather_fields g (s.clock g.core) n stream
  unfold State.gatherFlags
  rw [group?_modGroup_same hg]
  rw [ht] at hpending hfields
  simp only [Option.map_some, Option.getD_some] at hpending hfields
  rw [List.foldl_cons, List.foldl_nil, Option.map_some, ← hpending, hfields]

/-- A held write that lands outside a region raises its flags with its word's address (03 R82). -/
theorem land_raises {t : Thread} {h : HeldWrite} (hheld : t.held = [h]) (hregion : t.region = none) (hraised : t.raised = []) (htag : h.tag = none) (hmore : h.more = []) (hcount : h.count ≤ 4) (hleft : h.left = 0) :
    let u := ({ t with held := modifyAt t.held 0 (fun x => { x with ready := true }) } : Thread).land
    raisedBy u = h.flags ∧ ∀ e ∈ u.raised, e.2 = h.at_ := by
  obtain ⟨-, hset, -⟩ := setMany_fields h.reg h.count h.value t
  have hland := land_one t hregion { h with ready := true } htag hmore hcount
  rw [if_pos ⟨hleft, rfl⟩] at hland
  have hu := congrArg Thread.raised hland
  intro u
  have hraise : u.raised = if h.flags = 0 then [] else [(h.flags, h.at_)] := by
    have hready : u = ({ t with held := [{ h with ready := true }] } : Thread).land := congrArg (fun l => ({ t with held := l } : Thread).land) (by rw [hheld]; rfl)
    rw [hready, hu]
    split
    · exact hset.trans hraised
    · rw [hraised]; rfl
  unfold raisedBy
  rw [hraise]
  split
  next hf => exact ⟨hf.symm, by simp⟩
  next => exact ⟨by simp, by simp⟩

end Sys2Proof.Proofs

/-! ### Faults that follow their word (03 R84) -/

namespace Sys2Proof.Proofs

open Sys2Proof.Machine Sys2Proof.Laws

section late

variable {i : Instr} {s e : State} {iss : Issue} {g : Group} {l : Nat × Nat} {t : Thread} {f : TFault}

/-- The word is still being issued, and its thread and its group's place in the device are what they were: what a fault that follows the word finds after the word's effect. -/
structure Undisturbed (iss : Issue) (g : Group) (l : Nat × Nat) (t : Thread) (e : State) : Prop where
  issue : e.issue = some iss
  group : ∃ x, e.group? iss.grp = some x ∧ x.threads[l.2]? = some t ∧ x.ctx = g.ctx ∧ x.gidx = g.gidx ∧ x.kern = g.kern

theorem undisturbed_of_issuesOne (h : s.IssuesOne iss g i l t) : Undisturbed iss g l t s := ⟨h.issue, g, h.group, h.thread, rfl, rfl, rfl⟩

/-- A ready thread retires as `Thread.after` says. -/
theorem retireWord_ready (hr : t.Ready i) (pc : Dword) : t.retireWord i true none pc = t.after i true (dstRegs i) pc := by
  obtain ⟨hafter, hraised⟩ := retireWord_plain t i true pc hr.landed hr.noRegion
  have hnone : (t.retireWord i true none pc).raised = [] := hraised.trans hr.unraised
  calc t.retireWord i true none pc = { t.retireWord i true none pc with raised := [] } := by rw [← hnone]
    _ = t.after i true (dstRegs i) pc := hafter

/-- Late faults that the end of an issue takes count as the state they leave. -/
theorem finishIssue_takes_late {s0 s1 : State} {late : List ((Nat × Nat) × TFault)} {held : Bool} {acted : List Nat}
    (hl : iss.lanes.filterMap (({ s := s0, faults := [], late := late, held := held, acted := acted } : LaneAcc).lateOf iss) = late)
    (hs : s0.takeFaults iss.core iss.grp iss.pc true late = s1) (h1 : ∀ l ∈ iss.lanes, ((s1.thread? iss.grp l.2).bind (fun t => t.late)) = none) :
    finishIssue iss { s := s0, faults := [], late := late, held := held, acted := acted } = finishIssue iss { s := s1, faults := [], late := [], held := held, acted := acted } := by
  unfold finishIssue
  simp only [takeFaults_nil, hl, hs, lateOf_none { s := s1, faults := [], late := [], held := held, acted := acted } iss _ rfl h1]

/-- The thread of such a fault: it has retired the word and waits after it for containment. -/
def lateStop (e : State) (iss : Issue) (i : Instr) (t : Thread) : Thread := (t.after i true (dstRegs i) iss.pc).blockAt .contain (iss.pc + 8) (e.clock iss.core)

/-- The record containment gets of it. -/
def lateFault (e : State) (iss : Issue) (g : Group) (l : Nat × Nat) (f : TFault) (pols : List (BitVec 28)) (qkey : Option Nat) (dead : Bool) : ContFault :=
  { record := { recordOf e iss g [l] 0 f with retry := 0 }, grp := some iss.grp, kern := some g.kern, tids := [l.2], after := true, level := 0, engine := false, pols := pols, qkey := qkey, dead := dead }

theorem setThread_of {x : Group} (hg : e.group? iss.grp = some x) (n : Nat) (u : Thread) : e.setThread iss.grp n u = e.setGroup iss.grp { x with threads := x.threads.set n u } :=
  modGroup_of _ hg

/-- A fault of the one thread a word is issued to is told with that word's pack. -/
theorem tellFault_lone {y : Group} (hissue : e.issue = some iss) (hone : iss.lanes = [l]) (hg : e.group? iss.grp = some y) (c : Nat) (hc : c = f.cause) :
    e.tellFault iss.core iss.grp [l.2] iss.pc c = { e with evbuf := e.evbuf ++ [faultEvent e iss y l f] } := by
  have hthread : e.thread? iss.grp l.2 = y.threads[l.2]? := by unfold State.thread?; rw [hg]; rfl
  unfold State.tellFault State.tell State.eventOf faultEvent
  simp [hissue, hone, hg, hthread, hc]

/-- A lone thread outside a region and a handler that meets such a fault is told of, waits after its instruction, and its record goes to containment. -/
theorem takeFault_lone {gid core lane n : Nat} {pc : Dword} {fs : List (Nat × TFault)} {y : Group} {u : Thread} (hg : e.group? gid = some y) (hu : y.threads[n]? = some u)
    (hregion : u.region = none) (hh : u.inHandler = false) (hroute : e.faultRoute y.ctx f = 0) (hclean : f.cause ≠ 0x16) :
    e.takeFault core gid [(lane, n)] pc fs f true = ((e.tellFault core gid [n] pc f.cause).modThread gid n (fun u => u.blockAt .contain (pc + 8) (e.clock core))).toContain y.ctx
      { record := e.faultRec y [(lane, n)] pc f 0, grp := some gid, kern := some y.kern, tids := [n], after := true, level := 0, engine := false } := by
  have hmod (b : State) (k : Thread → Thread) : b.modThreads gid [n] k = b.modThread gid n k := rfl
  unfold State.takeFault
  simp [hg, hroute, hu, hh, hregion, State.notePoison, hclean, hmod]

/-- At the word being issued, what that leaves is `faulted`. -/
theorem takeFault_late {y : Group} {u : Thread} (hissue : e.issue = some iss) (hone : iss.lanes = [l]) (hg : e.group? iss.grp = some y) (hu : y.threads[l.2]? = some u)
    (hregion : u.region = none) (hh : u.inHandler = false) (hroute : e.faultRoute y.ctx f = 0) (hclean : f.cause ≠ 0x16) :
    ∃ pols qkey dead, e.takeFault iss.core iss.grp [l] iss.pc [(l.2, f)] f true = faulted e iss y l (u.blockAt .contain (iss.pc + 8) (e.clock iss.core))
      { record := e.faultRec y [l] iss.pc f 0, grp := some iss.grp, kern := some y.kern, tids := [l.2], after := true, level := 0, engine := false, pols := pols, qkey := qkey, dead := dead } f := by
  have hgroup : ({ e with evbuf := e.evbuf ++ [faultEvent e iss y l f] } : State).group? iss.grp = some y := hg
  have hthread : ({ e with evbuf := e.evbuf ++ [faultEvent e iss y l f] } : State).thread? iss.grp l.2 = some u := by
    unfold State.thread?
    rw [hgroup]
    exact hu
  rw [takeFault_lone hg hu hregion hh hroute hclean, tellFault_lone hissue hone hg _ rfl, modThread_of _ _ _ _ _ hthread, setThread_of hgroup]
  exact ⟨_, _, _, rfl⟩

/-- The record of the retired thread's fault: its address is the word's, and its retry count is 0. -/
theorem faultRec_late {x : Group} (ht : x.threads[l.2]? = some t) :
    e.faultRec { x with threads := x.threads.set l.2 (t.after i true (dstRegs i) iss.pc) } [l] iss.pc f 0 = { recordOf e iss x [l] 0 f with retry := 0 } := by
  have hset : (x.threads.set l.2 (t.after i true (dstRegs i) iss.pc))[l.2]? = some (t.after i true (dstRegs i) iss.pc) := List.getElem?_set_self (List.getElem?_eq_some_iff.1 ht).1
  unfold State.faultRec recordOf
  simp only [List.headD_cons, hset, ht, Option.map_some, Option.getD_some]
  simp [Thread.after, Thread.regtop]

theorem takeFaults_late {x : Group} (hissue : e.issue = some iss) (hone : iss.lanes = [l]) (hg : e.group? iss.grp = some x) (ht : x.threads[l.2]? = some t) (hr : t.Ready i)
    (hh : t.inHandler = false) (hroute : e.faultRoute x.ctx f = 0) (hclean : f.cause ≠ 0x16) :
    ∃ pols qkey dead, (e.modThread iss.grp l.2 (fun x => x.retireWord i true none iss.pc)).takeFaults iss.core iss.grp iss.pc true [(l, f)]
      = faulted e iss x l (lateStop e iss i t) (lateFault e iss x l f pols qkey dead) f := by
  have hthread : e.thread? iss.grp l.2 = some t := by unfold State.thread?; rw [hg]; exact ht
  have hset : (x.threads.set l.2 (t.after i true (dstRegs i) iss.pc))[l.2]? = some (t.after i true (dstRegs i) iss.pc) := List.getElem?_set_self (List.getElem?_eq_some_iff.1 ht).1
  have hsingle (b : State) : b.takeFaults iss.core iss.grp iss.pc true [(l, f)] = b.takeFault iss.core iss.grp [l] iss.pc [(l.2, f)] f true := by
    simp [State.takeFaults, distinct]
  rw [hsingle, modThread_of _ _ _ _ _ hthread, retireWord_ready hr, setThread_of hg]
  obtain ⟨pols, qkey, dead, htake⟩ := takeFault_late (e := e.setGroup iss.grp { x with threads := x.threads.set l.2 (t.after i true (dstRegs i) iss.pc) }) (f := f)
    hissue hone (group?_setGroup_same ..) hset hr.noRegion hh hroute hclean
  refine ⟨pols, qkey, dead, htake.trans ?_⟩
  have hevent : faultEvent (e.setGroup iss.grp { x with threads := x.threads.set l.2 (t.after i true (dstRegs i) iss.pc) }) iss { x with threads := x.threads.set l.2 (t.after i true (dstRegs i) iss.pc) } l f
      = faultEvent e iss x l f := by
    unfold faultEvent
    simp only [hset, ht]
    rfl
  have hrecord := faultRec_late (e := e) (iss := iss) (i := i) (f := f) ht
  unfold faulted lateFault lateStop
  rw [hevent, ← hrecord]
  simp only [State.setGroup, putKey_putKey, List.set_set]
  rfl

/-- The end of an issue that left one thread as `u` at a late fault, with `c` for containment. -/
theorem faultAfter_end {x : Group} (hone : iss.lanes = [l]) (hg : e.group? iss.grp = some x) (ht : x.threads[l.2]? = some t) (hr : t.Ready i) (hctx : x.ctx = g.ctx) (hgidx : x.gidx = g.gidx) (hkern : x.kern = g.kern)
    (hgt : g.threads[l.2]? = some t)
    {pols : List (BitVec 28)} {qkey : Option Nat} {dead : Bool} {acted : List Nat} :
    FaultAfter e ((finishIssue iss { s := faulted e iss x l (lateStop e iss i t) (lateFault e iss x l f pols qkey dead) f, faults := [], late := [], held := false, acted := acted }).afterWord i iss) iss g i l t f := by
  have hlt : l.2 < x.threads.length := (List.getElem?_eq_some_iff.1 ht).1
  have hset : (x.threads.set l.2 (lateStop e iss i t))[l.2]? = some (lateStop e iss i t) := List.getElem?_set_self hlt
  have hlate : (lateStop e iss i t).late = none := hr.onTime
  obtain ⟨G, C, hend, others, ⟨ths, pd, fs, tab, ovl, y, jn, group, -, hths, hpend⟩, cores, core⟩ :=
    afterWord_quiet i iss { s := faulted e iss x l (lateStop e iss i t) (lateFault e iss x l f pols qkey dead) f, faults := [], late := [], held := false, acted := acted } _ rfl rfl
      (group?_faulted _ _) (by simp [hone]) (by simp [hone, hset, hlate])
  have hraised : (lateStop e iss i t).raised = [] := rfl
  have hflags : orFlags (iss.lanes.map (fun l' => (((x.threads.set l.2 (lateStop e iss i t))[l'.2]?).map raisedBy).getD 0)) = 0 := by
    simp [hone, hset, raisedBy, hraised, orFlags]
  have hpd := hpend (by simp [hone, hset, hraised])
  rw [hflags] at hpd group
  obtain ⟨rfl, rfl⟩ := Prod.mk.inj (hpd.trans (pendingWith_zero ..))
  have hevent : faultEvent e iss x l f = faultEvent e iss g l f := by
    unfold faultEvent
    rw [hctx, hgidx, hkern, ht, hgt]
  have hrecord : recordOf e iss x [l] 0 f = recordOf e iss g [l] 0 f := by
    unfold recordOf
    simp only [hctx, hgidx, hkern, ht, hgt, List.headD_cons]
  have hctxs (k : Nat) := ctx_faulted (s := e) (iss := iss) (g := x) (l := l) (f := f) (lateStop e iss i t) (lateFault e iss x l f pols qkey dead) k
  rw [hend]
  refine ⟨⟨G, C, _, by rw [← hevent]; rfl⟩, fun k hk => ?_, ?_, fun y hy => ?_, fun k hk => ?_, ⟨pols, qkey, dead, ?_⟩, cores, core⟩
  · exact (others k hk).trans (lookKey_putKey_ne (Ne.symm hk) _ _)
  · show (lookKey iss.grp G).bind _ = _
    rw [group, Option.bind_some]
    refine (hths l.2).trans ?_
    rw [if_pos (by simp [hone]), hset]
    rfl
  · obtain rfl : x = y := Option.some.inj (hg.symm.trans hy)
    exact ⟨ths, tab, ovl, _, jn, group.trans (by rw [show x.fpflags ||| (0 : Flags) = x.fpflags from BitVec.or_zero])⟩
  · exact (hctxs k).trans (if_neg (by rw [hctx]; exact Ne.symm hk))
  · refine (hctxs g.ctx).trans ?_
    rw [if_pos hctx, hctx]
    unfold lateFault
    rw [hrecord, hkern]

/-- A fault that follows a word, wherever the word's effect `e` has left its thread as it was. -/
theorem Undisturbed.faultAfter (he : Undisturbed iss g l t e) (hone : iss.lanes = [l]) (hgt : g.threads[l.2]? = some t) (hr : t.Ready i) (hh : t.inHandler = false)
    (hroute : e.faultRoute g.ctx f = 0) (hclean : f.cause ≠ 0x16) :
    FaultAfter e ((finishIssue iss (({ s := e, faults := [], late := [], held := false, acted := [] } : LaneAcc).settle i iss l (.late e f))).afterWord i iss) iss g i l t f := by
  obtain ⟨hissue, x, hg, ht, hctx, hgidx, hkern⟩ := he
  obtain ⟨pols, qkey, dead, htake⟩ := takeFaults_late (i := i) hissue hone hg ht hr hh (by rw [hctx]; exact hroute) hclean
  have hset : (x.threads.set l.2 (lateStop e iss i t))[l.2]? = some (lateStop e iss i t) := List.getElem?_set_self (List.getElem?_eq_some_iff.1 ht).1
  have hlate : ((faulted e iss x l (lateStop e iss i t) (lateFault e iss x l f pols qkey dead) f).thread? iss.grp l.2).bind (fun t => t.late) = none := by
    unfold State.thread?
    rw [group?_faulted, Option.bind_some, hset]
    exact hr.onTime
  have hend := finishIssue_takes_late (iss := iss) (held := false) (acted := [l.2]) (by simp [hone, LaneAcc.lateOf]) htake (by simpa [hone] using hlate)
  exact congrArg (fun a : State => a.afterWord i iss) hend ▸ faultAfter_end hone hg ht hr hctx hgidx hkern hgt

/-- The law of a fault that follows its word, of a pack of one thread. -/
theorem faultsAfter_of_late {body : Issue → Nat → State → Turnout} (hx : exec i s = .next (runWord i s body)) (hc : closesFirst i = false) (h : s.IssuesOne iss g i l t) (hh : t.inHandler = false)
    (hb : body iss l.2 s = .late e f) (he : Undisturbed iss g l t e) (hroute : e.faultRoute g.ctx f = 0) (hclean : f.cause ≠ 0x16) : FaultsAfter s iss g i l t e f := by
  refine ⟨_, hx, ?_⟩
  rw [runWord_one hc h body, hb]
  exact he.faultAfter h.one h.thread (IssuesOne_ready h) hh hroute hclean

/-- A state with other dispatches on the core that issues has the same fault after it. -/
theorem faultAfter_of_streams {s' e' : State} (h : FaultAfter e' s' iss g i l t f) (he : ∃ C, e' = { e with cores := C }) (hcores : ∀ c, c ≠ iss.core → e'.core c = e.core c)
    (hcore : ∃ st, e'.core iss.core = { e.core iss.core with streams := st }) : FaultAfter e s' iss g i l t f := by
  obtain ⟨C, rfl⟩ := he
  obtain ⟨⟨G, C', X, hdevice⟩, others, thread, group, ctxs, record, cores, ⟨st, core⟩⟩ := h
  obtain ⟨st', hst⟩ := hcore
  exact ⟨⟨G, C', X, hdevice⟩, others, thread, group, ctxs, record, fun c hc => (cores c hc).trans (hcores c hc), ⟨st, core.trans (by rw [hst])⟩⟩

/-- The pending exception of a group is no longer pending once it is delivered (03 R83). -/
def delivered (e : State) (grp : Nat) (a : Dword) : State := e.modGroup grp (fun x => { x with fpPending := if x.fpPending.map (fun p => p.1) = some a then none else x.fpPending })

theorem deliverFp_streams (e : State) (iss : Issue) (a : Dword) :
    (∃ C, e.deliverFp iss a = { delivered e iss.grp a with cores := C }) ∧ (∀ c, c ≠ iss.core → (e.deliverFp iss a).core c = (delivered e iss.grp a).core c)
    ∧ ∃ st, (e.deliverFp iss a).core iss.core = { (delivered e iss.grp a).core iss.core with streams := st } :=
  ⟨⟨_, rfl⟩, fun _ hc => core_setCore_ne _ _ (Ne.symm hc), ⟨_, core_setCore_same ..⟩⟩

/-- A change of groups that leaves the thread and the place of the issuing group alone leaves `Undisturbed`. -/
theorem Undisturbed.modGroup (he : Undisturbed iss g l t e) {k : Nat} {F : Group → Group}
    (hF : ∀ x, e.group? k = some x → k = iss.grp → x.threads[l.2]? = some t → (F x).threads[l.2]? = some t ∧ (F x).ctx = x.ctx ∧ (F x).gidx = x.gidx ∧ (F x).kern = x.kern) : Undisturbed iss g l t (e.modGroup k F) := by
  obtain ⟨hissue, x, hg, ht, hctx, hgidx, hkern⟩ := he
  refine ⟨(modGroup_issue ..).trans hissue, ?_⟩
  by_cases hk : k = iss.grp
  · subst hk
    obtain ⟨ht', hctx', hgidx', hkern'⟩ := hF x hg rfl ht
    exact ⟨F x, group?_modGroup_same hg, ht', hctx'.trans hctx, hgidx'.trans hgidx, hkern'.trans hkern⟩
  · exact ⟨x, by rw [group?_modGroup, if_neg hk, hg], ht, hctx, hgidx, hkern⟩

theorem Undisturbed.delivered (he : Undisturbed iss g l t e) (k : Nat) (a : Dword) : Undisturbed iss g l t (delivered e k a) :=
  he.modGroup fun _ _ _ ht => ⟨ht, rfl, rfl, rfl⟩

/-- A change that leaves the issue and the groups leaves `Undisturbed`. -/
theorem Undisturbed.of_groups (he : Undisturbed iss g l t e) {e' : State} (hissue : e'.issue = e.issue) (hgroups : e'.groups = e.groups) : Undisturbed iss g l t e' := by
  obtain ⟨hi, x, hg, rest⟩ := he
  refine ⟨hissue.trans hi, x, ?_, rest⟩
  unfold State.group?
  rw [hgroups]
  exact hg

/-- The law of delivery (03 R83, R84): a delivery point with the exception `a` pending is followed by its fault. -/
theorem faultsAfter_of_fp {body : Issue → Nat → State → Turnout} {a : Dword} (hx : exec i s = .next (runWord i s body)) (hc : closesFirst i = false) (h : s.IssuesOne iss g i l t) (hh : t.inHandler = false)
    (hb : body iss l.2 s = .late (e.deliverFp iss a) (fpFault g a)) (he : Undisturbed iss g l t e) :
    FaultsAfter s iss g i l t (Proofs.delivered e iss.grp a) (.plain 0x30 a (g.fpflags.setWidth 64)) := by
  obtain ⟨hstate, hcores, hcore⟩ := deliverFp_streams e iss a
  have hlate : Undisturbed iss g l t (e.deliverFp iss a) := by
    obtain ⟨C, hC⟩ := hstate
    rw [hC]
    exact (he.delivered iss.grp a).of_groups rfl rfl
  obtain ⟨s', hs, hafter⟩ := faultsAfter_of_late hx hc h hh hb hlate rfl (show 0x30 ≠ 0x16 by decide)
  exact ⟨s', hs, faultAfter_of_streams hafter hstate hcores hcore⟩

end late

end Sys2Proof.Proofs

/-! ### What a word's effect leaves of the group that issues -/

namespace Sys2Proof.Proofs

open Sys2Proof.Machine Sys2Proof.Laws

section effects

variable {s e : State} {iss : Issue} {g : Group} {l : Nat × Nat} {t : Thread}

/-- The word being issued and every group are as they were. -/
def GroupsKept (s e : State) : Prop := e.issue = s.issue ∧ e.groups = s.groups

theorem GroupsKept.trans {a b c : State} (h : GroupsKept a b) (k : GroupsKept b c) : GroupsKept a c := ⟨k.1.trans h.1, k.2.trans h.2⟩

theorem groupsKept_foldl {α : Type} (xs : List α) (f : State → α → State) (hf : ∀ a x, GroupsKept a (f a x)) (s : State) : GroupsKept s (xs.foldl f s) :=
  foldl_inv (fun a => GroupsKept s a) xs (fun a x h => GroupsKept.trans h (hf a x)) ⟨rfl, rfl⟩

theorem Undisturbed.kept (he : Undisturbed iss g l t s) (h : GroupsKept s e) : Undisturbed iss g l t e := he.of_groups h.1 h.2

theorem performWrite_kept (die phys : Nat) (bs : List Byte) : GroupsKept s (s.performWrite die phys bs) := by
  unfold State.performWrite State.dirWrite State.dirSet State.countFrame
  dsimp only
  split <;> exact ⟨rfl, rfl⟩

theorem drainEntry_kept (core : Nat) (x : WqEntry) (scope : Nat) : GroupsKept s (s.drainEntry core x scope) := by
  unfold State.drainEntry
  extract_lets bs s0 s1
  have h0 : GroupsKept s s0 := performWrite_kept ..
  have h1 : GroupsKept s s1 := by
    unfold s1
    split <;> exact h0
  exact h1

theorem drainAt_kept {core : Nat} {f : WqEntry → Option Nat} (h : s.drainAt core f = some e) : GroupsKept s e := by
  unfold State.drainAt at h
  extract_lets all s1 at h
  split at h
  · cases h
  · cases h
    refine groupsKept_foldl all _ (fun a x => ?_) s
    split
    · exact drainEntry_kept ..
    · exact ⟨rfl, rfl⟩

theorem drainThread_kept {core k n scope : Nat} (h : s.drainThread core k n scope = some e) : GroupsKept s e := GroupsKept.trans (b := s.widenTo _) ⟨rfl, rfl⟩ (drainAt_kept h)

theorem release_kept {core k n : Nat} {rs : List Bound} (h : s.release core k n rs = some e) : GroupsKept s e := by
  unfold State.release at h
  split at h
  · cases h
    exact ⟨rfl, rfl⟩
  · exact GroupsKept.trans (b := s.widenBound k n rs) ⟨rfl, rfl⟩ (drainAt_kept h)

theorem barAcquire_kept (core ctx : Nat) (rs : List Bound) (glob : Bool) : GroupsKept s (s.barAcquire core ctx rs glob) := by
  have hacq : GroupsKept s (s.acquire core ctx rs) := groupsKept_foldl rs (fun a r => a.l1Range core ctx r.base r.len) (fun _ _ => ⟨rfl, rfl⟩) s
  unfold State.barAcquire
  dsimp only
  split <;> exact hacq

/-! Faults of other threads, and wakes. -/

/-- The thread is another one than the word's. -/
def Another (iss : Issue) (l : Nat × Nat) (k n : Nat) : Prop := ¬(k = iss.grp ∧ n = l.2)

theorem Undisturbed.modThread (he : Undisturbed iss g l t e) {k n : Nat} (h : Another iss l k n) (F : Thread → Thread) : Undisturbed iss g l t (e.modThread k n F) := by
  refine he.modGroup fun x hx hk ht => ⟨?_, rfl, rfl, rfl⟩
  rw [getElem?_modifyAt, if_neg (fun hn => h ⟨hk, hn⟩)]
  exact ht

theorem Undisturbed.setThread (he : Undisturbed iss g l t e) {k n : Nat} (h : Another iss l k n) (u : Thread) : Undisturbed iss g l t (e.setThread k n u) := by
  refine he.modGroup fun x hx hk ht => ⟨?_, rfl, rfl, rfl⟩
  rw [List.getElem?_set, if_neg (fun hn => h ⟨hk, hn⟩)]
  exact ht

theorem Undisturbed.modThreads (he : Undisturbed iss g l t e) {k : Nat} {ns : List Nat} (h : ∀ n ∈ ns, Another iss l k n) (F : Thread → Thread) : Undisturbed iss g l t (e.modThreads k ns F) :=
  List.foldlRecOn ns _ he fun _ ha n hn => ha.modThread (h n hn) F

theorem Undisturbed.abortRegion (he : Undisturbed iss g l t e) {k n : Nat} (h : Another iss l k n) (cause detail code : Nat) : Undisturbed iss g l t (e.abortRegion k n cause detail code) := by
  unfold State.abortRegion
  split
  · split
    · exact he
    · split
      · exact he
      · exact (he.setThread h _).of_groups rfl rfl
  · exact he

theorem tellFault_kept (core k : Nat) (hit : List Nat) (pc : Dword) (cause : Nat) : GroupsKept s (s.tellFault core k hit pc cause) := ⟨rfl, rfl⟩

theorem Undisturbed.failHandler (he : Undisturbed iss g l t e) {k : Nat} {ns : List Nat} (h : ∀ n ∈ ns, Another iss l k n) : Undisturbed iss g l t (e.failHandler k ns) := by
  unfold State.failHandler
  split
  · exact he
  · extract_lets restore hs s1
    have h1 : Undisturbed iss g l t s1 := he.modThreads h restore
    clear_value hs
    split
    · exact h1
    · exact h1.of_groups rfl rfl

/-- A thread outside handler mode is in no activation's peers. -/
theorem handlerPeers_another (he : Undisturbed iss g l t e) (hh : t.inHandler = false) (core k : Nat) (ns : List Nat) : ∀ n ∈ e.handlerPeers core k ns, Another iss l k n := by
  rintro n hn ⟨rfl, rfl⟩
  obtain ⟨-, x, hg, ht, -⟩ := he
  have hthread : e.thread? iss.grp l.2 = some t := by unfold State.thread?; rw [hg]; exact ht
  unfold State.handlerPeers at hn
  obtain ⟨st, -, hst⟩ := List.mem_flatMap.1 hn
  split at hst
  · dsimp only at hst
    split at hst
    · simp [hthread, hh] at hst
    · simp at hst
  · simp at hst

theorem pendFault_kept (ctx va cause access : Nat) (r : FaultRec) (p : Option FPack) : GroupsKept s (s.pendFault ctx va cause access r p) := by
  unfold State.pendFault
  split
  · split <;> exact ⟨rfl, rfl⟩
  · exact ⟨rfl, rfl⟩

theorem notePoison_kept (ctx : Nat) (f : TFault) : GroupsKept s (s.notePoison ctx f) := by
  unfold State.notePoison State.poisonAt
  split
  · split
    · split <;> exact ⟨rfl, rfl⟩
    · exact ⟨rfl, rfl⟩
  · exact ⟨rfl, rfl⟩

theorem Undisturbed.takeFault (he : Undisturbed iss g l t e) (hh : t.inHandler = false) {k : Nat} {lanes : List (Nat × Nat)} (h : ∀ m ∈ lanes, Another iss l k m.2)
    (core : Nat) (pc : Dword) (fs : List (Nat × TFault)) (f : TFault) (after : Bool) : Undisturbed iss g l t (e.takeFault core k lanes pc fs f after) := by
  unfold State.takeFault
  split
  · exact he
  next y hy =>
    extract_lets inRegion inHandler hand rest route regs out halt clock s0 s1 s2 all record at_ tids s3
    have hregs : ∀ m ∈ regs, Another iss l k m.2 := fun m hm => h m (List.mem_of_mem_filter (List.mem_of_mem_filter hm))
    have hout : ∀ m ∈ out, Another iss l k m.2 := fun m hm => h m (List.mem_of_mem_filter (List.mem_of_mem_filter hm))
    have htids : ∀ n ∈ tids, Another iss l k n := by
      intro n hn
      obtain ⟨m, hm, rfl⟩ := List.mem_map.1 hn
      exact hout m hm
    have h0 : Undisturbed iss g l t s0 := List.foldlRecOn regs _ he fun a ha m hm => by
      split <;> exact ha.abortRegion (hregs m hm) _ _ _
    have h1 : Undisturbed iss g l t s1 := by
      unfold s1
      split
      · refine h0.modThreads (fun n hn => ?_) _
        obtain ⟨m, hm, rfl⟩ := List.mem_map.1 hn
        exact hregs m hm
      · exact h0
    have h2 : Undisturbed iss g l t s2 := by
      unfold s2
      split
      · exact h1
      · exact h1.failHandler (handlerPeers_another h1 hh _ _ _)
    have h3 : Undisturbed iss g l t s3 := (h2.kept (tellFault_kept ..)).kept (notePoison_kept ..)
    split
    · exact h2
    · split
      · exact (h3.modThreads htids _).kept (pendFault_kept ..)
      · split
        · exact (List.foldlRecOn (motive := Undisturbed iss g l t) out _ h3 fun a ha m hm => ha.modThread (hout m hm) _).of_groups rfl rfl
        · split <;> exact (h3.modThreads htids _).of_groups rfl rfl

end effects

end Sys2Proof.Proofs

namespace Sys2Proof.Proofs

open Sys2Proof.Machine Sys2Proof.Laws

section wakes

variable {s e : State} {iss : Issue} {g : Group} {l : Nat × Nat} {t : Thread}

theorem Undisturbed.deliverFp (he : Undisturbed iss g l t e) (i : Issue) (a : Dword) : Undisturbed iss g l t (e.deliverFp i a) := (he.delivered i.grp a).of_groups rfl rfl

theorem Undisturbed.waitFaults (he : Undisturbed iss g l t e) (hh : t.inHandler = false) {k : Nat} {ws : List (Nat × Thread)} (h : ∀ w ∈ ws, Another iss l k w.1) (core : Nat) (f : TFault) :
    Undisturbed iss g l t (e.waitFaults core k ws f) := by
  unfold State.waitFaults
  extract_lets now mine s1 rest
  have h1 : Undisturbed iss g l t s1 := List.foldlRecOn (ws.filter mine) _ he fun a ha w hw => ha.modThread (h w (List.mem_of_mem_filter hw)) _
  refine List.foldlRecOn _ _ h1 fun a ha w _ => ha.takeFault hh (fun m hm => ?_) _ _ _ _ _
  obtain ⟨u, hu, rfl⟩ := List.mem_map.1 hm
  exact h u (List.mem_of_mem_filter (List.mem_of_mem_filter hu))

theorem Undisturbed.wakeThreads (he : Undisturbed iss g l t e) {k : Nat} {ws : List (Nat × Thread)} (h : ∀ w ∈ ws, Another iss l k w.1) (core : Nat) : Undisturbed iss g l t (e.wakeThreads core k ws) :=
  List.foldlRecOn ws _ he fun _ ha w hw => ha.modThread (h w hw) _

theorem Undisturbed.deliverWaits (he : Undisturbed iss g l t e) (hh : t.inHandler = false) {k : Nat} {ws : List (Nat × Thread)} (h : ∀ w ∈ ws, Another iss l k w.1) (y : Group) (own : Option (Nat × Dword)) :
    Undisturbed iss g l t (e.deliverWaits y k ws own) := by
  unfold State.deliverWaits
  split
  · exact he
  next w0 ws' =>
    split
    · exact he.wakeThreads h _
    · extract_lets at_ hit s1
      have h1 : Undisturbed iss g l t s1 := by
        unfold s1
        split
        · exact he.deliverFp _ _
        · exact he.modGroup fun _ _ _ ht => ⟨ht, rfl, rfl, rfl⟩
      split
      · exact he.wakeThreads h _
      · exact (h1.waitFaults hh (fun w hw => h w (List.mem_of_mem_filter hw)) _ _).wakeThreads (fun w hw => h w (List.mem_of_mem_filter hw)) _

/-- Threads of a group that wait at a barrier, with their numbers. -/
theorem waits_another (he : Undisturbed iss g l t e) (hrun : t.cond = .running) {k : Nat} {y : Group} (hy : e.group? k = some y) (p : Nat × Thread → Bool) (hp : ∀ w, p w = true → w.2.cond ≠ .running) :
    ∀ w ∈ (y.threads.zipIdx.map (fun x => (x.2, x.1))).filter p, Another iss l k w.1 := by
  rintro w hw ⟨rfl, hn⟩
  obtain ⟨hmem, hpw⟩ := List.mem_filter.1 hw
  obtain ⟨⟨u, n⟩, hz, rfl⟩ := List.mem_map.1 hmem
  have hu : y.threads[n]? = some u := List.mem_zipIdx_iff_getElem?.1 hz
  obtain ⟨-, x, hg, ht, -⟩ := he
  obtain rfl : x = y := Option.some.inj (hg.symm.trans hy)
  obtain rfl : n = l.2 := hn
  obtain rfl : t = u := Option.some.inj (ht.symm.trans hu)
  exact hp _ hpw hrun

theorem Undisturbed.wakeGroup (he : Undisturbed iss g l t e) (hrun : t.cond = .running) (hh : t.inHandler = false) (k : Nat) (tok : Word) (ovf glob : Bool) (extra : Dword) (own : Option (Nat × Dword)) :
    Undisturbed iss g l t (e.wakeGroup k tok ovf glob extra own) := by
  unfold State.wakeGroup
  split
  · exact he
  next y hy =>
    extract_lets ws s1
    have hws : ∀ w ∈ ws, Another iss l k w.1 := waits_another he hrun hy _ fun w hw => by
      have hcond := (of_decide_eq_true hw).1
      rw [hcond]
      exact Cond.noConfusion
    have h1 : Undisturbed iss g l t s1 := he.kept (barAcquire_kept ..)
    split
    · exact he
    · split
      · exact List.foldlRecOn ws _ he fun _ ha w hw => ha.modThread (hws w hw) _
      · split
        · exact h1.waitFaults hh hws _ _
        · exact h1.deliverWaits hh hws _ _

theorem Undisturbed.setBar (he : Undisturbed iss g l t e) (o : Owner) (code : Nat) (b : Barrier) : Undisturbed iss g l t (e.setBar o code b) := by
  unfold State.setBar
  split
  · exact he.modGroup fun _ _ _ ht => ⟨ht, rfl, rfl, rfl⟩
  · exact he.of_groups (modGang_issue ..) (modGang_groups ..)
  · exact he.of_groups (modKern_issue ..) (modKern_groups ..)
  · exact he.of_groups (modKern_issue ..) (modKern_groups ..)
  · exact he

/-- A barrier's event wakes waiting threads alone. -/
theorem Undisturbed.barEvent (he : Undisturbed iss g l t e) (hrun : t.cond = .running) (hh : t.inHandler = false) (o : Owner) (code : Nat) (b : Barrier) (r : Barrier × Option Bool) (own : Option (Nat × Dword)) :
    Undisturbed iss g l t (e.barEvent o code b r own) := by
  unfold State.barEvent
  extract_lets s1
  have h1 : Undisturbed iss g l t s1 := he.setBar o code r.1
  split
  · exact h1
  · exact List.foldlRecOn _ _ h1 fun _ ha k _ => ha.wakeGroup hrun hh _ _ _ _ _ _

end wakes

section delivery

variable {w : F0} {s e : State} {iss : Issue} {g : Group} {l : Nat × Nat} {t : Thread} {a : Dword}

theorem l1Clear_eq (s : State) (core : Nat) : s.l1Clear core = s.setCore core { s.core core with l1 := [] } := by
  unfold State.l1Clear State.l1Drop
  simp

theorem fence_delivers (h : s.IssuesOne iss g (.fence w) l t) (hh : t.inHandler = false) (hp : s.pendingAt iss = some a) (hd : s.drainThread iss.core iss.grp l.2 (lo3 w.x) = some e) :
    FaultsAfter s iss g (.fence w) l t (delivered (e.setCore iss.core { e.core iss.core with l1 := [] }) iss.grp a) (.plain 0x30 a (g.fpflags.setWidth 64)) := by
  have he : Undisturbed iss g l t (e.l1Clear iss.core) := ((undisturbed_of_issuesOne h).kept (drainThread_kept hd)).of_groups rfl rfl
  have hfence := faultsAfter_of_fp (e := e.l1Clear iss.core) (a := a) rfl rfl h hh (by simp only [withThread_one h, hd, hp]; rfl) he
  rwa [l1Clear_eq] at hfence

/-- A wait that completes without overflow, with an exception pending where the issue began, is followed by its fault. -/
theorem waitDone_late (hp : s.pendingAt iss = some a) (rs : List Bound) (b : Barrier) (code : Nat) :
    (s.env iss g l).waitDone e s rs b code false = .late ((e.barAcquire iss.core g.ctx rs b.pastGlobal).deliverFp iss a) (fpFault g a) := by
  unfold Env.waitDone
  simp [State.env, hp]

/-- Where a barrier's counters meet its phase advances, and the overflow is recorded. -/
theorem settle_flip {b : Barrier} {total : Nat} {ovf : Bool} (h : (b.settle total).2 = some ovf) : (b.settle total).1 = b.flip ovf := by
  unfold Barrier.settle at h ⊢
  by_cases hmet : b.arrivals = 0 ∨ b.arrivals ≠ b.count
  · rw [if_pos hmet] at h
    cases h
  · rw [if_neg hmet] at h ⊢
    by_cases heq : total = b.expBytes.toNat
    · rw [if_pos heq] at h ⊢
      cases h
      rfl
    · rw [if_neg heq] at h ⊢
      by_cases hlt : b.expBytes.toNat < total
      · rw [if_pos hlt] at h ⊢
        cases h
        rfl
      · rw [if_neg hlt] at h
        cases h

/-- An arrival that flips the phase leaves another phase, and its overflow in it. -/
theorem arrive_flip {b : Barrier} {n : Word} {ovf : Bool} (h : (b.arrive n).2 = some ovf) : (b.arrive n).1.phase ≠ b.phase ∧ (b.arrive n).1.lastOvf = ovf := by
  unfold Barrier.arrive at h ⊢
  rw [settle_flip h]
  exact ⟨show b.phase + 1 ≠ b.phase by bv_omega, rfl⟩

theorem bwait_delivers (h : s.IssuesOne iss g (.bwait w) l t) (hh : t.inHandler = false) (hp : s.pendingAt iss = some a) {b : Barrier} {d : Nat} {rs : List Bound}
    (htok : (s.env iss g l).readToken (t.v.get (vnum w.a)) = some (b, d)) (hd : 0 < d) (hovf : ¬(d = 1 ∧ b.lastOvf = true)) (hrs : (s.env iss g l).barRanges ((t.v.get (vnum w.a)).toNat % 2 ^ 11) = .ok rs) :
    FaultsAfter s iss g (.bwait w) l t (delivered (s.barAcquire iss.core g.ctx rs b.pastGlobal) iss.grp a) (.plain 0x30 a (g.fpflags.setWidth 64)) := by
  obtain ⟨-, -, ha, -⟩ := static0 (i := .bwait w) rfl (wordFault_none h.legal)
  have hv : (s.env iss g l).v t (vnum w.a) = t.v.get (vnum w.a) := v_field _ ha (reads_a (i := .bwait w) rfl h.live) 0 (by decide)
  have hrs' : (s.env iss g l).barRanges (bits (t.v.get (vnum w.a)) 10 0) = .ok rs := hrs
  have hlast : (d == 1 && b.lastOvf) = false := by
    rw [Bool.eq_false_iff]
    simpa using hovf
  refine faultsAfter_of_fp rfl rfl h hh ?_ ((undisturbed_of_issuesOne h).kept (barAcquire_kept ..))
  simp only [withThread_one h, hv, htok, hrs', if_neg hd.ne', hlast]
  exact waitDone_late hp ..

theorem bsync_delivers (h : s.IssuesOne iss g (.bsync w) l t) (hh : t.inHandler = false) (hp : s.pendingAt iss = some a) {b : Barrier} {rs : List Bound}
    (hb : s.bar? (g.owner iss.grp) w.a.toNat = some b) (hrs : (s.env iss g l).barRanges w.a.toNat = .ok rs) (hrefuse : b.refusal (t.v.get (vnum w.b)) = none) (hrel : s.release iss.core iss.grp l.2 rs = some e)
    (hflip : (b.arrive (t.v.get (vnum w.b))).2 = some false) :
    FaultsAfter s iss g (.bsync w) l t
      (delivered ((e.barEvent (g.owner iss.grp) w.a.toNat b (b.arrive (t.v.get (vnum w.b))) (some (iss.grp, iss.pc))).barAcquire iss.core g.ctx rs (b.arrive (t.v.get (vnum w.b))).1.pastGlobal) iss.grp a)
      (.plain 0x30 a (g.fpflags.setWidth 64)) := by
  have hr := IssuesOne_ready h
  have he := (((undisturbed_of_issuesOne h).kept (release_kept hrel)).barEvent hr.runs hh (g.owner iss.grp) w.a.toNat b (b.arrive (t.v.get (vnum w.b))) (some (iss.grp, iss.pc))).kept
    (barAcquire_kept iss.core g.ctx rs (b.arrive (t.v.get (vnum w.b))).1.pastGlobal)
  obtain ⟨-, -, -, hfield⟩ := static0 (i := .bsync w) rfl (wordFault_none h.legal)
  have hv : (s.env iss g l).v t (vnum w.b) = t.v.get (vnum w.b) := v_field _ hfield (reads_b (i := .bsync w) rfl h.live) 0 (by decide)
  have hb' : (s.env iss g l).s.bar? ((s.env iss g l).grp.owner (s.env iss g l).iss.grp) w.a.toNat = some b := hb
  have hrel' : (s.env iss g l).s.release (s.env iss g l).iss.core (s.env iss g l).iss.grp (s.env iss g l).tid rs = some e := hrel
  obtain ⟨hphase, hlast⟩ := arrive_flip hflip
  refine faultsAfter_of_fp rfl rfl h hh ?_ he
  simp only [withThread_one h, hv, Env.arrive, hb', hrs, hrel', hrefuse, if_neg hphase, hlast]
  exact waitDone_late hp ..

end delivery

end Sys2Proof.Proofs

namespace Sys2Proof.Proofs

open Sys2Proof.Machine Sys2Proof.Laws

/-! ### The four sources of a flag (03 R82, R83) -/

section sources

variable {s : State} {g : Group}

/-- Two states with the same dies and the same tick have the same clocks. -/
theorem clock_of_dies {a b : State} (hdies : b.dies = a.dies) (htick : b.tick = a.tick) (core : Nat) : b.clock core = a.clock core := by
  unfold State.clock State.plinth State.die
  rw [hdies, htick]

theorem modGroup_clock (a : State) (k : Nat) (f : Group → Group) (core : Nat) : (a.modGroup k f).clock core = a.clock core := clock_of_dies (modGroup_dies ..) (modGroup_tick ..) core

open Classical in
/-- FADD over a whole pack (08 R174): the flags it raises, and the exception they leave pending. -/
theorem fadd_pending {w : F0} {iss : Issue} (h : s.Issues iss g (.fadd w)) (hl : ∀ l ∈ iss.lanes, ∀ t, g.threads[l.2]? = some t → t.takes (.fadd w) = true → t.reads (.fadd w)) :
    let fl := g.raisedOver iss (.fadd w) (fun l t => (perElem w.ty (fun k => fadd (arithFmt w.ty) (g.roundMode l.2 t (lo3 w.x) k) (elemOf w.ty (t.sourceA w) k) (elemOf w.ty (t.sourceB w) k))).2)
    ∃ s' : State, exec (.fadd w) s = .next s' ∧ (s'.group? iss.grp).map (fun x => (x.fpflags, x.fpPending)) =
      some (g.fpflags ||| fl, if fl &&& g.trapEn ≠ 0 ∧ MayPend g (s.clock g.core) iss.stream then some (iss.pc, s.clock g.core) else g.fpPending) := by
  intro fl
  obtain ⟨s', hexec, hgives⟩ := fadd_setsFloat w s iss g h hl
  refine ⟨s', hexec, (gives_fp hgives).trans ?_⟩
  rw [pendingWith_eq]
  congr 2
  split <;> rfl

open Classical in
theorem gather_pending_first {th : Thread} {n : Nat} (hth : g.threads[n]? = some th) (clock stream : Nat) :
    (g.gather clock n stream).fpflags = g.fpflags ||| orFlags (th.raised.map (fun e => e.1))
    ∧ (g.gather clock n stream).fpPending =
      if MayPend g clock stream then ((th.raised.find? (fun e => decide (e.1 &&& g.trapEn ≠ 0))).map (fun e => (e.2, clock))).or g.fpPending else g.fpPending := by
  obtain ⟨hflags, hpending⟩ := gather_raises hth clock stream
  exact ⟨hflags.trans (raises_fpflags ..), hpending.trans (raises_pending ..)⟩

/-- A load or another word of long latency that completes raises its flags for its own address (03 R82). -/
theorem longLatencyComplete_pending {grp tid : Nat} {t : Thread} {h : HeldWrite} (hg : s.group? grp = some g) (ht : g.threads[tid]? = some t) (hheld : t.held = [h]) (hregion : t.region = none)
    (hraised : t.raised = []) (htag : h.tag = none) (hmore : h.more = []) (hcount : h.count ≤ 4) (hleft : h.left = 0) :
    ∃ s' : State, exec (.longLatencyComplete grp tid 0) s = .next s'
      ∧ (s'.group? grp).map (fun x => (x.fpflags, x.fpPending, x.fpStream)) = some (g.fpflags ||| h.flags, g.pendingWith h.flags h.at_ (s.clock g.core) (s.streamOf grp tid)) := by
  obtain ⟨hflags, hat⟩ := land_raises hheld hregion hraised htag hmore hcount hleft
  refine ⟨_, rfl, ?_⟩
  have hfp := gatherFlags_fp (gid := grp) (n := tid) (stream := s.streamOf grp tid)
    (group?_modGroup_same (f := fun x => { x with threads := modifyAt x.threads tid (fun t => { t with held := modifyAt t.held 0 (fun h => { h with ready := true }) }.land) }) hg)
    (by rw [getElem?_modifyAt, if_pos rfl, ht]; rfl) hat
  rw [hflags, modGroup_clock] at hfp
  exact hfp

/-- A command of an engine that completes at no barrier raises its flags as the engine does: behind both streams (03 R83). -/
theorem engDone_pending {c : EngCmd} (hg : s.group? c.grp = some g) (hbar : c.bar = 0) (fl : Flags) (n : Nat) (glob : Bool) :
    ((s.engDone c fl n glob).group? c.grp).map (fun x => (x.fpflags, x.fpPending, x.fpStream)) = some (g.fpflags ||| fl, g.pendingWith fl c.pc (s.clock g.core) 2) := by
  unfold State.engDone State.engFlags
  rw [if_pos hbar]
  split
  next hzero =>
    rw [hg, hzero]
    exact congrArg some (Prod.ext BitVec.or_zero.symm (pendingWith_zero ..).symm)
  next => rw [group?_modGroup_same hg, Option.map_some, raise_eq]

end sources

end Sys2Proof.Proofs

namespace Sys2Proof.Proofs

open Sys2Proof.Machine Sys2Proof.Laws

/-! ### A flip that finds an exception pending (03 R83, log 70) -/

section flip

variable {s e : State} {g y : Group} {t : Thread} {f : TFault} {gid n core : Nat}

/-- The one element of a list that a test picks, with its number. -/
theorem filter_zipIdx_singleton {α : Type} (p : α × Nat → Bool) (xs : List α) (k n : Nat) (a : α) (h : xs[n]? = some a) (hp : p (a, k + n) = true)
    (hone : ∀ m b, m ≠ n → xs[m]? = some b → p (b, k + m) = false) : (xs.zipIdx k).filter p = [(a, k + n)] := by
  induction xs generalizing k n with
  | nil => simp at h
  | cons b xs ih =>
    rw [List.zipIdx_cons]
    cases n with
    | zero =>
      obtain rfl : b = a := by simpa using h
      have hrest : (xs.zipIdx (k + 1)).filter p = [] := by
        rw [List.filter_eq_nil_iff]
        rintro ⟨c, j⟩ hc
        obtain ⟨m, rfl, hm⟩ : ∃ m, j = k + (m + 1) ∧ xs[m]? = some c := by
          obtain ⟨hle, hget⟩ := List.mk_mem_zipIdx_iff_le_and_getElem?_sub.1 hc
          exact ⟨j - (k + 1), by omega, hget⟩
        simpa using hone (m + 1) c (by omega) (by simpa using hm)
      rw [List.filter_cons_of_pos (by simpa using hp), hrest]
      rfl
    | succ n =>
      have hfirst : p (b, k) = false := hone 0 b (by omega) rfl
      have hshift (m : Nat) : k + 1 + m = k + (m + 1) := by omega
      rw [List.filter_cons_of_neg (by simp [hfirst]), ih (k + 1) n (by simpa using h) (by rw [hshift]; exact hp)
        (fun m c hm hc => by rw [hshift]; exact hone (m + 1) c (by omega) (by simpa using hc)), hshift]

/-- The change at a barrier touches the first-level caches alone. -/
theorem barAcquire_cores (s : State) (core ctx : Nat) (rs : List Bound) (glob : Bool) : ∃ C, s.barAcquire core ctx rs glob = { s with cores := C } := by
  have hacq : ∃ C, s.acquire core ctx rs = { s with cores := C } := by
    unfold State.acquire
    refine List.foldlRecOn (motive := fun a : State => ∃ C, a = { s with cores := C }) rs _ ⟨s.cores, rfl⟩ ?_
    rintro _ ⟨C, rfl⟩ r -
    exact ⟨_, rfl⟩
  obtain ⟨C, hC⟩ := hacq
  unfold State.barAcquire
  rw [hC]
  cases glob
  · exact ⟨C, rfl⟩
  · exact ⟨_, rfl⟩

theorem tellFault_evbuf (s : State) (core gid : Nat) (hit : List Nat) (pc : Dword) (cause : Nat) : ∃ V, s.tellFault core gid hit pc cause = { s with evbuf := V } := ⟨_, rfl⟩

theorem toContain_faults (s : State) (ctx : Nat) (c : ContFault) :
    ∃ f, ((s.toContain ctx c).ctx ctx).faults = (s.ctx ctx).faults ++ [f] ∧ f.record = c.record ∧ f.tids = c.tids ∧ f.after = c.after := by
  unfold State.toContain
  rw [ctx_setCtx_same]
  exact ⟨_, rfl, rfl, rfl, rfl⟩

/-- A fault delivered to the one thread that waits at a barrier, where no word is being issued. -/
theorem waitFaults_lone (hissue : e.issue = none) (hg : e.group? gid = some y) (ht : y.threads[n]? = some t) (hregion : t.region = none) (hh : t.inHandler = false)
    (hroute : e.faultRoute y.ctx f = 0) (hclean : f.cause ≠ 0x16) :
    ∃ V c, e.waitFaults core gid [(n, t)] f = (({ e with evbuf := V } : State).modThread gid n (fun u => u.blockAt .contain t.addr (e.clock core))).toContain y.ctx c
      ∧ c.record = e.faultRec y [(t.place.2.2, n)] (t.addr - 8) f 0 ∧ c.tids = [n] ∧ c.after = true := by
  have hnone : e.issuingPack = none := by
    unfold State.issuingPack
    rw [hissue]
    rfl
  have hlone : e.waitFaults core gid [(n, t)] f = e.takeFault core gid [(t.place.2.2, n)] (t.addr - 8) [] f true := by
    unfold State.waitFaults
    simp [hnone, distinct]
  obtain ⟨V, hV⟩ := tellFault_evbuf e core gid [n] (t.addr - 8) f.cause
  have htaken := takeFault_lone (core := core) (lane := t.place.2.2) (pc := t.addr - 8) (fs := []) hg ht hregion hh hroute hclean
  rw [hV, BitVec.sub_add_cancel, ← hlone] at htaken
  exact ⟨V, _, htaken, rfl, rfl, rfl⟩

/-- A flip without overflow that finds an exception pending delivers it to the one thread that waits for the phase. -/
theorem wakeGroup_lone {tok : Word} {a : Dword} (hg : s.group? gid = some g) (hres : g.resident = true) (hissue : s.issue = none) (hp : g.pendingFp (s.clock g.core) = some a)
    (ht : g.threads[n]? = some t) (hcond : t.cond = .blocked .barrier) (htok : t.token = some tok) (hone : ∀ m u, m ≠ n → g.threads[m]? = some u → ¬(u.cond = .blocked .barrier ∧ u.token = some tok)) (glob : Bool) (extra : Dword) :
    ∃ e : State, s.wakeGroup gid tok false glob extra none = e.waitFaults g.core gid [(n, t)] (fpFault g a)
      ∧ e.issue = none ∧ e.group? gid = some { g with fpPending := none } ∧ e.ctxs = s.ctxs ∧ e.clock g.core = s.clock g.core := by
  have hws : (g.threads.zipIdx.map (fun e => (e.2, e.1))).filter (fun w => decide (w.2.cond = .blocked .barrier ∧ w.2.token = some tok)) = [(n, t)] := by
    rw [List.filter_map, filter_zipIdx_singleton _ g.threads 0 n t ht (by simp [hcond, htok]) (fun m u hm hu => by simpa using hone m u hm hu)]
    simp
  obtain ⟨C, hC⟩ := barAcquire_cores s g.core g.ctx ([(n, t)].flatMap (fun w => w.2.acq) ++ s.barRanges g.ctx (bits tok 10 0)) glob
  have hissue' : ({ s with cores := C } : State).issue = none := hissue
  have hflip : ({ s with cores := C } : State).flipper gid none = none := by
    unfold State.flipper
    rw [hissue']
    rfl
  have hp' : g.pendingFp (({ s with cores := C } : State).clock g.core) = some a := hp
  refine ⟨({ s with cores := C } : State).modGroup gid (fun x => { x with fpPending := none }), ?_, (modGroup_issue ..).trans hissue, group?_modGroup_same hg, modGroup_ctxs .., modGroup_clock ..⟩
  unfold State.wakeGroup
  simp only [hg, hws, hres, hC]
  simp [State.deliverWaits, hflip, hp', State.wakeThreads]

theorem wakeGroup_delivers {tok : Word} {a : Dword} (hg : s.group? gid = some g) (hres : g.resident = true) (hissue : s.issue = none) (hp : g.pendingFp (s.clock g.core) = some a)
    (ht : g.threads[n]? = some t) (hcond : t.cond = .blocked .barrier) (htok : t.token = some tok) (hregion : t.region = none) (hh : t.inHandler = false)
    (hone : ∀ m u, m ≠ n → g.threads[m]? = some u → ¬(u.cond = .blocked .barrier ∧ u.token = some tok)) (glob : Bool) (extra : Dword) :
    let s' := s.wakeGroup gid tok false glob extra none
    s'.thread? gid n = some (t.blockAt .contain t.addr (s.clock g.core)) ∧ (s'.group? gid).map (fun x => x.fpPending) = some none
    ∧ ∃ f, (s'.ctx g.ctx).faults = (s.ctx g.ctx).faults ++ [f] ∧ f.record.cause = 0x30 ∧ f.record.addr = a ∧ f.record.instAddr = t.addr - 8 ∧ f.record.extra = g.fpflags.setWidth 64 ∧ f.record.first = n ∧ f.tids = [n] ∧ f.after = true := by
  obtain ⟨e, hwake, hidle, hcleared, hctxs, hclock⟩ := wakeGroup_lone hg hres hissue hp ht hcond htok hone glob extra
  obtain ⟨V, c, hfault, hrecord, htids, hafter⟩ := waitFaults_lone (core := g.core) (f := fpFault g a) hidle hcleared ht hregion hh rfl (show 0x30 ≠ 0x16 by decide)
  have hbefore : ({ e with evbuf := V } : State).thread? gid n = some t := by
    unfold State.thread?
    rw [show ({ e with evbuf := V } : State).group? gid = _ from hcleared]
    exact ht
  dsimp only
  rw [hwake, hfault, hclock]
  refine ⟨?_, ?_, ?_⟩
  · show (State.modThread _ gid n _).thread? gid n = _
    rw [thread?_modThread, if_pos ⟨rfl, rfl⟩, hbefore]
    rfl
  · show ((State.modThread _ gid n _).group? gid).map _ = _
    unfold State.modThread
    rw [group?_modGroup_same (show ({ e with evbuf := V } : State).group? gid = _ from hcleared)]
    rfl
  · obtain ⟨f, hfaults, hrec, hf, hlate⟩ := toContain_faults (({ e with evbuf := V } : State).modThread gid n (fun u => u.blockAt .contain t.addr (s.clock g.core))) g.ctx c
    have hkept : (({ e with evbuf := V } : State).modThread gid n (fun u => u.blockAt .contain t.addr (s.clock g.core))).ctx g.ctx = s.ctx g.ctx := by
      unfold State.ctx
      rw [modThread_ctxs]
      exact congrArg (fun T => (lookKey g.ctx T).getD Ctx.empty) hctxs
    rw [hkept] at hfaults
    rw [hrecord] at hrec
    refine ⟨f, hfaults, ?_, ?_, ?_, ?_, ?_, hf.trans htids, hlate.trans hafter⟩ <;> rw [hrec] <;> rfl

end flip

end Sys2Proof.Proofs

namespace Sys2Proof.Proofs

open Sys2Proof.Machine Sys2Proof.Laws

/-- Settles O24: every source of flags goes through `Group.raise`, whose pending rule is `pendingWith_eq`; each delivery point is a word whose effect leaves its thread `Undisturbed`, so its fault follows it. -/
theorem fpExceptions : Obligations.FpExceptions := by
  unfold Obligations.FpExceptions
  refine ⟨fun w s iss g h hl => ?_, fun g th clock n stream hth => ?_, fun s grp tid g t h => longLatencyComplete_pending, fun s c fl g n glob hg hbar => engDone_pending hg hbar fl n glob,
    fun w s iss g l t a e _ hh hp => ⟨fun h => fence_delivers h hh hp, fun h b d htok hd hovf rs => bwait_delivers h hh hp htok hd hovf, fun h b rs hb hrs hrefuse hrel => bsync_delivers h hh hp hb hrs hrefuse hrel⟩,
    fun s gid n g t tok glob extra a hg hres hissue hp ht hcond htok hregion hh hone => wakeGroup_delivers hg hres hissue hp ht hcond htok hregion hh hone glob extra⟩
  · classical
    obtain ⟨s', hexec, hfp⟩ := fadd_pending h hl
    refine ⟨s', hexec, hfp.trans ?_⟩
    unfold MayPend
    congr
  · classical
    obtain ⟨hflags, hpending⟩ := gather_pending_first hth clock stream
    refine ⟨hflags, hpending.trans ?_⟩
    unfold MayPend
    congr

end Sys2Proof.Proofs

/-! ## The device's own writes: what they leave of contexts and groups -/

namespace Sys2Proof.Proofs

open Sys2Proof.Machine Sys2Proof.Laws

section recorded

variable {r s : State} {c : Nat}

/-- A context without what the device notes in it of its own records: the counts of journal and fault ring, the journal's open records, the save slots in use (04 R95, R99, R102, R103). -/
def lasting (x : Ctx) : Ctx := { x with jprod := 0, fprod := 0, fdrop := 0, journal := [], slotsUsed := [] }

/-- A group without its scratchpad, where a write of the device may land (09 R210). -/
def unscratched (g : Group) : Group := { g with scratch := [] }

def lastingCtxs (t : Tab Ctx) (c : Nat) : Ctx := lasting ((lookKey c t).getD Ctx.empty)

def unscratchedGroups (t : Tab Group) (k : Nat) : Option Group := (lookKey k t).map unscratched

/-- Nothing but records has been written since `r`: contexts keep all that lasts, groups all but their scratchpads, and no time has passed. -/
structure Recorded (r s : State) : Prop where
  ctxs : lastingCtxs s.ctxs = lastingCtxs r.ctxs
  groups : unscratchedGroups s.groups = unscratchedGroups r.groups
  dies : s.dies = r.dies
  tick : s.tick = r.tick

/-- `Recorded` as a conjunction, the form `grind` rewrites with. -/
theorem recorded_def (r s : State) :
    Recorded r s ↔ lastingCtxs s.ctxs = lastingCtxs r.ctxs ∧ unscratchedGroups s.groups = unscratchedGroups r.groups ∧ s.dies = r.dies ∧ s.tick = r.tick :=
  ⟨fun ⟨a, b, c, d⟩ => ⟨a, b, c, d⟩, fun ⟨a, b, c, d⟩ => ⟨a, b, c, d⟩⟩

theorem Recorded.refl (s : State) : Recorded s s := ⟨rfl, rfl, rfl, rfl⟩

theorem Recorded.setCtx (h : Recorded r s) {x : Ctx} (hx : lasting x = lasting (s.ctx c)) : Recorded r (s.setCtx c x) := by
  refine { h with ctxs := Eq.trans (funext fun k => ?_) h.ctxs }
  show lasting ((lookKey k (putKey c x s.ctxs)).getD Ctx.empty) = lastingCtxs s.ctxs k
  rw [lookKey_putKey]
  split
  · next e => rw [← e]; exact hx
  · rfl

theorem Recorded.scratchWrite (h : Recorded r s) {gid off bs} : Recorded r (s.scratchWrite gid off bs) := by
  refine ⟨by simpa [State.scratchWrite] using h.ctxs, Eq.trans (funext fun k => ?_) h.groups, by simpa [State.scratchWrite] using h.dies, by simpa [State.scratchWrite] using h.tick⟩
  show ((s.scratchWrite gid off bs).group? k).map unscratched = (s.group? k).map unscratched
  unfold State.scratchWrite
  rw [group?_modGroup]
  split
  · rw [Option.map_map]; rfl
  · rfl

theorem Recorded.setPte (h : Recorded r s) {a p} : Recorded r (s.setPte a p) := { h with }

theorem Recorded.setKern (h : Recorded r s) {k x} : Recorded r (s.setKern k x) := { h with }

theorem Recorded.wakePort (h : Recorded r s) {p} : Recorded r (s.wakePort p) := by
  grind [State.wakePort, State.setPort, recorded_def]

theorem Recorded.dirRecallRange (h : Recorded r s) {a n} : Recorded r (s.dirRecallRange a n) := { h with }

theorem Recorded.markDirty (h : Recorded r s) {c va} : Recorded r (s.markDirty c va) := by
  grind [State.markDirty, Recorded.setPte]

theorem Recorded.plinthPut (h : Recorded r s) {ctx loc bs} : Recorded r (s.plinthPut ctx loc bs) := by
  cases loc with
  | mem va pa =>
    have h1 : Recorded r ((s.markDirty ctx va).dirRecallRange pa bs.length) := h.markDirty.dirRecallRange
    exact ⟨h1.ctxs, h1.groups, h1.dies, h1.tick⟩
  | cell g off routed => exact h.scratchWrite
  | frame off => exact h

theorem Recorded.devFault (h : Recorded r s) {ctx va access f who} : Recorded r (s.devFault ctx va access f who).1 := by
  grind [State.devFault, State.pendFault, recorded_def]

theorem Recorded.devWrite (h : Recorded r s) {stream ctx va bs} : Recorded r (s.devWrite stream ctx va bs) := by
  unfold State.devWrite
  dsimp only
  split
  · exact ⟨h.ctxs, h.groups, h.dies, h.tick⟩
  split
  · exact h.plinthPut
  · next f _ =>
    have h1 : Recorded r (s.devFault ctx va 7 f).1 := h.devFault
    exact ⟨h1.ctxs, h1.groups, h1.dies, h1.tick⟩

theorem Recorded.hostPut (h : Recorded r s) {a bs} : Recorded r (s.hostPut a bs) := by
  unfold State.hostPut
  split
  · next pa _ =>
    have h1 : Recorded r (s.dirRecallRange pa bs.length) := h.dirRecallRange
    exact ⟨h1.ctxs, h1.groups, h1.dies, h1.tick⟩
  · have h1 : Recorded r (s.wakePort 0) := h.wakePort
    exact ⟨h1.ctxs, h1.groups, h1.dies, h1.tick⟩

theorem Recorded.descSync (h : Recorded r s) {ctx} : Recorded r (s.descSync ctx) := by
  grind [State.descSync, Recorded.hostPut]

theorem Recorded.jwrite (h : Recorded r s) {ctx x} : Recorded r (s.jwrite ctx x) := by
  grind [State.jwrite, Recorded.setCtx, Recorded.devWrite, lasting]

theorem Recorded.startGather (h : Recorded r s) : Recorded r s.startGather := by
  grind [State.startGather, Recorded.setKern]

theorem Recorded.markFirst (h : Recorded r s) : Recorded r s.markFirst := { h.startGather with }

theorem Recorded.firstCause (h : Recorded r s) {ctx f} : Recorded r (s.firstCause ctx f) := by
  grind [State.firstCause, Recorded.jwrite]

/-- A record of the fault ring leaves the context's lasting fields, whatever list of faults is set beside it (04 R102). -/
theorem Recorded.faultRing (h : Recorded r s) {ctx x} : Recorded r (s.faultRing ctx x) := by
  unfold State.faultRing
  dsimp only
  split
  · refine Recorded.descSync (Recorded.setCtx h ?_)
    rfl
  · refine Recorded.descSync (Recorded.setCtx h.devWrite ?_)
    rfl

/-! What a reader of the state finds after records. -/

theorem Recorded.ctx (h : Recorded r s) (c : Nat) : lasting (s.ctx c) = lasting (r.ctx c) := congrFun h.ctxs c

theorem Recorded.faults (h : Recorded r s) (c : Nat) : (s.ctx c).faults = (r.ctx c).faults := (congrArg Ctx.faults (h.ctx c) :)

theorem Recorded.cpolicy (h : Recorded r s) (c : Nat) : (s.ctx c).cpolicy = (r.ctx c).cpolicy := (congrArg Ctx.cpolicy (h.ctx c) :)

theorem Recorded.state (h : Recorded r s) (c : Nat) : (s.ctx c).state = (r.ctx c).state := (congrArg Ctx.state (h.ctx c) :)

theorem Recorded.clock (h : Recorded r s) (core : Nat) : s.clock core = r.clock core := clock_of_dies h.dies h.tick core

theorem Recorded.group (h : Recorded r s) {k : Nat} {g : Group} (hg : r.group? k = some g) : ∃ x, s.group? k = some x ∧ unscratched x = unscratched g := by
  have hk : (s.group? k).map unscratched = some (unscratched g) := (congrFun h.groups k).trans (congrArg (Option.map unscratched) hg)
  exact Option.map_eq_some_iff.1 hk

theorem threads?_of_unscratched (o : Option Group) (n : Nat) : o.bind (fun g => g.threads[n]?) = (o.map unscratched).bind (fun g => g.threads[n]?) := by
  cases o <;> rfl

theorem Recorded.thread? (h : Recorded r s) (k n : Nat) : s.thread? k n = r.thread? k n := by
  unfold State.thread?
  rw [threads?_of_unscratched, threads?_of_unscratched (r.group? k)]
  exact congrArg (fun o => Option.bind o fun g : Group => g.threads[n]?) (congrFun h.groups k)

end recorded

end Sys2Proof.Proofs

/-! ## Containment (04 R100 to R102) -/

namespace Sys2Proof.Proofs

open Sys2Proof.Machine Sys2Proof.Laws

/-! ### The policies, from a level upwards -/

section policies

variable {field : Nat → Nat} {spent engine : Bool}

/-- A level whose policy leaves the fault to the level above (04 R100): it is unset, or a RETRY that has been used up. -/
def PassesUp (field : Nat → Nat) (spent engine : Bool) (j : Nat) : Prop := field j = 0 ∨ (field j = 2 ∧ engine = false ∧ spent = true)

theorem verdict_passes {n level : Nat} (h : PassesUp field spent engine level) : verdict field spent engine (n + 1) level = verdict field spent engine n (level + 1) := by
  rcases h with h | ⟨h, he, hs⟩
  · simp only [verdict, h]
  · simp [verdict, h, he, hs]

theorem verdict_reaches {level m : Nat} (hm : level ≤ m) (h5 : m ≤ 5) (h : ∀ j, level ≤ j → j < m → PassesUp field spent engine j) :
    verdict field spent engine (5 - level) level = verdict field spent engine (5 - m) m := by
  induction m, hm using Nat.le_induction with
  | base => rfl
  | succ m hm ih =>
    have hpass := verdict_passes (n := 4 - m) (h m hm (Nat.lt_succ_self m))
    rw [ih (by omega) fun j hj hlt => h j hj (by omega), show 5 - m = 4 - m + 1 by omega, hpass, show 5 - (m + 1) = 4 - m by omega]

theorem verdict_ignore {n m : Nat} (h : field m = 1 ∨ field m = 2 ∧ engine = true) : verdict field spent engine (n + 1) m = .ignore := by
  rcases h with h | ⟨h, he⟩
  · simp only [verdict, h]
  · simp [verdict, h, he]

theorem verdict_retry {n m : Nat} (h : field m = 2) (he : engine = false) (hs : spent = false) : verdict field spent engine (n + 1) m = .retry := by
  simp [verdict, h, he, hs]

theorem verdict_kill {n m : Nat} (h : field m = 3) : verdict field spent engine (n + 1) m = .kill m := by
  simp only [verdict, h]

theorem verdict_above {n m : Nat} (h : field m = 4) : verdict field spent engine (n + 1) m = .kill (min (m + 1) 4) := by
  simp only [verdict, h]

end policies

/-! ### One decision -/

section decision

variable {s e : State} {c : Nat} {f : ContFault} {rest : List ContFault}

/-- The decision does not come in this plinth cycle: a host command to the context, or a retirement of one of its groups, has come first (04 R94, 06 R133). -/
def DecidedLater (s : State) (c : Nat) : Prop := lookKey c s.bar.ctxAt = some s.plinth ∨ ∃ k ∈ s.kernels, k.2.ctx = c ∧ ∃ g ∈ k.2.gangs, g.retiredAt = some s.plinth

theorem retiresNow_iff (s : State) (c : Nat) : s.retiresNow c = true ↔ ∃ k ∈ s.kernels, k.2.ctx = c ∧ ∃ g ∈ k.2.gangs, g.retiredAt = some s.plinth := by
  simp [State.retiresNow]

/-- The context's oldest record has left its list. -/
def popped (s : State) (c : Nat) (rest : List ContFault) : State := s.setCtx c { s.ctx c with faults := rest }

/-- The context's oldest record stands on the fault ring, or is counted as dropped. -/
def ringed (s : State) (c : Nat) (f : ContFault) (rest : List ContFault) : State := (popped s c rest).faultRing c f.record

theorem ringed_recorded (s : State) (c : Nat) (f : ContFault) (rest : List ContFault) : Recorded (popped s c rest) (ringed s c f rest) := by
  have hring : ringed s c f rest = (popped s c rest).faultRing c f.record := rfl
  rw [hring]
  exact (Recorded.refl _).faultRing

theorem containmentDecision_later (hf : (s.ctx c).faults = f :: rest) (h : DecidedLater s c) : exec (.containmentDecision c) s = .next s := by
  show execContainmentDecision c s = _
  unfold execContainmentDecision
  simp only [hf]
  rw [if_pos]
  rcases h with h | h
  · simp [h]
  · simp [(retiresNow_iff s c).2 h]

theorem containmentDecision_eq (hf : (s.ctx c).faults = f :: rest) (hreach : s.hostReach ((s.ctx c).desc.toNat + 0x68) = true) (h : ¬DecidedLater s c) :
    exec (.containmentDecision c) s = .next (if f.record.route = 3 ∨ f.dead = true ∨ s.faultDead f = true then ringed s c f rest else ((ringed s c f rest).decideFault c f).markFirst) := by
  obtain ⟨hat, hret⟩ := not_or.1 h
  have hnow : s.retiresNow c = false := by simpa using fun hr => hret ((retiresNow_iff s c).1 hr)
  show execContainmentDecision c s = _
  unfold execContainmentDecision
  simp only [hf]
  rw [if_neg (by simp [hreach, hat, hnow])]
  rfl

/-- Whether a thread's three RETRYs have been used up at the record's address (04 R100). -/
def spentAt (t : Thread) (f : ContFault) : Bool := decide (3 ≤ t.retries f.record.instAddr)

theorem policyField_recorded (h : Recorded s e) : e.policyField c f = s.policyField c f := by
  funext level
  unfold State.policyField
  rw [h.cpolicy]

/-- What a verdict does with the group of a record (04 R100, R101). -/
def carriedOut (e : State) (c : Nat) (f : ContFault) (gid : Nat) : Verdict → State
  | .ignore => e.ignoreFault gid f
  | .retry => e.retryFault gid f
  | .kill l => e.killLevel c f l

/-- What is decided of a record whose first thread is there. -/
theorem decideFault_eq {gid : Nat} {t : Thread} (hgrp : f.grp = some gid) (ht : s.thread? gid f.record.first = some t) :
    s.decideFault c f = carriedOut (s.firstCause c f) c f gid (verdict (s.policyField c f) (spentAt t f) f.engine (5 - f.level) f.level) := by
  unfold State.decideFault
  simp only [hgrp, ht, Option.bind_some, Option.map_some, Option.getD_some]
  change _ = carriedOut _ c f gid (verdict (s.policyField c f) (decide (3 ≤ t.retries f.record.instAddr)) f.engine (5 - f.level) f.level)
  split <;> next hv => rw [hv]; rfl

section lone

variable {gid n : Nat} {g : Group} {t : Thread}

theorem releaseThreads_lone (hg : s.group? gid = some g) (ht : g.threads[n]? = some t) (hcond : t.cond = .blocked .contain) (move : Option Dword) :
    (s.releaseThreads gid [n] .contain move).thread? gid n = some (t.waitAt (move.getD t.addr) (s.clock g.core)) := by
  have htid : s.thread? gid n = some t := by simp [State.thread?, hg, ht]
  unfold State.releaseThreads
  rw [hg]
  show (s.modThread gid n _).thread? gid n = _
  rw [thread?_modThread, if_pos ⟨rfl, rfl⟩, htid]
  simp [hcond]

/-- A thread that is to replay the record's instruction, with one RETRY more. -/
def retried (t : Thread) (f : ContFault) : Thread := { t with retry := t.retries f.record.instAddr + 1, retryAt := f.record.instAddr }

theorem ignoreFault_lone (hg : s.group? gid = some g) (ht : g.threads[n]? = some t) (hcond : t.cond = .blocked .contain) (htids : f.tids = [n]) :
    (s.ignoreFault gid f).thread? gid n = some (t.waitAt (if f.after then t.addr else f.record.instAddr + 8) (s.clock g.core)) := by
  unfold State.ignoreFault
  rw [htids, releaseThreads_lone hg ht hcond]
  cases f.after <;> rfl

theorem retryFault_lone (hg : s.group? gid = some g) (ht : g.threads[n]? = some t) (hcond : t.cond = .blocked .contain) (htids : f.tids = [n]) :
    (s.retryFault gid f).thread? gid n = some ((retried t f).waitAt t.addr (s.clock g.core)) := by
  let y : Group := { g with threads := modifyAt g.threads n (fun u => retried u f) }
  have hy : (s.modThread gid n (fun u => retried u f)).group? gid = some y := group?_modGroup_same hg
  have hu : y.threads[n]? = some (retried t f) := by
    show (modifyAt g.threads n _)[n]? = _
    rw [getElem?_modifyAt, if_pos rfl, ht]
    rfl
  unfold State.retryFault
  rw [htids]
  show ((s.modThread gid n (fun u => retried u f)).releaseThreads gid [n] .contain none).thread? gid n = _
  rw [releaseThreads_lone hy hu hcond]
  exact congrArg (fun m => some ((retried t f).waitAt t.addr m)) (modGroup_clock s gid _ g.core)

end lone

theorem modThreads_ctxs (s : State) (gid : Nat) (ts : List Nat) (F : Thread → Thread) : (s.modThreads gid ts F).ctxs = s.ctxs :=
  foldl_inv (fun a : State => a.ctxs = s.ctxs) ts (fun _ _ h => by simpa using h) rfl

theorem releaseThreads_ctxs (s : State) (gid : Nat) (ts : List Nat) (r : Reason) (move : Option Dword) : (s.releaseThreads gid ts r move).ctxs = s.ctxs := by
  unfold State.releaseThreads
  split
  · rfl
  · exact modThreads_ctxs ..

/-- Dispatches brought up to date change streams of cores alone. -/
theorem purge_keeps (s : State) (gid : Nat) : (s.purge gid).ctxs = s.ctxs ∧ (s.purge gid).groups = s.groups := by
  unfold State.purge
  split
  · exact ⟨rfl, rfl⟩
  · refine foldl_inv (fun a : State => a.ctxs = s.ctxs ∧ a.groups = s.groups) _ (fun a k h => ?_) ⟨rfl, rfl⟩
    dsimp only
    split
    · split
      · exact h
      · exact h
    · exact h

/-- A killed group (04 R101, 06 R133): its status is the cause, its threads have exited and hold no region. -/
theorem killGroup_live {gid : Nat} {g : Group} (hg : s.group? gid = some g) (hk : g.killed = none) (status : Nat) :
    (s.killGroup gid status).ctxs = s.ctxs ∧ ∃ x, (s.killGroup gid status).group? gid = some x ∧ x.killed = some status ∧ ∀ u ∈ x.threads, u.cond = .exited ∧ u.region = none := by
  unfold State.killGroup
  simp only [hg, hk, Option.isSome_none, Bool.false_eq_true, if_false]
  generalize hstop : g.threads.map _ = stopped
  have hall : ∀ u ∈ stopped, u.cond = .exited ∧ u.region = none := by
    subst hstop
    intro u hu
    obtain ⟨t, -, rfl⟩ := List.mem_map.1 hu
    exact ⟨rfl, rfl⟩
  have hlook : ∀ e : State, e.groups = putKey gid { g with killed := some status, threads := stopped } s.groups → e.group? gid = some { g with killed := some status, threads := stopped } :=
    fun e he => (congrArg (lookKey gid) he).trans (lookKey_putKey_same ..)
  split
  · exact ⟨(purge_keeps ..).1, _, hlook _ (purge_keeps ..).2, rfl, hall⟩
  · exact ⟨(purge_keeps ..).1, _, hlook _ (purge_keeps ..).2, rfl, hall⟩

/-! ### The decision of a record of one thread -/

variable {gid n : Nat} {g : Group} {t : Thread}

/-- What is decided, in a state in which nothing but records has been written since the record left the context's list. -/
theorem containmentDecision_decides (hf : (s.ctx c).faults = f :: rest) (hreach : s.hostReach ((s.ctx c).desc.toNat + 0x68) = true) (hnow : ¬DecidedLater s c)
    (hroute : f.record.route ≠ 3) (hdead : f.dead = false) (hgrp : f.grp = some gid) (hg : s.group? gid = some g) (hk : g.killed = none) (hfirst : f.record.first = n) (ht : g.threads[n]? = some t) :
    ∃ e, Recorded (popped s c rest) e ∧ exec (.containmentDecision c) s =
      .next (carriedOut e c f gid (verdict (s.policyField c f) (spentAt t f) f.engine (5 - f.level) f.level)).markFirst := by
  have hring := ringed_recorded s c f rest
  have halive : s.faultDead f = false := by simp [State.faultDead, hgrp, hg, hk]
  have hthread : (ringed s c f rest).thread? gid f.record.first = some t := by
    rw [hring.thread?, hfirst]
    show (s.group? gid).bind _ = _
    rw [hg]
    exact ht
  have hpolicy : (ringed s c f rest).policyField c f = s.policyField c f := by
    rw [policyField_recorded hring]
    funext level
    unfold State.policyField popped
    rw [ctx_setCtx_same]
  refine ⟨(ringed s c f rest).firstCause c f, hring.firstCause, ?_⟩
  rw [containmentDecision_eq hf hreach hnow, if_neg (by simp [hroute, hdead, halive]), decideFault_eq hgrp hthread, hpolicy]

/-- A group after records: its threads, its core and its kill are as they were. -/
theorem Recorded.threads (h : Recorded s e) (hg : s.group? gid = some g) : ∃ x, e.group? gid = some x ∧ x.threads = g.threads ∧ x.core = g.core ∧ x.killed = g.killed := by
  obtain ⟨x, hx, hu⟩ := h.group hg
  exact ⟨x, hx, (congrArg Group.threads hu :), (congrArg Group.core hu :), (congrArg Group.killed hu :)⟩

/-- A step that leaves the contexts' table leaves the list of faults without the record that was decided. -/
theorem faults_decided {e' : State} (h : Recorded (popped s c rest) e) (hctxs : e'.ctxs = e.ctxs) : (e'.markFirst.ctx c).faults = rest := by
  rw [(Recorded.refl e').markFirst.faults c]
  unfold State.ctx
  rw [hctxs]
  refine (h.faults c).trans ?_
  unfold popped
  rw [ctx_setCtx_same]

end decision

/-- Settles O46: `verdict_reaches` follows the policies upwards, and a decision acts on a state that differs from the one before by records alone. -/
theorem containment : Obligations.Containment := by
  unfold Obligations.Containment
  refine ⟨fun field spent engine level hlevel => ⟨fun h => ?_, fun m hm h4 h => ?_⟩, fun s c f rest hf hreach => ⟨fun h => containmentDecision_later hf h, fun h hroute => ?_, ?_⟩⟩
  · exact verdict_reaches (m := 5) (by omega) le_rfl fun j hj hlt => h j hj (by omega)
  · rw [verdict_reaches hm (by omega) h, show 5 - m = 4 - m + 1 by omega]
    exact ⟨verdict_ignore, verdict_retry, verdict_kill, verdict_above⟩
  · have hring := ringed_recorded s c f rest
    refine ⟨_, containmentDecision_eq hf hreach h, ?_, fun k n => ?_⟩
    · rw [if_pos (.inl hroute), hring.faults, popped, ctx_setCtx_same]
    · rw [if_pos (.inl hroute), hring.thread?]
      rfl
  · intro gid n g t hnow hroute hdead hgrp hg hk htids hfirst ht hcond
    obtain ⟨e, he, hexec⟩ := containmentDecision_decides hf hreach hnow hroute hdead hgrp hg hk hfirst ht
    obtain ⟨x, hx, hthreads, hcore, hkilled⟩ := he.threads (g := g) hg
    have hclock : e.clock x.core = s.clock g.core := by rw [hcore]; exact he.clock g.core
    rw [← hthreads] at ht
    refine ⟨fun hv => ?_, fun hv => ?_, fun hv => ?_⟩ <;> rw [show verdict (s.policyField c f) (spentAt t f) f.engine (5 - f.level) f.level = _ from hv] at hexec
    · refine ⟨_, hexec, faults_decided he (releaseThreads_ctxs ..), ?_⟩
      rw [(Recorded.refl _).markFirst.thread?, carriedOut, ignoreFault_lone hx ht hcond htids, hclock]
    · refine ⟨_, hexec, faults_decided he ((releaseThreads_ctxs ..).trans (modThreads_ctxs ..)), ?_⟩
      rw [(Recorded.refl _).markFirst.thread?, carriedOut, retryFault_lone hx ht hcond htids, hclock]
      rfl
    · have hkill : carriedOut e c f gid (.kill 0) = e.killGroup gid f.record.cause := by simp [carriedOut, State.killLevel, hgrp]
      rw [hkill] at hexec
      obtain ⟨hctxs, y, hy, hstatus, hall⟩ := killGroup_live hx (hkilled.trans hk) f.record.cause
      obtain ⟨z, hz, hzthreads, -, hzkilled⟩ := (Recorded.refl (e.killGroup gid f.record.cause)).markFirst.threads hy
      exact ⟨_, z, hexec, faults_decided he hctxs, hz, hzkilled.trans hstatus, hzthreads ▸ hall⟩

end Sys2Proof.Proofs

/-! ## The states of contexts: what leaves them as they are -/

namespace Sys2Proof.Proofs

open Sys2Proof.Machine Sys2Proof.Laws

section states

variable {s : State}

/-- The state of each context (04 R93). The lemmas below say of each function that runs inside a context command that it moves no context to another state. -/
def ctxStates (t : Tab Ctx) (c : Nat) : CtxSt := ((lookKey c t).getD Ctx.empty).state

theorem Recorded.states {e : State} (h : Recorded s e) : ctxStates e.ctxs = ctxStates s.ctxs := funext h.state

theorem setCtx_states {c : Nat} {x : Ctx} (hx : x.state = (s.ctx c).state) : ctxStates (s.setCtx c x).ctxs = ctxStates s.ctxs := by
  funext k
  show ((lookKey k (putKey c x s.ctxs)).getD Ctx.empty).state = ((lookKey k s.ctxs).getD Ctx.empty).state
  rw [lookKey_putKey]
  split
  · next e => rw [← e]; exact hx
  · rfl

theorem foldl_states {α : Type} {l : List α} {F : State → α → State} (hF : ∀ a x, ctxStates (F a x).ctxs = ctxStates a.ctxs) : ctxStates (l.foldl F s).ctxs = ctxStates s.ctxs :=
  foldl_inv (fun a : State => ctxStates a.ctxs = ctxStates s.ctxs) l (fun a x h => (hF a x).trans h) rfl

/-! ### Records, journal and control blocks -/

@[simp] theorem wakePort_states (p : Nat) : ctxStates (s.wakePort p).ctxs = ctxStates s.ctxs := (Recorded.refl s).wakePort.states

@[simp] theorem plinthPut_states (ctx : Nat) (l : Loc) (bs : List Byte) : ctxStates (s.plinthPut ctx l bs).ctxs = ctxStates s.ctxs := (Recorded.refl s).plinthPut.states

@[simp] theorem devFault_states (ctx va access : Nat) (f : PgFault) (who : Word × Nat × Nat) : ctxStates (s.devFault ctx va access f who).1.ctxs = ctxStates s.ctxs := (Recorded.refl s).devFault.states

@[simp] theorem devWrite_states (stream ctx va : Nat) (bs : List Byte) : ctxStates (s.devWrite stream ctx va bs).ctxs = ctxStates s.ctxs := (Recorded.refl s).devWrite.states

@[simp] theorem jwrite_states (ctx : Nat) (r : JRec) : ctxStates (s.jwrite ctx r).ctxs = ctxStates s.ctxs := (Recorded.refl s).jwrite.states

@[simp] theorem markFirst_states : ctxStates s.markFirst.ctxs = ctxStates s.ctxs := (Recorded.refl s).markFirst.states

@[simp] theorem jmod_states (ctx : Nat) (j : Dword) (f : JRec → JRec) : ctxStates (s.jmod ctx j f).ctxs = ctxStates s.ctxs := by
  unfold State.jmod
  split <;> simp

@[simp] theorem eventRecord_states (kn gidx status : Nat) : ctxStates (s.eventRecord kn gidx status).ctxs = ctxStates s.ctxs := by
  unfold State.eventRecord
  split
  · rfl
  · split <;> simp

@[simp] theorem wakeHost_states (a : Nat) : ctxStates (s.wakeHost a).ctxs = ctxStates s.ctxs := by
  unfold State.wakeHost
  split <;> simp

@[simp] theorem msix_states (v : Nat) : ctxStates (s.msix v).ctxs = ctxStates s.ctxs := by
  unfold State.msix
  repeat' split
  all_goals simp

@[simp] theorem qcbPut_states (q : QSlot) (l : Loc) (off v n : Nat) : ctxStates (s.qcbPut q l off v n).ctxs = ctxStates s.ctxs := by
  simp [State.qcbPut]

@[simp] theorem slotWait_states (k : Nat) (q : QSlot) (va : Nat) (f : PgFault) : ctxStates (s.slotWait k q va f).ctxs = ctxStates s.ctxs := by
  simp [State.slotWait]

@[simp] theorem headWait_states (k : Nat) (q : QSlot) (va : Nat) (f : PgFault) : ctxStates (s.headWait k q va f).ctxs = ctxStates s.ctxs := by
  simp [State.headWait]

@[simp] theorem tellNotify_states (k : Nat) (q : QSlot) (l : Loc) : ctxStates (s.tellNotify k q l).ctxs = ctxStates s.ctxs := by
  unfold State.tellNotify
  dsimp only
  repeat' split
  all_goals simp

@[simp] theorem qcbSync_states (k : Nat) (clear : Bool) : ctxStates (s.qcbSync k clear).ctxs = ctxStates s.ctxs := by
  unfold State.qcbSync
  dsimp only
  repeat' split
  all_goals simp

@[simp] theorem readProd_states (k : Nat) : ctxStates (s.readProd k).ctxs = ctxStates s.ctxs := by
  unfold State.readProd
  repeat' split
  all_goals simp

@[simp] theorem slotState_states (k : Nat) (st : QueueSt) : ctxStates (s.slotState k st).ctxs = ctxStates s.ctxs := by
  unfold State.slotState
  repeat' split
  all_goals simp

@[simp] theorem slotFree_states (k : Nat) (q : QSlot) (pend : Bool) : ctxStates (s.slotFree k q pend).ctxs = ctxStates s.ctxs := by
  unfold State.slotFree
  dsimp only
  repeat' split
  all_goals simp

@[simp] theorem unmap_states (k : Nat) : ctxStates (s.unmap k).ctxs = ctxStates s.ctxs := by
  unfold State.unmap
  dsimp only
  repeat' split
  all_goals simp

@[simp] theorem settle_states (k : Nat) : ctxStates (s.settle k).ctxs = ctxStates s.ctxs := by
  unfold State.settle
  dsimp only
  repeat' split
  all_goals simp

/-! ### Ends of commands -/

@[simp] theorem cmdFinish_states (k : Nat) (seq : Dword) (st : Nat) (f : JRec → JRec) : ctxStates (s.cmdFinish k seq st f).ctxs = ctxStates s.ctxs := by
  have hspent : ∀ a : State, ctxStates (a.dropSpent k).ctxs = ctxStates a.ctxs := by
    intro a
    unfold State.dropSpent
    repeat' split
    all_goals rfl
  unfold State.cmdFinish
  repeat' split
  all_goals simp [hspent]

@[simp] theorem kernCancel_states (kn : Nat) : ctxStates (s.kernCancel kn).ctxs = ctxStates s.ctxs := by
  unfold State.kernCancel
  split
  · rfl
  · exact foldl_states fun a g => eventRecord_states kn g 0x41

@[simp] theorem queueError_states (k code : Nat) : ctxStates (s.queueError k code).ctxs = ctxStates s.ctxs := by
  unfold State.queueError
  split
  · rfl
  · refine (foldl_states fun a c => ?_).trans (by simp)
    dsimp only
    split <;> simp

@[simp] theorem cmdFinal_states (k : Nat) (seq : Dword) (st : Nat) (rejected : Bool) (f : JRec → JRec) : ctxStates (s.cmdFinal k seq st rejected f).ctxs = ctxStates s.ctxs := by
  unfold State.cmdFinal
  dsimp only
  repeat' split
  all_goals simp

/-! ### Faults -/

@[simp] theorem toContain_states (ctx : Nat) (f : ContFault) : ctxStates (s.toContain ctx f).ctxs = ctxStates s.ctxs := setCtx_states rfl

@[simp] theorem tellFault_ctxs (core gid : Nat) (hit : List Nat) (pc : Dword) (cause : Nat) : (s.tellFault core gid hit pc cause).ctxs = s.ctxs := rfl

@[simp] theorem abortRegion_ctxs (gid t cause detail code : Nat) : (s.abortRegion gid t cause detail code).ctxs = s.ctxs := by
  unfold State.abortRegion
  repeat' split
  all_goals simp [State.l1Drop, State.unlock]

@[simp] theorem pendFault_ctxs (ctx va cause access : Nat) (r : FaultRec) (p : Option FPack) : (s.pendFault ctx va cause access r p).ctxs = s.ctxs := by
  unfold State.pendFault
  repeat' split
  all_goals rfl

@[simp] theorem notePoison_ctxs (ctx : Nat) (f : TFault) : (s.notePoison ctx f).ctxs = s.ctxs := by
  unfold State.notePoison State.poisonAt
  repeat' split
  all_goals rfl

@[simp] theorem failHandler_states (gid : Nat) (tids : List Nat) : ctxStates (s.failHandler gid tids).ctxs = ctxStates s.ctxs := by
  unfold State.failHandler
  dsimp only
  repeat' split
  all_goals simp [modThreads_ctxs]

@[simp] theorem takeFault_states (core gid : Nat) (lanes : List (Nat × Nat)) (pc : Dword) (faults : List (Nat × TFault)) (f : TFault) (after : Bool) :
    ctxStates (s.takeFault core gid lanes pc faults f after).ctxs = ctxStates s.ctxs := by
  unfold State.takeFault
  split
  · rfl
  · extract_lets inRegion inHandler hand rest route regs out halt clock s0 s1 s2 all record at_ tids s3
    have h0 : ctxStates s0.ctxs = ctxStates s.ctxs := foldl_states fun a l => by split <;> simp
    have h1 : ctxStates s1.ctxs = ctxStates s.ctxs := by
      unfold s1
      split
      · rw [modThreads_ctxs]
        exact h0
      · exact h0
    have h2 : ctxStates s2.ctxs = ctxStates s.ctxs := by
      unfold s2
      split
      · exact h1
      · exact (failHandler_states ..).trans h1
    have h3 : ctxStates s3.ctxs = ctxStates s.ctxs := by simpa [s3] using h2
    have hblocked : ∀ F : Thread → Thread, ctxStates (s3.modThreads gid tids F).ctxs = ctxStates s.ctxs := fun F => (congrArg ctxStates (modThreads_ctxs ..)).trans h3
    split
    · exact h2
    split
    · exact (congrArg ctxStates (pendFault_ctxs ..)).trans (hblocked _)
    split
    · exact (foldl_states fun a l => congrArg ctxStates (modThread_ctxs ..)).trans h3
    split
    · exact (toContain_states ..).trans (hblocked _)
    · exact (toContain_states ..).trans (hblocked _)

/-! ### Barriers: bytes that arrive, and the waits they complete -/

@[simp] theorem setBar_ctxs (o : Owner) (code : Nat) (b : Barrier) : (s.setBar o code b).ctxs = s.ctxs := by
  unfold State.setBar
  split <;> simp

@[simp] theorem barAcquire_ctxs (core ctx : Nat) (rs : List Bound) (glob : Bool) : (s.barAcquire core ctx rs glob).ctxs = s.ctxs := by
  have hacq : (s.acquire core ctx rs).ctxs = s.ctxs := foldl_inv (fun a : State => a.ctxs = s.ctxs) rs (fun _ _ h => h) rfl
  unfold State.barAcquire
  dsimp only
  split
  · exact hacq
  · exact hacq

@[simp] theorem wakeThreads_ctxs (core gid : Nat) (ws : List (Nat × Thread)) : (s.wakeThreads core gid ws).ctxs = s.ctxs :=
  foldl_inv (fun a : State => a.ctxs = s.ctxs) ws (fun _ _ h => (modThread_ctxs ..).trans h) rfl

@[simp] theorem deliverFp_ctxs (iss : Issue) (a : Dword) : (s.deliverFp iss a).ctxs = s.ctxs := by
  simp [State.deliverFp]

@[simp] theorem waitFaults_states (core gid : Nat) (ws : List (Nat × Thread)) (f : TFault) : ctxStates (s.waitFaults core gid ws f).ctxs = ctxStates s.ctxs :=
  (foldl_states fun _ _ => takeFault_states ..).trans (foldl_states fun _ _ => congrArg ctxStates (modThread_ctxs ..))

@[simp] theorem deliverWaits_states (g : Group) (gid : Nat) (ws : List (Nat × Thread)) (own : Option (Nat × Dword)) : ctxStates (s.deliverWaits g gid ws own).ctxs = ctxStates s.ctxs := by
  unfold State.deliverWaits
  split
  · rfl
  split
  · simp
  next p _ =>
    extract_lets at_ hit s1
    have h1 : s1.ctxs = s.ctxs := by
      unfold s1
      split <;> simp
    split <;> simp [h1]

@[simp] theorem wakeGroup_states (gid : Nat) (tok : Word) (ovf glob : Bool) (extra : Dword) (own : Option (Nat × Dword)) :
    ctxStates (s.wakeGroup gid tok ovf glob extra own).ctxs = ctxStates s.ctxs := by
  unfold State.wakeGroup
  dsimp only
  split
  · rfl
  split
  · rfl
  split
  · exact foldl_states fun a w => congrArg ctxStates (modThread_ctxs ..)
  · split <;> simp

@[simp] theorem barEvent_states (o : Owner) (code : Nat) (old : Barrier) (r : Barrier × Option Bool) (own : Option (Nat × Dword)) :
    ctxStates (s.barEvent o code old r own).ctxs = ctxStates s.ctxs := by
  unfold State.barEvent
  dsimp only
  split
  · simp
  · exact (foldl_states fun a n => wakeGroup_states ..).trans (congrArg ctxStates (setBar_ctxs ..))

@[simp] theorem barBytes_states (o : Owner) (code k : Nat) (glob ordered : Bool) : ctxStates (s.barBytes o code k glob ordered).ctxs = ctxStates s.ctxs := by
  unfold State.barBytes
  extract_lets local_
  split
  · simp
  · split <;> simp

theorem engError_states (c : EngCmd) (reason engine : Nat) : ctxStates (s.engError c reason engine).ctxs = ctxStates s.ctxs := by
  unfold State.engError
  split
  split
  · exact toContain_states ..
  · exact toContain_states ..

theorem engDone_states (c : EngCmd) (fl : Flags) (count : Nat) (glob ordered : Bool) : ctxStates (s.engDone c fl count glob ordered).ctxs = ctxStates s.ctxs := by
  have hflags : (s.engFlags c.grp fl c.pc).ctxs = s.ctxs := by
    unfold State.engFlags
    split <;> simp
  unfold State.engDone
  dsimp only
  split <;> simp [hflags]

@[simp] theorem slotFail_states (o : OSlot) (reason : Nat) : ctxStates (s.slotFail o reason).ctxs = ctxStates s.ctxs :=
  foldl_states fun _ _ => (engDone_states ..).trans (engError_states ..)

/-! ### Ends of kernels and kills (04 R101, 06 R131, R133) -/

@[simp] theorem kernFinal_states (kn : Nat) : ctxStates (s.kernFinal kn).ctxs = ctxStates s.ctxs := by
  unfold State.kernFinal
  split
  · rfl
  · exact (cmdFinal_states ..).trans (foldl_states fun a o => slotFail_states o 4)

@[simp] theorem countEnded_states (kn : Nat) (gs : List (Nat × Nat)) : ctxStates (s.countEnded kn gs).ctxs = ctxStates s.ctxs := by
  unfold State.countEnded
  dsimp only
  split
  · rfl
  split
  · simp
  · split <;> simp

@[simp] theorem killGroup_ctxs (gid status : Nat) : (s.killGroup gid status).ctxs = s.ctxs := by
  unfold State.killGroup
  dsimp only
  repeat' split
  all_goals simp [purge_keeps]

@[simp] theorem freeSlot_states (ctx : Nat) (n : Option Nat) : ctxStates (s.freeSlot ctx n).ctxs = ctxStates s.ctxs := by
  cases n with
  | none => rfl
  | some k => exact setCtx_states rfl

@[simp] theorem killGang_states (kn gi : Nat) (who : Option (Nat × Nat)) : ctxStates (s.killGang kn gi who).ctxs = ctxStates s.ctxs := by
  unfold State.killGang
  dsimp only
  split
  · split
    · rfl
    split
    · exact (countEnded_states ..).trans ((foldl_states fun a x => eventRecord_states ..).trans (congrArg ctxStates (modGang_ctxs ..)))
    · exact (foldl_states fun a n => congrArg ctxStates (killGroup_ctxs ..)).trans ((congrArg ctxStates (modGang_ctxs ..)).trans (freeSlot_states ..))
  · rfl

@[simp] theorem killKern_states (kn : Nat) (who : Option (Nat × Nat)) : ctxStates (s.killKern kn who).ctxs = ctxStates s.ctxs := by
  unfold State.killKern
  split
  · rfl
  · exact foldl_states fun a g => killGang_states kn g who

@[simp] theorem endCommands_states (k : Nat) : ctxStates (s.endCommands k).ctxs = ctxStates s.ctxs := by
  unfold State.endCommands
  split
  · rfl
  · refine foldl_states fun a c => ?_
    split <;> simp

/-! ### Gangs and queues of a context that is quiesced or resumed -/

@[simp] theorem preempt_states (kn gi : Nat) : ctxStates (s.preempt kn gi).ctxs = ctxStates s.ctxs := by
  unfold State.preempt
  split
  · split
    · rfl
    split
    · rfl
    · exact (congrArg ctxStates (modGang_ctxs ..)).trans (setCtx_states rfl)
  · rfl

@[simp] theorem slotResume_states (k : Nat) : ctxStates (s.slotResume k).ctxs = ctxStates s.ctxs := by
  unfold State.slotResume
  split
  · split <;> simp
  · rfl

end states

end Sys2Proof.Proofs

/-! ## The context commands (04 R91 to R98) -/

namespace Sys2Proof.Proofs

open Sys2Proof.Machine Sys2Proof.Laws

section commands

variable {s : State} {w : Dword}

/-! ### A write of CTXCMD -/

/-- The device answers the host over port 0 (15 R344, 19 R398, R399). -/
def HostUp (s : State) : Prop := s.powered = true ∧ s.linkUp 0 = true ∧ s.tripped = false ∧ s.boot ≠ 1

/-- A write of CTXCMD is a command of operation `op`, and is taken up (04 R92). -/
def CtxReady (s : State) (w : Dword) (op : Nat) : Prop := HostUp s ∧ 6 ≤ s.boot ∧ s.bar.ctxBusy = [] ∧ w.toNat / 2 ^ 20 = 0 ∧ w.toNat / 2 ^ 12 % 16 = 0 ∧ w.toNat / 2 ^ 8 % 16 = op

/-- The device after a command that changes nothing but what CTXSTAT shows (04 R91). -/
def ctxResult (s : State) (e : Nat) (w : Dword) : State :=
  { (s.wakePort 0) with bar := { s.bar with ctxErr := e, ctxLast := w.toNat % 256, ctxAt := putKey (w.toNat % 256) s.plinth s.bar.ctxAt } }

/-- A doubleword of the descriptor that CTXDESC names (04 R95). -/
def descWord (s : State) (k : Nat) : Nat := (s.hostDword (s.bar.ctxdesc.toNat + 8 * k)).toNat

theorem bits_eq_div_mod {n : Nat} (x : BitVec n) (hi lo : Nat) : bits x hi lo = x.toNat / 2 ^ lo % 2 ^ (hi + 1 - lo) := by
  unfold bits
  rw [Nat.shiftRight_eq_div_pow]

theorem bits_63_20 (w : Dword) : bits w 63 20 = w.toNat / 2 ^ 20 := by
  rw [bits_eq_div_mod]
  have := w.isLt
  omega

/-! A request over port 0 wakes the port and changes nothing else (15 R352). -/

@[simp] theorem wakePort_bar (s : State) (p : Nat) : (s.wakePort p).bar = s.bar := by unfold State.wakePort; split <;> rfl

@[simp] theorem wakePort_boot (s : State) (p : Nat) : (s.wakePort p).boot = s.boot := by unfold State.wakePort; split <;> rfl

@[simp] theorem wakePort_slots (s : State) (p : Nat) : (s.wakePort p).slots = s.slots := by unfold State.wakePort; split <;> rfl

@[simp] theorem wakePort_kernels (s : State) (p : Nat) : (s.wakePort p).kernels = s.kernels := by unfold State.wakePort; split <;> rfl

@[simp] theorem wakePort_plinth (s : State) (p : Nat) : (s.wakePort p).plinth = s.plinth := by unfold State.wakePort; split <;> rfl

@[simp] theorem wakePort_ctxs (s : State) (p : Nat) : (s.wakePort p).ctxs = s.ctxs := by unfold State.wakePort; split <;> rfl

@[simp] theorem wakePort_ctx (s : State) (p c : Nat) : (s.wakePort p).ctx c = s.ctx c := congrArg (fun t => (lookKey c t).getD Ctx.empty) (wakePort_ctxs s p)

theorem HostUp.answers (h : HostUp s) : (!s.barUp || s.tripped) = false := by
  obtain ⟨hpower, hlink, htrip, hboot⟩ := h
  simp [State.barUp, hpower, hlink, htrip, hboot]

theorem ctxCommand_busy (hup : HostUp s) (h : s.boot < 6 ∨ s.bar.ctxBusy ≠ []) (op : Nat) (f : State → Nat → State × Nat) :
    s.ctxCommand w op f = { (s.wakePort 0) with bar := { s.bar with ctxErr := 2 } } := by
  have hwaits : (s.wakePort 0).boot < 6 ∨ (s.wakePort 0).ctxWaits = true := by simpa [State.ctxWaits] using h
  unfold State.ctxCommand
  rw [hup.answers, if_neg Bool.false_ne_true]
  dsimp only
  rw [if_pos hwaits]
  simp [State.ctxDone]

theorem ctxCommand_idle (hup : HostUp s) (hboot : 6 ≤ s.boot) (hbusy : s.bar.ctxBusy = []) (op : Nat) (f : State → Nat → State × Nat) :
    s.ctxCommand w op f =
      if w.toNat / 2 ^ 20 ≠ 0 ∨ w.toNat / 2 ^ 12 % 16 ≠ 0 ∨ w.toNat / 2 ^ 8 % 16 = 0 ∨ 6 < w.toNat / 2 ^ 8 % 16 then (s.wakePort 0).ctxDone 5 none
      else if w.toNat / 2 ^ 8 % 16 ≠ op then s
      else (f (s.wakePort 0) (w.toNat % 256)).1.ctxDone (f (s.wakePort 0) (w.toNat % 256)).2 (some (w.toNat % 256)) := by
  have hwaits : ¬((s.wakePort 0).boot < 6 ∨ (s.wakePort 0).ctxWaits = true) := by simp [State.ctxWaits, hbusy]; omega
  have hlow : bits w 7 0 = w.toNat % 256 := by rw [bits_eq_div_mod]; simp
  have hcode : bits w 11 8 = w.toNat / 2 ^ 8 % 16 := bits_eq_div_mod w 11 8
  have hmid : bits w 15 12 = w.toNat / 2 ^ 12 % 16 := bits_eq_div_mod w 15 12
  unfold State.ctxCommand
  rw [hup.answers, if_neg Bool.false_ne_true]
  dsimp only
  rw [if_neg hwaits, bits_63_20, hmid, hcode, hlow]

theorem ctxCommand_malformed (hup : HostUp s) (hboot : 6 ≤ s.boot) (hbusy : s.bar.ctxBusy = []) (h : w.toNat / 2 ^ 20 ≠ 0 ∨ w.toNat / 2 ^ 12 % 16 ≠ 0 ∨ w.toNat / 2 ^ 8 % 16 = 0 ∨ 6 < w.toNat / 2 ^ 8 % 16)
    (op : Nat) (f : State → Nat → State × Nat) : s.ctxCommand w op f = { (s.wakePort 0) with bar := { s.bar with ctxErr := 5 } } := by
  rw [ctxCommand_idle hup hboot hbusy, if_pos h]
  simp [State.ctxDone]

theorem ctxCommand_ready {op : Nat} (h : CtxReady s w op) (hop : 1 ≤ op ∧ op ≤ 6) (f : State → Nat → State × Nat) :
    s.ctxCommand w op f = (f (s.wakePort 0) (w.toNat % 256)).1.ctxDone (f (s.wakePort 0) (w.toNat % 256)).2 (some (w.toNat % 256)) := by
  obtain ⟨hup, hboot, hbusy, hhigh, hmid, hcode⟩ := h
  rw [ctxCommand_idle hup hboot hbusy, if_neg (by omega), if_neg (by omega)]

theorem ctxDone_wakePort (s : State) (e : Nat) (w : Dword) : (s.wakePort 0).ctxDone e (some (w.toNat % 256)) = ctxResult s e w := by
  simp [State.ctxDone, ctxResult]

theorem ctxDone_setCtx (s : State) (c : Nat) (x : Ctx) (e : Nat) (last : Option Nat) : (s.setCtx c x).ctxDone e last = (s.ctxDone e last).setCtx c x := rfl

/-- A command that is refused with an error (04 R91). -/
theorem ctxCommand_refused {op e : Nat} (h : CtxReady s w op) (hop : 1 ≤ op ∧ op ≤ 6) {f : State → Nat → State × Nat} (hf : f (s.wakePort 0) (w.toNat % 256) = (s.wakePort 0, e)) :
    s.ctxCommand w op f = ctxResult s e w := by
  rw [ctxCommand_ready h hop, hf]
  exact ctxDone_wakePort s e w

/-- A command that is carried out leaves its context in CTXSTAT, with no error (04 R91). -/
theorem ctxCommand_done {op : Nat} (h : CtxReady s w op) (hop : 1 ≤ op ∧ op ≤ 6) {f : State → Nat → State × Nat} {e : State} (hf : f (s.wakePort 0) (w.toNat % 256) = (e, 0)) :
    s.ctxCommand w op f = e.ctxDone 0 (some (w.toNat % 256)) := by
  rw [ctxCommand_ready h hop, hf]

theorem contextCommand_writes {i : Instr} (hi : i ∈ [.create w, .activate w, .quiesce w, .resume w, .destroy w] ∨ i = .setrights w) (s : State) :
    ∃ op f, exec i s = .next (s.ctxCommand w op f) := by
  simp only [List.mem_cons, List.not_mem_nil, or_false] at hi
  rcases hi with (rfl | rfl | rfl | rfl | rfl) | rfl <;> exact ⟨_, _, rfl⟩

/-! ### CREATE -/

theorem hostPut_ctxs (s : State) (a : Nat) (bs : List Byte) : (s.hostPut a bs).ctxs = s.ctxs := by
  unfold State.hostPut
  split
  · rfl
  · exact wakePort_ctxs s 0

theorem descSync_ctxs (s : State) (c : Nat) : (s.descSync c).ctxs = s.ctxs := by
  unfold State.descSync
  dsimp only
  split
  · rfl
  · simp only [hostPut_ctxs]

theorem descSync_ctx (s : State) (c k : Nat) : (s.descSync c).ctx k = s.ctx k := congrArg (fun t => (lookKey k t).getD Ctx.empty) (descSync_ctxs s c)

/-- What a descriptor that passes bounds, of the fields that are narrower than their doublewords (04 R95). -/
theorem descriptorOk_bounds {d : Nat → Nat} (h : descriptorOk d = true) : d 0 / 2 ^ 32 = 0 ∧ d 15 / 2 ^ 28 = 0 := by
  simp only [descriptorOk, Bool.and_eq_true, decide_eq_true_eq] at h
  obtain ⟨⟨⟨⟨⟨⟨⟨h0, -⟩, -⟩, -⟩, -⟩, -⟩, -⟩, -, h15⟩ := h
  exact ⟨h0, h15⟩

/-- What CREATE answers for a context (04 R93, R95, R97), with the descriptor's doublewords by name. -/
def createOutcome (s : State) (c : Nat) : State × Nat :=
  if (s.ctx c).state ≠ .empty then (s, 1)
  else if !descriptorOk (descWord s) then (s, 3)
  else if (descWord s 0).testBit 8 ∧ !(descWord s 0).testBit 19 then (s, 4)
  else ((s.setCtx c (Ctx.ofDesc s.bar.ctxdesc (descWord s))).descSync c, 0)

theorem exec_create (s : State) (w : Dword) : exec (.create w) s = .next (s.ctxCommand w 1 createOutcome) := rfl

theorem create_occupied (h : CtxReady s w 1) (hx : (s.ctx (w.toNat % 256)).state ≠ .empty) : exec (.create w) s = .next (ctxResult s 1 w) := by
  rw [exec_create, ctxCommand_refused h (by decide)]
  simp [createOutcome, hx]

theorem create_badDescriptor (h : CtxReady s w 1) (hx : (s.ctx (w.toNat % 256)).state = .empty) (hbad : descriptorOk (descWord (s.wakePort 0)) = false) :
    exec (.create w) s = .next (ctxResult s 3 w) := by
  rw [exec_create, ctxCommand_refused h (by decide)]
  simp [createOutcome, hx, hbad]

theorem create_unentitled (h : CtxReady s w 1) (hx : (s.ctx (w.toNat % 256)).state = .empty) (hok : descriptorOk (descWord (s.wakePort 0)) = true)
    (hmaint : (descWord (s.wakePort 0) 0).testBit 8 = true) (hright : (descWord (s.wakePort 0) 0).testBit 19 = false) : exec (.create w) s = .next (ctxResult s 4 w) := by
  rw [exec_create, ctxCommand_refused h (by decide)]
  simp [createOutcome, hx, hok, hmaint, hright]

theorem create_made (h : CtxReady s w 1) (hx : (s.ctx (w.toNat % 256)).state = .empty) (hok : descriptorOk (descWord (s.wakePort 0)) = true)
    (hmaint : (descWord (s.wakePort 0) 0).testBit 8 = true → (descWord (s.wakePort 0) 0).testBit 19 = true) :
    ∃ s' : State, exec (.create w) s = .next s' ∧ s'.ctx (w.toNat % 256) = Ctx.ofDesc s.bar.ctxdesc (descWord (s.wakePort 0)) ∧ s'.bar.ctxErr = 0 ∧ s'.bar.ctxLast = w.toNat % 256 := by
  obtain ⟨e, hout, he⟩ : ∃ e, createOutcome (s.wakePort 0) (w.toNat % 256) = (e, 0) ∧ e.ctx (w.toNat % 256) = Ctx.ofDesc s.bar.ctxdesc (descWord (s.wakePort 0)) := by
    unfold createOutcome
    rw [wakePort_ctx, if_neg (not_not.2 hx), hok, if_neg (by simp), if_neg (by simpa using hmaint)]
    refine ⟨_, rfl, ?_⟩
    rw [descSync_ctx, ctx_setCtx_same, wakePort_bar]
  refine ⟨e.ctxDone 0 (some (w.toNat % 256)), ?_, he, rfl, rfl⟩
  rw [exec_create, ctxCommand_done h (by decide) hout]

/-- The fields of a context made from a descriptor that passes (04 R93, R95). -/
theorem ofDesc_fields (a : Dword) {d : Nat → Nat} (hok : descriptorOk d = true) (hd : ∀ k, d k < 2 ^ 64) :
    let y := Ctx.ofDesc a d
    y.state = .created ∧ y.desc = a ∧ y.rights.toNat = d 0 / 2 ^ 16 % 16 ∧ y.maint = (d 0).testBit 8
      ∧ y.prioCap = d 0 / 2 ^ 24 ∧ y.ptroot.toNat = d 1 ∧ y.saveBase.toNat = d 2 ∧ y.slotSize = d 3 % 2 ^ 32 ∧ y.nslots = d 3 / 2 ^ 32 ∧ y.ltBase.toNat = d 4 ∧ y.bindBase.toNat = d 5 ∧ y.jbase.toNat = d 6 ∧ y.jlog = d 7 / 2 ^ 32
      ∧ y.fbase.toNat = d 10 ∧ y.flog = d 11 / 2 ^ 32 ∧ y.ehAddr.toNat = d 14 ∧ y.cpolicy.toNat = d 15 ∧ y.jprod = 0 ∧ y.fprod = 0 ∧ y.fdrop = 0 ∧ y.progress = 0 ∧ y.kseqNext = 1 ∧ y.journal = [] ∧ y.faults = [] := by
  obtain ⟨h0, h15⟩ := descriptorOk_bounds hok
  have hword : ∀ k, (BitVec.ofNat 64 (d k)).toNat = d k := fun k => (BitVec.toNat_ofNat _ _).trans (Nat.mod_eq_of_lt (hd k))
  have hprio : d 0 / 2 ^ 24 % 256 = d 0 / 2 ^ 24 := by omega
  have hpolicy : (BitVec.ofNat 28 (d 15)).toNat = d 15 := (BitVec.toNat_ofNat _ _).trans (Nat.mod_eq_of_lt (by omega))
  exact ⟨rfl, rfl, BitVec.toNat_ofNat _ _, rfl, hprio, hword 1, hword 2, rfl, rfl, hword 4, hword 5, hword 6, rfl, hword 10, rfl, hword 14, hpolicy, rfl, rfl, rfl, rfl, rfl, rfl, rfl⟩

/-! ### QUIESCE and RESUME -/

/-- The state of a context whose gangs are to leave their cores (04 R93): it waits for them, or they have left. -/
theorem quiesceCheck_state {c : Nat} (h : (s.ctx c).state = .quiescing) :
    (((s.quiesceCheck c).ctx c).state = .quiescing ∨ ((s.quiesceCheck c).ctx c).state = .suspended) ∧ ((∀ e ∈ s.kernels, e.2.ctx ≠ c) → ((s.quiesceCheck c).ctx c).state = .suspended) := by
  unfold State.quiesceCheck
  extract_lets mine up copies src s1
  split
  next hstay =>
    refine ⟨.inl h, fun hnone => ?_⟩
    have hmine : mine = [] := List.filter_eq_nil_iff.2 fun e he => by simpa using hnone e he
    simp [h, up, copies, hmine] at hstay
  next =>
    generalize hfold : List.foldl _ s1 _ = e
    have hstates : ctxStates e.ctxs = ctxStates s1.ctxs := by
      rw [← hfold]
      refine foldl_states fun a x => ?_
      split
      · split <;> simp
      all_goals simp
    have hend : (e.ctx c).state = .suspended := (congrFun hstates c).trans (congrArg Ctx.state (ctx_setCtx_same s c _))
    exact ⟨.inr hend, fun _ => hend⟩

/-! ### SETRIGHTS -/

theorem reactivate_ctxs (s : State) (gid : Nat) : (s.reactivate gid).ctxs = s.ctxs := by
  unfold State.reactivate
  split
  · rfl
  · dsimp only
    split
    · rfl
    · exact foldl_inv (fun a : State => a.ctxs = s.ctxs) _ (fun _ _ h => h) rfl

theorem dropDebug_ctx (s : State) (c : Nat) : (s.dropDebug c).ctx c = { s.ctx c with bps := List.replicate 8 none, wps := List.replicate 4 none } := by
  have hctxs : (s.dropDebug c).ctxs = (s.setCtx c { s.ctx c with bps := List.replicate 8 none, wps := List.replicate 4 none }).ctxs :=
    foldl_inv (fun a : State => a.ctxs = _) _ (fun a g h => by rw [reactivate_ctxs, modGroup_ctxs]; exact h) rfl
  unfold State.ctx
  rw [hctxs]
  exact ctx_setCtx_same s c _

/-- A word of SETRIGHTS (04 R92): its rights and its context. -/
theorem setrights_word {r : BitVec 4} (hw : w.toNat = r.toNat * 2 ^ 16 + 6 * 2 ^ 8 + w.toNat % 256) :
    w.toNat / 2 ^ 20 = 0 ∧ w.toNat / 2 ^ 12 % 16 = 0 ∧ w.toNat / 2 ^ 8 % 16 = 6 ∧ BitVec.ofNat 4 (bits w 19 16) = r := by
  have hr := r.isLt
  have hbits : bits w 19 16 = r.toNat := by
    rw [bits_eq_div_mod]
    omega
  refine ⟨by omega, by omega, by omega, ?_⟩
  rw [hbits, BitVec.ofNat_toNat, BitVec.setWidth_eq]

/-! ### The end of a teardown -/

theorem lapsePins_pins (s : State) (f : Pin → Bool) : (s.lapsePins f).pins = s.pins.filter (fun p => !f p) :=
  foldl_inv (fun a : State => a.pins = s.pins.filter (fun p => !f p)) _ (fun _ _ h => (modGroup_pins ..).trans h) rfl

theorem dropFrame_pins (s : State) (f : Nat) : (s.dropFrame f).pins = s.pins := by
  simp only [State.dropFrame, State.untrack, State.modRegions, State.dirRecallRange, State.widen]

theorem dropFrame_frames (s : State) (f : Nat) : (s.dropFrame f).frames = dropKey f s.frames := by
  simp only [State.dropFrame]

theorem dropFrames_pins (s : State) (fs : List Nat) : (fs.foldl (fun (a : State) f => a.dropFrame f) s).pins = s.pins :=
  foldl_inv (fun a : State => a.pins = s.pins) fs (fun a f h => (dropFrame_pins a f).trans h) rfl

/-- Frames given back are in the table no longer, and no frame is new there. -/
theorem mem_dropFrames {fs : List Nat} {e : Nat × FrameSt} (he : e ∈ (fs.foldl (fun (a : State) f => a.dropFrame f) s).frames) : e ∈ s.frames ∧ e.1 ∉ fs := by
  induction fs generalizing s with
  | nil => exact ⟨he, List.not_mem_nil⟩
  | cons f fs ih =>
    rw [List.foldl_cons] at he
    obtain ⟨hin, hout⟩ := ih he
    rw [dropFrame_frames, mem_dropKey] at hin
    obtain ⟨hold, hne⟩ := hin
    exact ⟨hold, by simp [hne, hout]⟩

/-- Something of a destroyed context is left (04 R93). -/
def TornBusy (s : State) (c : Nat) : Prop :=
  (∃ g ∈ s.groups, g.2.ctx = c) ∨ (∃ k ∈ s.kernels, k.2.ctx = c) ∨ (∃ q ∈ s.slots, q.2.ctx = c) ∨ (∃ w ∈ s.devWrites, w.ctx = c) ∨ (s.ctx c).faults ≠ [] ∨ (∃ j ∈ s.jobs, j.ctx = c ∧ j.op ≠ .hold) ∨ ∃ k n a, s.bar.mapWait = some (k, c, n, a)

theorem holds_iff (j : PageJob) : j.holds = false ↔ j.op ≠ .hold := by
  unfold PageJob.holds
  split <;> simp_all

theorem tornBusy_iff (s : State) (c : Nat) :
    (s.groups.any (fun g => g.2.ctx == c) || s.kernels.any (fun k => k.2.ctx == c) || s.slots.any (fun q => q.2.ctx == c)
      || s.devWrites.any (fun w => w.ctx == c) || !(s.ctx c).faults.isEmpty || s.jobs.any (fun j => j.ctx == c && !j.holds) || (s.bar.mapWait.map (fun m => m.2.1 == c)).getD false) = true ↔ TornBusy s c := by
  have hmap : (s.bar.mapWait.map (fun m => m.2.1 == c)).getD false = true ↔ ∃ k n a, s.bar.mapWait = some (k, c, n, a) := by
    cases s.bar.mapWait with
    | none => simp
    | some m =>
      obtain ⟨k, d, n, a⟩ := m
      simp only [Option.map_some, Option.getD_some, beq_iff_eq, Option.some.injEq, Prod.mk.injEq]
      exact ⟨fun h => ⟨k, n, a, rfl, h, rfl, rfl⟩, fun ⟨_, _, _, _, h, _⟩ => h⟩
  simp only [Bool.or_eq_true, hmap, List.any_eq_true, beq_iff_eq, Bool.not_eq_true', List.isEmpty_eq_false_iff, Bool.and_eq_true, holds_iff, TornBusy, or_assoc]

theorem teardownComplete_waits {c : Nat} (h : (s.ctx c).state ≠ .destroying ∨ TornBusy s c) : exec (.teardownComplete c) s = .next s := by
  refine congrArg Host.Outcome.next (if_pos ?_)
  rw [tornBusy_iff]
  exact h

/-- The leases, pins and frames of a destroyed context have been given back (04 R93). -/
def givenBack (s : State) (c : Nat) : State :=
  let s1 := (s.endLeases c).lapsePins (fun p => p.ctx == c)
  ((s1.frames.filter (fun f => f.2.ctx == c)).map (fun f => f.1)).foldl (fun (a : State) f => a.dropFrame f) s1

theorem givenBack_pins (s : State) (c : Nat) : ∀ p ∈ (givenBack s c).pins, p.ctx ≠ c := by
  unfold givenBack
  dsimp only
  rw [dropFrames_pins, lapsePins_pins]
  simp

theorem givenBack_frames (s : State) (c : Nat) : ∀ f ∈ (givenBack s c).frames, f.2.ctx ≠ c := by
  intro f hf hctx
  obtain ⟨hold, hkept⟩ := mem_dropFrames hf
  exact hkept (List.mem_map.2 ⟨f, List.mem_filter.2 ⟨hold, by simpa using hctx⟩, rfl⟩)

/-- What goes with a destroyed context (04 R93): its entry in every table that names contexts. -/
theorem teardownComplete_frees {c : Nat} (h : (s.ctx c).state = .destroying) (hbusy : ¬TornBusy s c) :
    ∃ s' : State, exec (.teardownComplete c) s = .next s' ∧ (s'.ctx c).state = .empty ∧ (∀ w ∈ s'.windows, w.ctx ≠ c) ∧ (∀ p ∈ s'.pins, p.ctx ≠ c) ∧ (∀ p ∈ s'.pend, p.ctx ≠ c) ∧ (∀ j ∈ s'.jobs, j.ctx ≠ c)
      ∧ (∀ u ∈ s'.unseen, u.ctx ≠ c) ∧ (∀ f ∈ s'.frames, f.2.ctx ≠ c) ∧ (∀ k ∈ s'.cores, ∀ x ∈ k.2.l1, x.ctx ≠ c) := by
  refine ⟨_, congrArg Host.Outcome.next (if_neg ?_), ?_⟩
  · rw [tornBusy_iff]
    exact not_or.2 ⟨not_not.2 h, hbusy⟩
  · dsimp only
    refine ⟨?_, by simp, givenBack_pins s c, by simp, by simp, by simp, givenBack_frames s c, fun k hk x hx => ?_⟩
    · exact congrArg (fun o : Option Ctx => (o.getD Ctx.empty).state) (lookKey_dropKey_same c _)
    · obtain ⟨k0, -, rfl⟩ := List.mem_map.1 hk
      simpa using (List.mem_filter.1 hx).2

/-! ### The commands that move a context to another state (04 R93) -/

theorem activate_created (h : CtxReady s w 2) (hx : (s.ctx (w.toNat % 256)).state = .created) :
    exec (.activate w) s = .next ((ctxResult s 0 w).setCtx (w.toNat % 256) { s.ctx (w.toNat % 256) with state := .active }) := by
  refine congrArg Host.Outcome.next ?_
  rw [ctxCommand_done h (by decide) (e := (s.wakePort 0).setCtx (w.toNat % 256) { s.ctx (w.toNat % 256) with state := .active }) (by simp [hx]), ctxDone_setCtx, ctxDone_wakePort]

theorem activate_refused (h : CtxReady s w 2) (hx : (s.ctx (w.toNat % 256)).state ≠ .created) : exec (.activate w) s = .next (ctxResult s 1 w) := by
  refine congrArg Host.Outcome.next (ctxCommand_refused h (by decide) ?_)
  simp [hx]

theorem quiesce_refused (h : CtxReady s w 3) (hx : (s.ctx (w.toNat % 256)).state ≠ .active) : exec (.quiesce w) s = .next (ctxResult s 1 w) := by
  refine congrArg Host.Outcome.next (ctxCommand_refused h (by decide) ?_)
  simp [hx]

theorem resume_refused (h : CtxReady s w 4) (hx : (s.ctx (w.toNat % 256)).state ≠ .suspended) : exec (.resume w) s = .next (ctxResult s 1 w) := by
  refine congrArg Host.Outcome.next (ctxCommand_refused h (by decide) ?_)
  simp [hx]

/-- The state in which a context stands once a command has set it, whatever the command does with queues and gangs beside. -/
theorem state_of_setCtx {e : State} {c : Nat} {x : Ctx} (h : ctxStates e.ctxs = ctxStates (s.setCtx c x).ctxs) : (e.ctx c).state = x.state :=
  (congrFun h c).trans (congrArg Ctx.state (ctx_setCtx_same s c x))

/-- A context that is quiesced, its gangs halted as far as save slots are free (04 R93, 06 R130, R135). -/
def halting (s : State) (c : Nat) : State :=
  let s1 := (s.setCtx c { s.ctx c with state := .quiescing }).releaseClaims c
  let gangs := (s1.kernels.filter (fun e => e.2.ctx == c)).flatMap (fun e => (List.range e.2.gangs.length).map (fun g => (e.1, g)))
  gangs.foldl (fun (a : State) g => a.preempt g.1 g.2) s1

theorem exec_quiesce (s : State) (w : Dword) :
    exec (.quiesce w) s = .next (s.ctxCommand w 3 (fun s c => if (s.ctx c).state ≠ .active then (s, 1) else (((halting s c).quiesceCheck c).markFirst, 0))) := rfl

theorem halting_state (s : State) (c : Nat) : ((halting s c).ctx c).state = .quiescing :=
  state_of_setCtx (x := { s.ctx c with state := .quiescing }) (foldl_states fun _ g => preempt_states g.1 g.2)

theorem halting_kernels {c : Nat} (h : ∀ e ∈ s.kernels, e.2.ctx ≠ c) : ∀ e ∈ (halting s c).kernels, e.2.ctx ≠ c := by
  unfold halting
  extract_lets src s1 gangs
  have h1 : ∀ e ∈ s1.kernels, e.2.ctx ≠ c := by
    intro e he
    obtain ⟨x, hx, rfl⟩ := List.mem_map.1 he
    split
    · exact h x hx
    · exact h x hx
  have hgangs : gangs = [] := by
    have hnone : s1.kernels.filter (fun e => e.2.ctx == c) = [] := List.filter_eq_nil_iff.2 fun e he => by simpa using h1 e he
    simp [gangs, hnone]
  rw [hgangs]
  exact h1

theorem quiesce_active (h : CtxReady s w 3) (hx : (s.ctx (w.toNat % 256)).state = .active) :
    ∃ s' : State, exec (.quiesce w) s = .next s' ∧ s'.bar.ctxErr = 0 ∧ s'.bar.ctxLast = w.toNat % 256 ∧ ((s'.ctx (w.toNat % 256)).state = .quiescing ∨ (s'.ctx (w.toNat % 256)).state = .suspended)
      ∧ ((∀ e ∈ s.kernels, e.2.ctx ≠ w.toNat % 256) → (s'.ctx (w.toNat % 256)).state = .suspended) := by
  obtain ⟨hleft, hnone⟩ := quiesceCheck_state (halting_state (s.wakePort 0) (w.toNat % 256))
  generalize he : (halting (s.wakePort 0) (w.toNat % 256)).quiesceCheck (w.toNat % 256) = e at hleft hnone
  have hend : (e.markFirst.ctx (w.toNat % 256)).state = (e.ctx (w.toNat % 256)).state := congrFun markFirst_states _
  refine ⟨e.markFirst.ctxDone 0 (some (w.toNat % 256)), ?_, rfl, rfl, ?_, fun hk => ?_⟩
  · rw [exec_quiesce, ctxCommand_done h (by decide)]
    rw [wakePort_ctx, if_neg (not_not.2 hx), he]
  · exact hleft.imp hend.trans hend.trans
  · exact hend.trans (hnone (halting_kernels (by simpa using hk)))

/-- The queues that a RESUME takes up again (05 R111). -/
def suspendedSlots (s : State) (c : Nat) : List Nat := (s.slots.filter (fun e => e.2.ctx == c && decide (e.1 < 256) && decide (e.2.state = .suspended))).map (fun e => e.1)

/-- A context that is resumed, with its queues (04 R93, 05 R111). -/
def resumed (s : State) (c : Nat) : State := ((suspendedSlots s c).foldl (fun (a : State) k => a.slotResume k) (s.setCtx c { s.ctx c with state := .active })).markFirst

theorem exec_resume (s : State) (w : Dword) :
    exec (.resume w) s = .next (s.ctxCommand w 4 (fun s c => if (s.ctx c).state ≠ .suspended then (s, 1)
      else ({ resumed s c with bar := { (resumed s c).bar with ctxBusy := (suspendedSlots s c).filter (resumed s c).slotWaits } }, 0))) := rfl

theorem resumed_state (s : State) (c : Nat) : ((resumed s c).ctx c).state = .active :=
  state_of_setCtx (x := { s.ctx c with state := .active }) (markFirst_states.trans (foldl_states fun _ k => slotResume_states k))

theorem mem_suspendedSlots {c k : Nat} : k ∈ suspendedSlots s c ↔ k < 256 ∧ ∃ q, (k, q) ∈ s.slots ∧ q.ctx = c ∧ q.state = .suspended := by
  unfold suspendedSlots
  simp only [List.mem_map, List.mem_filter, Bool.and_eq_true, beq_iff_eq, decide_eq_true_eq]
  constructor
  · rintro ⟨⟨k, q⟩, ⟨hq, ⟨hc, hk⟩, hs⟩, rfl⟩
    exact ⟨hk, q, hq, hc, hs⟩
  · rintro ⟨hk, q, hq, hc, hs⟩
    exact ⟨(k, q), ⟨hq, ⟨hc, hk⟩, hs⟩, rfl⟩

theorem slotWaits_iff {k : Nat} : s.slotWaits k = true ↔ ∃ q, s.slot? k = some q ∧ q.wait.isSome = true := by
  unfold State.slotWaits
  cases s.slot? k <;> simp

theorem resume_suspended (h : CtxReady s w 4) (hx : (s.ctx (w.toNat % 256)).state = .suspended) :
    ∃ s' : State, exec (.resume w) s = .next s' ∧ s'.bar.ctxErr = 0 ∧ s'.bar.ctxLast = w.toNat % 256 ∧ (s'.ctx (w.toNat % 256)).state = .active
      ∧ ∀ k, k ∈ s'.bar.ctxBusy ↔ k < 256 ∧ (∃ q, (k, q) ∈ s.slots ∧ q.ctx = w.toNat % 256 ∧ q.state = .suspended) ∧ ∃ q, s'.slot? k = some q ∧ q.wait.isSome = true := by
  have hstate := resumed_state (s.wakePort 0) (w.toNat % 256)
  generalize he : resumed (s.wakePort 0) (w.toNat % 256) = e at hstate
  refine ⟨({ e with bar := { e.bar with ctxBusy := (suspendedSlots (s.wakePort 0) (w.toNat % 256)).filter e.slotWaits } } : State).ctxDone 0 (some (w.toNat % 256)), ?_, rfl, rfl, hstate, fun k => ?_⟩
  · rw [exec_resume, ctxCommand_done h (by decide)]
    rw [wakePort_ctx, if_neg (not_not.2 hx), he]
  · show k ∈ (suspendedSlots (s.wakePort 0) (w.toNat % 256)).filter e.slotWaits ↔ k < 256 ∧ _ ∧ ∃ q, e.slot? k = some q ∧ _
    rw [List.mem_filter, mem_suspendedSlots, slotWaits_iff, wakePort_slots, and_assoc]

/-- A context that is destroyed, its queues' commands ended and its queues unmapped (04 R93, 05 R114). -/
def destroyed (s : State) (c : Nat) : State :=
  let s1 := s.setCtx c { s.ctx c with state := .destroying }
  let mine := (s1.slots.filter (fun e => e.2.ctx == c)).map (fun e => e.1)
  (mine.filter (fun k => decide (k < 256))).foldl (fun (a : State) k => a.unmap k) (mine.foldl (fun (a : State) k => a.endCommands k) s1)

theorem destroyed_state (s : State) (c : Nat) : ((destroyed s c).ctx c).state = .destroying :=
  state_of_setCtx (x := { s.ctx c with state := .destroying }) ((foldl_states fun _ k => unmap_states k).trans (foldl_states fun _ k => endCommands_states k))

theorem exec_destroy (s : State) (w : Dword) : exec (.destroy w) s = .next (s.ctxCommand w 5 (fun s c => if (s.ctx c).state ∈ [CtxSt.created, .suspended, .faulted] then (destroyed s c, 0) else (s, 1))) := by
  refine congrArg (fun f => Host.Outcome.next (s.ctxCommand w 5 f)) ?_
  funext a c
  cases hs : (a.ctx c).state <;> rfl

theorem destroy_refused (h : CtxReady s w 5) (hx : (s.ctx (w.toNat % 256)).state ∉ [CtxSt.created, .suspended, .faulted]) : exec (.destroy w) s = .next (ctxResult s 1 w) := by
  rw [exec_destroy, ctxCommand_refused h (by decide)]
  rw [wakePort_ctx, if_neg hx]

theorem destroy_ended (h : CtxReady s w 5) (hx : (s.ctx (w.toNat % 256)).state ∈ [CtxSt.created, .suspended, .faulted]) :
    ∃ s' : State, exec (.destroy w) s = .next s' ∧ s'.bar.ctxErr = 0 ∧ s'.bar.ctxLast = w.toNat % 256 ∧ (s'.ctx (w.toNat % 256)).state = .destroying := by
  refine ⟨(destroyed (s.wakePort 0) (w.toNat % 256)).ctxDone 0 (some (w.toNat % 256)), ?_, rfl, rfl, destroyed_state (s.wakePort 0) (w.toNat % 256)⟩
  rw [exec_destroy, ctxCommand_done h (by decide)]
  rw [wakePort_ctx, if_pos hx]

/-! ### SETRIGHTS (04 R97, R98) -/

section setrights

variable {r : BitVec 4}

/-- A write of CTXCMD that is SETRIGHTS with rights `r`, and is taken up. -/
def RightsReady (s : State) (w : Dword) (r : BitVec 4) : Prop := HostUp s ∧ 6 ≤ s.boot ∧ s.bar.ctxBusy = [] ∧ w.toNat = r.toNat * 2 ^ 16 + 6 * 2 ^ 8 + w.toNat % 256

theorem RightsReady.ready (h : RightsReady s w r) : CtxReady s w 6 ∧ BitVec.ofNat 4 (bits w 19 16) = r := by
  obtain ⟨hup, hboot, hbusy, hw⟩ := h
  obtain ⟨hhigh, hmid, hop, hr⟩ := setrights_word hw
  exact ⟨⟨hup, hboot, hbusy, hhigh, hmid, hop⟩, hr⟩

theorem setrights_refused (h : RightsReady s w r) (hx : (s.ctx (w.toNat % 256)).state ∈ [CtxSt.empty, .destroying]) : exec (.setrights w) s = .next (ctxResult s 1 w) := by
  refine congrArg Host.Outcome.next (ctxCommand_refused h.ready.1 (by decide) ?_)
  dsimp only
  rw [wakePort_ctx, if_pos (by simpa using hx)]

theorem setrights_unentitled (h : RightsReady s w r) (hx : (s.ctx (w.toNat % 256)).state ∉ [CtxSt.empty, .destroying]) (hmaint : (s.ctx (w.toNat % 256)).maint = true) (hr : r.getLsbD 3 = false) :
    exec (.setrights w) s = .next (ctxResult s 4 w) := by
  obtain ⟨hready, hrights⟩ := h.ready
  refine congrArg Host.Outcome.next (ctxCommand_refused hready (by decide) ?_)
  dsimp only
  rw [wakePort_ctx, hrights, if_neg (by simpa using hx), if_pos ⟨hmaint, by rw [hr]; rfl⟩]

/-- Rights that are set, with what DEBUG held where it goes. -/
theorem setrights_set (h : RightsReady s w r) (hx : (s.ctx (w.toNat % 256)).state ∉ [CtxSt.empty, .destroying]) (hmaint : (s.ctx (w.toNat % 256)).maint = true → r.getLsbD 3 = true) :
    exec (.setrights w) s = .next
      (State.ctxDone (if ((s.ctx (w.toNat % 256)).debug && !r.getLsbD 0) = true then ((s.wakePort 0).setCtx (w.toNat % 256) { s.ctx (w.toNat % 256) with rights := r }).dropDebug (w.toNat % 256)
        else (s.wakePort 0).setCtx (w.toNat % 256) { s.ctx (w.toNat % 256) with rights := r }) 0 (some (w.toNat % 256))) := by
  obtain ⟨hready, hrights⟩ := h.ready
  refine congrArg Host.Outcome.next (ctxCommand_done hready (by decide) ?_)
  dsimp only
  rw [wakePort_ctx, hrights, if_neg (by simpa using hx), if_neg (by simpa using hmaint)]

theorem setrights_kept (h : RightsReady s w r) (hx : (s.ctx (w.toNat % 256)).state ∉ [CtxSt.empty, .destroying]) (hmaint : (s.ctx (w.toNat % 256)).maint = true → r.getLsbD 3 = true)
    (hdebug : (s.ctx (w.toNat % 256)).debug = false ∨ r.getLsbD 0 = true) : exec (.setrights w) s = .next ((ctxResult s 0 w).setCtx (w.toNat % 256) { s.ctx (w.toNat % 256) with rights := r }) := by
  rw [setrights_set h hx hmaint, if_neg (by rcases hdebug with hd | hd <;> simp [hd]), ctxDone_setCtx, ctxDone_wakePort]

theorem setrights_debugDropped (h : RightsReady s w r) (hx : (s.ctx (w.toNat % 256)).state ∉ [CtxSt.empty, .destroying]) (hmaint : (s.ctx (w.toNat % 256)).maint = true → r.getLsbD 3 = true)
    (hdebug : (s.ctx (w.toNat % 256)).debug = true) (hr : r.getLsbD 0 = false) :
    ∃ s' : State, exec (.setrights w) s = .next s' ∧ s'.bar.ctxErr = 0 ∧ (s'.ctx (w.toNat % 256)).rights = r ∧ (s'.ctx (w.toNat % 256)).bps = List.replicate 8 none ∧ (s'.ctx (w.toNat % 256)).wps = List.replicate 4 none := by
  have hctx := dropDebug_ctx ((s.wakePort 0).setCtx (w.toNat % 256) { s.ctx (w.toNat % 256) with rights := r }) (w.toNat % 256)
  rw [ctx_setCtx_same] at hctx
  refine ⟨_, setrights_set h hx hmaint, rfl, ?_⟩
  rw [if_pos (by rw [hdebug, hr]; rfl)]
  exact ⟨(congrArg Ctx.rights hctx :), (congrArg Ctx.bps hctx :), (congrArg Ctx.wps hctx :)⟩

end setrights

end commands

/-- Settles O45: a write of CTXCMD goes through `ctxCommand_idle`, whose errors come in order; each command has a lemma for its refusals and one for what it leads to, and `foldl_states` carries a context's state through what is done to queues, kernels and gangs. -/
theorem contextEvents : Obligations.ContextEvents := by
  unfold Obligations.ContextEvents
  refine ⟨fun s w i hi hup => ?_, fun s w => ⟨create_occupied, create_badDescriptor, create_unentitled, fun h hx hok hmaint => ?_, activate_created, activate_refused, quiesce_refused, quiesce_active,
    resume_refused, resume_suspended, destroy_refused, destroy_ended, fun r hup hboot hbusy hw => ?_⟩, fun s c => ⟨teardownComplete_waits, teardownComplete_frees⟩⟩
  · obtain ⟨op, f, hexec⟩ := contextCommand_writes hi s
    rw [hexec]
    exact ⟨fun h => congrArg Host.Outcome.next (ctxCommand_busy hup h op f), fun hboot hbusy h => congrArg Host.Outcome.next (ctxCommand_malformed hup hboot hbusy h op f)⟩
  · obtain ⟨s', hexec, hctx, herr, hlast⟩ := create_made h hx hok hmaint
    exact ⟨s', _, hexec, hctx, herr, hlast, ofDesc_fields s.bar.ctxdesc hok fun k => ((s.wakePort 0).hostDword _).isLt⟩
  · have h : RightsReady s w r := ⟨hup, hboot, hbusy, hw⟩
    exact ⟨setrights_refused h, setrights_unentitled h, setrights_kept h, setrights_debugDropped h⟩

end Sys2Proof.Proofs

/-! ## What the actions of queues leave of the device -/

namespace Sys2Proof.Proofs

open Sys2Proof.Machine Sys2Proof.Laws

/-! ### The device beside its memories -/

/-- What a write of the device to a memory leaves as it was: contexts but for their records, groups but for their scratchpads, and whole tables. -/
structure Apart where
  issue : Option Issue
  bar : Bar0
  tick : Nat
  lastAccept : Tab Nat
  ctxs : Nat → Ctx
  groups : Nat → Option Group
  slots : Tab QSlot
  kernels : Tab Kernel
  nextUid : Nat
  unmaps : List Unmapped

def apart (s : State) : Apart :=
  { issue := s.issue, bar := s.bar, tick := s.tick, lastAccept := s.lastAccept, ctxs := lastingCtxs s.ctxs, groups := unscratchedGroups s.groups, slots := s.slots, kernels := s.kernels, nextUid := s.nextUid, unmaps := s.unmaps }

/-- What an action of a queue leaves as it was: all of `Apart` but the tables of queues and kernels. -/
def beside (s : State) : Apart := { apart s with slots := [], kernels := [], nextUid := 0, unmaps := [] }

section apart

variable {s e : State}

theorem slot?_of_apart (h : apart e = apart s) (k : Nat) : e.slot? k = s.slot? k := congrArg (fun a : Apart => lookKey k a.slots) h

theorem beside_of_apart (h : apart e = apart s) : beside e = beside s := congrArg (fun a : Apart => { a with slots := [], kernels := [], nextUid := 0, unmaps := [] }) h

theorem apart_of_recorded (h : Recorded s e) (hissue : e.issue = s.issue) (hbar : e.bar = s.bar) (haccept : e.lastAccept = s.lastAccept) (hslots : e.slots = s.slots) (hkernels : e.kernels = s.kernels)
    (huid : e.nextUid = s.nextUid) (hunmaps : e.unmaps = s.unmaps) : apart e = apart s := by
  obtain ⟨hctxs, hgroups, -, htick⟩ := h
  simp only [apart, hissue, hbar, htick, haccept, hctxs, hgroups, hslots, hkernels, huid, hunmaps]

@[simp] theorem wakePort_apart (p : Nat) : apart (s.wakePort p) = apart s := by
  unfold State.wakePort
  split <;> rfl

@[simp] theorem wakeHost_apart (a : Nat) : apart (s.wakeHost a) = apart s := by
  unfold State.wakeHost
  split <;> simp

@[simp] theorem msix_apart (v : Nat) : apart (s.msix v) = apart s := by
  unfold State.msix
  split
  · rfl
  split
  · exact wakePort_apart (s := s) 0
  split <;> rfl

theorem apart_memories (s : State) (H M : Mem) (D : Tab DirLine) (F : List Nat) (U : List Unseen) : apart { s with hbm := H, hostMem := M, dir := D, hostFilter := F, unseen := U } = apart s := rfl

theorem markDirty_hbm (s : State) (c va : Nat) : ∃ H, s.markDirty c va = { s with hbm := H } := by
  unfold State.markDirty
  split
  · split
    · exact ⟨s.hbm, rfl⟩
    · exact ⟨_, rfl⟩
  · exact ⟨s.hbm, rfl⟩

@[simp] theorem markDirty_apart (c va : Nat) : apart (s.markDirty c va) = apart s := by
  obtain ⟨H, hmark⟩ := markDirty_hbm s c va
  rw [hmark]
  exact apart_memories ..

/-- A write of the plinth to global memory (12 R270, R276): bytes, and what the directory, the host's filter and stores still performed at a narrow scope make of it. -/
theorem plinthPut_mem (s : State) (ctx va pa : Nat) (bs : List Byte) : ∃ D H U, U.Sublist s.unseen ∧ s.plinthPut ctx (.mem va pa) bs
    = { s.markDirty ctx va with hbm := (s.markDirty ctx va).hbm.write pa bs, dir := D, hostFilter := H, unseen := U } := by
  obtain ⟨H, hmark⟩ := markDirty_hbm s ctx va
  refine ⟨_, _, ((s.markDirty ctx va).dirRecallRange pa bs.length).unseen, ?_, rfl⟩
  rw [hmark]
  exact List.filter_sublist

@[simp] theorem plinthPut_apart (ctx : Nat) (l : Loc) (bs : List Byte) : apart (s.plinthPut ctx l bs) = apart s := by
  cases l with
  | mem va pa =>
    obtain ⟨D, H, U, -, hput⟩ := plinthPut_mem s ctx va pa bs
    rw [hput]
    exact (apart_memories ..).trans (markDirty_apart ctx va)
  | cell g off r =>
    apply apart_of_recorded (Recorded.refl s).plinthPut <;> simp [State.plinthPut, State.scratchWrite]
  | frame off => rfl

@[simp] theorem devFault_apart (ctx va access : Nat) (f : PgFault) (who : Word × Nat × Nat) : apart (s.devFault ctx va access f who).1 = apart s := by
  unfold State.devFault State.pendFault
  split <;> rfl

@[simp] theorem devWrite_apart (stream ctx va : Nat) (bs : List Byte) : apart (s.devWrite stream ctx va bs) = apart s := by
  unfold State.devWrite
  dsimp only
  split
  · rfl
  split
  · simp
  · exact devFault_apart ctx va 7 _ (0, 0, 0)

theorem setCtx_apart {c : Nat} {x : Ctx} (hx : lasting x = lasting (s.ctx c)) : apart (s.setCtx c x) = apart s :=
  apart_of_recorded ((Recorded.refl s).setCtx hx) rfl rfl rfl rfl rfl rfl rfl

@[simp] theorem jwrite_apart (ctx : Nat) (r : JRec) : apart (s.jwrite ctx r) = apart s := by
  unfold State.jwrite
  dsimp only
  split
  · exact setCtx_apart rfl
  · rw [devWrite_apart]
    exact setCtx_apart rfl

@[simp] theorem jmod_apart (ctx : Nat) (j : Dword) (f : JRec → JRec) : apart (s.jmod ctx j f) = apart s := by
  unfold State.jmod
  split <;> simp

@[simp] theorem eventRecord_apart (kn gidx status : Nat) : apart (s.eventRecord kn gidx status) = apart s := by
  unfold State.eventRecord
  split
  · rfl
  · split <;> simp

@[simp] theorem qcbPut_apart (q : QSlot) (l : Loc) (off v n : Nat) : apart (s.qcbPut q l off v n) = apart s := plinthPut_apart ..

@[simp] theorem setSlot_apart (k : Nat) (q : QSlot) : apart (s.setSlot k q) = { apart s with slots := putKey k q (apart s).slots } := rfl

@[simp] theorem setSlot_slot? (k : Nat) (q : QSlot) : (s.setSlot k q).slot? k = some q := lookKey_putKey_same ..

@[simp] theorem setSlot_beside (k : Nat) (q : QSlot) : beside (s.setSlot k q) = beside s := rfl

end apart

/-! ### Queues -/

section beside

variable {s : State}

@[simp] theorem wakePort_beside (p : Nat) : beside (s.wakePort p) = beside s := beside_of_apart (wakePort_apart p)
@[simp] theorem wakeHost_beside (a : Nat) : beside (s.wakeHost a) = beside s := beside_of_apart (wakeHost_apart a)
@[simp] theorem msix_beside (v : Nat) : beside (s.msix v) = beside s := beside_of_apart (msix_apart v)
@[simp] theorem plinthPut_beside (ctx : Nat) (l : Loc) (bs : List Byte) : beside (s.plinthPut ctx l bs) = beside s := beside_of_apart (plinthPut_apart ctx l bs)
@[simp] theorem devFault_beside (ctx va access : Nat) (f : PgFault) (who : Word × Nat × Nat) : beside (s.devFault ctx va access f who).1 = beside s := beside_of_apart (devFault_apart ctx va access f who)
@[simp] theorem jmod_beside (ctx : Nat) (j : Dword) (f : JRec → JRec) : beside (s.jmod ctx j f) = beside s := beside_of_apart (jmod_apart ctx j f)
@[simp] theorem eventRecord_beside (kn gidx status : Nat) : beside (s.eventRecord kn gidx status) = beside s := beside_of_apart (eventRecord_apart kn gidx status)
@[simp] theorem qcbPut_beside (q : QSlot) (l : Loc) (off v n : Nat) : beside (s.qcbPut q l off v n) = beside s := beside_of_apart (qcbPut_apart q l off v n)

theorem foldl_beside {α : Type} {xs : List α} {F : State → α → State} (hF : ∀ a x, beside (F a x) = beside a) : beside (xs.foldl F s) = beside s :=
  foldl_inv (fun a : State => beside a = beside s) xs (fun a x h => (hF a x).trans h) rfl

@[simp] theorem modSlot_beside (k : Nat) (f : QSlot → QSlot) : beside (s.modSlot k f) = beside s := by
  unfold State.modSlot
  split <;> simp

@[simp] theorem slotWait_beside (k : Nat) (q : QSlot) (va : Nat) (f : PgFault) : beside (s.slotWait k q va f) = beside s := by
  simp [State.slotWait]

@[simp] theorem headWait_beside (k : Nat) (q : QSlot) (va : Nat) (f : PgFault) : beside (s.headWait k q va f) = beside s := by
  simp [State.headWait]

@[simp] theorem tellNotify_beside (k : Nat) (q : QSlot) (l : Loc) : beside (s.tellNotify k q l) = beside s := by
  unfold State.tellNotify
  dsimp only
  repeat' split
  all_goals simp

@[simp] theorem qcbSync_beside (k : Nat) (clear : Bool) : beside (s.qcbSync k clear) = beside s := by
  unfold State.qcbSync
  dsimp only
  repeat' split
  all_goals simp

@[simp] theorem readProd_beside (k : Nat) : beside (s.readProd k) = beside s := by
  unfold State.readProd
  repeat' split
  all_goals simp

@[simp] theorem slotState_beside (k : Nat) (st : QueueSt) : beside (s.slotState k st) = beside s := by
  unfold State.slotState
  repeat' split
  all_goals simp

@[simp] theorem slotFree_beside (k : Nat) (q : QSlot) (pend : Bool) : beside (s.slotFree k q pend) = beside s := by
  have htell : beside (if (pend && q.nvec != 0xFFFF) = true then s.msix q.nvec else s) = beside s := by split <;> simp
  unfold State.slotFree
  dsimp only
  split <;> exact htell

@[simp] theorem unmap_beside (k : Nat) : beside (s.unmap k) = beside s := by
  unfold State.unmap
  dsimp only
  repeat' split
  all_goals simp

@[simp] theorem settle_beside (k : Nat) : beside (s.settle k) = beside s := by
  unfold State.settle
  dsimp only
  repeat' split
  all_goals simp

@[simp] theorem dropSpent_beside (k : Nat) : beside (s.dropSpent k) = beside s := by
  unfold State.dropSpent
  split
  · split <;> rfl
  · rfl

@[simp] theorem cmdFinish_beside (k : Nat) (seq : Dword) (st : Nat) (f : JRec → JRec) : beside (s.cmdFinish k seq st f) = beside s := by
  unfold State.cmdFinish
  repeat' split
  all_goals simp

@[simp] theorem kernCancel_beside (kn : Nat) : beside (s.kernCancel kn) = beside s := by
  unfold State.kernCancel
  split
  · rfl
  · exact foldl_beside fun a g => eventRecord_beside kn g 0x41

@[simp] theorem queueError_beside (k code : Nat) : beside (s.queueError k code) = beside s := by
  unfold State.queueError
  split
  · rfl
  · refine (foldl_beside fun a c => ?_).trans (by simp)
    dsimp only
    split <;> simp

@[simp] theorem cmdFinal_beside (k : Nat) (seq : Dword) (st : Nat) (rejected : Bool) (f : JRec → JRec) : beside (s.cmdFinal k seq st rejected f) = beside s := by
  unfold State.cmdFinal
  dsimp only
  repeat' split
  all_goals simp

@[simp] theorem waitEval_beside (k : Nat) (c : Cmd) : beside (s.waitEval k c) = beside s := by
  unfold State.waitEval
  dsimp only
  repeat' split
  all_goals simp

@[simp] theorem waitsEval_beside (k : Nat) : beside (s.waitsEval k) = beside s := by
  unfold State.waitsEval
  split
  · rfl
  · exact foldl_beside fun a c => waitEval_beside k c

@[simp] theorem lateNotify_beside (k : Nat) : beside (s.lateNotify k) = beside s := by
  unfold State.lateNotify
  dsimp only
  split
  · rfl
  next u _ =>
  split
  · split <;> simp <;> rfl
  next l _ =>
  have hput : ∀ bs, beside (if (u.told || u.nvec == 0xFFFF) = true then s.plinthPut u.ctx (l.add 0x40) bs else (s.plinthPut u.ctx (l.add 0x40) bs).msix u.nvec) = beside s := by
    intro bs
    split <;> simp
  exact hput _

@[simp] theorem notifySlot_beside (k : Nat) : beside (s.notifySlot k) = beside s := by
  unfold State.notifySlot
  split
  · simp
  · dsimp only
    split <;> simp

end beside

end Sys2Proof.Proofs

/-! ## LAUNCH and NOTIFY (05 R113, R120 to R122) -/

namespace Sys2Proof.Proofs

open Sys2Proof.Machine Sys2Proof.Laws

/-! ### Words of one thread that retire with a result, or wait -/

section one_thread

variable {i : Instr} {s e : State} {iss : Issue} {g : Group} {l : Nat × Nat} {t : Thread}

theorem land_unraised {u : Thread} {y : HeldWrite} (hregion : u.region = none) (htag : y.tag = none) (hmore : y.more = []) (hcount : y.count ≤ 4) (hflags : y.flags = 0) :
    ({ u with held := [y] } : Thread).land.raised = u.raised := by
  rw [land_one u hregion y htag hmore hcount, if_pos hflags]
  split
  · exact (setMany_fields ..).2.1
  · rfl

/-- A result that raises no flag leaves the thread that retires with none raised. -/
theorem retireWord_unraised {r : LongRes} (hr : t.Ready i) (he : endsDispatch i = false) (htag : r.tag = none) (hmore : r.more = []) (hcount : r.count ≤ 4) (hflags : r.flags = 0) (pc : Dword) :
    (t.retireWord i true (some r) pc).raised = [] := by
  obtain ⟨q, hpops⟩ := pops_rest (srcQueues i) t
  have hheld : (t.pops (srcQueues i)).held = [] := by rw [hpops]; exact hr.landed
  have hregion : (t.pops (srcQueues i)).region = none := by rw [hpops]; exact hr.noRegion
  have hraised : (t.pops (srcQueues i)).raised = [] := by rw [hpops]; exact hr.unraised
  have hretire : t.retireWord i true (some r) pc = (t.pops (srcQueues i)).retire (marksOf (wordMarks i) []) (laOf i) (some r) (pc + 8) := by
    unfold Thread.retireWord
    simp [he]
  have hplain := retire_plain (t.pops (srcQueues i)) (marksOf (wordMarks i) []) (laOf i) (pc + 8) hheld hregion
  rw [hretire, retire_some _ _ _ _ _ hheld hregion]
  generalize (t.pops (srcQueues i)).retire (marksOf (wordMarks i) []) (laOf i) none (pc + 8) = u at hplain
  have hu : u.region = none ∧ u.raised = [] := by rw [hplain]; exact ⟨hregion, hraised⟩
  exact (land_unraised hu.1 htag hmore hcount hflags).trans hu.2

/-- A word of one thread that does `e` and gives a result of at most four registers completes with the effect `e` and the result, now or held. -/
theorem retiresWith_of_done {body : Issue → Nat → State → Turnout} (hx : exec i s = .next (runWord i s body)) (hc : closesFirst i = false) (he : endsDispatch i = false) (h : s.IssuesOne iss g i l t)
    {reg count : Nat} {value : Qword} (hcount : count ≤ 4) (hb : body iss l.2 s = .done e (some { reg := reg, count := count, value := value, tag := none, flags := 0 }))
    (hu : Undisturbed iss g l t e) : RetiresWith s iss i l e reg count value := by
  have hr := IssuesOne_ready h
  obtain ⟨-, x, hg, ht, -⟩ := hu
  have hthread : e.thread? iss.grp l.2 = some t := by unfold State.thread?; rw [hg]; exact ht
  obtain ⟨hlater, -, -, hlate⟩ := retireWord_later t i iss.pc { reg := reg, count := count, value := value, tag := none, flags := 0 } hr.landed hr.noRegion hr.unraised rfl rfl hcount he
  have hraised := retireWord_unraised (r := { reg := reg, count := count, value := value, tag := none, flags := 0 }) hr he rfl rfl hcount rfl iss.pc
  have hturn : t.retireWord i true (some { reg := reg, count := count, value := value, tag := none, flags := 0 }) iss.pc = t.later i iss.pc reg count value 0 := by
    rw [← hlater, ← hraised]
  have hlt : l.2 < x.threads.length := (List.getElem?_eq_some_iff.1 ht).1
  refine ⟨_, hx, ?_⟩
  rw [runWord_one hc h body, hb]
  unfold LaneAcc.settle
  dsimp only
  rw [modThread_of _ _ _ _ _ hthread, modThread_of _ _ _ _ _ hthread, hturn, setThread_of hg]
  refine afterWord_ends i iss { s := e.setGroup iss.grp { x with threads := x.threads.set l.2 (t.later i iss.pc reg count value 0) }, faults := [], late := [], held := false, acted := [l.2] } _ rfl rfl
    (group?_setGroup_same ..) h.distinct fun m hm => ?_
  obtain rfl : m = l := by simpa [h.one] using hm
  simp only [List.getElem?_set_self hlt, Option.bind_some, ← hturn]
  exact hlate.trans hr.onTime

/-- A word that holds its one thread leaves everything as it was. -/
theorem waits_of_hold {body : Issue → Nat → State → Turnout} (hx : exec i s = .next (runWord i s body)) (hc : closesFirst i = false) (h : s.IssuesOne iss g i l t) (hb : body iss l.2 s = .hold s) :
    Waits s iss i := by
  refine ⟨_, hx, ?_⟩
  rw [runWord_one hc h body, hb]
  refine afterWord_ends i iss { s := s, faults := [], late := [], held := true, acted := [] } g rfl rfl h.group h.distinct fun m hm => ?_
  obtain rfl : m = l := by simpa [h.one] using hm
  rw [h.thread]
  exact (IssuesOne_ready h).onTime

theorem Undisturbed.beside (hu : Undisturbed iss g l t s) (h : beside e = beside s) : Undisturbed iss g l t e := by
  obtain ⟨hissue, x, hg, ht, hctx, hgidx, hkern⟩ := hu
  have hmap : (e.group? iss.grp).map unscratched = some (unscratched x) := (congrArg (fun a : Apart => a.groups iss.grp) h).trans (congrArg (Option.map unscratched) hg)
  obtain ⟨y, hy, hxy⟩ := Option.map_eq_some_iff.1 hmap
  refine ⟨(congrArg Apart.issue h).trans hissue, y, hy, ?_, (congrArg Group.ctx hxy).trans hctx, (congrArg Group.gidx hxy).trans hgidx, (congrArg Group.kern hxy).trans hkern⟩
  have hthreads : y.threads = x.threads := (congrArg Group.threads hxy :)
  rw [hthreads]
  exact ht

theorem Undisturbed.retires {body : Issue → Nat → State → Turnout} (hu : Undisturbed iss g l t e) (hx : exec i s = .next (runWord i s body)) (hc : closesFirst i = false) (h : s.IssuesOne iss g i l t)
    (hb : body iss l.2 s = .done e none) : Retires s iss i l e := by
  obtain ⟨-, x, hg, ht, -⟩ := hu
  exact retires_of_done hx hc h hb hg ht ⟨rfl, rfl, rfl, rfl⟩

end one_thread

/-! ### The turn of LAUNCH -/

section launch

variable {s e : State} {iss : Issue} {g : Group} {l : Nat × Nat} {t : Thread} {w : F0} {ql pl rl : Loc} {qa : Dword}

theorem global_ok {e : Env} {ea : Dword} {size : Nat} {x : Want} {pg acc : Nat} {l : Loc} (h : e.global t ea size x pg acc = .ok l) : e.reach ea size x pg = .ok l ∧ e.watch t ea.toNat size acc = none := by
  unfold Env.global at h
  split at h
  · cases h
  · split at h
    · cases h
    · cases h
      exact ⟨‹_›, ‹_›⟩

/-- The entry of the ring that a LAUNCH reserves (05 R110, R121). -/
def ringEntry (s : State) (ql : Loc) : Nat := (s.qcbDword ql 0x08 + s.qcbDword ql 0x20 % 2 ^ (s.qcbDword ql 0 / 2 ^ 16 % 32) * 64) % 2 ^ 64

/-- The packet copied to the ring entry `rl`, with the reservation before it and PROD behind it (05 R121). -/
def packetPut (s : State) (ctx : Nat) (ql pl rl : Loc) : State :=
  let i := s.qcbDword ql 0x20
  let s3 := s.plinthPut ctx (ql.add 0x20) (bytesOfNat (i + 1) 8)
  let s4 := s3.plinthPut ctx rl (s3.currentBytes pl 64)
  s4.plinthPut ctx (ql.add 0x10) (bytesOfNat (i + 1) 8)

/-- A turn of LAUNCH that ends with a result (05 R121). -/
def launched (w : F0) (s : State) (v : Nat) : Turnout := .done s (some { reg := vnum w.d, count := 2, value := BitVec.ofNat 128 v, tag := none, flags := 0 })

/-- The turn of LAUNCH once its two addresses have passed their checks (05 R121, 10 R237). -/
def launchTurn (w : F0) (s : State) (iss : Issue) (tid ctx : Nat) (qa : Dword) (ql pl : Loc) : Turnout :=
  match s.drainThread iss.core iss.grp tid with
  | none => .hold s
  | some e =>
    match e.launchRefusal ctx ql with
    | some c => launched w e (2 ^ 63 + c)
    | none =>
      if 2 ^ 57 ≤ ringEntry e ql then .fault (iss.bad 0x06 (BitVec.ofNat 64 (ringEntry e ql)))
      else
        match e.route ctx (ringEntry e ql) .store with
        | .error f => .fault (.page (ringEntry e ql) 1 f)
        | .ok rl =>
          if e.qcbDword ql 0x10 ≠ e.qcbDword ql 0x20 || e.locHeld iss.core ql (some (iss.grp, tid)) || e.locHeld iss.core rl (some (iss.grp, tid)) then .hold s
          else launched w ((packetPut e ctx ql pl rl).launchNotify ctx qa ql) (e.qcbDword ql 0x20)

theorem launch_sources (h : s.IssuesOne iss g (.launch w) l t) : (s.env iss g l).pair t (vnum w.a) = t.sourcePair w.a ∧ (s.env iss g l).pair t (vnum w.b) = t.sourcePair w.b := by
  obtain ⟨-, -, ha, hb⟩ := static0 (i := .launch w) rfl (wordFault_none h.legal)
  exact ⟨pairA_live _ (i := .launch w) rfl rfl ha h.live, pairB_live _ (i := .launch w) rfl rfl hb h.live⟩

theorem launch_turn (h : s.IssuesOne iss g (.launch w) l t) (hb : (t.sourcePair w.b).toNat % 64 = 0) (hql : (s.env iss g l).global t (t.sourcePair w.a) 128 .store 2 2 = .ok ql)
    (hpl : (s.env iss g l).global t (t.sourcePair w.b) 64 .load 0 0 = .ok pl) :
    ∃ body, exec (.launch w) s = .next (runWord (.launch w) s body) ∧ body iss l.2 s = launchTurn w s iss l.2 g.ctx (t.sourcePair w.a) ql pl := by
  obtain ⟨hpa, hpb⟩ := launch_sources h
  obtain ⟨hreachq, hwatchq⟩ := global_ok hql
  obtain ⟨hreachp, hwatchp⟩ := global_ok hpl
  refine ⟨_, rfl, ?_⟩
  rw [withThread_one h, hpa, hpb]
  dsimp only
  rw [if_neg (fun hp => hp.1 hb), hreachq, hreachp, hwatchq, hwatchp]
  rfl

theorem launch_waits (h : s.IssuesOne iss g (.launch w) l t) (hb : (t.sourcePair w.b).toNat % 64 = 0) (hql : (s.env iss g l).global t (t.sourcePair w.a) 128 .store 2 2 = .ok ql)
    (hpl : (s.env iss g l).global t (t.sourcePair w.b) 64 .load 0 0 = .ok pl) (hturn : launchTurn w s iss l.2 g.ctx (t.sourcePair w.a) ql pl = .hold s) : Waits s iss (.launch w) := by
  obtain ⟨body, hx, hbody⟩ := launch_turn h hb hql hpl
  exact waits_of_hold hx rfl h (hbody.trans hturn)

theorem launch_retires (h : s.IssuesOne iss g (.launch w) l t) (hb : (t.sourcePair w.b).toNat % 64 = 0) (hql : (s.env iss g l).global t (t.sourcePair w.a) 128 .store 2 2 = .ok ql)
    (hpl : (s.env iss g l).global t (t.sourcePair w.b) 64 .load 0 0 = .ok pl) {v : Nat} {e0 : State} (hdrain : s.drainThread iss.core iss.grp l.2 = some e0) (he : beside e = beside e0)
    (hturn : launchTurn w s iss l.2 g.ctx (t.sourcePair w.a) ql pl = launched w e v) : RetiresWith s iss (.launch w) l e (vnum w.d) 2 (BitVec.ofNat 128 v) := by
  obtain ⟨body, hx, hbody⟩ := launch_turn h hb hql hpl
  exact retiresWith_of_done hx rfl rfl h (by decide) (hbody.trans hturn) (((undisturbed_of_issuesOne h).kept (drainThread_kept hdrain)).beside he)

theorem launchTurn_refused {ctx tid c : Nat} (hdrain : s.drainThread iss.core iss.grp tid = some e) (hc : e.launchRefusal ctx ql = some c) :
    launchTurn w s iss tid ctx qa ql pl = launched w e (2 ^ 63 + c) := by
  unfold launchTurn
  rw [hdrain]
  dsimp only
  rw [hc]

theorem launchTurn_reserves {ctx tid : Nat} (hdrain : s.drainThread iss.core iss.grp tid = some e) (hc : e.launchRefusal ctx ql = none) (hentry : ringEntry e ql < 2 ^ 57)
    (hroute : e.route ctx (ringEntry e ql) .store = .ok rl) :
    launchTurn w s iss tid ctx qa ql pl =
      if e.qcbDword ql 0x10 ≠ e.qcbDword ql 0x20 || e.locHeld iss.core ql (some (iss.grp, tid)) || e.locHeld iss.core rl (some (iss.grp, tid)) then .hold s
      else launched w ((packetPut e ctx ql pl rl).launchNotify ctx qa ql) (e.qcbDword ql 0x20) := by
  unfold launchTurn
  rw [hdrain]
  dsimp only
  rw [hc]
  dsimp only
  rw [if_neg (Nat.not_le.2 hentry), hroute]

/-- The control block is that of an own device queue (05 R108, R121). -/
def OwnQueue (s : State) (ctx : Nat) (ql : Loc) : Prop := s.qcbDword ql 0 % 256 = 1 ∧ s.qcbDword ql 0 / 2 ^ 32 % 256 = ctx ∧ s.qcbDword ql 0 / 2 ^ 8 % 2 = 1

theorem not_ownQueue_iff {ctx : Nat} : s.qcbDword ql 0 % 256 ≠ 1 ∨ s.qcbDword ql 0 / 2 ^ 32 % 256 ≠ ctx ∨ (!(s.qcbDword ql 0).testBit 8) = true ↔ ¬OwnQueue s ctx ql := by
  unfold OwnQueue
  rw [Nat.testBit_eq_decide_div_mod_eq]
  simp only [Bool.not_eq_true', decide_eq_false_iff_not]
  tauto

theorem launchRefusal_notOwn {ctx : Nat} (h : ¬OwnQueue s ctx ql) : s.launchRefusal ctx ql = some 2 := if_pos (not_ownQueue_iff.2 h)

section own

variable {ctx : Nat} (h : OwnQueue s ctx ql)

include h

theorem launchRefusal_error (hbad : s.qcbDword ql 0x40 / 8 % 8 = 6) : s.launchRefusal ctx ql = some 3 :=
  (if_neg (mt not_ownQueue_iff.1 (not_not.2 h))).trans (if_pos hbad)

theorem launchRefusal_full (hbad : ¬s.qcbDword ql 0x40 / 8 % 8 = 6) (hfull : (s.qcbDword ql 0x20 + 2 ^ 64 - s.qcbDword ql 0x18) % 2 ^ 64 = 2 ^ (s.qcbDword ql 0 / 2 ^ 16 % 32)) :
    s.launchRefusal ctx ql = some 1 :=
  (if_neg (mt not_ownQueue_iff.1 (not_not.2 h))).trans ((if_neg hbad).trans (if_pos hfull))

theorem launchRefusal_none (hbad : ¬s.qcbDword ql 0x40 / 8 % 8 = 6) (hfull : ¬(s.qcbDword ql 0x20 + 2 ^ 64 - s.qcbDword ql 0x18) % 2 ^ 64 = 2 ^ (s.qcbDword ql 0 / 2 ^ 16 % 32)) :
    s.launchRefusal ctx ql = none :=
  (if_neg (mt not_ownQueue_iff.1 (not_not.2 h))).trans ((if_neg hbad).trans (if_neg hfull))

end own

/-- The slot that a control block names holds its queue (05 R108, R121). -/
def SlotHolds (s : State) (ctx : Nat) (qa : Dword) (ql : Loc) : Prop :=
  ∃ q, s.slot? (s.qcbDword ql 0x40 / 2 ^ 8 % 256) = some q ∧ s.qcbDword ql 0x40 / 2 ^ 7 % 2 = 1 ∧ q.ctx = ctx ∧ q.qcb = qa

theorem launchNotify_held {ctx : Nat} (h : SlotHolds s ctx qa ql) : s.launchNotify ctx qa ql = s.notifySlot (s.qcbDword ql 0x40 / 2 ^ 8 % 256) := by
  obtain ⟨q, hq, hmapped, hctx, hqcb⟩ := h
  have hslot : s.slot? (s.qcbDword ql 0x40 / 256 % 256) = some q := hq
  unfold State.launchNotify
  dsimp only
  rw [hslot]
  refine if_pos ?_
  simpa [Nat.testBit_eq_decide_div_mod_eq, hctx, hqcb] using hmapped

theorem launchNotify_pending {ctx : Nat} (h : ¬SlotHolds s ctx qa ql) : s.launchNotify ctx qa ql = s.plinthPut ctx (ql.add 0x40) (bytesOfNat (s.qcbDword ql 0x40 ||| 0x40) 8) := by
  unfold State.launchNotify
  dsimp only
  split
  next q hq =>
    refine if_neg fun hheld => h ⟨q, hq, ?_⟩
    simpa [Nat.testBit_eq_decide_div_mod_eq, and_assoc] using hheld
  next => rfl

theorem launchNotify_beside {ctx : Nat} : beside (s.launchNotify ctx qa ql) = beside s := by
  unfold State.launchNotify
  dsimp only
  split
  · split <;> simp
  · simp

theorem packetPut_beside {ctx : Nat} : beside (packetPut s ctx ql pl rl) = beside s := by
  simp [packetPut]

/-- What a LAUNCH does once the stores before it are performed: it is refused, it waits, or it takes the next entry of the ring (05 R121). -/
theorem launch_ends (h : s.IssuesOne iss g (.launch w) l t) (hb : (t.sourcePair w.b).toNat % 64 = 0) (hql : (s.env iss g l).global t (t.sourcePair w.a) 128 .store 2 2 = .ok ql)
    (hpl : (s.env iss g l).global t (t.sourcePair w.b) 64 .load 0 0 = .ok pl) (hdrain : s.drainThread iss.core iss.grp l.2 = some e) :
    (∀ c, e.launchRefusal g.ctx ql = some c → RetiresWith s iss (.launch w) l e (vnum w.d) 2 (BitVec.ofNat 128 (2 ^ 63 + c)))
    ∧ ∀ rl, e.launchRefusal g.ctx ql = none → ringEntry e ql < 2 ^ 57 → e.route g.ctx (ringEntry e ql) .store = .ok rl →
      let held := e.locHeld iss.core ql (some (iss.grp, l.2)) = true ∨ e.locHeld iss.core rl (some (iss.grp, l.2)) = true
      (e.qcbDword ql 0x10 ≠ e.qcbDword ql 0x20 ∨ held → Waits s iss (.launch w))
      ∧ (e.qcbDword ql 0x10 = e.qcbDword ql 0x20 → ¬held →
        RetiresWith s iss (.launch w) l ((packetPut e g.ctx ql pl rl).launchNotify g.ctx (t.sourcePair w.a) ql) (vnum w.d) 2 (BitVec.ofNat 128 (e.qcbDword ql 0x20))) := by
  refine ⟨fun c hc => launch_retires h hb hql hpl hdrain rfl (launchTurn_refused hdrain hc), fun rl hok hentry hroute => ⟨fun hheld => ?_, fun hfilled hheld => ?_⟩⟩
  · refine launch_waits h hb hql hpl ((launchTurn_reserves hdrain hok hentry hroute).trans (if_pos ?_))
    simpa [or_assoc] using hheld
  · refine launch_retires h hb hql hpl hdrain (launchNotify_beside.trans packetPut_beside) ((launchTurn_reserves hdrain hok hentry hroute).trans (if_neg ?_))
    simpa [hfilled] using hheld

theorem launch_misaligned_packet (w : F0) : Faults (.launch w) (fun _ _ _ _ t => (t.sourcePair w.b).toNat % 64 ≠ 0 ∧ (t.sourcePair w.a).toNat % 128 = 0) (fun _ iss _ _ t => .plain 0x05 (t.sourcePair w.b) iss.word) := by
  intro s iss g l t h _ hh hbad hclean
  obtain ⟨hpa, hpb⟩ := launch_sources h
  refine faultTaken_of rfl rfl h hh ?_ rfl hclean
  rw [withThread_one h, hpa, hpb]
  exact if_pos hbad

theorem launch_misaligned_queue (w : F0) : Faults (.launch w) (fun _ _ _ _ t => (t.sourcePair w.a).toNat % 128 ≠ 0) (fun _ iss _ _ t => .plain 0x05 (t.sourcePair w.a) iss.word) := by
  intro s iss g l t h _ hh hbad hclean
  obtain ⟨hpa, hpb⟩ := launch_sources h
  have hreach : (s.env iss g l).reach (t.sourcePair w.a) 128 .store 2 = .error (.plain 0x05 (t.sourcePair w.a) iss.word) := if_pos hbad
  refine faultTaken_of rfl rfl h hh ?_ rfl hclean
  rw [withThread_one h, hpa, hpb]
  dsimp only
  rw [if_neg (fun hp => hbad hp.2), hreach]

end launch

/-! ### The turn of NOTIFY -/

section notify

variable {s e : State} {iss : Issue} {g : Group} {l : Nat × Nat} {t : Thread} {w : F0} {k : Kernel} {p : Loc}

/-- NOTEBITS of the control block at `p` with bits added (05 R108, R122). -/
def noteBits (s : State) (ctx : Nat) (p : Loc) (bits32 : Word) : State :=
  s.plinthPut ctx (p.add 0x38) (bytesOfNat (s.qcbDword p 0x38 / 2 ^ 32 * 2 ^ 32 + (s.qcbDword p 0x38 % 2 ^ 32 ||| bits32.toNat)) 8)

/-- A vector of 2,048 or more signals nothing, 0xFFFF among them (05 R108, 15 R339). -/
theorem msix_none {v : Nat} (h : 2048 ≤ v) : s.msix v = s := if_pos h

theorem msix_sent {v : Nat} (h : v < 2048) (hup : s.linkUp 0 = true) : s.msix v = { (s.wakePort 0) with msi := s.msi ++ [v] } := by
  unfold State.msix
  rw [if_neg (Nat.not_le.2 h), if_pos hup]

theorem msix_kept {v : Nat} (h : v < 2048) (hdown : s.linkUp 0 = false) : s.msix v = if v ∈ s.msiHeld then s else { s with msiHeld := s.msiHeld ++ [v] } := by
  unfold State.msix
  rw [if_neg (Nat.not_le.2 h), if_neg (by simp [hdown])]
  simp only [List.contains_eq_mem, decide_eq_true_eq]

theorem notify_turn (h : s.IssuesOne iss g (.notify w) l t) (hk : s.kern? g.kern = some k) (hp : s.route g.ctx k.qcb.toNat .store = .ok p) :
    ∃ body, exec (.notify w) s = .next (runWord (.notify w) s body) ∧ body iss l.2 s =
      match (if s.locHeld iss.core p (some (iss.grp, l.2)) then none else s.drainThread iss.core iss.grp l.2) with
      | none => .hold s
      | some e => .done ((noteBits e g.ctx p (t.v.get (vnum w.a))).msix ((noteBits e g.ctx p (t.v.get (vnum w.a))).qcbDword p 0x30 % 65536)) none := by
  have hsource : (s.env iss g l).v t (vnum w.a) = t.v.get (vnum w.a) := by
    obtain ⟨-, -, ha, -⟩ := static0 (i := .notify w) rfl (wordFault_none h.legal)
    exact v_field _ ha (reads_a (i := .notify w) rfl h.live) 0 (by decide)
  have hvector : ∀ (x : State) (v : Nat), (if v = 0xFFFF then x else x.msix v) = x.msix v := by
    intro x v
    split
    · next hv => exact (msix_none (by omega)).symm
    · rfl
  refine ⟨_, rfl, ?_⟩
  rw [withThread_one h, hsource]
  dsimp only
  rw [show (s.env iss g l).grp = g from rfl, hk]
  dsimp only [Option.map_some, Option.getD_some]
  rw [hp]
  dsimp only
  simp only [hvector]
  rfl

theorem notify_waits (h : s.IssuesOne iss g (.notify w) l t) (hk : s.kern? g.kern = some k) (hp : s.route g.ctx k.qcb.toNat .store = .ok p)
    (hheld : s.locHeld iss.core p (some (iss.grp, l.2)) = true ∨ s.drainThread iss.core iss.grp l.2 = none) : Waits s iss (.notify w) := by
  obtain ⟨body, hx, hbody⟩ := notify_turn h hk hp
  refine waits_of_hold hx rfl h (hbody.trans ?_)
  rw [show (if s.locHeld iss.core p (some (iss.grp, l.2)) = true then none else s.drainThread iss.core iss.grp l.2) = none from ?_]
  rcases hheld with hheld | hdrain
  · exact if_pos hheld
  · rw [hdrain, ite_self]

theorem notify_retires (h : s.IssuesOne iss g (.notify w) l t) (hk : s.kern? g.kern = some k) (hp : s.route g.ctx k.qcb.toNat .store = .ok p)
    (hheld : s.locHeld iss.core p (some (iss.grp, l.2)) = false) (hdrain : s.drainThread iss.core iss.grp l.2 = some e) :
    let e1 := noteBits e g.ctx p (t.v.get (vnum w.a))
    Retires s iss (.notify w) l (e1.msix (e1.qcbDword p 0x30 % 65536)) := by
  obtain ⟨body, hx, hbody⟩ := notify_turn h hk hp
  rw [hheld, hdrain] at hbody
  exact (((undisturbed_of_issuesOne h).kept (drainThread_kept hdrain)).beside (by simp [noteBits])).retires hx rfl h hbody

theorem notify_signals (h : s.IssuesOne iss g (.notify w) l t) (hk : s.kern? g.kern = some k) (hp : s.route g.ctx k.qcb.toNat .store = .ok p)
    (hheld : s.locHeld iss.core p (some (iss.grp, l.2)) = false) (hdrain : s.drainThread iss.core iss.grp l.2 = some e) :
    let e1 := noteBits e g.ctx p (t.v.get (vnum w.a))
    let v := e1.qcbDword p 0x30 % 65536
    (2048 ≤ v → Retires s iss (.notify w) l e1)
    ∧ (v < 2048 → e1.linkUp 0 = true → Retires s iss (.notify w) l { (e1.wakePort 0) with msi := e1.msi ++ [v] })
    ∧ (v < 2048 → e1.linkUp 0 = false → Retires s iss (.notify w) l (if v ∈ e1.msiHeld then e1 else { e1 with msiHeld := e1.msiHeld ++ [v] })) := by
  intro e1 v
  have hdone : Retires s iss (.notify w) l (e1.msix v) := notify_retires h hk hp hheld hdrain
  refine ⟨fun hv => ?_, fun hv hup => ?_, fun hv hdown => ?_⟩
  · rwa [msix_none hv] at hdone
  · rwa [msix_sent hv hup] at hdone
  · rwa [msix_kept hv hdown] at hdone

end notify

/-- Settles O41: `launch_ends` is the turn of LAUNCH after its checks and `notify_signals` that of NOTIFY; neither's effect disturbs the thread, whatever the notify runs (`beside`). -/
theorem queueWords : Obligations.QueueWords := by
  unfold Obligations.QueueWords
  refine ⟨fun w s iss g l t ql pl h hb hql hpl => ⟨fun hdrain => ?_, fun e hdrain => ?_⟩, launch_misaligned_packet, launch_misaligned_queue, fun w s iss g l t k p h hk hp => ⟨notify_waits h hk hp, fun e hheld hdrain => notify_signals h hk hp hheld hdrain⟩, plinthPut_mem⟩
  · refine launch_waits h hb hql hpl ?_
    unfold launchTurn
    rw [hdrain]
  · obtain ⟨hrefused, htaken⟩ := launch_ends h hb hql hpl hdrain
    refine ⟨fun hown => hrefused 2 (launchRefusal_notOwn hown), fun hown hbad => hrefused 3 (launchRefusal_error hown hbad), fun hown hbad hfull => hrefused 1 (launchRefusal_full hown hbad hfull),
      fun rl hown hbad hfull hentry hroute => ?_⟩
    obtain ⟨hwaits, hfills⟩ := htaken rl (launchRefusal_none hown hbad hfull) hentry hroute
    refine ⟨hwaits, fun hfilled hheld => ?_⟩
    have hdone := hfills hfilled hheld
    exact ⟨fun hslot => launchNotify_held hslot ▸ hdone, fun hslot => launchNotify_pending hslot ▸ hdone⟩

end Sys2Proof.Proofs

/-! ## A queue slot and what becomes of it (05 R106 to R115) -/

namespace Sys2Proof.Proofs

open Sys2Proof.Machine Sys2Proof.Laws

section standing

variable {s e : State} {k : Nat} {q : QSlot}

/-- A queue record but for what its accesses to memory may note in it at any time: faults waited for, FINSEQ as written, a notify that is owed, since when it is idle. -/
def enduring (q : QSlot) : QSlot := { q with finseq := 0, idleSince := 0, pendNotify := false, wait := none, hwait := none, reread := false }

/-- What stands of the queue record of a key. -/
def standing (s : State) (k : Nat) : Option QSlot := (s.slot? k).map enduring

theorem standing_of_slot (h : s.slot? k = some q) : standing s k = some (enduring q) := congrArg (Option.map enduring) h

theorem slot_of_standing (h : standing s k = some q) : ∃ x, s.slot? k = some x ∧ enduring x = q := Option.map_eq_some_iff.1 h

theorem standing_of_apart (h : apart e = apart s) (k : Nat) : standing e k = standing s k := congrArg (Option.map enduring) (slot?_of_apart h k)

@[simp] theorem setSlot_standing (k : Nat) (q : QSlot) : standing (s.setSlot k q) k = some (enduring q) := standing_of_slot (setSlot_slot? k q)

@[simp] theorem slotWait_standing (k : Nat) (q : QSlot) (va : Nat) (f : PgFault) : standing (s.slotWait k q va f) k = some (enduring q) := setSlot_standing k _

@[simp] theorem headWait_standing (k : Nat) (q : QSlot) (va : Nat) (f : PgFault) : standing (s.headWait k q va f) k = some (enduring q) := setSlot_standing k _

theorem tellNotify_standing (h : standing s k = some (enduring q)) (l : Loc) : standing (s.tellNotify k q l) k = some (enduring q) := by
  unfold State.tellNotify
  dsimp only
  split
  · exact h
  split
  · exact setSlot_standing k _
  · rw [standing_of_apart (msix_apart _)]
    exact setSlot_standing k _

@[simp] theorem qcbSync_standing (k : Nat) (clear : Bool) : standing (s.qcbSync k clear) k = standing s k := by
  unfold State.qcbSync
  split
  · rfl
  next q hq =>
  rw [standing_of_slot hq]
  dsimp only
  split
  · exact setSlot_standing k _
  split
  · split
    · exact tellNotify_standing (setSlot_standing k _) _
    · exact setSlot_standing k _
  · exact slotWait_standing k _ _ _

@[simp] theorem slotState_standing (k : Nat) (st : QueueSt) : standing (s.slotState k st) k = (standing s k).map (fun q => { q with state := st }) := by
  unfold State.slotState
  split
  next h => simp [standing, h]
  next q hq =>
  rw [standing_of_slot hq]
  split
  next hst =>
    subst hst
    exact (standing_of_slot hq).trans rfl
  · rw [qcbSync_standing]
    exact setSlot_standing k _

/-- A queue that is unmapped at nothing but its own command, in no state of those that follow its ring (05 R111). -/
def Live (st : QueueSt) : Prop := st ∈ [QueueSt.mapped, .active, .stalled]

theorem live_iff (st : QueueSt) : Live st ↔ st = .mapped ∨ st = .active ∨ st = .stalled := by
  simp [Live]

/-- PROD read again changes nothing else that stands. -/
theorem readProd_standing (h : standing s k = some q) : ∃ p, standing (s.readProd k) k = some { q with prod := p } := by
  obtain ⟨x, hx, rfl⟩ := slot_of_standing h
  unfold State.readProd
  rw [hx]
  dsimp only
  split
  · exact ⟨x.prod, h⟩
  split
  · exact ⟨x.prod, setSlot_standing k _⟩
  split
  · exact ⟨_, setSlot_standing k _⟩
  · exact ⟨x.prod, slotWait_standing k _ _ _⟩

theorem readProd_read (hq : s.slot? k = some q) (hgone : q.gone = false) (hwait : q.wait = none) {bs : List Byte} (hbs : s.devRead q.ctx (q.qcb.toNat + 0x10) 8 = .ok bs) :
    s.readProd k = s.setSlot k { q with prod := BitVec.ofNat 64 (natOfBytes bs), reread := false } := by
  unfold State.readProd
  rw [hq]
  simp only [hgone, hwait, hbs, Option.isSome_none, Bool.false_eq_true, if_false]

/-- A queue that is not DRAINING is brought to a state of R111 where it follows its ring, and nothing else that stands changes. -/
theorem settle_standing (h : standing s k = some q) (hstate : q.state ≠ .draining) : ∃ st, standing (s.settle k) k = some { q with state := st } ∧ (st = q.state ∨ Live q.state ∧ Live st) := by
  obtain ⟨x, hx, rfl⟩ := slot_of_standing h
  have hkept : ∃ st, standing s k = some { enduring x with state := st } ∧ (st = x.state ∨ Live x.state ∧ Live st) := ⟨x.state, h, .inl rfl⟩
  have hmoved : ∀ {a : State} {st : QueueSt}, apart a = apart s → standing (a.slotState k st) k = some { enduring x with state := st } := by
    intro a st ha
    rw [slotState_standing, standing_of_apart ha, h]
    rfl
  unfold State.settle
  rw [hx]
  dsimp only
  split
  · exact hkept
  split
  next hdrain => exact absurd hdrain hstate
  split
  · exact hkept
  next hlive =>
  have hlive : Live x.state := by rw [live_iff]; tauto
  split
  · exact ⟨.mapped, hmoved rfl, .inr ⟨hlive, by simp [live_iff]⟩⟩
  split
  · exact hkept
  split
  next p _ =>
    refine ⟨_, hmoved (wakeHost_apart _), .inr ⟨hlive, ?_⟩⟩
    split <;> simp [live_iff]
  next f _ =>
    have hstalled := hmoved (st := .stalled) (wakeHost_apart ((s.ctx x.ctx).desc.toNat + 0x48))
    obtain ⟨y, hy, hyx⟩ := slot_of_standing hstalled
    refine ⟨.stalled, ?_, .inr ⟨hlive, by simp [live_iff]⟩⟩
    rw [hy]
    dsimp only
    split
    · exact hstalled
    · rw [headWait_standing, hyx]

/-- The same of a queue that follows its ring. -/
theorem settle_live (h : standing s k = some q) (hlive : Live q.state) : ∃ st, standing (s.settle k) k = some { q with state := st } ∧ Live st := by
  obtain ⟨st, hst, hor⟩ := settle_standing h (by rintro hd; simp [hd, live_iff] at hlive)
  refine ⟨st, hst, ?_⟩
  rcases hor with rfl | ⟨-, hst⟩
  · exact hlive
  · exact hst

end standing

/-! ### Unmaps (05 R113, R114) -/

section unmaps

variable {s e : State} {k : Nat} {q : QSlot} {l : Loc}

theorem slotFree_slot? (hk : k < 256) (q : QSlot) (pend : Bool) : (s.slotFree k q pend).slot? k = none := by
  unfold State.slotFree
  dsimp only
  split
  · exact lookKey_dropKey_same ..
  · exact (lookKey_putKey_ne (by omega) _ _).trans (lookKey_dropKey_same ..)

/-- The unmap that a slot's freeing records (05 R113). -/
theorem slotFree_unmaps (k : Nat) (q : QSlot) (pend : Bool) :
    ({ cycle := s.plinth, slot := k, ctx := q.ctx, qcb := q.qcb, nvec := q.nvec, told := pend && q.nvec != 0xFFFF } : Unmapped) ∈ (s.slotFree k q pend).unmaps := by
  unfold State.slotFree
  dsimp only
  split <;> simp

/-- The queue as its unmap finds it: a notify that came in the same plinth cycle is pending too (05 R113). -/
def atUnmap (s : State) (q : QSlot) : QSlot := if q.unmapping then q else q.noted s.plinth

theorem atUnmap_eq (s : State) (q : QSlot) : atUnmap s q = { q with pendNotify := q.pendNotify || (!q.unmapping && decide (q.notedAt = some s.plinth)) } := by
  unfold atUnmap QSlot.noted
  split
  next h =>
    have hsame : (q.pendNotify || (!q.unmapping && decide (q.notedAt = some s.plinth))) = q.pendNotify := by simp [h]
    rw [hsame]
  next h =>
    split
    next hn => simp [h, hn]
    next hn => simp [hn]

theorem unmap_gone (hq : s.slot? k = some q) (hgone : q.gone = true) : ∃ x pend, s.unmap k = s.slotFree k x pend := by
  have hgone' : (atUnmap s q).gone = true := by rw [atUnmap_eq]; exact hgone
  refine ⟨atUnmap s q, (atUnmap s q).pendNotify, ?_⟩
  unfold State.unmap
  rw [hq, Option.map_some]
  exact if_pos hgone'

theorem unmap_reached (hq : s.slot? k = some q) (hgone : q.gone = false) (hwait : q.wait = none) (hl : s.qcbLoc q = .ok l) :
    let x := atUnmap s q
    let w := x.word40 false (natOfBytes (s.currentBytes (l.add 0x40) 8)) false
    s.unmap k = (((s.qcbPut x l 0x18 q.cons.toNat 8).qcbPut x l 0x48 x.fin.toNat 8).qcbPut x l 0x40 w 8).slotFree k x (w.testBit 6 || natOfBytes (s.currentBytes (l.add 0x10) 8) != q.cons.toNat) := by
  have hx := atUnmap_eq s q
  have hfields : (atUnmap s q).gone = false ∧ (atUnmap s q).wait = none ∧ s.qcbLoc (atUnmap s q) = .ok l ∧ (atUnmap s q).cons = q.cons := by
    rw [hx]
    exact ⟨hgone, hwait, hl, rfl⟩
  obtain ⟨hgone', hwait', hl', hcons⟩ := hfields
  unfold State.unmap
  rw [hq, Option.map_some, show (if q.unmapping then q else q.noted s.plinth) = atUnmap s q from rfl]
  dsimp only
  rw [hgone', hwait', hl', hcons]
  rfl

/-- An unmap that waits for nothing frees its slot. -/
theorem unmap_slot? (hk : k < 256) (hq : s.slot? k = some q) (h : q.gone = true ∨ q.wait = none ∧ ∃ l, s.qcbLoc q = .ok l) : (s.unmap k).slot? k = none := by
  cases hgone : q.gone with
  | true =>
    obtain ⟨x, pend, hx⟩ := unmap_gone hq hgone
    rw [hx]
    exact slotFree_slot? hk x pend
  | false =>
    obtain ⟨hwait, l, hl⟩ := h.resolve_left (by simp [hgone])
    rw [unmap_reached hq hgone hwait hl]
    exact slotFree_slot? hk _ _

/-- PENDNOTIFY of the word at 0x40 of an unmapped queue (05 R108, R109). -/
theorem word40_pendNotify (q : QSlot) (old : Nat) (h : q.errcode < 8) : (q.word40 false old false).testBit 6 = (q.pendNotify || old.testBit 6) := by
  have herr : q.errcode.testBit 6 = false := Nat.testBit_lt_two_pow (by omega)
  have hbit : Nat.testBit 0x40 6 = true := rfl
  unfold QSlot.word40
  cases q.pendNotify <;> cases hold : old.testBit 6 <;> simp [Nat.testBit_or, Nat.testBit_shiftLeft, herr, hbit]

theorem plinth_of_beside (h : beside e = beside s) : e.plinth = s.plinth := congrArg (fun a : Apart => a.tick / Config.plinthTicks) h

/-- An unmap signals NVEC exactly where a notify is owed: PENDNOTIFY, one of its plinth cycle, or a PROD past CONS (05 R113, R114). -/
theorem unmap_tells (hq : s.slot? k = some q) (herr : q.errcode < 8) (hgone : q.gone = false) (hwait : q.wait = none) (hl : s.qcbLoc q = .ok l) :
    let at_ (n : Nat) : Nat := natOfBytes (s.currentBytes (l.add n) 8)
    ∃ u ∈ (s.unmap k).unmaps, u.slot = k ∧ u.cycle = s.plinth
      ∧ (u.told = true ↔ q.nvec ≠ 0xFFFF ∧ (q.pendNotify = true ∨ q.unmapping = false ∧ q.notedAt = some s.plinth ∨ (at_ 0x40).testBit 6 = true ∨ at_ 0x10 ≠ q.cons.toNat)) := by
  intro at_
  rw [unmap_reached hq hgone hwait hl]
  refine ⟨_, slotFree_unmaps .., rfl, plinth_of_beside (by simp), ?_⟩
  have hx := atUnmap_eq s q
  rw [word40_pendNotify _ _ (by rw [hx]; exact herr), hx]
  simp only [Bool.and_eq_true, Bool.or_eq_true, bne_iff_ne, Bool.not_eq_true', decide_eq_true_eq]
  tauto

end unmaps

/-! ### A write of QSLOTCMD (05 R106, R107) -/

section commands

variable {s : State} {w : Dword} {k : Nat} {q : QSlot} {l : Loc}

/-- A write of QSLOTCMD is a command of operation `op`, and is taken up (05 R107). -/
def SlotReady (s : State) (w : Dword) (op : Nat) : Prop := HostUp s ∧ 6 ≤ s.boot ∧ s.slotBusy = false ∧ w.toNat / 2 ^ 24 = 0 ∧ w.toNat / 2 ^ 12 % 16 = 0 ∧ w.toNat / 2 ^ 8 % 16 = op

/-- The device after a command that changes nothing but what QSLOTSTAT shows (05 R106). -/
def slotResult (s : State) (e : Nat) (w : Dword) : State := { (s.wakePort 0) with bar := { s.bar with qErr := e, qLast := w.toNat % 256 } }

theorem bits_63_24 (w : Dword) : bits w 63 24 = w.toNat / 2 ^ 24 := by
  rw [bits_eq_div_mod]
  have := w.isLt
  omega

theorem wakePort_slotBusy (s : State) (p : Nat) : (s.wakePort p).slotBusy = s.slotBusy := by
  unfold State.slotBusy State.slotWaits State.slot?
  rw [wakePort_bar, wakePort_slots]

theorem slotCommand_busy (hup : HostUp s) (h : s.boot < 6 ∨ s.slotBusy = true) (op : Nat) (f : State → Nat → State) : s.slotCommand w op f = { (s.wakePort 0) with bar := { s.bar with qErr := 2 } } := by
  have hbusy : (s.wakePort 0).boot < 6 ∨ (s.wakePort 0).slotBusy = true := by rw [wakePort_boot, wakePort_slotBusy]; exact h
  unfold State.slotCommand
  rw [hup.answers, if_neg Bool.false_ne_true]
  dsimp only
  rw [if_pos hbusy]
  simp [State.slotDone]

theorem slotCommand_idle (hup : HostUp s) (hboot : 6 ≤ s.boot) (hbusy : s.slotBusy = false) (op : Nat) (f : State → Nat → State) :
    s.slotCommand w op f =
      if w.toNat / 2 ^ 24 ≠ 0 ∨ w.toNat / 2 ^ 12 % 16 ≠ 0 ∨ w.toNat / 2 ^ 8 % 16 = 0 ∨ 3 < w.toNat / 2 ^ 8 % 16 then (s.wakePort 0).slotDone 5 none
      else if w.toNat / 2 ^ 8 % 16 ≠ op then s
      else (f (slotResult s 0 w) (w.toNat % 256)).slotPending (w.toNat % 256) := by
  have hfree : ¬((s.wakePort 0).boot < 6 ∨ (s.wakePort 0).slotBusy = true) := by rw [wakePort_boot, wakePort_slotBusy, hbusy]; simpa using hboot
  have hlow : bits w 7 0 = w.toNat % 256 := by rw [bits_eq_div_mod]; simp
  have hcode : bits w 11 8 = w.toNat / 2 ^ 8 % 16 := bits_eq_div_mod w 11 8
  have hmid : bits w 15 12 = w.toNat / 2 ^ 12 % 16 := bits_eq_div_mod w 15 12
  have hdone : (s.wakePort 0).slotDone 0 (some (w.toNat % 256)) = slotResult s 0 w := by simp [State.slotDone, slotResult]
  unfold State.slotCommand
  rw [hup.answers, if_neg Bool.false_ne_true]
  dsimp only
  rw [if_neg hfree, bits_63_24, hmid, hcode, hlow, hdone]

theorem slotCommand_malformed (hup : HostUp s) (hboot : 6 ≤ s.boot) (hbusy : s.slotBusy = false) (h : w.toNat / 2 ^ 24 ≠ 0 ∨ w.toNat / 2 ^ 12 % 16 ≠ 0 ∨ w.toNat / 2 ^ 8 % 16 = 0 ∨ 3 < w.toNat / 2 ^ 8 % 16)
    (op : Nat) (f : State → Nat → State) : s.slotCommand w op f = { (s.wakePort 0) with bar := { s.bar with qErr := 5 } } := by
  rw [slotCommand_idle hup hboot hbusy, if_pos h]
  simp [State.slotDone]

theorem slotCommand_ready {op : Nat} (h : SlotReady s w op) (hop : 1 ≤ op ∧ op ≤ 3) (f : State → Nat → State) :
    s.slotCommand w op f = (f (slotResult s 0 w) (w.toNat % 256)).slotPending (w.toNat % 256) := by
  obtain ⟨hup, hboot, hbusy, hhigh, hmid, hcode⟩ := h
  rw [slotCommand_idle hup hboot hbusy, if_neg (by omega), if_neg (by omega)]

/-- A command that is refused with an error (05 R106). -/
theorem slotCommand_refused {op n : Nat} (h : SlotReady s w op) (hop : 1 ≤ op ∧ op ≤ 3) {f : State → Nat → State} (hn : n ≠ 0) (hf : f (slotResult s 0 w) (w.toNat % 256) = (slotResult s 0 w).slotDone n none) :
    s.slotCommand w op f = slotResult s n w := by
  rw [slotCommand_ready h hop, hf]
  exact if_neg fun hp => hn hp.1

theorem slotCommand_writes {i : Instr} (hi : i ∈ [.qslotMap w, .qslotUnmap w, .qslotReset w]) (s : State) : ∃ op f, exec i s = .next (s.slotCommand w op f) := by
  simp only [List.mem_cons, List.not_mem_nil, or_false] at hi
  rcases hi with rfl | rfl | rfl <;> exact ⟨_, _, rfl⟩

/-! A command finds every queue, context and memory as the write did. -/

theorem slotResult_ports (s : State) (e : Nat) (w : Dword) : ∃ P B, slotResult s e w = { s with ports := P, bar := B } := by
  unfold slotResult State.wakePort
  split
  · exact ⟨_, _, rfl⟩
  · exact ⟨s.ports, _, rfl⟩

@[simp] theorem slotResult_slot? (s : State) (e : Nat) (w : Dword) (k : Nat) : (slotResult s e w).slot? k = s.slot? k := by
  obtain ⟨P, B, h⟩ := slotResult_ports s e w
  rw [h]
  rfl

@[simp] theorem slotResult_slots (s : State) (e : Nat) (w : Dword) : (slotResult s e w).slots = s.slots := by
  obtain ⟨P, B, h⟩ := slotResult_ports s e w
  rw [h]

@[simp] theorem slotResult_ctx (s : State) (e : Nat) (w : Dword) (c : Nat) : (slotResult s e w).ctx c = s.ctx c := by
  obtain ⟨P, B, h⟩ := slotResult_ports s e w
  rw [h]
  rfl

@[simp] theorem slotResult_plinth (s : State) (e : Nat) (w : Dword) : (slotResult s e w).plinth = s.plinth := by
  obtain ⟨P, B, h⟩ := slotResult_ports s e w
  rw [h]
  rfl

@[simp] theorem slotResult_route (s : State) (e : Nat) (w : Dword) (c va : Nat) (x : Want) : (slotResult s e w).route c va x = s.route c va x := by
  obtain ⟨P, B, h⟩ := slotResult_ports s e w
  rw [h]
  rfl

@[simp] theorem slotResult_currentBytes (s : State) (e : Nat) (w : Dword) (l : Loc) (n : Nat) : (slotResult s e w).currentBytes l n = s.currentBytes l n := by
  obtain ⟨P, B, h⟩ := slotResult_ports s e w
  rw [h]
  rfl

@[simp] theorem slotResult_qcbLoc (s : State) (e : Nat) (w : Dword) (q : QSlot) : (slotResult s e w).qcbLoc q = s.qcbLoc q := slotResult_route ..

/-- A command still in progress says so in BUSY alone (05 R107). -/
theorem slotPending_frame (s : State) (k : Nat) : (s.slotPending k).slots = s.slots ∧ (s.slotPending k).bar.qErr = s.bar.qErr ∧ (s.slotPending k).bar.qLast = s.bar.qLast ∧ (s.slotPending k).tick = s.tick := by
  unfold State.slotPending
  split <;> exact ⟨rfl, rfl, rfl, rfl⟩

end commands

end Sys2Proof.Proofs

/-! ## Queue slot commands, notifies and idle unmaps (05 R106 to R115) -/

namespace Sys2Proof.Proofs

open Sys2Proof.Machine Sys2Proof.Laws

/-! ### Numbers that the device reads -/

section numbers

theorem natOfBytes_lt (bs : List Byte) : natOfBytes bs < 256 ^ bs.length := by
  induction bs with
  | nil => simp [natOfBytes]
  | cons b bs ih =>
    have hb : b.toNat < 256 := b.isLt
    rw [natOfBytes, List.length_cons, pow_succ]
    omega

theorem natOfBytes_take (n : Nat) (bs : List Byte) : natOfBytes (bs.take n) = natOfBytes bs % 256 ^ n := by
  induction n generalizing bs with
  | zero => simp [natOfBytes, Nat.mod_one]
  | succ n ih =>
    cases bs with
    | nil => simp [natOfBytes]
    | cons b bs =>
      have hb : b.toNat < 256 := b.isLt
      rw [List.take_succ_cons, natOfBytes, natOfBytes, ih, pow_succ', Nat.mod_mul]
      have hlow : (b.toNat + 256 * natOfBytes bs) % 256 = b.toNat := by omega
      have hhigh : (b.toNat + 256 * natOfBytes bs) / 256 = natOfBytes bs := by omega
      rw [hlow, hhigh]

theorem currentBytes_length (s : State) (l : Loc) (n : Nat) : (s.currentBytes l n).length ≤ n := by
  have hread : ∀ (m : Mem) (a : Nat), (m.read a n).length = n := fun m a => by simp [Mem.read]
  cases l with
  | mem va pa => exact (hread ..).le
  | cell g off r =>
    unfold State.currentBytes State.scratchRead
    dsimp only
    split
    · exact (hread ..).le
    · simp
  | frame off => simp [State.currentBytes]

/-- A doubleword read is one of 64 bits. -/
theorem currentBytes_dword (s : State) (l : Loc) : natOfBytes (s.currentBytes l 8) < 2 ^ 64 :=
  (natOfBytes_lt _).trans_le (Nat.pow_le_pow_right (by decide) (currentBytes_length s l 8))

theorem devRead_dword {s : State} {c va : Nat} {bs : List Byte} (h : s.devRead c va 8 = .ok bs) : natOfBytes bs < 2 ^ 64 := by
  unfold State.devRead at h
  split at h
  next l _ =>
    obtain rfl := Except.ok.inj h
    exact currentBytes_dword s l
  · cases h

theorem toNat_dword {n : Nat} (h : n < 2 ^ 64) : (BitVec.ofNat 64 n).toNat = n := Nat.mod_eq_of_lt h

end numbers

/-! ### MAP (05 R107, R108, R111) -/

section map

variable {s e : State} {w : Dword} {k c : Nat} {a : Dword} {q : QSlot} {d : Nat → Nat} {l : Loc}

/-- What a MAP takes of a control block, and what stands of it as the queue goes on. -/
structure Bound (d : Nat → Nat) (c : Nat) (a : Dword) (q : QSlot) : Prop where
  ctx : q.ctx = c
  qcb : q.qcb = a
  rbase : q.rbase = BitVec.ofNat 64 (d 1)
  rlog : q.rlog = d 0 / 2 ^ 16 % 32
  prio : q.prio = d 0 / 2 ^ 24 % 32
  prod : q.prod = BitVec.ofNat 64 (d 2)
  cons : q.cons = BitVec.ofNat 64 (d 3)
  errcode : q.errcode = 0

theorem Bound.of_enduring {x : QSlot} {st : QueueSt} (h : Bound d c a q) (hx : enduring x = { enduring q with state := st }) : Bound d c a x := by
  have hfields : x.ctx = q.ctx ∧ x.qcb = q.qcb ∧ x.rbase = q.rbase ∧ x.rlog = q.rlog ∧ x.prio = q.prio ∧ x.prod = q.prod ∧ x.cons = q.cons ∧ x.errcode = q.errcode := by
    refine ⟨?_, ?_, ?_, ?_, ?_, ?_, ?_, ?_⟩
    · exact (congrArg QSlot.ctx hx :)
    · exact (congrArg QSlot.qcb hx :)
    · exact (congrArg QSlot.rbase hx :)
    · exact (congrArg QSlot.rlog hx :)
    · exact (congrArg QSlot.prio hx :)
    · exact (congrArg QSlot.prod hx :)
    · exact (congrArg QSlot.cons hx :)
    · exact (congrArg QSlot.errcode hx :)
  obtain ⟨hctx, hqcb, hrbase, hrlog, hprio, hprod, hcons, herr⟩ := hfields
  exact ⟨hctx.trans h.ctx, hqcb.trans h.qcb, hrbase.trans h.rbase, hrlog.trans h.rlog, hprio.trans h.prio, hprod.trans h.prod, hcons.trans h.cons, herr.trans h.errcode⟩

/-- A queue is bound with its control block's fields, SUSPENDED in a SUSPENDED context and MAPPED else, and then brought to its state. -/
theorem bindSlot_settles (s : State) (k c : Nat) (a : Dword) (d : Nat → Nat) :
    ∃ (e : State) (q : QSlot), s.bindSlot k c a d = e.settle k ∧ beside e = beside s ∧ standing e k = some (enduring q) ∧ Bound d c a q ∧ q.state = if (s.ctx c).state = .suspended then .suspended else .mapped := by
  unfold State.bindSlot
  dsimp only
  refine ⟨_, _, rfl, ?_, (qcbSync_standing ..).trans (setSlot_standing ..), ?_, ?_⟩
  · rw [qcbSync_beside, setSlot_beside]
    split <;> rfl
  · exact ⟨rfl, rfl, rfl, rfl, rfl, rfl, rfl, rfl⟩
  · simp

theorem qslotMap_turn (h : SlotReady s w 1) :
    exec (.qslotMap w) s = .next (((slotResult s 0 w).mapTry (w.toNat % 256) (w.toNat / 2 ^ 16 % 256) s.bar.qslotaddr false).slotPending (w.toNat % 256)) := by
  have hctx : bits w 23 16 = w.toNat / 2 ^ 16 % 256 := bits_eq_div_mod w 23 16
  have hturn := slotCommand_ready h (by decide) (fun (s : State) k => s.mapTry k (bits w 23 16) s.bar.qslotaddr false)
  rw [hctx] at hturn
  change Host.Outcome.next (s.slotCommand w 1 (fun s k => s.mapTry k (bits w 23 16) s.bar.qslotaddr false)) = _
  rw [hctx]
  exact congrArg Host.Outcome.next hturn

/-- A MAP refused with an error (05 R106). -/
theorem qslotMap_refused {n : Nat} (h : SlotReady s w 1) (hn : n ≠ 0) (hmap : (slotResult s 0 w).mapTry (w.toNat % 256) (w.toNat / 2 ^ 16 % 256) s.bar.qslotaddr false = (slotResult s 0 w).slotDone n none) :
    exec (.qslotMap w) s = .next (slotResult s n w) := by
  rw [qslotMap_turn h, hmap]
  exact congrArg Host.Outcome.next (if_neg fun hp => hn hp.1)

theorem mapTry_taken (h : s.slot? k = some q) (lost : Bool) : s.mapTry k c a lost = s.slotDone 1 none := if_pos (by simp [h])

theorem mapTry_ctx (h : s.slot? k = none) (hctx : (s.ctx c).state ∉ [CtxSt.active, .suspended]) (lost : Bool) : s.mapTry k c a lost = s.slotDone 4 none := by
  unfold State.mapTry
  rw [if_neg (by simp [h]), if_pos (by simpa using hctx)]

/-- A control block is held by a queue: its MAPPED bit, or a slot with it (05 R108). -/
def BlockHeld (s : State) (c : Nat) (a : Dword) (l : Loc) : Prop :=
  (natOfBytes (s.currentBytes (l.add (8 * 8)) 8)).testBit 7 = true ∨ ∃ e ∈ s.slots, e.1 < 256 ∧ e.2.ctx = c ∧ e.2.qcb = a

theorem mapTry_reached (h : s.slot? k = none) (hctx : (s.ctx c).state ∈ [CtxSt.active, .suspended]) (hl : s.route c a.toNat .store = .ok l) (lost : Bool) :
    let d (i : Nat) : Nat := natOfBytes (s.currentBytes (l.add (8 * i)) 8)
    (qcbOk d c (s.ctx c).prioCap = false ∨ BlockHeld s c a l → s.mapTry k c a lost = s.slotDone 3 none)
    ∧ (qcbOk d c (s.ctx c).prioCap = true → ¬BlockHeld s c a l → s.mapTry k c a lost = s.bindSlot k c a d) := by
  intro d
  have hheld : (((d 8).testBit 7 || s.slots.any (fun e => decide (e.1 < 256) && e.2.ctx == c && decide (e.2.qcb = a))) = true) ↔ BlockHeld s c a l := by
    simp [BlockHeld, d, and_assoc]
  have hmap : s.mapTry k c a lost = if (!qcbOk d c (s.ctx c).prioCap || ((d 8).testBit 7 || s.slots.any (fun e => decide (e.1 < 256) && e.2.ctx == c && decide (e.2.qcb = a)))) = true then s.slotDone 3 none else s.bindSlot k c a d := by
    unfold State.mapTry
    rw [if_neg (by simp [h]), if_neg (by simpa [imp_iff_not_or] using hctx), hl]
  constructor
  · intro hbad
    rw [hmap, if_pos]
    rw [Bool.or_eq_true, hheld, Bool.not_eq_true']
    exact hbad
  · intro hok hfree
    rw [hmap, if_neg]
    rw [Bool.or_eq_true, hheld, hok]
    simpa using hfree

/-- A MAP that passes its tests: the queue takes its control block's fields, and is brought to its state (05 R108, R111). -/
theorem qslotMap_binds (h : SlotReady s w 1)
    (hmap : (slotResult s 0 w).mapTry (w.toNat % 256) (w.toNat / 2 ^ 16 % 256) s.bar.qslotaddr false = (slotResult s 0 w).bindSlot (w.toNat % 256) (w.toNat / 2 ^ 16 % 256) s.bar.qslotaddr d) :
    ∃ (e s' : State) (q0 q : QSlot), exec (.qslotMap w) s = .next s' ∧ s'.slot? (w.toNat % 256) = some q ∧ s'.bar.qErr = 0 ∧ s'.bar.qLast = w.toNat % 256 ∧ Bound d (w.toNat / 2 ^ 16 % 256) s.bar.qslotaddr q
      ∧ e.slot? (w.toNat % 256) = some q0 ∧ Bound d (w.toNat / 2 ^ 16 % 256) s.bar.qslotaddr q0 ∧ q0.state = (if (s.ctx (w.toNat / 2 ^ 16 % 256)).state = .suspended then .suspended else .mapped) ∧ (q.state = q0.state ∨ Live q0.state ∧ Live q.state)
      ∧ s'.slot? (w.toNat % 256) = (e.settle (w.toNat % 256)).slot? (w.toNat % 256) := by
  obtain ⟨e, x, hbind, hbeside, hstand, hbound, hstate⟩ := bindSlot_settles (slotResult s 0 w) (w.toNat % 256) (w.toNat / 2 ^ 16 % 256) s.bar.qslotaddr d
  rw [slotResult_ctx] at hstate
  obtain ⟨q0, hq0, hq0x⟩ := slot_of_standing hstand
  have hstate0 : q0.state = x.state := (congrArg QSlot.state hq0x :)
  have hdrain : (enduring x).state ≠ .draining := by
    change x.state ≠ .draining
    rw [hstate]
    split <;> simp
  obtain ⟨st, hst, hor⟩ := settle_standing hstand hdrain
  obtain ⟨q, hq, hqx⟩ := slot_of_standing hst
  obtain ⟨hslots, herr, hlast, -⟩ := slotPending_frame (e.settle (w.toNat % 256)) (w.toNat % 256)
  have hslot : ∀ n, ((e.settle (w.toNat % 256)).slotPending (w.toNat % 256)).slot? n = (e.settle (w.toNat % 256)).slot? n := fun n => congrArg (lookKey n) hslots
  have hbar : (e.settle (w.toNat % 256)).bar = (slotResult s 0 w).bar := congrArg Apart.bar ((settle_beside _).trans hbeside)
  have hstx : q.state = st := (congrArg QSlot.state hqx :)
  refine ⟨e, _, q0, q, (qslotMap_turn h).trans (congrArg (fun t : State => Host.Outcome.next (t.slotPending _)) (hmap.trans hbind)), (hslot _).trans hq, ?_, ?_, ?_, hq0, ?_, hstate0.trans hstate, ?_, hslot _⟩
  · rw [herr, hbar]
    rfl
  · rw [hlast, hbar]
    rfl
  · exact hbound.of_enduring hqx
  · exact hbound.of_enduring (st := x.state) hq0x
  · rw [hstx, hstate0]
    exact hor

end map

/-! ### Time passes to the next plinth cycle (01 R19, 16 R369) -/

section time

variable {s : State}

theorem withHbm_tick (H : Mem) : ({ s with hbm := H } : State).tick = s.tick := rfl

theorem ringWrite_tick (desc size body : Nat) : (s.ringWrite desc size body).tick = s.tick := by
  unfold State.ringWrite
  extract_lets lim log base prod cons drop place
  clear_value lim log base prod cons drop place
  split
  · rfl
  split
  · exact withHbm_tick _
  split
  · rfl
  · exact withHbm_tick _

theorem traceRecord_tick (core kind id ctx gidx count trig : Nat) (kseq regtop : Word) : (s.traceRecord core kind id ctx gidx count trig kseq regtop).tick = s.tick := by
  unfold State.traceRecord
  extract_lets c dw1 body
  clear_value c dw1 body
  rw [ringWrite_tick, setCore_tick]

theorem eventRecords_tick (outs : List (Trigger × Trigger × Option Nat × Option Nat)) (e : TrigEvent) (k : Nat) : (s.eventRecords outs e k).tick = s.tick := by
  unfold State.eventRecords
  dsimp only
  rw [apply_ite State.tick, traceRecord_tick, ite_self]
  refine foldl_inv (fun a : State => a.tick = s.tick) _ (fun a x ha => ?_) rfl
  split
  · exact (traceRecord_tick ..).trans ha
  split
  · exact (traceRecord_tick ..).trans ha
  · exact ha

theorem answer_tick (e : TrigEvent) (halt : Option Nat) : (s.answer e halt).tick = s.tick := by
  unfold State.answer
  split
  · refine foldl_inv (fun a : State => a.tick = s.tick) _ (fun a k ha => ?_) rfl
    dsimp only
    repeat' split
    all_goals exact ha
  · split
    · exact foldl_inv (fun a : State => a.tick = s.tick) _ (fun a t ha => (modThread_tick ..).trans ha) rfl
    · rfl

theorem evalTriggers_tick (c : Nat) (es : List TrigEvent) : (s.evalTriggers c es).tick = s.tick := by
  unfold State.evalTriggers
  dsimp only
  refine foldl_inv (fun a : State => a.tick = s.tick) _ (fun a x ha => (answer_tick ..).trans ha) ?_
  split
  · exact foldl_inv (fun a : State => a.tick = s.tick) _ (fun a x ha => (eventRecords_tick ..).trans ha) rfl
  · rfl

theorem flushEvents_tick (s : State) : s.flushEvents.tick = s.tick := by
  unfold State.flushEvents
  refine foldl_inv (fun a : State => a.tick = s.tick) _ (fun a c ha => ?_) rfl
  split
  · exact (evalTriggers_tick ..).trans ha
  · exact ha

theorem advance_tick (s : State) (n : Nat) : (s.advance n).tick = s.tick + n := by
  unfold State.advance
  dsimp only
  split
  · rfl
  · rw [flushEvents_tick]

theorem nextPlinth_plinth (s : State) : s.nextPlinth.plinth = s.plinth + 1 := by
  have htick : s.nextPlinth.tick = s.tick + (315 - s.tick % 315) := advance_tick ..
  have hnow : s.plinth = s.tick / 315 := rfl
  have hthen : s.nextPlinth.plinth = s.nextPlinth.tick / 315 := rfl
  omega

end time

/-! ### UNMAP and RESET (05 R107, R111, R114) -/

section unmap

variable {s : State} {w : Dword} {k : Nat} {q : QSlot}

/-- What an UNMAP that is taken up makes of a slot (05 R111, R114). -/
def unmapTurn (s0 : State) (k : Nat) : State :=
  let s := s0.afterAccept k
  match s.slot? k with
  | none => s.slotDone 1 none
  | some q =>
    match q.state with
    | .mapped | .active | .stalled => s.hostUnmap k
    | .suspended => if q.cmds.isEmpty then s.unmap k else s.slotDone 1 none
    | .error => s.unmap k
    | _ => s.slotDone 1 none

theorem qslotUnmap_turn (h : SlotReady s w 2) : exec (.qslotUnmap w) s = .next ((unmapTurn (slotResult s 0 w) (w.toNat % 256)).slotPending (w.toNat % 256)) := by
  change Host.Outcome.next (s.slotCommand w 2 unmapTurn) = _
  exact congrArg Host.Outcome.next (slotCommand_ready h (by decide) unmapTurn)

theorem qslotUnmap_refused (h : SlotReady s w 2) (hturn : unmapTurn (slotResult s 0 w) (w.toNat % 256) = (slotResult s 0 w).slotDone 1 none) : exec (.qslotUnmap w) s = .next (slotResult s 1 w) := by
  change Host.Outcome.next (s.slotCommand w 2 unmapTurn) = _
  exact congrArg Host.Outcome.next (slotCommand_refused h (by decide) one_ne_zero hturn)

theorem tick_of_beside {e : State} (h : beside e = beside s) : e.tick = s.tick := congrArg Apart.tick h

theorem hostUnmap_tick (k : Nat) : (s.hostUnmap k).tick = s.tick := by
  unfold State.hostUnmap
  split
  · rfl
  split
  · exact tick_of_beside (unmap_beside k)
  · exact tick_of_beside (slotState_beside k .draining)

theorem unmapTurn_tick (s : State) (k : Nat) : (unmapTurn s k).tick = (s.afterAccept k).tick := by
  unfold unmapTurn
  generalize s.afterAccept k = a
  dsimp only
  split
  · rfl
  split
  · exact hostUnmap_tick k
  · exact hostUnmap_tick k
  · exact hostUnmap_tick k
  · split
    · exact tick_of_beside (unmap_beside k)
    · rfl
  · exact tick_of_beside (unmap_beside k)
  · rfl

theorem afterAccept_waits (h : s.slot? k = some q) (haccept : q.acceptedAt = some s.plinth) : s.afterAccept k = s.nextPlinth := if_pos (by simp [h, haccept])

theorem afterAccept_same (h : ∀ q, s.slot? k = some q → q.acceptedAt ≠ some s.plinth) : s.afterAccept k = s := by
  refine if_neg ?_
  cases hq : s.slot? k with
  | none => simp
  | some q => simpa using h q hq

/-- An UNMAP of the plinth cycle of an acceptance begins in the next one (05 R114). -/
theorem qslotUnmap_waits (h : SlotReady s w 2) (hq : s.slot? (w.toNat % 256) = some q) (haccept : q.acceptedAt = some s.plinth) : ∃ s' : State, exec (.qslotUnmap w) s = .next s' ∧ s'.plinth = s.plinth + 1 := by
  have htick : ((unmapTurn (slotResult s 0 w) (w.toNat % 256)).slotPending (w.toNat % 256)).tick = (slotResult s 0 w).nextPlinth.tick := by
    rw [(slotPending_frame ..).2.2.2, unmapTurn_tick, afterAccept_waits (q := q) (by simpa using hq) (by simpa using haccept)]
  have hplinth := nextPlinth_plinth (slotResult s 0 w)
  rw [slotResult_plinth] at hplinth
  exact ⟨_, qslotUnmap_turn h, (congrArg (· / Config.plinthTicks) htick).trans hplinth⟩

theorem unmapTurn_none (h : s.slot? k = none) : unmapTurn s k = s.slotDone 1 none := by
  unfold unmapTurn
  rw [afterAccept_same (by simp [h])]
  simp only [h]

theorem unmapTurn_live (h : s.slot? k = some q) (haccept : q.acceptedAt ≠ some s.plinth) (hlive : Live q.state) : unmapTurn s k = s.hostUnmap k := by
  have hsame : s.afterAccept k = s := afterAccept_same (by rw [h]; rintro x ⟨⟩; exact haccept)
  unfold unmapTurn
  rw [hsame]
  simp only [h]
  rcases (live_iff _).1 hlive with hst | hst | hst <;> simp only [hst]

theorem unmapTurn_empty (h : s.slot? k = some q) (haccept : q.acceptedAt ≠ some s.plinth) (hstate : q.state ∈ [QueueSt.mapped, .active, .stalled, .suspended, .error]) (hcmds : q.cmds = []) : unmapTurn s k = s.unmap k := by
  have hsame : s.afterAccept k = s := afterAccept_same (by rw [h]; rintro x ⟨⟩; exact haccept)
  simp only [List.mem_cons, List.not_mem_nil, or_false] at hstate
  unfold unmapTurn
  rw [hsame]
  simp only [h]
  rcases hstate with hst | hst | hst | hst | hst <;> simp [hst, hcmds, State.hostUnmap, h]

theorem unmapTurn_refused (h : s.slot? k = some q) (haccept : q.acceptedAt ≠ some s.plinth) (hstate : q.state = .draining ∨ q.state = .suspended ∧ q.cmds ≠ []) : unmapTurn s k = s.slotDone 1 none := by
  have hsame : s.afterAccept k = s := afterAccept_same (by rw [h]; rintro x ⟨⟩; exact haccept)
  unfold unmapTurn
  rw [hsame]
  simp only [h]
  rcases hstate with hst | ⟨hst, hcmds⟩
  · simp [hst]
  · simp [hst, hcmds]

/-- An UNMAP of a queue with commands outstanding makes it DRAINING (05 R111). -/
theorem hostUnmap_drains (h : s.slot? k = some q) (hcmds : q.cmds ≠ []) : ∃ x, (s.hostUnmap k).slot? k = some x ∧ x.state = .draining ∧ x.cmds = q.cmds := by
  have hnoted : (q.noted s.plinth).cmds = q.cmds := by unfold QSlot.noted; split <;> rfl
  have hdrain : s.hostUnmap k = (s.setSlot k (q.noted s.plinth)).slotState k .draining := by
    unfold State.hostUnmap
    rw [h]
    simp [hcmds]
  have hstand : standing (s.hostUnmap k) k = some { enduring (q.noted s.plinth) with state := .draining } := by
    rw [hdrain, slotState_standing, setSlot_standing]
    rfl
  obtain ⟨x, hx, hxq⟩ := slot_of_standing hstand
  exact ⟨x, hx, (congrArg QSlot.state hxq :), ((congrArg QSlot.cmds hxq :)).trans hnoted⟩

/-- A command that changes queues alone ends with ERR 0 (05 R106). -/
theorem slotPending_done {e : State} (h : beside e = beside (slotResult s 0 w)) : (∀ n, (e.slotPending k).slot? n = e.slot? n) ∧ (e.slotPending k).bar.qErr = 0 := by
  obtain ⟨hslots, herr, -, -⟩ := slotPending_frame e k
  exact ⟨fun n => congrArg (lookKey n) hslots, herr.trans (congrArg (fun a : Apart => a.bar.qErr) h)⟩

theorem hostUnmap_beside (k : Nat) : beside (s.hostUnmap k) = beside s := by
  unfold State.hostUnmap
  split
  · rfl
  split
  · exact unmap_beside k
  · simp

theorem qslotUnmap_frees (h : SlotReady s w 2) (hq : s.slot? (w.toNat % 256) = some q) (haccept : q.acceptedAt ≠ some s.plinth) (hstate : q.state ∈ [QueueSt.mapped, .active, .stalled, .suspended, .error]) (hcmds : q.cmds = [])
    (hblock : q.gone = true ∨ q.wait = none ∧ ∃ l, s.qcbLoc q = .ok l) : ∃ s' : State, exec (.qslotUnmap w) s = .next s' ∧ s'.slot? (w.toNat % 256) = none ∧ s'.bar.qErr = 0 := by
  have hslot : (slotResult s 0 w).slot? (w.toNat % 256) = some q := by simpa using hq
  have hturn := unmapTurn_empty hslot (by simpa using haccept) hstate hcmds
  obtain ⟨hkept, herr⟩ := slotPending_done (k := w.toNat % 256) (unmap_beside (s := slotResult s 0 w) (w.toNat % 256))
  refine ⟨_, qslotUnmap_turn h, ?_, ?_⟩
  · rw [hturn, hkept]
    exact unmap_slot? (Nat.mod_lt _ (by decide)) hslot (by simpa using hblock)
  · rw [hturn]
    exact herr

theorem qslotUnmap_drains (h : SlotReady s w 2) (hq : s.slot? (w.toNat % 256) = some q) (haccept : q.acceptedAt ≠ some s.plinth) (hlive : Live q.state) (hcmds : q.cmds ≠ []) :
    ∃ (s' : State) (x : QSlot), exec (.qslotUnmap w) s = .next s' ∧ s'.slot? (w.toNat % 256) = some x ∧ x.state = .draining ∧ x.cmds = q.cmds ∧ s'.bar.qErr = 0 := by
  have hslot : (slotResult s 0 w).slot? (w.toNat % 256) = some q := by simpa using hq
  have hturn := unmapTurn_live hslot (by simpa using haccept) hlive
  obtain ⟨hkept, herr⟩ := slotPending_done (k := w.toNat % 256) (hostUnmap_beside (s := slotResult s 0 w) (w.toNat % 256))
  obtain ⟨x, hx, hstate, hxcmds⟩ := hostUnmap_drains hslot hcmds
  refine ⟨_, x, qslotUnmap_turn h, ?_, hstate, hxcmds, ?_⟩
  · rw [hturn, hkept]
    exact hx
  · rw [hturn]
    exact herr

/-- What a RESET that is taken up makes of a slot (05 R111). -/
def resetTurn (s : State) (k : Nat) : State :=
  match s.slot? k with
  | none => s.slotDone 1 none
  | some q =>
    if q.state = .error ∧ (s.ctx q.ctx).state = .active then (((s.setSlot k { q with state := .mapped, errcode := 0, idleSince := s.ns, lost := false, gone := false }).readProd k).qcbSync k false).settle k
    else s.slotDone 1 none

theorem qslotReset_turn (h : SlotReady s w 3) : exec (.qslotReset w) s = .next ((resetTurn (slotResult s 0 w) (w.toNat % 256)).slotPending (w.toNat % 256)) := by
  change Host.Outcome.next (s.slotCommand w 3 resetTurn) = _
  exact congrArg Host.Outcome.next (slotCommand_ready h (by decide) resetTurn)

theorem qslotReset_refused (h : SlotReady s w 3) (hbad : ∀ q, s.slot? (w.toNat % 256) = some q → q.state ≠ .error ∨ (s.ctx q.ctx).state ≠ .active) : exec (.qslotReset w) s = .next (slotResult s 1 w) := by
  have hturn : resetTurn (slotResult s 0 w) (w.toNat % 256) = (slotResult s 0 w).slotDone 1 none := by
    unfold resetTurn
    rw [slotResult_slot?]
    cases hq : s.slot? (w.toNat % 256) with
    | none => rfl
    | some q =>
      refine if_neg ?_
      rw [slotResult_ctx]
      have := hbad q hq
      tauto
  change Host.Outcome.next (s.slotCommand w 3 resetTurn) = _
  exact congrArg Host.Outcome.next (slotCommand_refused h (by decide) one_ne_zero hturn)

/-- A queue as a RESET leaves it, PROD still to be read (05 R111). -/
def afresh (q : QSlot) (now : Nat) : QSlot := { q with state := .mapped, errcode := 0, idleSince := now, lost := false, gone := false }

/-- The device when a RESET has read PROD and written the control block (05 R109 to R111). -/
def resetRead (s : State) (k : Nat) (q : QSlot) : State := ((s.setSlot k (afresh q s.ns)).readProd k).qcbSync k false

theorem resetTurn_error (h : s.slot? k = some q) (hstate : q.state = .error) (hctx : (s.ctx q.ctx).state = .active) : resetTurn s k = (resetRead s k q).settle k := by
  unfold resetTurn
  rw [h]
  exact if_pos ⟨hstate, hctx⟩

theorem resetRead_beside (k : Nat) (q : QSlot) : beside (resetRead s k q) = beside s := by
  unfold resetRead
  simp

theorem resetRead_standing (k : Nat) (q : QSlot) : ∃ p, standing (resetRead s k q) k = some { enduring (afresh q s.ns) with prod := p } := by
  unfold resetRead
  rw [qcbSync_standing]
  exact readProd_standing (setSlot_standing k _)

theorem resetRead_read (hwait : q.wait = none) {bs : List Byte} (hbs : s.devRead q.ctx (q.qcb.toNat + 0x10) 8 = .ok bs) :
    standing (resetRead s k q) k = some { enduring (afresh q s.ns) with prod := BitVec.ofNat 64 (natOfBytes bs) } := by
  unfold resetRead
  rw [qcbSync_standing, readProd_read (setSlot_slot? k (afresh q s.ns)) rfl hwait hbs, setSlot_standing]
  rfl

theorem slotResult_devRead (s : State) (e : Nat) (w : Dword) (c va n : Nat) : (slotResult s e w).devRead c va n = s.devRead c va n := by
  unfold State.devRead
  rw [slotResult_route]
  simp only [slotResult_currentBytes]

theorem qslotReset_resets (h : SlotReady s w 3) (hq : s.slot? (w.toNat % 256) = some q) (hstate : q.state = .error) (hctx : (s.ctx q.ctx).state = .active) :
    ∃ (e s' : State) (x : QSlot), exec (.qslotReset w) s = .next s' ∧ s'.slot? (w.toNat % 256) = some x ∧ Live x.state ∧ x.errcode = 0 ∧ x.cmds = q.cmds ∧ s'.bar.qErr = 0 ∧ s'.slot? (w.toNat % 256) = (e.settle (w.toNat % 256)).slot? (w.toNat % 256)
      ∧ ∀ bs, q.wait = none → s.devRead q.ctx (q.qcb.toNat + 0x10) 8 = .ok bs → ∃ q0, e.slot? (w.toNat % 256) = some q0 ∧ q0.state = .mapped ∧ q0.prod = BitVec.ofNat 64 (natOfBytes bs) ∧ q0.cons = q.cons := by
  have hslot : (slotResult s 0 w).slot? (w.toNat % 256) = some q := by simpa using hq
  have hturn := resetTurn_error hslot hstate (by simpa using hctx)
  obtain ⟨hkept, herr⟩ := slotPending_done (k := w.toNat % 256) ((settle_beside _).trans (resetRead_beside (s := slotResult s 0 w) (w.toNat % 256) q))
  obtain ⟨p, hp⟩ := resetRead_standing (s := slotResult s 0 w) (w.toNat % 256) q
  obtain ⟨st, hst, hlive⟩ := settle_live hp (show Live .mapped by simp [live_iff])
  obtain ⟨x, hx, hxq⟩ := slot_of_standing hst
  have hxstate : x.state = st := (congrArg QSlot.state hxq :)
  refine ⟨resetRead (slotResult s 0 w) (w.toNat % 256) q, _, x, (qslotReset_turn h).trans (congrArg (fun t : State => Host.Outcome.next (t.slotPending _)) hturn), (hkept _).trans hx, hxstate ▸ hlive,
    (congrArg QSlot.errcode hxq :), (congrArg QSlot.cmds hxq :), herr, hkept _, fun bs hwait hbs => ?_⟩
  obtain ⟨q0, hq0, hq0x⟩ := slot_of_standing (resetRead_read (k := w.toNat % 256) hwait ((slotResult_devRead ..).trans hbs))
  exact ⟨q0, hq0, (congrArg QSlot.state hq0x :), (congrArg QSlot.prod hq0x :), (congrArg QSlot.cons hq0x :)⟩

end unmap

/-! ### Notifies, the states of a queue, and idle unmaps (05 R111 to R115) -/

section notify

variable {s : State} {k : Nat} {q : QSlot}

theorem qnotify_turn (h : HostUp s) (hk : k < 256) : exec (.qnotify k) s = .next ((s.wakePort 0).notifySlot k) := by
  have hup : (!s.barUp || s.tripped || decide (256 ≤ k)) = false := by
    rw [h.answers, Bool.false_or]
    simpa using hk
  exact congrArg Host.Outcome.next (if_neg (by simp [hup]))

theorem wakePort_slot? (p k : Nat) : (s.wakePort p).slot? k = s.slot? k := slot?_of_apart (wakePort_apart p) k

theorem wakePort_devRead (p c va n : Nat) : (s.wakePort p).devRead c va n = s.devRead c va n := by
  unfold State.wakePort
  split <;> rfl

/-- A notify noted in its queue's record (05 R113). -/
def noticed (s : State) (q : QSlot) : QSlot := { q with notedAt := some s.plinth }

theorem notifySlot_free (h : s.slot? k = none) (hunmaps : ∀ u ∈ s.unmaps, u.cycle = s.plinth → u.slot ≠ k) : s.notifySlot k = s := by
  have hfind : s.unmaps.find? (fun u => u.cycle == s.plinth && u.slot == k) = none := by
    rw [List.find?_eq_none]
    intro u hu
    simpa using hunmaps u hu
  unfold State.notifySlot
  rw [h]
  change s.lateNotify k = s
  unfold State.lateNotify
  rw [hfind]

theorem notifySlot_stopped (h : s.slot? k = some q) (hstate : q.state = .suspended ∨ q.state = .error) : s.notifySlot k = (s.setSlot k (noticed s q)).waitsEval k := by
  unfold State.notifySlot
  rw [h]
  rcases hstate with hst | hst <;> simp only [hst, noticed]

theorem notifySlot_live (h : s.slot? k = some q) (hlive : Live q.state) : s.notifySlot k = (((s.setSlot k (noticed s q)).readProd k).waitsEval k).settle k := by
  unfold State.notifySlot
  rw [h]
  rcases (live_iff _).1 hlive with hst | hst | hst <;> simp only [hst, noticed]

theorem waitsEval_none (h : s.slot? k = some q) (hcmds : q.cmds = []) : s.waitsEval k = s := by
  unfold State.waitsEval
  rw [h]
  simp [hcmds]

/-- A notify of a queue that follows its ring reads PROD again, and brings it to its state (05 R111, R113). -/
theorem qnotify_live (hup : HostUp s) (hk : k < 256) (h : s.slot? k = some q) (hlive : Live q.state) (hcmds : q.cmds = []) (hgone : q.gone = false) (hwait : q.wait = none) {bs : List Byte}
    (hbs : s.devRead q.ctx (q.qcb.toNat + 0x10) 8 = .ok bs) :
    let e := (((s.wakePort 0).setSlot k (noticed s q)).setSlot k { noticed s q with prod := BitVec.ofNat 64 (natOfBytes bs), reread := false }).settle k
    exec (.qnotify k) s = .next e ∧ ∃ x, e.slot? k = some x ∧ x.prod.toNat = natOfBytes bs ∧ x.cons = q.cons := by
  intro e
  have hslot := (wakePort_slot? 0 k).trans h
  have hnoticed : noticed (s.wakePort 0) q = noticed s q := by simp [noticed]
  have hread : (((s.wakePort 0).setSlot k (noticed s q)).devRead q.ctx (q.qcb.toNat + 0x10) 8) = .ok bs := (wakePort_devRead 0 _ _ _).trans hbs
  have hprod := readProd_read (setSlot_slot? (s := s.wakePort 0) k (noticed s q)) hgone hwait hread
  have hnone := waitsEval_none (setSlot_slot? (s := (s.wakePort 0).setSlot k (noticed s q)) k { noticed s q with prod := BitVec.ofNat 64 (natOfBytes bs), reread := false }) hcmds
  constructor
  · rw [qnotify_turn hup hk, notifySlot_live hslot hlive, hnoticed, hprod, hnone]
  · obtain ⟨st, hst, -⟩ := settle_live (setSlot_standing (s := (s.wakePort 0).setSlot k (noticed s q)) k { noticed s q with prod := BitVec.ofNat 64 (natOfBytes bs), reread := false }) hlive
    obtain ⟨x, hx, hxq⟩ := slot_of_standing hst
    refine ⟨x, hx, ?_, (congrArg QSlot.cons hxq :)⟩
    have hxprod : x.prod = BitVec.ofNat 64 (natOfBytes bs) := (congrArg QSlot.prod hxq :)
    rw [hxprod, toNat_dword (devRead_dword hbs)]

/-- Where the host keeps JCONS of a queue's context (04 R95). -/
def jconsAt (s : State) (q : QSlot) : Nat := (s.ctx q.ctx).desc.toNat + 0x48

/-- A queue that follows its ring and waits for nothing has the state of R111. -/
theorem settle_follows (h : s.slot? k = some q) (hwait : q.wait = none) (hlive : Live q.state) :
    (q.prod = q.cons → s.settle k = s.slotState k .mapped)
    ∧ (q.prod ≠ q.cons → s.hostReach (jconsAt s q) = false → s.settle k = s)
    ∧ ∀ p, q.prod ≠ q.cons → s.hostReach (jconsAt s q) = true → (s.wakeHost (jconsAt s q)).headPacket q = .ok p →
      s.settle k = (s.wakeHost (jconsAt s q)).slotState k (if (s.wakeHost (jconsAt s q)).stalls q p then .stalled else .active) := by
  have hdrain : q.state ≠ .draining := by
    rintro hd
    simp [hd, live_iff] at hlive
  have hstop : ¬(q.state ≠ .mapped ∧ q.state ≠ .active ∧ q.state ≠ .stalled) := by
    rw [live_iff] at hlive
    tauto
  unfold State.settle
  rw [h]
  simp only [hwait, Option.isSome_none, Bool.false_eq_true, if_false, if_neg hdrain, if_neg hstop]
  refine ⟨fun hprod => if_pos hprod, fun hprod hreach => ?_, fun p hprod hreach hhead => ?_⟩
  · rw [if_neg hprod, if_pos]
    simpa [jconsAt] using hreach
  · rw [if_neg hprod, if_neg]
    · unfold jconsAt at hhead
      rw [hhead]
      rfl
    · simpa [jconsAt] using hreach

theorem slotState_slot? (h : s.slot? k = some q) (st : QueueSt) : ∃ x, (s.slotState k st).slot? k = some x ∧ x.state = st := by
  have hstand : standing (s.slotState k st) k = some { enduring q with state := st } := by
    rw [slotState_standing, standing_of_slot h]
    rfl
  obtain ⟨x, hx, hxq⟩ := slot_of_standing hstand
  exact ⟨x, hx, (congrArg QSlot.state hxq :)⟩

theorem wakeHost_journalFull (a c : Nat) : (s.wakeHost a).journalFull c = s.journalFull c := by
  unfold State.wakeHost
  split
  · rfl
  · unfold State.wakePort
    split <;> rfl

/-- The stall conditions of R111 for the head packet's bytes. -/
theorem stalls_iff (hwait : q.wait = none) (bs : List Byte) :
    let w := natOfBytes (bs.take 8)
    s.stalls q (BitVec.ofNat 512 (natOfBytes bs)) = true ↔
      s.journalFull q.ctx = true ∨ 64 ≤ q.cmds.length ∨ (w / 2 ^ 8 % 2 = 1 ∨ w % 256 = 4) ∧ q.cmds ≠ [] ∨ (∃ c ∈ q.cmds, c.running = true ∧ (c.type = 2 ∨ c.type = 3)) ∨ q.hwait.isSome = true := by
  intro w
  have hw : w = natOfBytes bs % 2 ^ 64 := natOfBytes_take 8 bs
  have hfence : (BitVec.ofNat 512 (natOfBytes bs)).getLsbD 8 = true ↔ w / 2 ^ 8 % 2 = 1 := by
    have hlow : natOfBytes bs % 2 ^ 64 / 2 ^ 8 % 2 = natOfBytes bs / 2 ^ 8 % 2 := by omega
    rw [BitVec.getLsbD_ofNat, Nat.testBit_eq_decide_div_mod_eq, hw, hlow]
    simp
  have htype : bits (BitVec.ofNat 512 (natOfBytes bs)) 7 0 = w % 256 := by
    rw [bits_eq_div_mod, BitVec.toNat_ofNat]
    omega
  unfold State.stalls
  rw [htype]
  simp only [hwait, Option.isSome_none, Bool.or_eq_true, Bool.false_eq_true, false_or, Bool.and_eq_true, Bool.not_eq_true', List.isEmpty_eq_false_iff, List.any_eq_true, beq_iff_eq, decide_eq_true_eq, hfence, or_and_right, or_assoc]
  simp only [or_comm, or_left_comm]

/-- An idle queue is unmapped once its time is over (05 R111, R114). -/
theorem idleUnmap_turn (h : s.slot? k = some q) (hk : k < 256) (hstate : q.state = .mapped) (hcmds : q.cmds = []) (hwait : q.wait = none) :
    exec (.idleUnmap k) s = .next (if q.idleUnmap ≠ 0 ∧ q.idleSince + 1000 * q.idleUnmap ≤ s.ns then s.unmap k else s) := by
  change Host.Outcome.next _ = _
  rw [h]
  simp [hstate, hcmds, hwait, hk]

end notify

/-! ### The obligation -/

section slot_events

/-- Settles O47: by operation, the turn of a command that is taken up; what stands of a queue through the writes of its control block; and the state that settling gives a queue that follows its ring. -/
theorem slotEvents : Obligations.SlotEvents := by
  unfold Obligations.SlotEvents
  intro up ready err noted
  refine ⟨?_, ?_, ?_, ?_, ?_, ?_, ?_, ?_, ?_, ?_⟩
  · intro s w i hi hup
    obtain ⟨op, f, hx⟩ := slotCommand_writes hi s
    rw [hx]
    exact ⟨fun h => congrArg Host.Outcome.next (slotCommand_busy hup h op f), fun hboot hbusy h => congrArg Host.Outcome.next (slotCommand_malformed hup hboot hbusy h op f)⟩
  · intro s w h k c a
    refine ⟨fun ⟨q, hq⟩ => ?_, fun hfree hctx => ?_, fun l hfree hctx hl => ?_⟩
    · exact qslotMap_refused h (by decide) (mapTry_taken (q := q) (by simpa using hq) false)
    · exact qslotMap_refused h (by decide) (mapTry_ctx (by simpa using hfree) (by rw [slotResult_ctx]; exact hctx) false)
    · intro d held
      obtain ⟨hbad, hgood⟩ := mapTry_reached (s := slotResult s 0 w) (a := a) (by simpa using hfree) (by rw [slotResult_ctx]; exact hctx) (by simpa using hl) false
      simp only [slotResult_currentBytes, slotResult_ctx, BlockHeld, slotResult_slots] at hbad hgood
      refine ⟨fun h3 => qslotMap_refused h (by decide) (hbad h3), fun hok hunheld => ?_⟩
      obtain ⟨e, s', q0, q, hx, hq, herr, hlast, hbound, hq0, hbound0, hstate0, hor, hslot⟩ := qslotMap_binds h (hgood hok hunheld)
      have hd : ∀ i, d i < 2 ^ 64 := fun i => currentBytes_dword s (l.add (8 * i))
      refine ⟨s', q, hx, hq, herr, hlast, hbound.ctx, hbound.qcb, ?_, hbound.rlog, hbound.prio, ?_, ?_, hbound.errcode, fun hsusp => ?_, fun hact => ⟨?_, e, q0, hq0, ?_, ?_, ?_, hslot⟩⟩
      · rw [hbound.rbase]
        exact toNat_dword (hd 1)
      · rw [hbound.prod]
        exact toNat_dword (hd 2)
      · rw [hbound.cons]
        exact toNat_dword (hd 3)
      · rw [if_pos hsusp] at hstate0
        rcases hor with hst | ⟨hlive, -⟩
        · exact hst.trans hstate0
        · simp [hstate0, live_iff] at hlive
      · rw [if_neg (by rw [hact]; decide)] at hstate0
        rcases hor with hst | ⟨-, hlive⟩
        · simp [hst, hstate0]
        · exact hlive
      · rw [hstate0, if_neg (by rw [hact]; decide)]
      · rw [hbound0.prod]
        exact toNat_dword (hd 2)
      · rw [hbound0.cons]
        exact toNat_dword (hd 3)
  · intro s w q h hq
    exact ⟨qslotUnmap_waits h hq, fun haccept hstate hcmds hblock => qslotUnmap_frees h hq haccept hstate hcmds hblock, fun haccept hlive hcmds => qslotUnmap_drains h hq haccept hlive hcmds,
      fun haccept hstate => qslotUnmap_refused h (unmapTurn_refused (q := q) (by simpa using hq) (by simpa using haccept) hstate)⟩
  · intro s w q h hq
    refine ⟨fun hbad => qslotReset_refused h (by rw [hq]; rintro x ⟨⟩; exact hbad), fun hstate hctx => ?_⟩
    obtain ⟨e, s', x, hx, hslot, hlive, hcode, hcmds, herr, hsettle, hread⟩ := qslotReset_resets h hq hstate hctx
    refine ⟨s', x, hx, hslot, hlive, hcode, hcmds, herr, fun bs hwait hbs => ?_⟩
    obtain ⟨q0, hq0, hstate0, hprod0, hcons0⟩ := hread bs hwait hbs
    refine ⟨e, q0, hq0, hstate0, ?_, hcons0, hsettle⟩
    rw [hprod0]
    exact toNat_dword (devRead_dword hbs)
  · rintro s w i (⟨rfl, h⟩ | ⟨rfl, h⟩) hfree
    · exact qslotUnmap_refused h (unmapTurn_none (by simpa using hfree))
    · exact qslotReset_refused h (by simp [hfree])
  · intro s k q hup hk hq
    refine ⟨fun hstate => ?_, fun bs hlive hcmds hgone hwait hbs => ?_⟩
    · have hslot := (wakePort_slot? 0 k).trans hq
      have hnoted : noticed (s.wakePort 0) q = noted s q := by simp [noticed, noted]
      rw [qnotify_turn hup hk, notifySlot_stopped hslot hstate, hnoted]
    · obtain ⟨hx, x, hslot, hprod, hcons⟩ := qnotify_live hup hk hq hlive hcmds hgone hwait hbs
      exact ⟨_, x, hx, hslot, hprod, hcons, rfl⟩
  · intro s k q hq hwait hlive at_ head full
    obtain ⟨hempty, haway, hhead⟩ := settle_follows hq hwait hlive
    refine ⟨fun hprod => ?_, haway, fun bs hprod hreach hbs => ?_⟩
    · rw [hempty hprod]
      exact slotState_slot? hq .mapped
    · intro w stall
      have hslot : (s.wakeHost at_).slot? k = some q := (slot?_of_apart (wakeHost_apart at_) k).trans hq
      have hpacket : (s.wakeHost at_).headPacket q = .ok (BitVec.ofNat 512 (natOfBytes bs)) := congrArg (Except.map _) hbs
      have hstall : (s.wakeHost at_).stalls q (BitVec.ofNat 512 (natOfBytes bs)) = true ↔ stall := by
        refine (stalls_iff hwait bs).trans ?_
        rw [wakeHost_journalFull]
        simp [stall, full, w, State.journalFull]
      rw [hhead _ hprod hreach hpacket]
      obtain ⟨x, hx, hstate⟩ := slotState_slot? hslot (if (s.wakeHost at_).stalls q (BitVec.ofNat 512 (natOfBytes bs)) then .stalled else .active)
      exact ⟨x, hx, fun hs => hstate.trans (if_pos (hstall.2 hs)), fun hs => hstate.trans (if_neg (mt hstall.1 hs))⟩
  · intro s k hup hk hfree hunmaps
    have hsame : (s.wakePort 0).notifySlot k = s.wakePort 0 := notifySlot_free ((wakePort_slot? 0 k).trans hfree) (by
      rw [show (s.wakePort 0).unmaps = s.unmaps from congrArg Apart.unmaps (wakePort_apart 0), wakePort_plinth]
      exact hunmaps)
    rw [qnotify_turn hup hk, hsame]
  · intro s k q l hk hq herr hgone hwait hl at_
    exact ⟨unmap_slot? hk hq (.inr ⟨hwait, l, hl⟩), unmap_tells hq herr hgone hwait hl⟩
  · intro s k q hk hq hstate hcmds hwait
    rw [idleUnmap_turn hq hk hstate hcmds hwait]
    refine ⟨fun hearly => congrArg Host.Outcome.next (if_neg (by omega)), fun hset hdue hblock => ?_⟩
    rw [if_pos ⟨hset, hdue⟩]
    exact ⟨_, rfl, unmap_slot? hk hq (hblock.imp_right fun hl => ⟨hwait, hl⟩)⟩

end slot_events

end Sys2Proof.Proofs

/-! ## O48, refuted

Arbitration goes through the table of slots record by record (05 R118), a turn reads the record of its
slot by its key. In a table that lists a slot twice the two can be different records, and the statement
does not ask that a slot be listed once: there a wait packet is accepted for a queue that has a
running wait, which R111 has stall, and the evaluation of the accepted wait ends the other one too. No
run leads to such a table, for a record is put under a key in place of what stands there. -/

namespace Sys2Proof.Proofs

open Sys2Proof.Machine

/-- A WAITMEM of the doubleword at address 0, for a value of at least 0: it holds at once. -/
def heldWait : BitVec 512 := BitVec.ofNat 512 2

/-- The running wait of command 15. -/
def waitingCmd : Cmd :=
  { seq := 15, type := 2, onfail := false, packet := heldWait, jidx := 0, running := true, deadline := none, kern := none, wait := none, lost := false }

theorem heldWait_toNat : heldWait.toNat = 2 := by
  unfold heldWait
  rw [BitVec.toNat_ofNat]
  exact Nat.mod_eq_of_lt (lt_of_lt_of_le (by decide : 2 < 2 ^ 2) (Nat.pow_le_pow_right (by decide) (by decide)))

theorem packetOk_heldWait : packetOk heldWait ≠ false := by
  unfold packetOk pktDword bits
  rw [heldWait_toNat]
  decide

/-- A queue of slot 3 that can accept: its ring at address 0x1000, its head packet that of command 16, nothing outstanding. -/
def readyQueue : QSlot :=
  { home := 3, state := .active, saved := .active, errcode := 0, ctx := 0, qcb := 0, prio := 0, rlog := 4, rbase := 0x1000, qpolicy := 0, idleUnmap := 0, nvec := 0xFFFF, prod := 17, cons := 16, finseq := 16, cmds := [], idleSince := 0, pendNotify := false, wait := none, lost := false }

/-- The same queue with the wait of command 15 running, and waiting for the page of its control block. -/
def busyQueue : QSlot := { readyQueue with cmds := [waitingCmd], wait := some 0 }

/-- A device whose table of slots has both records under slot 3, with a WAITMEM at the ring's entry of command 16. -/
def listedTwice : State :=
  { State.reset with
    ports := List.replicate 8 { Port.reset 0 with state := 2 }
    hbm := placedTables.write 0x71000 [2]
    ctxs := [(0, { placedCtx with jlog := 6 })]
    slots := [(3, busyQueue), (3, readyQueue)] }

/-- The turn begins with slot 3 as it is: its first record waits. -/
theorem settle_listedTwice : listedTwice.settle 3 = listedTwice := rfl

theorem route_listedTwice : listedTwice.route 0 0x1000 .load = .ok (.mem 0x1000 0x71000) := rfl

set_option maxRecDepth 10000 in
theorem read_listedTwice : listedTwice.hbm.read 0x71000 64 = 2 :: List.replicate 63 0 := by decide

theorem ring_listedTwice : listedTwice.devRead 0 0x1000 64 = .ok (2 :: List.replicate 63 0) := by
  unfold State.devRead
  rw [route_listedTwice]
  exact congrArg Except.ok read_listedTwice

theorem headPacket_listedTwice : listedTwice.headPacket busyQueue = .ok heldWait := by
  have hring : busyQueue.rbase.toNat + busyQueue.cons.toNat % 2 ^ busyQueue.rlog * 64 = 0x1000 := by decide
  have hvalue : natOfBytes (2 :: List.replicate 63 0) = 2 := by decide
  unfold State.headPacket
  rw [hring, show busyQueue.ctx = 0 from rfl, ring_listedTwice]
  exact congrArg (fun n => Except.ok (BitVec.ofNat 512 n)) hvalue

set_option maxRecDepth 10000 in
/-- Arbitration chooses slot 3 for its second record. -/
theorem winner_listedTwice : listedTwice.winner = some 3 := by decide

set_option maxRecDepth 100000 in
/-- Of the command that ran and the one that is accepted nothing is left: both waits hold, and end. -/
theorem waitmem_listedTwice (s' : State) (h : exec (.waitmem 3) listedTwice = .next s') : (s'.slot? 3).map (fun q => q.cmds.length) = some 0 := by
  cases h
  decide

/-- Refutes O48: in `listedTwice` the WAITMEM of slot 3 is accepted, and then neither the commands
that were outstanding nor these and the new one are: the wait that ran before has ended with it. -/
theorem not_packetEvents : ¬ Obligations.PacketEvents := by
  unfold Obligations.PacketEvents
  rintro ⟨-, -, -, hwaits, -⟩
  obtain ⟨s', q', hexec, hslot, -, hcmds⟩ := hwaits listedTwice listedTwice 3 busyQueue heldWait (.waitmem 3)
    (.inl ⟨rfl, settle_listedTwice.symm, winner_listedTwice, rfl, headPacket_listedTwice, by decide, by rw [heldWait_toNat]⟩) packetOk_heldWait rfl
  have hnone : q'.cmds.length = 0 := by simpa [hslot] using waitmem_listedTwice s' hexec
  rcases hcmds with hkept | ⟨c, hadded, -⟩
  · simp [hkept, busyQueue] at hnone
  · simp [hadded] at hnone

end Sys2Proof.Proofs

/-! ## O44, refuted

The kernel that is to gather is chosen from the table of kernels record by record (06 R130), and put
back under its key; a gang is found by its kernel's key. In a table that lists a kernel twice the two
can be different records, and the statement does not ask that a kernel be listed once: there a
pre-emption begins with the second record gathering in place of the first, and the gang that was to be
halted is gone. No run leads to such a table, for a record is put under a key in place of what stands
there. -/

namespace Sys2Proof.Proofs

open Sys2Proof.Machine

/-- A co-resident kernel of context 1, accepted, that may gather; none of its gangs is listed. -/
def gatheringNext : Kernel :=
  { placedKernel with ctx := 1, desc := { placedDesc with cor := true }, state := .accepted, gangs := [] }

/-- A device whose table of kernels has, under one number, the kernel of a context that is QUIESCING,
its gang resident and a save slot free, and a kernel that may gather. -/
def kernelTwice : State :=
  { State.reset with
    ctxs := [(0, { placedCtx with state := .quiescing }), (1, placedCtx)]
    kernels := [(0, placedKernel), (0, gatheringNext)]
    groups := [(0, placedGroup)] }

/-- The record that begins to gather takes the place of both: no gang is to be found under the kernel after the decision. -/
theorem gang?_preemptDecision_kernelTwice (s' : State) (h : exec (.preemptDecision 0 0) kernelTwice = .next s') : s'.gang? 0 0 = none := by
  cases h
  decide

/-- Refutes O44: in `kernelTwice` gang 0 of kernel 0 is resident with a member that runs, its context
is QUIESCING and has save slot 0 free, yet the decision to pre-empt it leaves no such gang to halt. -/
theorem not_gangEvents : ¬ Obligations.GangEvents := by
  unfold Obligations.GangEvents
  rintro ⟨-, -, -, -, hpreempt, -⟩
  have hruns : ∃ m ∈ placedGang.members, ∃ x, kernelTwice.group? m = some x ∧ x.killed = none :=
    ⟨0, by decide, placedGroup, rfl, rfl⟩
  obtain ⟨s', x, hexec, hgang, -⟩ := hpreempt kernelTwice 0 0 placedKernel placedGang 0 rfl rfl rfl rfl hruns
    (by decide) (by decide) (fun m hm => absurd hm m.not_lt_zero)
  have hgone : s'.gang? 0 0 = none := gang?_preemptDecision_kernelTwice s' hexec
  exact absurd (hgang.symm.trans hgone) (Option.some_ne_none x)

end Sys2Proof.Proofs

/-! ## The entry a stream chooses (07 R140, R143, R144) -/

namespace Sys2Proof.Proofs

open Sys2Proof.Machine

/-- The age by which an aged entry comes first (07 R143); 0 for one that is not aged. -/
def agedBy (x : Entry) : Nat := if 2048 ≤ x.age then x.age else 0

/-- The order of 07 R143: aged entries first by age, then the greater population, the lower group slot, the lower address. -/
theorem before_iff (x y : Entry) : x.before y = true ↔
    agedBy y < agedBy x ∨ agedBy y = agedBy x ∧ (y.pop < x.pop ∨ y.pop = x.pop ∧ (x.slot < y.slot ∨ x.slot = y.slot ∧ x.addr < y.addr)) := by
  have hdef : x.before y = if agedBy x ≠ agedBy y then decide (agedBy y < agedBy x) else if x.pop ≠ y.pop then decide (y.pop < x.pop)
      else if x.slot ≠ y.slot then decide (x.slot < y.slot) else decide (x.addr < y.addr) := rfl
  rw [hdef]
  split_ifs <;> rw [decide_eq_true_eq] <;> simp only [BitVec.lt_def] <;> omega

theorem before_asymm {x y : Entry} (h : x.before y = true) : ¬ y.before x = true := by
  rw [before_iff, BitVec.lt_def] at *
  omega

theorem before_irrefl (x : Entry) : ¬ x.before x = true := fun h => before_asymm h h

/-- Of two entries in order, a third stands after the one or before the other. -/
theorem before_cotrans {x z : Entry} (h : x.before z = true) (y : Entry) : x.before y = true ∨ y.before z = true := by
  rw [before_iff, BitVec.lt_def] at *
  rw [before_iff, BitVec.lt_def]
  omega

/-- The better of an entry found so far, if any, and the next. -/
def betterEntry (b : Option Entry) (e : Entry) : Option Entry :=
  match b with
  | none => some e
  | some x => if e.before x then some e else some x

theorem betterEntry_best (b : Option Entry) (y : Entry) : ∃ c, betterEntry b y = some c ∧ (c = y ∨ b = some c) ∧ ∀ x, (x = y ∨ b = some x) → ¬ x.before c = true := by
  cases b with
  | none => exact ⟨y, rfl, .inl rfl, by simpa using before_irrefl y⟩
  | some z =>
    by_cases hyz : y.before z = true
    · refine ⟨y, if_pos hyz, .inl rfl, ?_⟩
      rintro x (rfl | hx)
      · exact before_irrefl x
      · obtain rfl := Option.some.inj hx
        exact before_asymm hyz
    · refine ⟨z, if_neg hyz, .inr rfl, ?_⟩
      rintro x (rfl | hx)
      · exact hyz
      · obtain rfl := Option.some.inj hx
        exact before_irrefl z

/-- The best of a list is one of it, and none of it stands before. -/
theorem foldl_betterEntry {l : List Entry} {b : Option Entry} {e : Entry} (h : l.foldl betterEntry b = some e) :
    (e ∈ l ∨ b = some e) ∧ ∀ x, (x ∈ l ∨ b = some x) → ¬ x.before e = true := by
  induction l generalizing b with
  | nil =>
    obtain rfl : b = some e := h
    refine ⟨.inr rfl, fun x hx => ?_⟩
    obtain rfl : e = x := by simpa using hx
    exact before_irrefl e
  | cons y l ih =>
    obtain ⟨c, hc, hfrom, hbest⟩ := betterEntry_best b y
    rw [List.foldl_cons, hc] at h
    obtain ⟨hmem, hmin⟩ := ih h
    refine ⟨?_, fun x hx hbefore => ?_⟩
    · rcases hmem with hm | hm
      · exact .inl (List.mem_cons_of_mem _ hm)
      · obtain rfl := Option.some.inj hm
        rcases hfrom with rfl | hb
        · exact .inl List.mem_cons_self
        · exact .inr hb
    · by_cases hl : x ∈ l
      · exact hmin x (.inl hl) hbefore
      · have hx' : x = y ∨ b = some x := by simpa [hl] using hx
        exact (before_cotrans hbefore c).elim (hbest x hx') (hmin c (.inr rfl))

/-- An entry that the selector may take, its group neither killed nor halted, and no other stream holding it (07 R143). -/
def Offered (s : State) (core stream : Nat) (x : Entry) : Prop :=
  (∃ y : Nat × Group, (y ∈ s.residents core ∧ y.2.killed = none ∧ s.gangHalted y.2 = false) ∧ x ∈ s.groupEntries y.1 y.2 (s.clock core))
  ∧ ¬∃ k d, k < 2 ∧ k ≠ stream ∧ (s.stream core k).dispatch = some d ∧ d.grp = x.grp ∧ (d.entry = x.addr ∨ d.list = true ∧ x.list = true)

/-- An entry that is not passed over (07 R144). -/
def Fresh (x : Entry) : Prop := x.yielded = false ∨ 2048 ≤ x.age

/-- An entry chosen is one offered, fresh if any is, and the first of those it was chosen among. -/
theorem choose_best {s : State} {core stream : Nat} {e : Entry} (h : s.choose core stream = some e) :
    Offered s core stream e ∧ ((∃ x, Offered s core stream x ∧ Fresh x) → Fresh e) ∧ ∀ x, Offered s core stream x → (Fresh x ∨ ¬ Fresh e) → ¬ x.before e = true := by
  unfold State.choose at h
  extract_lets clock held all free fresh at h
  have hfree (x : Entry) : x ∈ free ↔ Offered s core stream x := by
    have hheld : held x = false ↔ ¬∃ k d, k < 2 ∧ k ≠ stream ∧ (s.stream core k).dispatch = some d ∧ d.grp = x.grp ∧ (d.entry = x.addr ∨ d.list = true ∧ x.list = true) := by
      rw [← Bool.not_eq_true]
      refine not_congr ?_
      simp only [held, List.any_eq_true, List.mem_range, Bool.and_eq_true, bne_iff_ne]
      refine exists_congr fun k => ?_
      cases (s.stream core k).dispatch <;> simp [Dispatch.holds]
    simp only [free, all, List.mem_filter, List.mem_flatMap, Bool.not_eq_true', hheld, Offered, Bool.and_eq_true, Option.isNone_iff_eq_none, clock]
  have hfresh (x : Entry) : x ∈ fresh ↔ Offered s core stream x ∧ Fresh x := by
    simp [fresh, hfree, Fresh]
  obtain ⟨hmem, hmin⟩ := foldl_betterEntry (show List.foldl betterEntry none _ = _ from h)
  simp only [reduceCtorEq, or_false] at hmem hmin
  cases hnone : fresh.isEmpty
  · simp only [hnone, Bool.false_eq_true, if_false, hfresh] at hmem hmin
    refine ⟨hmem.1, fun _ => hmem.2, fun x hx hor => hmin x ⟨hx, hor.resolve_right (not_not_intro hmem.2)⟩⟩
  · simp only [hnone, if_true, hfree] at hmem hmin
    have hno (x : Entry) (hx : Offered s core stream x) : ¬ Fresh x := fun hf => by
      have hxm := (hfresh x).mpr ⟨hx, hf⟩
      simp [List.isEmpty_iff.mp hnone] at hxm
    exact ⟨hmem, fun ⟨x, hx, hf⟩ => absurd hf (hno x hx), fun x hx _ => hmin x hx⟩

/-- Settles O42: the chosen entry is the first, in the order of 07 R143, of those it was chosen among. -/
theorem selectorOrder : Obligations.SelectorOrder := by
  intro s core stream e h live held offered fresh aged
  obtain ⟨hoffered, hfresh, hfirst⟩ := choose_best h
  refine ⟨hoffered, hfresh, fun x hx hor hahead => hfirst x hx hor ?_⟩
  exact (before_iff x e).mpr hahead

end Sys2Proof.Proofs

/-! ## Transfers of control: their operands, and their faults (07 R154, R159, R160, R164) -/

namespace Sys2Proof.Proofs

open Sys2Proof.Machine Sys2Proof.Laws

section control_faults

variable {s : State} {iss : Issue} {g : Group} {l : Nat × Nat} {t : Thread}

/-- The target of a JMP is its register pair. -/
theorem jmp_target {w : F0} (hs : staticFault (.jmp w) = none) (hr : t.reads (.jmp w)) (e : Env) : e.pair t (vnum w.a) = t.sourcePair w.a :=
  pairA_live (i := .jmp w) e rfl rfl (static0 (i := .jmp w) rfl hs).2.2.1 hr

/-- The target of a CALLI is its register pair. -/
theorem calli_target {w : F0} (hs : staticFault (.calli w) = none) (hr : t.reads (.calli w)) (e : Env) : e.pair t (vnum w.a) = t.sourcePair w.a :=
  pairA_live (i := .calli w) e rfl rfl (static0 (i := .calli w) rfl hs).2.2.1 hr

/-- A push with 8 held entries and no room in the thread's stack area faults (07 R154). -/
theorem push_full {e : Env} (hlen : t.ret.length = 8) (hfull : e.stackSize < 8 * (t.spill + 1)) (r : Dword) (k : State → (Thread → Thread) → Turnout) :
    push e t r k = .fault (.plain 0x22 (e.stackArea + BitVec.ofNat 64 (8 * t.spill)) 0) := by
  obtain ⟨old, hold⟩ : ∃ old, t.ret.getLast? = some old := Option.isSome_iff_exists.mp (by simp; grind)
  unfold push
  simp [hold, hlen, hfull]

/-- A pop with no entry held or spilled faults (07 R154). -/
theorem pop_empty {e : Env} (hret : t.ret = []) (hspill : t.spill = 0) (k : State → Dword → (Thread → Thread) → Turnout) :
    pop e t k = .fault (.plain 0x22 e.stackArea 1) := by
  unfold pop
  simp [hret, hspill]

end control_faults

/-- The law of faults in the shape `Faults`: a word whose turn at the thread comes to a fault that is none of the page path. -/
theorem faults_of {i : Instr} {ok : State → Issue → Group → Nat × Nat → Thread → Prop} {f : State → Issue → Group → Nat × Nat → Thread → TFault} {body : Issue → Nat → State → Turnout}
    (hx : ∀ s, exec i s = .next (runWord i s body)) (hc : closesFirst i = false)
    (hb : ∀ s iss g l t, s.IssuesOne iss g i l t → ok s iss g l t → body iss l.2 s = .fault (f s iss g l t)) (hpage : ∀ s iss g l t, pagePath (f s iss g l t).cause = false) : Faults i ok f :=
  fun s iss g l t h _ hh hok hclean => faultTaken_of (hx s) hc h hh (hb s iss g l t h hok) (hpage s iss g l t) hclean

/-- Settles O9: each word's turn comes to the fault stated, which the law of faults takes. -/
theorem controlFaults : Obligations.ControlFaults := by
  refine ⟨fun w => ?trap, fun w => ?brk, fun w => ?jmp, fun w => ?calli, fun w => ?call, fun w => ?calliFull, fun w => ?ret⟩
  case trap => exact faults_of (fun _ => rfl) rfl (fun _ _ _ _ _ _ _ => rfl) (fun _ _ _ _ _ => rfl)
  case brk => exact faults_of (fun _ => rfl) rfl (fun _ _ _ _ _ _ _ => rfl) (fun _ _ _ _ _ => rfl)
  case jmp =>
    refine faults_of (fun _ => rfl) rfl (fun s iss g l t h hodd => ?_) (fun _ _ _ _ _ => rfl)
    simp only [withThread_one h, jmp_target (wordFault_none h.legal) h.live]
    exact if_pos hodd
  case calli =>
    refine faults_of (fun _ => rfl) rfl (fun s iss g l t h hodd => ?_) (fun _ _ _ _ _ => rfl)
    simp only [withThread_one h, calli_target (wordFault_none h.legal) h.live]
    exact if_pos hodd
  case call =>
    refine faults_of (fun _ => rfl) rfl (fun s iss g l t h ⟨hlen, hfull⟩ => ?_) (fun _ _ _ _ _ => rfl)
    simp only [withThread_one h]
    exact push_full hlen hfull _ _
  case calliFull =>
    refine faults_of (fun _ => rfl) rfl (fun s iss g l t h ⟨heven, hlen, hfull⟩ => ?_) (fun _ _ _ _ _ => rfl)
    simp only [withThread_one h, calli_target (wordFault_none h.legal) h.live]
    exact (if_neg (not_not_intro heven)).trans (push_full hlen hfull _ _)
  case ret =>
    refine faults_of (fun _ => rfl) rfl (fun s iss g l t h ⟨hret, hspill⟩ => ?_) (fun _ _ _ _ _ => rfl)
    simp only [withThread_one h]
    exact pop_empty hret hspill _

end Sys2Proof.Proofs

/-! ## Words that change the threads of their pack: the law for any turn (02 R41, R42; 07 R146, R147) -/

namespace Sys2Proof.Proofs

open Sys2Proof.Machine Sys2Proof.Laws

section turns

variable {i : Instr} {s : State} {iss : Issue} {g : Group}

/-- The body of a word makes of each thread whose guard holds what `fin` says, whatever the turns before it have made of the others. -/
def BodyMakes (i : Instr) (s : State) (iss : Issue) (g : Group) (body : Nat → State → Turnout) (fin : Nat × Nat → Thread → Thread) : Prop :=
  ∀ l ∈ iss.lanes, ∀ t, g.threads[l.2]? = some t → t.takes i = true → ∀ (a : LaneAcc) (G : Tab Group), a.s = { s with groups := G } → a.s.thread? iss.grp l.2 = some t →
    a.settle i iss l (body l.2 a.s) = { a with s := a.s.setThread iss.grp l.2 (fin l t), acted := l.2 :: a.acted }

/-- What a thread is once its turn is over, its flags not yet passed on: `fin` where its guard holds, else a retirement. -/
def turned (i : Instr) (iss : Issue) (clock : Nat) (fin : Nat × Nat → Thread → Thread) (l : Nat × Nat) (t : Thread) : Thread :=
  if t.takes i then fin l t
  else if endsDispatch i then (t.retireWord i false none iss.pc).waitAt (iss.pc + 8) clock else t.retireWord i false none iss.pc

theorem oneTurn_of_body {body : Nat → State → Turnout} {fin : Nat × Nat → Thread → Thread} (hi : s.Issues iss g i) (hc : closesFirst i = false) (hb : BodyMakes i s iss g body fin) :
    OneTurn i s iss g (turned i iss (s.clock iss.core) fin) body := by
  intro done l t a ths hl hn ht hgone htt hac
  obtain ⟨t', ht', hr⟩ := hi.threads l hl
  obtain rfl : t = t' := Option.some.inj (ht.symm.trans ht')
  obtain ⟨G, hG⟩ := hgone.state
  have hat : a.s.thread? iss.grp l.2 = some t := by unfold State.thread?; rw [hgone.group]; exact htt
  have hclock : a.s.clock iss.core = s.clock iss.core := by rw [hG]; rfl
  rw [laneTurn_ready hc hgone.quiet.2.2 hat hr hac]
  unfold turned
  cases hk : t.takes i
  · simp only [Bool.false_eq_true, if_false, hclock]
  · simp only [if_true]
    exact hb l hl t ht hk a G hG hat

/-- The law of words that change the threads of their pack alone: `next` is what a thread becomes, `raise` the flags it raises. -/
theorem gives_of_body {body : Issue → Nat → State → Turnout} {fin next : Nat × Nat → Thread → Thread} {raise : Nat × Nat → Thread → Flags} (hi : s.Issues iss g i) (hc : closesFirst i = false)
    (hb : BodyMakes i s iss g (body iss) fin)
    (hp : ∀ l ∈ iss.lanes, ∀ t, g.threads[l.2]? = some t → t.takes i = true → t.Ready i →
      { fin l t with raised := [] } = next l t ∧ raisedBy (fin l t) = raise l t ∧ (∀ e ∈ (fin l t).raised, e.2 = iss.pc) ∧ (fin l t).late = none) :
    Gives s (runWord i s body) iss g i next raise := by
  have hturned : ∀ l ∈ iss.lanes, ∀ t, g.threads[l.2]? = some t → ∀ u, u = turned i iss (s.clock iss.core) fin l t →
      { u with raised := [] } = (if t.takes i then next l t else t.skips i iss.pc (s.clock iss.core))
      ∧ raisedBy u = (if t.takes i then raise l t else 0) ∧ (∀ e ∈ u.raised, e.2 = iss.pc) ∧ u.late = none := by
    rintro l hl t ht u rfl
    obtain ⟨t', ht', hr⟩ := hi.threads l hl
    obtain rfl : t = t' := Option.some.inj (ht.symm.trans ht')
    unfold turned
    cases hk : t.takes i
    · obtain ⟨hskip, hnone, hlate⟩ := skips_eq hr iss.pc (s.clock iss.core)
      refine ⟨hskip, hnone, fun e he => ?_, hlate⟩
      have hraised := (retireWord_plain t i false iss.pc hr.landed hr.noRegion).2.trans hr.unraised
      cases hends : endsDispatch i <;> simp [hends, Thread.waitAt, hraised] at he
    · exact hp l hl t ht hk hr
  obtain ⟨honly, hthreads, hflags, hpending⟩ := runWord_threads hi _ body (oneTurn_of_body hi hc hb) (fun l hl t ht => (hturned l hl t ht _ rfl).2.2.2)
  have hraise : iss.lanes.map (fun l => ((g.threads[l.2]?).map (fun t => raisedBy (turned i iss (s.clock iss.core) fin l t))).getD 0)
      = iss.lanes.map (fun l => ((g.threads[l.2]?).map (fun t => if t.takes i then raise l t else 0)).getD 0) := by
    refine List.map_congr_left fun l hl => ?_
    obtain ⟨t, ht, -⟩ := hi.threads l hl
    simp only [ht, Option.map_some, (hturned l hl t ht _ rfl).2.1]
  refine ⟨honly, fun l hl t ht => ?_, ?_, ?_⟩
  · exact (hthreads l hl t ht).trans (congrArg some (hturned l hl t ht _ rfl).1)
  · exact (hpending fun l hl t ht => (hturned l hl t ht _ rfl).2.2.1).trans (by rw [hraise]; rfl)
  · exact hflags.trans (by rw [hraise]; rfl)

/-- A turn that retires the word, its thread as it was. -/
theorem settle_done_same {a : LaneAcc} {l : Nat × Nat} {t : Thread} (ht : a.s.thread? iss.grp l.2 = some t) :
    a.settle i iss l (.done a.s none) = { a with s := a.s.setThread iss.grp l.2 (t.retireWord i true none iss.pc), acted := l.2 :: a.acted } := by
  unfold LaneAcc.settle
  dsimp only
  rw [modThread_of _ _ _ _ _ ht]

/-- A turn that changes its thread and retires the word. -/
theorem settle_done_set {a : LaneAcc} {l : Nat × Nat} {t u : Thread} (ht : a.s.thread? iss.grp l.2 = some t) :
    a.settle i iss l (.done (a.s.setThread iss.grp l.2 u) none) = { a with s := a.s.setThread iss.grp l.2 (u.retireWord i true none iss.pc), acted := l.2 :: a.acted } := by
  unfold LaneAcc.settle
  dsimp only
  rw [modThread_setThread _ _ _ _ _ _ ht]

/-- A turn at which the thread leaves the dispatch. -/
theorem settle_leave {a : LaneAcc} {l : Nat × Nat} {t : Thread} {f : Thread → Thread} (ht : a.s.thread? iss.grp l.2 = some t) :
    a.settle i iss l (.leave a.s f) = { a with s := a.s.setThread iss.grp l.2 (f (t.retireWord i true none iss.pc)), acted := l.2 :: a.acted } := by
  unfold LaneAcc.settle
  dsimp only
  rw [modThread_of _ _ _ _ _ ht]

/-- The shape `Leaves`: each thread retires and leaves the dispatch as `f` makes it, which on a retired thread is as `go` says. -/
theorem leaves_of_body {body : Issue → Nat → State → Turnout} (hx : ∀ s, exec i s = .next (runWord i s body)) (hd : dstRegs i = []) (hc : closesFirst i = false)
    {ok : State → Issue → Nat × Nat → Thread → Prop} {go : Issue → Nat → Thread → Thread → Thread} (f : Issue → Nat → Thread → Thread → Thread)
    (hb : ∀ (s a : State) (iss : Issue) (g : Group) (G : Tab Group) (l : Nat × Nat) (t : Thread), s.Issues iss g i → t.reads i → ok s iss l t → a = { s with groups := G } → (∃ x, a.group? iss.grp = some x) → a.thread? iss.grp l.2 = some t →
      body iss l.2 a = .leave a (f iss (s.clock iss.core) t))
    (hgo : ∀ s iss l c t, ok s iss l t → ∀ u, u = t.after i true [] iss.pc → t.Ready i → f iss c t u = go iss c t u ∧ (f iss c t u).raised = [] ∧ (f iss c t u).late = none) :
    Leaves i ok go := by
  intro s iss g hi hok
  refine ⟨_, hx s, gives_of_body (fin := fun l t => f iss (s.clock iss.core) t (t.retireWord i true none iss.pc)) hi hc ?_ ?_⟩
  · intro l hl t ht hk a G hG hat
    obtain ⟨hreads, hok'⟩ := hok l hl t ht hk
    rw [hb s a.s iss g G l t hi hreads hok' hG ?_ hat]
    · exact settle_leave hat
    · unfold State.thread? at hat
      cases hx : a.s.group? iss.grp with
      | none => simp [hx] at hat
      | some x => exact ⟨x, rfl⟩
  · intro l hl t ht hk hr
    obtain ⟨hsame, hraised, hlate⟩ := hgo s iss l (s.clock iss.core) t (hok l hl t ht hk).2 _ rfl hr
    have hretire : t.retireWord i true none iss.pc = t.after i true [] iss.pc := hd ▸ retireWord_ready hr iss.pc
    dsimp only
    rw [hretire]
    refine ⟨?_, by rw [raisedBy, hraised]; rfl, by simp [hraised], hlate⟩
    rw [← hsame, ← hraised]

end turns

end Sys2Proof.Proofs

/-! ## Control words: NOP and the transfers of control (07 R154, R158 to R160, R163) -/

namespace Sys2Proof.Proofs

open Sys2Proof.Machine Sys2Proof.Laws

section transfers

variable {i : Instr} {s e : State} {iss : Issue} {g : Group} {l : Nat × Nat} {t : Thread}

theorem withThread_of {a : State} {n : Nat} (h : a.thread? iss.grp n = some t) (f : Env → Thread → Turnout) :
    ∃ x, withThread iss n a f = f { s := a, iss := iss, grp := x, tid := n } t := by
  unfold withThread
  cases hx : a.group? iss.grp with
  | none => simp [State.thread?, hx] at h
  | some x => exact ⟨x, by rw [h]⟩

/-- A thread with a return address pushed, in the words of `push` on a thread `t` with room (07 R154). -/
def pushed (t : Thread) (r : Dword) (u : Thread) : Thread := { u with ret := if t.ret = [] then [r] else r :: u.ret }

theorem push_held {e : Env} (hlen : t.ret.length < 8) (r : Dword) (k : State → (Thread → Thread) → Turnout) : push e t r k = k e.s (pushed t r) := by
  unfold push pushed
  cases hret : t.ret with
  | nil => rfl
  | cons a as =>
    obtain ⟨old, hold⟩ : ∃ old, (a :: as).getLast? = some old := ⟨_, List.getLast?_eq_some_getLast (List.cons_ne_nil a as)⟩
    rw [hret] at hlen
    simp only [hold, hlen, if_true, reduceCtorEq, if_false]

theorem pop_held {e : Env} (hret : t.ret ≠ []) (k : State → Dword → (Thread → Thread) → Turnout) :
    pop e t k = k e.s (t.ret.headD 0) (fun x => { x with ret := x.ret.drop 1 }) := by
  unfold pop
  cases h : t.ret with
  | nil => exact absurd h hret
  | cons a as => rfl

theorem nop_computes (w : F0) : Computes (.nop w) (fun _ _ _ t => t) (fun _ _ _ _ => 0) := by
  intro s iss g hi _
  refine ⟨_, rfl, gives_of_body (fin := fun _ t => t.retireWord (.nop w) true none iss.pc) hi rfl ?_ ?_⟩
  · intro l hl t ht hk a G hG hat
    exact settle_done_same hat
  · intro l hl t ht hk hr
    dsimp only
    rw [retireWord_ready hr]
    exact ⟨rfl, rfl, by simp [Thread.after], hr.onTime⟩

theorem bra_leaves (w : F2) : Leaves (.bra w) (fun _ _ _ _ => True) (fun iss c _ u => u.waitAt (iss.pc + w.imm.signExtend 64 * 8) c) := by
  refine leaves_of_body (fun _ => rfl) rfl rfl (fun iss c _ u => u.waitAt (iss.pc + w.imm.signExtend 64 * 8) c) ?_ ?_
  · rintro s a iss g G l t hi hr - rfl - -
    rfl
  · rintro s iss l c t - u rfl hr
    exact ⟨rfl, rfl, hr.onTime⟩

theorem jmp_leaves (w : F0) : Leaves (.jmp w) (fun _ _ _ t => (t.sourcePair w.a).toNat % 8 = 0) (fun _ c t u => u.waitAt (t.sourcePair w.a) c) := by
  refine leaves_of_body (fun _ => rfl) rfl rfl (fun _ c t u => u.waitAt (t.sourcePair w.a) c) ?_ ?_
  · rintro s a iss g G l t hi hr heven rfl - hat
    obtain ⟨x, hturn⟩ := withThread_of hat _
    refine hturn.trans ?_
    dsimp only
    rw [jmp_target (wordFault_none hi.legal) hr]
    exact if_neg (not_not_intro heven)
  · rintro s iss l c t - u rfl hr
    exact ⟨rfl, rfl, hr.onTime⟩

/-- What a CALL or CALLI makes of the thread that retires it. -/
theorem pushed_waitAt {u : Thread} (hu : u.ret = t.ret) (r a : Dword) (c : Nat) : (pushed t r u).waitAt a c = { u.waitAt a c with ret := r :: t.ret } := by
  unfold pushed
  split
  · next h => rw [h]; rfl
  · rw [hu]; rfl

theorem call_leaves (w : F2) :
    Leaves (.call w) (fun _ _ _ t => t.ret.length < 8) (fun iss c t u => { u.waitAt (iss.pc + w.imm.signExtend 64 * 8) c with ret := (iss.pc + 8) :: t.ret }) := by
  refine leaves_of_body (fun _ => rfl) rfl rfl (fun iss c t u => (pushed t (iss.pc + 8) u).waitAt (iss.pc + w.imm.signExtend 64 * 8) c) ?_ ?_
  · rintro s a iss g G l t hi hr hroom rfl - hat
    obtain ⟨x, hturn⟩ := withThread_of hat _
    exact hturn.trans (push_held hroom _ _)
  · rintro s iss l c t - u rfl hr
    have hsame := pushed_waitAt (t := t) (u := t.after (.call w) true [] iss.pc) rfl (iss.pc + 8) (iss.pc + w.imm.signExtend 64 * 8) c
    rw [hsame]
    exact ⟨rfl, rfl, hr.onTime⟩

theorem calli_leaves (w : F0) :
    Leaves (.calli w) (fun _ _ _ t => t.ret.length < 8 ∧ (t.sourcePair w.a).toNat % 8 = 0) (fun iss c t u => { u.waitAt (t.sourcePair w.a) c with ret := (iss.pc + 8) :: t.ret }) := by
  refine leaves_of_body (fun _ => rfl) rfl rfl (fun iss c t u => (pushed t (iss.pc + 8) u).waitAt (t.sourcePair w.a) c) ?_ ?_
  · rintro s a iss g G l t hi hr ⟨hroom, heven⟩ rfl - hat
    obtain ⟨x, hturn⟩ := withThread_of hat _
    refine hturn.trans ?_
    dsimp only
    rw [calli_target (wordFault_none hi.legal) hr]
    exact (if_neg (not_not_intro heven)).trans (push_held hroom _ _)
  · rintro s iss l c t - u rfl hr
    have hsame := pushed_waitAt (t := t) (u := t.after (.calli w) true [] iss.pc) rfl (iss.pc + 8) (t.sourcePair w.a) c
    rw [hsame]
    exact ⟨rfl, rfl, hr.onTime⟩

theorem ret_leaves (w : F0) : Leaves (.ret w) (fun _ _ _ t => t.ret ≠ []) (fun _ c t u => { u.waitAt (t.ret.headD 0) c with ret := t.ret.drop 1 }) := by
  refine leaves_of_body (fun _ => rfl) rfl rfl (fun _ c t u => ({ u with ret := u.ret.drop 1 } : Thread).waitAt (t.ret.headD 0) c) ?_ ?_
  · rintro s a iss g G l t hi hr hheld rfl - hat
    obtain ⟨x, hturn⟩ := withThread_of hat _
    exact hturn.trans (pop_held hheld _)
  · rintro s iss l c t - u rfl hr
    exact ⟨rfl, rfl, hr.onTime⟩

theorem nap_leaves (w : F1) : Leaves (.nap w) (fun _ _ _ _ => True)
    (fun iss c _ u => if w.imm = 0 then u.waitAt (iss.pc + 8) c else { u.blockAt .nap (iss.pc + 8) c with napLeft := w.imm.toNat }) := by
  refine leaves_of_body (fun _ => rfl) rfl rfl (fun iss c _ u => if w.imm = 0 then u.waitAt (iss.pc + 8) c else { u.blockAt .nap (iss.pc + 8) c with napLeft := w.imm.toNat }) ?_ ?_
  · rintro s a iss g G l t hi hr - rfl - -
    by_cases hzero : w.imm = 0
    · simp only [hzero, if_true]
      rfl
    · simp only [hzero, if_false]
      rfl
  · rintro s iss l c t - u rfl hr
    by_cases hzero : w.imm = 0
    · simp only [hzero, if_true]
      exact ⟨trivial, rfl, hr.onTime⟩
    · simp only [hzero, if_false]
      exact ⟨trivial, rfl, hr.onTime⟩

end transfers

/-! ### Spilled return addresses (07 R154) -/

section spills

variable {i : Instr} {s e : State} {iss : Issue} {g : Group} {l : Nat × Nat} {t : Thread}

/-- A word of one thread that does `e` and leaves the dispatch completes with the effect `e`, its thread as `f` makes it. -/
theorem Undisturbed.retiresTo {body : Issue → Nat → State → Turnout} (hu : Undisturbed iss g l t e) (hx : exec i s = .next (runWord i s body)) (hc : closesFirst i = false) (h : s.IssuesOne iss g i l t)
    {f go : Thread → Thread} (hb : body iss l.2 s = .leave e f) (hgo : ∀ u, u = t.after i true (dstRegs i) iss.pc → f u = go u ∧ (go u).late = none) : RetiresTo s iss i l e go := by
  obtain ⟨-, x, hg, ht, -⟩ := hu
  have hthread : e.thread? iss.grp l.2 = some t := by unfold State.thread?; rw [hg]; exact ht
  have hlt : l.2 < x.threads.length := (List.getElem?_eq_some_iff.1 ht).1
  obtain ⟨hsame, hlate⟩ := hgo _ rfl
  refine ⟨_, hx, ?_⟩
  rw [runWord_one hc h body, hb]
  unfold LaneAcc.settle
  dsimp only
  rw [modThread_of _ _ _ _ _ hthread, modThread_of _ _ _ _ _ hthread, retireWord_ready (IssuesOne_ready h), hsame, setThread_of hg]
  refine afterWord_ends i iss { s := e.setGroup iss.grp { x with threads := x.threads.set l.2 (go (t.after i true (dstRegs i) iss.pc)) }, faults := [], late := [], held := false, acted := [l.2] } _ rfl rfl
    (group?_setGroup_same ..) h.distinct fun m hm => ?_
  obtain rfl : m = l := by simpa [h.one] using hm
  simp only [List.getElem?_set_self hlt, Option.bind_some]
  exact hlate

/-- An address of global memory leads to memory or to a window (14 R308 to R312, 09 R210). -/
theorem route_cases {c va : Nat} {x : Want} {p : Loc} (h : s.route c va x = .ok p) : (∃ pa, p = .mem va pa) ∨ ∃ k off, p = .cell k off true := by
  unfold State.route at h
  split at h
  · split at h
    · cases h
      exact .inr ⟨_, _, rfl⟩
    · cases h
  · split at h
    · cases h
      exact .inl ⟨_, rfl⟩
    · cases h

theorem Undisturbed.store {c va : Nat} {x : Want} {p : Loc} (hu : Undisturbed iss g l t s) (hroute : s.route c va x = .ok p) (bs : List Byte) :
    Undisturbed iss g l t ((s.env iss g l).store p va bs none) := by
  rcases route_cases hroute with ⟨pa, rfl⟩ | ⟨k, off, rfl⟩
  · have hkept : GroupsKept s ((s.env iss g l).store (.mem va pa) va bs none) := by
      obtain ⟨H, hH⟩ := markDirty_hbm s g.ctx va
      unfold Env.store State.queueStore
      dsimp only [State.env]
      rw [hH]
      exact ⟨rfl, rfl⟩
    exact hu.kept hkept
  · have hwrite : Undisturbed iss g l t (s.scratchWrite k off bs) := hu.modGroup fun _ _ _ ht => ⟨ht, rfl, rfl, rfl⟩
    exact hwrite.of_groups rfl rfl

theorem l1Fill_kept (core ctx va pa n : Nat) : GroupsKept s (s.l1Fill core ctx va pa n) := by
  have hdir : GroupsKept s (s.dirRead (dieOf core) pa n) := by
    unfold State.dirRead State.dirReadMask State.dirSet State.countFrame
    split
    · exact ⟨rfl, rfl⟩
    · split <;> exact ⟨rfl, rfl⟩
  exact hdir

theorem loadBytes_kept {core ctx k n m : Nat} {p : Loc} {bs : List Byte} (h : s.loadBytes core ctx k n p m = some (e, bs)) : GroupsKept s e := by
  have hfill (a : State) (va pa : Nat) : GroupsKept a (if ((a.core core).l1Find ctx (va / 128)).isSome then a else a.l1Fill core ctx va pa m) := by
    split
    · exact ⟨rfl, rfl⟩
    · exact l1Fill_kept ..
  unfold State.loadBytes at h
  split at h
  · cases h
    exact ⟨rfl, rfl⟩
  · cases h
    exact ⟨rfl, rfl⟩
  · dsimp only at h
    split at h
    · split at h
      · cases h
        exact ⟨rfl, rfl⟩
      · obtain ⟨a, hdrain, hend⟩ := Option.map_eq_some_iff.1 h
        cases hend
        exact (drainAt_kept hdrain).trans (hfill a _ _)
    · cases h
      exact hfill s _ _

theorem read_kept {p : Loc} {va n : Nat} {bs : List Byte} (h : (s.env iss g l).read p va n = some (e, bs)) : GroupsKept s e := by
  unfold Env.read at h
  split at h
  · cases h
    exact ⟨rfl, rfl⟩
  · split at h
    · cases h
      exact ⟨rfl, rfl⟩
    · exact loadBytes_kept h
  · exact loadBytes_kept h

section push

variable {old : Dword} {p : Loc} (hlen : t.ret.length = 8) (hlast : t.ret.getLast? = some old) (hroom : 8 * (t.spill + 1) ≤ (s.env iss g l).stackSize)
  (hroute : s.route g.ctx ((s.env iss g l).stackArea + BitVec.ofNat 64 (8 * t.spill)).toNat .store = .ok p)

include hlen hlast hroom hroute

/-- A push with 8 held entries stores the oldest, and the stream waits where the thread's stores cannot be performed. -/
theorem push_spills (r : Dword) (k : State → (Thread → Thread) → Turnout) :
    let e1 := (s.env iss g l).store p ((s.env iss g l).stackArea + BitVec.ofNat 64 (8 * t.spill)).toNat (bytesOfNat old.toNat 8) none
    (e1.drainThread iss.core iss.grp l.2 = none → push (s.env iss g l) t r k = .hold s)
    ∧ ∀ e2, e1.drainThread iss.core iss.grp l.2 = some e2 → push (s.env iss g l) t r k = k e2 (fun x => { x with ret := r :: x.ret.dropLast, spill := x.spill + 1 }) := by
  intro e1
  have hpush : push (s.env iss g l) t r k = match e1.drainThread iss.core iss.grp l.2 with
      | none => .hold s
      | some e2 => k e2 (fun x => { x with ret := r :: x.ret.dropLast, spill := x.spill + 1 }) := by
    unfold push
    rw [hlast]
    dsimp only
    rw [if_neg (by omega), if_neg (by omega), show (s.env iss g l).s = s from rfl, show (s.env iss g l).grp = g from rfl, hroute]
    rfl
  rw [hpush]
  exact ⟨fun h => by rw [h], fun e2 h => by rw [h]⟩

/-- A word that pushes with 8 held entries (07 R154): the stream waits, or the thread leaves for the target with its oldest entry spilled. -/
theorem spills_of_push {target : Dword} {body : Issue → Nat → State → Turnout} (h : s.IssuesOne iss g i l t) (hx : exec i s = .next (runWord i s body)) (hc : closesFirst i = false)
    (hb : body iss l.2 s = push (s.env iss g l) t (iss.pc + 8) (fun s2 f => .leave s2 (fun x => (f x).waitAt target (s2.clock iss.core)))) :
    let e1 := (s.env iss g l).store p ((s.env iss g l).stackArea + BitVec.ofNat 64 (8 * t.spill)).toNat (bytesOfNat old.toNat 8) none
    (e1.drainThread iss.core iss.grp l.2 = none → Waits s iss i)
    ∧ ∀ e2, e1.drainThread iss.core iss.grp l.2 = some e2 →
      RetiresTo s iss i l e2 (fun u => { u.waitAt target (e2.clock iss.core) with ret := (iss.pc + 8) :: u.ret.dropLast, spill := u.spill + 1 }) := by
  intro e1
  obtain ⟨hholds, hgoes⟩ := push_spills hlen hlast hroom hroute (iss.pc + 8) (fun s2 f => .leave s2 (fun x => (f x).waitAt target (s2.clock iss.core)))
  refine ⟨fun hdrain => waits_of_hold hx hc h (hb.trans (hholds hdrain)), fun e2 hdrain => ?_⟩
  refine (((undisturbed_of_issuesOne h).store hroute _).kept (drainThread_kept hdrain)).retiresTo hx hc h (hb.trans (hgoes e2 hdrain)) ?_
  rintro u rfl
  exact ⟨rfl, (IssuesOne_ready h).onTime⟩

end push

/-- A pop with none held loads the newest spilled entry (07 R154); the stream waits where a store of the thread's own is held back. -/
theorem pop_spilled {p : Loc} (hret : t.ret = []) (hspill : 0 < t.spill)
    (hroute : s.route g.ctx ((s.env iss g l).stackArea + BitVec.ofNat 64 (8 * (t.spill - 1))).toNat .load = .ok p) (k : State → Dword → (Thread → Thread) → Turnout) :
    let slot := (s.env iss g l).stackArea + BitVec.ofNat 64 (8 * (t.spill - 1))
    ((s.env iss g l).read p slot.toNat 8 = none → pop (s.env iss g l) t k = .hold s)
    ∧ ∀ e1 bs, (s.env iss g l).read p slot.toNat 8 = some (e1, bs) → pop (s.env iss g l) t k = k e1 (BitVec.ofNat 64 (natOfBytes bs)) (fun x => { x with spill := x.spill - 1 }) := by
  intro slot
  unfold pop
  rw [hret]
  dsimp only
  rw [if_neg (by omega), show (s.env iss g l).s = s from rfl, show (s.env iss g l).grp = g from rfl, hroute]
  exact ⟨fun h => by simp only [slot] at h; simp only [h], fun e1 bs h => by simp only [slot] at h; simp only [h]⟩

theorem ret_spilled {w : F0} {p : Loc} (h : s.IssuesOne iss g (.ret w) l t) (hret : t.ret = []) (hspill : 0 < t.spill)
    (hroute : s.route g.ctx ((s.env iss g l).stackArea + BitVec.ofNat 64 (8 * (t.spill - 1))).toNat .load = .ok p) :
    let slot := (s.env iss g l).stackArea + BitVec.ofNat 64 (8 * (t.spill - 1))
    ((s.env iss g l).read p slot.toNat 8 = none → Waits s iss (.ret w))
    ∧ ∀ e1 bs, (s.env iss g l).read p slot.toNat 8 = some (e1, bs) →
      RetiresTo s iss (.ret w) l e1 (fun u => { u.waitAt (BitVec.ofNat 64 (natOfBytes bs)) (e1.clock iss.core) with spill := u.spill - 1 }) := by
  intro slot
  obtain ⟨hholds, hgoes⟩ := pop_spilled hret hspill hroute (fun s2 r f => .leave s2 (fun x => (f x).waitAt r (s2.clock iss.core)))
  refine ⟨fun hread => waits_of_hold rfl rfl h ((withThread_one h _).trans (hholds hread)), fun e1 bs hread => ?_⟩
  refine ((undisturbed_of_issuesOne h).kept (read_kept hread)).retiresTo rfl rfl h ((withThread_one h _).trans (hgoes e1 bs hread)) ?_
  rintro u rfl
  exact ⟨rfl, (IssuesOne_ready h).onTime⟩

end spills

end Sys2Proof.Proofs

/-! ## Control words: EXIT, ROWBLK and YIELD (07 R144, R160 to R162) -/

namespace Sys2Proof.Proofs

open Sys2Proof.Machine Sys2Proof.Laws

section issue

variable {i : Instr} {s : State} {iss : Issue} {g : Group}

/-- What an issue has come to before its first turn. -/
def noTurns (s : State) : LaneAcc := { s := s, faults := [], late := [], held := false, acted := [] }

/-- A word that can be issued goes to all lanes of its pack (07 R146). -/
theorem runWord_turns (hi : s.Issues iss g i) (body : Issue → Nat → State → Turnout) :
    runWord i s body = (finishIssue iss (iss.lanes.foldl (laneTurn i iss (body iss)) (noTurns s))).afterWord i iss := by
  have hrow : (crossLane i && !(((s.issuing iss).map (fun x => x.rowblk)).getD false)) = false := by
    cases hc : crossLane i
    · rfl
    · simp [hi.rows hc]
  have hgo : (((s.issuing iss).map (fun x => x.handler)).getD false && handlerEnds i) = false := by
    show (s.handling iss && handlerEnds i) = false
    cases hc : s.handling iss
    · rfl
    · simp [hi.goesOn hc]
  unfold runWord
  simp only [hi.issue, hi.group]
  rw [show wordFault i g.frame g.accs (s.corOf g) (((s.issuing iss).map (fun x => x.handler)).getD false) = none from hi.legal]
  simp only [hrow, hgo, hi.fresh, runLanes_whole i s iss _ _ _ hi.whole, Bool.false_eq_true, if_false]
  rfl

theorem gone_noTurns (hi : s.Issues iss g i) (fin : Nat × Nat → Thread → Thread) : Gone s iss g fin [] (noTurns s) g.threads :=
  ⟨⟨s.groups, rfl⟩, fun _ _ => rfl, hi.group, rfl, by simp, by simp, ⟨rfl, rfl, rfl⟩, by simp [noTurns]⟩

/-- The stream's dispatch brought up to date after a word went to a pack (07 R146, R147). -/
def streamOn (s : State) (iss : Issue) (held : Bool) (acted : List Nat) : State :=
  match (s.stream iss.core iss.stream).dispatch, s.group? iss.grp with
  | some d, some g => if d.grp = iss.grp then s.setStream iss.core iss.stream { s.stream iss.core iss.stream with dispatch := d.after g iss.pack held acted } else s
  | _, _ => s

/-- The end of an issue with no fault. -/
def issueEnd (s : State) (iss : Issue) (held : Bool) (acted : List Nat) : State :=
  let s1 := streamOn (s.gatherFlags iss.grp (iss.lanes.map (fun l => l.2)) iss.stream) iss held acted
  { s1.retable iss.grp with issue := none, choiceCtr := s1.choiceCtr + 1 }

theorem finishIssue_eq_issueEnd {a : LaneAcc} (hf : a.faults = []) (hl : a.late = []) (ht : ∀ l ∈ iss.lanes, ((a.s.thread? iss.grp l.2).bind (fun t => t.late)) = none) :
    finishIssue iss a = issueEnd a.s iss a.held a.acted := by
  unfold finishIssue
  simp only [hf, takeFaults_nil, lateOf_none a iss iss.lanes hl ht, clearLate_none a.s iss.grp iss.lanes ht]
  rfl

/-- Once all lanes have had their turns, no thread of a ready pack has a fault to follow where `fin` leaves none. -/
theorem gone_late_none {fin : Nat × Nat → Thread → Thread} {a : LaneAcc} {ths : List Thread} (h : Gone s iss g fin iss.lanes a ths) (hi : s.Issues iss g i)
    (hlate : ∀ l ∈ iss.lanes, ∀ t, g.threads[l.2]? = some t → t.Ready i → (fin l t).late = none) : ∀ l ∈ iss.lanes, ((a.s.thread? iss.grp l.2).bind (fun t => t.late)) = none := by
  intro l hl
  obtain ⟨t, ht, hr⟩ := hi.threads l hl
  have hmade : ths[l.2]? = some (fin l t) := (h.made l hl).trans (by rw [ht]; rfl)
  unfold State.thread?
  rw [h.group, Option.bind_some, hmade]
  exact hlate l hl t ht hr

end issue

/-! ### EXIT: the locks -/

section exit

variable {i : Instr} {s : State} {iss : Issue} {g : Group}

/-- The region locks once a thread holds none and has no place at any (10 R236). -/
def unlocked (who : Nat × Nat) (ls : List RLock) : List RLock :=
  (ls.map (fun k => { k with holder := if k.holder = some who then none else k.holder, refused := k.refused.filter (fun x => decide (x ≠ who)) })).filter (fun k => k.holder.isSome || !k.refused.isEmpty)

theorem unlock_eq (s : State) (k n : Nat) : s.unlock k n true = { s with locks := unlocked (k, n) s.locks } := rfl

theorem mem_unlocked {who : Nat × Nat} {ls : List RLock} {k : RLock} (h : k ∈ unlocked who ls) :
    k.holder ≠ some who ∧ who ∉ k.refused ∧ ∃ k' ∈ ls, (∀ x, k.holder = some x → k'.holder = some x) ∧ ∀ x ∈ k.refused, x ∈ k'.refused := by
  obtain ⟨hmem, -⟩ := List.mem_filter.1 h
  obtain ⟨k', hk', rfl⟩ := List.mem_map.1 hmem
  refine ⟨?_, by simp, k', hk', fun x hx => ?_, fun x hx => (List.mem_filter.1 hx).1⟩
  · dsimp only
    split
    · simp
    · assumption
  · dsimp only at hx
    split at hx
    · cases hx
    · exact hx

/-- The locks once the threads of some lanes whose guard holds have exited. -/
def exitLocks (i : Instr) (grp : Nat) (g : Group) (lanes : List (Nat × Nat)) (ls : List RLock) : List RLock :=
  lanes.foldl (fun ks l => if ((g.threads[l.2]?).map (fun t => t.takes i)).getD false then unlocked (grp, l.2) ks else ks) ls

theorem exitLocks_same {grp : Nat} {lanes : List (Nat × Nat)} {ls : List RLock} (h : ∀ l ∈ lanes, unlocked (grp, l.2) ls = ls) : exitLocks i grp g lanes ls = ls := by
  unfold exitLocks
  induction lanes with
  | nil => rfl
  | cons l lanes ih =>
    rw [List.foldl_cons, h l (by simp), ite_self]
    exact ih fun m hm => h m (by simp [hm])

/-- No lock of the outcome is held by a thread, or keeps a place for it, where that is so of every lock before; and an exited thread is none's. -/
theorem exitLocks_free {grp : Nat} {lanes : List (Nat × Nat)} {ls : List RLock} {n : Nat}
    (h : (∀ k ∈ ls, k.holder ≠ some (grp, n) ∧ (grp, n) ∉ k.refused) ∨ ∃ l ∈ lanes, l.2 = n ∧ ∃ t, g.threads[n]? = some t ∧ t.takes i = true) :
    ∀ k ∈ exitLocks i grp g lanes ls, k.holder ≠ some (grp, n) ∧ (grp, n) ∉ k.refused := by
  unfold exitLocks
  induction lanes generalizing ls with
  | nil => simpa using h
  | cons l lanes ih =>
    rw [List.foldl_cons]
    refine ih ?_
    by_cases hl : ∃ m ∈ lanes, m.2 = n ∧ ∃ t, g.threads[n]? = some t ∧ t.takes i = true
    · exact .inr hl
    refine .inl fun k hk => ?_
    rcases h with hfree | ⟨m, hm, hmn, t, ht, htakes⟩
    · split at hk
      · obtain ⟨-, -, k', hk', hholder, hrefused⟩ := mem_unlocked hk
        exact ⟨fun hx => (hfree k' hk').1 (hholder _ hx), fun hx => (hfree k' hk').2 (hrefused _ hx)⟩
      · exact hfree k hk
    · obtain rfl : m = l := (List.mem_cons.1 hm).resolve_right fun hm' => hl ⟨m, hm', hmn, t, ht, htakes⟩
      subst hmn
      rw [ht, Option.map_some, Option.getD_some, htakes, if_pos rfl] at hk
      exact ⟨(mem_unlocked hk).1, (mem_unlocked hk).2.1⟩

/-- A thread that exits (07 R160). -/
def exited (iss : Issue) (c : Nat) (t : Thread) : Thread := { t.waitAt (iss.pc + 8) c with cond := .exited, q := List.replicate 8 [], ret := [] }

/-- The turn of EXIT at a thread, and the same turn with the locks left alone. -/
def exitBody (iss : Issue) (n : Nat) (s : State) : Turnout := .leave (s.unlock iss.grp n true) (exited iss (s.clock iss.core))
def exitBare (iss : Issue) (_ : Nat) (s : State) : Turnout := .leave s (exited iss (s.clock iss.core))

/-- What an issue has come to, with other locks. -/
def withLocks (a : LaneAcc) (ls : List RLock) : LaneAcc := { a with s := { a.s with locks := ls } }

theorem modGroup_withLocks (s : State) (ls : List RLock) (k : Nat) (f : Group → Group) : ({ s with locks := ls } : State).modGroup k f = { s.modGroup k f with locks := ls } := by
  unfold State.modGroup
  rw [show ({ s with locks := ls } : State).group? k = s.group? k from rfl]
  split <;> rfl

/-- A thread's turn at EXIT is its turn with the locks left alone, but for the locks. -/
theorem laneTurn_exit {w : F0} {a : LaneAcc} {ls : List RLock} {l : Nat × Nat} {t : Thread} (hh : a.held = false) (ht : a.s.thread? iss.grp l.2 = some t) (hr : t.Ready (.exit w)) (hac : a.acted.contains l.2 = false) :
    laneTurn (.exit w) iss (exitBody iss) (withLocks a ls) l = withLocks (laneTurn (.exit w) iss (exitBare iss) a l) (if t.takes (.exit w) then unlocked (iss.grp, l.2) ls else ls) := by
  rw [laneTurn_ready (i := .exit w) (body := exitBare iss) rfl hh ht hr hac, laneTurn_ready (i := .exit w) (body := exitBody iss) (a := withLocks a ls) rfl hh ht hr hac]
  have hmod (L : List RLock) (f : Thread → Thread) : ({ a.s with locks := L } : State).modThread iss.grp l.2 f = { a.s.modThread iss.grp l.2 f with locks := L } := modGroup_withLocks ..
  have hset (L : List RLock) (u : Thread) : ({ a.s with locks := L } : State).setThread iss.grp l.2 u = { a.s.setThread iss.grp l.2 u with locks := L } := modGroup_withLocks ..
  split
  · unfold exitBody exitBare LaneAcc.settle withLocks
    dsimp only
    rw [unlock_eq]
    dsimp only
    rw [hmod]
    rfl
  · unfold withLocks
    dsimp only
    rw [hset]
    rfl

theorem foldl_exit {w : F0} (hi : s.Issues iss g (.exit w)) {fin : Nat × Nat → Thread → Thread} (hturn : OneTurn (.exit w) s iss g fin (exitBare iss)) (todo : List (Nat × Nat)) :
    ∀ (done : List (Nat × Nat)) (a : LaneAcc) (ths : List Thread) (ls : List RLock), iss.lanes = done ++ todo → Gone s iss g fin done a ths →
      todo.foldl (laneTurn (.exit w) iss (exitBody iss)) (withLocks a ls) = withLocks (todo.foldl (laneTurn (.exit w) iss (exitBare iss)) a) (exitLocks (.exit w) iss.grp g todo ls) := by
  induction todo with
  | nil => intros; rfl
  | cons l todo ih =>
    intro done a ths ls hlanes ha
    have hl : l ∈ iss.lanes := by simp [hlanes]
    obtain ⟨t, ht, hr⟩ := hi.threads l hl
    have hnew : l.2 ∉ done.map (fun x => x.2) := by
      have hdis := hi.distinct
      rw [hlanes, List.map_append, List.nodup_append] at hdis
      exact fun hm => hdis.2.2 l.2 hm l.2 (by simp) rfl
    have hat : a.s.thread? iss.grp l.2 = some t := by
      unfold State.thread?
      rw [ha.group]
      exact (ha.rest _ hnew).trans ht
    have hac : a.acted.contains l.2 = false := by
      rw [List.contains_eq_mem, decide_eq_false_iff_not]
      exact fun hm => hnew (ha.acted _ hm)
    obtain ⟨ths', ha'⟩ := gone_step hturn hl hnew ht ha
    have htail := ih (done ++ [l]) _ ths' (if t.takes (.exit w) then unlocked (iss.grp, l.2) ls else ls) (by simp [hlanes]) ha'
    rw [List.foldl_cons, laneTurn_exit ha.quiet.2.2 hat hr hac, htail]
    simp only [exitLocks, List.foldl_cons, ht, Option.map_some, Option.getD_some]

theorem issueEnd_withLocks (s : State) (ls : List RLock) (held : Bool) (acted : List Nat) : issueEnd { s with locks := ls } iss held acted = { issueEnd s iss held acted with locks := ls } := by
  have hgather : ({ s with locks := ls } : State).gatherFlags iss.grp (iss.lanes.map (fun l => l.2)) iss.stream = { s.gatherFlags iss.grp (iss.lanes.map (fun l => l.2)) iss.stream with locks := ls } := modGroup_withLocks ..
  have hstream (b : State) : streamOn { b with locks := ls } iss held acted = { streamOn b iss held acted with locks := ls } := by
    unfold streamOn
    rw [show ({ b with locks := ls } : State).stream iss.core iss.stream = b.stream iss.core iss.stream from rfl, show ({ b with locks := ls } : State).group? iss.grp = b.group? iss.grp from rfl]
    split
    · split <;> rfl
    · rfl
  have hretable (b : State) : ({ b with locks := ls } : State).retable iss.grp = { b.retable iss.grp with locks := ls } := modGroup_withLocks ..
  unfold issueEnd
  rw [hgather, hstream]
  generalize streamOn (s.gatherFlags iss.grp (iss.lanes.map (fun l => l.2)) iss.stream) iss held acted = b
  exact congrArg (fun c : State => { c with issue := none, choiceCtr := b.choiceCtr + 1 }) (hretable b)

theorem gives_withLocks {s' : State} {next : Nat × Nat → Thread → Thread} {raise : Nat × Nat → Thread → Flags} (h : Gives s s' iss g i next raise) (ls : List RLock) :
    Gives { s with locks := ls } { s' with locks := ls } iss g i next raise := by
  obtain ⟨⟨⟨G, C, hdev⟩, others, group, rest, cores, core⟩, threads, pending, flags⟩ := h
  exact ⟨⟨⟨G, C, by rw [hdev]⟩, others, group, rest, cores, core⟩, threads, pending, flags⟩

/-- EXIT over a pack: each thread whose guard holds has exited, and its locks and places are given up. -/
theorem exit_gives {w : F0} (hi : s.Issues iss g (.exit w)) :
    ∃ s', exec (.exit w) s = .next s' ∧ s'.locks = exitLocks (.exit w) iss.grp g iss.lanes s.locks
      ∧ Gives { s with locks := s'.locks } s' iss g (.exit w) (fun _ t => exited iss (s.clock iss.core) (t.after (.exit w) true [] iss.pc)) (fun _ _ => 0) := by
  let fin (_ : Nat × Nat) (t : Thread) : Thread := exited iss (s.clock iss.core) (t.retireWord (.exit w) true none iss.pc)
  have hbody : BodyMakes (.exit w) s iss g (exitBare iss) fin := fun l hl t ht hk a G hG hat => by
    have hclock : a.s.clock iss.core = s.clock iss.core := by rw [hG]; rfl
    unfold exitBare
    rw [hclock]
    exact settle_leave hat
  have hgives : Gives s (runWord (.exit w) s exitBare) iss g (.exit w) (fun _ t => exited iss (s.clock iss.core) (t.after (.exit w) true [] iss.pc)) (fun _ _ => 0) := by
    refine gives_of_body hi rfl hbody fun l hl t ht hk hr => ?_
    dsimp only [fin]
    rw [retireWord_ready hr]
    exact ⟨rfl, rfl, by simp [exited, Thread.waitAt, Thread.after], hr.onTime⟩
  have hturn := oneTurn_of_body (i := .exit w) hi rfl hbody
  obtain ⟨ths, hgone⟩ := gone_fold hturn (fun l hl => (hi.threads l hl).imp fun _ h => h.1) iss.lanes [] _ _ rfl (by simpa using hi.distinct) (gone_noTurns hi _)
  have hfold := foldl_exit hi hturn iss.lanes [] _ _ s.locks rfl (gone_noTurns hi _)
  have hlate : ∀ l ∈ iss.lanes, ∀ t, g.threads[l.2]? = some t → t.Ready (.exit w) → (turned (.exit w) iss (s.clock iss.core) fin l t).late = none := fun l hl t ht hr => by
    unfold turned
    split
    · dsimp only [fin]
      rw [retireWord_ready hr]
      exact hr.onTime
    · exact (skips_eq hr iss.pc (s.clock iss.core)).2.2
  have hnone := gone_late_none hgone hi hlate
  have hbare := runWord_turns hi exitBare
  have hexit := runWord_turns hi exitBody
  rw [show withLocks (noTurns s) s.locks = noTurns s from rfl] at hfold
  rw [hfold] at hexit
  generalize iss.lanes.foldl (laneTurn (.exit w) iss (exitBare iss)) (noTurns s) = b at hgone hnone hbare hexit
  rw [finishIssue_eq_issueEnd hgone.quiet.1 hgone.quiet.2.1 hnone] at hbare
  rw [finishIssue_eq_issueEnd (a := withLocks b (exitLocks (.exit w) iss.grp g iss.lanes s.locks)) hgone.quiet.1 hgone.quiet.2.1 hnone] at hexit
  have hrun : runWord (.exit w) s exitBody = { runWord (.exit w) s exitBare with locks := exitLocks (.exit w) iss.grp g iss.lanes s.locks } := by
    rw [hexit, hbare]
    exact issueEnd_withLocks b.s _ b.held b.acted
  exact ⟨runWord (.exit w) s exitBody, rfl, by rw [hrun], by rw [hrun]; exact gives_withLocks hgives _⟩

/-- EXIT as its statement has it (07 R160, 10 R236). -/
theorem exit_exits {w : F0} (hi : s.Issues iss g (.exit w)) :
    ∃ s' : State, exec (.exit w) s = .next s'
      ∧ Gives { s with locks := s'.locks } s' iss g (.exit w) (fun _ t => exited iss (s.clock iss.core) (t.after (.exit w) true [] iss.pc)) (fun _ _ => 0)
      ∧ ((∀ l ∈ iss.lanes, s.unlock iss.grp l.2 true = s) → s'.locks = s.locks)
      ∧ ∀ l ∈ iss.lanes, ∀ t, g.threads[l.2]? = some t → t.takes (.exit w) = true → ∀ k ∈ s'.locks, k.holder ≠ some (iss.grp, l.2) ∧ (iss.grp, l.2) ∉ k.refused := by
  obtain ⟨s', hx, hlocks, hgives⟩ := exit_gives hi
  refine ⟨s', hx, hgives, fun hfree => ?_, fun l hl t ht hk => ?_⟩
  · rw [hlocks]
    exact exitLocks_same fun l hl => congrArg State.locks (hfree l hl)
  · rw [hlocks]
    exact exitLocks_free (.inr ⟨l, hl, rfl, t, ht, hk⟩)

end exit

/-! ### ROWBLK and YIELD -/

section rows

variable {s : State} {iss : Issue} {g : Group}

/-- ROWBLK: the first word of a dispatch retires; elsewhere its threads wait at it (07 R161). -/
theorem rowblk_gives {w : F1} {d : Dispatch} (hi : s.Issues iss g (.rowblk w)) (hd : s.issuing iss = some d) :
    ∃ s' : State, exec (.rowblk w) s = .next s'
      ∧ Gives s s' iss g (.rowblk w) (fun _ t => if d.index = 0 then t.after (.rowblk w) true [] iss.pc else t.waitAt iss.pc (s.clock iss.core)) (fun _ _ => 0) := by
  refine ⟨_, rfl, gives_of_body (fin := fun _ t => if d.index = 0 then t.retireWord (.rowblk w) true none iss.pc else t.waitAt iss.pc (s.clock iss.core)) hi rfl ?_ ?_⟩
  · intro l hl t ht hk a G hG hat
    have hissuing : a.s.issuing iss = some d := by rw [hG]; exact hd
    have hclock : a.s.clock iss.core = s.clock iss.core := by rw [hG]; rfl
    simp only [hissuing, hclock, Option.map_some, Option.getD_some]
    split
    · exact settle_done_same hat
    · unfold LaneAcc.settle
      dsimp only
      rw [modThread_of _ _ _ _ _ hat]
  · intro l hl t ht hk hr
    dsimp only
    split
    · rw [retireWord_ready hr]
      exact ⟨rfl, rfl, by simp [Thread.after], hr.onTime⟩
    · refine ⟨?_, ?_, ?_, hr.onTime⟩
      · exact congrArg (fun u : Thread => u.waitAt iss.pc (s.clock iss.core)) (show { t with raised := [] } = t by rw [← hr.unraised])
      · simp [raisedBy, Thread.waitAt, hr.unraised]
      · simp [Thread.waitAt, hr.unraised]

/-- A stream with no thread of its dispatch's one pack still running has no dispatch (07 R147). -/
theorem after_none {d : Dispatch} {x : Group} {pack : List (Nat × Nat)} (hpacks : d.packs = [pack]) (hgone : ∀ l ∈ pack, ∀ t, x.threads[l.2]? = some t → t.cond ≠ .running) (k : Nat) (held : Bool) (acted : List Nat) :
    d.after x k held acted = none := by
  have hlive : livePack x pack = [] := List.filter_eq_nil_iff.2 fun l hl => by
    cases ht : x.threads[l.2]? with
    | none => simp
    | some t => simpa [Thread.isRunning] using hgone l hl t ht
  unfold Dispatch.after
  simp [hpacks, hlive]

theorem stream_of_modGroup (k : Nat) (f : Group → Group) (c n : Nat) : (s.modGroup k f).stream c n = s.stream c n := by
  unfold State.stream State.core
  rw [modGroup_cores]

theorem stream_setStream_same {c k : Nat} (h : k < (s.core c).streams.length) (x : Stream) : (s.setStream c k x).stream c k = x := by
  unfold State.setStream State.stream
  rw [core_setCore_same]
  simp [List.getD_eq_getElem?_getD, h]

theorem stream_lt {c k : Nat} {d : Dispatch} (h : (s.stream c k).dispatch = some d) : k < (s.core c).streams.length := by
  by_contra hout
  unfold State.stream at h
  rw [List.getD_eq_default _ _ (Nat.not_lt.1 hout)] at h
  cases h

/-- A block table brought up to date leaves the threads as they are. -/
theorem thread?_retable (s : State) (k j n : Nat) : (s.retable k).thread? j n = s.thread? j n := by
  unfold State.retable State.thread?
  rw [group?_modGroup]
  split
  · cases s.group? j <;> rfl
  · rfl

/-- The dispatch of the issuing stream once an issue has ended, by the group's threads then. -/
theorem issueEnd_dispatch {d : Dispatch} {y : Group} (hd : (s.stream iss.core iss.stream).dispatch = some d) (hgrp : d.grp = iss.grp) (hy : s.group? iss.grp = some y) (held : Bool) (acted : List Nat) :
    ∃ x, ((issueEnd s iss held acted).stream iss.core iss.stream).dispatch = d.after x iss.pack held acted ∧ ∀ n, (issueEnd s iss held acted).thread? iss.grp n = x.threads[n]? := by
  obtain ⟨x, hx⟩ : ∃ x, (s.gatherFlags iss.grp (iss.lanes.map (fun l => l.2)) iss.stream).group? iss.grp = some x := ⟨_, group?_modGroup_same hy⟩
  have hstream : (s.gatherFlags iss.grp (iss.lanes.map (fun l => l.2)) iss.stream).stream iss.core iss.stream = s.stream iss.core iss.stream := stream_of_modGroup ..
  rw [← hstream] at hd
  unfold issueEnd
  generalize s.gatherFlags iss.grp (iss.lanes.map (fun l => l.2)) iss.stream = b at hx hd
  have hon : streamOn b iss held acted = b.setStream iss.core iss.stream { b.stream iss.core iss.stream with dispatch := d.after x iss.pack held acted } := by
    unfold streamOn
    rw [hd, hx]
    exact if_pos hgrp
  refine ⟨x, ?_, fun n => ?_⟩
  · show (((streamOn b iss held acted).retable iss.grp).stream iss.core iss.stream).dispatch = _
    rw [State.retable, stream_of_modGroup, hon, stream_setStream_same (stream_lt hd)]
  · show ((streamOn b iss held acted).retable iss.grp).thread? iss.grp n = _
    rw [thread?_retable, hon]
    show (b.group? iss.grp).bind _ = _
    rw [hx]
    rfl

/-- The address after a YIELD is marked unless the stream goes on with the dispatch (07 R144). -/
theorem markYielded_marks {y : Group} (hy : s.group? iss.grp = some y) (hnone : (s.stream iss.core iss.stream).dispatch = none) :
    ∃ x, (s.markYielded iss).group? iss.grp = some x ∧ iss.pc + 8 ∈ x.yielded := by
  unfold State.markYielded
  rw [hnone, Option.isSome_none, if_neg Bool.false_ne_true]
  refine ⟨_, group?_modGroup_same hy, ?_⟩
  split
  · next h => exact List.contains_iff_mem.1 h
  · simp

theorem markYielded_stream (s : State) (iss : Issue) (c k : Nat) : (s.markYielded iss).stream c k = s.stream c k := by
  unfold State.markYielded
  split
  · rfl
  · exact stream_of_modGroup ..

theorem markYielded_group? (s : State) (iss : Issue) : ((s.markYielded iss).group? iss.grp).map (fun x => x.threads) = (s.group? iss.grp).map (fun x => x.threads) := by
  rcases markYielded_cases s iss with h | ⟨y, l, hy, h⟩
  · rw [h]
  · rw [h, group?_setGroup_same, hy]
    rfl

theorem thread?_markYielded (s : State) (iss : Issue) (n : Nat) : (s.markYielded iss).thread? iss.grp n = s.thread? iss.grp n := by
  have hthreads := markYielded_group? s iss
  unfold State.thread?
  rcases h : (s.markYielded iss).group? iss.grp with _ | x <;> rcases h' : s.group? iss.grp with _ | y <;> simp_all

/-- YIELD: its threads wait at the following address; with the dispatch ended, that address is yielded, and one of a single pack has ended (07 R144, R162). -/
theorem yield_gives {w : F0} (hi : s.Issues iss g (.yield w)) :
    ∃ s' : State, exec (.yield w) s = .next s' ∧ Gives s s' iss g (.yield w) (fun _ t => (t.after (.yield w) true [] iss.pc).waitAt (iss.pc + 8) (s.clock iss.core)) (fun _ _ => 0)
      ∧ ((s'.stream iss.core iss.stream).dispatch = none → ∃ x, s'.group? iss.grp = some x ∧ iss.pc + 8 ∈ x.yielded)
      ∧ (∀ d, s.issuing iss = some d → d.grp = iss.grp → d.packs = [iss.lanes] → (s'.stream iss.core iss.stream).dispatch = none) := by
  let body (iss : Issue) (_ : Nat) (s1 : State) : Turnout := goTo iss s1 (iss.pc + 8)
  let fin (_ : Nat × Nat) (t : Thread) : Thread := (t.retireWord (.yield w) true none iss.pc).waitAt (iss.pc + 8) (s.clock iss.core)
  have hbody : BodyMakes (.yield w) s iss g (body iss) fin := fun l hl t ht hk a G hG hat => by
    have hclock : a.s.clock iss.core = s.clock iss.core := by rw [hG]; rfl
    dsimp only [body, goTo]
    rw [hclock]
    exact settle_leave hat
  have hlate : ∀ l ∈ iss.lanes, ∀ t, g.threads[l.2]? = some t → t.Ready (.yield w) → (turned (.yield w) iss (s.clock iss.core) fin l t).late = none := fun l hl t ht hr => by
    unfold turned
    split
    · dsimp only [fin]
      rw [retireWord_ready hr]
      exact hr.onTime
    · exact (skips_eq hr iss.pc (s.clock iss.core)).2.2
  have hgives : Gives s (runWord (.yield w) s body) iss g (.yield w) (fun _ t => (t.after (.yield w) true [] iss.pc).waitAt (iss.pc + 8) (s.clock iss.core)) (fun _ _ => 0) := by
    refine gives_of_body hi rfl hbody fun l hl t ht hk hr => ?_
    dsimp only [fin]
    rw [retireWord_ready hr]
    exact ⟨rfl, rfl, by simp [Thread.waitAt, Thread.after], hr.onTime⟩
  obtain ⟨ths, hgone⟩ := gone_fold (oneTurn_of_body (i := .yield w) hi rfl hbody) (fun l hl => (hi.threads l hl).imp fun _ h => h.1) iss.lanes [] _ _ rfl (by simpa using hi.distinct) (gone_noTurns hi _)
  have hnone := gone_late_none hgone hi hlate
  have hrun := runWord_turns hi body
  generalize iss.lanes.foldl (laneTurn (.yield w) iss (body iss)) (noTurns s) = b at hgone hnone hrun
  rw [finishIssue_eq_issueEnd hgone.quiet.1 hgone.quiet.2.1 hnone] at hrun
  have hmark : runWord (.yield w) s body = (issueEnd b.s iss b.held b.acted).markYielded iss := hrun
  refine ⟨_, rfl, hgives, fun hended => ?_, fun d hd hgrp hpacks => ?_⟩
  · obtain ⟨y, hy⟩ : ∃ y, (issueEnd b.s iss b.held b.acted).group? iss.grp = some y := by
      obtain ⟨x, hx, -⟩ := Option.map_eq_some_iff.1 (hmark ▸ hgives.flags)
      have hthreads := markYielded_group? (issueEnd b.s iss b.held b.acted) iss
      rw [hx, Option.map_some] at hthreads
      exact (Option.map_eq_some_iff.1 hthreads.symm).imp fun _ h => h.1
    rw [hmark, markYielded_stream] at hended
    rw [hmark]
    exact markYielded_marks hy hended
  · obtain ⟨G, hG⟩ := hgone.state
    have hdb : (b.s.stream iss.core iss.stream).dispatch = some d := by rw [hG]; exact hd
    obtain ⟨x, hx, hthreads⟩ := issueEnd_dispatch hdb hgrp hgone.group b.held b.acted
    rw [hmark, markYielded_stream, hx]
    refine after_none hpacks (fun l hl u hu => ?_) _ _ _
    obtain ⟨t, ht, hr⟩ := hi.threads l hl
    have hlast := hgives.threads l hl t ht
    rw [hmark, thread?_markYielded, hthreads, hu] at hlast
    rw [Option.some.inj hlast]
    split
    · simp [Thread.waitAt]
    · simp [Thread.skips, endsDispatch, Thread.waitAt]

end rows


/-- Settles O8: each word's law over its pack, one for each way a thread goes on; the spills of CALL, CALLI and RET for a pack of one. -/
theorem controlWords : Obligations.ControlWords := by
  refine ⟨⟨nop_computes, bra_leaves, jmp_leaves, call_leaves, calli_leaves, ret_leaves, nap_leaves⟩, ⟨?_, ?_, ?_⟩, ?_, ?_, ?_⟩
  · intro w s iss g l t h e slot p old hlen hlast heven hroom hroute
    exact spills_of_push hlen hlast hroom hroute h rfl rfl (withThread_one h _)
  · intro w s iss g l t h e slot p old hlen hlast heven hroom hroute
    refine spills_of_push (target := t.sourcePair w.a) hlen hlast hroom hroute h rfl rfl ?_
    simp only [withThread_one h, calli_target (wordFault_none h.legal) h.live]
    exact if_neg (not_not_intro heven)
  · intro w s iss g l t h e slot p hret hspill hroute
    exact ret_spilled h hret hspill hroute
  · exact fun w s iss g hi => exit_exits hi
  · exact fun w s iss g d hi hd => rowblk_gives hi hd
  · exact fun w s iss g hi => yield_gives hi

end Sys2Proof.Proofs

/-! ## Cross-lane words: the turn of each active lane (07 R151, 08 R183, R184, 03 R87) -/

namespace Sys2Proof.Proofs

open Sys2Proof.Machine Sys2Proof.Laws

section row

variable {i : Instr} {s : State} {iss : Issue} {g : Group}

/-- An active lane without the number of its thread: the lanes as the statements speak of them. -/
def laneOnly (a : Nat × Nat × Thread) : Nat × Thread := (a.1, a.2.2)

/-- The active lanes of a pack whose threads are all ready: those whose guard holds. -/
theorem activeLanes_ready (hi : s.Issues iss g i) :
    activeLanes i iss s = iss.lanes.filterMap (fun l => (g.threads[l.2]?).bind (fun t => if t.takes i then some (l.1, l.2, t) else none)) := by
  refine List.filterMap_congr fun l hl => ?_
  obtain ⟨t, ht, hr⟩ := hi.threads l hl
  have hthread : s.thread? iss.grp l.2 = some t := by
    unfold State.thread?
    rw [hi.group]
    exact ht
  have hrun : t.isRunning = true := by simp [Thread.isRunning, hr.runs]
  simp only [hthread, ht, hrun, hr.noRegion, Option.bind_some, Option.bind_none, Option.isSome_none, Bool.true_and, Bool.not_false, Bool.and_true]
  rfl

theorem mem_activeLanes (hi : s.Issues iss g i) {a : Nat × Nat × Thread} :
    a ∈ activeLanes i iss s ↔ (a.1, a.2.1) ∈ iss.lanes ∧ g.threads[a.2.1]? = some a.2.2 ∧ a.2.2.takes i = true := by
  rw [activeLanes_ready hi, List.mem_filterMap]
  constructor
  · rintro ⟨l, hl, h⟩
    obtain ⟨t, ht, hk⟩ := Option.bind_eq_some_iff.1 h
    split at hk
    · next htakes =>
      cases hk
      exact ⟨hl, ht, htakes⟩
    · cases hk
  · rintro ⟨hl, ht, hk⟩
    exact ⟨_, hl, by simp [ht, hk]⟩

theorem activeLanes_only (hi : s.Issues iss g i) : (activeLanes i iss s).map laneOnly = g.active iss i := by
  rw [activeLanes_ready hi, List.map_filterMap]
  refine List.filterMap_congr fun l hl => ?_
  cases g.threads[l.2]? with
  | none => rfl
  | some t =>
    rw [Option.bind_some, Option.bind_some]
    split <;> rfl

/-- What a key list of the active lanes keeps of the pack's. -/
theorem activeLanes_nodup (hi : s.Issues iss g i) {β : Type} (key : Nat × Nat → β) (h : (iss.lanes.map key).Nodup) : ((activeLanes i iss s).map (fun a => key (a.1, a.2.1))).Nodup := by
  refine h.sublist ?_
  rw [activeLanes_ready hi]
  induction iss.lanes with
  | nil => exact List.Sublist.slnil
  | cons l lanes ih =>
    rw [List.filterMap_cons, List.map_cons]
    rcases hm : ((g.threads[l.2]?).bind fun t => if t.takes i then some (l.1, l.2, t) else none) with _ | a
    · exact ih.cons _
    · obtain ⟨t, -, hk⟩ := Option.bind_eq_some_iff.1 hm
      split at hk
      · cases hk
        exact ih.cons_cons _
      · cases hk

/-- Among entries of distinct keys the one of a key is found by it. -/
theorem find?_of_nodup {α : Type} {key : α → Nat} {l : List α} (h : (l.map key).Nodup) {a : α} (ha : a ∈ l) : l.find? (fun x => key x == key a) = some a := by
  induction l with
  | nil => cases ha
  | cons x l ih =>
    obtain ⟨hx, hl⟩ := List.nodup_cons.1 h
    rcases List.mem_cons.1 ha with rfl | hmem
    · simp
    · rw [List.find?_cons_of_neg, ih hl hmem]
      exact fun heq => hx (List.mem_map.2 ⟨a, hmem, (beq_iff_eq.1 heq).symm⟩)

/-- The law of cross-lane words: `put` and `fl` are what the word's function gives at each active lane. -/
theorem runCross_gives (hi : s.Issues iss g i) (hc : closesFirst i = false) {f : Issue → Group → List (Nat × Nat × Thread) → Nat → Thread → Thread × Flags}
    {put : Nat × Nat → Thread → Thread} {fl : Nat × Nat → Thread → Flags}
    (hf : ∀ a ∈ activeLanes i iss s, a.2.2.Ready i → f iss g (activeLanes i iss s) a.1 a.2.2 = (put (a.1, a.2.1) a.2.2, fl (a.1, a.2.1) a.2.2))
    (hp : ∀ l t, t.Ready i → (put l t).held = t.held ∧ (put l t).region = t.region ∧ (put l t).late = t.late ∧ (put l t).raised = t.raised) :
    Gives s (runCross i s f) iss g i (fun l t => (put l t).after i true (dstRegs i) iss.pc) fl := by
  refine gives_of_body (fin := fun l t => (flagged (put l t) (fl l t) iss.pc).retireWord i true none iss.pc) hi hc ?_ ?_
  · intro l hl t ht hk a G hG hat
    have hown : (l.1, l.2, t) ∈ activeLanes i iss s := (mem_activeLanes hi).2 ⟨hl, ht, hk⟩
    have hfind := find?_of_nodup (key := fun a => a.2.1) (activeLanes_nodup hi (fun l => l.2) hi.distinct) hown
    obtain ⟨t', ht', hr⟩ := hi.threads l hl
    obtain rfl : t = t' := Option.some.inj (ht.symm.trans ht')
    simp only [hi.group, hat, hfind, hf _ hown hr]
    exact settle_done_set hat
  · intro l hl t ht hk hr
    obtain ⟨hheld, hregion, hlate, hraised⟩ := hp l t hr
    obtain ⟨hafter, hkept⟩ := retireWord_plain (flagged (put l t) (fl l t) iss.pc) i true iss.pc (by simp [hheld, hr.landed]) (by simp [hregion, hr.noRegion])
    rw [if_pos rfl, after_flagged] at hafter
    refine ⟨hafter, ?_, ?_, ?_⟩
    · rw [raisedBy_of _ _ hkept, raisedBy_flagged _ _ _ (hraised.trans hr.unraised)]
    · rw [hkept]
      exact flagged_at _ _ _ (hraised.trans hr.unraised)
    · exact (congrArg Thread.late hafter).trans (by simp [after_late, hlate, hr.onTime])

/-- What the active lanes of a row are where their source registers are live (07 R151). -/
structure Row (i : Instr) (act : List (Nat × Nat × Thread)) : Prop where
  legal : staticFault i = none
  reads : ∀ a ∈ act, a.2.2.reads i
  distinct : (act.map (fun a => a.1)).Nodup
  small : ∀ a ∈ act, a.1 < 32

/-- The law of a cross-lane word, from its function over a row of active lanes. -/
theorem crosses_of {f : State → Issue → Group → List (Nat × Nat × Thread) → Nat → Thread → Thread × Flags} {put : Group → List (Nat × Thread) → Nat → Thread → Thread} {fl : Group → List (Nat × Thread) → Nat → Flags}
    (hx : ∀ s, exec i s = .next (runCross i s (f s))) (hc : closesFirst i = false)
    (hf : ∀ s iss g act, Row i act → ∀ a ∈ act, a.2.2.region = none → f s iss g act a.1 a.2.2 = (put g (act.map laneOnly) a.1 a.2.2, fl g (act.map laneOnly) a.1))
    (hp : ∀ g act j t, (put g act j t).held = t.held ∧ (put g act j t).region = t.region ∧ (put g act j t).late = t.late ∧ (put g act j t).raised = t.raised) :
    Crosses i put fl := by
  intro s iss g hi hdistinct hsmall hreads
  have hrow : Row i (activeLanes i iss s) :=
    { legal := wordFault_none hi.legal
      reads := fun a ha => have ⟨hl, ht, hk⟩ := (mem_activeLanes hi).1 ha; hreads _ hl _ ht hk
      distinct := activeLanes_nodup hi (fun l => l.1) hdistinct
      small := fun a ha => hsmall _ ((mem_activeLanes hi).1 ha).1 }
  refine ⟨_, hx s, runCross_gives hi hc (fun a ha hr => ?_) fun l t _ => hp g _ l.1 t⟩
  rw [hf s iss g _ hrow a ha hr.noRegion, activeLanes_only hi]

/-- The active lane of a number. -/
def laneAt (act : List (Nat × Thread)) (k : Nat) : Option Thread := (act.find? (fun a => a.1 == k)).map (fun a => a.2)

/-- A source register or pair of a lane, as a doubleword. -/
def laneValue (wide : Bool) (n : Nat) (t : Thread) : Dword := if wide then joinWords (t.v.get n) (t.v.get (n + 1)) else (t.v.get n).setWidth 64

theorem laneAt_only (act : List (Nat × Nat × Thread)) (k : Nat) : laneAt (act.map laneOnly) k = (act.find? (fun a => a.1 == k)).map (fun a => a.2.2) := by
  unfold laneAt
  rw [List.find?_map, Option.map_map]
  rfl

theorem Row.find {act : List (Nat × Nat × Thread)} (h : Row i act) {a : Nat × Nat × Thread} (ha : a ∈ act) : act.find? (fun x => x.1 == a.1) = some a :=
  find?_of_nodup (key := fun x => x.1) h.distinct ha

theorem any_only (act : List (Nat × Nat × Thread)) (p : Nat × Thread → Bool) : (act.map laneOnly).any p = act.any (fun a => p (laneOnly a)) := List.any_map

/-! ### The words -/

theorem getLsbD_wordOfBits (f : Nat → Bool) {k : Nat} (hk : k < 32) : (wordOfBits f).getLsbD k = f k := by
  unfold wordOfBits
  rw [BitVec.getLsbD_setWidth, BitVec.getLsbD_ofBoolListLE, List.getD_eq_getElem?_getD, List.getElem?_map, List.getElem?_range hk]
  simp [hk]

theorem laneMask_from (act : List (Nat × Nat × Thread)) (p : Nat × Nat × Thread → Bool) (m : Word) {k : Nat} (hk : k < 32) :
    (act.foldl (fun m a => if p a then m ||| ((1 : Word) <<< a.1) else m) m).getLsbD k = (m.getLsbD k || act.any (fun a => a.1 == k && p a)) := by
  induction act generalizing m with
  | nil => simp
  | cons a act ih =>
    have hbit : ((1 : Word) <<< a.1).getLsbD k = (a.1 == k) := by
      rw [BitVec.getLsbD_shiftLeft, Bool.eq_iff_iff]
      simp [hk]
      omega
    rw [List.foldl_cons, ih, List.any_cons, ← Bool.or_assoc]
    cases hp : p a
    · simp
    · rw [if_pos rfl, BitVec.getLsbD_or, hbit, Bool.and_true]

/-- A mask of lanes has the bits of the active lanes that meet the test. -/
theorem laneMask_bits (act : List (Nat × Nat × Thread)) (p : Nat × Nat × Thread → Bool) : laneMask act p = wordOfBits (fun k => act.any (fun a => a.1 == k && p a)) := by
  refine BitVec.eq_of_getLsbD_eq fun k hk => ?_
  rw [getLsbD_wordOfBits _ hk]
  exact (laneMask_from act p 0 hk).trans (by simp)

theorem vote_crosses (w : F0) : Crosses (.vote w) (fun _ act _ t => t.setPred (pnum w.d)
    (match lo2 w.x with
    | 0 => act.any (fun a => a.2.pred (pnum w.a))
    | 1 => act.all (fun a => a.2.pred (pnum w.a))
    | _ => act.all (fun a => a.2.pred (pnum w.a)) || act.all (fun a => !a.2.pred (pnum w.a)))) (fun _ _ _ => 0) := by
  refine crosses_of (fun _ => rfl) rfl (fun s iss g act hrow a ha hregion => ?_) fun g act j t => ?_
  · simp only [voteOf, List.any_map, List.all_map]
    rfl
  · unfold Thread.setPred
    split <;> exact ⟨rfl, rfl, rfl, rfl⟩

theorem ballot_crosses (w : F0) : Crosses (.ballot w) (fun _ act _ t => t.setV (vnum w.d) (wordOfBits (fun k => act.any (fun a => a.1 == k && a.2.pred (pnum w.a))))) (fun _ _ _ => 0) := by
  refine crosses_of (fun _ => rfl) rfl (fun s iss g act hrow a ha hregion => ?_) fun g act j t => ⟨rfl, rfl, rfl, rfl⟩
  simp only [write_eq _ _ _ hregion, laneMask_bits, any_only]
  rfl

/-- A lane's source is its register or pair where those are live. -/
theorem laneSrc_live (iss : Issue) (s : State) (g : Group) {wide : Bool} {c : Code} {a : Nat × Nat × Thread} (hl : (if wide then Field.pair else Field.v1).accepts c = true)
    (hr : ∀ r ∈ fieldRegs (if wide then Field.pair else Field.v1) c, r ∉ a.2.2.released) : laneSrc iss s g wide (vnum c) a = laneValue wide (vnum c) a.2.2 := by
  unfold laneSrc laneValue
  cases wide
  · exact congrArg (fun x : Word => x.setWidth 64) (v_field _ hl hr 0 (by decide))
  · exact pair_live _ (by decide) hl hr

theorem matchLanes_crosses (w : F0) : Crosses (.matchLanes w)
    (fun _ act _ t => t.setV (vnum w.d) (wordOfBits (fun k => act.any (fun a => a.1 == k && laneValue w.ty.wide (vnum w.a) a.2 == laneValue w.ty.wide (vnum w.a) t)))) (fun _ _ _ => 0) := by
  refine crosses_of (fun _ => rfl) rfl (fun s iss g act hrow a ha hregion => ?_) fun g act j t => ⟨rfl, rfl, rfl, rfl⟩
  have hsrc : ∀ b ∈ act, laneSrc iss s g w.ty.wide (vnum w.a) b = laneValue w.ty.wide (vnum w.a) b.2.2 := fun b hb =>
    laneSrc_live iss s g (static0 (i := .matchLanes w) rfl hrow.legal).2.2.1 (reads_a (i := .matchLanes w) rfl (hrow.reads b hb))
  simp only [write_eq _ _ _ hregion, laneMask_bits, any_only, hrow.find ha, Option.map_some, Option.getD_some, hsrc a ha]
  have hsame : ∀ k, (act.any fun b => b.1 == k && laneSrc iss s g w.ty.wide (vnum w.a) b == laneValue w.ty.wide (vnum w.a) a.2.2)
      = act.any fun b => b.1 == k && laneValue w.ty.wide (vnum w.a) b.2.2 == laneValue w.ty.wide (vnum w.a) a.2.2 := fun k => by
    rw [Bool.eq_iff_iff, List.any_eq_true, List.any_eq_true]
    exact exists_congr fun b => and_congr_right fun hb => by rw [hsrc b hb]
  simp only [hsame]
  rfl

/-- SHFL: the value of the source lane, or its own where no active lane has that number (08 R183). -/
theorem shfl_crosses (w : F0) : Crosses (.shfl w) (fun _ act j t =>
    let x := laneValue w.ty.wide (vnum w.a) (((shflLane (lo2 w.x) (t.v.get (vnum w.b)).toNat j).bind (laneAt act)).getD t)
    if w.ty.wide then t.setPair (vnum w.d) x else t.setV (vnum w.d) (lowWord x)) (fun _ _ _ => 0) := by
  refine crosses_of (fun _ => rfl) rfl (fun s iss g act hrow a ha hregion => ?_) fun g act j t => ?_
  · obtain ⟨-, -, haccept, hb⟩ := static0 (i := .shfl w) rfl hrow.legal
    have hsrc : ∀ b ∈ act, laneSrc iss s g w.ty.wide (vnum w.a) b = laneValue w.ty.wide (vnum w.a) b.2.2 := fun b hb =>
      laneSrc_live iss s g haccept (reads_a (i := .shfl w) rfl (hrow.reads b hb))
    have hn : (laneEnv iss s g a.2.1).v a.2.2 (vnum w.b) = a.2.2.v.get (vnum w.b) := v_field _ hb (reads_b (i := .shfl w) rfl (hrow.reads a ha)) 0 (by decide)
    have hlane : (shflLane (lo2 w.x) (a.2.2.v.get (vnum w.b)).toNat a.1).bind (laneAt (act.map laneOnly))
        = ((shflLane (lo2 w.x) (a.2.2.v.get (vnum w.b)).toNat a.1).bind (fun k => act.find? (fun b => b.1 == k))).map (fun b => b.2.2) := by
      rw [Option.map_bind]
      exact congrArg _ (funext fun k => laneAt_only act k)
    have hmem : ∀ b, (shflLane (lo2 w.x) (a.2.2.v.get (vnum w.b)).toNat a.1).bind (fun k => act.find? (fun b => b.1 == k)) = some b → b ∈ act := fun b hb =>
      have ⟨k, _, hfind⟩ := Option.bind_eq_some_iff.1 hb
      List.mem_of_find?_eq_some hfind
    simp only [hrow.find ha, Option.map_some, Option.getD_some, hn, hlane, write_eq _ _ _ hregion, writePair_eq _ _ _ hregion]
    generalize (shflLane (lo2 w.x) (a.2.2.v.get (vnum w.b)).toNat a.1).bind (fun k => act.find? (fun b => b.1 == k)) = hit at hmem
    cases hit with
    | none =>
      simp only [hsrc a ha, Option.map_none, Option.getD_none]
      rfl
    | some b =>
      simp only [hsrc b (hmem b rfl), Option.map_some, Option.getD_some]
      rfl
  · dsimp only
    split <;> exact ⟨rfl, rfl, rfl, rfl⟩

/-! ### REDL: the tree (03 R87) -/

/-- The two subtrees of each node of a level. -/
def subtrees {α : Type} (node : Nat → α) (ks : List Nat) : List α := ks.flatMap (fun k => [node (2 * k), node (2 * k + 1)])

theorem subtrees_range {α : Type} (node : Nat → α) (m : Nat) : subtrees node (List.range m) = (List.range (2 * m)).map node := by
  unfold subtrees
  induction m with
  | zero => rfl
  | succ m ih =>
    rw [List.range_succ, List.flatMap_append, ih, show 2 * (m + 1) = 2 * m + 1 + 1 by omega, List.range_succ, List.range_succ]
    simp

/-- One level of the tree: what its nodes pass, and the flags of all it has combined so far. -/
theorem treeLevel_subtrees (f : Word → Word → Word × Flags) (leaf : Nat → Option Word) (n : Nat) (ks : List Nat) (fl : Flags) :
    treeLevel f (subtrees (fun k => (reduceTree f leaf n k).1) ks) (fl ||| orFlags (subtrees (fun k => (reduceTree f leaf n k).2) ks))
      = (ks.map (fun k => (reduceTree f leaf (n + 1) k).1), fl ||| orFlags (ks.map (fun k => (reduceTree f leaf (n + 1) k).2))) := by
  induction ks generalizing fl with
  | nil => rfl
  | cons k ks ih =>
    have hflags (a b c : Flags) (l : List Flags) : fl ||| orFlags (a :: b :: l) ||| c = fl ||| (a ||| b ||| c) ||| orFlags l := by
      rw [orFlags_cons, orFlags_cons]
      ac_rfl
    unfold subtrees at ih ⊢
    rw [List.flatMap_cons, List.flatMap_cons, List.map_cons, List.map_cons, orFlags_cons, ← BitVec.or_assoc]
    simp only [List.cons_append, List.nil_append, treeLevel, hflags, ih, reduceTree]
    rcases (reduceTree f leaf n (2 * k)).1 with _ | p <;> rcases (reduceTree f leaf n (2 * k + 1)).1 with _ | q <;> simp

/-- The tree's levels from the nth on, over 2^m nodes. -/
theorem treeRun_levels (f : Word → Word → Word × Flags) (leaf : Nat → Option Word) (m : Nat) :
    ∀ n, treeRun f m ((List.range (2 ^ m)).map (fun k => (reduceTree f leaf n k).1)) (orFlags ((List.range (2 ^ m)).map (fun k => (reduceTree f leaf n k).2)))
      = ([(reduceTree f leaf (n + m) 0).1], (reduceTree f leaf (n + m) 0).2) := by
  induction m with
  | zero =>
    intro n
    simp [treeRun, orFlags]
  | succ m ih =>
    intro n
    have hlevel := treeLevel_subtrees f leaf n (List.range (2 ^ m)) 0
    rw [subtrees_range, subtrees_range, show ∀ x : Flags, 0 ||| x = x from fun _ => BitVec.zero_or, show ∀ x : Flags, 0 ||| x = x from fun _ => BitVec.zero_or, ← Nat.pow_succ'] at hlevel
    rw [treeRun, hlevel]
    dsimp only
    rw [ih (n + 1), Nat.add_right_comm, Nat.add_assoc]

theorem orFlags_none {α : Type} (l : List α) : orFlags (l.map (fun _ => (0 : Flags))) = 0 := by
  induction l with
  | nil => rfl
  | cons x l ih => 
    rw [List.map_cons, orFlags_cons, ih]
    rfl

/-- The tree over 32 leaves. -/
theorem treeRun_leaves (f : Word → Word → Word × Flags) (leaf : Nat → Option Word) : treeRun f 5 ((List.range 32).map leaf) 0 = ([(reduceTree f leaf 5 0).1], (reduceTree f leaf 5 0).2) := by
  have hrun := treeRun_levels f leaf 5 0
  rw [show (List.range (2 ^ 5)).map (fun k => (reduceTree f leaf 0 k).2) = (List.range (2 ^ 5)).map (fun _ => (0 : Flags)) from rfl, orFlags_none] at hrun
  exact hrun

/-- REDL over the values of a row's lanes, where an absent one counts as 0 in a sum of f32 (08 R184). -/
theorem redl_leaves {op : Nat} {t : Ty} {value leaf : Nat → Option Word} (hleaf : ∀ k, leaf k = if t = .f32 ∧ op = 0 then some ((value k).getD 0) else value k) (m : Mode) :
    redl op t m ((List.range 32).map value) = (((reduceTree (laneOp op t m) leaf 5 0).1).getD 0, (reduceTree (laneOp op t m) leaf 5 0).2) := by
  have hleaves : (if t = .f32 ∧ op = 0 then ((List.range 32).map value).map (fun x => some (x.getD 0)) else (List.range 32).map value) = (List.range 32).map leaf := by
    rw [funext hleaf]
    split
    · rw [List.map_map]
      rfl
    · rfl
  unfold redl
  dsimp only
  rw [hleaves, treeRun_leaves]
  rfl

/-- The values of a row's lanes are those of its active lanes, where their registers are live. -/
theorem laneValues_live {act : List (Nat × Nat × Thread)} {n : Nat} (h : ∀ a ∈ act, n ∉ a.2.2.released) (iss : Issue) (s : State) (g : Group) :
    laneValues iss s g n act = (List.range 32).map (fun k => (laneAt (act.map laneOnly) k).map (fun t => t.v.get n)) := by
  refine List.map_congr_left fun k _ => ?_
  rw [laneAt_only, Option.map_map]
  exact Option.map_congr fun a ha => v_live _ (h a (List.mem_of_find?_eq_some ha))

theorem live_source {w : F0} {sh : Shape} {act : List (Nat × Nat × Thread)} (hrow : Row i act) (hs : shape0 i = some (w, sh)) (ha : sh.a = .v1) : ∀ a ∈ act, vnum w.a ∉ a.2.2.released := by
  intro a hmem
  have haccept := (static0 hs hrow.legal).2.2.1
  have hreads := reads_a hs (hrow.reads a hmem)
  rw [ha] at haccept hreads
  refine hreads _ ?_
  simp [fieldRegs, ofCode_v haccept]

/-- REDL's leaf at a lane: the lane's register, and for an absent lane 0 in a sum of f32 (08 R184). -/
def laneLeaf (w : F0) (act : List (Nat × Thread)) (k : Nat) : Option Word :=
  match laneAt act k with
  | some t => some (t.v.get (vnum w.a))
  | none => if w.ty = .f32 ∧ lo3 w.x = 0 then some 0 else none

theorem redl_crosses (w : F0) : Crosses (.redl w)
    (fun g act _ t => t.setV (vnum w.d) (((reduceTree (laneOp (lo3 w.x) w.ty (laneMode g)) (laneLeaf w act) 5 0).1).getD 0))
    (fun g act _ => (reduceTree (laneOp (lo3 w.x) w.ty (laneMode g)) (laneLeaf w act) 5 0).2) := by
  refine crosses_of (fun _ => rfl) rfl (fun s iss g act hrow a ha hregion => ?_) fun g act j t => ⟨rfl, rfl, rfl, rfl⟩
  have hleaf (k : Nat) : laneLeaf w (act.map laneOnly) k
      = if w.ty = .f32 ∧ lo3 w.x = 0 then some (((laneAt (act.map laneOnly) k).map (fun t => t.v.get (vnum w.a))).getD 0) else (laneAt (act.map laneOnly) k).map (fun t => t.v.get (vnum w.a)) := by
    unfold laneLeaf
    cases laneAt (act.map laneOnly) k <;> simp
  simp only [laneValues_live (live_source hrow rfl rfl) iss s g, redl_leaves hleaf, write_eq _ _ _ hregion]

/-! ### SCANL -/

theorem range_below {α : Type} (h : Nat → Option α) {j : Nat} (hj : j ≤ 32) : (List.range 32).filterMap (fun k => if k < j then h k else none) = (List.range j).filterMap h := by
  obtain ⟨m, hm⟩ := Nat.exists_eq_add_of_le hj
  rw [hm, List.range_add, List.filterMap_append]
  have hlow : (List.range j).filterMap (fun k => if k < j then h k else none) = (List.range j).filterMap h := List.filterMap_congr fun k hk => if_pos (List.mem_range.1 hk)
  have hhigh : ((List.range m).map (fun k => j + k)).filterMap (fun k => if k < j then h k else none) = [] := by
    rw [List.filterMap_eq_nil_iff]
    intro k hk
    obtain ⟨n, -, rfl⟩ := List.mem_map.1 hk
    exact if_neg (by omega)
  rw [hlow, hhigh, List.append_nil]

/-- The values of the active lanes below one, in order. -/
theorem laneValues_below {act : List (Nat × Nat × Thread)} {n j : Nat} (h : ∀ a ∈ act, n ∉ a.2.2.released) (hj : j ≤ 32) (iss : Issue) (s : State) (g : Group) :
    (laneValues iss s g n (act.filter (fun a => decide (a.1 < j)))).filterMap (fun x => x) = (List.range j).filterMap (fun k => (laneAt (act.map laneOnly) k).map (fun t => t.v.get n)) := by
  have hat (k : Nat) : laneAt ((act.filter (fun a => decide (a.1 < j))).map laneOnly) k = if k < j then laneAt (act.map laneOnly) k else none := by
    rw [laneAt_only, laneAt_only, List.find?_filter]
    split
    · next hk =>
      refine congrArg _ (congrArg (fun p => act.find? p) (funext fun a => ?_))
      by_cases ha : a.1 = k <;> simp [ha, hk]
    · next hk =>
      rw [List.find?_eq_none.2, Option.map_none]
      intro a _ ha
      simp at ha
      omega
  rw [laneValues_live (fun a ha => h a (List.mem_filter.1 ha).1), List.filterMap_map, ← range_below _ hj]
  refine List.filterMap_congr fun k _ => ?_
  simp only [Function.comp_apply, hat]
  split <;> rfl

theorem scanl_crosses (w : F0) : Crosses (.scanl w)
    (fun g act j t => t.setV (vnum w.d) (scanl (lo3 w.x) w.ty (laneMode g) (w.x.getLsbD 3)
      ((List.range (if w.x.getLsbD 3 then j else j + 1)).filterMap (fun k => (laneAt act k).map (fun a => a.v.get (vnum w.a))))).1)
    (fun g act j => (scanl (lo3 w.x) w.ty (laneMode g) (w.x.getLsbD 3)
      ((List.range (if w.x.getLsbD 3 then j else j + 1)).filterMap (fun k => (laneAt act k).map (fun a => a.v.get (vnum w.a))))).2) := by
  refine crosses_of (fun _ => rfl) rfl (fun s iss g act hrow a ha hregion => ?_) fun g act j t => ⟨rfl, rfl, rfl, rfl⟩
  have hsmall := hrow.small a ha
  have hlane : (fun b : Nat × Nat × Thread => if w.x.getLsbD 3 then decide (b.1 < a.1) else decide (b.1 ≤ a.1)) = fun b => decide (b.1 < if w.x.getLsbD 3 then a.1 else a.1 + 1) := by
    funext b
    split
    · rfl
    · exact decide_eq_decide.2 Nat.lt_succ_iff.symm
  simp only [hlane, laneValues_below (live_source hrow rfl rfl) (show (if w.x.getLsbD 3 then a.1 else a.1 + 1) ≤ 32 by split <;> omega) iss s g, write_eq _ _ _ hregion]

end row

/-- Settles O7: the law of cross-lane words, and for each word what its function gives over a row of active lanes. -/
theorem crossLaneWords : Obligations.CrossLaneWords :=
  ⟨vote_crosses, ballot_crosses, matchLanes_crosses, shfl_crosses, redl_crosses, scanl_crosses⟩

end Sys2Proof.Proofs

/-! ## What faults and halts leave alone: memory, and the dispatches of the streams (16 R357, R362; 07 R148) -/

namespace Sys2Proof.Proofs

open Sys2Proof.Machine Sys2Proof.Laws

section still

variable {s a b : State}

/-- Memory and the streams of every core are as they were. -/
def Still (s a : State) : Prop := a.hbm = s.hbm ∧ ∀ c, (a.core c).streams = (s.core c).streams

theorem Still.refl (s : State) : Still s s := ⟨rfl, fun _ => rfl⟩

theorem Still.stream (h : Still s a) (c k : Nat) : a.stream c k = s.stream c k := by
  unfold State.stream
  rw [h.2 c]

theorem Still.of_cores (h : Still s a) (hm : b.hbm = a.hbm) (hc : b.cores = a.cores) : Still s b :=
  ⟨hm.trans h.1, fun c => by
    unfold State.core
    rw [hc]
    exact h.2 c⟩

theorem Still.setCore (h : Still s a) {c : Nat} {x : CoreSt} (hx : x.streams = (a.core c).streams) : Still s (a.setCore c x) :=
  ⟨h.1, fun d => by
    rcases eq_or_ne c d with rfl | hne
    · rw [core_setCore_same, hx, h.2]
    · rw [core_setCore_ne _ _ hne, h.2]⟩

theorem Still.modGroup (h : Still s a) (k : Nat) (f : Group → Group) : Still s (a.modGroup k f) := h.of_cores (modGroup_hbm ..) (modGroup_cores ..)

theorem Still.modThreads (h : Still s a) (k : Nat) (ts : List Nat) (f : Thread → Thread) : Still s (a.modThreads k ts f) := foldl_inv (Still s) ts (fun _ _ ha => ha.modGroup ..) h

theorem Still.retable (h : Still s a) (k : Nat) : Still s (a.retable k) := h.modGroup ..

theorem Still.abortRegion (h : Still s a) (k n cause detail code : Nat) : Still s (a.abortRegion k n cause detail code) := by
  unfold State.abortRegion
  split
  · split
    · exact h
    · split
      · exact h
      · exact Still.setCore (a := (a.setThread k n _).unlock k n false) (Still.of_cores (a := a.setThread k n _) (h.modGroup ..) rfl rfl) rfl
  · exact h

theorem Still.pendFault (h : Still s a) (ctx va cause access : Nat) (r : FaultRec) (p : Option FPack) : Still s (a.pendFault ctx va cause access r p) := by
  unfold State.pendFault
  split
  · split <;> exact h
  · exact h

theorem Still.notePoison (h : Still s a) (ctx : Nat) (f : TFault) : Still s (a.notePoison ctx f) := by
  unfold State.notePoison State.poisonAt
  split
  · split
    · split <;> exact h
    · exact h
  · exact h

theorem Still.failHandler (h : Still s a) (k : Nat) (ns : List Nat) : Still s (a.failHandler k ns) := by
  unfold State.failHandler
  split
  · exact h
  · extract_lets restore hs s1
    have h1 : Still s s1 := h.modThreads ..
    clear_value hs
    split
    · exact h1
    · exact h1

theorem Still.takeFault (h : Still s a) (core k : Nat) (lanes : List (Nat × Nat)) (pc : Dword) (fs : List (Nat × TFault)) (f : TFault) (after : Bool) :
    Still s (a.takeFault core k lanes pc fs f after) := by
  unfold State.takeFault
  split
  · exact h
  · extract_lets inRegion inHandler hand rest route regs out halt clock s0 s1 s2 all record at_ tids s3 pack own s4
    have h0 : Still s s0 := foldl_inv (Still s) regs (fun _ _ ha => by split <;> exact ha.abortRegion ..) h
    have h1 : Still s s1 := by
      unfold s1
      split
      · exact h0.modThreads ..
      · exact h0
    have h2 : Still s s2 := by
      unfold s2
      split
      · exact h1
      · exact h1.failHandler ..
    have h3 : Still s s3 := Still.notePoison (a := s2.tellFault core k _ pc f.cause) h2 _ _
    have h4 : Still s s4 := foldl_inv (Still s) out (fun _ _ ha => ha.modGroup ..) h3
    split
    · exact h2
    · split
      · exact (h3.modThreads ..).pendFault ..
      · split
        · exact h4.setCore rfl
        · split
          · exact h3.modThreads ..
          · exact h3.modThreads ..

theorem Still.takeFaults (h : Still s a) (core k : Nat) (pc : Dword) (after : Bool) (fs : List ((Nat × Nat) × TFault)) : Still s (a.takeFaults core k pc after fs) := by
  unfold State.takeFaults
  refine foldl_inv (Still s) _ (fun _ _ ha => ?_) h
  dsimp only
  split
  · exact ha
  · exact ha.takeFault ..

theorem Still.haltAsked (h : Still s a) (k : Nat) : Still s (a.haltAsked k) := by
  unfold State.haltAsked
  split
  · exact h
  · exact foldl_inv (Still s) _ (fun _ _ ha => foldl_inv (Still s) _ (fun _ _ hb => (hb.takeFaults ..).modThreads ..) ha) h

/-- A fetch fault leaves its stream free, and memory as it was (07 R148). -/
theorem fetchFault_frees (s : State) (core stream : Nat) (f : TFault) : ((s.fetchFault core stream f).stream core stream).dispatch = none ∧ (s.fetchFault core stream f).hbm = s.hbm := by
  unfold State.fetchFault
  split
  · next h => exact ⟨h, rfl⟩
  · next d h =>
    dsimp only
    have hstill : Still s (d.packs.foldl (fun a p => a.takeFaults core d.grp d.pc false ((p.filter (fun l => ((a.thread? d.grp l.2).map (fun t => t.isRunning)).getD false)).map (fun l => (l, f)))) s) :=
      foldl_inv (Still s) _ (fun _ _ ha => ha.takeFaults ..) (Still.refl s)
    refine ⟨?_, hstill.1⟩
    rw [stream_setStream_same]
    rw [hstill.2]
    exact stream_lt h

end still

/-! ## Packs of a dispatch (07 R145, R149) -/

section packs

theorem chunks_flatten {α : Type} (ts : List α) (c m : Nat) : (List.range m).flatMap (fun k => (ts.drop (c * k)).take c) = ts.take (c * m) := by
  induction m with
  | zero => simp
  | succ m ih =>
    rw [List.range_succ, List.flatMap_append, ih, Nat.mul_succ, List.take_add]
    simp

/-- Packs of 32 hold their threads in order. -/
theorem packsOf_threads (ts : List Nat) : ((packsOf ts).flatten).map (fun l => l.2) = ts := by
  have hthreads : ((packsOf ts).flatten).map (fun l => l.2) = (List.range ((ts.length + 31) / 32)).flatMap (fun k => (ts.drop (32 * k)).take 32) := by
    unfold packsOf
    rw [← List.flatMap_def, List.map_flatMap]
    refine List.flatMap_congr fun k _ => ?_
    rw [List.map_map]
    exact List.zipIdx_map_fst ..
  rw [hthreads, chunks_flatten]
  exact List.take_of_length_le (by omega)

theorem packsOf_lanes {ts : List Nat} {p : List (Nat × Nat)} (h : p ∈ packsOf ts) : p.length ≤ 32 ∧ p.map (fun l => l.1) = List.range p.length := by
  obtain ⟨k, -, rfl⟩ := List.mem_map.1 h
  refine ⟨by simp, ?_⟩
  rw [List.map_map, List.length_map, List.length_zipIdx, List.range_eq_range']
  exact List.zipIdx_map_snd ..

theorem mem_distinct {α : Type} [DecidableEq α] {x : α} {l : List α} : x ∈ distinct l ↔ x ∈ l := by
  induction l with
  | nil => rfl
  | cons a l ih =>
    simp only [distinct, List.mem_cons, List.mem_filter, ih, decide_eq_true_eq]
    by_cases hx : x = a <;> simp [hx]

/-- The distinct members of a list that never falls rise. -/
theorem distinct_rises {l : List Nat} (h : l.Pairwise (· ≤ ·)) : (distinct l).Pairwise (· < ·) := by
  induction l with
  | nil => exact .nil
  | cons a l ih =>
    obtain ⟨ha, hl⟩ := List.pairwise_cons.1 h
    refine List.pairwise_cons.2 ⟨fun b hb => ?_, (ih hl).filter _⟩
    obtain ⟨hmem, hne⟩ := List.mem_filter.1 hb
    have := ha b (mem_distinct.1 hmem)
    simp only [decide_eq_true_eq] at hne
    omega

/-- Packs of one row each hold their threads in order, where those rise. -/
theorem rowPacks_threads {ts : List Nat} (h : ts.Pairwise (· < ·)) : ((rowPacks ts).flatten).map (fun l => l.2) = ts := by
  have hthreads : ((rowPacks ts).flatten).map (fun l => l.2) = (distinct (ts.map (fun t => t / 32))).flatMap (fun r => ts.filter (fun t => t / 32 == r)) := by
    unfold rowPacks
    rw [← List.flatMap_def, List.map_flatMap]
    refine List.flatMap_congr fun r _ => ?_
    rw [List.map_map]
    exact List.map_id _
  have hrows : (distinct (ts.map (fun t => t / 32))).Pairwise (· < ·) := distinct_rises (List.pairwise_map.2 (h.imp fun hxy => Nat.div_le_div_right hxy.le))
  rw [hthreads]
  refine List.Pairwise.eq_of_mem_iff (r := (· < ·)) ?_ h fun t => ?_
  · refine List.pairwise_flatMap.2 ⟨fun r _ => h.filter _, hrows.imp fun {r q} hrq x hx y hy => ?_⟩
    have hxr : x / 32 = r := by simpa using (List.mem_filter.1 hx).2
    have hyq : y / 32 = q := by simpa using (List.mem_filter.1 hy).2
    omega
  · simp only [List.mem_flatMap, mem_distinct, List.mem_map, List.mem_filter, beq_iff_eq]
    exact ⟨fun ⟨_, _, ht, _⟩ => ht, fun ht => ⟨_, ⟨t, ht, rfl⟩, ht, rfl⟩⟩

theorem rowPacks_lanes {ts : List Nat} (h : ts.Pairwise (· < ·)) {p : List (Nat × Nat)} (hp : p ∈ rowPacks ts) : p.length ≤ 32 ∧ ∀ l ∈ p, l.1 = l.2 % 32 ∧ ∀ m ∈ p, m.2 / 32 = l.2 / 32 := by
  obtain ⟨r, -, rfl⟩ := List.mem_map.1 hp
  have hrow : ∀ t ∈ ts.filter (fun t => t / 32 == r), t / 32 = r := fun t ht => by simpa using (List.mem_filter.1 ht).2
  refine ⟨?_, ?_⟩
  · have hsub : ts.filter (fun t => t / 32 == r) ⊆ List.range' (32 * r) 32 := fun t ht => by
      have := hrow t ht
      rw [List.mem_range'_1]
      omega
    rw [List.length_map]
    exact (List.Nodup.subperm (h.imp Nat.ne_of_lt |>.filter _) hsub).length_le.trans (by simp)
  · rintro l hl
    obtain ⟨t, ht, rfl⟩ := List.mem_map.1 hl
    refine ⟨rfl, fun m hm => ?_⟩
    obtain ⟨u, hu, rfl⟩ := List.mem_map.1 hm
    exact (hrow u hu).trans (hrow t ht).symm

/-- The runnable threads of an entry rise. -/
theorem runnable_rises (s : State) (g : Group) (a : Dword) : (s.runnable g a).Pairwise (· < ·) := by
  have hall : (g.threads.zipIdx.map (fun e => e.2)).Pairwise (· < ·) := by
    rw [List.zipIdx_map_snd]
    exact List.pairwise_lt_range' ..
  have hhere : ((g.threads.zipIdx.filter (fun e => decide (e.1.cond = .waiting ∧ e.1.addr = a))).map (fun e => e.2)).Pairwise (· < ·) := hall.sublist (List.filter_sublist.map _)
  unfold State.runnable
  dsimp only
  split
  · exact hhere.filter _
  · exact hhere

end packs

end Sys2Proof.Proofs

/-! ## Events of the core: loads, queue entries, naps and handler activations (02 R46; 07 R139, R155, R163; 09 R193; 16 R358) -/

namespace Sys2Proof.Proofs

open Sys2Proof.Machine Sys2Proof.Laws

section threads

variable {s : State} {g : Group}

/-- A thread after its group has changed, where that changes each thread by its index. -/
theorem thread?_modGroup_map {f : Group → Group} {h : Nat → Thread → Thread} (hf : ∀ x n, (f x).threads[n]? = (x.threads[n]?).map (h n)) (s : State) (k j n : Nat) :
    (s.modGroup k f).thread? j n = if k = j then (s.thread? j n).map (h n) else s.thread? j n := by
  unfold State.thread?
  rw [group?_modGroup]
  split
  · cases s.group? j with
    | none => rfl
    | some x => exact hf x n
  · rfl

theorem thread?_modGroup_kept {f : Group → Group} (hf : ∀ x, (f x).threads = x.threads) (s : State) (k j n : Nat) : (s.modGroup k f).thread? j n = s.thread? j n := by
  rw [thread?_modGroup_map (h := fun _ t => t) (fun x n => by rw [hf]; exact Option.map_id'.symm)]
  cases s.thread? j n <;> simp

theorem thread?_modThreads {ns : List Nat} (hns : ns.Nodup) (f : Thread → Thread) (k j n : Nat) : ∀ s : State,
    (s.modThreads k ns f).thread? j n = if k = j ∧ n ∈ ns then (s.thread? j n).map f else s.thread? j n := by
  induction ns with
  | nil => intro s; simp [State.modThreads]
  | cons m ns ih =>
    intro s
    obtain ⟨hm, hns'⟩ := List.nodup_cons.1 hns
    have hrest := ih hns' (s.modThread k m f)
    rw [thread?_modThread] at hrest
    refine hrest.trans ?_
    by_cases hmn : m = n
    · subst hmn
      simp [hm]
    · have hnm : n ≠ m := Ne.symm hmn
      simp [hmn, hnm]

theorem thread?_eq (hg : s.group? k = some g) (n : Nat) : s.thread? k n = g.threads[n]? := by
  unfold State.thread?
  rw [hg]
  rfl

end threads

/-! ### Speculative loads -/

section speculative

theorem lookKey_slice (m : Mem) (a n i : Nat) (h : i < n) : lookKey i (m.slice a n) = lookKey (a + i) m := by
  unfold lookKey Mem.slice
  rw [List.find?_map, List.find?_filter, Option.map_map]
  refine congrArg _ (congrArg (fun p => List.find? p m) (funext fun e => ?_))
  rw [Bool.eq_iff_iff]
  simp
  omega

/-- A byte of a part of a memory. -/
theorem slice_get (m : Mem) (a n i : Nat) (h : i < n) : (m.slice a n).get i = m.get (a + i) := congrArg (fun x => x.getD Config.blankByte) (lookKey_slice m a n i h)

/-- An early load fills an L1 line where there is none, and nothing else (07 R155). -/
theorem speculativeLoad_fills {s : State} {core grp a pa : Nat} {va : Dword} {g : Group} (hg : s.group? grp = some g) (hres : g.resident = true) (hcore : g.core = core) (hva : va.toNat < 2 ^ 57)
    (hspec : s.speculates g va = true) (hroute : s.route g.ctx va.toNat .load = .ok (.mem a pa)) (hclean : s.poisoned pa = false) :
    exec (.speculativeLoad core grp va) s = .next (if ((s.core core).l1Find g.ctx (a / 128)).isSome then s else s.l1Install core g.ctx a pa) := by
  have hbits : bits va 63 57 = 0 := by
    unfold bits
    rw [Nat.shiftRight_eq_div_pow, Nat.div_eq_of_lt hva]
    rfl
  show execSpeculativeLoad core grp va s = _
  unfold execSpeculativeLoad
  simp [hg, hres, hcore, hspec, hroute, hclean, hbits]

end speculative

/-! ### A held write that lands -/

section landing

variable {s : State} {g : Group} {t : Thread} {h : HeldWrite}

theorem writeEach_plain (l : List (Nat × Word)) : ∀ t : Thread, t.region = none → t.writeEach l = l.foldl (fun a e => a.setV e.1 e.2) t := by
  induction l with
  | nil => exact fun _ _ => rfl
  | cons e l ih =>
    intro t ht
    show (t.write e.1 e.2).writeEach l = _
    rw [write_eq _ _ _ ht]
    exact ih _ ht

/-- The registers a held write sets, in order (02 R46, 10 R231). -/
def landsIn (h : HeldWrite) : List (Nat × Word) := h.more ++ (List.range h.count).map (fun k => (h.reg + k, h.value.extractLsb' (32 * k) 32))

/-- What a held write makes of the registers of a thread outside a region. -/
def landed (t : Thread) (h : HeldWrite) : Thread := (landsIn h).foldl (fun a e => a.setV e.1 e.2) t

theorem landed_eq (t : Thread) (h : HeldWrite) : landed t h = (h.more.foldl (fun a e => a.setV e.1 e.2) t).setMany h.reg h.count h.value := by
  unfold landed landsIn Thread.setMany
  rw [List.foldl_append, List.foldl_map]

theorem foldl_setV_fields (l : List (Nat × Word)) : ∀ t : Thread, (l.foldl (fun a e => a.setV e.1 e.2) t).raised = t.raised ∧ (l.foldl (fun a e => a.setV e.1 e.2) t).region = t.region := by
  induction l with
  | nil => exact fun _ => ⟨rfl, rfl⟩
  | cons e l ih => exact fun t => ih (t.setV e.1 e.2)

theorem landed_held (h : HeldWrite) (xs : List HeldWrite) : ∀ t : Thread, landed { t with held := xs } h = { landed t h with held := xs } := by
  unfold landed
  induction landsIn h with
  | nil => exact fun _ => rfl
  | cons e l ih => exact fun t => ih (t.setV e.1 e.2)

theorem landOne_landed (hregion : t.region = none) (htag : h.tag = none) (hcount : h.count ≤ 4) : t.landOne h = landed t h := by
  unfold Thread.landOne
  rw [htag, landed_eq]
  simp only [beginWrite_none t hregion h, Bool.false_eq_true, if_false]
  rw [writeEach_plain _ _ hregion, writeMany_eq _ _ _ _ ((foldl_setV_fields h.more t).2.trans hregion) hcount]

/-- A thread's one held write, ready: it lands once its window has closed. -/
theorem land_lone (hheld : t.held = [h]) (hready : h.ready = true) (hregion : t.region = none) (htag : h.tag = none) (hcount : h.count ≤ 4) :
    t.land = if h.left = 0 then { flagged (landed t h) h.flags h.at_ with held := [] } else t := by
  unfold Thread.land
  rw [hheld]
  by_cases hleft : h.left = 0
  · have hlist : landList [h] t = (flagged (landed t h) h.flags h.at_, []) := by
      simp only [landList, hleft, Nat.lt_irrefl, hready, if_true, if_false, landOne_landed hregion htag hcount]
      rfl
    rw [hlist, if_pos hleft]
  · have hlist : landList [h] t = (t, [h]) := by simp only [landList, gt_iff_lt, Nat.pos_of_ne_zero hleft, if_true]
    rw [hlist, if_neg hleft, ← hheld]

theorem landed_raised (t : Thread) (h : HeldWrite) : (landed t h).raised = t.raised := (foldl_setV_fields ..).1

theorem flagged_bare (t : Thread) (fl : Flags) (pc : Dword) : { flagged t fl pc with held := [], raised := [] } = { t with held := [], raised := [] } := by
  unfold flagged
  split <;> rfl

theorem gatherFlags_thread (hg : s.group? k = some g) (n stream : Nat) :
    (s.gatherFlags k [n] stream).thread? k n = (g.threads[n]?).map (fun t => { t with raised := [] }) ∧ ((s.gatherFlags k [n] stream).group? k).map (fun x => x.fpflags) = some (g.fpflags ||| ((g.threads[n]?).map raisedBy).getD 0) := by
  obtain ⟨ths, pd, fs, hgather, -, hths⟩ := gathers_fields (s.clock g.core) stream [n] (List.nodup_singleton n) g
  have hgroup : (s.gatherFlags k [n] stream).group? k = some ([n].foldl (fun a t => a.gather (s.clock g.core) t stream) g) := group?_modGroup_same hg
  refine ⟨?_, ?_⟩
  · rw [thread?_eq hgroup, hgather]
    exact (hths n).trans (if_pos (by simp))
  · rw [hgroup, hgather]
    simp [orFlags]

/-- The completion of a thread's one held write: its value is there, and its flags are passed on once it lands (02 R46, 03 R82). -/
theorem longLatencyComplete_lone {grp tid : Nat} (hg : s.group? grp = some g) (ht : g.threads[tid]? = some t) (hheld : t.held = [h]) (hregion : t.region = none) (hraised : t.raised = []) (htag : h.tag = none) (hcount : h.count ≤ 4) :
    ∃ s' : State, exec (.longLatencyComplete grp tid 0) s = .next s' ∧ s'.hbm = s.hbm
      ∧ s'.thread? grp tid = some (if h.left = 0 then { landed t h with held := [] } else { t with held := [{ h with ready := true }] })
      ∧ (s'.group? grp).map (fun x => x.fpflags) = some (g.fpflags ||| if h.left = 0 then h.flags else 0) := by
  let arrive (t : Thread) : Thread := { t with held := modifyAt t.held 0 (fun h => { h with ready := true }) }.land
  have hgroup : (s.modThread grp tid arrive).group? grp = some { g with threads := modifyAt g.threads tid arrive } := group?_modGroup_same hg
  have hthread : (modifyAt g.threads tid arrive)[tid]? = some (arrive t) := by rw [getElem?_modifyAt, if_pos rfl, ht]; rfl
  have harrive : arrive t = if h.left = 0 then { flagged (landed { t with held := [{ h with ready := true }] } h) h.flags h.at_ with held := [] } else { t with held := [{ h with ready := true }] } := by
    dsimp only [arrive]
    rw [hheld]
    exact land_lone (t := { t with held := [{ h with ready := true }] }) (h := { h with ready := true }) rfl rfl hregion htag hcount
  obtain ⟨hgathered, hflags⟩ := gatherFlags_thread hgroup tid (s.streamOf grp tid)
  rw [show ({ g with threads := modifyAt g.threads tid arrive } : Group).threads[tid]? = some (arrive t) from hthread, harrive, Option.map_some] at hgathered hflags
  refine ⟨_, rfl, by simp [State.gatherFlags], hgathered.trans (congrArg some ?_), hflags.trans (congrArg some ?_)⟩
  · split
    · have hnone : (landed t h).raised = [] := (landed_raised t h).trans hraised
      rw [landed_held, flagged_bare]
      dsimp only
      rw [← hnone]
    · rw [← hraised]
  · split
    · have hnone : (landed { t with held := [{ h with ready := true }] } h).raised = [] := (landed_raised ..).trans hraised
      exact congrArg _ ((raisedBy_of _ _ rfl).trans (raisedBy_flagged _ _ _ hnone))
    · exact congrArg _ (by simp [raisedBy, hraised])

end landing

/-! ### Queue entries and naps -/

section waits

variable {s : State} {g : Group} {t : Thread} {grp tid : Nat}

theorem queuesFed_iff (old new : Thread) (qs : List Nat) : Thread.queuesFed old new qs = true ↔ (∀ n ∈ qs, 0 < poppable (new.queue n)) ∧ ∃ n ∈ qs, poppable (old.queue n) < poppable (new.queue n) := by
  unfold Thread.queuesFed
  simp only [Bool.and_eq_true, List.all_eq_true, List.any_eq_true, decide_eq_true_eq]

theorem thread?_modThread_same (hg : s.group? grp = some g) (ht : g.threads[tid]? = some t) (f : Thread → Thread) : (s.modThread grp tid f).thread? grp tid = some (f t) := by
  rw [thread?_modThread, if_pos ⟨rfl, rfl⟩, thread?_eq hg, ht, Option.map_some]

/-- The data of a queue entry arrives, and its thread goes on where an entry has come to each queue it waits for (09 R193, 07 R139). -/
theorem ldqDataArrive_wakes (hg : s.group? grp = some g) (ht : g.threads[tid]? = some t) (q idx : Nat) :
    let u : Thread := { t with q := modifyAt t.q q (fun l => modifyAt l idx (fun e => { e with arrived := true })) }
    ∃ s' : State, exec (.ldqDataArrive grp tid q idx) s = .next s'
      ∧ s'.thread? grp tid = some (if t.cond = .blocked .queue ∧ q ∈ t.queues ∧ (∀ n ∈ t.queues, 0 < poppable (u.queue n)) ∧ (∃ n ∈ t.queues, poppable (t.queue n) < poppable (u.queue n)) then u.waitAt t.addr (s.clock g.core) else u)
      ∧ s'.hbm = s.hbm := by
  intro u
  refine ⟨_, rfl, ?_, ?_⟩
  · simp only [hg, thread?_modThread_same hg ht, queuesFed_iff]
    rfl
  · simp only [hg, modThread_hbm]

/-- A thread whose nap has passed waits, runnable (07 R163). -/
theorem napExpire_wakes (hg : s.group? grp = some g) (hres : g.resident = true) (ht : g.threads[tid]? = some t) :
    ∃ s' : State, exec (.napExpire grp tid) s = .next s'
      ∧ s'.thread? grp tid = some (if t.cond = .blocked .nap ∧ t.since + t.napLeft ≤ s.clock g.core then t.waitAt t.addr (s.clock g.core) else t) ∧ s'.hbm = s.hbm := by
  have hx : exec (.napExpire grp tid) s = .next (s.modThread grp tid (fun t => if t.cond = .blocked .nap ∧ t.since + t.napLeft ≤ s.clock g.core then t.waitAt t.addr (s.clock g.core) else t)) := by
    show execNapExpire grp tid s = _
    unfold execNapExpire
    simp only [hg, hres, Bool.not_true, Bool.false_eq_true, if_false]
  exact ⟨_, hx, thread?_modThread_same hg ht _, modThread_hbm ..⟩

end waits

/-! ### Handler activations -/

section activation

variable {s : State} {g : Group} {core stream : Nat}

/-- An activation's group or a thread of it is halted (06 R136, 16 R362). -/
def stopped (s : State) (a : Activation) : Prop := ∃ y, s.group? a.grp = some y ∧ (s.gangHalted y = true ∨ ∃ l ∈ a.lanes, ∃ t, y.threads[l.2]? = some t ∧ t.haltReq = some 4)

theorem stopped_iff {a : Activation} : stopped s a ↔ s.activates a = false := by
  unfold stopped State.activates
  cases s.group? a.grp with
  | none => simp
  | some y =>
    simp only [Bool.and_eq_false_iff, Bool.not_eq_false', List.all_eq_false, Option.some.injEq, exists_eq_left']
    refine or_congr_right (exists_congr fun l => and_congr_right fun _ => ?_)
    cases y.threads[l.2]? <;> simp

/-- A pending thread enters the handler (16 R358). -/
def enters (eh : Dword) (t : Thread) : Thread :=
  { t with cond := .running, addr := eh, held := [], handler := t.handler.map (fun h => { h with active := true, savedP := t.p, savedHeld := t.held }) }

/-- The dispatch of an activation. -/
def activationDispatch (s : State) (a : Activation) (eh : Dword) : Dispatch :=
  { uid := s.nextUid, grp := a.grp, entry := eh, pc := eh, packs := [a.lanes], todo := [0], index := 0, rowblk := false, handler := true, acted := [], stuck := false, fpe := none }

/-- The state once an activation has started. -/
def activated (s : State) (core stream : Nat) (a : Activation) (rest : List Activation) (eh : Dword) : State :=
  let s1 := ((s.setCore core { s.core core with activations := rest }).modThreads a.grp (a.lanes.map (fun l => l.2)) (enters eh)).modGroup a.grp (fun y => y.retable)
  { s1.setStream core stream { s.stream core stream with dispatch := some (activationDispatch s a eh) } with nextUid := s1.nextUid + 1 }

theorem handlerActivation_starts {a : Activation} {behind rest : List Activation} (hlt : stream < 2) (hfree : (s.stream core stream).dispatch = none) (hfirst : stream = 1 → (s.stream core 0).dispatch ≠ none)
    (hacts : (s.core core).activations = behind ++ a :: rest) (hbehind : ∀ x ∈ behind, stopped s x) (hgo : ¬stopped s a) (hg : s.group? a.grp = some g) (hne : a.lanes ≠ [])
    (hpending : ∀ l ∈ a.lanes, ∃ t h, g.threads[l.2]? = some t ∧ t.cond = .blocked .handler ∧ t.handler = some h ∧ h.active = false) :
    exec (.handlerActivation core stream) s = .next (activated s core stream a (behind ++ rest) (s.ctx g.ctx).ehAddr) := by
  have hactivates : s.activates a = true := by simpa [stopped_iff] using hgo
  have hfind : (behind ++ a :: rest).find? s.activates = some a := by
    rw [List.find?_append, List.find?_eq_none.2 fun x hx => by simp [stopped_iff.1 (hbehind x hx)], List.find?_cons_of_pos hactivates]
    rfl
  have hnot : a ∉ behind := fun h => hgo (hbehind a h)
  have herase : (behind ++ a :: rest).erase a = behind ++ rest := by rw [List.erase_append_right _ hnot, List.erase_cons_head]
  have hturn : (stream != 0 && (s.stream core 0).dispatch.isNone) = false := by
    rcases Nat.lt_succ_iff.1 hlt |>.eq_or_lt with rfl | h0
    · simpa [Option.isSome_iff_ne_none] using hfirst rfl
    · simp [Nat.lt_one_iff.1 h0]
  have hlanes : a.lanes.filter (fun l => ((g.threads[l.2]?).map (fun x => decide (x.cond = .blocked .handler) && (x.handler.map (fun h => !h.active)).getD false)).getD false) = a.lanes :=
    List.filter_eq_self.2 fun l hl => by
      obtain ⟨t, h, ht, hcond, hh, hidle⟩ := hpending l hl
      simp [ht, hcond, hh, hidle]
  have hgroup : (s.setCore core { s.core core with activations := behind ++ rest }).group? a.grp = some g := hg
  show execHandlerActivation core stream s = _
  unfold execHandlerActivation
  simp only [hfree, hacts, hfind, herase, hturn, hgroup, hlanes, Nat.not_le.2 hlt, List.isEmpty_iff, hne, Bool.false_eq_true, if_false]
  rfl

end activation

end Sys2Proof.Proofs

/-! ## DISPATCH and handler activations: what they leave (07 R143, R145, R149; 16 R358) -/

namespace Sys2Proof.Proofs

open Sys2Proof.Machine Sys2Proof.Laws

theorem modThreads_cores (s : State) (k : Nat) (ns : List Nat) (f : Thread → Thread) : (s.modThreads k ns f).cores = s.cores :=
  foldl_inv (fun a : State => a.cores = s.cores) ns (fun _ _ ha => (modGroup_cores ..).trans ha) rfl

section activation

variable {s : State} {core stream : Nat} {a : Activation} {rest : List Activation} {eh : Dword}

/-- The state before the activation's dispatch is put on its stream. -/
def entered (s : State) (core : Nat) (a : Activation) (rest : List Activation) (eh : Dword) : State :=
  ((s.setCore core { s.core core with activations := rest }).modThreads a.grp (a.lanes.map (fun l => l.2)) (enters eh)).modGroup a.grp (fun y => y.retable)

theorem entered_still : Still s (entered s core a rest eh) := 
  (((Still.refl s).setCore (c := core) (x := { s.core core with activations := rest }) rfl).modThreads ..).modGroup ..

theorem entered_core : (entered s core a rest eh).core core = { s.core core with activations := rest } := by
  unfold entered State.core
  rw [modGroup_cores, modThreads_cores]
  exact core_setCore_same ..

theorem activated_stream (hlt : stream < 2) (hlen : (s.core core).streams.length = 2) : ((activated s core stream a rest eh).stream core stream).dispatch = some (activationDispatch s a eh) := by
  show (((entered s core a rest eh).setStream core stream _).stream core stream).dispatch = _
  rw [stream_setStream_same]
  rw [entered_still.2, hlen]
  exact hlt

theorem activated_activations : ((activated s core stream a rest eh).core core).activations = rest := by
  show (((entered s core a rest eh).setStream core stream _).core core).activations = _
  unfold State.setStream
  rw [core_setCore_same]
  exact congrArg CoreSt.activations entered_core

theorem activated_thread? (hns : (a.lanes.map (fun l => l.2)).Nodup) (n : Nat) :
    (activated s core stream a rest eh).thread? a.grp n = if n ∈ a.lanes.map (fun l => l.2) then (s.thread? a.grp n).map (enters eh) else s.thread? a.grp n := by
  show (entered s core a rest eh).thread? a.grp n = _
  unfold entered
  rw [thread?_modGroup_kept (f := fun y => y.retable) (fun _ => rfl), thread?_modThreads hns]
  simp only [true_and]
  rfl

end activation

/-! ### DISPATCH -/

section dispatch

variable {s s0 : State} {core stream : Nat} {e : Entry} {g : Group}

/-- The state in which a stream chooses: the threads of the core's groups have been considered, and those asked to halt have. -/
def selecting (s : State) (core : Nat) : State :=
  (s.residents core).foldl (fun (a : State) x => ((a.modGroup x.1 (fun y => { y with threads := y.threads.map (fun t => t.considered (s.clock core)) })).haltAsked x.1).retable x.1) s

theorem selecting_still (s : State) (core : Nat) : Still s (selecting s core) := foldl_inv (Still s) _ (fun _ _ ha => ((ha.modGroup ..).haltAsked ..).retable ..) (Still.refl s)

/-- The packs of a dispatch. -/
def packsFor (s0 : State) (g : Group) (a : Dword) : List (List (Nat × Nat)) := if (s0.rowblkAt g.ctx a).isSome then rowPacks (s0.runnable g a) else packsOf (s0.runnable g a)

/-- The dispatch of a chosen entry. -/
def chosenDispatch (s0 : State) (e : Entry) (g : Group) (word : Option Dword) : Dispatch :=
  { uid := s0.nextUid, grp := e.grp, entry := e.addr, pc := e.addr, packs := packsFor s0 g e.addr, todo := List.range (packsFor s0 g e.addr).length, index := 0, rowblk := (s0.rowblkAt g.ctx e.addr).isSome,
    handler := false, acted := [], stuck := false, fpe := none, word := word, list := e.list }

/-- The threads of a snapshot run. -/
def snapshot (ts : List Nat) (y : Group) : Group := { y with threads := y.threads.zipIdx.map (fun (x : Thread × Nat) => if ts.contains x.2 then { x.1 with cond := .running } else x.1) }

/-- The groups once an entry has been chosen: no entry of the core is yielded, and the snapshot's threads run. -/
def snapped (s0 : State) (core : Nat) (e : Entry) (g : Group) : State :=
  ((s0.residents core).foldl (fun a x => a.modGroup x.1 (fun y => { y with yielded := [] })) s0).modGroup e.grp (fun y => (snapshot (s0.runnable g e.addr) y).retable)

/-- The state with the dispatch on its stream. -/
def chosen (s0 : State) (core stream : Nat) (e : Entry) (g : Group) (word : Option Dword) : State :=
  { (snapped s0 core e g).setStream core stream { s0.stream core stream with dispatch := some (chosenDispatch s0 e g word) } with nextUid := (snapped s0 core e g).nextUid + 1 }

theorem snapped_still : Still s0 (snapped s0 core e g) := (foldl_inv (Still s0) _ (fun _ _ ha => ha.modGroup ..) (Still.refl s0)).modGroup ..

theorem chosen_stream (hlt : stream < 2) (hlen : (s0.core core).streams.length = 2) (word : Option Dword) : ((chosen s0 core stream e g word).stream core stream).dispatch = some (chosenDispatch s0 e g word) := by
  show (((snapped s0 core e g).setStream core stream _).stream core stream).dispatch = _
  rw [stream_setStream_same]
  rw [snapped_still.2, hlen]
  exact hlt

theorem chosen_hbm (word : Option Dword) : (chosen s0 core stream e g word).hbm = s0.hbm := snapped_still.1

theorem chosen_thread? (word : Option Dword) (k n : Nat) :
    (chosen s0 core stream e g word).thread? k n = if e.grp = k then (s0.thread? k n).map (fun t => if n ∈ s0.runnable g e.addr then { t with cond := .running } else t) else s0.thread? k n := by
  have hyield : ((s0.residents core).foldl (fun a x => a.modGroup x.1 (fun y => { y with yielded := [] })) s0).thread? k n = s0.thread? k n :=
    foldl_inv (fun a : State => a.thread? k n = s0.thread? k n) _ (fun _ _ ha => (thread?_modGroup_kept (f := fun y => { y with yielded := [] }) (fun _ => rfl) ..).trans ha) rfl
  show (snapped s0 core e g).thread? k n = _
  unfold snapped
  rw [thread?_modGroup_map (h := fun n t => if n ∈ s0.runnable g e.addr then { t with cond := .running } else t), hyield]
  intro y m
  show (snapshot (s0.runnable g e.addr) y).threads[m]? = _
  unfold snapshot
  simp only [List.getElem?_map, List.getElem?_zipIdx, Option.map_map, List.contains_eq_mem, decide_eq_true_eq, Nat.zero_add]
  rfl

/-- The word of a dispatch leaves the host's filter, and nothing else changes (15 R342). -/
theorem fetchTouch_filter (s : State) (ctx : Nat) (pc : Dword) : ∃ F, s.fetchTouch ctx pc = { s with hostFilter := F } := by
  unfold State.fetchTouch
  split
  · exact ⟨_, rfl⟩
  · exact ⟨_, rfl⟩

/-- Nothing stands before the choice: no activation can be taken, and the other stream has none to make first. -/
structure Chooses (s0 : State) (core stream : Nat) (e : Entry) (g : Group) : Prop where
  two : stream < 2
  free : (s0.stream core stream).dispatch = none
  halted : ∀ a ∈ (s0.core core).activations, stopped s0 a
  first : stream = 1 → (s0.stream core 0).dispatch = none → s0.choose core 0 = none
  choice : s0.choose core stream = some e
  group : s0.group? e.grp = some g

theorem Chooses.ready (h : Chooses s0 core stream e g) : ¬(2 ≤ stream ∨ (s0.stream core stream).dispatch.isSome = true ∨ (s0.core core).activations.any s0.activates = true ∨ s0.chooseLater core stream = true) := by
  rintro (htwo | hbusy | hact | hlater)
  · exact absurd h.two (Nat.not_lt.2 htwo)
  · rw [h.free] at hbusy
    cases hbusy
  · obtain ⟨a, ha, hgo⟩ := List.any_eq_true.1 hact
    rw [stopped_iff.1 (h.halted a ha)] at hgo
    cases hgo
  · unfold State.chooseLater at hlater
    simp only [Bool.and_eq_true, bne_iff_ne, ne_eq, Option.isNone_iff_eq_none] at hlater
    obtain ⟨⟨hne, hfree⟩, hsome⟩ := hlater
    have htwo := h.two
    rw [h.first (by omega) hfree] at hsome
    cases hsome

theorem dispatch_fetched (h : Chooses (selecting s core) core stream e g) {w : Dword} (hw : (selecting s core).fetch g.ctx e.addr = .ok w) :
    exec (.dispatch core stream) s = .next ((chosen (selecting s core) core stream e g (some w)).fetchTouch g.ctx e.addr) := by
  have hready := h.ready
  have hchoice := h.choice
  have hgroup := h.group
  show execDispatch core stream s = _
  unfold execDispatch
  rw [show (s.residents core).foldl _ s = selecting s core from rfl]
  generalize selecting s core = s0 at *
  simp only [if_neg hready, hchoice, hgroup, hw]
  rfl

theorem dispatch_faults (h : Chooses (selecting s core) core stream e g) {f : TFault} (hf : (selecting s core).fetch g.ctx e.addr = .error f) :
    exec (.dispatch core stream) s = .next ((chosen (selecting s core) core stream e g none).fetchFault core stream f) := by
  have hready := h.ready
  have hchoice := h.choice
  have hgroup := h.group
  show execDispatch core stream s = _
  unfold execDispatch
  rw [show (s.residents core).foldl _ s = selecting s core from rfl]
  generalize selecting s core = s0 at *
  simp only [if_neg hready, hchoice, hgroup, hf]
  rfl

theorem packsFor_threads (s0 : State) (g : Group) (a : Dword) : ((packsFor s0 g a).flatten).map (fun l => l.2) = s0.runnable g a := by
  unfold packsFor
  split
  · exact rowPacks_threads (runnable_rises s0 g a)
  · exact packsOf_threads _

theorem packsFor_lanes (s0 : State) (g : Group) (a : Dword) : ∀ p ∈ packsFor s0 g a, p.length ≤ 32
    ∧ ((s0.rowblkAt g.ctx a).isSome = true → ∀ l ∈ p, l.1 = l.2 % 32 ∧ ∀ m ∈ p, m.2 / 32 = l.2 / 32)
    ∧ ((s0.rowblkAt g.ctx a).isSome = false → p.map (fun l => l.1) = List.range p.length) := by
  intro p hp
  unfold packsFor at hp
  cases hrow : (s0.rowblkAt g.ctx a).isSome
  · rw [hrow] at hp
    obtain ⟨hlen, hlanes⟩ := packsOf_lanes hp
    exact ⟨hlen, by simp, fun _ => hlanes⟩
  · rw [hrow] at hp
    obtain ⟨hlen, hlanes⟩ := rowPacks_lanes (runnable_rises s0 g a) hp
    exact ⟨hlen, fun _ => hlanes, by simp⟩

/-- A dispatch whose first word is fetched: its snapshot runs, in the packs of its entry (07 R143, R145, R149). -/
theorem dispatch_runs (h : Chooses (selecting s core) core stream e g) (hlen : (s.core core).streams.length = 2) {w : Dword} (hw : (selecting s core).fetch g.ctx e.addr = .ok w) :
    ∃ s' : State, exec (.dispatch core stream) s = .next s' ∧ (s'.stream core stream).dispatch = some (chosenDispatch (selecting s core) e g (some w))
      ∧ (∀ n t, g.threads[n]? = some t → s'.thread? e.grp n = some (if n ∈ (selecting s core).runnable g e.addr then { t with cond := .running } else t))
      ∧ (∀ k n, k ≠ e.grp → s'.thread? k n = (selecting s core).thread? k n) ∧ s'.hbm = (selecting s core).hbm := by
  obtain ⟨F, hF⟩ := fetchTouch_filter (chosen (selecting s core) core stream e g (some w)) g.ctx e.addr
  have hexec := dispatch_fetched h hw
  rw [hF] at hexec
  have hthread := chosen_thread? (s0 := selecting s core) (core := core) (stream := stream) (e := e) (g := g) (some w)
  refine ⟨_, hexec, ?_, fun n t ht => (hthread e.grp n).trans ?_, fun k n hk => (hthread k n).trans (if_neg hk.symm), chosen_hbm (stream := stream) (some w)⟩
  · exact chosen_stream h.two (by rw [(selecting_still s core).2, hlen]) (some w)
  · rw [if_pos rfl, thread?_eq h.group, ht]
    rfl

end dispatch

/-- Settles O43: what each event makes of the state it is an event of, one law for each. -/
theorem coreEvents : Obligations.CoreEvents := by
  unfold Obligations.CoreEvents
  intro halted
  refine ⟨?dispatch, ?activation, ?speculative, ?completes, ?arrives, ?nap⟩
  case dispatch =>
    intro s core stream e g s0 hlt hlen hfree hstop hfirst hchoice hgroup ts
    have hc : Chooses (selecting s core) core stream e g := ⟨hlt, hfree, hstop, hfirst, hchoice, hgroup⟩
    refine ⟨fun f hf => ?_, fun w hw => ?_⟩
    · obtain ⟨hnone, hhbm⟩ := fetchFault_frees (chosen (selecting s core) core stream e g none) core stream f
      exact ⟨_, dispatch_faults hc hf, hnone, hhbm.trans (chosen_hbm none)⟩
    · obtain ⟨s', hexec, hstream, hthreads, hothers, hhbm⟩ := dispatch_runs hc hlen hw
      exact ⟨s', _, hexec, hstream, rfl, rfl, rfl, rfl, rfl, rfl, rfl, packsFor_threads .., packsFor_lanes _ _ _, hthreads, hothers, hhbm⟩
  case activation =>
    intro s core stream a behind rest g hlt hlen hfree hfirst hacts hbehind hgo hg hns hne hpending eh
    have hthread := activated_thread? (s := s) (core := core) (stream := stream) (rest := behind ++ rest) (eh := eh) hns
    refine ⟨_, activationDispatch s a eh, handlerActivation_starts hlt hfree hfirst hacts hbehind hgo hg hne hpending, activated_stream hlt hlen, rfl, rfl, rfl, rfl, rfl, activated_activations,
      fun n t h ht hh hn => (hthread n).trans ?_, fun n hn => (hthread n).trans (if_neg hn), (entered_still (core := core) (a := a) (rest := behind ++ rest) (eh := eh)).1⟩
    rw [if_pos hn, thread?_eq hg, ht, Option.map_some, enters, hh]
    rfl
  case speculative =>
    intro s core grp va g a pa hg hres hcore hva hspec hroute hclean c
    have hexec := speculativeLoad_fills hg hres hcore hva hspec hroute hclean
    refine ⟨fun ⟨x, hx⟩ => ?_, fun hnone => ?_⟩
    · rw [hexec, hx]
      rfl
    · refine ⟨{ ctx := g.ctx, line := a / 128, bytes := (s.seen core).slice (pa / 128 * 128) 128 }, rfl, rfl, fun i hi => slice_get _ _ _ i hi, ?_⟩
      have hfilter : s.hostFilter.filter (fun n => n != pa / 128) = s.hostFilter.filter (fun n => n ≠ pa / 128) := List.filter_congr fun n _ => by rw [Bool.eq_iff_iff]; simp
      rw [hexec, hnone, ← hfilter]
      rfl
  case completes =>
    intro s grp tid g t h hg ht hheld hregion hraised htag hcount
    obtain ⟨s', hexec, hhbm, hthread, hflags⟩ := longLatencyComplete_lone hg ht hheld hregion hraised htag hcount
    refine ⟨fun hleft => ⟨s', hexec, ?_⟩, fun hleft => ⟨s', hexec, ?_, ?_, hhbm⟩⟩
    · rw [hthread, if_neg (Nat.pos_iff_ne_zero.1 hleft)]
    · rw [hthread, if_pos hleft, landed_eq]
    · rw [hflags, if_pos hleft]
  case arrives => exact fun s grp tid q idx g t hg ht => ldqDataArrive_wakes hg ht q idx
  case nap => exact fun s grp tid g t hg hres ht => napExpire_wakes hg hres ht

end Sys2Proof.Proofs

/-! ## Words that compute from their own thread (08 R166 to R173): symbols, types and register writes -/

namespace Sys2Proof.Proofs

open Sys2Proof.Machine Sys2Proof.Laws

/-! ### Outside a region there are no symbols (10 R226) -/

section untagged

variable {t : Thread} (h : t.region = none)
include h

theorem tag_untracked (n : Nat) : t.tag n = none := by
  unfold Thread.tag
  rw [h]
  rfl

theorem concretiseRegs_untracked (ns : List Nat) : t.concretiseRegs ns = t := by
  unfold Thread.concretiseRegs
  induction ns with
  | nil => rfl
  | cons n ns ih =>
    rw [List.foldl_cons, tag_untracked h]
    exact ih

end untagged

/-! ### 32-bit and 64-bit forms of one word (08 R166) -/

theorem srcBy_narrow {ty : Ty} (h : ty.wide = false) : srcBy ty = .vecQ := by
  unfold srcBy
  rw [h]
  rfl

theorem srcBy_wide {ty : Ty} (h : ty.wide = true) : srcBy ty = .pair := by
  unfold srcBy
  rw [h]
  rfl

/-- The choice between the forms, at a type of 32 bits and at one of 64 bits. -/
theorem next_narrow {ty : Ty} (h : ty.wide = false) (a b : State) : (.next (if ty.wide then a else b) : Host.Outcome State Fault Refusal) = .next b := by simp [h]

theorem next_wide {ty : Ty} (h : ty.wide = true) (a b : State) : (.next (if ty.wide then a else b) : Host.Outcome State Fault Refusal) = .next a := by simp [h]

/-- A number under a type determines the word: `ival` is one reading of its bits (08 R168). -/
theorem ival_injective {n : Nat} (ty : Ty) {a b : BitVec n} (h : ival ty a = ival ty b) : a = b := by
  unfold ival at h
  split at h
  · exact BitVec.toInt_inj.1 h
  · exact BitVec.toInt_inj.1 h
  · exact BitVec.eq_of_toNat_eq (by exact_mod_cast h)

theorem pickBy_lesser {n : Nat} (ty : Ty) (a b : BitVec n) : pickBy ty false a b = if ival ty a ≤ ival ty b then a else b := rfl

/-- The greater of two words; two of one number are one word. -/
theorem pickBy_greater {n : Nat} (ty : Ty) (a b : BitVec n) : pickBy ty true a b = if ival ty a ≤ ival ty b then b else a := by
  unfold pickBy
  rw [if_pos rfl]
  rcases lt_trichotomy (ival ty a) (ival ty b) with hlt | heq | hgt
  · rw [if_neg (not_le.2 hlt), if_pos hlt.le]
  · rw [if_pos heq.ge, if_pos heq.le, ival_injective ty heq]
  · rw [if_pos hgt.le, if_neg (not_le.2 hgt)]

/-- The type of a legal word of 08 R170 or R171 with 32-bit operands. -/
theorem legal_bin32 {i : Instr} {w : F0} {sh : Shape} (hs : shape0 i = some (w, sh)) (hok : sh.ok = (tyIn w.ty int32 && w.x == 0)) (hl : staticFault i = none) : w.ty = .i32 ∨ w.ty = .n32 := by
  have h := (static0 hs hl).1
  rw [hok] at h
  simpa [tyIn, int32] using (Bool.and_eq_true_iff.1 h).1

end Sys2Proof.Proofs

/-! ## Integer arithmetic words and pair words (08 R170, R185; 02 R34) -/

namespace Sys2Proof.Proofs

open Sys2Proof.Machine Sys2Proof.Laws

/-! ### Sums and differences -/

/-- ADD and SUB, with registers and immediates: outside a region their symbol rules do nothing. -/
theorem addSub_sets32 {i : Instr} {d : Code} (sub : Bool) {a b : Env → Thread → Word} {a' b' : Thread → Word} {ta tb : Thread → Option (Nat × Word)}
    (hx : ∀ s, exec i s = .next (runLocal i s (fun e t => .ok (t.addSub sub (vnum d) (a e t) (b e t) (ta t) (tb t)) 0 none))) (he : endsDispatch i = false) (hc : closesFirst i = false)
    (hta : ∀ t : Thread, t.region = none → ta t = none) (htb : ∀ t : Thread, t.region = none → tb t = none)
    (ha : ∀ (e : Env) (t : Thread), t.reads i → a e t = a' t) (hb : ∀ (e : Env) (t : Thread), t.reads i → b e t = b' t) :
    Sets32 i d (fun t => if sub then a' t - b' t else a' t + b' t) := by
  refine computes_of hx he hc _ _ (fun s iss g l t G ths _ hregion hreads => ?_) (fun _ _ _ _ => ⟨rfl, rfl, rfl, rfl⟩)
  rw [hta t hregion, htb t hregion, addSub_plain hregion, ha _ t hreads, hb _ t hreads]

theorem add_sets32 (w : F0) : Sets32 (.add w) w.d (fun t => t.sourceA w + t.sourceB w) :=
  addSub_sets32 false (fun _ => rfl) rfl rfl (fun _ h => srcTag_none h _) (fun _ h => srcTag_none h _)
    (fun e _ hr => fa_live e (i := .add w) rfl rfl hr) (fun e _ hr => fb_live e (i := .add w) rfl rfl hr)

theorem addImm_sets32 (w : F1) : Sets32 (.addImm w) w.d (fun t => t.source w.a 0 + immWide w) :=
  addSub_sets32 false (fun _ => rfl) rfl rfl (fun _ h => srcTag_none h _) (fun _ _ => rfl)
    (fun e _ hr => a32_live1 e (i := .addImm w) rfl rfl rfl hr) (fun _ _ _ => rfl)

theorem sub_sets32 (w : F0) : Sets32 (.sub w) w.d (fun t => t.sourceA w - t.sourceB w) :=
  addSub_sets32 true (fun _ => rfl) rfl rfl (fun _ h => srcTag_none h _) (fun _ h => srcTag_none h _)
    (fun e _ hr => fa_live e (i := .sub w) rfl rfl hr) (fun e _ hr => fb_live e (i := .sub w) rfl rfl hr)

theorem subImm_sets32 (w : F1) : Sets32 (.subImm w) w.d (fun t => t.source w.a 0 - immWide w) :=
  addSub_sets32 true (fun _ => rfl) rfl rfl (fun _ h => srcTag_none h _) (fun _ _ => rfl)
    (fun e _ hr => a32_live1 e (i := .subImm w) rfl rfl rfl hr) (fun _ _ _ => rfl)

/-! ### ADDSAT -/

theorem intLo_le_intHi (ty : Ty) : intLo ty ≤ intHi ty := by cases ty <;> decide

/-- Saturation as a clamp, and SAT where the number is past a limit (03 R71). -/
theorem satInt_eq {lo hi : Int} (h : lo ≤ hi) (z : Int) : satInt z lo hi = (max lo (min z hi), if z < lo ∨ hi < z then flSat else 0) := by
  unfold satInt
  split
  next hlow => rw [if_pos (.inl hlow), max_eq_left ((min_le_left _ _).trans hlow.le)]
  next hlow =>
    have hge := not_lt.1 hlow
    split
    next hhigh => rw [if_pos (.inr hhigh), min_eq_right hhigh.le, max_eq_right h]
    next hhigh => rw [if_neg (not_or.2 ⟨hlow, hhigh⟩), min_eq_left (not_lt.1 hhigh), max_eq_right hge]

/-- The exact sum or difference of ADDSAT. -/
def addsatExact (w : F0) (t : Thread) : Int :=
  if w.x.getLsbD 0 then ival w.ty (t.sourceA w) - ival w.ty (t.sourceB w) else ival w.ty (t.sourceA w) + ival w.ty (t.sourceB w)

theorem addsat_computes (w : F0) : Computes (.addsat w)
    (fun _ _ _ t => t.setV (vnum w.d) (BitVec.ofInt 32 (max (intLo w.ty) (min (addsatExact w t) (intHi w.ty)))))
    (fun _ _ _ t => if addsatExact w t < intLo w.ty ∨ intHi w.ty < addsatExact w t then flSat else 0) := by
  refine computes_of (fun _ => rfl) rfl rfl _ _ (fun s iss g l t G ths _ hregion hreads => ?_) (fun _ _ _ _ => ⟨rfl, rfl, rfl, rfl⟩)
  simp only [fa_live _ (i := .addsat w) rfl rfl hreads, fb_live _ (i := .addsat w) rfl rfl hreads, sat32, satInt_eq (intLo_le_intHi w.ty), write_eq _ _ _ hregion]
  rfl

/-! ### Products -/

theorem mulHigh_eq (ty : Ty) (a b : Word) : mulHigh ty a b = (BitVec.ofInt 64 (ival ty a * ival ty b)).extractLsb' 32 32 := by
  unfold mulHigh wordOfInt
  generalize ival ty a * ival ty b = z
  apply BitVec.eq_of_toNat_eq
  rw [BitVec.extractLsb'_toNat, BitVec.toNat_ofInt, BitVec.toNat_ofInt, Nat.shiftRight_eq_div_pow]
  omega

theorem madw_sets64 (w : F0) : Sets64 (.madw w) w.d (fun t => BitVec.ofInt 64 (ival w.ty (t.sourceA w) * ival w.ty (t.sourceB w)) + t.sourcePair w.d) :=
  sets64_of w.d _ _ (fun _ => rfl) rfl rfl fun e t hl _ hr => by
    have hs : shape0 (.madw w) = some (w, { Shape.bin32 w with d := .pair }) := rfl
    rw [fa_live e hs rfl hr, fb_live e hs rfl hr, pairD_live e hs rfl rfl (static0 hs hl).2.1 hr]

/-! ### The lesser and the greater -/

theorem min_sets32 {w : F0} (h : w.ty.wide = false) : Sets32 (.min w) w.d (fun t => if ival w.ty (t.sourceA w) ≤ ival w.ty (t.sourceB w) then t.sourceA w else t.sourceB w) :=
  sets32_bin (i := .min w) _ (fun a b => if ival w.ty a ≤ ival w.ty b then a else b) rfl (srcBy_narrow h) (srcBy_narrow h) rfl rfl (fun _ => next_narrow h _ _) (fun _ => pickBy_lesser w.ty)

theorem min_sets64 {w : F0} (h : w.ty.wide = true) : Sets64 (.min w) w.d (fun t => if ival w.ty (t.sourcePair w.a) ≤ ival w.ty (t.sourcePair w.b) then t.sourcePair w.a else t.sourcePair w.b) :=
  sets64_bin (i := .min w) _ (fun a b => if ival w.ty a ≤ ival w.ty b then a else b) rfl (srcBy_wide h) (srcBy_wide h) rfl rfl (fun _ => next_wide h _ _) (pickBy_lesser w.ty)

theorem max_sets32 {w : F0} (h : w.ty.wide = false) : Sets32 (.max w) w.d (fun t => if ival w.ty (t.sourceA w) ≤ ival w.ty (t.sourceB w) then t.sourceB w else t.sourceA w) :=
  sets32_bin (i := .max w) _ (fun a b => if ival w.ty a ≤ ival w.ty b then b else a) rfl (srcBy_narrow h) (srcBy_narrow h) rfl rfl (fun _ => next_narrow h _ _) (fun _ => pickBy_greater w.ty)

theorem max_sets64 {w : F0} (h : w.ty.wide = true) : Sets64 (.max w) w.d (fun t => if ival w.ty (t.sourcePair w.a) ≤ ival w.ty (t.sourcePair w.b) then t.sourcePair w.b else t.sourcePair w.a) :=
  sets64_bin (i := .max w) _ (fun a b => if ival w.ty a ≤ ival w.ty b then b else a) rfl (srcBy_wide h) (srcBy_wide h) rfl rfl (fun _ => next_wide h _ _) (pickBy_greater w.ty)

/-! ### ABS and DOT4 -/

theorem abs_eq_natAbs (a : Word) : (if a.msb then 0 - a else a) = BitVec.ofNat 32 a.toInt.natAbs := by
  have hint := BitVec.toInt_eq_msb_cond a
  apply BitVec.eq_of_toNat_eq
  split
  next hneg =>
    have hhalf := BitVec.msb_eq_true_iff_two_mul_ge.1 hneg
    rw [if_pos hneg] at hint
    rw [BitVec.toNat_sub, show (0 : Word).toNat = 0 from rfl, BitVec.toNat_ofNat, hint]
    omega
  next hpos =>
    rw [if_neg hpos] at hint
    rw [hint, Int.natAbs_natCast, BitVec.ofNat_toNat, BitVec.setWidth_eq]

theorem dot4_eq (ty : Ty) (a b d : Word) : dot4 ty a b d = d + BitVec.ofInt 32 (((List.range 4).map (fun k => ival ty (a.extractLsb' (8 * k) 8) * ival ty (b.extractLsb' (8 * k) 8))).sum) := by
  have hsum (f : Nat → Int) : ((List.range 4).map f).sum = f 0 + f 1 + f 2 + f 3 := by simp [List.range_succ, add_assoc]
  rw [hsum]
  rfl

/-! ### Pair words -/

section pair

variable {t : Thread}

/-- A half's operands and result by the thread's registers (02 R34, 08 R185); `k` elements of the word are rounded before it. -/
def halfSourceA (t : Thread) (h : Half) : Word := t.v.get h.dst.toNat

def halfSourceB (t : Thread) (h : Half) : Word := if h.isImm then h.src.signExtend 32 else t.v.get h.src.toNat

def halfGives (g : Group) (tid : Nat) (t : Thread) (k : Nat) (h : Half) : Word × Flags :=
  if h.isFloat then perElem (halfTy h) (fun j => halfFloat h.op7.toNat (arithFmt (halfTy h)) (g.roundMode tid t 0 (k + j)) (elemOf (halfTy h) (halfSourceA t h) j) (elemOf (halfTy h) (halfSourceB t h) j))
  else (halfInt h.op7.toNat (halfTy h) (halfSourceA t h) (halfSourceB t h), 0)

theorem halfB_live (e : Env) {h : Half} (hr : ∀ r ∈ h.reads, r ∉ t.released) : halfB e t h = halfSourceB t h := by
  unfold halfB halfSourceB
  split
  next => rfl
  next himm => exact v_live e (hr _ (by simp [Half.reads, himm]))

/-- The half MOV (08 R185). -/
theorem halfInt_mov (ty : Ty) (a b : Word) : halfInt 11 ty a b = b := by simp [halfInt]

/-- A half reads its operands live; a MOV has no use for its first, which it does not read (02 R35). -/
theorem halfResult_live (e : Env) {h : Half} (hr : ∀ r ∈ h.reads, r ∉ t.released) (k : Nat) : halfResult e t k h = halfGives e.grp e.tid t k h := by
  unfold halfResult halfGives
  simp only [halfB_live e hr, mode_eq_roundMode]
  by_cases hmov : h.op7 = 11#7
  · have hfloat : h.isFloat = false := by simp [Half.isFloat, hmov]
    have hop : h.op7.toNat = 11 := congrArg BitVec.toNat hmov
    simp only [hfloat, hop, Bool.false_eq_true, if_false, halfInt_mov]
  · simp only [v_live e (hr h.dst.toNat (by simp [Half.reads, hmov])), halfSourceA]

variable (hregion : t.region = none)
include hregion

theorem halfPrepare_untracked (h : Half) : halfPrepare t h = t := by
  have htag : halfTag t h = none := by simp [halfTag, tag_untracked hregion]
  simp [halfPrepare, concretiseRegs_untracked hregion, tag_untracked hregion, htag, sumConcretises]

theorem halfResultTag_untracked (e : Env) (h : Half) : halfResultTag e t h = none := by
  have htag : halfTag t h = none := by simp [halfTag, tag_untracked hregion]
  simp [halfResultTag, tag_untracked hregion, htag, sumTag]

end pair

theorem pair_computes (h0 h1 : Half) : Computes (.pair h0 h1)
    (fun _ g l t => (({ t with sq := t.sq + BitVec.ofNat 32 (if g.stochastic 0 then halfSeqs h0 + halfSeqs h1 else 0) } : Thread).setV h0.dst.toNat (halfGives g l.2 t (halfSeqs h1) h0).1).setV h1.dst.toNat (halfGives g l.2 t 0 h1).1)
    (fun _ g l t => (halfGives g l.2 t (halfSeqs h1) h0).2 ||| (halfGives g l.2 t 0 h1).2) := by
  refine computes_of (fun _ => rfl) rfl rfl _ _ (fun s iss g l t G ths _ hregion hreads => ?_) (fun _ _ _ _ => ⟨rfl, rfl, rfl, rfl⟩)
  have hr0 : ∀ r ∈ h0.reads, r ∉ t.released := fun r h => hreads r (List.mem_append_left _ h)
  have hr1 : ∀ r ∈ h1.reads, r ∉ t.released := fun r h => hreads r (List.mem_append_right _ h)
  have hset (n : Nat) (x : Word) : (t.setV n x).region = none := hregion
  simp only [halfPrepare_untracked hregion, halfResultTag_untracked hregion, halfResult_live _ hr0, halfResult_live _ hr1, Thread.writeMaybe, advance_eq, write_eq _ _ _ hregion, write_eq _ _ _ (hset _ _)]
  rfl

/-- Settles O1: outside a region a sum's symbol rules do nothing, and every other word writes a function of its live sources. -/
theorem integerArithmetic : Obligations.IntegerArithmetic :=
  ⟨⟨add_sets32, addImm_sets32, sub_sets32, subImm_sets32, addsat_computes,
    fun w => sets32_bin (i := .mul w) _ _ rfl rfl rfl rfl rfl (fun _ => rfl) (fun _ _ _ => rfl),
    fun w => sets32_imm (i := .mulImm w) _ _ rfl rfl rfl rfl rfl (fun _ => rfl) (fun _ _ => rfl),
    fun w => sets32_bin (i := .mulhi w) _ (fun a b => (BitVec.ofInt 64 (ival w.ty a * ival w.ty b)).extractLsb' 32 32) rfl rfl rfl rfl rfl (fun _ => rfl) (fun _ => mulHigh_eq w.ty),
    fun w => sets32_tri (i := .mad w) _ _ rfl rfl rfl rfl rfl rfl rfl (fun _ => rfl) (fun _ _ _ => rfl),
    madw_sets64, fun _ => min_sets32, fun _ => min_sets64,
    fun w => sets32_imm (i := .minImm w) _ (fun a b => if ival (immTy w) a ≤ ival (immTy w) b then a else b) rfl rfl rfl rfl rfl (fun _ => rfl) (pickBy_lesser _),
    fun _ => max_sets32, fun _ => max_sets64,
    fun w => sets32_imm (i := .maxImm w) _ (fun a b => if ival (immTy w) a ≤ ival (immTy w) b then b else a) rfl rfl rfl rfl rfl (fun _ => rfl) (pickBy_greater _),
    fun w => sets32_un (i := .abs w) _ _ rfl rfl rfl rfl (fun _ => rfl) abs_eq_natAbs,
    fun w => sets32_un (i := .neg w) _ _ rfl rfl rfl rfl (fun _ => rfl) (fun _ => rfl),
    fun w => sets32_tri (i := .dot4 w) _ (fun a b d => d + BitVec.ofInt 32 (((List.range 4).map (fun k => ival w.ty (a.extractLsb' (8 * k) 8) * ival w.ty (b.extractLsb' (8 * k) 8))).sum))
      rfl rfl rfl rfl rfl rfl rfl (fun _ => rfl) (dot4_eq w.ty),
    fun w => sets64_bin (i := .add64 w) _ _ rfl rfl rfl rfl rfl (fun _ => rfl) (fun _ _ => rfl),
    fun w => sets64_bin (i := .sub64 w) _ _ rfl rfl rfl rfl rfl (fun _ => rfl) (fun _ _ => rfl)⟩, pair_computes⟩

end Sys2Proof.Proofs

/-! ## Bit words, predicates, selections and moves (08 R171 to R173) -/

namespace Sys2Proof.Proofs

open Sys2Proof.Machine Sys2Proof.Laws

/-! ### Words by their bits -/

/-- A word is known by its 32 bits. -/
theorem eq_wordOfBits {x : Word} {f : Nat → Bool} (h : ∀ j < 32, x.getLsbD j = f j) : x = wordOfBits f :=
  BitVec.eq_of_getLsbD_eq fun j hj => (h j hj).trans (getLsbD_wordOfBits f hj).symm

theorem shlWord_bits (a b : Word) : shlWord a b = wordOfBits (fun j => decide (b.toNat ≤ j) && a.getLsbD (j - b.toNat)) := by
  refine eq_wordOfBits fun j hj => ?_
  unfold shlWord
  split
  next => rw [BitVec.getLsbD_shiftLeft, decide_eq_true hj, Bool.true_and, ← decide_not, decide_eq_decide.2 not_lt]
  next hfull => simp [show ¬b.toNat ≤ j by omega]

theorem shrWord_bits (a b : Word) : shrWord a b = wordOfBits (fun j => a.getLsbD (j + b.toNat)) := by
  refine eq_wordOfBits fun j hj => ?_
  unfold shrWord
  split
  next => rw [BitVec.getLsbD_ushiftRight, add_comm]
  next hfull => rw [BitVec.getLsbD_of_ge a _ (by omega)]; simp

/-- Bit 31 stands for every bit above it. -/
theorem sarWord_bits (a b : Word) : sarWord a b = wordOfBits (fun j => a.getLsbD (min (j + b.toNat) 31)) := by
  refine eq_wordOfBits fun j hj => ?_
  unfold sarWord
  rw [BitVec.getLsbD_sshiftRight, show Nat.min b.toNat 31 = min b.toNat 31 from rfl, BitVec.msb_eq_getLsbD_last]
  by_cases h : j + b.toNat < 32
  · simp [show ¬32 ≤ j by omega, show min b.toNat 31 = b.toNat by omega, show b.toNat + j < 32 by omega, show min (j + b.toNat) 31 = b.toNat + j by omega]
  · rw [show min (j + b.toNat) 31 = 31 by omega]
    by_cases hin : min b.toNat 31 + j < 32
    · simp [show ¬32 ≤ j by omega, show min b.toNat 31 + j = 31 by omega]
    · simp [show ¬32 ≤ j by omega, hin]

theorem rotateLeft_bits (a b : Word) : a.rotateLeft (b.toNat % 32) = wordOfBits (fun j => a.getLsbD ((j + 32 - b.toNat % 32) % 32)) := by
  refine eq_wordOfBits fun j hj => ?_
  have hr := Nat.mod_lt b.toNat (show 0 < 32 by decide)
  rw [BitVec.getLsbD_rotateLeft, Nat.mod_mod, cond_eq_ite]
  simp only [decide_eq_true_eq]
  generalize b.toNat % 32 = r at hr
  split
  next h => rw [show (j + 32 - r) % 32 = 32 - r + j by omega]
  next h => rw [show (j + 32 - r) % 32 = j - r by omega, decide_eq_true hj, Bool.true_and]

theorem reverse_bits (a : Word) : a.reverse = wordOfBits (fun j => a.getLsbD (31 - j)) :=
  eq_wordOfBits fun j hj => by
    rw [BitVec.getLsbD_reverse, BitVec.getMsbD_eq_getLsbD]
    simp [hj]

/-! ### Fields: BFX, BFI, PRMT -/

theorem bits_eq_extract {n : Nat} (x : BitVec n) (lo len : Nat) : bits x (lo + len) lo = (x.extractLsb' lo (len + 1)).toNat := by
  rw [BitVec.extractLsb'_toNat]
  unfold bits
  congr 2
  omega

/-- A field sign-extended: its top bit stands for every bit above it. -/
theorem sextNat_bits {n v : Nat} (hn : 0 < n) {j : Nat} (hj : j < 32) : (sextNat n 32 v).getLsbD j = v.testBit (min j (n - 1)) := by
  have hsext : sextNat n 32 v = (BitVec.ofNat n v).signExtend 32 := by
    have hpow : 2 ^ n = 2 * 2 ^ (n - 1) := by rw [← pow_succ', Nat.sub_add_cancel hn]
    unfold sextNat BitVec.signExtend
    rw [BitVec.toInt_eq_toNat_cond, BitVec.toNat_ofNat]
    dsimp only
    split
    next h => rw [if_pos (by omega), BitVec.ofInt_natCast]
    next h => rw [if_neg (by omega)]
  rw [hsext, BitVec.getLsbD_signExtend, BitVec.msb_eq_getLsbD_last]
  split
  next h => rw [BitVec.getLsbD_ofNat, decide_eq_true hj, decide_eq_true h, show min j (n - 1) = j by omega, Bool.true_and, Bool.true_and]
  next h => rw [BitVec.getLsbD_ofNat, decide_eq_true hj, decide_eq_true (by omega), show min j (n - 1) = n - 1 by omega, Bool.true_and, Bool.true_and]

/-- A bit of a word read under its type at any width (08 R168, R171): its sign or zeros stand above bit 31. -/
def extBit (ty : Ty) (a : Word) (k : Nat) : Bool := if k < 32 then a.getLsbD k else decide (ty = .i32) && a.getLsbD 31

/-- A word's number in 512 bits has those bits. -/
theorem ofInt_ival_bits {ty : Ty} (hty : ty = .i32 ∨ ty = .n32) (a : Word) {k : Nat} (hk : k < 512) : (BitVec.ofInt 512 (ival ty a)).getLsbD k = extBit ty a k := by
  rcases hty with rfl | rfl
  · change (a.signExtend 512).getLsbD k = _
    rw [BitVec.getLsbD_signExtend, BitVec.msb_eq_getLsbD_last]
    simp [extBit, hk]
  · change (BitVec.ofInt 512 ((a.toNat : Nat) : Int)).getLsbD k = _
    rw [BitVec.ofInt_natCast, BitVec.ofNat_toNat, BitVec.getLsbD_setWidth]
    by_cases h : k < 32
    · simp [extBit, hk, h]
    · simp [extBit, h, BitVec.getLsbD_of_ge a k (by omega)]

/-- BFX by its bits: position in b[7:0], length in b[15:8]; an i32 field is sign-extended. -/
def bfxField (ty : Ty) (a b : Word) : Word :=
  let pos := (b.extractLsb' 0 8).toNat
  let len := (b.extractLsb' 8 8).toNat
  if len = 0 then 0
  else if ty = .i32 then wordOfBits (fun j => extBit ty a (pos + min j (min len 32 - 1)))
  else wordOfBits (fun j => decide (j < len) && extBit ty a (pos + j))

theorem bfx_bits {ty : Ty} (hty : ty = .i32 ∨ ty = .n32) (a b : Word) : bfx ty a b = bfxField ty a b := by
  have hlen := (b.extractLsb' 8 8).isLt
  have hpos := (b.extractLsb' 0 8).isLt
  unfold bfx bfxField
  simp only [show bits b 7 0 = (b.extractLsb' 0 8).toNat from bits_eq_extract b 0 7, show bits b 15 8 = (b.extractLsb' 8 8).toNat from bits_eq_extract b 8 7]
  generalize (b.extractLsb' 8 8).toNat = len at *
  generalize (b.extractLsb' 0 8).toNat = pos at *
  have hfield (j : Nat) : ((BitVec.ofInt 512 (ival ty a)).toNat >>> pos % 2 ^ len).testBit j = (decide (j < len) && extBit ty a (pos + j)) := by
    rw [Nat.testBit_mod_two_pow, Nat.testBit_shiftRight, BitVec.testBit_toNat]
    by_cases hj : j < len
    · rw [ofInt_ival_bits hty a (by omega)]
    · simp [hj]
  split
  next => rfl
  next hzero =>
    split
    next =>
      refine eq_wordOfBits fun j hj => ?_
      rw [show Nat.min len 32 = min len 32 from rfl, sextNat_bits (by omega) hj, hfield, decide_eq_true (by omega), Bool.true_and]
    next =>
      refine eq_wordOfBits fun j hj => ?_
      rw [BitVec.getLsbD_ofNat, hfield, decide_eq_true hj, Bool.true_and]

/-- BFI by its bits. -/
def bfiField (a b d : Word) : Word :=
  let pos := (b.extractLsb' 0 8).toNat
  let len := (b.extractLsb' 8 8).toNat
  wordOfBits (fun j => if pos ≤ j ∧ j < pos + min len 32 then a.getLsbD (j - pos) else d.getLsbD j)

theorem bfi_bits (a b d : Word) : bfi a b d = bfiField a b d := by
  refine eq_wordOfBits fun j hj => ?_
  unfold bfi
  simp only [show bits b 7 0 = (b.extractLsb' 0 8).toNat from bits_eq_extract b 0 7, show bits b 15 8 = (b.extractLsb' 8 8).toNat from bits_eq_extract b 8 7]
  generalize (b.extractLsb' 8 8).toNat = len
  generalize (b.extractLsb' 0 8).toNat = pos
  rw [show Nat.min len 32 = min len 32 from rfl]
  have hmask : (BitVec.ofNat 32 ((2 ^ min len 32 - 1) <<< pos)).getLsbD j = decide (pos ≤ j ∧ j < pos + min len 32) := by
    rw [BitVec.getLsbD_ofNat, Nat.testBit_shiftLeft, Nat.testBit_two_pow_sub_one, Bool.eq_iff_iff]
    simp [hj]
    omega
  have hfield : (BitVec.ofNat 32 (a.toNat <<< pos)).getLsbD j = (decide (pos ≤ j) && a.getLsbD (j - pos)) := by
    rw [BitVec.getLsbD_ofNat, Nat.testBit_shiftLeft, BitVec.testBit_toNat, decide_eq_true hj, Bool.true_and]
  rw [BitVec.getLsbD_or, BitVec.getLsbD_and, BitVec.getLsbD_and, BitVec.getLsbD_not, hmask, hfield, decide_eq_true hj, Bool.true_and]
  by_cases hin : pos ≤ j ∧ j < pos + min len 32
  · simp [hin]
  · simp [hin]

/-- Four bytes side by side: a bit of the word is one of its byte. -/
theorem bytes_bits {f : Nat → Nat} (hf : ∀ k, f k < 256) {j : Nat} (hj : j < 32) :
    (BitVec.ofNat 32 (f 0 + f 1 <<< 8 + f 2 <<< 16 + f 3 <<< 24)).getLsbD j = (f (j / 8)).testBit (j % 8) := by
  have hbyte : (f 0 + f 1 <<< 8 + f 2 <<< 16 + f 3 <<< 24) / 2 ^ (8 * (j / 8)) % 2 ^ 8 = f (j / 8) := by
    have h0 := hf 0
    have h1 := hf 1
    have h2 := hf 2
    have h3 := hf 3
    have hq : j / 8 < 4 := by omega
    simp only [Nat.shiftLeft_eq]
    interval_cases j / 8 <;> omega
  rw [← hbyte, Nat.testBit_mod_two_pow, Nat.testBit_div_two_pow, decide_eq_true (Nat.mod_lt j (by decide)), BitVec.getLsbD_ofNat, decide_eq_true hj, Bool.true_and, Bool.true_and]
  congr 1
  omega

/-- The bit of PRMT's byte under a selector (08 R171): bits [2:0] choose the byte, bit 3 its sign instead. -/
def permutedBit (y : Dword) (sel : BitVec 4) (k : Nat) : Bool :=
  if sel.getLsbD 3 then y.getLsbD (8 * (sel.extractLsb' 0 3).toNat + 7) else y.getLsbD (8 * (sel.extractLsb' 0 3).toNat + k)

/-- The byte a selector gives. -/
def permutedByte (y : Dword) (sel : BitVec 4) : Nat :=
  let v := (y.extractLsb' (8 * (sel.toNat % 8)) 8).toNat
  if 8 ≤ sel.toNat then (if 128 ≤ v then 0xFF else 0) else v

theorem permutedByte_lt (y : Dword) (sel : BitVec 4) : permutedByte y sel < 256 := by
  have := (y.extractLsb' (8 * (sel.toNat % 8)) 8).isLt
  unfold permutedByte
  dsimp only
  split
  · split <;> decide
  · exact this

theorem msb_iff_half {n : Nat} (x : BitVec (n + 1)) : x.getLsbD n = decide (2 ^ n ≤ x.toNat) := by
  have h := BitVec.msb_eq_decide x
  rwa [BitVec.msb_eq_getLsbD_last] at h

theorem permutedByte_bits (y : Dword) (sel : BitVec 4) {k : Nat} (hk : k < 8) : (permutedByte y sel).testBit k = permutedBit y sel k := by
  have hlow : (sel.extractLsb' 0 3).toNat = sel.toNat % 8 := by rw [BitVec.extractLsb'_toNat]; rfl
  have hones : (0xFF : Nat).testBit k = true := by rw [show (0xFF : Nat) = 2 ^ 8 - 1 from rfl, Nat.testBit_two_pow_sub_one, decide_eq_true hk]
  have hbyte {i : Nat} (hi : i < 8) : (y.extractLsb' (8 * (sel.toNat % 8)) 8).getLsbD i = y.getLsbD (8 * (sel.toNat % 8) + i) := by
    rw [BitVec.getLsbD_extractLsb', decide_eq_true hi, Bool.true_and]
  unfold permutedByte permutedBit
  rw [msb_iff_half (n := 3) sel, hlow, ← hbyte (show 7 < 8 by decide), ← hbyte hk, msb_iff_half (n := 7)]
  generalize y.extractLsb' (8 * (sel.toNat % 8)) 8 = v
  by_cases hsign : 8 ≤ sel.toNat
  · by_cases hhigh : 128 ≤ v.toNat
    · simp [hsign, hhigh, hones]
    · simp [hsign, hhigh]
  · simp [hsign, BitVec.testBit_toNat]

theorem prmt_bits (a b d : Word) : prmt a b d = wordOfBits (fun j => permutedBit (b ++ a) (d.extractLsb' (4 * (j / 8)) 4) (j % 8)) := by
  have hbytes : prmt a b d = BitVec.ofNat 32 (permutedByte (b ++ a) (d.extractLsb' (4 * 0) 4) + permutedByte (b ++ a) (d.extractLsb' (4 * 1) 4) <<< 8
      + permutedByte (b ++ a) (d.extractLsb' (4 * 2) 4) <<< 16 + permutedByte (b ++ a) (d.extractLsb' (4 * 3) 4) <<< 24) := by
    unfold prmt permutedByte
    simp only [bits_eq_extract]
  refine eq_wordOfBits fun j hj => ?_
  rw [hbytes, bytes_bits (f := fun k => permutedByte (b ++ a) (d.extractLsb' (4 * k) 4)) (fun _ => permutedByte_lt _ _) hj, permutedByte_bits _ _ (Nat.mod_lt j (by decide))]

/-! ### Counts -/

theorem foldl_count {α : Type} (p : α → Bool) (l : List α) (n : Nat) : l.foldl (fun m k => if p k then m + 1 else m) n = n + l.countP p := by
  induction l generalizing n with
  | nil => rfl
  | cons k l ih =>
    rw [List.foldl_cons, ih, List.countP_cons]
    split <;> omega

theorem popcount_eq_countP (a : Word) : popcount a = (List.range 32).countP (fun k => a.getLsbD k) :=
  (foldl_count _ _ 0).trans (Nat.zero_add _)

/-- The first numbers that meet a test, where the test first fails at `m` or nowhere below `n`. -/
theorem length_takeWhile_range {p : Nat → Bool} {m n : Nat} (hmn : m ≤ n) (hall : ∀ k < m, p k = true) (hstop : m < n → p m = false) : ((List.range n).takeWhile p).length = m := by
  obtain ⟨r, rfl⟩ := Nat.exists_eq_add_of_le hmn
  rw [List.range_add, List.takeWhile_append_of_pos (fun k hk => hall k (List.mem_range.1 hk))]
  cases r with
  | zero => simp
  | succ r => simp [List.range_succ_eq_map, hstop (by omega)]

theorem leadZeros_eq (a : Word) : leadZeros a = ((List.range 32).takeWhile (fun k => !a.getLsbD (31 - k))).length := by
  unfold leadZeros
  split
  next hzero => exact (length_takeWhile_range le_rfl (by simp [hzero]) (fun h => absurd h (lt_irrefl _))).symm
  next hne =>
    have hpos : a.toNat ≠ 0 := fun h => hne (BitVec.eq_of_toNat_eq h)
    have htop : Nat.log2 a.toNat < 32 := (Nat.log2_lt hpos).2 a.isLt
    refine (length_takeWhile_range (by omega) (fun k hk => ?_) (fun _ => ?_)).symm
    · have hclear : a.toNat.testBit (31 - k) = false := Nat.testBit_lt_two_pow ((Nat.log2_lt hpos).1 (by omega))
      rw [← BitVec.testBit_toNat, hclear]
      rfl
    · rw [show 31 - (31 - Nat.log2 a.toNat) = Nat.log2 a.toNat by omega, ← BitVec.testBit_toNat, Nat.testBit_log2 hpos]
      rfl

/-! ### Predicates -/

theorem ptov_bits (t : Thread) : (t.p.setWidth 32 ||| 0x80 : Word) = wordOfBits (fun j => decide (j < 8) && t.pred j) := by
  refine eq_wordOfBits fun j hj => ?_
  have hp7 : (0x80 : Word).getLsbD j = decide (j = 7) := by revert j; decide
  rw [BitVec.getLsbD_or, BitVec.getLsbD_setWidth, hp7]
  unfold Thread.pred
  rcases lt_trichotomy j 7 with hlt | rfl | hgt
  · simp [hj, show ¬7 ≤ j by omega, show j < 8 by omega, hlt.ne]
  · simp
  · simp [show ¬j < 8 by omega, hgt.ne', BitVec.getLsbD_of_ge t.p j (by omega)]

theorem setPred_keeps (t : Thread) (n : Nat) (b : Bool) :
    (t.setPred n b).held = t.held ∧ (t.setPred n b).region = t.region ∧ (t.setPred n b).late = t.late ∧ (t.setPred n b).raised = t.raised := by
  unfold Thread.setPred
  split <;> exact ⟨rfl, rfl, rfl, rfl⟩

/-- The law of words that set one predicate. -/
theorem setsPred_of {i : Instr} {d : Code} {f : Env → Thread → LocalOut} {g : Thread → Bool} (hx : ∀ s, exec i s = .next (runLocal i s f)) (he : endsDispatch i = false) (hc : closesFirst i = false)
    (hf : ∀ (e : Env) (t : Thread), staticFault i = none → t.region = none → t.reads i → f e t = .ok (t.setPred (pnum d) (g t)) 0 none) : SetsPred i d g :=
  computes_of hx he hc _ _ (fun _ _ _ _ t _ _ hl hregion hreads => hf _ t hl hregion hreads) (fun _ _ _ t => setPred_keeps t _ _)

/-- Outside a region a comparison adds no constraint (10 R227). -/
theorem compare_untracked {t : Thread} (h : t.region = none) (d c : Nat) (ty : Ty) (a b : Word) (ta tb : Option (Nat × Word)) :
    t.compare d c ty a b ta tb = t.setPred d (condHolds c (ival ty a) (ival ty b)) := by
  unfold Thread.compare
  rw [h]

theorem setp_narrow {w : F0} (h : w.ty.wide = false) : SetsPred (.setp w) w.d (fun t => condHolds (lo3 w.x) (ival w.ty (t.sourceA w)) (ival w.ty (t.sourceB w))) :=
  setsPred_of (fun _ => rfl) rfl rfl fun e t _ hregion hr => by
    simp only [h, Bool.false_eq_true, if_false, compare_untracked hregion, fa_live e (i := .setp w) rfl (srcBy_narrow h) hr, fb_live e (i := .setp w) rfl (srcBy_narrow h) hr]

theorem setp_wide {w : F0} (h : w.ty.wide = true) : SetsPred (.setp w) w.d (fun t => condHolds (lo3 w.x) (ival w.ty (t.sourcePair w.a)) (ival w.ty (t.sourcePair w.b))) :=
  setsPred_of (fun _ => rfl) rfl rfl fun e t hl hregion hr => by
    obtain ⟨-, -, ha, hb⟩ := static0 (i := .setp w) rfl hl
    simp only [h, if_true, concretiseRegs_untracked hregion, pairA_live e (i := .setp w) rfl (srcBy_wide h) ha hr, pairB_live e (i := .setp w) rfl (srcBy_wide h) hb hr]

theorem setpImm_setsPred (w : F1) : SetsPred (.setpImm w) w.d (fun t => condHolds (lo3 w.x) (ival (immTy w) (t.source w.a 0)) (ival (immTy w) (immWide w))) :=
  setsPred_of (fun _ => rfl) rfl rfl fun e t _ hregion hr => by
    rw [compare_untracked hregion, a32_live1 e (i := .setpImm w) rfl rfl rfl hr]

/-! ### Selections and moves -/

theorem sel_narrow {w : F0} (h : w.ty.wide = false) : Sets32 (.sel w) w.d (fun t => if xor (t.pred (lo3 w.x)) (w.x.getLsbD 3) then t.sourceA w else t.sourceB w) :=
  sets32_of w.d _ _ (fun _ => next_narrow h _ _) rfl rfl fun e t _ _ hr => by
    rw [fa_live e (i := .sel w) rfl (srcBy_narrow h) hr, fb_live e (i := .sel w) rfl (srcBy_narrow h) hr]

theorem sel_wide {w : F0} (h : w.ty.wide = true) : Sets64 (.sel w) w.d (fun t => if xor (t.pred (lo3 w.x)) (w.x.getLsbD 3) then t.sourcePair w.a else t.sourcePair w.b) :=
  sets64_of w.d _ _ (fun _ => next_wide h _ _) rfl rfl fun e t hl _ hr => by
    obtain ⟨-, -, ha, hb⟩ := static0 (i := .sel w) rfl hl
    rw [pairA_live e (i := .sel w) rfl (srcBy_wide h) ha hr, pairB_live e (i := .sel w) rfl (srcBy_wide h) hb hr]

/-- Outside a region MOV of f32 and of an integer type write alike (10 R226). -/
theorem mov_narrow {w : F0} (h : w.ty.wide = false) : Sets32 (.mov w) w.d (fun t => t.sourceA w) := by
  refine computes_of (fun _ => rfl) rfl rfl _ _ (fun s iss g l t G ths _ hregion hreads => ?_) (fun _ _ _ _ => ⟨rfl, rfl, rfl, rfl⟩)
  simp only [h, Bool.false_eq_true, if_false, concretiseRegs_untracked hregion, srcTag_none hregion, Thread.writeMaybe, write_eq _ _ _ hregion, fa_live _ (i := .mov w) rfl (srcBy_narrow h) hreads, ite_self]

theorem mov_wide {w : F0} (h : w.ty.wide = true) : Sets64 (.mov w) w.d (fun t => t.sourcePair w.a) := by
  refine computes_of (fun _ => rfl) rfl rfl _ _ (fun s iss g l t G ths hl hregion hreads => ?_) (fun _ _ _ _ => ⟨rfl, rfl, rfl, rfl⟩)
  simp only [h, if_true, concretiseRegs_untracked hregion, writePair_eq _ _ _ hregion, pairA_live _ (i := .mov w) rfl (srcBy_wide h) (static0 (i := .mov w) rfl hl).2.2.1 hreads]
  rfl

theorem vtop_computes (w : F0) : Computes (.vtop w) (fun _ _ _ t => { t with p := (t.sourceA w).extractLsb' 0 7 }) (fun _ _ _ _ => 0) := by
  refine computes_of (fun _ => rfl) rfl rfl _ _ (fun s iss g l t G ths _ _ hreads => ?_) (fun _ _ _ _ => ⟨rfl, rfl, rfl, rfl⟩)
  simp only [fa_live _ (i := .vtop w) rfl rfl hreads, BitVec.setWidth_eq_extractLsb' (show 7 ≤ 32 by decide)]

/-! ### Doubleword shifts and address sums: a pair and a 32-bit source -/

theorem sets64_pairWord {i : Instr} {w : F0} {sh : Shape} (f : Dword → Word → Dword) (hs : shape0 i = some (w, sh)) (ha : sh.a = .pair) (hb : sh.b = .vecQ) (he : endsDispatch i = false) (hc : closesFirst i = false)
    (hx : ∀ s, exec i s = .next (runWritePair i w.d s (fun e t => f (e.pair t (vnum w.a)) (e.fb t w)))) : Sets64 i w.d (fun t => f (t.sourcePair w.a) (t.sourceB w)) :=
  sets64_of w.d _ _ hx he hc fun e t hl _ hr => by rw [pairA_live e hs ha (static0 hs hl).2.2.1 hr, fb_live e hs hb hr]

theorem shr64_arithmetic {w : F0} (h : w.ty = .i64) : Sets64 (.shr64 w) w.d (fun t => (t.sourcePair w.a).sshiftRight (min (t.sourceB w).toNat 63)) :=
  sets64_pairWord (i := .shr64 w) (fun a b => a.sshiftRight (min b.toNat 63)) rfl rfl rfl rfl rfl fun s => by simp only [exec, execShr64, h, if_true]

theorem shr64_logical {w : F0} (h : w.ty = .n64) : Sets64 (.shr64 w) w.d (fun t => if (t.sourceB w).toNat < 64 then t.sourcePair w.a >>> (t.sourceB w).toNat else 0) :=
  sets64_pairWord (i := .shr64 w) (fun a b => if b.toNat < 64 then a >>> b.toNat else 0) rfl rfl rfl rfl rfl fun s => by simp only [exec, execShr64, h, reduceCtorEq, if_false]

theorem leaImm_sets64 (w : F1) : Sets64 (.leaImm w) w.d (fun t => lea (immTy w) (t.sourcePair w.a) (immWide w) (lo3 w.x)) :=
  sets64_of w.d _ _ (fun _ => rfl) rfl rfl fun e t hl _ hr => by
    obtain ⟨-, -, ha⟩ := static1 (i := .leaImm w) rfl rfl hl
    rw [pair_live e (le_refl 2) ha (reads_a1 (i := .leaImm w) rfl rfl hr)]
/-- Settles O2: each word writes a function of its live sources, and each bit function has the bits the rule names. -/
theorem bitsAndPredicates : Obligations.BitsAndPredicates :=
  ⟨⟨fun w => sets32_bin (i := .and w) _ _ rfl rfl rfl rfl rfl (fun _ => rfl) (fun _ _ _ => rfl),
    fun w => sets32_imm (i := .andImm w) _ _ rfl rfl rfl rfl rfl (fun _ => rfl) (fun _ _ => rfl),
    fun w => sets32_bin (i := .or w) _ _ rfl rfl rfl rfl rfl (fun _ => rfl) (fun _ _ _ => rfl),
    fun w => sets32_imm (i := .orImm w) _ _ rfl rfl rfl rfl rfl (fun _ => rfl) (fun _ _ => rfl),
    fun w => sets32_bin (i := .xor w) _ _ rfl rfl rfl rfl rfl (fun _ => rfl) (fun _ _ _ => rfl),
    fun w => sets32_imm (i := .xorImm w) _ _ rfl rfl rfl rfl rfl (fun _ => rfl) (fun _ _ => rfl),
    fun w => sets32_bin (i := .andn w) _ _ rfl rfl rfl rfl rfl (fun _ => rfl) (fun _ _ _ => rfl),
    fun w => sets32_un (i := .not w) _ _ rfl rfl rfl rfl (fun _ => rfl) (fun _ => rfl),
    fun w => sets32_bin (i := .shl w) _ (fun a b => wordOfBits (fun j => decide (b.toNat ≤ j) && a.getLsbD (j - b.toNat))) rfl rfl rfl rfl rfl (fun _ => rfl) (fun _ => shlWord_bits),
    fun w => sets32_imm (i := .shlImm w) _ (fun a b => wordOfBits (fun j => decide (b.toNat ≤ j) && a.getLsbD (j - b.toNat))) rfl rfl rfl rfl rfl (fun _ => rfl) shlWord_bits,
    fun w => sets32_bin (i := .shr w) _ (fun a b => wordOfBits (fun j => a.getLsbD (j + b.toNat))) rfl rfl rfl rfl rfl (fun _ => rfl) (fun _ => shrWord_bits),
    fun w => sets32_imm (i := .shrImm w) _ (fun a b => wordOfBits (fun j => a.getLsbD (j + b.toNat))) rfl rfl rfl rfl rfl (fun _ => rfl) shrWord_bits,
    fun w => sets32_bin (i := .sar w) _ (fun a b => wordOfBits (fun j => a.getLsbD (min (j + b.toNat) 31))) rfl rfl rfl rfl rfl (fun _ => rfl) (fun _ => sarWord_bits),
    fun w => sets32_imm (i := .sarImm w) _ (fun a b => wordOfBits (fun j => a.getLsbD (min (j + b.toNat) 31))) rfl rfl rfl rfl rfl (fun _ => rfl) sarWord_bits,
    fun w => sets32_bin (i := .rol w) _ (fun a b => wordOfBits (fun j => a.getLsbD ((j + 32 - b.toNat % 32) % 32))) rfl rfl rfl rfl rfl (fun _ => rfl) (fun _ => rotateLeft_bits),
    fun w => sets32_bin (i := .bfx w) _ (bfxField w.ty) rfl rfl rfl rfl rfl (fun _ => rfl) (fun hl => bfx_bits (legal_bin32 (i := .bfx w) rfl rfl hl)),
    fun w => sets32_tri (i := .bfi w) _ bfiField rfl rfl rfl rfl rfl rfl rfl (fun _ => rfl) bfi_bits,
    fun w => sets32_un (i := .popc w) _ (fun a => BitVec.ofNat 32 ((List.range 32).countP (fun k => a.getLsbD k))) rfl rfl rfl rfl (fun _ => rfl) (fun a => congrArg _ (popcount_eq_countP a)),
    fun w => sets32_un (i := .clz w) _ (fun a => BitVec.ofNat 32 ((List.range 32).takeWhile (fun k => !a.getLsbD (31 - k))).length) rfl rfl rfl rfl (fun _ => rfl) (fun a => congrArg _ (leadZeros_eq a)),
    fun w => sets32_un (i := .brev w) _ (fun a => wordOfBits (fun j => a.getLsbD (31 - j))) rfl rfl rfl rfl (fun _ => rfl) reverse_bits,
    fun w => sets32_tri (i := .prmt w) _ (fun a b d => wordOfBits (fun j => permutedBit (b ++ a) (d.extractLsb' (4 * (j / 8)) 4) (j % 8))) rfl rfl rfl rfl rfl rfl rfl (fun _ => rfl) prmt_bits,
    fun w => sets64_pairWord (i := .shl64 w) (fun a b => if b.toNat < 64 then a <<< b.toNat else 0) rfl rfl rfl rfl rfl (fun _ => rfl),
    fun _ => shr64_arithmetic, fun _ => shr64_logical⟩,
   fun _ => setp_narrow, fun _ => setp_wide, setpImm_setsPred, fun _ => setsPred_of (fun _ => rfl) rfl rfl (fun _ _ _ _ _ => rfl), fun _ => sel_narrow, fun _ => sel_wide, fun _ => mov_narrow, fun _ => mov_wide,
   fun w => sets32_of w.d _ _ (fun _ => rfl) rfl rfl (fun _ t _ _ _ => ptov_bits t), vtop_computes,
   fun w => sets64_pairWord (i := .lea w) (fun a b => lea w.ty a b (lo3 w.x)) rfl rfl rfl rfl rfl (fun _ => rfl), leaImm_sets64,
   fun w => sets32_of w.d _ _ (fun _ => rfl) rfl rfl (fun _ _ _ _ _ => rfl), fun w => sets64_of w.d _ _ (fun _ => rfl) rfl rfl (fun _ _ _ _ _ => rfl)⟩

end Sys2Proof.Proofs

/-! ## Floating-point, special-function and conversion words (08 R174 to R182) -/

namespace Sys2Proof.Proofs

open Sys2Proof.Machine Sys2Proof.Laws

/-! ### The laws of these words -/

theorem advance_none (t : Thread) : ({ t with sq := t.sq + BitVec.ofNat 32 0 } : Thread) = t :=
  congrArg (fun x => ({ t with sq := x } : Thread)) (BitVec.add_zero t.sq)

section laws

variable {i : Instr} {d : Code} {f : Env → Thread → LocalOut} {r : Group → Nat × Nat → Thread → Word × Flags}

/-- A word that rounds: its result, its flags, and the rounding sequence advanced (03 R80). -/
theorem setsFloat_of {seq : Group → Thread → Nat} (hx : ∀ s, exec i s = .next (runLocal i s f)) (he : endsDispatch i = false) (hc : closesFirst i = false)
    (hf : ∀ (s : State) (iss : Issue) (g : Group) (l : Nat × Nat) (t : Thread) (G : Tab Group) (ths : List Thread), staticFault i = none → t.reads i →
      f { s := { s with groups := G }, iss := iss, grp := { g with threads := ths }, tid := l.2 } t = .ok (({ t with sq := t.sq + BitVec.ofNat 32 (seq g t) } : Thread).write (vnum d) (r g l t).1) (r g l t).2 none) :
    SetsFloat i d r seq := by
  refine computes_of hx he hc _ _ (fun s iss g l t G ths hl hregion hreads => ?_) (fun _ _ _ _ => ⟨rfl, rfl, rfl, rfl⟩)
  rw [hf s iss g l t G ths hl hreads]
  exact congrArg (fun u => LocalOut.ok u _ none) (write_eq _ _ _ hregion)

/-- A word that leaves the rounding sequence as it is. -/
theorem setsFloat_still (hx : ∀ s, exec i s = .next (runLocal i s f)) (he : endsDispatch i = false) (hc : closesFirst i = false)
    (hf : ∀ (s : State) (iss : Issue) (g : Group) (l : Nat × Nat) (t : Thread) (G : Tab Group) (ths : List Thread), staticFault i = none → t.reads i →
      f { s := { s with groups := G }, iss := iss, grp := { g with threads := ths }, tid := l.2 } t = .ok (t.write (vnum d) (r g l t).1) (r g l t).2 none) :
    SetsFloat i d r (fun _ _ => 0) :=
  setsFloat_of hx he hc fun s iss g l t G ths hl hreads => by rw [hf s iss g l t G ths hl hreads, advance_none]

end laws

section words

variable {i : Instr} {w : F0} {sh : Shape}

/-- An element-wise word that does not round under the field. -/
theorem floatPlain_setsFloat {op : Fmt → Nat → Nat → FRes} {r : Thread → Word × Flags} (hx : ∀ s, exec i s = .next (floatPlain i w s op)) (he : endsDispatch i = false) (hc : closesFirst i = false)
    (hr : ∀ (e : Env) (t : Thread), t.reads i → perElem w.ty (fun k => op (arithFmt w.ty) (elemOf w.ty (e.fa t w) k) (elemOf w.ty (e.fb t w) k)) = r t) :
    SetsFloat i w.d (fun _ _ t => r t) (fun _ _ => 0) :=
  setsFloat_still hx he hc fun s iss g l t G ths _ hreads => by rw [← hr _ t hreads]

/-- Such a word of A and B. -/
theorem floatPlain_binary {op : Fmt → Nat → Nat → FRes} (hs : shape0 i = some (w, sh)) (ha : sh.a = .vecQ) (hb : sh.b = .vecQ) (he : endsDispatch i = false) (hc : closesFirst i = false)
    (hx : ∀ s, exec i s = .next (floatPlain i w s op)) :
    SetsFloat i w.d (fun _ _ t => perElem w.ty (fun k => op (arithFmt w.ty) (elemOf w.ty (t.sourceA w) k) (elemOf w.ty (t.sourceB w) k))) (fun _ _ => 0) :=
  floatPlain_setsFloat hx he hc fun e t hr => by rw [fa_live e hs ha hr, fb_live e hs hb hr]

/-- A word whose result is held: the code and the flags that come with it (02 R46, 03 R82). -/
theorem floatLong_later {f : Mode → Word → Word → FRes} {r : Mode → Thread → FRes} (hx : ∀ s, exec i s = .next (floatLong i w s f)) (he : endsDispatch i = false) (hc : closesFirst i = false)
    (hr : ∀ (e : Env) (t : Thread), t.reads i → ∀ m, f m (e.fa t w) (e.fb t w) = r m t) :
    ComputesLater i (vnum w.d) 1 (fun _ g l t => BitVec.ofNat 128 (r (g.roundMode l.2 t (lo3 w.x) 0).near t).code) (fun _ g l t => (r (g.roundMode l.2 t (lo3 w.x) 0).near t).flags) :=
  computesLater_of hx he hc _ 1 (by decide) _ _ fun s iss g l t G ths _ _ hreads => by
    simp only [hr _ t hreads, mode_eq_roundMode]
    rfl

/-- A special function of A (08 R178). -/
theorem sfu_later {f : Word → FRes} (hs : shape0 i = some (w, sh)) (ha : sh.a = .vecQ) (he : endsDispatch i = false) (hc : closesFirst i = false)
    (hx : ∀ s, exec i s = .next (floatLong i w s (fun _ a _ => f a))) :
    ComputesLater i (vnum w.d) 1 (fun _ _ _ t => BitVec.ofNat 128 (f (t.sourceA w)).code) (fun _ _ _ t => (f (t.sourceA w)).flags) :=
  floatLong_later (r := fun _ t => f (t.sourceA w)) hx he hc fun e t hr _ => by rw [fa_live e hs ha hr]

end words

/-! ### Rounded arithmetic: the words of three sources, of one scale, of one result -/

theorem ffma_setsFloat (w : F0) : SetsFloat (.ffma w) w.d
    (fun g l t => perElem w.ty (fun k => ffma (arithFmt w.ty) (g.roundMode l.2 t (lo3 w.x) k) (elemOf w.ty (t.sourceA w) k) (elemOf w.ty (t.sourceB w) k) (elemOf w.ty (t.v.get (vnum w.d)) k)))
    (fun g _ => if g.stochastic (lo3 w.x) then elems w.ty else 0) :=
  setsFloat_of (fun _ => rfl) rfl rfl fun s iss g l t G ths hl hr => by
    have hs : shape0 (.ffma w) = some (w, Shape.fbin w flt3 5) := rfl
    simp only [fa_live _ hs rfl hr, fb_live _ hs rfl hr, fd_live _ hs rfl rfl (static0 hs hl).2.1 hr, mode_eq_roundMode, advance_eq]
    rfl

theorem fscale_setsFloat (w : F0) : SetsFloat (.fscale w) w.d
    (fun g l t => perElem w.ty (fun k => fscale (arithFmt w.ty) (g.roundMode l.2 t (lo3 w.x) k) (elemOf w.ty (t.sourceA w) k) (t.sourceB w).toInt))
    (fun g _ => if g.stochastic (lo3 w.x) then elems w.ty else 0) :=
  setsFloat_of (fun _ => rfl) rfl rfl fun s iss g l t G ths _ hr => by
    simp only [fa_live _ (i := .fscale w) rfl rfl hr, fb_live _ (i := .fscale w) rfl rfl hr, mode_eq_roundMode, advance_eq]
    rfl

/-- FDOT2's one result. -/
def dot2Gives (w : F0) (g : Group) (tid : Nat) (t : Thread) : FRes :=
  fdot2 (arithFmt w.ty) (g.roundMode tid t (lo3 w.x) 0) (t.sourceA w).toNat (t.sourceB w).toNat (t.v.get (vnum w.d)).toNat

theorem fdot2_setsFloat (w : F0) : SetsFloat (.fdot2 w) w.d (fun g l t => (BitVec.ofNat 32 (dot2Gives w g l.2 t).code, (dot2Gives w g l.2 t).flags)) (fun g _ => if g.stochastic (lo3 w.x) then 1 else 0) :=
  setsFloat_of (fun _ => rfl) rfl rfl fun s iss g l t G ths hl hr => by
    have hs : shape0 (.fdot2 w) = some (w, Shape.fbin w [.bf16x2, .f16x2] 5) := rfl
    simp only [fa_live _ hs rfl hr, fb_live _ hs rfl hr, fd_live _ hs rfl rfl (static0 hs hl).2.1 hr, mode_eq_roundMode, advance_eq]
    rfl

theorem fdiv_later (w : F0) : ComputesLater (.fdiv w) (vnum w.d) 1
    (fun _ g l t => BitVec.ofNat 128 (fdiv .f32 (g.roundMode l.2 t (lo3 w.x) 0).near (t.sourceA w).toNat (t.sourceB w).toNat).code)
    (fun _ g l t => (fdiv .f32 (g.roundMode l.2 t (lo3 w.x) 0).near (t.sourceA w).toNat (t.sourceB w).toNat).flags) :=
  floatLong_later (r := fun m t => fdiv .f32 m (t.sourceA w).toNat (t.sourceB w).toNat) (fun _ => rfl) rfl rfl fun e t hr _ => by
    rw [fa_live e (i := .fdiv w) rfl rfl hr, fb_live e (i := .fdiv w) rfl rfl hr]

theorem fsqrt_later (w : F0) : ComputesLater (.fsqrt w) (vnum w.d) 1
    (fun _ g l t => BitVec.ofNat 128 (fsqrt .f32 (g.roundMode l.2 t (lo3 w.x) 0).near (t.sourceA w).toNat).code)
    (fun _ g l t => (fsqrt .f32 (g.roundMode l.2 t (lo3 w.x) 0).near (t.sourceA w).toNat).flags) :=
  floatLong_later (r := fun m t => fsqrt .f32 m (t.sourceA w).toNat) (fun _ => rfl) rfl rfl fun e t hr _ => by
    rw [fa_live e (i := .fsqrt w) rfl rfl hr]

/-! ### Comparison, integral values, classes, fractions -/

theorem fsetp_computes (w : F0) : Computes (.fsetp w) (fun _ _ _ t => t.setPred (pnum w.d) (fcompare (lo3 w.x) (t.sourceA w).toNat (t.sourceB w).toNat).1)
    (fun _ _ _ t => (fcompare (lo3 w.x) (t.sourceA w).toNat (t.sourceB w).toNat).2) :=
  computes_of (fun _ => rfl) rfl rfl _ _ (fun s iss g l t G ths _ _ hr => by rw [fa_live _ (i := .fsetp w) rfl rfl hr, fb_live _ (i := .fsetp w) rfl rfl hr]) (fun _ _ _ t => setPred_keeps t _ _)

theorem frnd_setsFloat (w : F0) : SetsFloat (.frnd w) w.d (fun g l t => perElem w.ty (fun k => frnd (arithFmt w.ty) (g.roundMode l.2 t (lo3 w.x) k).near (elemOf w.ty (t.sourceA w) k))) (fun _ _ => 0) :=
  setsFloat_still (fun _ => rfl) rfl rfl fun s iss g l t G ths _ hr => by
    simp only [fa_live _ (i := .frnd w) rfl rfl hr, mode_eq_roundMode]
    rfl

theorem perElem_noFlags (ty : Ty) (code : Nat → Nat) : (perElem ty (fun k => { code := code k, flags := 0 })).2 = 0 := by
  unfold perElem
  split
  · rfl
  · exact BitVec.or_self

theorem fclass_sets32 (w : F0) : Sets32 (.fclass w) w.d (fun t => (perElem w.ty (fun k => { code := fclass (arithFmt w.ty) (elemOf w.ty (t.sourceA w) k), flags := 0 })).1) :=
  computes_of (fun _ => rfl) rfl rfl _ _ (fun s iss g l t G ths _ hregion hr => by
    simp only [fa_live _ (i := .fclass w) rfl rfl hr, perElem_noFlags, write_eq _ _ _ hregion]) (fun _ _ _ _ => ⟨rfl, rfl, rfl, rfl⟩)

theorem ffrexp_setsFloat (w : F0) : SetsFloat (.ffrexp w) w.d (fun _ _ t => perElem w.ty (fun k => ffrexp (elemOf w.ty (t.sourceA w) k) (w.x.getLsbD 0))) (fun _ _ => 0) :=
  floatPlain_setsFloat (fun _ => rfl) rfl rfl fun e t hr => by rw [fa_live e (i := .ffrexp w) rfl rfl hr]

/-! ### CVT -/

/-- The source of CVT by its type: a pair or a word (08 R179). -/
def cvtRaw (w : F0) (t : Thread) : Nat := if (cvtSrc w).wide then (t.sourcePair w.a).toNat else (t.sourceA w).toNat

/-- CVT's result and flags. -/
def cvtGives (w : F0) (g : Group) (tid : Nat) (t : Thread) : Dword × Flags := cvt w.ty (cvtSrc w) (g.roundMode tid t (lo3 w.x) 0) (cvtRaw w t)

theorem cvtRaw_live (e : Env) {w : F0} {t : Thread} (hl : staticFault (.cvt w) = none) (hr : t.reads (.cvt w)) : (if (cvtSrc w).wide then (e.pair t (vnum w.a)).toNat else (e.a32 t w.a).toNat) = cvtRaw w t := by
  obtain ⟨sh, hs, ha⟩ : ∃ sh, shape0 (.cvt w) = some ({ w with b := 0 }, sh) ∧ sh.a = srcBy (cvtSrc w) := ⟨_, rfl, rfl⟩
  unfold cvtRaw
  cases h : (cvtSrc w).wide
  · have hword := fa_live e hs (ha.trans (srcBy_narrow h)) hr
    exact congrArg BitVec.toNat hword
  · have hpair := pairA_live e hs (ha.trans (srcBy_wide h)) (static0 hs hl).2.2.1 hr
    exact congrArg BitVec.toNat hpair

theorem cvt_narrow {w : F0} (h : w.ty.wide = false) : SetsFloat (.cvt w) w.d (fun g l t => (lowWord (cvtGives w g l.2 t).1, (cvtGives w g l.2 t).2))
    (fun g _ => if (Fmt.ofTy w.ty).isSome && g.stochastic (lo3 w.x) then 1 else 0) :=
  setsFloat_of (fun _ => rfl) rfl rfl fun s iss g l t G ths hl hr => by
    simp only [h, cvtRaw_live _ hl hr, mode_eq_roundMode, advance_eq, Bool.false_eq_true, if_false]
    cases (Fmt.ofTy w.ty).isSome
    · simp only [Bool.false_and, Bool.false_eq_true, if_false, advance_none]
      rfl
    · rfl

theorem ofTy_wide {ty : Ty} (h : ty.wide = true) : Fmt.ofTy ty = none := by
  revert h
  cases ty <;> decide

theorem cvt_wide {w : F0} (h : w.ty.wide = true) : Computes (.cvt w) (fun _ g l t => t.setPair (vnum w.d) (cvtGives w g l.2 t).1) (fun _ g l t => (cvtGives w g l.2 t).2) := by
  refine computes_of (fun _ => rfl) rfl rfl _ _ (fun s iss g l t G ths hl hregion hr => ?_) (fun _ _ _ _ => ⟨rfl, rfl, rfl, rfl⟩)
  simp only [h, cvtRaw_live _ hl hr, mode_eq_roundMode, ofTy_wide h, Option.isSome_none, Bool.false_eq_true, if_false, if_true, writePair_eq _ _ _ hregion]
  rfl

/-! ### CVTSR, PACK, UNPACK -/

/-- CVTSR rounds by the hash of the counter in its pair (08 R180). -/
def cvtsrGives (w : F0) (g : Group) (t : Thread) : FRes := roundVal ((Fmt.ofTy w.ty).getD .bf16) (.rsr (gHash g.key (t.sourcePair w.b))) (Fmt.f32.decode (t.sourceA w).toNat)

theorem cvtsr_setsFloat (w : F0) : SetsFloat (.cvtsr w) w.d (fun g _ t => (BitVec.ofNat 32 (cvtsrGives w g t).code, (cvtsrGives w g t).flags)) (fun _ _ => 0) :=
  setsFloat_still (fun _ => rfl) rfl rfl fun s iss g l t G ths hl hr => by
    have ha : ∀ e : Env, e.a32 t w.a = t.sourceA w := fun e => fa_live e (i := .cvtsr w) rfl rfl hr
    simp only [ha, pairB_live _ (i := .cvtsr w) rfl rfl (static0 (i := .cvtsr w) rfl hl).2.2.2 hr]
    rfl

/-- PACK puts the converted A and B in two neighbouring elements of the old destination (08 R181). -/
def packGives (w : F0) (g : Group) (tid : Nat) (t : Thread) : Word × Flags :=
  let j := (w.x.extractLsb' 3 2).toNat
  let x := packElem w.ty (g.roundMode tid t (lo3 w.x) 0) (t.sourceA w)
  let y := packElem w.ty (g.roundMode tid t (lo3 w.x) 1) (t.sourceB w)
  (BitVec.ofNat 32 (putElem w.ty (putElem w.ty (t.v.get (vnum w.d)).toNat (2 * j) x.1) (2 * j + 1) y.1), x.2 ||| y.2)

theorem pack_setsFloat (w : F0) : SetsFloat (.pack w) w.d (fun g l t => packGives w g l.2 t) (fun g _ => if packInt w.ty = false ∧ g.stochastic (lo3 w.x) = true then 2 else 0) :=
  setsFloat_of (fun _ => rfl) rfl rfl fun s iss g l t G ths hl hr => by
    simp only [fa_live _ (i := .pack w) rfl rfl hr, fb_live _ (i := .pack w) rfl rfl hr, fd_live _ (i := .pack w) rfl rfl rfl (static0 (i := .pack w) rfl hl).2.1 hr, mode_eq_roundMode, advance_eq]
    cases packInt w.ty
    · simp only [true_and, Bool.false_eq_true, if_false]
      rfl
    · simp only [Bool.true_eq_false, false_and, if_false, if_true, advance_none]
      rfl

/-- The element that UNPACK reads. -/
def unpackElem (w : F0) (t : Thread) : Nat := ((t.sourceA w) >>> (packBits w.ty * lo3 w.x)).toNat % 2 ^ packBits w.ty

/-- UNPACK widens it exactly; a signalling NaN raises INVALID (08 R181). -/
def unpackGives (w : F0) (t : Thread) : Word × Flags :=
  match Fmt.ofTy w.ty with
  | some f => (BitVec.ofNat 32 (roundVal .f32 .rne (f.decode (unpackElem w t))).code, if (f.decode (unpackElem w t)).signals then flInvalid else 0)
  | none => (BitVec.ofInt 32 (intOf w.ty (unpackElem w t)), 0)

theorem unpack_setsFloat (w : F0) : SetsFloat (.unpack w) w.d (fun _ _ t => unpackGives w t) (fun _ _ => 0) :=
  setsFloat_still (fun _ => rfl) rfl rfl fun s iss g l t G ths _ hr => by
    simp only [fa_live _ (i := .unpack w) rfl rfl hr, ← BitVec.toNat_ushiftRight]
    unfold unpackGives unpackElem
    cases Fmt.ofTy w.ty with
    | none => rfl
    | some f => simp only [sigFlags, List.any_cons, List.any_nil, Bool.or_false]

/-! ### QN4 (08 R182) -/

/-- The registers of a pair field, one by one. -/
theorem pairRegs_live (e : Env) {c : Code} {t : Thread} (hl : Field.pair.accepts c = true) (hr : ∀ r ∈ fieldRegs .pair c, r ∉ t.released) :
    e.v t (vnum c) = t.v.get (vnum c) ∧ e.v t (vnum c + 1) = t.v.get (vnum c + 1) :=
  ⟨v_field e hl hr 0 (by decide), v_field e hl hr 1 (by decide)⟩

theorem qscale_setsFloat (w : F0) : SetsFloat (.qscale w) w.d
    (fun _ _ t => (BitVec.ofNat 32 (qnScale (Fmt.f32.decode (t.sourceA w).toNat) (t.sourceB w).toNat).code, (qnScale (Fmt.f32.decode (t.sourceA w).toNat) (t.sourceB w).toNat).flags)) (fun _ _ => 0) :=
  setsFloat_still (fun _ => rfl) rfl rfl fun s iss g l t G ths _ hr => by rw [fa_live _ (i := .qscale w) rfl rfl hr, fb_live _ (i := .qscale w) rfl rfl hr]

/-- QENC's code under the scale and the superscale of its pair. -/
def qencGives (w : F0) (t : Thread) : FRes := qnEncode (Fmt.f32.decode (t.sourceA w).toNat) ((t.v.get (vnum w.b)).toNat % 256) (t.v.get (vnum w.b + 1)).toNat

theorem qenc_setsFloat (w : F0) : SetsFloat (.qenc w) w.d
    (fun _ _ t => (BitVec.ofNat 32 (putElem .e2m1 (t.v.get (vnum w.d)).toNat (lo3 w.x) (qencGives w t).code), (qencGives w t).flags)) (fun _ _ => 0) :=
  setsFloat_still (fun _ => rfl) rfl rfl fun s iss g l t G ths hl hr => by
    obtain ⟨-, hd, -, hb⟩ := static0 (i := .qenc w) rfl hl
    have ha : ∀ e : Env, e.a32 t w.a = t.sourceA w := fun e => fa_live e (i := .qenc w) rfl rfl hr
    have hpair := fun e => pairRegs_live e hb (reads_b (i := .qenc w) rfl hr)
    simp only [ha, (hpair _).1, (hpair _).2, fd_live _ (i := .qenc w) rfl rfl rfl hd hr]
    rfl

/-- QDEC's value of a nibble of A. -/
def qdecGives (w : F0) (t : Thread) : FRes := qnDecode ((t.sourceA w).toNat >>> (4 * lo3 w.x) % 16) ((t.v.get (vnum w.b)).toNat % 256) (t.v.get (vnum w.b + 1)).toNat

theorem qdec_setsFloat (w : F0) : SetsFloat (.qdec w) w.d (fun _ _ t => (BitVec.ofNat 32 (qdecGives w t).code, (qdecGives w t).flags)) (fun _ _ => 0) :=
  setsFloat_still (fun _ => rfl) rfl rfl fun s iss g l t G ths hl hr => by
    have ha : ∀ e : Env, e.a32 t w.a = t.sourceA w := fun e => fa_live e (i := .qdec w) rfl rfl hr
    have hpair := fun e => pairRegs_live e (static0 (i := .qdec w) rfl hl).2.2.2 (reads_b (i := .qdec w) rfl hr)
    simp only [ha, (hpair _).1, (hpair _).2]
    rfl


/-- Settles O3: the words by the laws of a rounded word, of one that leaves the rounding sequence, and of one whose result is held. -/
theorem floatWords : Obligations.FloatWords :=
  ⟨⟨fadd_setsFloat,
    fun w => floatOp_setsFloat (i := .fsub w) (op := fsub) rfl rfl rfl rfl rfl (fun _ => rfl),
    fun w => floatOp_setsFloat (i := .fmul w) (op := fmul) rfl rfl rfl rfl rfl (fun _ => rfl),
    ffma_setsFloat, fscale_setsFloat, fdot2_setsFloat, fdiv_later, fsqrt_later⟩,
   ⟨fun w => floatPlain_binary (i := .fmin w) (op := fun f a b => fminmax f false a b) rfl rfl rfl rfl rfl (fun _ => rfl),
    fun w => floatPlain_binary (i := .fmax w) (op := fun f a b => fminmax f true a b) rfl rfl rfl rfl rfl (fun _ => rfl),
    fun w => floatPlain_binary (i := .famax w) (op := famax) rfl rfl rfl rfl rfl (fun _ => rfl),
    fsetp_computes, frnd_setsFloat, fclass_sets32, ffrexp_setsFloat⟩,
   ⟨fun w => sfu_later (i := .frcp w) (f := sfuRcp) rfl rfl rfl rfl (fun _ => rfl), fun w => sfu_later (i := .frsq w) (f := sfuRsq) rfl rfl rfl rfl (fun _ => rfl),
    fun w => sfu_later (i := .fexp2 w) (f := sfuExp2) rfl rfl rfl rfl (fun _ => rfl), fun w => sfu_later (i := .flog2 w) (f := sfuLog2) rfl rfl rfl rfl (fun _ => rfl),
    fun w => sfu_later (i := .fsin w) (f := sfuSin) rfl rfl rfl rfl (fun _ => rfl), fun w => sfu_later (i := .fcos w) (f := sfuCos) rfl rfl rfl rfl (fun _ => rfl),
    fun w => sfu_later (i := .ftanh w) (f := sfuTanh) rfl rfl rfl rfl (fun _ => rfl), fun w => sfu_later (i := .fsigm w) (f := sfuSigm) rfl rfl rfl rfl (fun _ => rfl)⟩,
   fun _ => cvt_narrow, fun _ => cvt_wide, cvtsr_setsFloat, pack_setsFloat, unpack_setsFloat, qscale_setsFloat, qenc_setsFloat, qdec_setsFloat⟩

end Sys2Proof.Proofs

/-! ## Each arithmetic function rounds its exact result once (08 R174, 03 R78) -/

namespace Sys2Proof.Proofs

open Sys2Proof.Machine Sys2Proof.Laws

/-! ### One rounding of an exact value -/

/-- A result is the rounding of the exact value `q`, written as a sign and a quotient of naturals. -/
def RoundsOnce (f : Fmt) (m : Mode) (q : ℚ) (r : FRes) : Prop := ∃ n d : Nat, 0 < n ∧ 0 < d ∧ (n : ℚ) / d = |q| ∧ r = roundQ f m (decide (q < 0)) n d

/-- A quotient times a power of two, rounded: the dividend or the divisor takes the power. -/
theorem shifted_once {f : Fmt} {m : Mode} {neg : Bool} {m1 m2 : Nat} {e : Int} {q : ℚ} (h1 : 0 < m1) (h2 : 0 < m2) (habs : |q| = m1 / m2 * (2 : ℚ) ^ e) (hneg : decide (q < 0) = neg) :
    RoundsOnce f m q (if e ≥ 0 then roundQ f m neg (m1 <<< e.toNat) m2 else roundQ f m neg m1 (m2 <<< (-e).toNat)) := by
  have hshift {a : Nat} (k : Nat) (ha : 0 < a) : 0 < a <<< k := by
    rw [Nat.shiftLeft_eq]
    positivity
  split
  next he =>
    refine ⟨m1 <<< e.toNat, m2, hshift _ h1, h2, ?_, by rw [hneg]⟩
    lift e to Nat using he
    rw [habs, Nat.shiftLeft_eq]
    push_cast
    rw [Int.toNat_natCast, zpow_natCast]
    ring
  next he =>
    refine ⟨m1, m2 <<< (-e).toNat, h1, hshift _ h2, ?_, by rw [hneg]⟩
    obtain ⟨k, rfl⟩ : ∃ k : Nat, e = -k := ⟨(-e).toNat, by omega⟩
    rw [habs, Nat.shiftLeft_eq, neg_neg, Int.toNat_natCast, zpow_neg, zpow_natCast]
    push_cast
    rw [div_mul_eq_div_div, ← div_eq_mul_inv]

theorem fin_rat (neg : Bool) (m : Nat) (e : Int) : (Val.fin neg m e).rat = (if neg then -1 else 1) * m * (2 : ℚ) ^ e := rfl

theorem fin_rat_abs (neg : Bool) (m : Nat) (e : Int) : |(Val.fin neg m e).rat| = m * (2 : ℚ) ^ e := by
  have hpos : (0 : ℚ) ≤ m * (2 : ℚ) ^ e := by positivity
  cases neg
  · simp [Val.rat, abs_of_nonneg hpos]
  · simp [Val.rat, abs_of_nonneg hpos]

theorem fin_rat_neg {neg : Bool} {m : Nat} (hm : m ≠ 0) (e : Int) : decide ((Val.fin neg m e).rat < 0) = neg := by
  have hpos : (0 : ℚ) < m * (2 : ℚ) ^ e := by
    have : 0 < m := Nat.pos_of_ne_zero hm
    positivity
  cases neg
  · simp [Val.rat, hpos.le]
  · simpa [Val.rat] using hpos

theorem fin_rat_eq_zero {neg : Bool} {m : Nat} {e : Int} : (Val.fin neg m e).rat = 0 ↔ m = 0 := by
  rw [← abs_eq_zero, fin_rat_abs]
  simp [zpow_ne_zero]

theorem roundDy_once {f : Fmt} {mode : Mode} {neg : Bool} {m : Nat} {e : Int} (hm : m ≠ 0) : RoundsOnce f mode (Val.fin neg m e).rat (roundDy f mode neg m e) := by
  unfold roundDy
  rw [if_neg hm]
  exact shifted_once (Nat.pos_of_ne_zero hm) one_pos (by rw [fin_rat_abs, Nat.cast_one, div_one]) (fin_rat_neg hm e)

theorem exists_fin {v : Val} (h : v.finite = true) : ∃ neg m e, v = .fin neg m e := by
  cases v with
  | fin neg m e => exact ⟨neg, m, e, rfl⟩
  | _ => cases h

theorem roundVal_once {f : Fmt} {mode : Mode} {v : Val} (h : v.finite = true) (hne : v.rat ≠ 0) : RoundsOnce f mode v.rat (roundVal f mode v) := by
  obtain ⟨neg, m, e, rfl⟩ := exists_fin h
  exact roundDy_once (fin_rat_eq_zero.not.1 hne)

/-! ### Exact sums and products of finite values -/

theorem finite_notNan {v : Val} (h : v.finite = true) : v.isNan = false ∧ v.isInf = false ∧ v.signals = false := by
  obtain ⟨neg, m, e, rfl⟩ := exists_fin h
  exact ⟨rfl, rfl, rfl⟩

/-- Finite operands raise no flag of their own (03 R81). -/
theorem sigFlags_finite {l : List Val} (h : ∀ v ∈ l, v.finite = true) : sigFlags l = 0 := by
  unfold sigFlags
  rw [List.any_eq_false.2 fun v hv => by simp [(finite_notNan (h v hv)).2.2]]
  rfl

theorem flags_or_zero (fl : Flags) : fl ||| 0 = fl := BitVec.or_zero

theorem more_zero (r : FRes) : r.more 0 = r := by
  unfold FRes.more
  rw [flags_or_zero]

theorem minus_finite {v : Val} (h : v.finite = true) : v.minus.finite = true ∧ v.minus.rat = -v.rat := by
  obtain ⟨neg, m, e, rfl⟩ := exists_fin h
  refine ⟨rfl, ?_⟩
  cases neg <;> simp [Val.minus, Val.rat]

theorem times_finite {a b : Val} (ha : a.finite = true) (hb : b.finite = true) : ∃ p, a.times b = (p, 0) ∧ p.finite = true ∧ p.rat = a.rat * b.rat := by
  obtain ⟨n, m, e, rfl⟩ := exists_fin ha
  obtain ⟨n2, m2, e2, rfl⟩ := exists_fin hb
  refine ⟨_, rfl, rfl, ?_⟩
  unfold Val.rat
  push_cast
  rw [zpow_add₀ two_ne_zero]
  cases n <;> cases n2 <;> simp <;> ring

/-- One value of `leastExp`'s search. -/
def leastStep (a : Int) (v : Val) : Int :=
  match v with
  | .fin _ m e => if m = 0 then a else min a e
  | _ => a

theorem leastExp_eq (l : List Val) : leastExp l = l.foldl leastStep 0 := rfl

theorem leastStep_le (a : Int) (v : Val) : leastStep a v ≤ a := by
  unfold leastStep
  split
  · split
    · exact le_rfl
    · exact min_le_left _ _
  · exact le_rfl

theorem foldl_leastStep_le (l : List Val) (a : Int) : l.foldl leastStep a ≤ a := by
  induction l generalizing a with
  | nil => exact le_rfl
  | cons v l ih => exact (ih _).trans (leastStep_le a v)

/-- The least exponent of a list is at most that of each of its non-zero values. -/
theorem leastExp_le {l : List Val} {neg : Bool} {m : Nat} {e : Int} (h : Val.fin neg m e ∈ l) (hm : m ≠ 0) : leastExp l ≤ e := by
  rw [leastExp_eq]
  generalize (0 : Int) = a
  induction l generalizing a with
  | nil => cases h
  | cons v l ih =>
    rw [List.foldl_cons]
    rcases List.mem_cons.1 h with rfl | hmem
    · have hstep : leastStep a (.fin neg m e) ≤ e := by simp [leastStep, hm]
      exact (foldl_leastStep_le l _).trans hstep
    · exact ih hmem _

/-- A finite value as an integer at an exponent no greater than its own. -/
theorem atExp_mul {v : Val} (h : v.finite = true) {e0 : Int} (he : ∀ neg m e, v = .fin neg m e → m ≠ 0 → e0 ≤ e) : (v.atExp e0 : ℚ) * (2 : ℚ) ^ e0 = v.rat := by
  obtain ⟨neg, m, e, rfl⟩ := exists_fin h
  by_cases hm : m = 0
  · subst hm
    simp [Val.atExp, Val.rat]
  · have hsum := he neg m e rfl hm
    obtain ⟨k, rfl⟩ : ∃ k : Nat, e = e0 + k := ⟨(e - e0).toNat, by omega⟩
    have hpow : ((m <<< (e0 + k - e0).toNat : Nat) : ℚ) * (2 : ℚ) ^ e0 = m * (2 : ℚ) ^ (e0 + k) := by
      rw [add_sub_cancel_left, Int.toNat_natCast, Nat.shiftLeft_eq, zpow_add₀ two_ne_zero, zpow_natCast]
      push_cast
      ring
    cases neg
    · change (((m <<< (e0 + k - e0).toNat : Nat) : Int) : ℚ) * (2 : ℚ) ^ e0 = 1 * m * (2 : ℚ) ^ (e0 + k)
      rw [Int.cast_natCast, hpow, one_mul]
    · change ((-((m <<< (e0 + k - e0).toNat : Nat) : Int) : Int) : ℚ) * (2 : ℚ) ^ e0 = -1 * m * (2 : ℚ) ^ (e0 + k)
      rw [Int.cast_neg, Int.cast_natCast, neg_mul, hpow, neg_mul, neg_mul, one_mul]

theorem foldl_add (l : List Val) (f : Val → Int) (a : Int) : l.foldl (fun a v => a + f v) a = a + (l.map f).sum := by
  induction l generalizing a with
  | nil => simp
  | cons v l ih => rw [List.foldl_cons, ih, List.map_cons, List.sum_cons, add_assoc]

/-- The exact sum of finite values, at their least exponent. -/
theorem sum_atExp {l : List Val} (h : ∀ v ∈ l, v.finite = true) : ((l.foldl (fun a v => a + v.atExp (leastExp l)) (0 : Int) : Int) : ℚ) * (2 : ℚ) ^ leastExp l = (l.map Val.rat).sum := by
  have hall : ∀ v ∈ l, (v.atExp (leastExp l) : ℚ) * (2 : ℚ) ^ leastExp l = v.rat := fun v hv =>
    atExp_mul (h v hv) fun neg m e heq hm => leastExp_le (heq ▸ hv) hm
  generalize leastExp l = e0 at hall
  rw [foldl_add, zero_add]
  clear h
  induction l with
  | nil => simp
  | cons v l ih =>
    rw [List.map_cons, List.map_cons, List.sum_cons, List.sum_cons, Int.cast_add, add_mul, hall v List.mem_cons_self, ih fun u hu => hall u (List.mem_cons_of_mem _ hu)]

theorem sumVals_finite (mode : Mode) {l : List Val} (h : ∀ v ∈ l, v.finite = true) : ∃ v, sumVals mode l = (v, 0) ∧ v.finite = true ∧ v.rat = (l.map Val.rat).sum := by
  have hnan : l.any Val.isNan = false := List.any_eq_false.2 fun v hv => by simp [(finite_notNan (h v hv)).1]
  have hinf (p : Val → Bool) : l.any (fun v => v.isInf && p v) = false := List.any_eq_false.2 fun v hv => by simp [(finite_notNan (h v hv)).2.1]
  have hfind : l.find? Val.isInf = none := List.find?_eq_none.2 fun v hv => by simp [(finite_notNan (h v hv)).2.1]
  have hsum := sum_atExp h
  unfold sumVals
  simp only [hnan, hinf, hfind, Bool.false_eq_true, Bool.false_and, if_false]
  generalize leastExp l = e0 at *
  generalize l.foldl (fun a v => a + v.atExp e0) (0 : Int) = z at *
  rw [← hsum]
  split
  next hz => exact ⟨_, rfl, rfl, by simp [Val.rat, hz]⟩
  next hz =>
    refine ⟨_, rfl, rfl, ?_⟩
    rcases lt_or_ge z 0 with hneg | hpos
    · have habs : ((z.natAbs : Nat) : ℚ) = -z := by rw [Nat.cast_natAbs, abs_of_neg hneg, Int.cast_neg]
      simp [Val.rat, hneg, habs]
    · have habs : ((z.natAbs : Nat) : ℚ) = z := by rw [Nat.cast_natAbs, abs_of_nonneg hpos]
      simp [Val.rat, not_lt.2 hpos, habs]

/-- A sum of finite values is rounded once. -/
theorem roundSum_once {f : Fmt} {mode : Mode} {l : List Val} {fl : Flags} {q : ℚ} (h : ∀ v ∈ l, v.finite = true) (hfl : fl = 0) (hq : (l.map Val.rat).sum = q) (hne : q ≠ 0) : RoundsOnce f mode q (roundSum f mode l fl) := by
  obtain ⟨v, hsum, hfin, hrat⟩ := sumVals_finite mode h
  rw [hq] at hrat
  unfold roundSum
  rw [hsum, hfl]
  simp only [flags_or_zero, more_zero]
  rw [← hrat] at hne ⊢
  exact roundVal_once hfin hne

section operations

variable {f : Fmt} {m : Mode} {a b c : Nat}

theorem fadd_once (ha : (f.decode a).finite = true) (hb : (f.decode b).finite = true) (hne : (f.decode a).rat + (f.decode b).rat ≠ 0) : RoundsOnce f m ((f.decode a).rat + (f.decode b).rat) (fadd f m a b) := by
  have hall : ∀ v ∈ [f.decode a, f.decode b], v.finite = true := by simp [ha, hb]
  exact roundSum_once hall (sigFlags_finite hall) (by simp) hne

theorem fsub_once (ha : (f.decode a).finite = true) (hb : (f.decode b).finite = true) (hne : (f.decode a).rat - (f.decode b).rat ≠ 0) : RoundsOnce f m ((f.decode a).rat - (f.decode b).rat) (fsub f m a b) := by
  obtain ⟨hfin, hrat⟩ := minus_finite hb
  exact roundSum_once (by simp [ha, hfin]) (sigFlags_finite (by simp [ha, hb])) (by simp [hrat, sub_eq_add_neg]) hne

theorem fmul_once (ha : (f.decode a).finite = true) (hb : (f.decode b).finite = true) (hne : (f.decode a).rat * (f.decode b).rat ≠ 0) : RoundsOnce f m ((f.decode a).rat * (f.decode b).rat) (fmul f m a b) := by
  obtain ⟨p, hprod, hfin, hrat⟩ := times_finite ha hb
  unfold fmul
  simp only [hprod, sigFlags_finite (l := [f.decode a, f.decode b]) (by simp [ha, hb]), flags_or_zero, more_zero]
  rw [← hrat] at hne ⊢
  exact roundVal_once hfin hne

theorem ffma_once (ha : (f.decode a).finite = true) (hb : (f.decode b).finite = true) (hc : (f.decode c).finite = true) (hne : (f.decode a).rat * (f.decode b).rat + (f.decode c).rat ≠ 0) :
    RoundsOnce f m ((f.decode a).rat * (f.decode b).rat + (f.decode c).rat) (ffma f m a b c) := by
  obtain ⟨p, hprod, hfin, hrat⟩ := times_finite ha hb
  unfold ffma
  simp only [hprod, sigFlags_finite (l := [f.decode a, f.decode b, f.decode c]) (by simp [ha, hb, hc]), flags_or_zero]
  exact roundSum_once (by simp [hfin, hc]) rfl (by simp [hrat]) hne

theorem fdiv_once (ha : (f.decode a).finite = true) (hb : (f.decode b).finite = true) (hna : (f.decode a).rat ≠ 0) (hnb : (f.decode b).rat ≠ 0) :
    RoundsOnce f m ((f.decode a).rat / (f.decode b).rat) (fdiv f m a b) := by
  unfold fdiv
  obtain ⟨n, m1, e1, hx⟩ := exists_fin ha
  obtain ⟨n2, m2, e2, hy⟩ := exists_fin hb
  rw [hx] at hna ⊢
  rw [hy] at hnb ⊢
  have h1 := fin_rat_eq_zero.not.1 hna
  have h2 := fin_rat_eq_zero.not.1 hnb
  have habs : |(Val.fin n m1 e1).rat / (Val.fin n2 m2 e2).rat| = m1 / m2 * (2 : ℚ) ^ (e1 - e2) := by
    rw [abs_div, fin_rat_abs, fin_rat_abs, zpow_sub₀ two_ne_zero, mul_div_mul_comm]
  have hneg : decide ((Val.fin n m1 e1).rat / (Val.fin n2 m2 e2).rat < 0) = (n != n2) := by
    have hn := fin_rat_neg (neg := n) h1 e1
    have hn2 := fin_rat_neg (neg := n2) h2 e2
    have hle (v : ℚ) (hv : v ≠ 0) : 0 < v ↔ ¬v < 0 := by rw [not_lt, le_iff_lt_or_eq]; simp [hv.symm]
    rw [Bool.eq_iff_iff, decide_eq_true_iff, div_neg_iff, hle _ hna, hle _ hnb, ← decide_eq_true_iff (p := (Val.fin n m1 e1).rat < 0), ← decide_eq_true_iff (p := (Val.fin n2 m2 e2).rat < 0), hn, hn2]
    cases n <;> cases n2 <;> simp
  simp only [if_neg h2]
  unfold quotient
  rw [if_neg h1]
  exact shifted_once (Nat.pos_of_ne_zero h1) (Nat.pos_of_ne_zero h2) habs hneg

theorem fdot2_once (ha0 : (f.decode (a % 65536)).finite = true) (hb0 : (f.decode (b % 65536)).finite = true) (ha1 : (f.decode (a / 65536 % 65536)).finite = true) (hb1 : (f.decode (b / 65536 % 65536)).finite = true)
    (hc : (Fmt.f32.decode c).finite = true)
    (hne : (f.decode (a % 65536)).rat * (f.decode (b % 65536)).rat + (f.decode (a / 65536 % 65536)).rat * (f.decode (b / 65536 % 65536)).rat + (Fmt.f32.decode c).rat ≠ 0) :
    RoundsOnce .f32 m ((f.decode (a % 65536)).rat * (f.decode (b % 65536)).rat + (f.decode (a / 65536 % 65536)).rat * (f.decode (b / 65536 % 65536)).rat + (Fmt.f32.decode c).rat) (fdot2 f m a b c) := by
  obtain ⟨p0, hprod0, hfin0, hrat0⟩ := times_finite ha0 hb0
  obtain ⟨p1, hprod1, hfin1, hrat1⟩ := times_finite ha1 hb1
  unfold fdot2
  simp only [hprod0, hprod1, sigFlags_finite (l := [f.decode (a % 65536), f.decode (a / 65536 % 65536), f.decode (b % 65536), f.decode (b / 65536 % 65536), Fmt.f32.decode c]) (by simp [ha0, ha1, hb0, hb1, hc]), flags_or_zero]
  exact roundSum_once (by simp [hfin0, hfin1, hc]) rfl (by simp [hrat0, hrat1, add_assoc]) hne

end operations

end Sys2Proof.Proofs

/-! ### FSCALE: a scale past 2^1000 rounds as 2^1000 does -/

namespace Sys2Proof.Proofs

open Sys2Proof.Machine Sys2Proof.Laws

/-- The fields of a finite value (03 R64): its integer has one bit more than the mantissa, its exponent is one of the format's. -/
theorem decode_fin_fields {f : Fmt} {a : Nat} {neg : Bool} {m : Nat} {e : Int} (h : f.decode a = .fin neg m e) :
    m < 2 ^ (f.mbits + 1) ∧ f.emin - f.mbits ≤ e ∧ e < f.emin - f.mbits + 2 ^ (f.width - 1 - f.mbits) := by
  have hmant := Nat.mod_lt (a % f.signBit) (show 0 < 2 ^ f.mbits by positivity)
  have hfield : a % f.signBit / 2 ^ f.mbits < 2 ^ (f.width - 1 - f.mbits) := by
    rw [Nat.div_lt_iff_lt_mul (by positivity), ← pow_add, Nat.sub_add_cancel (by cases f <;> decide)]
    exact Nat.mod_lt _ (by unfold Fmt.signBit; positivity)
  have hfieldInt : ((a % f.signBit / 2 ^ f.mbits : Nat) : Int) < 2 ^ (f.width - 1 - f.mbits) := by exact_mod_cast hfield
  unfold Fmt.decode at h
  dsimp only at h
  rw [pow_succ]
  generalize a % f.signBit / 2 ^ f.mbits = x at *
  generalize a % f.signBit % 2 ^ f.mbits = y at *
  split at h
  · split at h <;> cases h
  · split at h
    · cases h
    · split at h
      next =>
        obtain ⟨-, rfl, rfl⟩ := Val.fin.inj h
        exact ⟨by omega, le_rfl, by linarith [show (0 : Int) < 2 ^ (f.width - 1 - f.mbits) by positivity]⟩
      next hx =>
        obtain ⟨-, rfl, rfl⟩ := Val.fin.inj h
        exact ⟨by omega, by omega, by linarith⟩

/-- Finite non-zero magnitudes of every format lie between 2^-149 and 2^130. -/
theorem decode_fin_range {f : Fmt} {a : Nat} {neg : Bool} {m : Nat} {e : Int} (h : f.decode a = .fin neg m e) (hm : m ≠ 0) :
    (2 : ℚ) ^ (-149 : Int) ≤ m * (2 : ℚ) ^ e ∧ m * (2 : ℚ) ^ e < (2 : ℚ) ^ (130 : Int) := by
  obtain ⟨hmax, hlow, hhigh⟩ := decode_fin_fields h
  have hm1 : (1 : ℚ) ≤ m := by exact_mod_cast Nat.one_le_iff_ne_zero.2 hm
  have hbits : (m : ℚ) < (2 : ℚ) ^ ((f.mbits : Int) + 1) := by exact_mod_cast hmax
  have hemin : -149 ≤ f.emin - f.mbits := by cases f <;> decide
  have hemax : f.emin + 2 ^ (f.width - 1 - f.mbits) ≤ 130 := by cases f <;> decide
  constructor
  · calc (2 : ℚ) ^ (-149 : Int) ≤ (2 : ℚ) ^ e := zpow_le_zpow_right₀ one_le_two (by omega)
      _ ≤ m * (2 : ℚ) ^ e := le_mul_of_one_le_left (by positivity) hm1
  · calc m * (2 : ℚ) ^ e < (2 : ℚ) ^ ((f.mbits : Int) + 1) * (2 : ℚ) ^ e := mul_lt_mul_of_pos_right hbits (by positivity)
      _ = (2 : ℚ) ^ ((f.mbits : Int) + 1 + e) := (zpow_add₀ two_ne_zero _ _).symm
      _ ≤ (2 : ℚ) ^ (130 : Int) := zpow_le_zpow_right₀ one_le_two (by linarith)

/-- Values from 2^200 on overflow in every format. -/
theorem roundQ_huge {f : Fmt} {m : Mode} {neg : Bool} {n d : Nat} (hn : 0 < n) (hd : 0 < d) (h : (2 : ℚ) ^ (200 : Int) ≤ n / d) :
    roundQ f m neg n d = { code := f.overflow m neg, flags := flOverflow ||| flInexact } := by
  obtain ⟨e, K, hr⟩ := exists_rounds f m neg hn hd
  have he : 200 < e + 1 := (zpow_lt_zpow_iff_right₀ one_lt_two).1 (h.trans_lt hr.at_.below)
  refine roundQ_overflow hn hd hr ?_
  have hbinades : f.maxMag < (200 - f.emin).toNat * 2 ^ f.mbits := by cases f <;> decide
  have hup : (200 - f.emin).toNat ≤ (e - f.emin).toNat := by omega
  exact hbinades.trans_le ((Nat.mul_le_mul_right _ hup).trans (Nat.le_add_right _ _))

/-- What a mode makes of a discarded part that no hash can carry over: all such parts are alike. -/
theorem takesUpper_tiny {m : Mode} {neg : Bool} {k : Nat} {r s : ℚ} (hr : 0 < r) (hr2 : r < (2 : ℚ) ^ (-33 : Int)) (hs : 0 < s) (hs2 : s < (2 : ℚ) ^ (-33 : Int)) :
    TakesUpper m neg k r ↔ TakesUpper m neg k s := by
  have hsmall : (2 : ℚ) ^ (-33 : Int) < 1 / 2 := by norm_num
  have hhash {x : ℚ} (hx : 0 < x) (hx2 : x < (2 : ℚ) ^ (-33 : Int)) : ⌊x * 2 ^ 32⌋₊ = 0 := by
    have hlt : x * 2 ^ 32 < 1 := calc
      x * 2 ^ 32 < (2 : ℚ) ^ (-33 : Int) * 2 ^ 32 := mul_lt_mul_of_pos_right hx2 (by positivity)
      _ < 1 := by norm_num
    exact Nat.floor_eq_zero.2 hlt
  cases m with
  | rne =>
    have hnot {x : ℚ} (hx : x < (2 : ℚ) ^ (-33 : Int)) : ¬TakesUpper .rne neg k x := fun h => (hx.trans hsmall).not_ge (h.elim le_of_lt fun h => h.1.ge)
    exact iff_of_false (hnot hr2) (hnot hs2)
  | rtz => exact Iff.rfl
  | rup => exact and_congr_right fun _ => iff_of_true hr.ne' hs.ne'
  | rdn => exact and_congr_right fun _ => iff_of_true hr.ne' hs.ne'
  | rsr h => simp only [TakesUpper, hhash hr hr2, hhash hs hs2]

/-- A value below 2^-200 is nothing but a discarded part of the least spacing. -/
theorem tiny_fields {f : Fmt} {e : Int} {q : ℚ} (hq : 0 < q) (hq2 : q < (2 : ℚ) ^ (-200 : Int)) (he : AtExponent f e q) :
    e = f.emin ∧ kept f e q = 0 ∧ 0 < discarded f e q ∧ discarded f e q < (2 : ℚ) ^ (-33 : Int) := by
  have hemin : -149 ≤ f.emin - f.mbits := by cases f <;> decide
  have hexp : e = f.emin := he.leading.resolve_right fun hlead => by
    have := (zpow_lt_zpow_iff_right₀ one_lt_two).1 (hlead.trans_lt hq2)
    have := he.least
    omega
  have hsp : q / spacing f e < (2 : ℚ) ^ (-33 : Int) := by
    rw [div_lt_iff₀ (spacing_pos f e), spacing, ← zpow_add₀ two_ne_zero]
    exact hq2.trans_le (zpow_le_zpow_right₀ one_le_two (by omega))
  have hkept : kept f e q = 0 := Nat.floor_eq_zero.2 (hsp.trans (by norm_num))
  have hrest : discarded f e q = q / spacing f e := by rw [discarded, hkept, Nat.cast_zero, sub_zero]
  exact ⟨hexp, hkept, hrest ▸ div_pos hq (spacing_pos f e), hrest ▸ hsp⟩

/-- Values below 2^-200 are rounded alike in every format. -/
theorem roundQ_tiny {f : Fmt} {m : Mode} {neg : Bool} {n d n' d' : Nat} (hn : 0 < n) (hd : 0 < d) (hn' : 0 < n') (hd' : 0 < d')
    (h : (n / d : ℚ) < (2 : ℚ) ^ (-200 : Int)) (h' : (n' / d' : ℚ) < (2 : ℚ) ^ (-200 : Int)) : roundQ f m neg n d = roundQ f m neg n' d' := by
  obtain ⟨e, K, hr⟩ := exists_rounds f m neg hn hd
  obtain ⟨e', K', hr'⟩ := exists_rounds f m neg hn' hd'
  obtain ⟨rfl, hkept, hpos, hlt⟩ := tiny_fields (by positivity) h hr.at_
  obtain ⟨rfl, hkept', hpos', hlt'⟩ := tiny_fields (by positivity) h' hr'.at_
  have hupper := takesUpper_tiny (m := m) (neg := neg) (k := 0) hpos hlt hpos' hlt'
  have hK : K = K' := by
    have hup := hr.upper
    have hdown := hr.lower
    have hup' := hr'.upper
    have hdown' := hr'.lower
    rw [hkept] at hup hdown
    rw [hkept'] at hup' hdown'
    by_cases hu : TakesUpper m neg 0 (discarded f f.emin (n / d))
    · rw [hup hu, hup' (hupper.1 hu)]
    · rw [hdown hu, hdown' fun hu' => hu (hupper.2 hu')]
  subst hK
  rw [roundQ_eq hn hd hr, roundQ_eq hn' hd' hr', if_neg hpos.ne', if_neg hpos'.ne']

/-- Two exact values of one sign past the formats' range, or below it, have one rounding. -/
theorem RoundsOnce.congr {f : Fmt} {m : Mode} {q q' : ℚ} {r r' : FRes} (h : RoundsOnce f m q r) (h' : RoundsOnce f m q' r') (hsign : q < 0 ↔ q' < 0)
    (hrange : (2 : ℚ) ^ (200 : Int) ≤ |q| ∧ (2 : ℚ) ^ (200 : Int) ≤ |q'| ∨ |q| < (2 : ℚ) ^ (-200 : Int) ∧ |q'| < (2 : ℚ) ^ (-200 : Int)) : RoundsOnce f m q r' := by
  obtain ⟨n, d, hn, hd, hq, rfl⟩ := h
  obtain ⟨n', d', hn', hd', hq', rfl⟩ := h'
  rw [← hq, ← hq'] at hrange
  refine ⟨n, d, hn, hd, hq, ?_⟩
  rw [decide_eq_decide.2 hsign]
  rcases hrange with ⟨hhuge, hhuge'⟩ | ⟨htiny, htiny'⟩
  · rw [roundQ_huge hn hd hhuge, roundQ_huge hn' hd' hhuge']
  · exact roundQ_tiny hn' hd' hn hd htiny' htiny

theorem fscale_once {f : Fmt} {m : Mode} {a : Nat} (k : Int) (ha : (f.decode a).finite = true) (hne : (f.decode a).rat ≠ 0) : RoundsOnce f m ((f.decode a).rat * (2 : ℚ) ^ k) (fscale f m a k) := by
  obtain ⟨neg, mant, e, hx⟩ := exists_fin ha
  have hscale : fscale f m a k = roundDy f m neg mant (e + max (-1000) (min 1000 k)) := by
    unfold fscale
    rw [hx]
  rw [hx] at hne
  have hm := fin_rat_eq_zero.not.1 hne
  obtain ⟨hlow, hhigh⟩ := decode_fin_range hx hm
  have hshift (j : Int) : (Val.fin neg mant e).rat * (2 : ℚ) ^ j = (Val.fin neg mant (e + j)).rat := by
    rw [fin_rat, fin_rat, zpow_add₀ two_ne_zero, ← mul_assoc]
  have habs (j : Int) : |(Val.fin neg mant (e + j)).rat| = mant * (2 : ℚ) ^ e * (2 : ℚ) ^ j := by rw [fin_rat_abs, zpow_add₀ two_ne_zero, mul_assoc]
  have hsign (j : Int) : (Val.fin neg mant (e + k)).rat < 0 ↔ (Val.fin neg mant (e + j)).rat < 0 := decide_eq_decide.1 ((fin_rat_neg hm _).trans (fin_rat_neg hm _).symm)
  have hhuge {j : Int} (hj : 1000 ≤ j) : (2 : ℚ) ^ (200 : Int) ≤ |(Val.fin neg mant (e + j)).rat| := calc
    (2 : ℚ) ^ (200 : Int) ≤ (2 : ℚ) ^ (-149 + j) := zpow_le_zpow_right₀ one_le_two (by omega)
    _ = (2 : ℚ) ^ (-149 : Int) * (2 : ℚ) ^ j := zpow_add₀ two_ne_zero _ _
    _ ≤ _ := (habs j).symm ▸ mul_le_mul_of_nonneg_right hlow (by positivity)
  have htiny {j : Int} (hj : j ≤ -1000) : |(Val.fin neg mant (e + j)).rat| < (2 : ℚ) ^ (-200 : Int) := calc
    _ < (2 : ℚ) ^ (130 : Int) * (2 : ℚ) ^ j := (habs j).symm ▸ mul_lt_mul_of_pos_right hhigh (by positivity)
    _ = (2 : ℚ) ^ (130 + j) := (zpow_add₀ two_ne_zero _ _).symm
    _ ≤ (2 : ℚ) ^ (-200 : Int) := zpow_le_zpow_right₀ one_le_two (by omega)
  have hexact := roundDy_once (f := f) (mode := m) (neg := neg) (e := e + k) hm
  rw [hx, hshift, hscale]
  by_cases hmid : -1000 ≤ k ∧ k ≤ 1000
  · rwa [min_eq_right hmid.2, max_eq_right hmid.1]
  · have hclamped := roundDy_once (f := f) (mode := m) (neg := neg) (e := e + max (-1000) (min 1000 k)) hm
    refine hexact.congr hclamped (hsign _) ?_
    rcases lt_or_ge 1000 k with hbig | hbig
    · exact .inl ⟨hhuge hbig.le, hhuge (by omega)⟩
    · exact .inr ⟨htiny (by omega), htiny (by omega)⟩

end Sys2Proof.Proofs

/-! ### FSQRT: a root known to one place more than any rounding needs -/

namespace Sys2Proof.Proofs

open Sys2Proof.Machine Sys2Proof.Laws

/-- Bit by bit, the root from one that is too small by less than 2^k. -/
theorem isqrtFrom_encloses (n k r : Nat) (hlow : r * r ≤ n) (hhigh : n < (r + 2 ^ k) * (r + 2 ^ k)) :
    isqrtFrom n k r * isqrtFrom n k r ≤ n ∧ n < (isqrtFrom n k r + 1) * (isqrtFrom n k r + 1) := by
  induction k generalizing r with
  | zero => exact ⟨hlow, hhigh⟩
  | succ k ih =>
    rw [isqrtFrom]
    split
    next hle => exact ih _ hle (by rwa [add_assoc, ← two_mul, ← pow_succ'])
    next hgt => exact ih _ hlow (Nat.lt_of_not_le hgt)

theorem isqrt_eq_sqrt {n k : Nat} (h : n < 2 ^ (2 * k)) : isqrt n k = Nat.sqrt n :=
  Nat.eq_sqrt.2 (isqrtFrom_encloses n k 0 (Nat.zero_le n) (by rwa [zero_add, ← pow_add, ← two_mul]))

/-- Twice the integer root, and one more where it is not exact. -/
def stickyRoot (q : Nat) : Nat := 2 * Nat.sqrt q + if Nat.sqrt q * Nat.sqrt q = q then 0 else 1

theorem rootQ_eq {f : Fmt} {m : Mode} {q d c : Nat} (hd : 0 < d) (hq : q < 2 ^ (2 * 320)) : rootQ f m (q * d) d c = roundQ f m false (stickyRoot q) (2 ^ (c + 1)) := by
  unfold rootQ
  dsimp only
  have hexact : Nat.sqrt q * Nat.sqrt q * d = q * d ↔ Nat.sqrt q * Nat.sqrt q = q := Nat.mul_left_inj hd.ne'
  rw [Nat.mul_div_cancel _ hd, isqrt_eq_sqrt (k := 320) hq]
  simp only [hexact, decide_eq_true_eq]
  rfl

/-- A multiple of 2^-c. -/
def OnGrid (c : Nat) (g : ℚ) : Prop := ∃ j : Nat, g = j / 2 ^ c

/-- `v` compares with every multiple of 2^-c as the square root of `x` does. -/
structure LikeRoot (c : Nat) (x v : ℚ) : Prop where
  below : ∀ g, OnGrid c g → (g ≤ v ↔ g ^ 2 ≤ x)
  above : ∀ g, OnGrid c g → (v ≤ g ↔ x ≤ g ^ 2)

theorem onGrid_nonneg {c : Nat} {g : ℚ} (h : OnGrid c g) : 0 ≤ g := by
  obtain ⟨j, rfl⟩ := h
  positivity

theorem onGrid_zpow {c : Nat} {e : Int} (h : -(c : Int) ≤ e) (i : Nat) : OnGrid c (i * (2 : ℚ) ^ e) := by
  obtain ⟨k, hk⟩ : ∃ k : Nat, e = k - c := ⟨(e + c).toNat, by omega⟩
  refine ⟨i * 2 ^ k, ?_⟩
  rw [hk, zpow_sub₀ two_ne_zero, zpow_natCast, zpow_natCast]
  push_cast
  ring

theorem le_stickyRoot {q j : Nat} : 2 * j ≤ stickyRoot q ↔ j ^ 2 ≤ q := by
  rw [sq, ← Nat.le_sqrt]
  unfold stickyRoot
  split <;> omega

theorem stickyRoot_le {q j : Nat} : stickyRoot q ≤ 2 * j ↔ q ≤ j ^ 2 := by
  rw [sq]
  unfold stickyRoot
  have hlow := Nat.sqrt_le q
  split
  next hexact =>
    rw [add_zero, Nat.mul_le_mul_left_iff two_pos]
    conv_rhs => rw [← hexact]
    exact Nat.mul_self_le_mul_self_iff.symm
  next hinexact =>
    have hlt : Nat.sqrt q * Nat.sqrt q < q := lt_of_le_of_ne hlow hinexact
    constructor
    · intro hle
      have hj : Nat.sqrt q + 1 ≤ j := by omega
      exact (Nat.lt_succ_sqrt q).le.trans (Nat.mul_self_le_mul_self hj)
    · intro hle
      have hj : Nat.sqrt q < j := Nat.mul_self_lt_mul_self_iff.1 (hlt.trans_le hle)
      omega

/-- With one place beyond the grid kept as a sticky bit, an inexact root stands between its neighbours on the grid. -/
theorem likeRoot_stickyRoot (q c : Nat) : LikeRoot c (q / (2 ^ c) ^ 2) (stickyRoot q / 2 ^ (c + 1) : ℚ) := by
  have hpow : (0 : ℚ) < 2 ^ c := by positivity
  constructor
  · rintro _ ⟨j, rfl⟩
    rw [div_pow, div_le_div_iff_of_pos_right (by positivity), pow_succ, mul_comm, div_mul_eq_div_div, div_le_div_iff_of_pos_right hpow, le_div_iff₀ two_pos, mul_comm]
    exact_mod_cast le_stickyRoot
  · rintro _ ⟨j, rfl⟩
    rw [div_pow, div_le_div_iff_of_pos_right (by positivity), pow_succ, mul_comm, div_mul_eq_div_div, div_le_div_iff_of_pos_right hpow, div_le_iff₀ two_pos, mul_comm]
    exact_mod_cast stickyRoot_le

/-- `v` stands for the root of `x` on a grid that holds every rounding boundary from 2^low on, which is at most the root. -/
structure RootGrid (x v : ℚ) (c : Nat) (low : Int) : Prop where
  like : LikeRoot c x v
  fine : -(c : Int) ≤ low - 24
  least : -100 ≤ low
  pow_le : ((2 : ℚ) ^ low) ^ 2 ≤ x
  lt_pow : x < (2 : ℚ) ^ (130 : Int)

/-- FSQRT's two ways to an integer under the root: a value shifted up, or up and divided back. -/
theorem fsqrt_eq_rootQ {a mant : Nat} {e : Int} (m : Mode) (hx : Fmt.f32.decode a = .fin false mant e) (hm : mant ≠ 0) :
    ∃ (q d c : Nat) (low : Int), 0 < d ∧ c ≤ 200 ∧ (q : ℚ) = mant * (2 : ℚ) ^ e * (2 ^ c) ^ 2 ∧ fsqrt .f32 m a = rootQ .f32 m (q * d) d c
      ∧ -(c : Int) ≤ low - 24 ∧ -100 ≤ low ∧ ((2 : ℚ) ^ low) ^ 2 ≤ mant * (2 : ℚ) ^ e := by
  have hleast : -149 ≤ e := (decode_fin_fields hx).2.1
  have hm1 : (1 : ℚ) ≤ mant := by exact_mod_cast Nat.one_le_iff_ne_zero.2 hm
  have hroot : fsqrt .f32 m a = if e ≥ 0 then rootQ .f32 m (mant <<< (e.toNat + 80)) 1 40 else rootQ .f32 m (mant <<< 400) (1 <<< (-e).toNat) 200 := by
    unfold fsqrt
    simp only [hx, if_neg hm, Bool.false_eq_true, if_false]
  have hle {j : Int} (hj : j ≤ e) : (2 : ℚ) ^ j ≤ mant * (2 : ℚ) ^ e :=
    (zpow_le_zpow_right₀ one_le_two hj).trans (le_mul_of_one_le_left (by positivity) hm1)
  rcases le_or_gt 0 e with he | he
  · rw [if_pos he] at hroot
    lift e to Nat using he
    refine ⟨mant * 2 ^ (e + 80), 1, 40, 0, one_pos, by decide, ?_, ?_, by decide, by decide, ?_⟩
    · rw [zpow_natCast, ← pow_mul, mul_assoc, ← pow_add]
      push_cast
      rfl
    · rw [hroot, Nat.shiftLeft_eq, mul_one, Int.toNat_natCast]
    · simpa using hle (j := 0) (Int.natCast_nonneg e)
  · rw [if_neg (not_le.2 he)] at hroot
    obtain ⟨k, rfl⟩ : ∃ k : Nat, e = -k := ⟨(-e).toNat, by omega⟩
    refine ⟨mant * 2 ^ (400 - k), 2 ^ k, 200, -75, by positivity, le_rfl, ?_, ?_, by decide, by decide, ?_⟩
    · have hsplit : ((2 : ℚ) ^ 200) ^ 2 = 2 ^ (400 - k) * 2 ^ k := by rw [← pow_mul, ← pow_add, Nat.sub_add_cancel (by omega)]
      rw [hsplit, zpow_neg, zpow_natCast]
      push_cast
      field_simp
    · rw [hroot, Nat.shiftLeft_eq, Nat.shiftLeft_eq, one_mul, mul_assoc, ← pow_add, Nat.sub_add_cancel (by omega), neg_neg, Int.toNat_natCast]
    · rw [← zpow_natCast, ← zpow_mul]
      exact hle (by omega)

theorem fsqrt_eq_roundQ {a : Nat} (m : Mode) (hfin : (Fmt.f32.decode a).finite = true) (hpos : 0 < (Fmt.f32.decode a).rat) :
    ∃ (n d c : Nat) (low : Int), 0 < n ∧ 0 < d ∧ fsqrt .f32 m a = roundQ .f32 m false n d ∧ RootGrid (Fmt.f32.decode a).rat (n / d) c low := by
  obtain ⟨neg, mant, e, hx⟩ := exists_fin hfin
  have hm : mant ≠ 0 := fun h => hpos.ne' (hx ▸ fin_rat_eq_zero.2 h)
  obtain rfl : neg = false := by
    rw [← fin_rat_neg (neg := neg) hm e, ← hx]
    exact decide_eq_false (not_lt.2 hpos.le)
  have hrat : (Fmt.f32.decode a).rat = mant * (2 : ℚ) ^ e := by rw [hx, fin_rat, if_neg Bool.false_ne_true, one_mul]
  obtain ⟨q, d, c, low, hd, hc, hq, hroot, hfine, hleast, hlow⟩ := fsqrt_eq_rootQ m hx hm
  have hlt := (decode_fin_range hx hm).2
  rw [← hrat] at hq hlow hlt
  have hqpos : 0 < q := by
    have : (0 : ℚ) < q := hq ▸ by positivity
    exact_mod_cast this
  have hqlt : q < 2 ^ (2 * 320) := by
    have hcast : (q : ℚ) < 2 ^ (2 * 320) := calc
      (q : ℚ) = (Fmt.f32.decode a).rat * (2 ^ c) ^ 2 := hq
      _ < (2 : ℚ) ^ (130 : Int) * (2 ^ c) ^ 2 := mul_lt_mul_of_pos_right hlt (by positivity)
      _ = (2 : ℚ) ^ (130 + 2 * c) := by rw [pow_add, ← pow_mul, mul_comm c]; rfl
      _ ≤ 2 ^ (2 * 320) := pow_le_pow_right₀ one_le_two (by omega)
    exact_mod_cast hcast
  have hlike := likeRoot_stickyRoot q c
  rw [hq, mul_div_cancel_right₀ _ (by positivity)] at hlike
  have hnum : 0 < stickyRoot q := by
    have := Nat.sqrt_pos.2 hqpos
    unfold stickyRoot
    omega
  refine ⟨stickyRoot q, 2 ^ (c + 1), c, low, hnum, by positivity, hroot.trans (rootQ_eq hd hqlt), ?_⟩
  push_cast
  exact ⟨hlike, hfine, hleast, hlow, hlt⟩

section rounded

variable {x v : ℚ} {c K : Nat} {low e : Int} {m : Mode}

/-- The exponent of such a value is well inside the range of f32. -/
theorem RootGrid.exponent (hg : RootGrid x v c low) (he : AtExponent .f32 e v) : low ≤ e ∧ e ≤ 100 := by
  have hmin : Fmt.f32.emin = -126 := rfl
  have hgrid := hg.fine
  have hleast := hg.least
  have hlow : (2 : ℚ) ^ low ≤ v := by
    have hon : OnGrid c ((2 : ℚ) ^ low) := by simpa using onGrid_zpow (show -(c : Int) ≤ low by omega) 1
    exact (hg.like.below _ hon).2 hg.pow_le
  have hhigh : v < (2 : ℚ) ^ (100 : Int) := by
    have hon : OnGrid c ((2 : ℚ) ^ (100 : Int)) := by simpa using onGrid_zpow (show -(c : Int) ≤ 100 by omega) 1
    refine not_le.1 fun hle => ?_
    have hsq := (hg.like.below _ hon).1 hle
    rw [← zpow_natCast, ← zpow_mul] at hsq
    have := (zpow_lt_zpow_iff_right₀ one_lt_two).1 (hsq.trans_lt hg.lt_pow)
    omega
  have hlt := (zpow_lt_zpow_iff_right₀ one_lt_two).1 (hlow.trans_lt he.below)
  refine ⟨by omega, ?_⟩
  rcases he.leading with hmin' | hlead
  · omega
  · exact ((zpow_lt_zpow_iff_right₀ one_lt_two).1 (hlead.trans_lt hhigh)).le

/-- The spacing and its half are on the grid, whatever multiple of them is taken. -/
theorem RootGrid.half_spacing (hg : RootGrid x v c low) (he : AtExponent .f32 e v) (i : Nat) : OnGrid c (i * (spacing .f32 e / 2)) := by
  have hhalf : spacing .f32 e / 2 = (2 : ℚ) ^ (e - 24) := by
    rw [spacing, show e - 24 = e - ((Fmt.f32.mbits : Nat) : Int) - 1 by rw [show ((Fmt.f32.mbits : Nat) : Int) = 23 from rfl]; omega, zpow_sub_one₀ two_ne_zero, div_eq_mul_inv]
  rw [hhalf]
  exact onGrid_zpow (by have := (hg.exponent he).1; have := hg.fine; omega) i

theorem RootGrid.multiple (hg : RootGrid x v c low) (he : AtExponent .f32 e v) (i : Nat) : OnGrid c (i * spacing .f32 e) := by
  have h := hg.half_spacing he (2 * i)
  rwa [Nat.cast_mul, Nat.cast_two, mul_comm (2 : ℚ), mul_assoc, mul_div_cancel₀ _ two_ne_zero] at h

end rounded

end Sys2Proof.Proofs

/-! ### FSQRT: what rounding the stand-in says of the root -/

namespace Sys2Proof.Proofs

open Sys2Proof.Machine Sys2Proof.Laws

/-- A grid point compares with the real root as it does with the stand-in. -/
theorem LikeRoot.sqrt_iff {c : Nat} {x v g : ℚ} (h : LikeRoot c x v) (hx : 0 ≤ x) (hon : OnGrid c g) : ((g : ℝ) ≤ Real.sqrt x ↔ g ≤ v) ∧ (Real.sqrt x ≤ g ↔ v ≤ g) := by
  have hnonneg : (0 : ℝ) ≤ g := by exact_mod_cast onGrid_nonneg hon
  rw [Real.le_sqrt hnonneg (by exact_mod_cast hx), Real.sqrt_le_left hnonneg, h.below g hon, h.above g hon]
  exact ⟨by exact_mod_cast Iff.rfl, by exact_mod_cast Iff.rfl⟩

/-- The next multiple has the next code. -/
theorem magCode_succ (f : Fmt) (e : Int) (K : Nat) : magCode f e (K + 1) = magCode f e K + 1 := rfl

section rounded

variable {x v : ℚ} {c K : Nat} {low e : Int} {m : Mode}

/-- The multiples of the spacing compare with the root by their squares. -/
theorem RootGrid.sq_iff (hg : RootGrid x v c low) (he : AtExponent .f32 e v) (i : Nat) :
    ((i * spacing .f32 e) ^ 2 ≤ x ↔ i * spacing .f32 e ≤ v) ∧ (x ≤ (i * spacing .f32 e) ^ 2 ↔ v ≤ i * spacing .f32 e) :=
  ⟨(hg.like.below _ (hg.multiple he i)).symm, (hg.like.above _ (hg.multiple he i)).symm⟩

/-- The root lies between the two multiples that enclose its stand-in. -/
theorem RootGrid.kept_sq (hg : RootGrid x v c low) (he : AtExponent .f32 e v) (hv : 0 ≤ v) : (kept .f32 e v * spacing .f32 e) ^ 2 ≤ x ∧ x < ((kept .f32 e v + 1) * spacing .f32 e) ^ 2 := by
  obtain ⟨hlow, hhigh⟩ := kept_encloses (f := .f32) (e := e) hv
  have hnext := (hg.sq_iff he (kept .f32 e v + 1)).1
  rw [Nat.cast_succ] at hnext
  exact ⟨(hg.sq_iff he _).1.2 hlow, not_le.1 fun hle => hhigh.not_ge (hnext.1 hle)⟩

/-- The multiple is exactly the root where nothing is discarded. -/
theorem RootGrid.exact_iff (hg : RootGrid x v c low) (h : Rounds .f32 m false v e K) (hv : 0 ≤ v) (hm : ∀ b, m = .rsr b → b < 2 ^ 32) :
    (K * spacing .f32 e) ^ 2 = x ↔ discarded .f32 e v = 0 := by
  rw [← h.exact_iff hv hm, le_antisymm_iff, le_antisymm_iff, (hg.sq_iff h.at_ K).1, (hg.sq_iff h.at_ K).2]

/-- The code of a root is that of a normal number, and not the greatest. -/
theorem RootGrid.code_range (hg : RootGrid x v c low) (h : Rounds .f32 m false v e K) : 2 ^ 23 ≤ magCode .f32 e K ∧ magCode .f32 e K < Fmt.f32.maxMag := by
  have hexp := hg.exponent h.at_
  have hleast := hg.least
  have hkept : kept .f32 e v < 2 ^ 24 := by
    refine Nat.floor_lt' (by norm_num) |>.2 ?_
    rw [div_lt_iff₀ (spacing_pos _ _), spacing]
    refine h.at_.below.trans_eq ?_
    rw [Nat.cast_pow, Nat.cast_ofNat, ← zpow_natCast, ← zpow_add₀ two_ne_zero]
    congr 1
    rw [show ((Fmt.f32.mbits : Nat) : Int) = 23 from rfl]
    push_cast
    ring
  have hK := h.encloses
  have hmin : Fmt.f32.emin = -126 := rfl
  have hbits : Fmt.f32.mbits = 23 := rfl
  have hmax : Fmt.f32.maxMag = 0x7F7FFFFF := rfl
  unfold magCode
  rw [hmin, hbits, hmax]
  omega

theorem RootGrid.val_code (hg : RootGrid x v c low) (h : Rounds .f32 m false v e K) (hv : 0 ≤ v) : (Fmt.f32.decode (magCode .f32 e K)).rat = K * spacing .f32 e := by
  rw [decode_rat _ (hg.code_range h).2.le, h.magVal_eq hv]

/-- Towards zero and down, the root lies between the code and the next. -/
theorem RootGrid.root_down (hg : RootGrid x v c low) (h : Rounds .f32 m false v e K) (hv : 0 ≤ v) (hm : m = .rtz ∨ m = .rdn) :
    (Fmt.f32.decode (magCode .f32 e K)).rat ^ 2 ≤ x ∧ x < (Fmt.f32.decode (magCode .f32 e K + 1)).rat ^ 2 := by
  have hK : K = kept .f32 e v := h.lower (by rcases hm with rfl | rfl <;> simp [TakesUpper])
  rw [hg.val_code h hv, decode_rat _ (c := magCode .f32 e K + 1) (hg.code_range h).2, hK, ← magCode_succ, magVal_magCode hv h.at_ (.inr rfl), Nat.cast_succ]
  exact hg.kept_sq h.at_ hv

/-- Up, it lies between the code below and the code. -/
theorem RootGrid.root_up (hg : RootGrid x v c low) (h : Rounds .f32 .rup false v e K) (hv : 0 ≤ v) :
    (Fmt.f32.decode (magCode .f32 e K - 1)).rat ^ 2 < x ∧ x ≤ (Fmt.f32.decode (magCode .f32 e K)).rat ^ 2 := by
  obtain ⟨hleast, hmost⟩ := hg.code_range h
  obtain ⟨hlow, hhigh⟩ := hg.kept_sq h.at_ hv
  rw [hg.val_code h hv, decode_rat _ (by omega)]
  by_cases hexact : discarded .f32 e v = 0
  · have hroot := (hg.exact_iff h hv (by simp)).2 hexact
    have hbelow := magVal_strictMono .f32 (show magCode .f32 e K - 1 < magCode .f32 e K by omega)
    rw [h.magVal_eq hv] at hbelow
    refine ⟨hroot ▸ pow_lt_pow_left₀ hbelow ?_ two_ne_zero, hroot.ge⟩
    unfold magVal
    positivity
  · have hK : K = kept .f32 e v + 1 := h.upper ⟨rfl, hexact⟩
    have hbelow : magVal .f32 (magCode .f32 e K - 1) = kept .f32 e v * spacing .f32 e := by
      rw [hK, magCode_succ, Nat.add_sub_cancel, magVal_magCode hv h.at_ (.inl rfl)]
    rw [hbelow, hK, Nat.cast_succ]
    refine ⟨lt_of_le_of_ne hlow fun heq => hexact (discarded_eq_zero_iff.2 ?_), hhigh.le⟩
    exact le_antisymm ((hg.sq_iff h.at_ _).1.1 heq.le) ((hg.sq_iff h.at_ _).2.1 heq.ge)

/-- To nearest, the multiple taken is no further from the root than either enclosing one: the half between them is on the grid. -/
theorem RootGrid.nearest (hg : RootGrid x v c low) (h : Rounds .f32 .rne false v e K) (hv : 0 ≤ v) :
    |((K * spacing .f32 e : ℚ) : ℝ) - Real.sqrt x| ≤ Real.sqrt x - (kept .f32 e v * spacing .f32 e : ℚ)
      ∧ |((K * spacing .f32 e : ℚ) : ℝ) - Real.sqrt x| ≤ ((kept .f32 e v + 1) * spacing .f32 e : ℚ) - Real.sqrt x := by
  obtain ⟨hlow, hhigh⟩ := kept_encloses (f := .f32) (e := e) hv
  have hsum := kept_add_discarded (f := .f32) (e := e) (q := v)
  have hu := spacing_pos .f32 e
  have hx : 0 ≤ x := (sq_nonneg _).trans hg.pow_le
  have hlo := (hg.like.sqrt_iff hx (hg.multiple h.at_ (kept .f32 e v))).1.2 hlow
  have hhi := (hg.like.sqrt_iff hx (hg.multiple h.at_ (kept .f32 e v + 1))).2.2 (by rw [Nat.cast_succ]; exact hhigh.le)
  have hmid := hg.like.sqrt_iff hx (hg.half_spacing h.at_ (2 * kept .f32 e v + 1))
  generalize Real.sqrt x = root at *
  generalize spacing .f32 e = u at *
  by_cases hup : TakesUpper .rne false (kept .f32 e v) (discarded .f32 e v)
  · have hhalf : 1 / 2 ≤ discarded .f32 e v := hup.elim le_of_lt (fun h => h.1.ge)
    have habove := hmid.1.2 (by push_cast; nlinarith)
    rw [h.upper hup]
    push_cast at *
    rw [abs_of_nonneg (by linarith)]
    exact ⟨by linarith, le_rfl⟩
  · have hhalf : discarded .f32 e v ≤ 1 / 2 := not_lt.mp fun hlt => hup (.inl hlt)
    have hbelow := hmid.2.2 (by push_cast; nlinarith)
    rw [h.lower hup]
    push_cast at *
    rw [abs_of_nonpos (by linarith), neg_sub]
    exact ⟨le_rfl, by linarith⟩

theorem RootGrid.nearest_code (hg : RootGrid x v c low) (h : Rounds .f32 .rne false v e K) (hv : 0 ≤ v) {code : Nat} (hcode : code ≤ Fmt.f32.maxMag) :
    |((Fmt.f32.decode (magCode .f32 e K)).rat : ℝ) - Real.sqrt x| ≤ |((Fmt.f32.decode code).rat : ℝ) - Real.sqrt x| := by
  obtain ⟨hlow, hhigh⟩ := hg.nearest h hv
  have hmono := (magVal_strictMono .f32).monotone
  rw [hg.val_code h hv, decode_rat _ hcode]
  obtain hle | hgt := Nat.lt_or_ge (magCode .f32 e (kept .f32 e v)) code
  · rw [Nat.lt_iff_add_one_le, ← magCode_succ] at hle
    have hc := hmono hle
    rw [magVal_magCode hv h.at_ (.inr rfl), Nat.cast_succ, ← Rat.cast_le (K := ℝ)] at hc
    exact hhigh.trans ((sub_le_sub_right hc _).trans (le_abs_self _))
  · have hc := hmono hgt
    rw [magVal_magCode hv h.at_ (.inl rfl), ← Rat.cast_le (K := ℝ)] at hc
    exact hlow.trans ((sub_le_sub_left hc _).trans ((neg_sub _ _).symm.le.trans (neg_le_abs _)))

/-- The root as a code, and its flags. -/
theorem RootGrid.rounded {n d : Nat} (hn : 0 < n) (hd : 0 < d) (hg : RootGrid x (n / d) c low) (h : Rounds .f32 m false (n / d) e K) :
    roundQ .f32 m false n d = { code := magCode .f32 e K, flags := if discarded .f32 e (n / d) = 0 then 0 else flInexact } := by
  obtain ⟨hleast, hmost⟩ := hg.code_range h
  rw [roundQ_eq hn hd h, if_neg (Nat.not_lt.2 hmost.le), if_neg (show ¬magCode .f32 e K < 2 ^ Fmt.f32.mbits from Nat.not_lt.2 hleast)]
  rfl

end rounded

/-- Settles O4: each function's operands are read as exact rationals whose exact result is handed to one rounding; a scale past 2^1000 and a root known only on a grid are rounded as the exact values are. -/
theorem exactThenRoundedOnce : Obligations.ExactThenRoundedOnce := by
  refine ⟨fun f m a b ha hb => ⟨fadd_once ha hb, fsub_once ha hb, fmul_once ha hb, fdiv_once ha hb, fun c hc => ffma_once ha hb hc⟩, fun f m a k ha hne => fscale_once k ha hne,
    fun f m a b c ha0 hb0 ha1 hb1 hc hne => fdot2_once ha0 hb0 ha1 hb1 hc hne, fun m a hfin hpos => ?_⟩
  obtain ⟨n, d, c, low, hn, hd, hroot, hg⟩ := fsqrt_eq_roundQ m hfin hpos
  obtain ⟨e, K, h⟩ := exists_rounds .f32 m false hn hd
  have hv : (0 : ℚ) ≤ n / d := by positivity
  obtain ⟨hleast, hmost⟩ := hg.code_range h
  rw [hroot, hg.rounded hn hd h]
  intro val x r
  refine ⟨(Nat.two_pow_pos 23).trans_le hleast, hmost, hg.root_down h hv, fun hm => ?_, fun hm code hcode => ?_, fun hm => ?_⟩
  · subst hm
    exact hg.root_up h hv
  · subst hm
    exact hg.nearest_code h hv hcode
  · have hval : val r.code = K * spacing .f32 e := hg.val_code h hv
    simp only [hval, x, val, hg.exact_iff h hv fun b hb => absurd hb (hm b)]
    rfl

end Sys2Proof.Proofs

/-! ## Floating-point selections, comparisons, classes, integral values and special values (08 R175 to R178) -/

namespace Sys2Proof.Proofs

open Sys2Proof.Machine Sys2Proof.Laws

/-! ### Codes of finite values, infinities and NaNs -/

/-- A code whose fields are a sign and a finite magnitude is a finite value of that sign. -/
theorem decode_fin_of_fields {f : Fmt} {code c : Nat} {neg : Bool} (hmag : code % f.signBit = c) (hneg : decide (f.signBit ≤ code % 2 ^ f.width) = neg) (hc : c ≤ f.maxMag)
    (hnan : (!f.ieee && f != .e2m1 && neg && c == 0) = false) : ∃ m e, f.decode code = .fin neg m e := by
  have hfinite : (f.ieee && decide (f.maxMag < c)) = false := by simp [Nat.not_lt.mpr hc]
  simp only [Fmt.decode, hmag, hneg, hfinite, hnan, Bool.false_eq_true, if_false]
  split <;> exact ⟨_, _, rfl⟩

theorem decode_magnitude {f : Fmt} {c : Nat} (hc : c ≤ f.maxMag) : ∃ m e, f.decode c = .fin false m e := by
  obtain ⟨hmax, hwidth⟩ := maxMag_lt_signBit f
  have hcode : c % 2 ^ f.width = c := Nat.mod_eq_of_lt (by omega)
  exact decode_fin_of_fields (Nat.mod_eq_of_lt (by omega)) (by rw [hcode]; exact decide_eq_false (by omega)) hc (by simp)

/-- An IEEE format keeps the sign of a zero too. -/
theorem decode_signed {f : Fmt} (hieee : f.ieee = true) (neg : Bool) {c : Nat} (hc : c ≤ f.maxMag) : ∃ m e, f.decode (f.signed neg c) = .fin neg m e := by
  obtain ⟨hmax, hwidth⟩ := maxMag_lt_signBit f
  cases neg with
  | false => exact decode_magnitude hc
  | true =>
    have hcode : (c + f.signBit) % 2 ^ f.width = c + f.signBit := Nat.mod_eq_of_lt (by omega)
    have hsigned : f.signed true c = c + f.signBit := by simp [Fmt.signed, hieee]
    rw [hsigned]
    exact decode_fin_of_fields (c := c) (by rw [Nat.add_mod_right, Nat.mod_eq_of_lt (by omega)]) (by simp [hcode]) hc (by simp [hieee])

/-- The magnitude code of a finite value is at most the greatest one, and has the magnitude's value. -/
theorem finite_magnitude {f : Fmt} {a : Nat} (h : (f.decode a).finite = true) : a % f.signBit ≤ f.maxMag ∧ |(f.decode a).rat| = magVal f (a % f.signBit) := by
  have hfields : (f.ieee && decide (f.maxMag < a % f.signBit)) = false ∧ (!f.ieee && f != .e2m1 && decide (f.signBit ≤ a % 2 ^ f.width) && a % f.signBit == 0) = false := by
    unfold Fmt.decode at h
    dsimp only at h
    split at h
    · split at h <;> cases h
    · split at h
      · cases h
      · exact ⟨by simp_all, by simp_all⟩
  obtain ⟨hieee, hnan⟩ := hfields
  have hle : a % f.signBit ≤ f.maxMag := by
    have hlt : a % f.signBit < f.signBit := Nat.mod_lt _ (by unfold Fmt.signBit; positivity)
    by_cases hf : f.ieee = true
    · simpa [hf] using hieee
    · have hall : f.signBit = f.maxMag + 1 := by
        cases f with
        | f32 | bf16 | f16 => exact absurd rfl hf
        | _ => rfl
      omega
  have hpos : (0 : ℚ) ≤ magVal f (a % f.signBit) := by
    unfold magVal
    positivity
  refine ⟨hle, ?_⟩
  rw [decode_rat_of_fields rfl rfl hle hnan]
  split
  · rw [neg_one_mul, abs_neg, abs_of_nonneg hpos]
  · rw [one_mul, abs_of_nonneg hpos]

/-- A code that is no finite value and not the format's own NaN has an exponent field of ones (03 R66). -/
theorem decode_special {f : Fmt} (hieee : f.ieee = true) {a : Nat} (hgt : f.maxMag < a % f.signBit) :
    f.decode a = if a % f.signBit = f.maxMag + 1 then .inf (decide (f.signBit ≤ a % 2 ^ f.width)) else .nan (decide (a % f.signBit % 2 ^ f.mbits < 2 ^ (f.mbits - 1))) := by
  have hlt : a % f.signBit < f.signBit := Nat.mod_lt _ (by unfold Fmt.signBit; positivity)
  have hmant : a % f.signBit % 2 ^ f.mbits = 0 ↔ a % f.signBit = f.maxMag + 1 := by
    generalize a % f.signBit = c at *
    cases f with
    | f32 | bf16 | f16 =>
      simp only [Fmt.signBit, Fmt.width, Fmt.mbits, Fmt.maxMag] at *
      omega
    | _ => cases hieee
  unfold Fmt.decode
  simp only [hieee, hgt, Bool.true_and, decide_true, if_true, hmant]

theorem decode_inf {f : Fmt} {a : Nat} {n : Bool} (h : f.decode a = .inf n) : f.ieee = true ∧ a % f.signBit = f.maxMag + 1 := by
  by_cases hspecial : f.ieee = true ∧ f.maxMag < a % f.signBit
  · obtain ⟨hieee, hgt⟩ := hspecial
    rw [decode_special hieee hgt] at h
    split at h
    next heq => exact ⟨hieee, heq⟩
    next => cases h
  · unfold Fmt.decode at h
    rw [if_neg (by simpa using hspecial)] at h
    split at h
    · cases h
    · split at h <;> cases h

/-- Of an IEEE format, the codes above the infinities are the NaNs. -/
theorem notNan_magnitude {f : Fmt} (hieee : f.ieee = true) {a : Nat} (h : (f.decode a).isNan = false) : a % f.signBit ≤ f.maxMag + 1 := by
  by_contra hgt
  rw [decode_special hieee (by omega), if_neg (by omega)] at h
  cases h

/-! ### Order of finite values -/

/-- A finite value is below another where its rational is. -/
theorem lt_finite {x y : Val} (hx : x.finite = true) (hy : y.finite = true) : x.lt y = decide (x.rat < y.rat) := by
  have hlow {v : Val} (hv : v ∈ [x, y]) (hfin : v.finite = true) : (v.atExp (leastExp [x, y]) : ℚ) * (2 : ℚ) ^ leastExp [x, y] = v.rat :=
    atExp_mul hfin fun neg m e heq hm => leastExp_le (heq ▸ hv) hm
  have hxrat := hlow (by simp) hx
  have hyrat := hlow (by simp) hy
  have horder : x.lt y = decide (x.order y < 0) := by
    obtain ⟨n, m, e, rfl⟩ := exists_fin hx
    obtain ⟨n2, m2, e2, rfl⟩ := exists_fin hy
    rfl
  rw [horder, decide_eq_decide, ← hxrat, ← hyrat, mul_lt_mul_iff_left₀ (by positivity), Int.cast_lt]
  exact sub_neg

theorem isZero_finite {x : Val} (hx : x.finite = true) : x.isZero = decide (x.rat = 0) := by
  obtain ⟨n, m, e, rfl⟩ := exists_fin hx
  simp [Val.isZero, fin_rat_eq_zero, beq_eq_decide]

/-- Where −0 is below +0, the order of the rationals is kept. -/
theorem below_finite {x y : Val} (hx : x.finite = true) (hy : y.finite = true) : if x.below y then x.rat ≤ y.rat else y.rat ≤ x.rat := by
  split
  next hb =>
    have hcases : x.rat < y.rat ∨ x.rat = 0 ∧ y.rat = 0 := by
      simp only [Val.below, lt_finite hx hy, isZero_finite hx, isZero_finite hy, Bool.or_eq_true, Bool.and_eq_true, decide_eq_true_eq] at hb
      tauto
    rcases hcases with hlt | ⟨hx0, hy0⟩
    · exact hlt.le
    · rw [hx0, hy0]
  next hb =>
    have hge : ¬x.rat < y.rat := fun hlt => hb (by simp [Val.below, lt_finite hx hy, hlt])
    exact not_lt.1 hge

/-! ### FMIN, FMAX and FAMAX (08 R175) -/

section select

variable {f : Fmt} {a b : Nat}

theorem fminmax_finite (up : Bool) (ha : (f.decode a).finite = true) (hb : (f.decode b).finite = true) :
    (fminmax f up a b).flags = 0 ∧ ((fminmax f up a b).code = a ∨ (fminmax f up a b).code = b)
      ∧ (f.decode (fminmax f up a b).code).rat = if up then max (f.decode a).rat (f.decode b).rat else min (f.decode a).rat (f.decode b).rat := by
  have hcode : fminmax f up a b = { code := if (if up then (f.decode a).below (f.decode b) else (f.decode b).below (f.decode a)) then b else a, flags := 0 } := by
    unfold fminmax
    simp only [(finite_notNan ha).1, (finite_notNan hb).1, sigFlags_finite (l := [f.decode a, f.decode b]) (by simp [ha, hb]), Bool.false_and, Bool.false_eq_true, if_false]
    cases up <;> rfl
  rw [hcode]
  refine ⟨rfl, (ite_eq_or_eq _ b a).symm, ?_⟩
  cases up with
  | true =>
    have hbelow := below_finite ha hb
    simp only [if_true]
    split
    next h => exact (max_eq_right (by rwa [if_pos h] at hbelow)).symm
    next h => exact (max_eq_left (by rwa [if_neg h] at hbelow)).symm
  | false =>
    have hbelow := below_finite hb ha
    simp only [Bool.false_eq_true, if_false]
    split
    next h => exact (min_eq_right (by rwa [if_pos h] at hbelow)).symm
    next h => exact (min_eq_left (by rwa [if_neg h] at hbelow)).symm

theorem signals_notNan {v : Val} (h : v.isNan = false) : v.signals = false := by
  cases v with
  | nan s => cases h
  | _ => rfl

/-- One NaN: the other operand, or the format's NaN. -/
theorem select_oneNan (up : Bool) {s : Bool} (ha : f.decode a = .nan s) (hb : (f.decode b).isNan = false) :
    fminmax f up a b = { code := b, flags := if s then flInvalid else 0 } ∧ fminmax f up b a = { code := b, flags := if s then flInvalid else 0 }
      ∧ famax f a b = { code := f.nan, flags := if s then flInvalid else 0 } := by
  have hisNan : (Val.nan s).isNan = true := rfl
  have hsignals : (Val.nan s).signals = s := rfl
  have hquiet := signals_notNan hb
  simp [fminmax, famax, sigFlags, ha, hb, hisNan, hsignals, hquiet]

theorem fminmax_twoNans (up : Bool) {s u : Bool} (ha : f.decode a = .nan s) (hb : f.decode b = .nan u) :
    fminmax f up a b = { code := f.nan, flags := if s || u then flInvalid else 0 } := by
  simp [fminmax, sigFlags, ha, hb, Val.isNan, Val.signals]

theorem famax_notNan (ha : (f.decode a).isNan = false) (hb : (f.decode b).isNan = false) : famax f a b = { code := max (a % f.signBit) (b % f.signBit), flags := 0 } := by
  simp [famax, ha, hb]

theorem famax_finite (ha : (f.decode a).finite = true) (hb : (f.decode b).finite = true) :
    (famax f a b).flags = 0 ∧ (f.decode (famax f a b).code).finite = true ∧ (f.decode (famax f a b).code).rat = max |(f.decode a).rat| |(f.decode b).rat| := by
  obtain ⟨hamax, harat⟩ := finite_magnitude ha
  obtain ⟨hbmax, hbrat⟩ := finite_magnitude hb
  have hmax := max_le hamax hbmax
  obtain ⟨m, e, hfin⟩ := decode_magnitude hmax
  rw [famax_notNan (finite_notNan ha).1 (finite_notNan hb).1]
  exact ⟨rfl, by simp [hfin, Val.finite], by rw [decode_rat f hmax, harat, hbrat, (magVal_strictMono f).monotone.map_max]⟩

theorem famax_inf {n : Bool} (ha : f.decode a = .inf n) (hb : (f.decode b).isNan = false) : famax f a b = { code := f.inf false, flags := 0 } ∧ famax f b a = { code := f.inf false, flags := 0 } := by
  obtain ⟨hieee, hcode⟩ := decode_inf ha
  have hle := notNan_magnitude hieee hb
  have hinf : f.inf false = f.maxMag + 1 := by simp [Fmt.inf, Fmt.signed, hieee]
  have hnan : (f.decode a).isNan = false := by rw [ha]; rfl
  rw [famax_notNan hnan hb, famax_notNan hb hnan, hcode, hinf, max_eq_left hle, max_eq_right hle]
  exact ⟨rfl, rfl⟩

end select

/-! ### FSETP and FCLASS (08 R176, R177) -/

theorem fcompare_finite {a b : Nat} (ha : (Fmt.f32.decode a).finite = true) (hb : (Fmt.f32.decode b).finite = true) :
    let x := (Fmt.f32.decode a).rat
    let y := (Fmt.f32.decode b).rat
    (List.range 8).map (fun c => fcompare c a b) = [(decide (x = y), 0), (decide (x ≠ y), 0), (decide (x < y), 0), (decide (x ≤ y), 0), (decide (y < x), 0), (decide (y ≤ x), 0), (false, 0), (true, 0)] := by
  intro x y
  have hlt : (Fmt.f32.decode a).lt (Fmt.f32.decode b) = decide (x < y) := lt_finite ha hb
  have hgt : (Fmt.f32.decode b).lt (Fmt.f32.decode a) = decide (y < x) := lt_finite hb ha
  have hflags : sigFlags [Fmt.f32.decode a, Fmt.f32.decode b] = 0 := sigFlags_finite (by simp [ha, hb])
  have hrange : List.range 8 = [0, 1, 2, 3, 4, 5, 6, 7] := rfl
  simp only [hrange, List.map, fcompare, (finite_notNan ha).1, (finite_notNan hb).1, hlt, hgt, hflags]
  rcases lt_trichotomy x y with h | h | h
  · simp [h, h.ne, h.le, h.not_ge, h.not_gt]
  · simp [h]
  · simp [h, h.ne', h.le, h.not_ge, h.not_gt]

theorem fcompare_nan {a b c : Nat} (hc : c < 8) (ha : (Fmt.f32.decode a).isNan = true) :
    (fcompare c a b).1 = decide (c = 1 ∨ c = 6) ∧ (2 ≤ c ∧ c ≤ 5 → (fcompare c a b).2 = flInvalid)
      ∧ (¬(2 ≤ c ∧ c ≤ 5) → (fcompare c a b).2 = if (Fmt.f32.decode a).signals || (Fmt.f32.decode b).signals then flInvalid else 0) := by
  refine ⟨?_, fun h => ?_, fun h => ?_⟩
  · unfold fcompare
    interval_cases c <;> simp [ha]
  · simp [fcompare, ha, h]
  · simp [fcompare, h, sigFlags]

/-- A finite value is subnormal where its magnitude is below the least normal one. -/
theorem subnormal_iff {f : Fmt} {a : Nat} (h : (f.decode a).finite = true) : a % f.signBit < 2 ^ f.mbits ↔ |(f.decode a).rat| < (2 : ℚ) ^ f.emin := by
  rw [(finite_magnitude h).2, ← magVal_leastNormal, (magVal_strictMono f).lt_iff_lt]

theorem fclass_values {f : Fmt} {a : Nat} :
    (fclass f a = 0x001 ↔ f.decode a = .inf true) ∧ (fclass f a = 0x080 ↔ f.decode a = .inf false) ∧ (fclass f a = 0x100 ↔ f.decode a = .nan true) ∧ (fclass f a = 0x200 ↔ f.decode a = .nan false)
      ∧ ((fclass f a = 0x002 ∨ fclass f a = 0x004) ↔ (f.decode a).finite = true ∧ (f.decode a).rat < 0) ∧ ((fclass f a = 0x020 ∨ fclass f a = 0x040) ↔ (f.decode a).finite = true ∧ 0 < (f.decode a).rat)
      ∧ ((fclass f a = 0x004 ∨ fclass f a = 0x020) ↔ (f.decode a).finite = true ∧ (f.decode a).rat ≠ 0 ∧ |(f.decode a).rat| < (2 : ℚ) ^ f.emin) := by
  unfold fclass
  cases hx : f.decode a with
  | nan s => cases s <;> simp [Val.finite]
  | inf n => cases n <;> simp [Val.finite]
  | fin n m e =>
    have hfin : (Val.fin n m e).finite = true := rfl
    have hsub := subnormal_iff (hx ▸ hfin)
    rw [hx] at hsub
    by_cases hm : m = 0
    · have hzero : (Val.fin n m e).rat = 0 := fin_rat_eq_zero.2 hm
      rw [hzero]
      cases n <;> simp [hm]
    · have hne : (Val.fin n m e).rat ≠ 0 := fin_rat_eq_zero.not.2 hm
      have hsign := fin_rat_neg (neg := n) hm e
      simp only [if_neg hm, hfin, true_and, hne, ne_eq, not_false_eq_true, ← hsub]
      cases n with
      | false =>
        have hpos : 0 < (Val.fin false m e).rat := lt_of_le_of_ne (not_lt.1 (of_decide_eq_false hsign)) hne.symm
        by_cases hlt : a % f.signBit < 2 ^ f.mbits <;> simp [hlt, hpos, hpos.le]
      | true =>
        have hneg : (Val.fin true m e).rat < 0 := of_decide_eq_true hsign
        by_cases hlt : a % f.signBit < 2 ^ f.mbits <;> simp [hlt, hneg, hneg.le]

end Sys2Proof.Proofs

/-! ### Values that are rounded to themselves -/

namespace Sys2Proof.Proofs

open Sys2Proof.Machine Sys2Proof.Laws

/-- A magnitude code's value is a whole number of its own spacing. -/
theorem magVal_atExponent (f : Fmt) (c : Nat) : ∃ (e : Int) (k : Nat), AtExponent f e (magVal f c) ∧ magVal f c = k * spacing f e ∧ c = magCode f e k := by
  obtain ⟨j, k, rfl, hk, hj⟩ := exists_binade f c
  have hval := magVal_binade f hk.le hj
  have hpow (i : Nat) : (2 : ℚ) ^ (f.emin + j + i - f.mbits) = 2 ^ i * (2 : ℚ) ^ (f.emin + j - f.mbits) := by
    rw [← zpow_natCast, ← zpow_add₀ two_ne_zero]
    congr 1
    ring
  refine ⟨f.emin + j, k, ⟨by omega, ?_, hj.imp (fun h => by simp [h]) fun h => ?_⟩, hval, ?_⟩
  · rw [hval, show f.emin + (j : Int) + 1 = f.emin + j + ((f.mbits + 1 : Nat) : Int) - f.mbits by push_cast; ring, hpow]
    exact mul_lt_mul_of_pos_right (by exact_mod_cast hk) (by positivity)
  · have hlead := hpow f.mbits
    rw [add_sub_cancel_right] at hlead
    rw [hval, hlead]
    exact mul_le_mul_of_nonneg_right (by exact_mod_cast h) (by positivity)
  · simp [magCode]

/-- The value of a code of the format is rounded to that code, in every mode and without a flag. -/
theorem roundQ_exact {f : Fmt} {m : Mode} {neg : Bool} {n d c : Nat} (hn : 0 < n) (hd : 0 < d) (hm : ∀ h, m = .rsr h → h < 2 ^ 32) (hc : c ≤ f.maxMag) (hval : (n / d : ℚ) = magVal f c) :
    roundQ f m neg n d = { code := f.signed neg c, flags := 0 } := by
  obtain ⟨e, K, h⟩ := exists_rounds f m neg hn hd
  obtain ⟨e', k, hat, hmul, rfl⟩ := magVal_atExponent f c
  rw [← hval] at hat hmul
  obtain rfl := h.at_.unique hat
  have hkept : kept f e (n / d) = k := by rw [kept, hmul, mul_div_cancel_right₀ _ (spacing_pos f e).ne', Nat.floor_natCast]
  have hexact : discarded f e (n / d) = 0 := discarded_eq_zero_iff.2 (by rw [hkept, ← hmul])
  have hK : K = k := (h.lower (hexact ▸ not_takesUpper_zero hm _)).trans hkept
  subst hK
  rw [roundQ_finite hn hd h hm hc, inexactFlags, if_pos hmul.symm]

theorem roundDy_exact {f : Fmt} {mode : Mode} {neg : Bool} {m c : Nat} {e : Int} (hm : ∀ h, mode = .rsr h → h < 2 ^ 32) (hc : c ≤ f.maxMag) (hval : magVal f c = m * (2 : ℚ) ^ e) :
    roundDy f mode neg m e = { code := f.signed neg c, flags := 0 } := by
  by_cases hzero : m = 0
  · have hc0 : c = 0 := by
      refine (magVal_strictMono f).injective ?_
      rw [hval, hzero]
      simp [magVal]
    simp [roundDy, hzero, hc0]
  · obtain ⟨n, d, hn, hd, habs, hround⟩ := roundDy_once (f := f) (mode := mode) (neg := neg) (e := e) hzero
    rw [hround, fin_rat_neg hzero]
    exact roundQ_exact hn hd hm hc (by rw [habs, fin_rat_abs, hval])

/-- A number of at most the format's precision, between its least normal value and 2^mbits, is the value of a code. -/
theorem exists_magVal {f : Fmt} {m : Nat} {e : Int} (hm : m ≠ 0) (hbits : m < 2 ^ (f.mbits + 1)) (hlow : f.emin ≤ e + Nat.log2 m) (hhigh : e + Nat.log2 m ≤ f.mbits) :
    ∃ c ≤ f.maxMag, magVal f c = m * (2 : ℚ) ^ e := by
  have hlog : Nat.log2 m ≤ f.mbits := Nat.lt_succ_iff.1 ((Nat.log2_lt hm).2 hbits)
  have hlead : 2 ^ f.mbits ≤ m * 2 ^ (f.mbits - Nat.log2 m) := calc
    2 ^ f.mbits = 2 ^ Nat.log2 m * 2 ^ (f.mbits - Nat.log2 m) := by rw [← pow_add, Nat.add_sub_cancel' hlog]
    _ ≤ m * 2 ^ (f.mbits - Nat.log2 m) := Nat.mul_le_mul_right _ (Nat.log2_self_le hm)
  have htop : m * 2 ^ (f.mbits - Nat.log2 m) < 2 ^ (f.mbits + 1) := calc
    m * 2 ^ (f.mbits - Nat.log2 m) < 2 ^ (Nat.log2 m + 1) * 2 ^ (f.mbits - Nat.log2 m) := Nat.mul_lt_mul_of_pos_right Nat.lt_log2_self (by positivity)
    _ = 2 ^ (f.mbits + 1) := by rw [← pow_add]; congr 1; omega
  obtain ⟨j, hj⟩ : ∃ j : Nat, e + Nat.log2 m = f.emin + j := ⟨(e + Nat.log2 m - f.emin).toNat, by omega⟩
  refine ⟨j * 2 ^ f.mbits + m * 2 ^ (f.mbits - Nat.log2 m), ?_, ?_⟩
  · have hroom : (f.mbits - f.emin).toNat * 2 ^ f.mbits + 2 ^ (f.mbits + 1) ≤ f.maxMag + 1 := by cases f <;> decide
    have hbinade : j * 2 ^ f.mbits ≤ (f.mbits - f.emin).toNat * 2 ^ f.mbits := Nat.mul_le_mul_right _ (by omega)
    omega
  · rw [magVal_binade f htop.le (.inr hlead), Nat.cast_mul, Nat.cast_pow, Nat.cast_ofNat, mul_assoc, ← zpow_natCast, ← zpow_add₀ two_ne_zero]
    congr 2
    omega

/-! ### FRND (08 R177) -/

/-- The integer a magnitude rounds to, by the mode's rule at spacing 1. -/
theorem toIntegral_eq {m : Mode} {neg : Bool} {mant : Nat} {e : Int} {y : ℚ} (hm : ∀ h, m = .rsr h → h < 2 ^ 32) (hy : y = mant * (2 : ℚ) ^ e) :
    (TakesUpper m neg ⌊y⌋₊ (y - ⌊y⌋₊) → (toIntegral m neg mant e).1 = ⌊y⌋₊ + 1) ∧ (¬TakesUpper m neg ⌊y⌋₊ (y - ⌊y⌋₊) → (toIntegral m neg mant e).1 = ⌊y⌋₊) := by
  unfold toIntegral
  split
  next he =>
    lift e to Nat using he
    have hwhole : y = (mant <<< e : Nat) := by
      rw [hy, Nat.shiftLeft_eq]
      push_cast
      rw [zpow_natCast]
    rw [hwhole, Nat.floor_natCast, sub_self, Int.toNat_natCast]
    exact ⟨fun hup => absurd hup (not_takesUpper_zero hm _), fun _ => rfl⟩
  next he =>
    obtain ⟨k, rfl⟩ : ∃ k : Nat, e = -k := ⟨(-e).toNat, by omega⟩
    have hden : 0 < 1 <<< k := by
      rw [Nat.shiftLeft_eq]
      positivity
    have hquot : y = (mant : ℚ) / (1 <<< k : Nat) := by
      rw [hy, Nat.shiftLeft_eq, zpow_neg, zpow_natCast, ← div_eq_mul_inv]
      push_cast
      rw [one_mul]
    have hfloor : ⌊y⌋₊ = mant / 1 <<< k := by rw [hquot, Nat.floor_div_eq_div]
    have hrest : y - ⌊y⌋₊ = ((mant % 1 <<< k : Nat) : ℚ) / (1 <<< k : Nat) := by
      have hdenq : ((1 <<< k : Nat) : ℚ) ≠ 0 := by exact_mod_cast hden.ne'
      rw [hfloor, hquot, sub_eq_iff_eq_add, div_add' _ _ _ hdenq]
      congr 1
      exact_mod_cast (Nat.mod_add_div' mant _).symm
    rw [neg_neg, Int.toNat_natCast, hrest, hfloor, ← roundsUp_iff hden]
    exact ⟨fun hup => if_pos hup, fun hdown => if_neg hdown⟩

section integral

variable {neg : Bool} {mant : Nat} {e : Int} {y : ℚ} {m : Mode}

theorem toIntegral_floor (hy : y = mant * (2 : ℚ) ^ e) (hm : m = .rtz ∨ m = .rdn ∧ neg = false ∨ m = .rup ∧ neg = true) : (toIntegral m neg mant e).1 = ⌊y⌋₊ := by
  refine (toIntegral_eq (by rcases hm with rfl | ⟨rfl, -⟩ | ⟨rfl, -⟩ <;> simp) hy).2 ?_
  rcases hm with rfl | ⟨rfl, rfl⟩ | ⟨rfl, rfl⟩ <;> simp [TakesUpper]

theorem toIntegral_ceil (hy : y = mant * (2 : ℚ) ^ e) (hm : m = .rdn ∧ neg = true ∨ m = .rup ∧ neg = false) : (toIntegral m neg mant e).1 = ⌈y⌉₊ := by
  obtain ⟨hup, hdown⟩ := toIntegral_eq (m := m) (neg := neg) (by rcases hm with ⟨rfl, -⟩ | ⟨rfl, -⟩ <;> simp) hy
  have hupper : TakesUpper m neg ⌊y⌋₊ (y - ⌊y⌋₊) ↔ y - ⌊y⌋₊ ≠ 0 := by rcases hm with ⟨rfl, rfl⟩ | ⟨rfl, rfl⟩ <;> simp [TakesUpper]
  have hnonneg : 0 ≤ y := hy ▸ by positivity
  rw [hupper] at hup hdown
  by_cases hrest : y - ⌊y⌋₊ = 0
  · rw [hdown (not_not.2 hrest)]
    conv_rhs => rw [sub_eq_zero.1 hrest]
    rw [Nat.ceil_natCast]
  · rw [hup hrest]
    refine ((Nat.ceil_eq_iff (Nat.succ_ne_zero _)).2 ⟨?_, (Nat.lt_floor_add_one y).le.trans_eq (Nat.cast_succ _).symm⟩).symm
    exact lt_of_le_of_ne (Nat.floor_le hnonneg) fun heq => hrest (by rw [← heq]; simp)

/-- To nearest: at most half away, and even where it is half. -/
theorem toIntegral_nearest (hy : y = mant * (2 : ℚ) ^ e) : |(toIntegral .rne neg mant e).1 - y| ≤ 1 / 2 ∧ (|(toIntegral .rne neg mant e).1 - y| = 1 / 2 → (toIntegral .rne neg mant e).1 % 2 = 0) := by
  obtain ⟨hup, hdown⟩ := toIntegral_eq (m := .rne) (neg := neg) (by simp) hy
  have hlow := Nat.floor_le (show 0 ≤ y from hy ▸ by positivity)
  have hhigh := Nat.lt_floor_add_one y
  by_cases hupper : TakesUpper .rne neg ⌊y⌋₊ (y - ⌊y⌋₊)
  · rw [hup hupper, Nat.cast_succ, abs_of_nonneg (by linarith)]
    rcases hupper with hover | ⟨htie, hodd⟩
    · exact ⟨by linarith, fun heq => by linarith⟩
    · exact ⟨by linarith, fun _ => by omega⟩
  · have hhalf : y - ⌊y⌋₊ ≤ 1 / 2 := not_lt.1 fun hover => hupper (.inl hover)
    rw [hdown hupper, abs_of_nonpos (by linarith), neg_sub]
    refine ⟨hhalf, fun htie => ?_⟩
    have hodd : ¬⌊y⌋₊ % 2 = 1 := fun hodd => hupper (.inr ⟨htie, hodd⟩)
    omega

/-- The integral value is the value of a code: a value with no fraction is its own, another has a bit to spare. -/
theorem toIntegral_magVal {f : Fmt} {a : Nat} (hx : f.decode a = .fin neg mant e) : ∃ c ≤ f.maxMag, magVal f c = (toIntegral m neg mant e).1 := by
  obtain ⟨hmax, habs⟩ := finite_magnitude (show (f.decode a).finite = true by rw [hx]; rfl)
  rw [hx, fin_rat_abs] at habs
  unfold toIntegral
  split
  next he =>
    refine ⟨_, hmax, ?_⟩
    lift e to Nat using he
    rw [← habs, Nat.shiftLeft_eq, Int.toNat_natCast, zpow_natCast]
    push_cast
    rfl
  next he =>
    have hk : mant / 1 <<< (-e).toNat < 2 ^ f.mbits := by
      have hbits := (decode_fin_fields hx).1
      have htwo : 2 ≤ 1 <<< (-e).toNat := by
        rw [Nat.shiftLeft_eq, one_mul]
        exact Nat.le_self_pow (by omega) 2
      exact (Nat.div_le_div_left htwo two_pos).trans_lt (Nat.div_lt_of_lt_mul (by rwa [← pow_succ']))
    dsimp only
    generalize mant / 1 <<< (-e).toNat = k at hk
    generalize roundsUp m neg k _ _ = up
    have hle : (if up = true then k + 1 else k) ≤ 2 ^ f.mbits := by split <;> omega
    generalize (if up = true then k + 1 else k) = K at hle
    by_cases hK : K = 0
    · exact ⟨0, Nat.zero_le _, by simp [hK, magVal]⟩
    · have hbits : K < 2 ^ (f.mbits + 1) := hle.trans_lt (Nat.pow_lt_pow_right one_lt_two (Nat.lt_succ_self _))
      have hlog : Nat.log2 K ≤ f.mbits := Nat.lt_succ_iff.1 ((Nat.log2_lt hK).2 hbits)
      have hemin : f.emin ≤ 0 := by cases f <;> decide
      obtain ⟨c, hc, hval⟩ := exists_magVal (f := f) (e := 0) hK hbits (by omega) (by omega)
      exact ⟨c, hc, by rw [hval, zpow_zero, mul_one]⟩

end integral

section frnd

variable {f : Fmt} {m : Mode} {a mant : Nat} {neg : Bool} {e : Int}

/-- FRND of a finite value keeps the sign and takes the integral magnitude, with no flag. -/
theorem frnd_fin (hieee : f.ieee = true) (hx : f.decode a = .fin neg mant e) :
    (frnd f m a).flags = 0 ∧ (∃ k j, f.decode (frnd f m a).code = .fin neg k j) ∧ (f.decode (frnd f m a).code).rat = if neg then -((toIntegral m neg mant e).1 : ℚ) else (toIntegral m neg mant e).1 := by
  obtain ⟨c, hc, hval⟩ := toIntegral_magVal (m := m) hx
  have hround : frnd f m a = { code := f.signed neg c, flags := 0 } := by
    unfold frnd
    rw [hx]
    simp only [roundDy_exact (f := f) (mode := .rne) (neg := neg) (e := 0) (by simp) hc (by rw [hval, zpow_zero, mul_one])]
  rw [hround, ← hval]
  exact ⟨rfl, decode_signed hieee neg hc, decode_signed_rat f neg hc⟩

theorem frnd_finite (hieee : f.ieee = true) (hfin : (f.decode a).finite = true) :
    (frnd f m a).flags = 0 ∧ (f.decode (frnd f m a).code).finite = true ∧ (f.decode (frnd f m a).code).neg = (f.decode a).neg
      ∧ (m = .rdn → (f.decode (frnd f m a).code).rat = ⌊(f.decode a).rat⌋) ∧ (m = .rup → (f.decode (frnd f m a).code).rat = ⌈(f.decode a).rat⌉)
      ∧ (m = .rtz → (f.decode (frnd f m a).code).rat = if (f.decode a).rat < 0 then (⌈(f.decode a).rat⌉ : ℚ) else (⌊(f.decode a).rat⌋ : ℚ))
      ∧ (m = .rne → ∃ z : Int, (f.decode (frnd f m a).code).rat = z ∧ |(f.decode (frnd f m a).code).rat - (f.decode a).rat| ≤ 1 / 2 ∧ (|(f.decode (frnd f m a).code).rat - (f.decode a).rat| = 1 / 2 → z % 2 = 0)) := by
  obtain ⟨neg, mant, e, hx⟩ := exists_fin hfin
  obtain ⟨hflags, ⟨k, j, hdecode⟩, hrat⟩ := frnd_fin (m := m) hieee hx
  refine ⟨hflags, by rw [hdecode]; rfl, by rw [hdecode, hx]; rfl, ?_⟩
  rw [hrat, hx, fin_rat]
  obtain ⟨y, hy⟩ : ∃ y : ℚ, y = mant * (2 : ℚ) ^ e := ⟨_, rfl⟩
  have hnonneg : 0 ≤ y := hy ▸ by positivity
  have hfloor : ((⌊y⌋₊ : Nat) : ℚ) = ⌊y⌋ := natCast_floor_eq_intCast_floor hnonneg
  have hceil : ((⌈y⌉₊ : Nat) : ℚ) = ⌈y⌉ := natCast_ceil_eq_intCast_ceil hnonneg
  rw [mul_assoc, ← hy]
  cases neg with
  | false =>
    rw [if_neg Bool.false_ne_true, if_neg Bool.false_ne_true, one_mul]
    refine ⟨fun hm => ?_, fun hm => ?_, fun hm => ?_, fun hm => ?_⟩
    · rw [toIntegral_floor hy (.inr (.inl ⟨hm, rfl⟩)), hfloor]
    · rw [toIntegral_ceil hy (.inr ⟨hm, rfl⟩), hceil]
    · rw [toIntegral_floor hy (.inl hm), hfloor, if_neg (not_lt.2 hnonneg)]
    · obtain ⟨hnear, heven⟩ := toIntegral_nearest (neg := false) hy
      exact ⟨_, by rw [hm, Int.cast_natCast], hm ▸ hnear, fun htie => by have := heven (hm ▸ htie); omega⟩
  | true =>
    rw [if_pos rfl, if_pos rfl, neg_one_mul]
    refine ⟨fun hm => ?_, fun hm => ?_, fun hm => ?_, fun hm => ?_⟩
    · rw [toIntegral_ceil hy (.inl ⟨hm, rfl⟩), hceil, Int.floor_neg, Int.cast_neg]
    · rw [toIntegral_floor hy (.inr (.inr ⟨hm, rfl⟩)), hfloor, Int.ceil_neg, Int.cast_neg]
    · rw [toIntegral_floor hy (.inl hm), hfloor, Int.ceil_neg, Int.cast_neg]
      split
      next => rfl
      next hge =>
        have hzero : y = 0 := by linarith
        simp [hzero]
    · obtain ⟨hnear, heven⟩ := toIntegral_nearest (neg := true) hy
      rw [hm, neg_sub_neg, abs_sub_comm]
      exact ⟨-((toIntegral .rne true mant e).1 : Int), by push_cast; rfl, hnear, fun htie => by have := heven htie; omega⟩

theorem frnd_nan {s : Bool} (h : f.decode a = .nan s) : frnd f m a = { code := f.nan, flags := if s then flInvalid else 0 } := by
  unfold frnd
  rw [h]
  rfl

theorem frnd_inf (hieee : f.ieee = true) {n : Bool} (h : f.decode a = .inf n) : f.decode (frnd f m a).code = .inf n ∧ (frnd f m a).flags = 0 := by
  have hround : frnd f m a = { code := f.inf n, flags := 0 } := by
    unfold frnd
    rw [h]
  rw [hround]
  refine ⟨?_, rfl⟩
  clear h hround
  cases f with
  | f32 | bf16 | f16 => cases n <;> decide
  | _ => cases hieee

end frnd

/-! ### FFREXP (08 R177) -/

theorem ffrexp_finite {a : Nat} (hfin : (Fmt.f32.decode a).finite = true) (hne : (Fmt.f32.decode a).rat ≠ 0) :
    (ffrexp a false).flags = 0 ∧ (ffrexp a true).flags = 0 ∧ 1 / 2 ≤ |(Fmt.f32.decode (ffrexp a false).code).rat| ∧ |(Fmt.f32.decode (ffrexp a false).code).rat| < 1
      ∧ (Fmt.f32.decode a).rat = (Fmt.f32.decode (ffrexp a false).code).rat * (2 : ℚ) ^ (BitVec.ofNat 32 (ffrexp a true).code).toInt := by
  obtain ⟨neg, m, e, hx⟩ := exists_fin hfin
  rw [hx] at hne
  have hm := fin_rat_eq_zero.not.1 hne
  obtain ⟨hbits, hleast, hmost⟩ := decode_fin_fields hx
  have hlog : Nat.log2 m ≤ 23 := Nat.lt_succ_iff.1 ((Nat.log2_lt hm).2 hbits)
  have hfraction : (ffrexp a false) = { code := (roundDy .f32 .rne neg m (-(Nat.log2 m + 1))).code, flags := 0 } := by
    unfold ffrexp
    rw [hx]
    simp [hm]
  have hexponent : (ffrexp a true) = { code := (BitVec.ofInt 32 (e + Nat.log2 m + 1)).toNat, flags := 0 } := by
    unfold ffrexp
    rw [hx]
    simp [hm]
  obtain ⟨c, hc, hval⟩ := exists_magVal (f := .f32) (e := -(Nat.log2 m + 1)) hm hbits (by rw [show Fmt.f32.emin = -126 from rfl]; omega) (by omega)
  have hrat : (Fmt.f32.decode (ffrexp a false).code).rat = (Val.fin neg m (-(Nat.log2 m + 1))).rat := by
    rw [hfraction, roundDy_exact (by simp) hc hval, decode_signed_rat .f32 neg hc, hval, fin_rat]
    cases neg <;> simp
  have hpow (k : Nat) : (2 : ℚ) ^ (-((Nat.log2 m : Int) + 1)) * 2 ^ (Nat.log2 m + k) = (2 : ℚ) ^ ((k : Int) - 1) := by
    rw [← zpow_natCast, ← zpow_add₀ two_ne_zero]
    congr 1
    push_cast
    ring
  have hlow : (2 : ℚ) ^ Nat.log2 m ≤ m := by exact_mod_cast Nat.log2_self_le hm
  have hhigh : (m : ℚ) < 2 ^ (Nat.log2 m + 1) := by exact_mod_cast Nat.lt_log2_self
  have hint : (BitVec.ofNat 32 (ffrexp a true).code).toInt = e + Nat.log2 m + 1 := by
    rw [show Fmt.f32.emin - Fmt.f32.mbits = -149 from rfl] at hleast hmost
    rw [show (2 : Int) ^ (Fmt.f32.width - 1 - Fmt.f32.mbits) = 256 from rfl] at hmost
    rw [hexponent, BitVec.ofNat_toNat, BitVec.setWidth_eq, BitVec.toInt_ofInt]
    exact Int.bmod_eq_of_le (by omega) (by omega)
  rw [hrat, fin_rat_abs, hint, hx]
  refine ⟨by rw [hfraction], by rw [hexponent], ?_, ?_, ?_⟩
  · calc (1 / 2 : ℚ) = (2 : ℚ) ^ (-((Nat.log2 m : Int) + 1)) * 2 ^ (Nat.log2 m + 0) := by rw [hpow]; norm_num
      _ ≤ m * (2 : ℚ) ^ (-((Nat.log2 m : Int) + 1)) := by rw [mul_comm]; exact mul_le_mul_of_nonneg_right hlow (by positivity)
  · calc m * (2 : ℚ) ^ (-((Nat.log2 m : Int) + 1)) < (2 : ℚ) ^ (-((Nat.log2 m : Int) + 1)) * 2 ^ (Nat.log2 m + 1) := by rw [mul_comm]; exact mul_lt_mul_of_pos_left hhigh (by positivity)
      _ = 1 := by rw [hpow]; norm_num
  · rw [fin_rat, fin_rat, mul_assoc _ ((2 : ℚ) ^ _), ← zpow_add₀ two_ne_zero]
    congr 2
    ring

theorem ffrexp_zeroOrInf {a : Nat} (h : ((Fmt.f32.decode a).isZero || (Fmt.f32.decode a).isInf) = true) : ffrexp a false = { code := a, flags := 0 } ∧ ffrexp a true = { code := 0, flags := 0 } := by
  unfold ffrexp
  cases hx : Fmt.f32.decode a with
  | nan s => simp [hx, Val.isZero, Val.isInf] at h
  | inf n => exact ⟨rfl, rfl⟩
  | fin n m e =>
    have hm : m = 0 := by simpa [hx, Val.isZero, Val.isInf] using h
    simp [hm]

theorem ffrexp_nan {a : Nat} {s : Bool} (h : Fmt.f32.decode a = .nan s) :
    ffrexp a false = { code := Fmt.f32.nan, flags := if s then flInvalid else 0 } ∧ ffrexp a true = { code := 0, flags := if s then flInvalid else 0 } := by
  unfold ffrexp
  rw [h]
  exact ⟨rfl, rfl⟩

end Sys2Proof.Proofs

/-! ### Special values of the special functions (08 R178) -/

namespace Sys2Proof.Proofs

open Sys2Proof.Machine Sys2Proof.Laws

/-- The eight functions, in the order of R178's table. -/
def specialFunctions : List (Word → FRes) := [sfuRcp, sfuRsq, sfuExp2, sfuLog2, sfuSin, sfuCos, sfuTanh, sfuSigm]

section special

variable {a : Word}

theorem specialFunctions_inf {n : Bool} (h : Fmt.f32.decode a.toNat = .inf n) : specialFunctions.map (fun f => f a) =
    [{ code := Fmt.f32.signed n 0, flags := 0 }, if n then FRes.invalid .f32 else { code := 0, flags := 0 }, { code := if n then 0 else Fmt.f32.inf false, flags := 0 },
      if n then FRes.invalid .f32 else { code := Fmt.f32.inf false, flags := 0 }, FRes.invalid .f32, FRes.invalid .f32, { code := Fmt.f32.signed n 0x3F800000, flags := 0 },
      { code := if n then 0 else 0x3F800000, flags := 0 }] := by
  simp only [specialFunctions, List.map, sfuRcp, sfuRsq, sfuExp2, sfuLog2, sfuSin, sfuCos, sfuTanh, sfuSigm, h]

theorem specialFunctions_zero {n : Bool} {e : Int} (h : Fmt.f32.decode a.toNat = .fin n 0 e) : specialFunctions.map (fun f => f a) =
    [{ code := Fmt.f32.inf n, flags := flDivzero }, { code := Fmt.f32.inf n, flags := flDivzero }, { code := 0x3F800000, flags := 0 }, { code := Fmt.f32.inf true, flags := flDivzero },
      { code := a.toNat, flags := 0 }, { code := 0x3F800000, flags := 0 }, { code := a.toNat, flags := 0 }, { code := 0x3F000000, flags := 0 }] := by
  simp only [specialFunctions, List.map, sfuRcp, sfuRsq, sfuExp2, sfuLog2, sfuSin, sfuCos, sfuTanh, sfuSigm, h, if_true]

theorem specialFunctions_nan {s : Bool} (h : Fmt.f32.decode a.toNat = .nan s) : ∀ f ∈ specialFunctions, f a = { code := 0x7FC00000, flags := if s then flInvalid else 0 } := by
  have hall : specialFunctions.map (fun f => f a) = List.replicate 8 (FRes.nan .f32 s) := by
    simp only [specialFunctions, List.map, sfuRcp, sfuRsq, sfuExp2, sfuLog2, sfuSin, sfuCos, sfuTanh, sfuSigm, h]
    rfl
  intro f hf
  exact List.eq_of_mem_replicate (hall ▸ List.mem_map_of_mem hf)

/-- FRSQ and FLOG2 have no value of a negative operand. -/
theorem sfu_negative {m : Nat} {e : Int} (h : Fmt.f32.decode a.toNat = .fin true m e) (hm : m ≠ 0) : sfuRsq a = FRes.invalid .f32 ∧ sfuLog2 a = FRes.invalid .f32 := by
  simp only [sfuRsq, sfuLog2, h, if_neg hm, if_true, and_self]

end special

theorem decode_specials : Fmt.f32.decode (0xFF800000 : Word).toNat = .inf true ∧ Fmt.f32.decode (0x7F800000 : Word).toNat = .inf false
    ∧ Fmt.f32.decode (0x80000000 : Word).toNat = .fin true 0 (-149) ∧ Fmt.f32.decode (0 : Word).toNat = .fin false 0 (-149) := by
  decide

/-- Settles O6: codes and values of magnitudes rise together, finite values are ordered as their rationals, an integral value or a fraction of at most the format's precision is rounded to itself, and the special values are read from each function's first branches. -/
theorem floatValues : Obligations.FloatValues := by
  obtain ⟨hminusInf, hinf, hminusZero, hzero⟩ := decode_specials
  refine ⟨⟨fun f up a b => fminmax_finite up, fun f up a b s => select_oneNan up, fun f a b => famax_finite, fun f a b n => famax_inf, fun f m a hieee => ?_, fun a => ?_,
    fun f up a b s u => fminmax_twoNans up, fun a b => fcompare_finite, fun a b c => fcompare_nan, fun f a _ => fclass_values⟩, ?_, ?_, ?_, ?_, fun a s => specialFunctions_nan, fun a m e => sfu_negative⟩
  · exact ⟨fun s => frnd_nan, fun n => frnd_inf hieee, fun hfin _ => frnd_finite hieee hfin⟩
  · exact ⟨ffrexp_finite, ffrexp_zeroOrInf, fun s => ffrexp_nan⟩
  · exact specialFunctions_inf hminusInf
  · exact specialFunctions_zero hminusZero
  · exact specialFunctions_zero hzero
  · exact specialFunctions_inf hinf

end Sys2Proof.Proofs
